-- ==== Sys2Proof/Word.lean ====
section
/-! DEFINITION. The words of the machine and their plainest arithmetic (spec/00_scope.md R3, R7). -/

namespace Sys2Proof

/-- A 64-bit word: instruction words, scalar registers, virtual addresses. -/
abbrev Word := BitVec 64

/-- A byte of memory. -/
abbrev Byte := BitVec 8

/-- The low `w` bits of an integer, as R7 has an assignment keep them. -/
def Word.keep (w : Nat) (x : Int) : BitVec w := BitVec.ofInt w x

/-- `2^n`. -/
def pow2 (n : Nat) : Nat := 2 ^ n

/-- The least of `x` clamped to `lo` and `hi` (R7). -/
def clampNat (x lo hi : Nat) : Nat := max lo (min x hi)

/-- `clamp` on integers (R7). -/
def clampInt (x lo hi : Int) : Int := max lo (min x hi)

/-- `ceil(a / b)` for `b > 0`. -/
def ceilDiv (a b : Nat) : Nat := (a + b - 1) / b

end Sys2Proof
end

