-- ==== Sys2Proof/Config.lean ====
section
/-! DEFINITION. What one implementation fixes (spec/01_device.md R14, R15) and the free values: constants with no body, of which nothing can be proved but what holds for every value. -/

namespace Sys2Proof.Config

/-- Dies of a package (R14). -/
def dies : Nat := 8
/-- Enabled cores of a die (R14, R23). -/
def coresPerDie : Nat := 80
/-- Strands of a core (R14). -/
def strandsPerCore : Nat := 4
/-- Memory channels of a die (R15). -/
def channels : Nat := 16
/-- Entries of a strand's vector queue, and of each hold bank (R50, R59). -/
def queueDepth : Nat := 64
/-- Entries of the watch table of one slice (R24, R61). -/
def watchEntries : Nat := 8192
/-- Lines of a core's scalar L1: 32 KiB of 64-byte lines (R15, R125). -/
def l1Lines : Nat := 512
/-- Lines of a core's L1 instruction cache: 64 KiB, held here as 64-byte lines (R15). -/
def icacheLines : Nat := 1024
/-- Lines of a strand's VMU prefetch buffer (17_vecmem.md, state table). -/
def prefetchLines : Nat := 64

/-- FREE VALUE (log entry 4). Which of the waiting same-address elements of a VAMO or VCAS is applied next:
R158 leaves that order open. The first argument is the model's free-value counter, the second the number still waiting. -/
opaque freeOrder : Nat → Nat → Nat

/-- FREE VALUE (log entry 7). The set of a sector in the memory-side cache (R134): the spec gives no index function. -/
opaque mscSet : Nat → Nat

/-- FREE VALUE (log entry 20). Whether a signature over a digest verifies under a public key (R382): the spec gives no key. -/
opaque signatureValid : List Byte → List Byte → List Byte → Bool

/-- FREE VALUE (log entry 20). The SHAKE256 digest of some bytes (R383), 64 bytes long in the spec's words. -/
opaque shake256 : List Byte → List Byte

/-- FREE VALUE (log entry 20). The bytes of the ROM (R382, R383). -/
opaque rom : List Byte

/-- FREE VALUE (log entry 20). The secret fused in a package, by its number (R384). -/
opaque fusedSecret : Nat → List Byte

/-- FREE VALUE (log entry 20). An ML-DSA-65 signature over some bytes by the identity key that a fused secret gives (R384). -/
opaque sign : List Byte → List Byte → List Byte

/-- FREE VALUE (log entry 20). The ML-KEM-768 ciphertext that answers a key exchange (R384): the counter of free values, the requester's key. -/
opaque encapsulate : Nat → List Byte → List Byte

/-- FREE VALUE (log entry 20). The secret that the same encapsulation establishes (R384). -/
opaque sharedSecret : Nat → List Byte → List Byte

/-- FREE VALUE (log entry 20). The certificate of the identity key that a fused secret gives (R384). -/
opaque certificate : List Byte → List Byte

/-- FREE VALUE (log entry 22). How many records the error log of a package holds (R393): the spec gives no size. -/
opaque logRecords : Nat

/-- FREE VALUE (log entry 70). The packet buffers of one class in a gateway, beyond the two that R372's entry rule needs. -/
opaque spareBuffers : Nat

/-- Packet buffers of one class in a gateway (R372). -/
def gatewayBuffers : Nat := spareBuffers + 2

end Sys2Proof.Config
end

