-- ==== Sys2Proof/Syntax.lean ====
section
/-! DEFINITION. The instructions and events of the table of operations: one constructor of Instr per row of spec/opcode_table.json.
Word forms follow spec/11_encoding.md R177 to R192. -/

namespace Sys2Proof

/-- Operand B of a full instruction (R180, R182, R188, R189): the kinds of BK, and the L-form, which is the literal form in one word. -/
inductive OperandB where
  /-- BK = 00: a register number, and the I19 modifier field. -/
  | reg (r : BitVec 6) (i19 : BitVec 19)
  /-- BK = 01: imm25. -/
  | imm (x : BitVec 25)
  /-- BK = 10: an index into the constant bank. -/
  | kbank (i : BitVec 8)
  /-- BK = 11: the value of the literal word that follows. -/
  | lit (x : BitVec 32)
  /-- The L-form: imm32 of the same word, used as a literal (R189). -/
  | limm (x : BitVec 32)
deriving DecidableEq, Repr

/-- The fields of a full instruction (R179, R188): D, A, C, T, M and operand B. -/
structure Ops where
  d : BitVec 6
  a : BitVec 6
  c : BitVec 6
  t : BitVec 4
  m : BitVec 3
  b : OperandB
deriving DecidableEq, Repr

/-- The short operations of a P-form slot (R191). -/
inductive SlotOp where
  | add | sub | and | or | xor | shl | shr | sar | mov | mul | min | max
  | faddF32 | fmulF32 | faddF64 | fmulF64
  | vaddS32 | vaddS64 | vsubS32 | vand | vor | vxor | vmov
  | vfaddF32 | vfmulF32 | vfaddF64 | vfmulF64 | vfaddBf16 | vlmulL8 | vshlS32
deriving DecidableEq, Repr

/-- The source of a slot (R190): a register, or imm15. -/
inductive SlotSrc where
  | reg (r : BitVec 6)
  | imm (x : BitVec 15)
deriving DecidableEq, Repr

/-- One slot of a P-form word (R190): `D := D op source`. -/
structure Slot where
  op  : SlotOp
  d   : BitVec 6
  src : SlotSrc
deriving DecidableEq, Repr

/-- The rows of spec/opcode_table.json. Instructions carry their fields. An event carries nothing: what it
names stands in the field `arg` of the state, and an event that concerns one strand acts on the strand whose turn it is. -/
inductive Instr where
  /-- ADD (R218). -/
  | add (o : Ops)
  /-- SUB (R218). -/
  | sub (o : Ops)
  /-- MUL (R218). -/
  | mul (o : Ops)
  /-- MULH (R218). -/
  | mulh (o : Ops)
  /-- DIV (R218). -/
  | div (o : Ops)
  /-- REM (R218). -/
  | rem (o : Ops)
  /-- AND (R218). -/
  | and (o : Ops)
  /-- OR (R218). -/
  | or (o : Ops)
  /-- XOR (R218). -/
  | xor (o : Ops)
  /-- ANDN (R218). -/
  | andn (o : Ops)
  /-- SHL (R218). -/
  | shl (o : Ops)
  /-- SHR (R218). -/
  | shr (o : Ops)
  /-- SAR (R218). -/
  | sar (o : Ops)
  /-- ROL (R218). -/
  | rol (o : Ops)
  /-- MIN (R218). -/
  | min (o : Ops)
  /-- MAX (R218). -/
  | max (o : Ops)
  /-- CMP (R218). -/
  | cmp (o : Ops)
  /-- SEL (R218). -/
  | sel (o : Ops)
  /-- CLZ (R218). -/
  | clz (o : Ops)
  /-- CTZ (R218). -/
  | ctz (o : Ops)
  /-- POPC (R218). -/
  | popc (o : Ops)
  /-- EXT (R218). -/
  | ext (o : Ops)
  /-- ADDSH (R218). -/
  | addsh (o : Ops)
  /-- BFX (R219). -/
  | bfx (o : Ops)
  /-- BFI (R219). -/
  | bfi (o : Ops)
  /-- LI (R218). -/
  | li (o : Ops)
  /-- LIH (R218). -/
  | lih (o : Ops)
  /-- MOV (R218). -/
  | mov (o : Ops)
  /-- ABS (R218). -/
  | abs (o : Ops)
  /-- MADD (R218). -/
  | madd (o : Ops)
  /-- FADD (R220). -/
  | fadd (o : Ops)
  /-- FSUB (R220). -/
  | fsub (o : Ops)
  /-- FMUL (R220). -/
  | fmul (o : Ops)
  /-- FFMA (R220). -/
  | ffma (o : Ops)
  /-- FDIV (R220). -/
  | fdiv (o : Ops)
  /-- FSQRT (R220). -/
  | fsqrt (o : Ops)
  /-- FMIN (R220). -/
  | fmin (o : Ops)
  /-- FMAX (R220). -/
  | fmax (o : Ops)
  /-- FCMP (R220). -/
  | fcmp (o : Ops)
  /-- FCVT (R221). -/
  | fcvt (o : Ops)
  /-- FCVTI (R221). -/
  | fcvti (o : Ops)
  /-- ICVTF (R221). -/
  | icvtf (o : Ops)
  /-- FABS (R220). -/
  | fabs (o : Ops)
  /-- FNEG (R220). -/
  | fneg (o : Ops)
  /-- FCLASS (R222). -/
  | fclass (o : Ops)
  /-- FABN (R222). -/
  | fabn (o : Ops)
  /-- BR (R223). -/
  | br (o : Ops)
  /-- BCC (R223). -/
  | bcc (o : Ops)
  /-- BZ (R223). -/
  | bz (o : Ops)
  /-- BNZ (R223). -/
  | bnz (o : Ops)
  /-- BMANY (R224). -/
  | bmany (o : Ops)
  /-- BMALL (R224). -/
  | bmall (o : Ops)
  /-- BMNONE (R224). -/
  | bmnone (o : Ops)
  /-- CALL (R225). -/
  | call (o : Ops)
  /-- CALLR (R225). -/
  | callr (o : Ops)
  /-- JR (R225). -/
  | jr (o : Ops)
  /-- GATE (R228). -/
  | gate (o : Ops)
  /-- LOOPD (R223). -/
  | loopd (o : Ops)
  /-- LD (R254). -/
  | ld (o : Ops)
  /-- ST (R254). -/
  | st (o : Ops)
  /-- LDX (R254). -/
  | ldx (o : Ops)
  /-- STX (R254). -/
  | stx (o : Ops)
  /-- LDK (R254). -/
  | ldk (o : Ops)
  /-- PREF (R255). -/
  | pref (o : Ops)
  /-- AMO (R256). -/
  | amo (o : Ops)
  /-- CAS (R257). -/
  | cas (o : Ops)
  /-- CAS2 (R258). -/
  | cas2 (o : Ops)
  /-- LDACQ (R254). -/
  | ldacq (o : Ops)
  /-- STREL (R254). -/
  | strel (o : Ops)
  /-- ACQ (R161). -/
  | acq (o : Ops)
  /-- REL (R160). -/
  | rel (o : Ops)
  /-- BIND (R159). -/
  | bind (o : Ops)
  /-- UNBIND (R259). -/
  | unbind (o : Ops)
  /-- FENCE (R156). -/
  | fence (o : Ops)
  /-- MFSR (R348). -/
  | mfsr (o : Ops)
  /-- MTSR (R348). -/
  | mtsr (o : Ops)
  /-- MTSR_VL (R54). -/
  | mtsrVl (o : Ops)
  /-- MTSR_VSTART (R57). -/
  | mtsrVstart (o : Ops)
  /-- MTSR_VFS (R236). -/
  | mtsrVfs (o : Ops)
  /-- MTSR_LANEMAP (R55). -/
  | mtsrLanemap (o : Ops)
  /-- MTSR_TM (R277). -/
  | mtsrTm (o : Ops)
  /-- MTSR_TN (R277). -/
  | mtsrTn (o : Ops)
  /-- MTSR_TK (R277). -/
  | mtsrTk (o : Ops)
  /-- MTSR_TROW (R277). -/
  | mtsrTrow (o : Ops)
  /-- MTSR_TSTAT (R277). -/
  | mtsrTstat (o : Ops)
  /-- MTSR_TTYPE (R277). -/
  | mtsrTtype (o : Ops)
  /-- MTSR_FPFLAGS (R85). -/
  | mtsrFpflags (o : Ops)
  /-- MTSR_CC (R165). -/
  | mtsrCc (o : Ops)
  /-- MTSR_MMODE (R229). -/
  | mtsrMmode (o : Ops)
  /-- MTSR_TIMER (R339). -/
  | mtsrTimer (o : Ops)
  /-- MTSR_TSTATUS (R330). -/
  | mtsrTstatus (o : Ops)
  /-- MTSR_TVEC_GTB_GTN (R396). -/
  | mtsrTvecGtbGtn (o : Ops)
  /-- TRAP (R349). -/
  | trap (o : Ops)
  /-- BREAK (R349). -/
  | brk (o : Ops)
  /-- TLBINV (R351). -/
  | tlbinv (o : Ops)
  /-- TLBINV_DIE (R351). -/
  | tlbinvDie (o : Ops)
  /-- FLUSHR (R352). -/
  | flushr (o : Ops)
  /-- CINV (R352). -/
  | cinv (o : Ops)
  /-- TCLAIM (R338). -/
  | tclaim (o : Ops)
  /-- WAITEV (R354). -/
  | waitev (o : Ops)
  /-- WAITEV_ARM (R354). -/
  | waitevArm (o : Ops)
  /-- LAUNCH (R355). -/
  | launch (o : Ops)
  /-- CTXSAVE (R356). -/
  | ctxsave (o : Ops)
  /-- CTXLOAD (R356). -/
  | ctxload (o : Ops)
  /-- VCONFIG (R237). -/
  | vconfig (o : Ops)
  /-- SETVL (R238). -/
  | setvl (o : Ops)
  /-- SETVLI (R238). -/
  | setvli (o : Ops)
  /-- MSET (R239). -/
  | mset (o : Ops)
  /-- MCLR (R239). -/
  | mclr (o : Ops)
  /-- MAND (R239). -/
  | mand (o : Ops)
  /-- MOR (R239). -/
  | mor (o : Ops)
  /-- MXOR (R239). -/
  | mxor (o : Ops)
  /-- MNOT (R239). -/
  | mnot (o : Ops)
  /-- MANDN (R239). -/
  | mandn (o : Ops)
  /-- MPOP (R239). -/
  | mpop (o : Ops)
  /-- MFIRST (R239). -/
  | mfirst (o : Ops)
  /-- MBEFORE (R239). -/
  | mbefore (o : Ops)
  /-- MINCL (R239). -/
  | mincl (o : Ops)
  /-- MONLY (R239). -/
  | monly (o : Ops)
  /-- MVAL (R239). -/
  | mval (o : Ops)
  /-- VADD (R240). -/
  | vadd (o : Ops)
  /-- VSUB (R240). -/
  | vsub (o : Ops)
  /-- VMUL (R240). -/
  | vmul (o : Ops)
  /-- VMULH (R240). -/
  | vmulh (o : Ops)
  /-- VDIV (R240). -/
  | vdiv (o : Ops)
  /-- VREM (R240). -/
  | vrem (o : Ops)
  /-- VMADD (R240). -/
  | vmadd (o : Ops)
  /-- VAND (R240). -/
  | vand (o : Ops)
  /-- VOR (R240). -/
  | vor (o : Ops)
  /-- VXOR (R240). -/
  | vxor (o : Ops)
  /-- VSHL (R240). -/
  | vshl (o : Ops)
  /-- VSHR (R240). -/
  | vshr (o : Ops)
  /-- VSAR (R240). -/
  | vsar (o : Ops)
  /-- VMIN (R240). -/
  | vmin (o : Ops)
  /-- VMAX (R240). -/
  | vmax (o : Ops)
  /-- VADDS (R240). -/
  | vadds (o : Ops)
  /-- VSUBS (R240). -/
  | vsubs (o : Ops)
  /-- VCMP (R240). -/
  | vcmp (o : Ops)
  /-- VSEL (R240). -/
  | vsel (o : Ops)
  /-- VMOV (R240). -/
  | vmov (o : Ops)
  /-- VSPLAT (R240). -/
  | vsplat (o : Ops)
  /-- VIOTA (R240). -/
  | viota (o : Ops)
  /-- VEXT (R240). -/
  | vext (o : Ops)
  /-- VPOPC (R240). -/
  | vpopc (o : Ops)
  /-- VCLZ (R240). -/
  | vclz (o : Ops)
  /-- VMVXS (R241). -/
  | vmvxs (o : Ops)
  /-- VMVSX (R241). -/
  | vmvsx (o : Ops)
  /-- VABS (R240). -/
  | vabs (o : Ops)
  /-- VFADD (R242). -/
  | vfadd (o : Ops)
  /-- VFSUB (R242). -/
  | vfsub (o : Ops)
  /-- VFMUL (R242). -/
  | vfmul (o : Ops)
  /-- VFMA (R242). -/
  | vfma (o : Ops)
  /-- VFNMA (R242). -/
  | vfnma (o : Ops)
  /-- VFDIV (R242). -/
  | vfdiv (o : Ops)
  /-- VFSQRT (R242). -/
  | vfsqrt (o : Ops)
  /-- VFMIN (R242). -/
  | vfmin (o : Ops)
  /-- VFMAX (R242). -/
  | vfmax (o : Ops)
  /-- VFCMP (R242). -/
  | vfcmp (o : Ops)
  /-- VFCVT (R243). -/
  | vfcvt (o : Ops)
  /-- VFCVTI (R243). -/
  | vfcvti (o : Ops)
  /-- VICVTF (R243). -/
  | vicvtf (o : Ops)
  /-- VFABS (R242). -/
  | vfabs (o : Ops)
  /-- VFNEG (R242). -/
  | vfneg (o : Ops)
  /-- VFRECE (R244). -/
  | vfrece (o : Ops)
  /-- VFRSQE (R244). -/
  | vfrsqe (o : Ops)
  /-- VREDSUM (R246). -/
  | vredsum (o : Ops)
  /-- VREDMIN (R246). -/
  | vredmin (o : Ops)
  /-- VREDMAX (R246). -/
  | vredmax (o : Ops)
  /-- VREDBIT (R246). -/
  | vredbit (o : Ops)
  /-- VDOT (R247). -/
  | vdot (o : Ops)
  /-- VLMUL (R88). -/
  | vlmul (o : Ops)
  /-- VLADD (R242). -/
  | vladd (o : Ops)
  /-- VTSTABN (R242). -/
  | vtstabn (o : Ops)
  /-- VPERM (R248). -/
  | vperm (o : Ops)
  /-- VSLIDEUP (R248). -/
  | vslideup (o : Ops)
  /-- VSLIDEDN (R248). -/
  | vslidedn (o : Ops)
  /-- VCOMPRESS (R248). -/
  | vcompress (o : Ops)
  /-- VEXPAND (R248). -/
  | vexpand (o : Ops)
  /-- VZIP (R248). -/
  | vzip (o : Ops)
  /-- VUNZIP (R248). -/
  | vunzip (o : Ops)
  /-- VREV (R248). -/
  | vrev (o : Ops)
  /-- VSCAN (R249). -/
  | vscan (o : Ops)
  /-- VSORTK (R250). -/
  | vsortk (o : Ops)
  /-- VLD (R263). -/
  | vld (o : Ops)
  /-- VLDS (R263). -/
  | vlds (o : Ops)
  /-- VLDX (R263). -/
  | vldx (o : Ops)
  /-- VLDFF (R267). -/
  | vldff (o : Ops)
  /-- VLDXFF (R267). -/
  | vldxff (o : Ops)
  /-- VST (R264). -/
  | vst (o : Ops)
  /-- VSTS (R264). -/
  | vsts (o : Ops)
  /-- VSTX (R264). -/
  | vstx (o : Ops)
  /-- VPREF (R268). -/
  | vpref (o : Ops)
  /-- VAMO (R269). -/
  | vamo (o : Ops)
  /-- VCAS (R269). -/
  | vcas (o : Ops)
  /-- VWAIT (R270). -/
  | vwait (o : Ops)
  /-- CCWAIT (R271). -/
  | ccwait (o : Ops)
  /-- CCSET (R271). -/
  | ccset (o : Ops)
  /-- BYTEWAIT (R272). -/
  | bytewait (o : Ops)
  /-- BYTESUB (R272). -/
  | bytesub (o : Ops)
  /-- WMPUB (R273). -/
  | wmpub (o : Ops)
  /-- WMWAIT (R273). -/
  | wmwait (o : Ops)
  /-- BARRIER (R274). -/
  | barrier (o : Ops)
  /-- TSHAPE (R279). -/
  | tshape (o : Ops)
  /-- TZERO (R280). -/
  | tzero (o : Ops)
  /-- TMAC (R286). -/
  | tmac (o : Ops)
  /-- TLDACC (R282). -/
  | tldacc (o : Ops)
  /-- TSTACC (R282). -/
  | tstacc (o : Ops)
  /-- TRD (R284). -/
  | trd (o : Ops)
  /-- TWR (R284). -/
  | twr (o : Ops)
  /-- VDOTV (R291). -/
  | vdotv (o : Ops)
  /-- TOPKINIT (R298). -/
  | topkinit (o : Ops)
  /-- TOPKI (R299). -/
  | topki (o : Ops)
  /-- TOPKR (R300). -/
  | topkr (o : Ops)
  /-- SINTER (R306). -/
  | sinter (o : Ops)
  /-- SMERGE (R306). -/
  | smerge (o : Ops)
  /-- HINIT (R309). -/
  | hinit (o : Ops)
  /-- HACC (R310). -/
  | hacc (o : Ops)
  /-- HDRAIN (R311). -/
  | hdrain (o : Ops)
  /-- COPY (R312). -/
  | copy (o : Ops)
  /-- CBCOPY (R313). -/
  | cbcopy (o : Ops)
  /-- CBWAITF (R314). -/
  | cbwaitf (o : Ops)
  /-- CBFREE (R314). -/
  | cbfree (o : Ops)
  /-- PUBLISH (R315). -/
  | publish (o : Ops)
  /-- SHADOW (R315). -/
  | shadow (o : Ops)
  /-- RSEND (R317). -/
  | rsend (o : Ops)
  /-- RFETCH (R318). -/
  | rfetch (o : Ops)
  /-- XSEND (R319). -/
  | xsend (o : Ops)
  /-- CSEND (R320). -/
  | csend (o : Ops)
  /-- COLLDEF (R322). -/
  | colldef (o : Ops)
  /-- COLLRUN (R323). -/
  | collrun (o : Ops)
  /-- COLLWAIT (R323). -/
  | collwait (o : Ops)
  /-- WOPEN (R325). -/
  | wopen (o : Ops)
  /-- WREVOKE (R325). -/
  | wrevoke (o : Ops)
  /-- GRANT (R326). -/
  | grant (o : Ops)
  /-- REVOKE (R326). -/
  | revoke (o : Ops)
  /-- P_FORM_PAIR (R193). -/
  | pFormPair (a b : Slot)
  /-- LITERAL_WORD_EXECUTE (R178). -/
  | literalWordExecute (w : Word)
  /-- ILLEGAL_OPCODE_WORD (R196). -/
  | illegalOpcodeWord (w : Word)
  /-- GRET (R229). -/
  | gret
  /-- EXIT (R49). -/
  | exit
  /-- EXIT_RELEASE (R49). -/
  | exitRelease
  /-- YIELD (R230). -/
  | yield
  /-- NOP (R230). -/
  | nop
  /-- REGION_SET (R381). -/
  | regionSet
  /-- REGION_CLEAR (R381). -/
  | regionClear
  /-- THROTTLE (R381). -/
  | throttle
  /-- LANES (R381). -/
  | lanes
  /-- ERET (R332). -/
  | eret
  /-- TRELS (R338). -/
  | trels
  /-- IFENCE (R357). -/
  | ifence
  /-- DEFERRED_STORE_TRAP (R398). -/
  | deferredStoreTrap
  /-- STEP_TRAP (R336). -/
  | stepTrap
  /-- EVENT_TRAP (R339). -/
  | eventTrap
  /-- TIMER_DEADLINE (R339). -/
  | timerDeadline
  /-- DOORBELL_WRITE (R339). -/
  | doorbellWrite
  /-- TAIL (R70). -/
  | tail
  /-- RING_SIZE (R70). -/
  | ringSize
  /-- RING_BASE (R70). -/
  | ringBase
  /-- IRQ (R380). -/
  | irq
  /-- APBASE (R380). -/
  | apbase
  /-- LAUNCH_ACCEPT (R36). -/
  | launchAccept
  /-- AFTER_CELLS_READY (R65). -/
  | afterCellsReady
  /-- TASK_START (R49). -/
  | taskStart
  /-- AGING_PROMOTION (R71). -/
  | agingPromotion
  /-- BUDGET_EXPIRY (R73). -/
  | budgetExpiry
  /-- QUANTUM_EXPIRY (R73). -/
  | quantumExpiry
  /-- PREEMPT_DEFERRAL_EXPIRY (R74). -/
  | preemptDeferralExpiry
  /-- PREEMPTION_SAVE (R342). -/
  | preemptionSave
  /-- CONTEXT_RESTORE (R345). -/
  | contextRestore
  /-- LOST_CONTEXT_RESUME (R346). -/
  | lostContextResume
  /-- LAUNCH_COMPLETION (R175). -/
  | launchCompletion
  /-- CC_PIECE_END (R166). -/
  | ccPieceEnd
  /-- WATCH_WAKE (R61). -/
  | watchWake
  /-- WATCH_POLL (R61). -/
  | watchPoll
  /-- WATERMARK_PUSH (R68). -/
  | watermarkPush
  /-- TLB_ENTRY_EXPIRY (R114). -/
  | tlbEntryExpiry
  /-- PAGE_IN_COMPLETE (R122). -/
  | pageInComplete
  /-- PAGE_SETTLED_EXPIRY (R124). -/
  | pageSettledExpiry
  /-- LANEMAP_APPLY (R55). -/
  | lanemapApply
  /-- FORMAT_REGION_ENABLE (R95). -/
  | formatRegionEnable
  /-- FORMAT_REGION_DISABLE (R95). -/
  | formatRegionDisable
  /-- READ_REQUEST (R369). -/
  | readRequest
  /-- WRITE (R369). -/
  | write
  /-- ATOMIC (R369). -/
  | atomic
  /-- FABRIC_DATA (R316). -/
  | fabricData
  /-- ORDERED_FLAG (R171). -/
  | orderedFlag
  /-- ORDERED_FLAG_COMMIT (R171). -/
  | orderedFlagCommit
  /-- COLLECTIVE_CONTRIBUTION (R321). -/
  | collectiveContribution
  /-- COLLECTIVE_STEP (R321). -/
  | collectiveStep
  /-- COMBINE_SLOT_EXPIRY (R324). -/
  | combineSlotExpiry
  /-- READ_REPLY (R364). -/
  | readReply
  /-- ACKNOWLEDGEMENT (R368). -/
  | acknowledgement
  /-- NACK_BUSY (R370). -/
  | nackBusy
  /-- NACK_RETRY (R370). -/
  | nackRetry
  /-- NACK_BUSY_TIMEOUT (R370). -/
  | nackBusyTimeout
  /-- RETRY_TIMEOUT (R368). -/
  | retryTimeout
  /-- XSEND_RETRY (R319). -/
  | xsendRetry
  /-- GANG_RESERVATION_MESSAGE (R47). -/
  | gangReservationMessage
  /-- PREEMPTION_MESSAGE (R74). -/
  | preemptionMessage
  /-- COMPLETION_REPORT (R175). -/
  | completionReport
  /-- WINDOW_SHOOTDOWN (R325). -/
  | windowShootdown
  /-- RAIL_FAILURE (R366). -/
  | railFailure
  /-- RAIL_FAILOVER (R366). -/
  | railFailover
  /-- HOST_READ (R378). -/
  | hostRead
  /-- HOST_WRITE (R378). -/
  | hostWrite
  /-- PACKAGE_RESET (R385). -/
  | packageReset
  /-- ROOT_OF_TRUST_BOOT (R382). -/
  | rootOfTrustBoot
  /-- FULL_SERVICE_TRANSITION (R387). -/
  | fullServiceTransition
  /-- SPDM_GET_VERSION (R384). -/
  | spdmGetVersion
  /-- SPDM_GET_CAPABILITIES (R384). -/
  | spdmGetCapabilities
  /-- SPDM_NEGOTIATE_ALGORITHMS (R384). -/
  | spdmNegotiateAlgorithms
  /-- SPDM_GET_CERTIFICATE (R384). -/
  | spdmGetCertificate
  /-- SPDM_CHALLENGE (R384). -/
  | spdmChallenge
  /-- SPDM_GET_MEASUREMENTS (R384). -/
  | spdmGetMeasurements
  /-- SPDM_KEY_EXCHANGE (R384). -/
  | spdmKeyExchange
  /-- THERMAL_STEP_UP (R388). -/
  | thermalStepUp
  /-- THERMAL_STEP_DOWN (R388). -/
  | thermalStepDown
  /-- THERMAL_CLAMP (R388). -/
  | thermalClamp
  /-- THERMAL_TRIP (R389). -/
  | thermalTrip
  /-- VOLTAGE_DROOP (R388). -/
  | voltageDroop
  /-- VOLTAGE_DROOP_EXPIRY (R388). -/
  | voltageDroopExpiry
  /-- PACKAGE_POWER_LIMIT (R388). -/
  | packagePowerLimit
  /-- MODULE_POWER_LIMIT (R388). -/
  | modulePowerLimit
  /-- PATROL_SCRUB (R390). -/
  | patrolScrub
  /-- RESERVED_KIND_PACKET (R364). -/
  | reservedKindPacket
  /-- LINK_LEVEL_RETRY (R365). -/
  | linkLevelRetry
  /-- GATEWAY_FORWARD (R371). -/
  | gatewayForward
  /-- FIRMWARE_IMAGE_UPDATE (R382). -/
  | firmwareImageUpdate
  /-- IDE_KEY_MANAGEMENT (R376). -/
  | ideKeyManagement
deriving DecidableEq, Repr

end Sys2Proof
end

