-- ==== Sys2Proof/WellFormed.lean ====
section
/-! DEFINITION. Which instructions are well formed: the fields each row of the manual accepts (spec/11_encoding.md R179 to R192,
and the rows of R218 to R230, R239 to R250, R254 to R274, R279 to R300, R306 to R326, R347). -/

namespace Sys2Proof

/-- The privilege levels (R328). -/
inductive Level where
  | u | s | h
deriving DecidableEq, Repr

/-- U, S and H in rising order of privilege. -/
def Level.rank : Level → Nat
  | .u => 0
  | .s => 1
  | .h => 2

/-- The register files a field may name. -/
inductive RegFile where
  | g | v | m
deriving DecidableEq, Repr

/-- What a row says of D, A or C. -/
inductive Field where
  /-- Not used: zero (R179). -/
  | zero
  /-- A g register that is only written. -/
  | gDest
  /-- A g register that is read. -/
  | gSrc
  /-- A g register that is read and written. -/
  | gBoth
  /-- A v register. -/
  | v
  /-- A mask: 0-7, or 8 for mq (R232). -/
  | m
  /-- The mask polarity of R183. -/
  | polarity
  /-- A code from 0 to `max`. -/
  | code (max : Nat)
  /-- One value only. -/
  | exactly (n : Nat)
deriving DecidableEq, Repr

/-- The orders a memory row accepts (R185). -/
inductive OrderKind where
  | relaxed | acquire | release | all
deriving DecidableEq, Repr

/-- The I19 field of a family. -/
inductive Mod where
  /-- No modifier field: zero (R180). -/
  | zero
  /-- The memory modifier field (R184), with the fields the row accepts. -/
  | mem (hint : Bool) (order : OrderKind) (scope nb ordered : Bool)
  /-- VDOTV's own field (R288). -/
  | vdotv
deriving DecidableEq, Repr

/-- What a row says of operand B. `typed` says that B is a value of type T, so that an imm25 of a floating type is an F20 (R180, R181);
an untyped operand is an integer of 64 bits. -/
inductive BForm where
  /-- No operand B: BK = 00, B = 0, I19 = 0. -/
  | none
  /-- Every BK; the register is a g register. -/
  | all (typed : Bool) (k : Mod)
  /-- BK 01, 11 and the L-form. -/
  | lit
  /-- BK 01, 10, 11 and the L-form. -/
  | const
  /-- BK 01 only (R237). -/
  | imm
  /-- A scalar conversion: B = 0 and the rounding of R221. -/
  | conv
  /-- BK 00 only, a register of one file. -/
  | reg (f : RegFile) (k : Mod)
  /-- BK 00 with B = 0 and a modifier field. -/
  | noReg (k : Mod)
  /-- A vector row that accepts vector and scalar B (R233); `q` says whether Q is accepted (R234). -/
  | vec (q : Bool)
  /-- A vector row that accepts scalar B only. -/
  | scalar (typed q : Bool)
  /-- A vector row without operand B; `rm` marks the conversions. -/
  | noVec (q rm : Bool)
  /-- A vector row that accepts a vector B only. -/
  | vecOnly (q : Bool)
  /-- VPREF: C < 2 takes every BK with a g register, C = 2 a v register (R262). -/
  | pref (k : Mod)
deriving DecidableEq, Repr

/-- One row of the manual's tables. -/
structure Form where
  op : Nat
  d : Field
  a : Field
  c : Field
  /-- Bit `t` is set when type code `t` is accepted (R186). -/
  types : Nat
  /-- Whether M may be non-zero. -/
  masked : Bool
  b : BForm
  /-- Whether the instruction enters the vector queue at commit (R57). -/
  queued : Bool
  /-- The least privilege level (R197). -/
  level : Level
  /-- The row's own further conditions. -/
  extra : Ops → Bool

namespace OperandB

/-- The register of a register operand, 0 otherwise. -/
def regNo : OperandB → Nat
  | .reg r _ => r.toNat
  | .imm _ => 0
  | .kbank _ => 0
  | .lit _ => 0
  | .limm _ => 0

/-- The I19 field, 0 where the operand carries none. -/
def i19 : OperandB → BitVec 19
  | .reg _ x => x
  | .imm _ => 0
  | .kbank _ => 0
  | .lit _ => 0
  | .limm _ => 0

def isReg : OperandB → Bool
  | .reg _ _ => true
  | .imm _ => false
  | .kbank _ => false
  | .lit _ => false
  | .limm _ => false

def isLForm : OperandB → Bool
  | .reg _ _ => false
  | .imm _ => false
  | .kbank _ => false
  | .lit _ => false
  | .limm _ => true

/-- The bits of an imm25 or of a literal, as a number; 0 for the other kinds. -/
def bits : OperandB → Nat
  | .reg _ _ => 0
  | .imm x => x.toNat
  | .kbank _ => 0
  | .lit x => x.toNat
  | .limm x => x.toNat

end OperandB

/-- Bits `hi` down to `lo` of a number. -/
def bitsOf (x hi lo : Nat) : Nat := (x / 2 ^ lo) % 2 ^ (hi + 1 - lo)

/-- Whether the row accepts the code of the order field (R184, R185). -/
def OrderKind.accepts : OrderKind → Nat → Bool
  | .relaxed, n => n == 0
  | .acquire, n => n == 0 || n == 1
  | .release, n => n == 0 || n == 2
  | .all, n => decide (n < 4)

/-- R184, R185, R252, R302: a memory modifier field whose every non-zero part the row accepts. -/
def memModOk (hint : Bool) (order : OrderKind) (scope nb ordered : Bool) (x : Nat) : Bool :=
  bitsOf x 18 14 == 0
  && (ordered || bitsOf x 13 13 == 0)
  && (if scope then decide (bitsOf x 12 10 ≤ 5) else bitsOf x 12 10 == 0)
  && order.accepts (bitsOf x 9 8)
  && (if hint then decide (bitsOf x 7 5 ≤ 5) else bitsOf x 7 5 == 0)
  && (nb || bitsOf x 4 4 == 0)
  && (bitsOf x 4 4 == 1 || bitsOf x 3 0 == 0)

/-- R288: n of at least 1, p of at most 2, a legal scope, bits 18:13 zero. -/
def vdotvModOk (x : Nat) : Bool :=
  decide (1 ≤ bitsOf x 7 0) && decide (bitsOf x 9 8 ≤ 2) && decide (bitsOf x 12 10 ≤ 5) && bitsOf x 18 13 == 0

/-- R234: the vector modifier field without its BS bit. -/
def vecModOk (q rm : Bool) (x : Nat) : Bool :=
  bitsOf x 18 5 == 0
  && (if rm then decide (bitsOf x 4 2 ≤ 4) else bitsOf x 4 2 == 0)
  && (q || bitsOf x 1 1 == 0)

def Mod.ok : Mod → Nat → Bool
  | .zero, x => x == 0
  | .mem h o s nb f, x => memModOk h o s nb f x
  | .vdotv, x => vdotvModOk x

/-- R181: bits 4:0 of an F20 are zero. Floating types are 0x8 to 0xC (R186). -/
def f20Ok (typed : Bool) (t : Nat) : OperandB → Bool
  | .imm x => !typed || !(decide (8 ≤ t) && decide (t ≤ 12)) || x.toNat % 32 == 0
  | .reg _ _ => true
  | .kbank _ => true
  | .lit _ => true
  | .limm _ => true

/-- A register operand that satisfies `f`, or any constant. -/
def OperandB.regOr (f : Nat → Nat → Bool) : OperandB → Bool
  | .reg r x => f r.toNat x.toNat
  | .imm _ => true
  | .kbank _ => true
  | .lit _ => true
  | .limm _ => true

/-- Whether the row accepts operand B under type `t` and third field `c` (R180, R233, R234). -/
def BForm.ok (f : BForm) (t c : Nat) (b : OperandB) : Bool :=
  match f with
  | .none => b == .reg 0 0
  | .all typed k => b.regOr (fun _ x => k.ok x) && f20Ok typed t b
  | .lit => (match b with
    | .imm _ => true
    | .lit _ => true
    | .limm _ => true
    | .reg _ _ => false
    | .kbank _ => false)
  | .const => !b.isReg
  | .imm => (match b with
    | .imm _ => true
    | .reg _ _ => false
    | .kbank _ => false
    | .lit _ => false
    | .limm _ => false)
  | .conv => b.isReg && b.regOr (fun r x => r == 0 && decide (x ≤ 4))
  | .reg file k => b.isReg && b.regOr (fun r x => k.ok x && (file != .m || decide (r ≤ 8)))
  | .noReg k => b.isReg && b.regOr (fun r x => r == 0 && k.ok x)
  | .vec q => b.regOr (fun _ x => vecModOk q false x) && f20Ok true t b
  | .scalar typed q => b.regOr (fun _ x => vecModOk q false x && x % 2 == 1) && f20Ok typed t b
  | .noVec q rm => b.isReg && b.regOr (fun r x => r == 0 && vecModOk q rm x && x % 2 == 0)
  | .vecOnly q => b.isReg && b.regOr (fun _ x => vecModOk q false x && x % 2 == 0)
  | .pref k => b.regOr (fun _ x => k.ok x) && (c != 2 || b.isReg)

/-- Whether a row's D, A or C field accepts a value, given M (R179, R183, R232). -/
def Field.ok (f : Field) (x m : Nat) : Bool :=
  match f with
  | .zero => x == 0
  | .gDest => true
  | .gSrc => true
  | .gBoth => true
  | .v => true
  | .m => decide (x ≤ 8)
  | .polarity => x == 0 || (x == 1 && m != 0)
  | .code n => decide (x ≤ n)
  | .exactly n => x == n

/-- The groups of system registers whose MTSR is a row of its own in the table of operations. -/
inductive SrGroup where
  | vl | vstart | vfs | lanemap | tm | tn | tk | trow | tstat | ttype | fpflags | cc | mmode | timer | tstatus | tvec_gtb_gtn | other
deriving DecidableEq, Repr

/-- R198: the assigned system register numbers. -/
def srAssigned (n : Nat) : Bool :=
  decide (n ≤ 0x004) || (decide (0x010 ≤ n) && decide (n ≤ 0x028)) || (decide (0x030 ≤ n) && decide (n ≤ 0x035))
  || n == 0x040 || n == 0x041 || (decide (0x050 ≤ n) && decide (n ≤ 0x05F)) || (decide (0x060 ≤ n) && decide (n ≤ 0x063))
  || n == 0x070 || n == 0x071 || (decide (0x100 ≤ n) && decide (n ≤ 0x108)) || (decide (0x200 ≤ n) && decide (n ≤ 0x208))
  || (decide (0x210 ≤ n) && decide (n ≤ 0x218))

/-- The row of the table of operations that an MTSR of register `n` belongs to. -/
def srGroupOf (n : Nat) : SrGroup :=
  if n == 0x020 then .vl else if n == 0x022 then .vstart else if n == 0x023 then .vfs else if n == 0x027 then .lanemap
  else if n == 0x030 then .tm else if n == 0x031 then .tn else if n == 0x032 then .tk else if n == 0x033 then .trow
  else if n == 0x034 then .tstat else if n == 0x035 then .ttype else if n == 0x041 then .fpflags
  else if decide (0x050 ≤ n) && decide (n ≤ 0x05F) then .cc else if n == 0x070 then .mmode else if n == 0x071 then .timer
  else if n == 0x100 || n == 0x210 then .tstatus
  else if (decide (0x104 ≤ n) && decide (n ≤ 0x106)) || (decide (0x214 ≤ n) && decide (n ≤ 0x216)) then .tvec_gtb_gtn
  else .other

/-! The further conditions of single rows. -/

def noExtra (_ : Ops) : Bool := true
/-- The value of an imm25 or a literal has no bit at or above `n` (R228, R237, R274, R347). -/
def limOk (n : Nat) (o : Ops) : Bool := decide (o.b.bits < 2 ^ n)
/-- R198, R347: an assigned number in bits 11:0. -/
def mfsrOk (o : Ops) : Bool := limOk 12 o && srAssigned o.b.bits
/-- An MTSR of the named group. -/
def srGroup (g : SrGroup) (o : Ops) : Bool := mfsrOk o && srGroupOf o.b.bits == g
/-- R221: a floating or L8 source type in C. -/
def srcFloat (o : Ops) : Bool := decide (8 ≤ o.c.toNat)
/-- R221: the source type differs from the destination type. -/
def srcFloatNe (o : Ops) : Bool := srcFloat o && o.c.toNat != o.t.toNat
/-- R256: the type fits the operation: 0 takes both, 1 to 6 integers, 7 to 9 floats. -/
def amoTypeOk (op t : Nat) : Bool := op == 0 || (if decide (op ≤ 6) then decide (t < 8) else decide (10 ≤ t))
/-- R302, R256: with NB = 1, D is 0. -/
def nbNoD (o : Ops) : Bool := bitsOf o.b.i19.toNat 4 4 == 0 || o.d == 0
def amoOk (o : Ops) : Bool := amoTypeOk o.c.toNat o.t.toNat && nbNoD o
/-- R269: bit 5 returns; bits 4:0 carry the operation. -/
def vamoOk (o : Ops) : Bool := decide (o.c.toNat % 32 ≤ 9) && amoTypeOk (o.c.toNat % 32) o.t.toNat
/-- R258: D, B and C are even. -/
def cas2Ok (o : Ops) : Bool := o.d.toNat % 2 == 0 && o.c.toNat % 2 == 0 && o.b.regNo % 2 == 0
/-- R260: acq.load names no b. -/
def acqOk (o : Ops) : Bool := o.c != 0 || (o.b.isReg && o.b.regNo == 0)
/-- R270: conditions 0 to 5 and bits 5:4 zero. -/
def vwaitOk (o : Ops) : Bool := decide (o.c.toNat % 8 ≤ 5)
/-- R247: under .l8, C is 0. -/
def vdotOk (o : Ops) : Bool := o.t != 12 || o.c == 0
/-- R285, R288: B is not 63. -/
def bNot63 (o : Ops) : Bool := o.b.regNo != 63
/-- R288: a threshold register only under .ge. -/
def vdotvOk (o : Ops) : Bool := bNot63 o && (bitsOf o.b.i19.toNat 9 8 == 2 || o.c == 0)
/-- R283: the stored types of each tile type. -/
def tstaccOk (o : Ops) : Bool :=
  let c := o.c.toNat
  let t := o.t.toNat
  if t == 11 then c == 0
  else if t == 12 then c == 0 || c == 8 || c == 9 || c == 10 || c == 12
  else c == 0 || c == 8 || c == 9
/-- R285: bits 5:4 of D are zero is the row's code limit; NB, OF and cc are zero by its modifier field. -/
def sortOk (o : Ops) : Bool := o.d != o.c
/-- R223: D = 0 traps ILL_FLD. -/
def loopdOk (o : Ops) : Bool := o.d != 0


/-- The row of each instruction; none for a pair, for a word that only traps, and for an event. -/
def Instr.form (i : Instr) : Option Form :=
  match i with
  | .add _ => some ⟨0x001, .gDest, .gSrc, .zero, 0x00FF, false, (.all true .zero), false, .u, noExtra⟩
  | .sub _ => some ⟨0x002, .gDest, .gSrc, .zero, 0x00FF, false, (.all true .zero), false, .u, noExtra⟩
  | .mul _ => some ⟨0x003, .gDest, .gSrc, .zero, 0x00FF, false, (.all true .zero), false, .u, noExtra⟩
  | .mulh _ => some ⟨0x004, .gDest, .gSrc, .zero, 0x00FF, false, (.all true .zero), false, .u, noExtra⟩
  | .div _ => some ⟨0x005, .gDest, .gSrc, .zero, 0x00FF, false, (.all true .zero), false, .u, noExtra⟩
  | .rem _ => some ⟨0x006, .gDest, .gSrc, .zero, 0x00FF, false, (.all true .zero), false, .u, noExtra⟩
  | .and _ => some ⟨0x007, .gDest, .gSrc, .zero, 0x8000, false, (.all false .zero), false, .u, noExtra⟩
  | .or _ => some ⟨0x008, .gDest, .gSrc, .zero, 0x8000, false, (.all false .zero), false, .u, noExtra⟩
  | .xor _ => some ⟨0x009, .gDest, .gSrc, .zero, 0x8000, false, (.all false .zero), false, .u, noExtra⟩
  | .andn _ => some ⟨0x00A, .gDest, .gSrc, .zero, 0x8000, false, (.all false .zero), false, .u, noExtra⟩
  | .shl _ => some ⟨0x00B, .gDest, .gSrc, .zero, 0x00FF, false, (.all true .zero), false, .u, noExtra⟩
  | .shr _ => some ⟨0x00C, .gDest, .gSrc, .zero, 0x00FF, false, (.all true .zero), false, .u, noExtra⟩
  | .sar _ => some ⟨0x00D, .gDest, .gSrc, .zero, 0x00FF, false, (.all true .zero), false, .u, noExtra⟩
  | .rol _ => some ⟨0x00E, .gDest, .gSrc, .zero, 0x00FF, false, (.all true .zero), false, .u, noExtra⟩
  | .min _ => some ⟨0x00F, .gDest, .gSrc, .zero, 0x00FF, false, (.all true .zero), false, .u, noExtra⟩
  | .max _ => some ⟨0x010, .gDest, .gSrc, .zero, 0x00FF, false, (.all true .zero), false, .u, noExtra⟩
  | .cmp _ => some ⟨0x011, .gDest, .gSrc, (.code 5), 0x00FF, false, (.all true .zero), false, .u, noExtra⟩
  | .sel _ => some ⟨0x012, .gDest, .gSrc, .gSrc, 0x8000, false, (.all false .zero), false, .u, noExtra⟩
  | .clz _ => some ⟨0x013, .gDest, .gSrc, .zero, 0x00FF, false, .none, false, .u, noExtra⟩
  | .ctz _ => some ⟨0x014, .gDest, .gSrc, .zero, 0x00FF, false, .none, false, .u, noExtra⟩
  | .popc _ => some ⟨0x015, .gDest, .gSrc, .zero, 0x00FF, false, .none, false, .u, noExtra⟩
  | .ext _ => some ⟨0x016, .gDest, .gSrc, .zero, 0x77, false, .none, false, .u, noExtra⟩
  | .addsh _ => some ⟨0x017, .gDest, .gSrc, (.code 63), 0x8000, false, (.all false .zero), false, .u, noExtra⟩
  | .bfx _ => some ⟨0x018, .gDest, .gSrc, (.code 63), 0x88, false, (.all false .zero), false, .u, noExtra⟩
  | .bfi _ => some ⟨0x019, .gBoth, .gSrc, (.code 63), 0x8000, false, (.all false .zero), false, .u, noExtra⟩
  | .li _ => some ⟨0x01A, .gDest, .zero, .zero, 0x8000, false, .const, false, .u, noExtra⟩
  | .lih _ => some ⟨0x01B, .gBoth, .zero, .zero, 0x8000, false, .const, false, .u, noExtra⟩
  | .mov _ => some ⟨0x01C, .gDest, .zero, .zero, 0x8000, false, (.all false .zero), false, .u, noExtra⟩
  | .abs _ => some ⟨0x01D, .gDest, .gSrc, .zero, 0x0F, false, .none, false, .u, noExtra⟩
  | .madd _ => some ⟨0x01E, .gDest, .gSrc, .gSrc, 0x00FF, false, (.all true .zero), false, .u, noExtra⟩
  | .fadd _ => some ⟨0x040, .gDest, .gSrc, .zero, 0x0F00, false, (.all true .zero), false, .u, noExtra⟩
  | .fsub _ => some ⟨0x041, .gDest, .gSrc, .zero, 0x0F00, false, (.all true .zero), false, .u, noExtra⟩
  | .fmul _ => some ⟨0x042, .gDest, .gSrc, .zero, 0x0F00, false, (.all true .zero), false, .u, noExtra⟩
  | .ffma _ => some ⟨0x043, .gDest, .gSrc, .gSrc, 0x0F00, false, (.all true .zero), false, .u, noExtra⟩
  | .fdiv _ => some ⟨0x044, .gDest, .gSrc, .zero, 0x0F00, false, (.all true .zero), false, .u, noExtra⟩
  | .fsqrt _ => some ⟨0x045, .gDest, .gSrc, .zero, 0x0F00, false, .none, false, .u, noExtra⟩
  | .fmin _ => some ⟨0x046, .gDest, .gSrc, .zero, 0x0F00, false, (.all true .zero), false, .u, noExtra⟩
  | .fmax _ => some ⟨0x047, .gDest, .gSrc, .zero, 0x0F00, false, (.all true .zero), false, .u, noExtra⟩
  | .fcmp _ => some ⟨0x048, .gDest, .gSrc, (.code 7), 0x0F00, false, (.all true .zero), false, .u, noExtra⟩
  | .fcvt _ => some ⟨0x049, .gDest, .gSrc, (.code 12), 0x1F00, false, .conv, false, .u, srcFloatNe⟩
  | .fcvti _ => some ⟨0x04A, .gDest, .gSrc, (.code 12), 0x00FF, false, .conv, false, .u, srcFloat⟩
  | .icvtf _ => some ⟨0x04B, .gDest, .gSrc, (.code 7), 0x1F00, false, .conv, false, .u, noExtra⟩
  | .fabs _ => some ⟨0x04C, .gDest, .gSrc, .zero, 0x0F00, false, .none, false, .u, noExtra⟩
  | .fneg _ => some ⟨0x04D, .gDest, .gSrc, .zero, 0x0F00, false, .none, false, .u, noExtra⟩
  | .fclass _ => some ⟨0x04E, .gDest, .gSrc, .zero, 0x1F00, false, .none, false, .u, noExtra⟩
  | .fabn _ => some ⟨0x04F, .gDest, .gSrc, .zero, 0x400, false, .none, false, .u, noExtra⟩
  | .br _ => some ⟨0x060, .zero, .zero, .zero, 0x8000, false, .lit, false, .u, noExtra⟩
  | .bcc _ => some ⟨0x061, .gSrc, .gSrc, (.code 5), 0x00FF, false, .lit, false, .u, noExtra⟩
  | .bz _ => some ⟨0x062, .zero, .gSrc, .zero, 0x8000, false, .lit, false, .u, noExtra⟩
  | .bnz _ => some ⟨0x063, .zero, .gSrc, .zero, 0x8000, false, .lit, false, .u, noExtra⟩
  | .bmany _ => some ⟨0x064, .zero, .m, .zero, 0x8000, false, .lit, false, .u, noExtra⟩
  | .bmall _ => some ⟨0x065, .zero, .m, .zero, 0x8000, false, .lit, false, .u, noExtra⟩
  | .bmnone _ => some ⟨0x066, .zero, .m, .zero, 0x8000, false, .lit, false, .u, noExtra⟩
  | .call _ => some ⟨0x067, .zero, .zero, .zero, 0x8000, false, .lit, false, .u, noExtra⟩
  | .callr _ => some ⟨0x068, .zero, .gSrc, .zero, 0x8000, false, .none, false, .u, noExtra⟩
  | .jr _ => some ⟨0x069, .zero, .gSrc, .zero, 0x8000, false, .none, false, .u, noExtra⟩
  | .gate _ => some ⟨0x06A, .zero, .zero, .zero, 0x8000, false, .lit, false, .u, (limOk 12)⟩
  | .loopd _ => some ⟨0x06C, .gBoth, .zero, .zero, 0x8000, false, .lit, false, .u, loopdOk⟩
  | .ld _ => some ⟨0x080, .gDest, .gSrc, .zero, 0x1FFF, false, (.all false (.mem true .acquire true false false)), false, .u, noExtra⟩
  | .st _ => some ⟨0x081, .gSrc, .gSrc, .zero, 0x1FFF, false, (.all false (.mem true .release true true false)), false, .u, noExtra⟩
  | .ldx _ => some ⟨0x082, .gDest, .gSrc, .zero, 0x1FFF, false, (.reg .g (.mem true .acquire true false false)), false, .u, noExtra⟩
  | .stx _ => some ⟨0x083, .gSrc, .gSrc, .zero, 0x1FFF, false, (.reg .g (.mem true .release true true false)), false, .u, noExtra⟩
  | .ldk _ => some ⟨0x084, (.code 63), .gSrc, (.code 3), 0x8000, false, (.all false (.mem true .relaxed false false false)), false, .u, noExtra⟩
  | .pref _ => some ⟨0x085, .zero, .gSrc, .zero, 0x8000, false, (.all false (.mem true .relaxed false false false)), false, .u, noExtra⟩
  | .amo _ => some ⟨0x086, .gDest, .gSrc, (.code 9), 0xCCC, false, (.all true (.mem false .all true true false)), false, .u, amoOk⟩
  | .cas _ => some ⟨0x087, .gDest, .gSrc, .gSrc, 0xCCC, false, (.all true (.mem false .all true false false)), false, .u, noExtra⟩
  | .cas2 _ => some ⟨0x088, .gDest, .gSrc, .gSrc, 0x8000, false, (.reg .g (.mem false .all true false false)), false, .u, cas2Ok⟩
  | .ldacq _ => some ⟨0x089, .gDest, .gSrc, .zero, 0x1FFF, false, (.all false (.mem true .relaxed true false false)), false, .u, noExtra⟩
  | .strel _ => some ⟨0x08A, .gSrc, .gSrc, .zero, 0x1FFF, false, (.all false (.mem true .relaxed true false false)), false, .u, noExtra⟩
  | .acq _ => some ⟨0x08B, .gBoth, (.code 15), (.code 2), 0x8000, false, (.all false (.mem false .relaxed true false false)), false, .u, acqOk⟩
  | .rel _ => some ⟨0x08C, .zero, (.code 15), (.code 1), 0x8000, false, (.all false (.mem false .relaxed true false false)), false, .u, noExtra⟩
  | .bind _ => some ⟨0x08D, (.code 15), .gSrc, .zero, 0x8000, false, (.all false (.mem true .relaxed false false false)), false, .u, noExtra⟩
  | .unbind _ => some ⟨0x08E, (.code 15), .zero, .zero, 0x8000, false, .none, false, .u, noExtra⟩
  | .fence _ => some ⟨0x08F, .zero, .zero, .zero, 0xFE, false, (.noReg (.mem false .relaxed true false false)), false, .u, noExtra⟩
  | .mfsr _ => some ⟨0x0A0, .gDest, .zero, .zero, 0x8000, false, .lit, false, .u, mfsrOk⟩
  | .mtsr _ => some ⟨0x0A1, .zero, .gSrc, .zero, 0x8000, false, .lit, false, .u, (srGroup .other)⟩
  | .mtsrVl _ => some ⟨0x0A1, .zero, .gSrc, .zero, 0x8000, false, .lit, true, .u, (srGroup .vl)⟩
  | .mtsrVstart _ => some ⟨0x0A1, .zero, .gSrc, .zero, 0x8000, false, .lit, true, .u, (srGroup .vstart)⟩
  | .mtsrVfs _ => some ⟨0x0A1, .zero, .gSrc, .zero, 0x8000, false, .lit, false, .u, (srGroup .vfs)⟩
  | .mtsrLanemap _ => some ⟨0x0A1, .zero, .gSrc, .zero, 0x8000, false, .lit, false, .u, (srGroup .lanemap)⟩
  | .mtsrTm _ => some ⟨0x0A1, .zero, .gSrc, .zero, 0x8000, false, .lit, true, .u, (srGroup .tm)⟩
  | .mtsrTn _ => some ⟨0x0A1, .zero, .gSrc, .zero, 0x8000, false, .lit, true, .u, (srGroup .tn)⟩
  | .mtsrTk _ => some ⟨0x0A1, .zero, .gSrc, .zero, 0x8000, false, .lit, true, .u, (srGroup .tk)⟩
  | .mtsrTrow _ => some ⟨0x0A1, .zero, .gSrc, .zero, 0x8000, false, .lit, false, .u, (srGroup .trow)⟩
  | .mtsrTstat _ => some ⟨0x0A1, .zero, .gSrc, .zero, 0x8000, false, .lit, false, .u, (srGroup .tstat)⟩
  | .mtsrTtype _ => some ⟨0x0A1, .zero, .gSrc, .zero, 0x8000, false, .lit, true, .u, (srGroup .ttype)⟩
  | .mtsrFpflags _ => some ⟨0x0A1, .zero, .gSrc, .zero, 0x8000, false, .lit, false, .u, (srGroup .fpflags)⟩
  | .mtsrCc _ => some ⟨0x0A1, .zero, .gSrc, .zero, 0x8000, false, .lit, false, .u, (srGroup .cc)⟩
  | .mtsrMmode _ => some ⟨0x0A1, .zero, .gSrc, .zero, 0x8000, false, .lit, true, .u, (srGroup .mmode)⟩
  | .mtsrTimer _ => some ⟨0x0A1, .zero, .gSrc, .zero, 0x8000, false, .lit, false, .u, (srGroup .timer)⟩
  | .mtsrTstatus _ => some ⟨0x0A1, .zero, .gSrc, .zero, 0x8000, false, .lit, false, .u, (srGroup .tstatus)⟩
  | .mtsrTvecGtbGtn _ => some ⟨0x0A1, .zero, .gSrc, .zero, 0x8000, false, .lit, false, .u, (srGroup .tvec_gtb_gtn)⟩
  | .trap _ => some ⟨0x0A2, .zero, .zero, .zero, 0x8000, false, .lit, false, .u, (limOk 16)⟩
  | .brk _ => some ⟨0x0A3, .zero, .zero, .zero, 0x8000, false, .lit, false, .u, (limOk 16)⟩
  | .tlbinv _ => some ⟨0x0A5, .zero, .gSrc, .zero, 0x8000, false, (.reg .g .zero), false, .s, noExtra⟩
  | .tlbinvDie _ => some ⟨0x0A5, .zero, .zero, (.exactly 1), 0x8000, false, .none, false, .h, noExtra⟩
  | .flushr _ => some ⟨0x0A6, .zero, .gSrc, .zero, 0x8000, false, (.all false .zero), false, .u, noExtra⟩
  | .cinv _ => some ⟨0x0A7, .zero, .gSrc, .zero, 0x8000, false, (.all false .zero), false, .u, noExtra⟩
  | .tclaim _ => some ⟨0x0A8, .gDest, .zero, .zero, 0x8000, false, .none, true, .u, noExtra⟩
  | .waitev _ => some ⟨0x0AA, .gDest, .gSrc, (.code 0), 0x8000, false, (.all false .zero), false, .u, noExtra⟩
  | .waitevArm _ => some ⟨0x0AA, .gDest, .gSrc, (.exactly 1), 0x8000, false, (.all false .zero), false, .u, noExtra⟩
  | .launch _ => some ⟨0x0AB, .gDest, .gSrc, .zero, 0x8000, false, .none, false, .u, noExtra⟩
  | .ctxsave _ => some ⟨0x0AC, .gDest, .gSrc, (.code 1), 0x8000, false, (.reg .g .zero), false, .h, noExtra⟩
  | .ctxload _ => some ⟨0x0AD, .gDest, .gSrc, .zero, 0x8000, false, (.reg .g .zero), false, .h, noExtra⟩
  | .vconfig _ => some ⟨0x0B0, .gDest, .zero, .zero, 0x8000, false, .imm, true, .u, (limOk 4)⟩
  | .setvl _ => some ⟨0x0B1, .gDest, .gSrc, (.code 1), 0x8000, false, .none, true, .u, noExtra⟩
  | .setvli _ => some ⟨0x0B2, .gDest, .zero, (.code 1), 0x8000, false, .const, true, .u, noExtra⟩
  | .mset _ => some ⟨0x0B3, .m, .zero, .zero, 0x8000, false, .none, true, .u, noExtra⟩
  | .mclr _ => some ⟨0x0B4, .m, .zero, .zero, 0x8000, false, .none, true, .u, noExtra⟩
  | .mand _ => some ⟨0x0B5, .m, .m, .zero, 0x8000, false, (.reg .m .zero), true, .u, noExtra⟩
  | .mor _ => some ⟨0x0B6, .m, .m, .zero, 0x8000, false, (.reg .m .zero), true, .u, noExtra⟩
  | .mxor _ => some ⟨0x0B7, .m, .m, .zero, 0x8000, false, (.reg .m .zero), true, .u, noExtra⟩
  | .mnot _ => some ⟨0x0B8, .m, .m, .zero, 0x8000, false, .none, true, .u, noExtra⟩
  | .mandn _ => some ⟨0x0B9, .m, .m, .zero, 0x8000, false, (.reg .m .zero), true, .u, noExtra⟩
  | .mpop _ => some ⟨0x0BA, .gDest, .m, .zero, 0x8000, false, .none, true, .u, noExtra⟩
  | .mfirst _ => some ⟨0x0BB, .gDest, .m, .zero, 0x8000, false, .none, true, .u, noExtra⟩
  | .mbefore _ => some ⟨0x0BC, .m, .m, .zero, 0x8000, false, .none, true, .u, noExtra⟩
  | .mincl _ => some ⟨0x0BD, .m, .m, .zero, 0x8000, false, .none, true, .u, noExtra⟩
  | .monly _ => some ⟨0x0BE, .m, .m, .zero, 0x8000, false, .none, true, .u, noExtra⟩
  | .mval _ => some ⟨0x0BF, .m, .zero, .zero, 0x8000, false, .none, true, .u, noExtra⟩
  | .vadd _ => some ⟨0x0C0, .v, .v, .polarity, 0x00FF, true, (.vec true), true, .u, noExtra⟩
  | .vsub _ => some ⟨0x0C1, .v, .v, .polarity, 0x00FF, true, (.vec true), true, .u, noExtra⟩
  | .vmul _ => some ⟨0x0C2, .v, .v, .polarity, 0x00FF, true, (.vec true), true, .u, noExtra⟩
  | .vmulh _ => some ⟨0x0C3, .v, .v, .polarity, 0x00FF, true, (.vec true), true, .u, noExtra⟩
  | .vdiv _ => some ⟨0x0C4, .v, .v, .polarity, 0x00FF, true, (.vec true), true, .u, noExtra⟩
  | .vrem _ => some ⟨0x0C5, .v, .v, .polarity, 0x00FF, true, (.vec true), true, .u, noExtra⟩
  | .vmadd _ => some ⟨0x0C6, .v, .v, .v, 0x00FF, true, (.vec true), true, .u, noExtra⟩
  | .vand _ => some ⟨0x0C7, .v, .v, .polarity, 0x00FF, true, (.vec true), true, .u, noExtra⟩
  | .vor _ => some ⟨0x0C8, .v, .v, .polarity, 0x00FF, true, (.vec true), true, .u, noExtra⟩
  | .vxor _ => some ⟨0x0C9, .v, .v, .polarity, 0x00FF, true, (.vec true), true, .u, noExtra⟩
  | .vshl _ => some ⟨0x0CA, .v, .v, .polarity, 0x00FF, true, (.vec true), true, .u, noExtra⟩
  | .vshr _ => some ⟨0x0CB, .v, .v, .polarity, 0x00FF, true, (.vec true), true, .u, noExtra⟩
  | .vsar _ => some ⟨0x0CC, .v, .v, .polarity, 0x00FF, true, (.vec true), true, .u, noExtra⟩
  | .vmin _ => some ⟨0x0CD, .v, .v, .polarity, 0x00FF, true, (.vec true), true, .u, noExtra⟩
  | .vmax _ => some ⟨0x0CE, .v, .v, .polarity, 0x00FF, true, (.vec true), true, .u, noExtra⟩
  | .vadds _ => some ⟨0x0CF, .v, .v, .polarity, 0x00FF, true, (.vec true), true, .u, noExtra⟩
  | .vsubs _ => some ⟨0x0D0, .v, .v, .polarity, 0x00FF, true, (.vec true), true, .u, noExtra⟩
  | .vcmp _ => some ⟨0x0D1, .m, .v, (.code 5), 0x00FF, true, (.vec true), true, .u, noExtra⟩
  | .vsel _ => some ⟨0x0D2, .v, .v, .m, 0x1FFF, true, (.vec true), true, .u, noExtra⟩
  | .vmov _ => some ⟨0x0D3, .v, .v, .polarity, 0x1FFF, true, (.noVec true false), true, .u, noExtra⟩
  | .vsplat _ => some ⟨0x0D4, .v, .zero, .polarity, 0x1FFF, true, (.scalar true false), true, .u, noExtra⟩
  | .viota _ => some ⟨0x0D5, .v, .zero, .polarity, 0x00FF, true, (.scalar true false), true, .u, noExtra⟩
  | .vext _ => some ⟨0x0D6, .v, .v, (.code 7), 0x00FF, true, (.noVec true false), true, .u, noExtra⟩
  | .vpopc _ => some ⟨0x0D7, .v, .v, .polarity, 0x00FF, true, (.noVec true false), true, .u, noExtra⟩
  | .vclz _ => some ⟨0x0D8, .v, .v, .polarity, 0x00FF, true, (.noVec true false), true, .u, noExtra⟩
  | .vmvxs _ => some ⟨0x0D9, .gDest, .v, .zero, 0x1FFF, false, (.scalar false false), true, .u, noExtra⟩
  | .vmvsx _ => some ⟨0x0DA, .v, .gSrc, .zero, 0x1FFF, false, (.scalar false false), true, .u, noExtra⟩
  | .vabs _ => some ⟨0x0DB, .v, .v, .polarity, 0x0F, true, (.noVec true false), true, .u, noExtra⟩
  | .vfadd _ => some ⟨0x100, .v, .v, .polarity, 0x0F00, true, (.vec true), true, .u, noExtra⟩
  | .vfsub _ => some ⟨0x101, .v, .v, .polarity, 0x0F00, true, (.vec true), true, .u, noExtra⟩
  | .vfmul _ => some ⟨0x102, .v, .v, .polarity, 0x0F00, true, (.vec true), true, .u, noExtra⟩
  | .vfma _ => some ⟨0x103, .v, .v, .v, 0x0F00, true, (.vec true), true, .u, noExtra⟩
  | .vfnma _ => some ⟨0x104, .v, .v, .v, 0x0F00, true, (.vec true), true, .u, noExtra⟩
  | .vfdiv _ => some ⟨0x105, .v, .v, .polarity, 0x0F00, true, (.vec true), true, .u, noExtra⟩
  | .vfsqrt _ => some ⟨0x106, .v, .v, .polarity, 0x0F00, true, (.noVec true false), true, .u, noExtra⟩
  | .vfmin _ => some ⟨0x107, .v, .v, .polarity, 0x0F00, true, (.vec true), true, .u, noExtra⟩
  | .vfmax _ => some ⟨0x108, .v, .v, .polarity, 0x0F00, true, (.vec true), true, .u, noExtra⟩
  | .vfcmp _ => some ⟨0x109, .m, .v, (.code 7), 0x0F00, true, (.vec true), true, .u, noExtra⟩
  | .vfcvt _ => some ⟨0x10A, .v, .v, (.code 12), 0x1F00, true, (.noVec true true), true, .u, srcFloatNe⟩
  | .vfcvti _ => some ⟨0x10B, .v, .v, (.code 12), 0x00FF, true, (.noVec true true), true, .u, srcFloat⟩
  | .vicvtf _ => some ⟨0x10C, .v, .v, (.code 7), 0x1F00, true, (.noVec true true), true, .u, noExtra⟩
  | .vfabs _ => some ⟨0x10D, .v, .v, .polarity, 0x0F00, true, (.noVec true false), true, .u, noExtra⟩
  | .vfneg _ => some ⟨0x10E, .v, .v, .polarity, 0x0F00, true, (.noVec true false), true, .u, noExtra⟩
  | .vfrece _ => some ⟨0x10F, .v, .v, .polarity, 0x0F00, true, (.noVec true false), true, .u, noExtra⟩
  | .vfrsqe _ => some ⟨0x110, .v, .v, .polarity, 0x0F00, true, (.noVec true false), true, .u, noExtra⟩
  | .vredsum _ => some ⟨0x111, .gDest, .v, .zero, 0x0FFF, true, (.scalar true true), true, .u, noExtra⟩
  | .vredmin _ => some ⟨0x112, .gDest, .v, .zero, 0x0FFF, true, (.scalar true true), true, .u, noExtra⟩
  | .vredmax _ => some ⟨0x113, .gDest, .v, .zero, 0x0FFF, true, (.scalar true true), true, .u, noExtra⟩
  | .vredbit _ => some ⟨0x114, .gDest, .v, (.code 2), 0x00FF, true, (.scalar true true), true, .u, noExtra⟩
  | .vdot _ => some ⟨0x115, .gDest, .v, .gSrc, 0x1FFF, true, (.vecOnly true), true, .u, vdotOk⟩
  | .vlmul _ => some ⟨0x116, .v, .v, .polarity, 0x1000, true, (.vec true), true, .u, noExtra⟩
  | .vladd _ => some ⟨0x117, .v, .v, .polarity, 0x1000, true, (.vec true), true, .u, noExtra⟩
  | .vtstabn _ => some ⟨0x118, .m, .v, .polarity, 0x400, true, (.noVec true false), true, .u, noExtra⟩
  | .vperm _ => some ⟨0x140, .v, .v, .polarity, 0x1FFF, true, (.vecOnly false), true, .u, noExtra⟩
  | .vslideup _ => some ⟨0x141, .v, .v, .polarity, 0x1FFF, true, (.scalar false false), true, .u, noExtra⟩
  | .vslidedn _ => some ⟨0x142, .v, .v, .polarity, 0x1FFF, true, (.scalar false false), true, .u, noExtra⟩
  | .vcompress _ => some ⟨0x143, .v, .v, .polarity, 0x1FFF, true, (.noVec true false), true, .u, noExtra⟩
  | .vexpand _ => some ⟨0x144, .v, .v, .polarity, 0x1FFF, true, (.noVec true false), true, .u, noExtra⟩
  | .vzip _ => some ⟨0x145, .v, .v, (.code 1), 0x1FFF, true, (.vecOnly false), true, .u, noExtra⟩
  | .vunzip _ => some ⟨0x146, .v, .v, (.code 1), 0x1FFF, true, (.vecOnly false), true, .u, noExtra⟩
  | .vrev _ => some ⟨0x147, .v, .v, .polarity, 0x1FFF, true, (.noVec false false), true, .u, noExtra⟩
  | .vscan _ => some ⟨0x148, .v, .v, .polarity, 0x0FFF, true, (.noVec true false), true, .u, noExtra⟩
  | .vsortk _ => some ⟨0x149, .v, .v, .v, 0x1FFF, true, (.noVec false false), true, .u, sortOk⟩
  | .vld _ => some ⟨0x160, .v, .gSrc, .polarity, 0x1FFF, true, (.all false (.mem true .acquire true true false)), true, .u, noExtra⟩
  | .vlds _ => some ⟨0x161, .v, .gSrc, .polarity, 0x1FFF, true, (.all false (.mem true .acquire true true false)), true, .u, noExtra⟩
  | .vldx _ => some ⟨0x162, .v, .gSrc, .polarity, 0x1FFF, true, (.reg .v (.mem true .acquire true true false)), true, .u, noExtra⟩
  | .vldff _ => some ⟨0x163, .v, .gSrc, .polarity, 0x1FFF, true, (.all false (.mem true .acquire true false false)), true, .u, noExtra⟩
  | .vldxff _ => some ⟨0x164, .v, .gSrc, .polarity, 0x1FFF, true, (.reg .v (.mem true .acquire true false false)), true, .u, noExtra⟩
  | .vst _ => some ⟨0x165, .v, .gSrc, .polarity, 0x1FFF, true, (.all false (.mem true .release true true false)), true, .u, noExtra⟩
  | .vsts _ => some ⟨0x166, .v, .gSrc, .polarity, 0x1FFF, true, (.all false (.mem true .release true true false)), true, .u, noExtra⟩
  | .vstx _ => some ⟨0x167, .v, .gSrc, .polarity, 0x1FFF, true, (.reg .v (.mem true .release true true false)), true, .u, noExtra⟩
  | .vpref _ => some ⟨0x168, .zero, .gSrc, (.code 2), 0x1FFF, true, (.pref (.mem true .relaxed false false false)), true, .u, noExtra⟩
  | .vamo _ => some ⟨0x180, .v, .gSrc, (.code 41), 0xCCC, true, (.reg .v (.mem false .all true true false)), true, .u, vamoOk⟩
  | .vcas _ => some ⟨0x181, .v, .gSrc, .v, 0xCCC, true, (.reg .v (.mem false .all true true false)), true, .u, noExtra⟩
  | .vwait _ => some ⟨0x182, .v, .gSrc, (.code 13), 0xCC, true, (.reg .v (.mem false .relaxed true false false)), true, .u, vwaitOk⟩
  | .ccwait _ => some ⟨0x183, .gDest, (.code 15), .zero, 0x8000, false, (.all false .zero), true, .u, noExtra⟩
  | .ccset _ => some ⟨0x184, (.code 15), .zero, .zero, 0x8000, false, (.all false .zero), true, .u, noExtra⟩
  | .bytewait _ => some ⟨0x185, .gDest, .gSrc, .zero, 0x8000, false, (.all false (.mem false .relaxed true false false)), true, .u, noExtra⟩
  | .bytesub _ => some ⟨0x186, .gDest, .gSrc, .zero, 0x8000, false, (.all false (.mem false .all true false false)), true, .u, noExtra⟩
  | .wmpub _ => some ⟨0x187, .zero, .gSrc, .zero, 0x8000, false, (.all false (.mem false .relaxed true false false)), true, .u, noExtra⟩
  | .wmwait _ => some ⟨0x188, .gDest, .gSrc, .zero, 0x8000, false, (.all false (.mem false .relaxed true false false)), true, .u, noExtra⟩
  | .barrier _ => some ⟨0x189, .zero, .zero, .zero, 0x8000, false, .lit, true, .u, (limOk 3)⟩
  | .tshape _ => some ⟨0x1A0, .gDest, .gSrc, .gSrc, 0x1F00, false, (.all false .zero), true, .u, noExtra⟩
  | .tzero _ => some ⟨0x1A1, (.code 3), .zero, .zero, 0x8000, false, .none, true, .u, noExtra⟩
  | .tmac _ => some ⟨0x1A2, (.code 15), .gSrc, .gSrc, 0x1F00, false, (.reg .g (.mem true .acquire true false false)), true, .u, bNot63⟩
  | .tldacc _ => some ⟨0x1A3, (.code 3), .gSrc, .zero, 0x1F00, false, (.all false (.mem true .acquire true false false)), true, .u, noExtra⟩
  | .tstacc _ => some ⟨0x1A4, (.code 3), .gSrc, (.code 12), 0x1F00, false, (.all false (.mem true .release true false false)), true, .u, tstaccOk⟩
  | .trd _ => some ⟨0x1A5, .v, (.code 3), (.code 1), 0x1F00, true, (.all false .zero), true, .u, noExtra⟩
  | .twr _ => some ⟨0x1A6, (.code 3), .v, (.code 1), 0x1F00, true, (.all false .zero), true, .u, noExtra⟩
  | .vdotv _ => some ⟨0x1A8, .v, .gSrc, .gSrc, 0x1000, true, (.reg .g .vdotv), true, .u, vdotvOk⟩
  | .topkinit _ => some ⟨0x1A9, .zero, .gSrc, .zero, 0x8000, false, (.all false (.mem false .release true false false)), true, .u, noExtra⟩
  | .topki _ => some ⟨0x1AA, .v, .gSrc, .polarity, 0x400, true, (.reg .v (.mem false .release true true false)), true, .u, noExtra⟩
  | .topkr _ => some ⟨0x1AB, .v, .gSrc, .v, 0x400, true, (.noReg (.mem false .acquire true false false)), true, .u, sortOk⟩
  | .sinter _ => some ⟨0x1C0, .v, .gSrc, (.code 1), 0xCC, false, (.noReg (.mem true .acquire true false false)), true, .u, noExtra⟩
  | .smerge _ => some ⟨0x1C1, .v, .gSrc, (.code 1), 0xCC, false, (.noReg (.mem true .acquire true false false)), true, .u, noExtra⟩
  | .hinit _ => some ⟨0x1C2, .zero, .gSrc, .gSrc, 0xCCC, false, (.all false (.mem false .release true true false)), true, .u, noExtra⟩
  | .hacc _ => some ⟨0x1C3, .v, .gSrc, (.code 7), 0xCCC, true, (.reg .v (.mem false .relaxed true false false)), true, .u, noExtra⟩
  | .hdrain _ => some ⟨0x1C4, .v, .gSrc, .v, 0xCCC, false, (.noReg (.mem false .acquire true false false)), true, .u, sortOk⟩
  | .copy _ => some ⟨0x1E0, .gSrc, .gSrc, .zero, 0x8000, false, (.all false (.mem true .release true true false)), true, .u, noExtra⟩
  | .cbcopy _ => some ⟨0x1E1, .gSrc, .gSrc, .zero, 0x8000, false, (.noReg (.mem false .relaxed true true false)), true, .u, noExtra⟩
  | .cbwaitf _ => some ⟨0x1E2, .gDest, .gSrc, .zero, 0x8000, false, (.noReg (.mem false .relaxed true false false)), true, .u, noExtra⟩
  | .cbfree _ => some ⟨0x1E3, .zero, .gSrc, .zero, 0x8000, false, (.all false (.mem false .relaxed true false false)), true, .u, noExtra⟩
  | .publish _ => some ⟨0x1E4, .zero, .gSrc, .zero, 0x8000, false, (.noReg (.mem false .relaxed true true false)), true, .u, noExtra⟩
  | .shadow _ => some ⟨0x1E5, .gDest, .gSrc, .zero, 0x8000, false, .none, true, .u, noExtra⟩
  | .rsend _ => some ⟨0x1E6, .gSrc, .gSrc, .gSrc, 0x8000, false, (.reg .g (.mem false .release true true true)), true, .u, noExtra⟩
  | .rfetch _ => some ⟨0x1E7, .gSrc, .gSrc, .gSrc, 0x8000, false, (.reg .g (.mem false .acquire true true false)), true, .u, noExtra⟩
  | .xsend _ => some ⟨0x1E8, .gDest, .gSrc, .gSrc, 0x8000, false, (.reg .g (.mem false .relaxed true true false)), true, .u, nbNoD⟩
  | .csend _ => some ⟨0x1E9, .gSrc, .v, .zero, 0xC04, true, (.all false (.mem false .relaxed true true false)), true, .u, noExtra⟩
  | .colldef _ => some ⟨0x1EA, .zero, .gSrc, .zero, 0x8000, false, (.all false .zero), true, .u, noExtra⟩
  | .collrun _ => some ⟨0x1EB, .gDest, .zero, .gSrc, 0x8000, false, (.all false .zero), true, .u, noExtra⟩
  | .collwait _ => some ⟨0x1EC, .gDest, .gSrc, .zero, 0x8000, false, .none, true, .u, noExtra⟩
  | .wopen _ => some ⟨0x1ED, .zero, .gSrc, .gSrc, 0x8000, false, (.all false .zero), true, .s, noExtra⟩
  | .wrevoke _ => some ⟨0x1EE, .zero, .zero, .zero, 0x8000, false, (.all false .zero), true, .s, noExtra⟩
  | .grant _ => some ⟨0x1EF, .gDest, .gSrc, .zero, 0x8000, false, (.reg .g .zero), true, .s, noExtra⟩
  | .revoke _ => some ⟨0x1F0, .zero, .gSrc, .zero, 0x8000, false, (.noReg (.mem false .relaxed false true false)), true, .s, noExtra⟩
  | .pFormPair _ _ => none
  | .literalWordExecute _ => none
  | .illegalOpcodeWord _ => none
  | .gret => some ⟨0x06B, .zero, .zero, .zero, 0x8000, false, .none, false, .u, noExtra⟩
  | .exit => some ⟨0x06D, .zero, .zero, .zero, 0x8000, false, .none, false, .u, noExtra⟩
  | .exitRelease => none
  | .yield => some ⟨0x06E, .zero, .zero, .zero, 0x8000, false, .none, false, .u, noExtra⟩
  | .nop => some ⟨0x06F, .zero, .zero, .zero, 0x8000, false, .none, false, .u, noExtra⟩
  | .regionSet => none
  | .regionClear => none
  | .throttle => none
  | .lanes => none
  | .eret => some ⟨0x0A4, .zero, .zero, .zero, 0x8000, false, .none, false, .s, noExtra⟩
  | .trels => some ⟨0x0A9, .zero, .zero, .zero, 0x8000, false, .none, true, .u, noExtra⟩
  | .ifence => some ⟨0x0AE, .zero, .zero, .zero, 0x8000, false, .none, false, .u, noExtra⟩
  | .deferredStoreTrap => none
  | .stepTrap => none
  | .eventTrap => none
  | .timerDeadline => none
  | .doorbellWrite => none
  | .tail => none
  | .ringSize => none
  | .ringBase => none
  | .irq => none
  | .apbase => none
  | .launchAccept => none
  | .afterCellsReady => none
  | .taskStart => none
  | .agingPromotion => none
  | .budgetExpiry => none
  | .quantumExpiry => none
  | .preemptDeferralExpiry => none
  | .preemptionSave => none
  | .contextRestore => none
  | .lostContextResume => none
  | .launchCompletion => none
  | .ccPieceEnd => none
  | .watchWake => none
  | .watchPoll => none
  | .watermarkPush => none
  | .tlbEntryExpiry => none
  | .pageInComplete => none
  | .pageSettledExpiry => none
  | .lanemapApply => none
  | .formatRegionEnable => none
  | .formatRegionDisable => none
  | .readRequest => none
  | .write => none
  | .atomic => none
  | .fabricData => none
  | .orderedFlag => none
  | .orderedFlagCommit => none
  | .collectiveContribution => none
  | .collectiveStep => none
  | .combineSlotExpiry => none
  | .readReply => none
  | .acknowledgement => none
  | .nackBusy => none
  | .nackRetry => none
  | .nackBusyTimeout => none
  | .retryTimeout => none
  | .xsendRetry => none
  | .gangReservationMessage => none
  | .preemptionMessage => none
  | .completionReport => none
  | .windowShootdown => none
  | .railFailure => none
  | .railFailover => none
  | .hostRead => none
  | .hostWrite => none
  | .packageReset => none
  | .rootOfTrustBoot => none
  | .fullServiceTransition => none
  | .spdmGetVersion => none
  | .spdmGetCapabilities => none
  | .spdmNegotiateAlgorithms => none
  | .spdmGetCertificate => none
  | .spdmChallenge => none
  | .spdmGetMeasurements => none
  | .spdmKeyExchange => none
  | .thermalStepUp => none
  | .thermalStepDown => none
  | .thermalClamp => none
  | .thermalTrip => none
  | .voltageDroop => none
  | .voltageDroopExpiry => none
  | .packagePowerLimit => none
  | .modulePowerLimit => none
  | .patrolScrub => none
  | .reservedKindPacket => none
  | .linkLevelRetry => none
  | .gatewayForward => none
  | .firmwareImageUpdate => none
  | .ideKeyManagement => none

/-- The fields of an instruction that takes no operands: zero, and T = 0xF (R179). -/
def Ops.bare : Ops := ⟨0, 0, 0, 15, 0, .reg 0 0⟩

/-- The fields an instruction carries. -/
def Instr.ops? (i : Instr) : Option Ops :=
  match i with
  | .add o => some o
  | .sub o => some o
  | .mul o => some o
  | .mulh o => some o
  | .div o => some o
  | .rem o => some o
  | .and o => some o
  | .or o => some o
  | .xor o => some o
  | .andn o => some o
  | .shl o => some o
  | .shr o => some o
  | .sar o => some o
  | .rol o => some o
  | .min o => some o
  | .max o => some o
  | .cmp o => some o
  | .sel o => some o
  | .clz o => some o
  | .ctz o => some o
  | .popc o => some o
  | .ext o => some o
  | .addsh o => some o
  | .bfx o => some o
  | .bfi o => some o
  | .li o => some o
  | .lih o => some o
  | .mov o => some o
  | .abs o => some o
  | .madd o => some o
  | .fadd o => some o
  | .fsub o => some o
  | .fmul o => some o
  | .ffma o => some o
  | .fdiv o => some o
  | .fsqrt o => some o
  | .fmin o => some o
  | .fmax o => some o
  | .fcmp o => some o
  | .fcvt o => some o
  | .fcvti o => some o
  | .icvtf o => some o
  | .fabs o => some o
  | .fneg o => some o
  | .fclass o => some o
  | .fabn o => some o
  | .br o => some o
  | .bcc o => some o
  | .bz o => some o
  | .bnz o => some o
  | .bmany o => some o
  | .bmall o => some o
  | .bmnone o => some o
  | .call o => some o
  | .callr o => some o
  | .jr o => some o
  | .gate o => some o
  | .loopd o => some o
  | .ld o => some o
  | .st o => some o
  | .ldx o => some o
  | .stx o => some o
  | .ldk o => some o
  | .pref o => some o
  | .amo o => some o
  | .cas o => some o
  | .cas2 o => some o
  | .ldacq o => some o
  | .strel o => some o
  | .acq o => some o
  | .rel o => some o
  | .bind o => some o
  | .unbind o => some o
  | .fence o => some o
  | .mfsr o => some o
  | .mtsr o => some o
  | .mtsrVl o => some o
  | .mtsrVstart o => some o
  | .mtsrVfs o => some o
  | .mtsrLanemap o => some o
  | .mtsrTm o => some o
  | .mtsrTn o => some o
  | .mtsrTk o => some o
  | .mtsrTrow o => some o
  | .mtsrTstat o => some o
  | .mtsrTtype o => some o
  | .mtsrFpflags o => some o
  | .mtsrCc o => some o
  | .mtsrMmode o => some o
  | .mtsrTimer o => some o
  | .mtsrTstatus o => some o
  | .mtsrTvecGtbGtn o => some o
  | .trap o => some o
  | .brk o => some o
  | .tlbinv o => some o
  | .tlbinvDie o => some o
  | .flushr o => some o
  | .cinv o => some o
  | .tclaim o => some o
  | .waitev o => some o
  | .waitevArm o => some o
  | .launch o => some o
  | .ctxsave o => some o
  | .ctxload o => some o
  | .vconfig o => some o
  | .setvl o => some o
  | .setvli o => some o
  | .mset o => some o
  | .mclr o => some o
  | .mand o => some o
  | .mor o => some o
  | .mxor o => some o
  | .mnot o => some o
  | .mandn o => some o
  | .mpop o => some o
  | .mfirst o => some o
  | .mbefore o => some o
  | .mincl o => some o
  | .monly o => some o
  | .mval o => some o
  | .vadd o => some o
  | .vsub o => some o
  | .vmul o => some o
  | .vmulh o => some o
  | .vdiv o => some o
  | .vrem o => some o
  | .vmadd o => some o
  | .vand o => some o
  | .vor o => some o
  | .vxor o => some o
  | .vshl o => some o
  | .vshr o => some o
  | .vsar o => some o
  | .vmin o => some o
  | .vmax o => some o
  | .vadds o => some o
  | .vsubs o => some o
  | .vcmp o => some o
  | .vsel o => some o
  | .vmov o => some o
  | .vsplat o => some o
  | .viota o => some o
  | .vext o => some o
  | .vpopc o => some o
  | .vclz o => some o
  | .vmvxs o => some o
  | .vmvsx o => some o
  | .vabs o => some o
  | .vfadd o => some o
  | .vfsub o => some o
  | .vfmul o => some o
  | .vfma o => some o
  | .vfnma o => some o
  | .vfdiv o => some o
  | .vfsqrt o => some o
  | .vfmin o => some o
  | .vfmax o => some o
  | .vfcmp o => some o
  | .vfcvt o => some o
  | .vfcvti o => some o
  | .vicvtf o => some o
  | .vfabs o => some o
  | .vfneg o => some o
  | .vfrece o => some o
  | .vfrsqe o => some o
  | .vredsum o => some o
  | .vredmin o => some o
  | .vredmax o => some o
  | .vredbit o => some o
  | .vdot o => some o
  | .vlmul o => some o
  | .vladd o => some o
  | .vtstabn o => some o
  | .vperm o => some o
  | .vslideup o => some o
  | .vslidedn o => some o
  | .vcompress o => some o
  | .vexpand o => some o
  | .vzip o => some o
  | .vunzip o => some o
  | .vrev o => some o
  | .vscan o => some o
  | .vsortk o => some o
  | .vld o => some o
  | .vlds o => some o
  | .vldx o => some o
  | .vldff o => some o
  | .vldxff o => some o
  | .vst o => some o
  | .vsts o => some o
  | .vstx o => some o
  | .vpref o => some o
  | .vamo o => some o
  | .vcas o => some o
  | .vwait o => some o
  | .ccwait o => some o
  | .ccset o => some o
  | .bytewait o => some o
  | .bytesub o => some o
  | .wmpub o => some o
  | .wmwait o => some o
  | .barrier o => some o
  | .tshape o => some o
  | .tzero o => some o
  | .tmac o => some o
  | .tldacc o => some o
  | .tstacc o => some o
  | .trd o => some o
  | .twr o => some o
  | .vdotv o => some o
  | .topkinit o => some o
  | .topki o => some o
  | .topkr o => some o
  | .sinter o => some o
  | .smerge o => some o
  | .hinit o => some o
  | .hacc o => some o
  | .hdrain o => some o
  | .copy o => some o
  | .cbcopy o => some o
  | .cbwaitf o => some o
  | .cbfree o => some o
  | .publish o => some o
  | .shadow o => some o
  | .rsend o => some o
  | .rfetch o => some o
  | .xsend o => some o
  | .csend o => some o
  | .colldef o => some o
  | .collrun o => some o
  | .collwait o => some o
  | .wopen o => some o
  | .wrevoke o => some o
  | .grant o => some o
  | .revoke o => some o
  | .pFormPair _ _ => none
  | .literalWordExecute _ => none
  | .illegalOpcodeWord _ => none
  | .gret => some Ops.bare
  | .exit => some Ops.bare
  | .exitRelease => none
  | .yield => some Ops.bare
  | .nop => some Ops.bare
  | .regionSet => none
  | .regionClear => none
  | .throttle => none
  | .lanes => none
  | .eret => some Ops.bare
  | .trels => some Ops.bare
  | .ifence => some Ops.bare
  | .deferredStoreTrap => none
  | .stepTrap => none
  | .eventTrap => none
  | .timerDeadline => none
  | .doorbellWrite => none
  | .tail => none
  | .ringSize => none
  | .ringBase => none
  | .irq => none
  | .apbase => none
  | .launchAccept => none
  | .afterCellsReady => none
  | .taskStart => none
  | .agingPromotion => none
  | .budgetExpiry => none
  | .quantumExpiry => none
  | .preemptDeferralExpiry => none
  | .preemptionSave => none
  | .contextRestore => none
  | .lostContextResume => none
  | .launchCompletion => none
  | .ccPieceEnd => none
  | .watchWake => none
  | .watchPoll => none
  | .watermarkPush => none
  | .tlbEntryExpiry => none
  | .pageInComplete => none
  | .pageSettledExpiry => none
  | .lanemapApply => none
  | .formatRegionEnable => none
  | .formatRegionDisable => none
  | .readRequest => none
  | .write => none
  | .atomic => none
  | .fabricData => none
  | .orderedFlag => none
  | .orderedFlagCommit => none
  | .collectiveContribution => none
  | .collectiveStep => none
  | .combineSlotExpiry => none
  | .readReply => none
  | .acknowledgement => none
  | .nackBusy => none
  | .nackRetry => none
  | .nackBusyTimeout => none
  | .retryTimeout => none
  | .xsendRetry => none
  | .gangReservationMessage => none
  | .preemptionMessage => none
  | .completionReport => none
  | .windowShootdown => none
  | .railFailure => none
  | .railFailover => none
  | .hostRead => none
  | .hostWrite => none
  | .packageReset => none
  | .rootOfTrustBoot => none
  | .fullServiceTransition => none
  | .spdmGetVersion => none
  | .spdmGetCapabilities => none
  | .spdmNegotiateAlgorithms => none
  | .spdmGetCertificate => none
  | .spdmChallenge => none
  | .spdmGetMeasurements => none
  | .spdmKeyExchange => none
  | .thermalStepUp => none
  | .thermalStepDown => none
  | .thermalClamp => none
  | .thermalTrip => none
  | .voltageDroop => none
  | .voltageDroopExpiry => none
  | .packagePowerLimit => none
  | .modulePowerLimit => none
  | .patrolScrub => none
  | .reservedKindPacket => none
  | .linkLevelRetry => none
  | .gatewayForward => none
  | .firmwareImageUpdate => none
  | .ideKeyManagement => none

/-- Each field of the word is one the row accepts (R179, R180, R186), and an L-form has C = 0 (R189). -/
def Form.ok (f : Form) (o : Ops) : Bool :=
  f.d.ok o.d.toNat o.m.toNat && f.a.ok o.a.toNat o.m.toNat && f.c.ok o.c.toNat o.m.toNat
  && f.types.testBit o.t.toNat && (f.masked || o.m == 0)
  && f.b.ok o.t.toNat o.c.toNat o.b && (!o.b.isLForm || o.c == 0)
  && f.extra o

/-! Pairs (R190 to R192). -/

/-- A vector slot names v registers. -/
def SlotOp.isVector : SlotOp → Bool
  | .add => false | .sub => false | .and => false | .or => false | .xor => false | .shl => false | .shr => false | .sar => false
  | .mov => false | .mul => false | .min => false | .max => false
  | .faddF32 => false | .fmulF32 => false | .faddF64 => false | .fmulF64 => false
  | .vaddS32 => true | .vaddS64 => true | .vsubS32 => true | .vand => true | .vor => true | .vxor => true | .vmov => true
  | .vfaddF32 => true | .vfmulF32 => true | .vfaddF64 => true | .vfmulF64 => true | .vfaddBf16 => true | .vlmulL8 => true
  | .vshlS32 => true

/-- A scalar floating slot. -/
def SlotOp.isFp : SlotOp → Bool
  | .faddF32 => true | .fmulF32 => true | .faddF64 => true | .fmulF64 => true
  | .add => false | .sub => false | .and => false | .or => false | .xor => false | .shl => false | .shr => false | .sar => false
  | .mov => false | .mul => false | .min => false | .max => false
  | .vaddS32 => false | .vaddS64 => false | .vsubS32 => false | .vand => false | .vor => false | .vxor => false | .vmov => false
  | .vfaddF32 => false | .vfmulF32 => false | .vfaddF64 => false | .vfmulF64 => false | .vfaddBf16 => false | .vlmulL8 => false
  | .vshlS32 => false

/-- The registers a slot reads: its D and its source register (R192). -/
def Slot.reads (s : Slot) : List Nat :=
  s.d.toNat :: (match s.src with
    | .reg r => [r.toNat]
    | .imm _ => [])

def Slot.isImm (s : Slot) : Bool :=
  match s.src with
  | .reg _ => false
  | .imm _ => true

/-- R192 rule 2: how many reads of a bank of one file a pair makes. A g register and a v register never share a bank. -/
def pairReads (a b : Slot) (vec : Bool) (bank : Nat) : Nat :=
  let part := fun (s : Slot) => if s.op.isVector == vec then (s.reads.filter (fun r => r % 4 == bank)).length else 0
  part a + part b

/-- R192. -/
def pairOk (a b : Slot) : Bool :=
  (a.op.isVector != b.op.isVector || a.d.toNat % 4 != b.d.toNat % 4)
  && ([0, 1, 2, 3].all fun n => decide (pairReads a b false n ≤ 2) && decide (pairReads a b true n ≤ 2))
  && !(a.op.isVector && b.op.isVector)
  && (!(a.op.isVector || a.op.isFp) || !a.isImm) && (!(b.op.isVector || b.op.isFp) || !b.isImm)

/-- R195, R196: the assigned operation codes. -/
def opAssigned (op : Nat) : Bool :=
  (decide (0x001 ≤ op) && decide (op ≤ 0x01E)) || (decide (0x040 ≤ op) && decide (op ≤ 0x04F))
  || (decide (0x060 ≤ op) && decide (op ≤ 0x06F)) || (decide (0x080 ≤ op) && decide (op ≤ 0x08F))
  || (decide (0x0A0 ≤ op) && decide (op ≤ 0x0AE)) || (decide (0x0B0 ≤ op) && decide (op ≤ 0x0DB))
  || (decide (0x100 ≤ op) && decide (op ≤ 0x118)) || (decide (0x140 ≤ op) && decide (op ≤ 0x149))
  || (decide (0x160 ≤ op) && decide (op ≤ 0x168)) || (decide (0x180 ≤ op) && decide (op ≤ 0x189))
  || (decide (0x1A0 ≤ op) && decide (op ≤ 0x1AB) && op != 0x1A7) || (decide (0x1C0 ≤ op) && decide (op ≤ 0x1C4))
  || (decide (0x1E0 ≤ op) && decide (op ≤ 0x1F0))

/-- R177: bits 63:61. -/
def wordForm (w : Word) : Nat := w.toNat / 2 ^ 61
/-- R179, R188: bits 60:52. -/
def wordOp (w : Word) : Nat := bitsOf w.toNat 60 52

/-- R177, R196: a word that traps ILL_OPC. -/
def isIllegalOpcode (w : Word) : Bool :=
  (decide (3 ≤ wordForm w) && decide (wordForm w ≤ 6)) || ((wordForm w == 0 || wordForm w == 2) && !opAssigned (wordOp w))

/-- An instruction whose fields the manual accepts. An event carries no word, and is accepted as it stands. -/
def Instr.wf (i : Instr) : Bool :=
  match i.form, i.ops? with
  | some f, some o => f.ok o
  | _, _ =>
    match i with
    | .pFormPair a b => pairOk a b
    | .literalWordExecute w => wordForm w == 7
    | .illegalOpcodeWord w => isIllegalOpcode w
    | _ => true

/-- Whether an instruction stands for a word of the instruction stream. -/
def Instr.isWord (i : Instr) : Bool :=
  match i.form with
  | some _ => true
  | none =>
    match i with
    | .pFormPair _ _ => true
    | .literalWordExecute _ => true
    | .illegalOpcodeWord _ => true
    | _ => false

end Sys2Proof
end

