-- ==== Sys2Proof/Machine/Flags.lean ====
section
/-! DEFINITION. The flags of FPFLAGS (spec/05_numbers.md R82, R85) and the conditions of spec/11_encoding.md R187. -/

namespace Sys2Proof.Machine

/-- A set of FPFLAGS bits: 5 eo, 4 nv, 3 dz, 2 of, 1 uf, 0 nx (R85). -/
abbrev Flags := BitVec 6

def flagNone : Flags := 0
def flagNX : Flags := 1
def flagUF : Flags := 2
def flagOF : Flags := 4
def flagDZ : Flags := 8
def flagNV : Flags := 16
def flagEO : Flags := 32

/-- `f` when the condition holds. -/
def flagIf (c : Bool) (f : Flags) : Flags := if c then f else flagNone

/-- R187: a comparison of integers. Codes 6 and 7 are floating only and do not reach it. -/
def condInt (c : Nat) (a b : Int) : Bool :=
  match c with
  | 0 => a == b
  | 1 => a != b
  | 2 => decide (a < b)
  | 3 => decide (a ≤ b)
  | 4 => decide (a > b)
  | 5 => decide (a ≥ b)
  | _ => false

end Sys2Proof.Machine
end

