-- ==== Sys2Proof/Machine/Numbers.lean ====
section
/-! DEFINITION. Number formats and arithmetic (spec/05_numbers.md R77 to R106): integers, IEEE formats with one rounding, L8, L6 and EA96.
Values stand as bit patterns in Nat; exact results stand as integers, or as fractions of naturals. -/

namespace Sys2Proof.Machine

/-! Types (R186). -/

/-- The width in bits of a type code; 64 for untyped. -/
def typeWidth (t : Nat) : Nat :=
  match t with
  | 0 => 8 | 1 => 16 | 2 => 32 | 3 => 64
  | 4 => 8 | 5 => 16 | 6 => 32 | 7 => 64
  | 8 => 16 | 9 => 16 | 10 => 32 | 11 => 64
  | 12 => 8
  | _ => 64

/-- `.s8` to `.s64`. -/
def typeSigned (t : Nat) : Bool := decide (t < 4)
/-- `.s8` to `.n64`. -/
def typeInt (t : Nat) : Bool := decide (t < 8)
/-- `.f16`, `.bf16`, `.f32` and `.f64`. -/
def typeFp (t : Nat) : Bool := decide (8 ≤ t) && decide (t ≤ 11)

/-- The low `w` bits of a number. -/
def low (w x : Nat) : Nat := x % 2 ^ w

/-- A pattern of width `w` read as a two's complement number. -/
def signedOf (w x : Nat) : Int := if low w x < 2 ^ (w - 1) then (low w x : Int) else (low w x : Int) - (2 ^ w : Nat)

/-- The pattern of width `w` of an integer (R7, R77). -/
def wrapInt (w : Nat) (x : Int) : Nat := (x % ((2 ^ w : Nat) : Int)).toNat

/-- The value that an integer type reads from a pattern (R216). -/
def intOf (t x : Nat) : Int := if typeSigned t then signedOf (typeWidth t) x else (low (typeWidth t) x : Int)

/-- R216, R217, R231: a result of type `t` extended to `w` bits: by sign for `.s` types, by zeros otherwise. -/
def extendTo (w t x : Nat) : Nat := if typeSigned t then wrapInt w (signedOf (typeWidth t) x) else low (typeWidth t) x

/-- R78: the quotient of width `w`. -/
def divInt (a b : Int) : Int :=
  if b = 0 then -1 else (Int.tdiv a b)

/-- R78: the remainder. -/
def remInt (a b : Int) : Int := if b = 0 then a else Int.tmod a b

/-- Leading zeros among `w` bits. -/
def clz (w x : Nat) : Nat := if low w x = 0 then w else w - 1 - Nat.log2 (low w x)

/-- Trailing zeros, counted over at most `w` bits. -/
def ctz : Nat → Nat → Nat
  | 0, _ => 0
  | w + 1, x => if x % 2 = 1 then 0 else 1 + ctz w (x / 2)

/-- The number of one bits among `w` bits. -/
def popc : Nat → Nat → Nat
  | 0, _ => 0
  | w + 1, x => x % 2 + popc w (x / 2)

/-- R77: clamp to the range of an integer type. -/
def saturate (t : Nat) (x : Int) : Int :=
  let w := typeWidth t
  if typeSigned t then clampInt x (-((2 ^ (w - 1) : Nat) : Int)) (((2 ^ (w - 1) : Nat) : Int) - 1)
  else clampInt x 0 (((2 ^ w : Nat) : Int) - 1)

/-! IEEE formats (R80). -/

/-- A binary format: exponent bits and significand precision. -/
structure Fmt where
  ebits : Nat
  prec  : Nat
deriving DecidableEq, Repr

def fmt16 : Fmt := ⟨5, 11⟩
def fmtB16 : Fmt := ⟨8, 8⟩
def fmt32 : Fmt := ⟨8, 24⟩
def fmt64 : Fmt := ⟨11, 53⟩

/-- The format of a floating type code. -/
def fmtOf (t : Nat) : Fmt :=
  match t with
  | 8 => fmt16
  | 9 => fmtB16
  | 10 => fmt32
  | _ => fmt64

namespace Fmt
def fracBits (f : Fmt) : Nat := f.prec - 1
def width (f : Fmt) : Nat := f.ebits + f.prec
def emax (f : Fmt) : Int := (2 ^ (f.ebits - 1) : Nat) - 1
def emin (f : Fmt) : Int := 1 - f.emax
def expOnes (f : Fmt) : Nat := 2 ^ f.ebits - 1
/-- The sign bit in place. -/
def signBit (f : Fmt) (neg : Bool) : Nat := if neg then 2 ^ (f.width - 1) else 0
def zero (f : Fmt) (neg : Bool) : Nat := f.signBit neg
def inf (f : Fmt) (neg : Bool) : Nat := f.signBit neg + f.expOnes * 2 ^ f.fracBits
/-- R83: the canonical NaN. -/
def nan (f : Fmt) : Nat := f.expOnes * 2 ^ f.fracBits + 2 ^ (f.fracBits - 1)
def maxFinite (f : Fmt) (neg : Bool) : Nat := f.signBit neg + (f.expOnes * 2 ^ f.fracBits - 1)
end Fmt

/-- What a pattern of an IEEE format stands for. A finite value is `m * 2^e`. -/
inductive FVal where
  | nan (signalling : Bool)
  | inf (neg : Bool)
  | fin (neg : Bool) (m : Nat) (e : Int)
deriving DecidableEq, Repr

/-- The value of a pattern (R80). -/
def fdecode (f : Fmt) (x : Nat) : FVal :=
  let frac := low f.fracBits x
  let ex := low f.ebits (x / 2 ^ f.fracBits)
  let neg := (x / 2 ^ (f.width - 1)) % 2 == 1
  if ex = f.expOnes then
    if frac = 0 then .inf neg else .nan (frac / 2 ^ (f.fracBits - 1) == 0)
  else if ex = 0 then .fin neg frac (f.emin - (f.fracBits : Int))
  else .fin neg (frac + 2 ^ f.fracBits) ((ex : Int) - f.emax - (f.fracBits : Int))

namespace FVal
def isNan : FVal → Bool
  | .nan _ => true
  | .inf _ => false
  | .fin _ _ _ => false
def isSignalling : FVal → Bool
  | .nan s => s
  | .inf _ => false
  | .fin _ _ _ => false
def isInf : FVal → Bool
  | .inf _ => true
  | .nan _ => false
  | .fin _ _ _ => false
def isZero : FVal → Bool
  | .fin _ m _ => m == 0
  | .nan _ => false
  | .inf _ => false
def neg : FVal → Bool
  | .fin n _ _ => n
  | .inf n => n
  | .nan _ => false
/-- The value with its sign inverted. -/
def flip : FVal → FVal
  | .fin n m e => .fin (!n) m e
  | .inf n => .inf (!n)
  | .nan s => .nan s
/-- The signed significand of a finite value; 0 for the others. -/
def signif : FVal → Int
  | .fin n m _ => if n then -(m : Int) else (m : Int)
  | .nan _ => 0
  | .inf _ => 0
def exp : FVal → Int
  | .fin _ _ e => e
  | .nan _ => 0
  | .inf _ => 0
end FVal

/-- R105: an abandoned-result pattern. -/
def isAbn (x : Nat) : Bool := decide (0xFFA00000 ≤ x) && decide (x ≤ 0xFFA000FF)

/-! Rounding modes (R85): 0 RNE, 1 RTZ, 2 RUP, 3 RDN. -/

def rmRNE : Nat := 0

/-- Whether a magnitude between `m` and `m + 1` rounds up: `r / d` is the part above `m`, and `sticky` says that the exact
magnitude lies just above that. -/
def roundsUp (rm : Nat) (neg : Bool) (m r d : Nat) (sticky : Bool) : Bool :=
  let inexact := r != 0 || sticky
  match rm with
  | 0 => decide (2 * r > d) || (2 * r == d && (sticky || m % 2 == 1))
  | 1 => false
  | 2 => inexact && !neg
  | _ => inexact && neg

/-- `n * 2^k` over `d`, with both signs of `k`: a fraction as a pair. -/
def scaleFrac (n d : Nat) (k : Int) : Nat × Nat :=
  if 0 ≤ k then (n * 2 ^ k.toNat, d) else (n, d * 2 ^ (-k).toNat)

/-- The exponent of the leading bit of `n / d`, for positive `n` and `d`. -/
def leadExp (n d : Nat) : Int :=
  let e := (Nat.log2 n : Int) - (Nat.log2 d : Int)
  let (a, b) := scaleFrac n d (-e)
  if a < b then e - 1 else e

/-- The integer next to `n / d / 2^q` under `rm`, and whether the exact value differs from it. -/
def roundAt (rm : Nat) (neg : Bool) (n d : Nat) (sticky : Bool) (q : Int) : Nat × Bool :=
  let (a, b) := scaleFrac n d (-q)
  let m := a / b
  let r := a % b
  (if roundsUp rm neg m r b sticky then m + 1 else m, r != 0 || sticky)

/-- R12, R82: the magnitude `n / d` (just above it when `sticky`) rounded to format `f` with at most `prec` significant bits,
with its flags. Tininess is detected after rounding. -/
def roundFrac (f : Fmt) (prec rm : Nat) (neg : Bool) (n d : Nat) (sticky : Bool) : Nat × Flags :=
  if n = 0 then (f.zero neg, flagNone)
  else
    let e := leadExp n d
    let bottom := f.emin - (f.fracBits : Int)
    let q := max (e - ((prec : Int) - 1)) bottom
    let (m, inexact) := roundAt rm neg n d sticky q
    let (mu, _) := roundAt rm neg n d sticky (e - ((prec : Int) - 1))
    let tiny := decide (e < f.emin - 1) || (decide (e = f.emin - 1) && decide (mu < 2 ^ prec))
    let flags := flagIf inexact flagNX ||| flagIf (tiny && inexact) flagUF
    if m = 0 then (f.zero neg, flags)
    else
      let top := (Nat.log2 m : Int) + q
      if top > f.emax then
        let toInf := rm == 0 || (rm == 2 && !neg) || (rm == 3 && neg)
        (if toInf then f.inf neg else f.maxFinite neg, flagOF ||| flagNX)
      else if top < f.emin then (f.signBit neg + m * 2 ^ (q - bottom).toNat, flags)
      else
        let frac := (scaleFrac m 1 (q - top + (f.fracBits : Int))).1 / (scaleFrac m 1 (q - top + (f.fracBits : Int))).2
        (f.signBit neg + ((top + f.emax).toNat) * 2 ^ f.fracBits + (frac - 2 ^ f.fracBits), flags)

/-- The exact integer `m * 2^e` rounded to a format. A zero takes the sign `zneg`. -/
def roundDyadic (f : Fmt) (rm : Nat) (zneg : Bool) (m : Int) (e : Int) : Nat × Flags :=
  if m = 0 then (f.zero zneg, flagNone)
  else
    let (n, d) := scaleFrac m.natAbs 1 e
    roundFrac f f.prec rm (decide (m < 0)) n d false

/-- The sum `m1 * 2^e1 + m2 * 2^e2` as one integer and exponent. -/
def dyadicAdd (m1 e1 m2 e2 : Int) : Int × Int :=
  let e := min e1 e2
  (m1 * ((2 ^ (e1 - e).toNat : Nat) : Int) + m2 * ((2 ^ (e2 - e).toNat : Nat) : Int), e)

/-- R82, R83: NV for a signalling operand, with the canonical NaN. -/
def nanResult (f : Fmt) (signalling : Bool) : Nat × Flags := (f.nan, flagIf signalling flagNV)

/-- The sum of two exact values, rounded once. -/
def addVal (f : Fmt) (rm : Nat) (a b : FVal) : Nat × Flags :=
  if a.isNan || b.isNan then nanResult f (a.isSignalling || b.isSignalling)
  else if a.isInf && b.isInf then (if a.neg == b.neg then (f.inf a.neg, flagNone) else (f.nan, flagNV))
  else if a.isInf then (f.inf a.neg, flagNone)
  else if b.isInf then (f.inf b.neg, flagNone)
  else
    let (m, e) := dyadicAdd a.signif a.exp b.signif b.exp
    let zneg := if a.isZero && b.isZero && a.neg == b.neg then a.neg else rm == 3
    roundDyadic f rm zneg m e

/-- The exact product of two values that are not NaNs. `none` for infinity times zero. -/
def mulExact (a b : FVal) : Option FVal :=
  let neg := a.neg != b.neg
  if (a.isInf && b.isZero) || (a.isZero && b.isInf) then none
  else if a.isInf || b.isInf then some (.inf neg)
  else some (.fin neg (a.signif.natAbs * b.signif.natAbs) (a.exp + b.exp))

def mulVal (f : Fmt) (rm : Nat) (a b : FVal) : Nat × Flags :=
  if a.isNan || b.isNan then nanResult f (a.isSignalling || b.isSignalling)
  else
    match mulExact a b with
    | none => (f.nan, flagNV)
    | some (.inf neg) => (f.inf neg, flagNone)
    | some (.fin neg m e) => roundDyadic f rm neg (if neg then -(m : Int) else (m : Int)) e
    | some (.nan _) => (f.nan, flagNone)

/-- R82: a fused multiply-add, rounded once. An invalid product is invalid whatever the addend holds. -/
def fmaVal (f : Fmt) (rm : Nat) (a b c : FVal) : Nat × Flags :=
  let sig := a.isSignalling || b.isSignalling || c.isSignalling
  if !a.isNan && !b.isNan && (mulExact a b).isNone then (f.nan, flagNV)
  else if a.isNan || b.isNan || c.isNan then nanResult f sig
  else
    match mulExact a b with
    | some p => addVal f rm p c
    | none => (f.nan, flagNV)

def divVal (f : Fmt) (rm : Nat) (a b : FVal) : Nat × Flags :=
  let neg := a.neg != b.neg
  if a.isNan || b.isNan then nanResult f (a.isSignalling || b.isSignalling)
  else if (a.isInf && b.isInf) || (a.isZero && b.isZero) then (f.nan, flagNV)
  else if a.isInf then (f.inf neg, flagNone)
  else if b.isInf || a.isZero then (f.zero neg, flagNone)
  else if b.isZero then (f.inf neg, flagDZ)
  else
    let (n, d) := scaleFrac a.signif.natAbs b.signif.natAbs (a.exp - b.exp)
    roundFrac f f.prec rm neg n d false

/-- The integer square root by bits: the greatest `r` with `r * r ≤ n`, found from bit `k - 1` down. -/
def isqrtBits (n : Nat) : Nat → Nat → Nat
  | 0, r => r
  | k + 1, r => isqrtBits n k (if (r + 2 ^ k) * (r + 2 ^ k) ≤ n then r + 2 ^ k else r)

/-- The integer square root. -/
def isqrt (n : Nat) : Nat := isqrtBits n (Nat.log2 n / 2 + 1) 0

/-- The square root of `m * 2^e` as `r * 2^k` with a sticky mark, with at least `bits` bits in `r`. -/
def sqrtParts (m : Nat) (e : Int) (bits : Nat) : Nat × Int × Bool :=
  let shift : Nat := 2 * bits + 2
  let m1 := m * 2 ^ shift
  let e1 := e - (shift : Int)
  let (m2, e2) := if e1 % 2 = 0 then (m1, e1) else (2 * m1, e1 - 1)
  let r := isqrt m2
  (r, e2 / 2, decide (r * r ≠ m2))

/-- FSQRT (R220). -/
def sqrtVal (f : Fmt) (rm : Nat) (a : FVal) : Nat × Flags :=
  match a with
  | .nan s => nanResult f s
  | .inf neg => if neg then (f.nan, flagNV) else (f.inf false, flagNone)
  | .fin neg m e =>
    if m = 0 then (f.zero neg, flagNone)
    else if neg then (f.nan, flagNV)
    else
      let (r, k, sticky) := sqrtParts m e f.prec
      let (n, d) := scaleFrac r 1 k
      roundFrac f f.prec rm false n d sticky

/-- A total comparison of values that are not NaNs, with both zeros equal: whether `a < b`. -/
def ltVal (a b : FVal) : Bool :=
  match a, b with
  | .inf na, .inf nb => na && !nb
  | .inf na, _ => na
  | _, .inf nb => !nb
  | _, _ =>
    let e := min a.exp b.exp
    decide (a.signif * ((2 ^ (a.exp - e).toNat : Nat) : Int) < b.signif * ((2 ^ (b.exp - e).toNat : Nat) : Int))

/-- R84: whether `a` comes before `b` for minimumNumber, with −0 below +0. -/
def beforeVal (a b : FVal) : Bool := ltVal a b || (!ltVal b a && a.neg && !b.neg)

/-- R84: minimumNumber (`max` false) or maximumNumber of two patterns. -/
def minMaxVal (f : Fmt) (max : Bool) (x y : Nat) : Nat × Flags :=
  let a := fdecode f x
  let b := fdecode f y
  let fl := flagIf (a.isSignalling || b.isSignalling) flagNV
  if a.isNan && b.isNan then (f.nan, fl)
  else if a.isNan then (low f.width y, fl)
  else if b.isNan then (low f.width x, fl)
  else if beforeVal a b == max then (low f.width y, fl)
  else (low f.width x, fl)

/-- R84, R187: a floating comparison and its flags. -/
def condFp (c : Nat) (a b : FVal) : Bool × Flags :=
  let un := a.isNan || b.isNan
  let sig := a.isSignalling || b.isSignalling
  let eq := !un && !ltVal a b && !ltVal b a
  match c with
  | 0 => (eq, flagIf sig flagNV)
  | 1 => (!eq, flagIf sig flagNV)
  | 2 => (!un && ltVal a b, flagIf un flagNV)
  | 3 => (!un && (ltVal a b || eq), flagIf un flagNV)
  | 4 => (!un && ltVal b a, flagIf un flagNV)
  | 5 => (!un && (ltVal b a || eq), flagIf un flagNV)
  | 6 => (un, flagIf sig flagNV)
  | _ => (!un, flagIf sig flagNV)

/-- R220: |a| or −a: a NaN becomes canonical, and sets NV when signalling. -/
def signOp (f : Fmt) (negate : Bool) (x : Nat) : Nat × Flags :=
  let a := fdecode f x
  if a.isNan then nanResult f a.isSignalling
  else if negate then ((low f.width x + 2 ^ (f.width - 1)) % 2 ^ f.width, flagNone)
  else (low (f.width - 1) x, flagNone)

/-- The conversion of a value to another IEEE format (R221). -/
def convVal (f : Fmt) (rm : Nat) (a : FVal) : Nat × Flags :=
  match a with
  | .nan s => nanResult f s
  | .inf neg => (f.inf neg, flagNone)
  | .fin neg m e => roundDyadic f rm neg (if neg then -(m : Int) else (m : Int)) e

/-- The nearest integer to a finite value under `rm`, and whether it is inexact. -/
def roundInt (rm : Nat) (neg : Bool) (m : Nat) (e : Int) : Int × Bool :=
  let (n, d) := scaleFrac m 1 e
  let (r, inexact) := roundAt rm neg n d false 0
  (if neg then -(r : Int) else (r : Int), inexact)

/-- R84: conversion to an integer type. -/
def toIntVal (t rm : Nat) (a : FVal) : Nat × Flags :=
  let w := typeWidth t
  let lo : Int := if typeSigned t then -((2 ^ (w - 1) : Nat) : Int) else 0
  let hi : Int := if typeSigned t then ((2 ^ (w - 1) : Nat) : Int) - 1 else ((2 ^ w : Nat) : Int) - 1
  match a with
  | .nan _ => (0, flagNV)
  | .inf neg => (wrapInt w (if neg then lo else hi), flagNV)
  | .fin neg m e =>
    let (x, inexact) := roundInt rm neg m e
    if x < lo then (wrapInt w lo, flagNV)
    else if x > hi then (wrapInt w hi, flagNV)
    else (wrapInt w x, flagIf inexact flagNX)

/-- R84: conversion of an integer to an IEEE format. -/
def ofIntVal (f : Fmt) (rm : Nat) (x : Int) : Nat × Flags := roundDyadic f rm false x 0

/-! L8 (R86 to R90). -/

/-- T of R87. -/
def l8T (f : Nat) : Nat :=
  match f with
  | 0 => 256
  | 1 => 304
  | 2 => 362
  | _ => 431

/-- Whether an L8 byte encodes zero (R86). -/
def l8Zero (x : Nat) : Bool := x % 128 == 64

/-- The log code L of an L8 byte. -/
def l8Log (x : Nat) : Int := signedOf 7 (x % 128)

def l8Neg (x : Nat) : Bool := (x / 128) % 2 == 1

/-- The L8 byte of a sign and a log code from −63 to 63. -/
def l8Pack (neg : Bool) (l : Int) : Nat := (if neg then 128 else 0) + wrapInt 7 l

/-- The magnitude of log code `l` in units of `2^-8 × 2^i`: T[f] and i (R87). -/
def l8Parts (l : Int) : Nat × Int :=
  let i := l / 4
  (l8T (l - 4 * i).toNat, i)

/-- R87, R90: the value of an L8 byte; a zero keeps its sign. -/
def l8Val (x : Nat) : FVal :=
  if l8Zero x then .fin (l8Neg x) 0 0
  else
    let (t, i) := l8Parts (l8Log x)
    .fin (l8Neg x) t (i - 8)

/-- R88. -/
def l8Mul (a b : Nat) : Nat × Flags :=
  if l8Zero a || l8Zero b then (0x40, flagNone)
  else
    let l := l8Log a + l8Log b
    let neg := l8Neg a != l8Neg b
    if l > 63 then (l8Pack neg 63, flagOF ||| flagNX)
    else if l < -63 then (l8Pack neg (-63), flagUF ||| flagNX)
    else (l8Pack neg l, flagNone)

/-- R89: ToL8 of the real number of sign `neg` and magnitude `n / d`. -/
def toL8Frac (neg : Bool) (n d : Nat) : Nat × Flags :=
  if n = 0 then (0x40, flagNone)
  else
    let i := leadExp n d
    -- m = a / b, with 256 ≤ m < 512
    let (a, b) := scaleFrac n d (8 - i)
    let (f, i') : Nat × Int :=
      if a ≤ 280 * b then (0, i)
      else if a < 333 * b then (1, i)
      else if 2 * a ≤ 793 * b then (2, i)
      else if 2 * a < 943 * b then (3, i)
      else (0, i + 1)
    let l := 4 * i' + (f : Int)
    if l < -63 then (0x40, flagUF ||| flagNX)
    else if l > 63 then (l8Pack neg 63, flagOF ||| flagNX)
    else (l8Pack neg l, flagIf (i' != i || a != l8T f * b) flagNX)

/-- ToL8 of the dyadic number `m * 2^e`. -/
def toL8Dyadic (m e : Int) : Nat × Flags :=
  let (n, d) := scaleFrac m.natAbs 1 e
  toL8Frac (decide (m < 0)) n d

/-- R90: an IEEE value to L8. -/
def l8OfVal (a : FVal) : Nat × Flags :=
  match a with
  | .nan _ => (0x40, flagNV)
  | .inf neg => (l8Pack neg 63, flagOF ||| flagNX)
  | .fin _ _ _ => toL8Dyadic a.signif a.exp

/-! EA96 (R98 to R101), in units of 2^-40. -/

def eaMin : Int := -((2 ^ 95 : Nat) : Int)
def eaMax : Int := ((2 ^ 95 : Nat) : Int) - 1

/-- EA(x). -/
def eaOf (x : Nat) : Int :=
  if l8Zero x then 0
  else
    let (t, i) := l8Parts (l8Log x)
    let v : Int := ((t * 2 ^ (i + 32).toNat : Nat) : Int)
    if l8Neg x then -v else v

/-- EAprod(a, b). -/
def eaProd (a b : Nat) : Int :=
  if l8Zero a || l8Zero b then 0
  else
    let (t, i) := l8Parts (l8Log a + l8Log b)
    let v : Int := ((t * 2 ^ (i + 32).toNat : Nat) : Int)
    if l8Neg a != l8Neg b then -v else v

/-- R100: one addition in EA96, with a mark when it saturates. -/
def eaAdd (s x : Int) : Int × Bool :=
  let r := s + x
  if r < eaMin then (eaMin, true) else if r > eaMax then (eaMax, true) else (r, false)

/-- R101: EA96 to an IEEE format, by RNE. -/
def eaToFmt (f : Fmt) (s : Int) : Nat × Flags := roundDyadic f rmRNE false s (-40)

/-- R101: EA96 to L8. -/
def eaToL8 (s : Int) : Nat × Flags := toL8Dyadic s (-40)

/-! Operations by type code. -/

/-- The value of a pattern under a floating type or `.l8`. -/
def valOf (t x : Nat) : FVal := if t == 12 then l8Val (low 8 x) else fdecode (fmtOf t) (low (typeWidth t) x)

/-- R81, R89, R90: a value rounded to a floating type or `.l8`. -/
def toType (t rm : Nat) (a : FVal) : Nat × Flags := if t == 12 then l8OfVal a else convVal (fmtOf t) rm a

/-- The rounding that a conversion names (R221, R234): 0 is FPMODE. -/
def convRm (code fpmode : Nat) : Nat := if code == 0 then fpmode else code - 1

/-- FCVT (R221): source type `c`, destination type `t`. -/
def fcvtOp (c t rm x : Nat) : Nat × Flags := toType t rm (valOf c x)

/-- FCVTI (R221). -/
def fcvtiOp (c t rm x : Nat) : Nat × Flags := toIntVal t rm (valOf c x)

/-- ICVTF (R221). -/
def icvtfOp (c t rm x : Nat) : Nat × Flags :=
  if t == 12 then toL8Dyadic (intOf c x) 0 else ofIntVal (fmtOf t) rm (intOf c x)

/-- R181, R182: a binary32 pattern used as an operand of type `t`, setting no flag. An ABN is treated as a signalling NaN. -/
def f32As (t x : Nat) : Nat :=
  if t == 10 then x
  else if t == 12 then (l8OfVal (fdecode fmt32 x)).1
  else (convVal (fmtOf t) rmRNE (fdecode fmt32 x)).1

/-- R244: VFRECE and VFRSQE. The estimate has at most min(12, P) significant bits. -/
def estimateFlags (f : Fmt) (r : Nat × Flags) : Nat × Flags :=
  if r.2 &&& flagOF ≠ 0 then (r.1, flagOF)
  else if low (f.width - 1) r.1 < 2 ^ f.fracBits then (r.1, flagUF)
  else (r.1, flagNone)

def vfreceOp (f : Fmt) (a : FVal) : Nat × Flags :=
  match a with
  | .nan s => nanResult f s
  | .inf neg => (f.zero neg, flagNone)
  | .fin neg m e =>
    if m = 0 then (f.inf neg, flagDZ)
    else
      let (n, d) := scaleFrac 1 m (-e)
      estimateFlags f (roundFrac f (min 12 f.prec) rmRNE neg n d false)

def vfrsqeOp (f : Fmt) (a : FVal) : Nat × Flags :=
  match a with
  | .nan s => nanResult f s
  | .inf neg => if neg then (f.nan, flagNV) else (f.zero false, flagNone)
  | .fin neg m e =>
    if m = 0 then (f.inf neg, flagDZ)
    else if neg then (f.nan, flagNV)
    else
      -- 1 / sqrt(x) = sqrt(1 / x): the root of 2^k / m, with a sticky mark
      let k : Nat := 2 * (Nat.log2 m + 64)
      let (m1, e1) : Nat × Int := if e % 2 = 0 then (m, e) else (2 * m, e - 1)
      let q := 2 ^ k / m1
      let r := isqrt q
      let (n, d) := scaleFrac r 1 (-((k : Int) / 2) - e1 / 2)
      estimateFlags f (roundFrac f (min 12 f.prec) rmRNE false n d (decide (r * r * m1 ≠ 2 ^ k)))

/-- FCLASS (R222): the number of the bit set. -/
def fclassBit (t x : Nat) : Nat :=
  if t == 12 then (if l8Zero x then (if l8Neg x then 3 else 4) else if l8Neg x then 1 else 6)
  else if t == 10 && isAbn (low 32 x) then 10
  else
    let f := fmtOf t
    match fdecode f (low f.width x) with
    | .nan s => if s then 8 else 9
    | .inf neg => if neg then 0 else 7
    | .fin neg m _ =>
      if m = 0 then (if neg then 3 else 4)
      else if m < 2 ^ f.fracBits then (if neg then 2 else 5)
      else (if neg then 1 else 6)

/-! L6 blocks (R91 to R94). -/

/-- The 6-bit field of element `j` of a packed block, as a bit string of 48 bytes read little-endian (R91). -/
def l6Field (packed : Nat) (j : Nat) : Nat := (packed / 2 ^ (6 * j)) % 64

/-- R93: one element decoded under scale `s`. -/
def l6Decode (s : Int) (field : Nat) : Nat :=
  let l := signedOf 5 (field % 32)
  if s = -128 || l = -16 then 0x40 else l8Pack (decide (field / 32 = 1)) (clampInt (l + 4 * s) (-63) 63)

/-- R93: 64 L8 bytes of a block and its INV marker. -/
def l6DecodeBlock (s : Int) (packed : Nat) : List Nat × Bool :=
  ((List.range 64).map (fun j => l6Decode s (l6Field packed j)), decide (s = -128))

/-- R94: the largest L of the non-zero elements. -/
def l8MaxLog (xs : List Nat) : Option Int :=
  xs.foldl (fun acc x => if l8Zero x then acc else
    match acc with
    | none => some (l8Log x)
    | some m => some (max m (l8Log x))) none

/-- R94: the scale of a block. -/
def l6Scale (xs : List Nat) : Int :=
  match l8MaxLog xs with
  | none => 0
  | some hi => -((15 - hi) / 4)

/-- R94: one element encoded under scale `s`: its 6-bit field. -/
def l6Encode (s : Int) (x : Nat) : Nat :=
  if l8Zero x || decide (l8Log x - 4 * s < -15) then 16
  else (if l8Neg x then 32 else 0) + wrapInt 5 (l8Log x - 4 * s)

/-- R94: the scale byte, the bound byte and the packed bits of a block of 64 L8 bytes. -/
def l6EncodeBlock (inv : Bool) (xs : List Nat) : Nat × Nat × Nat :=
  if inv then (0x80, 0xF0, 0)
  else
    let s := l6Scale xs
    let fields := xs.map (l6Encode s)
    let bound := fields.foldl (fun (acc : Int) f => if f % 32 = 16 then acc else max acc (signedOf 5 (f % 32))) (-16)
    (wrapInt 8 s, wrapInt 8 bound, (fields.zipIdx).foldl (fun acc p => acc + p.1 * 2 ^ (6 * p.2)) 0)

end Sys2Proof.Machine
end

