-- ==== Sys2Proof/Decode.lean ====
section
/-! DEFINITION. Decoding an instruction word (spec/11_encoding.md R177 to R196), and an encoder from the same tables. -/

namespace Sys2Proof

/-! The map of operation codes (R195). -/

/-- MTSR, by the register that it writes. -/
def mtsrOf (o : Ops) : Instr :=
  match srGroupOf o.b.bits with
  | .vl => .mtsrVl o | .vstart => .mtsrVstart o | .vfs => .mtsrVfs o | .lanemap => .mtsrLanemap o
  | .tm => .mtsrTm o | .tn => .mtsrTn o | .tk => .mtsrTk o | .trow => .mtsrTrow o | .tstat => .mtsrTstat o | .ttype => .mtsrTtype o
  | .fpflags => .mtsrFpflags o | .cc => .mtsrCc o | .mmode => .mtsrMmode o | .timer => .mtsrTimer o | .tstatus => .mtsrTstatus o
  | .tvec_gtb_gtn => .mtsrTvecGtbGtn o | .other => .mtsr o

/-- TLBINV, by C (R347, R351). -/
def tlbinvOf (o : Ops) : Instr := if o.c == 1 then .tlbinvDie o else .tlbinv o

/-- WAITEV, by C bit 0 (R347, R354). -/
def waitevOf (o : Ops) : Instr := if o.c == 1 then .waitevArm o else .waitev o

/-- OP 0x001 to 0x01E (R195). -/
def scalarIntegerOps : List (Ops → Instr) :=
  [.add, .sub, .mul, .mulh, .div, .rem, .and, .or,
   .xor, .andn, .shl, .shr, .sar, .rol, .min, .max,
   .cmp, .sel, .clz, .ctz, .popc, .ext, .addsh, .bfx,
   .bfi, .li, .lih, .mov, .abs, .madd]

/-- OP 0x040 to 0x04F (R195). -/
def scalarFloatOps : List (Ops → Instr) :=
  [.fadd, .fsub, .fmul, .ffma, .fdiv, .fsqrt, .fmin, .fmax,
   .fcmp, .fcvt, .fcvti, .icvtf, .fabs, .fneg, .fclass, .fabn]

/-- OP 0x060 to 0x06F (R195). -/
def controlOps : List (Ops → Instr) :=
  [.br, .bcc, .bz, .bnz, .bmany, .bmall, .bmnone, .call,
   .callr, .jr, .gate, (fun _ => .gret), .loopd, (fun _ => .exit), (fun _ => .yield), (fun _ => .nop)]

/-- OP 0x080 to 0x08F (R195). -/
def scalarMemoryOps : List (Ops → Instr) :=
  [.ld, .st, .ldx, .stx, .ldk, .pref, .amo, .cas,
   .cas2, .ldacq, .strel, .acq, .rel, .bind, .unbind, .fence]

/-- OP 0x0A0 to 0x0AE (R195). -/
def systemOps : List (Ops → Instr) :=
  [.mfsr, mtsrOf, .trap, .brk, (fun _ => .eret), tlbinvOf, .flushr, .cinv,
   .tclaim, (fun _ => .trels), waitevOf, .launch, .ctxsave, .ctxload, (fun _ => .ifence)]

/-- OP 0x0B0 to 0x0BF (R195). -/
def vectorConfigOps : List (Ops → Instr) :=
  [.vconfig, .setvl, .setvli, .mset, .mclr, .mand, .mor, .mxor,
   .mnot, .mandn, .mpop, .mfirst, .mbefore, .mincl, .monly, .mval]

/-- OP 0x0C0 to 0x0DB (R195). -/
def vectorIntegerOps : List (Ops → Instr) :=
  [.vadd, .vsub, .vmul, .vmulh, .vdiv, .vrem, .vmadd, .vand,
   .vor, .vxor, .vshl, .vshr, .vsar, .vmin, .vmax, .vadds,
   .vsubs, .vcmp, .vsel, .vmov, .vsplat, .viota, .vext, .vpopc,
   .vclz, .vmvxs, .vmvsx, .vabs]

/-- OP 0x100 to 0x118 (R195). -/
def vectorFloatOps : List (Ops → Instr) :=
  [.vfadd, .vfsub, .vfmul, .vfma, .vfnma, .vfdiv, .vfsqrt, .vfmin,
   .vfmax, .vfcmp, .vfcvt, .vfcvti, .vicvtf, .vfabs, .vfneg, .vfrece,
   .vfrsqe, .vredsum, .vredmin, .vredmax, .vredbit, .vdot, .vlmul, .vladd,
   .vtstabn]

/-- OP 0x140 to 0x149 (R195). -/
def permutationOps : List (Ops → Instr) :=
  [.vperm, .vslideup, .vslidedn, .vcompress, .vexpand, .vzip, .vunzip, .vrev,
   .vscan, .vsortk]

/-- OP 0x160 to 0x168 (R195). -/
def vectorMemoryOps : List (Ops → Instr) :=
  [.vld, .vlds, .vldx, .vldff, .vldxff, .vst, .vsts, .vstx,
   .vpref]

/-- OP 0x180 to 0x189 (R195). -/
def vectorAtomicOps : List (Ops → Instr) :=
  [.vamo, .vcas, .vwait, .ccwait, .ccset, .bytewait, .bytesub, .wmpub,
   .wmwait, .barrier]

/-- OP 0x1A0 to 0x1A6 (R195). -/
def matrixOps : List (Ops → Instr) :=
  [.tshape, .tzero, .tmac, .tldacc, .tstacc, .trd, .twr]

/-- OP 0x1A8 to 0x1AB (R195). -/
def verdictOps : List (Ops → Instr) :=
  [.vdotv, .topkinit, .topki, .topkr]

/-- OP 0x1C0 to 0x1C4 (R195). -/
def streamOps : List (Ops → Instr) :=
  [.sinter, .smerge, .hinit, .hacc, .hdrain]

/-- OP 0x1E0 to 0x1F0 (R195). -/
def fabricOps : List (Ops → Instr) :=
  [.copy, .cbcopy, .cbwaitf, .cbfree, .publish, .shadow, .rsend, .rfetch,
   .xsend, .csend, .colldef, .collrun, .collwait, .wopen, .wrevoke, .grant,
   .revoke]

/-- The ranges of R195, each with its first operation code. -/
def opFamilies : List (Nat × List (Ops → Instr)) :=
  [(0x001, scalarIntegerOps), (0x040, scalarFloatOps), (0x060, controlOps), (0x080, scalarMemoryOps),
   (0x0A0, systemOps), (0x0B0, vectorConfigOps), (0x0C0, vectorIntegerOps), (0x100, vectorFloatOps),
   (0x140, permutationOps), (0x160, vectorMemoryOps), (0x180, vectorAtomicOps), (0x1A0, matrixOps),
   (0x1A8, verdictOps), (0x1C0, streamOps), (0x1E0, fabricOps)]

/-- The instruction of an operation code with its fields. -/
def instrOfOp (op : Nat) (o : Ops) : List (Nat × List (Ops → Instr)) → Option Instr
  | [] => none
  | (first, l) :: rest =>
    if first ≤ op ∧ op < first + l.length then (l[op - first]?).map (fun f => f o) else instrOfOp op o rest

/-! The fields of a word. -/

/-- The fields D, A, C, T and M of an F-form word (R179) with operand B given. -/
def opsOfF (w : Word) (b : OperandB) : Ops :=
  let n := w.toNat
  { d := BitVec.ofNat 6 (bitsOf n 51 46), a := BitVec.ofNat 6 (bitsOf n 45 40), c := BitVec.ofNat 6 (bitsOf n 39 34),
    t := BitVec.ofNat 4 (bitsOf n 33 30), m := BitVec.ofNat 3 (bitsOf n 29 27), b := b }

/-- BK (R180). -/
def wordBk (w : Word) : Nat := bitsOf w.toNat 26 25

/-- R180: the bits of BX that BK leaves unused are zero. -/
def bxOk (w : Word) : Bool :=
  if wordBk w == 2 then bitsOf w.toNat 24 8 == 0 else if wordBk w == 3 then bitsOf w.toNat 24 0 == 0 else true

/-- Operand B of an F-form word (R180), with the value of its literal. -/
def operandOfF (w : Word) (literal : BitVec 32) : OperandB :=
  let n := w.toNat
  if wordBk w == 0 then .reg (BitVec.ofNat 6 (bitsOf n 24 19)) (BitVec.ofNat 19 (bitsOf n 18 0))
  else if wordBk w == 1 then .imm (BitVec.ofNat 25 (bitsOf n 24 0))
  else if wordBk w == 2 then .kbank (BitVec.ofNat 8 (bitsOf n 7 0))
  else .lit literal

/-- The fields of an L-form word (R188). -/
def opsOfL (w : Word) : Ops :=
  let n := w.toNat
  { d := BitVec.ofNat 6 (bitsOf n 51 46), a := BitVec.ofNat 6 (bitsOf n 45 40), c := 0,
    t := BitVec.ofNat 4 (bitsOf n 39 36), m := BitVec.ofNat 3 (bitsOf n 35 33), b := .limm (BitVec.ofNat 32 (bitsOf n 31 0)) }

/-- R182: a legal literal word. -/
def isLiteralWord (w : Word) : Bool := wordForm w == 7 && bitsOf w.toNat 60 32 == 0

/-- The value of a literal word. -/
def literalValue (w : Word) : BitVec 32 := BitVec.ofNat 32 (bitsOf w.toNat 31 0)

/-! Pairs. -/

/-- R191. -/
def slotOpOf (n : Nat) : Option SlotOp :=
  match n with
  | 0x01 => some .add
  | 0x02 => some .sub
  | 0x03 => some .and
  | 0x04 => some .or
  | 0x05 => some .xor
  | 0x06 => some .shl
  | 0x07 => some .shr
  | 0x08 => some .sar
  | 0x09 => some .mov
  | 0x0A => some .mul
  | 0x0B => some .min
  | 0x0C => some .max
  | 0x0D => some .faddF32
  | 0x0E => some .fmulF32
  | 0x0F => some .faddF64
  | 0x10 => some .fmulF64
  | 0x40 => some .vaddS32
  | 0x41 => some .vaddS64
  | 0x42 => some .vsubS32
  | 0x43 => some .vand
  | 0x44 => some .vor
  | 0x45 => some .vxor
  | 0x46 => some .vmov
  | 0x47 => some .vfaddF32
  | 0x48 => some .vfmulF32
  | 0x49 => some .vfaddF64
  | 0x4A => some .vfmulF64
  | 0x4B => some .vfaddBf16
  | 0x4C => some .vlmulL8
  | 0x4D => some .vshlS32
  | _ => none

/-- R190: one slot of 30 bits; none for a reserved SOP or for non-zero bits 8:0 beside a register. -/
def slotOf (n : Nat) : Option Slot :=
  match slotOpOf (bitsOf n 29 22) with
  | none => none
  | some op =>
    if bitsOf n 15 15 == 1 then some ⟨op, BitVec.ofNat 6 (bitsOf n 21 16), .imm (BitVec.ofNat 15 (bitsOf n 14 0))⟩
    else if bitsOf n 8 0 == 0 then some ⟨op, BitVec.ofNat 6 (bitsOf n 21 16), .reg (BitVec.ofNat 6 (bitsOf n 14 9))⟩
    else none

/-- R190 to R192. -/
def pairOf (w : Word) : Option Instr :=
  match slotOf (bitsOf w.toNat 59 30), slotOf (bitsOf w.toNat 29 0) with
  | some a, some b => if bitsOf w.toNat 60 60 == 0 && pairOk a b then some (.pFormPair a b) else none
  | _, _ => none

/-! Decoding (R194). -/

/-- What decoding a word answers: an instruction and the number of words it takes, or a trap with its TVAL. The words that trap
ILL_OPC or LITEXEC are instructions of their own. -/
inductive Decoded where
  | instr (i : Instr) (words : Nat)
  | illFld (tval : Word)
  | illPair (tval : Word)
deriving DecidableEq, Repr

/-- Whether the word takes the literal word that follows, once its own fields are legal (R178, R194). -/
def takesLiteral (w : Word) : Bool := wordForm w == 0 && opAssigned (wordOp w) && wordBk w == 3

/-- The instruction of an assigned operation code whose row accepts the fields. -/
def instrOf (op : Nat) (o : Ops) : Option Instr :=
  match instrOfOp op o opFamilies with
  | none => none
  | some i =>
    match i.form with
    | none => none
    | some f => if f.ok o then some i else none

/-- The fields of the word itself are legal, whatever follows (R194 step 4). -/
def ownFieldsOk (w : Word) : Bool := bxOk w && (instrOf (wordOp w) (opsOfF w (operandOfF w 0))).isSome

/-- An F-form word with an assigned OP, and the word that follows it (R179, R182, R194). -/
def decodeF (w following : Word) : Decoded :=
  if !ownFieldsOk w then .illFld w
  else if wordBk w == 3 && !isLiteralWord following then .illFld following
  else
    match instrOf (wordOp w) (opsOfF w (operandOfF w (literalValue following))) with
    | some i => .instr i (if wordBk w == 3 then 2 else 1)
    | none => .illFld w

/-- An L-form word with an assigned OP (R188, R189). -/
def decodeL (w : Word) : Decoded :=
  if bitsOf w.toNat 32 32 != 0 then .illFld w
  else
    match instrOf (wordOp w) (opsOfL w) with
    | some i => .instr i 1
    | none => .illFld w

/-- R194 steps 1 to 4: the instruction at a word, and how many words it takes. `following` is the next word of the stream. -/
def decode (w following : Word) : Decoded :=
  if wordForm w == 7 then .instr (.literalWordExecute w) 1
  else if isIllegalOpcode w then .instr (.illegalOpcodeWord w) 1
  else if wordForm w == 1 then
    match pairOf w with
    | some i => .instr i 1
    | none => .illPair w
  else if wordForm w == 0 then decodeF w following
  else decodeL w

/-- The decoder on a row's word of the table of operations: bits 63:0 are the first word, bits 127:64 the following one. -/
def decodeTableWord (nbits w : Nat) : Option Instr :=
  match decode (BitVec.ofNat 64 (w % 2 ^ nbits)) (BitVec.ofNat 64 (w % 2 ^ nbits / 2 ^ 64)) with
  | .instr i _ => some i
  | .illFld _ => none
  | .illPair _ => none

/-! The encoder. -/

/-- BK of an operand (R180). -/
def OperandB.bk : OperandB → Nat
  | .reg _ _ => 0
  | .imm _ => 1
  | .kbank _ => 2
  | .lit _ => 3
  | .limm _ => 3

/-- BX of an operand (R180). -/
def OperandB.bx : OperandB → Nat
  | .reg r x => r.toNat * 2 ^ 19 + x.toNat
  | .imm x => x.toNat
  | .kbank i => i.toNat
  | .lit _ => 0
  | .limm _ => 0

/-- R179. -/
def encodeF (op : Nat) (o : Ops) : Word :=
  BitVec.ofNat 64 (op * 2 ^ 52 + o.d.toNat * 2 ^ 46 + o.a.toNat * 2 ^ 40 + o.c.toNat * 2 ^ 34 + o.t.toNat * 2 ^ 30
    + o.m.toNat * 2 ^ 27 + o.b.bk * 2 ^ 25 + o.b.bx)

/-- R188. -/
def encodeL (op : Nat) (o : Ops) (x : BitVec 32) : Word :=
  BitVec.ofNat 64 (2 * 2 ^ 61 + op * 2 ^ 52 + o.d.toNat * 2 ^ 46 + o.a.toNat * 2 ^ 40 + o.t.toNat * 2 ^ 36
    + o.m.toNat * 2 ^ 33 + x.toNat)

/-- R182. -/
def literalWord (x : BitVec 32) : Word := BitVec.ofNat 64 (7 * 2 ^ 61 + x.toNat)

/-- R191. -/
def SlotOp.code : SlotOp → Nat
  | .add => 0x01
  | .sub => 0x02
  | .and => 0x03
  | .or => 0x04
  | .xor => 0x05
  | .shl => 0x06
  | .shr => 0x07
  | .sar => 0x08
  | .mov => 0x09
  | .mul => 0x0A
  | .min => 0x0B
  | .max => 0x0C
  | .faddF32 => 0x0D
  | .fmulF32 => 0x0E
  | .faddF64 => 0x0F
  | .fmulF64 => 0x10
  | .vaddS32 => 0x40
  | .vaddS64 => 0x41
  | .vsubS32 => 0x42
  | .vand => 0x43
  | .vor => 0x44
  | .vxor => 0x45
  | .vmov => 0x46
  | .vfaddF32 => 0x47
  | .vfmulF32 => 0x48
  | .vfaddF64 => 0x49
  | .vfmulF64 => 0x4A
  | .vfaddBf16 => 0x4B
  | .vlmulL8 => 0x4C
  | .vshlS32 => 0x4D

/-- R190. -/
def Slot.code (s : Slot) : Nat :=
  s.op.code * 2 ^ 22 + s.d.toNat * 2 ^ 16 + (match s.src with
    | .reg r => r.toNat * 2 ^ 9
    | .imm x => 2 ^ 15 + x.toNat)

/-- The words of an instruction with a row. -/
def encodeOps (op : Nat) (o : Ops) : List Word :=
  match o.b with
  | .lit x => [encodeF op o, literalWord x]
  | .limm x => [encodeL op o x]
  | .reg _ _ => [encodeF op o]
  | .imm _ => [encodeF op o]
  | .kbank _ => [encodeF op o]

/-- The words of a well-formed instruction; none for an event. -/
def encode (i : Instr) : List Word :=
  match i.form, i.ops? with
  | some f, some o => encodeOps f.op o
  | _, _ =>
    match i with
    | .pFormPair a b => [BitVec.ofNat 64 (2 ^ 61 + a.code * 2 ^ 30 + b.code)]
    | .literalWordExecute w => [w]
    | .illegalOpcodeWord w => [w]
    | _ => []

end Sys2Proof
end

