-- ==== Sys2Proof/Machine/State.lean ====
section
/-! DEFINITION. The state of the machine as plain data (INVENTORY.md, section State), the reasons a step can stop, and the state after reset.
One State holds the whole system: every package of the largest device may appear in it, each under its physical number. -/

namespace Sys2Proof.Machine

/-- A sparse table by number, in rising order. What an unlisted number reads as is given where the table is read (Ops.lean). -/
abbrev Cells (α : Type) := List (Nat × α)

/-- Memory: pairs of home address and byte. A home address is a number that names one byte of storage: for PG memory, package, die, channel
and channel offset (01_device.md R27, 07_memory.md R107) as `pkg * 2^40 + die * 2^37 + chan * 2^33 + off` with the physical package;
for a scratchpad (R29, R30), `2^63 + pkg * 2^34 + die * 2^31 + core * 2^24 + off`. An unlisted byte reads 0 (log entry 1). -/
abbrev Memory := List Host.Cell

/-- The canonical form of memory: addresses strictly rising, no byte equal to what an unlisted address reads as. -/
def Memory.wf : Memory → Bool
  | [] => true
  | [c] => c.2 != 0
  | c :: d :: rest => c.2 != 0 && decide (c.1 < d.1) && Memory.wf (d :: rest)

/-! Strands. -/

/-- A completion counter (R165). -/
structure CC where
  count   : Nat := 0
  ue      : Bool := false
  revoked : Bool := false
  timeout : Bool := false
deriving DecidableEq, Repr

/-- A bound binding register (R159). -/
structure Binding where
  base   : Word
  stride : Word
  count  : Nat
  width  : Nat
  sync   : Word
deriving DecidableEq, Repr

/-- A task's position at one level of its launch (R41, R48). -/
structure LevelPos where
  index   : Nat
  extent  : Nat
  gang    : Bool := false
  barrier : Bool := false
  scope   : Nat := 5
  domain  : Nat := 1
deriving DecidableEq, Repr

/-- A watermark link of the task's launch with the strand's cached watermark (R66 to R68). -/
structure WmLink where
  base  : Word
  bytes : Word
  cell  : Word
  esize : Nat
  scope : Nat
  w     : Nat := 0
  /-- The strand has subscribed at the cell's home. -/
  sub   : Bool := false
deriving DecidableEq, Repr

/-- A pass of the hash and stream engine that stands between two of its steps (R64, R306): the descriptor or header as read, the output slot it
started at, the next output slot, and its positions. -/
structure EnginePass where
  desc : List Byte := []
  from_ : Nat := 0
  n    : Nat := 0
  apos : Nat := 0
  bpos : Nat := 0
  /-- The keys held at both positions and before them (R307). -/
  keys : List (Option Nat) := []
deriving DecidableEq, Repr

/-- An entry of the vector queue or of a hold bank (R57, R333). -/
structure QEntry where
  /-- The address of its word. -/
  pc    : Word
  /-- The instruction word, for TVAL. -/
  word  : Word
  instr : Instr
  /-- Captured operands: key n is gn, key 64 + n is kn. -/
  caps  : Cells Word := []
  /-- FPMODE at commit (R81). -/
  rm    : Nat := 0
  /-- The performed elements of the oldest entry (R120). -/
  bitmap : List Nat := []
  /-- The slot that a blocking CBCOPY or XSEND has claimed (R313): descriptor address, slot and claim number. -/
  claim  : Option (Word × Nat × Nat) := none
  /-- A blocking PUBLISH, REVOKE, WOPEN or WREVOKE has made its first action. -/
  begun  : Bool := false
  /-- The operation number of pieces that a blocking entry waits for. -/
  op     : Nat := 0
  /-- When every replica of an XSEND last refused it (R319). -/
  refused : Option Nat := none
  /-- The element at which an entry that was held resumes (R333). -/
  start  : Option Nat := none
  /-- The largest threshold that a stalled VDOTV has sampled (R292). -/
  tau    : Option Nat := none
  /-- The query that a stalled VDOTV has read, and its chunk bounds (R290). -/
  query  : Option (List Nat × List (Option Int)) := none
  /-- The pass of an engine instruction that stands between two of its steps (R64). -/
  pass   : Option EnginePass := none
  /-- The failures of the entry's pieces so far: element, cause, TVAL (R120, R166). -/
  fails  : List (Nat × Nat × Word) := []
  /-- What a stalled vector load has read: the generation entry and generation of a page, and an element on it (R176). -/
  read   : List (Nat × BitVec 8 × Nat) := []
  /-- What an interrupted vector store has written into decoded windows: the address, the bytes, and whether mq was 1 (R97). -/
  wrote  : List (Nat × List Byte × Bool) := []
  /-- The elements whose pieces a blocking vector access to other dies has issued (R120). -/
  issued : List Nat := []
  /-- What the pieces of a blocking vector load have brought: element, first byte, bytes; and the elements that touched an INV block (R263, R344). -/
  got    : List (Nat × Nat × List Byte) := []
  gotInv : List Nat := []
  /-- The pieces issued are the whole of a load, into this register at this type: it completes with the last of them (R344). -/
  land   : Option (Nat × Nat) := none
  /-- The 64-byte blocks, by virtual address / 64, whose write as a whole failed (R97, R120). -/
  lost   : List Nat := []
  /-- The number of the next piece when the entry committed: the stores that come before it have smaller ones (R155). -/
  after  : Nat := 0
  /-- The packages whose acknowledgement of a shoot-down a WREVOKE waits for (R325). -/
  acks   : List Nat := []
deriving DecidableEq, Repr

/-- A scalar access to another die on its way (R327, R368): the strand waits for its packets before the instruction commits. -/
structure Trip where
  /-- The instruction and its address. -/
  pc    : Word
  instr : Instr
  /-- The address of the access. -/
  va    : Word
  /-- The operation number of its pieces. -/
  op    : Nat
  /-- What the pieces have brought, by their numbers. -/
  got   : List (Nat × List Byte) := []
  /-- The first failure: cause and TVAL. -/
  fail  : Option (Nat × Word) := none
deriving DecidableEq, Repr

/-- The trap registers of one level, held per strand (R330, R396). -/
structure TrapRegs where
  dbl   : Bool := false
  evp   : BitVec 4 := 0
  evm   : BitVec 4 := 0
  pn    : Bool := false
  step  : Bool := false
  pie   : Bool := false
  ie    : Bool := false
  pmm   : Bool := false
  plvl  : BitVec 2 := 0
  cause : BitVec 8 := 0
  epc   : Word := 0
  tval  : Word := 0
deriving DecidableEq, Repr

/-- A tile claim (R338): the parking slot that holds the tiles and registers, and the tiles saved there. -/
structure TileClaim where
  slot  : Nat
  tiles : BitVec 4
deriving DecidableEq, Repr

/-- A run of a collective (R323): its step and where it stands. -/
structure CollRun where
  id     : Nat
  graph  : Nat
  /-- The run count of the graph at this member (R323). -/
  run    : Nat
  step   : Nat := 0
  base   : List Word := []
  status : Nat := 0
  /-- The level at which COLLRUN ran. -/
  level  : Level := .u
deriving DecidableEq, Repr

/-- A strand with its task (R50, R49). `tid` 0 means that no task is on it. -/
structure Strand where
  tid   : Nat := 0
  pkg   : Nat := 0
  die   : Nat := 0
  core  : Nat := 0
  slot  : Nat := 0
  /-- PKGID: the package's lowest virtual number (R33). -/
  vpkg  : Nat := 0
  vi    : Nat := 0
  lid   : Nat := 0
  index : Nat := 0
  levels : List LevelPos := []
  g     : Cells Word := []
  k     : Cells Word := []
  pc    : Word := 0
  level : Level := .u
  mmode : Bool := true
  nv    : Nat := 8
  ew    : Nat := 8
  groups : Nat := 0
  vl    : Nat := 0
  vstart : Nat := 0
  /-- Element i of vn stands at key n * 65536 + i. -/
  v     : Cells Nat := []
  /-- Bit i of mn stands at key n * 65536 + i; an unlisted bit is 0. -/
  m     : Cells Bool := []
  /-- The elements that mq marks invalid (R97): listed bits are 0 in mq. -/
  mqOff : Cells Bool := []
  vfs   : BitVec 5 := 0
  fpmode : Nat := 0
  fpflags : BitVec 6 := 0
  /-- Byte b of tile t stands at key t * 65536 + b (R281). -/
  tiles : Cells Byte := []
  held  : BitVec 4 := 0
  tm    : Nat := 1
  tn    : Nat := 1
  tk    : Nat := 1
  trow  : Nat := 0
  ttype : Nat := 15
  sat   : Bool := false
  td    : Bool := false
  /-- Outstanding tile claims, the last first. -/
  claims : List TileClaim := []
  cc    : Cells CC := []
  bnd   : Cells (Option Binding) := []
  deadline : Word := 0
  trapS : TrapRegs := {}
  trapH : TrapRegs := {}
  /-- The doorbell offset and the watched address of pending events (R339). -/
  evDoorbell : Word := 0
  evWatch : Word := 0
  kbase : Word := 0
  kbaseH : Word := 0
  scratchbase : Word := 0
  /-- The level whose ERET armed STEP (R336). -/
  stepArm : Option Level := none
  /-- The level to which that ERET returned. -/
  stepAt : Level := .u
  /-- An instruction has completed at that level since STEP was armed. -/
  stepDone : Bool := false
  queue : List QEntry := []
  holdS : List QEntry := []
  holdH : List QEntry := []
  /-- The scalar access to another die that the strand waits for. -/
  trip  : Option Trip := none
  /-- Failures of blocking scalar stores not yet raised (R398): cause and address. -/
  deferred : List (BitVec 8 × Word) := []
  parked : Bool := false
  exiting : Bool := false
  /-- Number of the home word (home address / 8) armed by WAITEV (R354). -/
  watch : Option Nat := none
  /-- Virtual address of that word. -/
  watchVa : Word := 0
  /-- The watch table of that word's slice was full when WAITEV armed it: what the strand last read there (R354, R61). -/
  watchSlow : Option Nat := none
  /-- Home words that a parked wait watches, and whether the watch tables held them (R61). -/
  watched : List Nat := []
  watchFull : Bool := false
  links : List WmLink := []
  /-- Lines of the VMU prefetch buffer, oldest first: frame address, its bytes by offset, and the generation entry (R268, R117). -/
  prefetch : List (Nat × Cells Byte × Nat) := []
  /-- Poisoned 64-bit words of g (key n), v (key 64 + n * 65536 + word), the tiles (key 2^32 + t * 8192 + word) and m (key 2^40 + n * 1024 + word;
  n = 8 is mq) (R391, R346). -/
  poison : List Nat := []
  /-- The elements of poisoned v words that the instruction at the head of the queue has written: the word is sound once it is written whole (R391). -/
  healed : List Nat := []
  /-- Words of g, v, the tiles and m with a correctable error, by the same keys (R390). -/
  soft  : List Nat := []
  runs  : List CollRun := []
  /-- How often the task has started each graph (R323). -/
  runCounts : Cells Nat := []
  /-- S of R171, per destination die (package * 8 + die). -/
  flagBytes : Cells Nat := []
  /-- Arrivals on barriers, per level (R274). -/
  arrivals : Cells Nat := []
  /-- This strand has arrived at the BARRIER it is parked at. -/
  arrived : Bool := false
  /-- The strand has entered S and has not yet fetched the first word of its handler (R329). -/
  entering : Bool := false
  /-- When the task started, for the victim choice of R73. -/
  order : Nat := 0
  /-- The task belongs to a deferred pre-emption since this time (R74). -/
  deferSince : Option Nat := none
deriving DecidableEq, Repr

/-! Cores. -/

/-- A scratchpad region of a launch on a core (R49). -/
structure Region where
  lid   : Nat
  vi    : Nat
  off   : Nat
  bytes : Nat
deriving DecidableEq, Repr

/-- A line of a scalar L1 or of an L1 instruction cache: its home address, its bytes and the generation entry it was read through (R117). -/
structure Line where
  ha    : Nat
  bytes : List Byte
  tag   : Nat
deriving DecidableEq, Repr

/-- The TLBs of a core (R114). -/
inductive TlbKind where
  | scalar | fetch | vector | matrix
deriving DecidableEq, Repr

/-- The fields of a leaf that a translation keeps (R112). -/
structure Leaf where
  frame : Nat
  gen   : BitVec 8
  big   : Bool
  uo    : Bool
  wc    : Bool
  hs    : Bool
  rc    : Nat
  x     : Bool
  w     : Bool
  r     : Bool
  so    : Bool
  sp    : Bool
deriving DecidableEq, Repr

/-- A cached translation (R109, R114): the 64 KiB or 32 MiB virtual page it covers, the resolved package, the leaf. -/
structure TlbEntry where
  kind  : TlbKind
  vi    : Nat
  page  : Nat
  pkg   : Nat
  leaf  : Leaf
  since : Nat
deriving DecidableEq, Repr

structure CoreSt where
  /-- RETIRED of LANEMAP (R55), and the written value that waits. -/
  retired : Nat := 0
  pend    : Option Nat := none
  regions : List Region := []
  l1      : List Line := []
  icache  : List Line := []
  tlbs    : List TlbEntry := []
  /-- XSEND's occupancy cache: descriptor address and filled count (R319). -/
  occupancy : Cells Nat := []
  lastVi  : Option Nat := none
  /-- Next sequence number per ordered channel (R369): key (strand * 2^25 + destination die) * 4 + rail; and the channels whose next packet
  carries the resynchronisation mark. -/
  seq     : Cells Nat := []
  resync  : List Nat := []
  /-- For each VI, when it last took hold of the core (R73). -/
  viSince : Cells Nat := []
  /-- Per class, the VI that the round-robin serves and the tasks it has started in this round (R72, R397). -/
  turn    : Cells (Nat × Nat) := []
  /-- Errors in the physical lane groups' slices of the vector register file: group, word, time, and whether it was uncorrectable (R392). -/
  laneErrors : List (Nat × Nat × Nat × Bool) := []
deriving DecidableEq, Repr

/-! Dies. -/

/-- The storage that holds some bytes. -/
inductive PlaceKind where
  | pg | scratch | vreg | tile
deriving DecidableEq, Repr

/-- Where some bytes are: a home address for PG and scratchpad memory, a byte offset in a strand's registers or tiles otherwise. -/
structure Place where
  kind : PlaceKind
  ha   : Nat
  /-- The target strand's task, for registers and tiles. -/
  tid  : Nat := 0
  va   : Word
  /-- The generation entry of R115, and the generation translated with. -/
  tag  : Nat := 0
  gen  : BitVec 8 := 0
  hs   : Bool := false
  wc   : Bool := false
  rc   : Nat := 0
  /-- The window index, for a window read that the requester's L2 and MSC may hold (R137). -/
  window : Option Nat := none
  /-- The access goes through a window (R28). -/
  viaWindow : Bool := false
deriving DecidableEq, Repr

/-- A combine slot of an Eft unit (R321): its match, the elements so far (a negative one stands for a NaN that stays), the contributions still
missing, and the destination and counter that the first contribution named. -/
structure CombineSlot where
  key      : Nat
  vi       : Nat
  missing  : Nat
  ty       : Nat
  op       : Nat
  values   : List Int
  bytes    : Nat
  dest     : Place
  counter  : Option Place
  saturated : Bool
  /-- Elements with a poisoned contribution (R391). -/
  bad      : List Nat
  /-- When a pre-emption left it partly filled (R324). -/
  since    : Option Nat := none
  /-- The tasks and run numbers that wait on the slot. -/
  runs     : List (Nat × Nat)
deriving DecidableEq, Repr

/-- A registration (R326). -/
structure Registration where
  vi       : Nat
  base     : Word
  bytes    : Nat
  revoking : Bool
deriving DecidableEq, Repr

/-- A held ordered flag (R171): its stream, the bytes it waits for, the number of its piece, and the registration entry that accepted it. -/
structure HeldFlag where
  stream : Nat
  need   : Nat
  packet : Nat
  entry  : Option Nat
deriving DecidableEq, Repr

/-- A step of a collective graph (R321). -/
structure CollStep where
  kind  : Nat
  src   : Nat
  dst   : Nat
  cnt   : Nat
  expected : Nat
  bytes : Nat
  soff  : Word
  doff  : Word
  coff  : Nat
  slot  : Nat
deriving DecidableEq, Repr

structure CollGraph where
  ty    : Nat
  op    : Nat
  steps : List CollStep
deriving DecidableEq, Repr

/-- A block of an L2 slice (R126): its 256-byte frame, the words it holds, the dirty ones, the class and source. -/
structure L2Block where
  frame : Nat
  first : Nat
  last  : Nat
  dirty : List Nat
  cls   : Nat
  src   : Nat
deriving DecidableEq, Repr

/-- A sector of a memory-side cache (R134, R135). -/
structure MscSector where
  frame : Nat
  way   : Nat
  rc    : Nat
  vi    : Nat
  /-- A sticky sector that has been spared once. -/
  spared : Bool := false
  dirty : Bool := false
deriving DecidableEq, Repr

structure DieSt where
  l2quota : Word := 32
  /-- L2 blocks by slice * 512 + set, least recently used first. -/
  l2      : Cells (List L2Block) := []
  /-- MSC sectors by channel group and set, least recently used first. -/
  msc     : Cells (List MscSector) := []
  /-- The bytes of the window frames that L2 blocks of source 2 and MSC sectors of this die hold: window key, 256-byte frame of the window, its bytes
  (R126, R137). -/
  winCopies : List (Nat × Nat × List Byte) := []
  /-- Graphs by VI * 64 + number (R322), and runs of each graph by VI * 64 + number per member task. -/
  graphs  : Cells CollGraph := []
  combine : List CombineSlot := []
  /-- The matches of combine slots that were discarded partly filled (R360). -/
  aborted : List Nat := []
  /-- Bytes arrived per stream since its last flag (R374). -/
  streams : Cells Nat := []
  /-- The launch whose strand sent the last bytes of a stream (R374). -/
  streamLids : Cells Nat := []
  flags   : List HeldFlag := []
  /-- Registration entries by number (R326). -/
  regs    : Cells Registration := []
  /-- Parking slots in use: VI * 256 + slot (R341). -/
  slots   : List Nat := []
  step    : Nat := 0
  /-- Readings of the thermal monitors in degrees, by monitor; since when one has been at or above 100, and since when all have been below 92 (R388). -/
  thermal : Cells Nat := []
  hotSince : Option Nat := none
  coolSince : Option Nat := none
  /-- Readings of the voltage monitors in thousandths of their setting (R388). -/
  volts   : Cells Nat := []
  /-- Steps added by voltage droop, which last 1 ms (R388). -/
  droop   : Nat := 0
  droopSince : Nat := 0
  lastStep : Nat := 0
  /-- Failed rails, and the rail that carries a share whose rail has failed (R366). -/
  failed  : List Nat := []
  moved   : Cells Nat := []
  /-- Expected sequence number per ordered channel, keyed by source strand and rail (R369), and performed packets with their status (R368). -/
  expected : Cells Nat := []
  /-- Claims of circular-buffer slots not yet counted as filled, in claim order: descriptor home address, claim number, and whether the
  slot has been written (R313). -/
  fills   : List (Nat × Nat × Bool) := []
deriving DecidableEq, Repr

/-! Channels. -/

/-- A format-region register (R95). -/
structure FormatReg where
  count   : Nat := 0
  hdrbase : Nat := 0
  pkbase  : Nat := 0
  en      : Bool := false
  vi      : Nat := 0
  winbase : Nat := 0
deriving DecidableEq, Repr

/-- A decoded 256-byte sector of a format region held in the MSC or L2 (R96): its four blocks' bytes, their INV markers (R97), and whether it
is newer than the packed data. -/
structure Sector where
  bytes : List Byte
  inv   : List Bool
  dirty : Bool
deriving DecidableEq, Repr

/-- What a home agent remembers of a virtual page (R122 to R124). -/
structure PageHist where
  used     : Nat := 0
  gathered : Bool := false
  refills  : List Nat := []
  settledAt : Option Nat := none
deriving DecidableEq, Repr

structure ChanSt where
  /-- Root table: the level-1 table's physical address per VI (R113). -/
  roots   : Cells Nat := []
  gens    : Cells (BitVec 8) := []
  /-- Advances of each page, with their times (R116). -/
  advances : Cells (List Nat) := []
  regs    : Cells FormatReg := []
  /-- Decoded sectors held, by channel offset / 256 (R96). -/
  sectors : Cells Sector := []
  /-- Histories by VI * 131072 + page. -/
  pages   : Cells PageHist := []
  /-- Frames of 64 KiB that the home agent may use for a page-in. -/
  freeFrames : List Nat := []
  /-- Pages that refuse writes for an open window (R137): VI * 131072 + virtual page of the channel, and the window key. -/
  refuse  : List (Nat × Nat) := []
deriving DecidableEq, Repr

/-! Virtual interfaces. -/

structure ViSt where
  parkbase : Word := 0
  mscways  : Word := 0xFFFF
  l2class  : Word := 0
  nodemap  : Word := 0
  nodecnt  : Word := 1
  mempol   : Word := 0
  wintab   : Word := 0
  nbtab    : Word := 0
  quota    : Nat := 524288
  weight   : Nat := 16
  /-- Budgets of P0 to P3 in nanoseconds (R71). -/
  budgets  : List Nat := [20000, 200000, 2000000, 20000000]
  quantum  : Nat := 2000000
deriving DecidableEq, Repr

/-- What a VI has on one package: trap vector, gate table, doorbell page, submissions (R396, R69, R380, R355). -/
structure ViPkgSt where
  tvec   : Word := 0
  gtb    : Word := 0
  gtn    : Word := 0
  ringBase : Word := 0
  ringSize : Nat := 6
  tail   : Nat := 0
  head   : Nat := 0
  drops  : Nat := 0
  irq    : BitVec 2 := 0
  erraddr : Word := 0
  apbase : Word := 0
  /-- Records submitted by LAUNCH and not yet accepted: address, class of the launching task. -/
  submitted : List (Word × Nat) := []
deriving DecidableEq, Repr

/-! The platform. -/

/-- The kinds of an error-log record (R393). -/
inductive LogKind where
  | corrected | poisoned | consumed | refusedHost | trip | droppedPacket | bootCheck
  /-- Records of R36, R40 and R70, which R393 does not list. -/
  | launch
deriving DecidableEq, Repr

/-- A record of the error log (R393). -/
structure LogRecord where
  time : Nat
  kind : LogKind
  die  : Nat := 0
  unit : Nat := 0
  addr : Nat := 0
  vi   : Option Nat := none
deriving DecidableEq, Repr

/-- A firmware image with its security version, its public key and its signature (R382). -/
structure FirmwareImage where
  bytes   : List Byte := []
  version : Nat := 0
  key     : List Byte := []
  signature : List Byte := []
deriving DecidableEq, Repr

/-- The algorithms an SPDM requester may offer (R384). -/
inductive SpdmAlgorithm where
  | mlDsa65 | shake256 | mlKem768 | other (code : Nat)
deriving DecidableEq, Repr

/-- The SPDM connection state of a package (R384). -/
structure Spdm where
  version : Bool := false
  caps    : Bool := false
  algs    : Bool := false
  /-- An established session's shared secret. -/
  session : Option (List Byte) := none
deriving DecidableEq, Repr

structure PkgSt where
  tvecH  : Word := 0
  gtbH   : Word := 0
  gtnH   : Word := 0
  stage  : Nat := 0
  /-- The module form (R1), whose power stage reports module power. -/
  module : Bool := false
  /-- The package power limit in watts (R388). -/
  limit  : Nat := 3400
  lastPower : Nat := 0
  lastModulePower : Nat := 0
  /-- The package, or the module, has exceeded its power limit and has not fallen far enough below it (R388). -/
  limiting : Bool := false
  moduleLimiting : Bool := false
  /-- When the last package reset was (R339). -/
  resetAt : Nat := 0
  /-- Measurement registers 1 to 6 (R383). -/
  measured : Cells (List Byte) := []
  /-- The fused anti-rollback counters by image index, the fused digest of the public key, the spare map (R382, R383, R392). -/
  rollback : Cells Nat := []
  keyDigest : List Byte := []
  spareMap : Cells Nat := []
  /-- The boot image and the update beside it, by measurement index 2 to 4 (R382, R383). -/
  boot   : Cells FirmwareImage := []
  pending : Cells FirmwareImage := []
  retirementMap : Cells Nat := []
  spdm   : Spdm := {}
  ideKeys : Cells (List Byte) := []
  log    : List LogRecord := []
  overflow : Nat := 0
  /-- No new task starts while full service is prepared (R387). -/
  draining : Bool := false
  /-- The package cannot be reached (its packets are lost): accesses to it end with REMOTE_TIMEOUT. -/
  unreachable : Bool := false
deriving DecidableEq, Repr

/-! Launches. -/

/-- The states of a launch. -/
inductive LaunchState where
  | waitCells | ready | running | done
deriving DecidableEq, Repr

/-- A level entry of a record (R41). -/
structure LevelEntry where
  extent  : Nat
  domain  : Nat
  scope   : Nat
  flags   : Nat
  policy  : Nat
  argReg  : Nat
  reserved : Nat
deriving DecidableEq, Repr

/-- A launch record as read (R35). -/
structure LaunchRec where
  magic   : Nat
  version : Nat
  flags   : Nat
  entry   : Word
  kaddr   : Word
  kcount  : Nat
  nlevels : Nat
  prio    : Nat
  scratch : Nat
  nv      : Nat
  ew      : Nat
  groups  : Nat
  tiles   : Nat
  reserved : Nat
  done    : Word
  pub     : Word
  npub    : Nat
  nlinks  : Nat
  levels  : List LevelEntry
  links   : List (WmLink × Nat × Nat)
  args    : List Word
deriving DecidableEq, Repr

/-- An accepted launch. -/
structure Launch where
  id     : Nat
  vi     : Nat
  pkg    : Nat
  record : LaunchRec
  kbank  : List Word
  cells  : List (Word × Word)
  state  : LaunchState
  cls    : Nat
  since  : Nat
  readyOrder : Nat
  tasks  : Nat
  started : List Nat
  exited : Nat
  first  : Nat
  /-- Status codes that apply so far (R38). -/
  codes  : List Nat
  /-- Gang or barrier instances whose strands are reserved (R47). -/
  gangs  : List Nat
  /-- Packages of the root that have reported (R175), with their exits. -/
  reports : List (Nat × Nat)
  /-- The launch was submitted by LAUNCH. -/
  direct : Bool
  /-- Entries of the publish list that completion has dealt with (R40). -/
  published : Nat := 0
deriving DecidableEq, Repr

/-! Pieces of non-blocking work, and packets. -/

/-- The status an access ends with (R166, R364). -/
inductive Status where
  | ok | stale | revoked | windowWrite | ue | abort | timeout
  /-- A home refusal that the source raises as PAGE_PROT (R96). -/
  | prot
  /-- NACK-busy (R370). -/
  | busy
deriving DecidableEq, Repr

/-- What a scalar access does to its bytes at its home. -/
inductive TripAct where
  /-- A load. -/
  | read
  /-- An atomic that writes nothing: an ACQ that loads. -/
  | hold
  /-- An exchange and an addition on 8 bytes. -/
  | swap (x : Nat)
  | plus (x : Nat)
  /-- R256. -/
  | amo (op t v : Nat)
  /-- R257, R258: a compare-and-swap of `n` bytes. -/
  | cas (n expect new : Nat)
  /-- BYTESUB's subtraction and WMPUB's maximum (R170, R67). -/
  | less (n : Nat)
  | top (x : Nat)
  /-- STREL's bytes, and the places on which they go on beyond the piece's page (R253, R254). -/
  | put (bytes : List Byte) (more : List (Place × Nat))
deriving DecidableEq, Repr

/-- What a piece does when it is performed. The piece's own place is its home. -/
inductive PieceOp where
  /-- Write bytes. `inv` says that the writing element's mq bit was 0 (R97). -/
  | write (bytes : List Byte) (inv : Bool)
  /-- Read elements of v register `r` at type `t`: element index, offset from the place, first byte of the element, bytes. -/
  | loads (r t : Nat) (elems : List (Nat × Nat × Nat × Nat))
  /-- An atomic of R256; the old value returns to element `i` of `r` when `ret`. -/
  | amo (op t v : Nat) (ret : Bool) (r i : Nat)
  /-- A compare-and-swap of R257; the old value returns to element `i` of `r`. -/
  | cas (t expect new r i : Nat)
  /-- One step of a copy: all its source bytes are read before its destination bytes are written (R312). -/
  | copy (src dst : List (Place × Nat))
  /-- RSEND or XSEND data, checked at the registration table (R316); `counts` says whether its bytes count in S (R171). -/
  | data (bytes : List Byte) (counts : Bool)
  /-- An ordered flag: payload and S (R171); the places on which the payload goes on beyond the piece's page. -/
  | flag (bytes : List Byte) (need : Nat) (more : List (Place × Nat))
  /-- A compressed block of CSEND (R320): the type, and the selected elements by their distance from the place, in bytes. -/
  | block (t : Nat) (els : List (Nat × Nat))
  /-- The fill of a slot that an XSEND has claimed and sent (R319): the descriptor's address and the claim's number. -/
  | fill (desc : Word) (num : Nat)
  /-- A collective contribution (R321): match, contributions expected, type, operation, bytes, the counter, and the poisoned bytes. -/
  | contrib (key expected t op : Nat) (bytes : List Byte) (counter : Option Place) (run : Nat) (bad : List Nat)
  /-- A TOPKI on an object (R299): pairs of score and index, and the number of active elements. -/
  | topk (cands : List (Nat × Nat)) (active : Nat)
  /-- A CBCOPY that waits for a slot (R313): source and descriptor addresses. -/
  | cbcopy (src desc : Word)
  /-- An XSEND (R319): source, expert and table addresses, the slot it has claimed. -/
  | xsend (src expert table : Word)
  /-- An engine's write of bytes: a HINIT header (R309). -/
  | engine (bytes : List Byte)
  /-- A write of zeros, or of an empty key, over `n` slots (HINIT). -/
  | slots (n : Nat)
  /-- A read of a remote range for RFETCH (R318): the piece's place is the source; `n` bytes go to `dst`. -/
  | fetch (dst : Place) (n : Nat)
  /-- A PUBLISH that waits for its turn at the home (R315). -/
  | publish (index : Nat)
  /-- A REVOKE that waits for accepted packets (R326). -/
  | revoke (handle : Word)
  /-- A blocking scalar load or atomic on another die (R254, R256): what it does to its `n` bytes. -/
  | trip (n : Nat) (act : TripAct)
  /-- A blocking scalar store to another die, which has committed (R398): its bytes, its address, and the places on which it goes on beyond the piece's
  page. -/
  | post (bytes : List Byte) (ea : Word) (more : List (Place × Nat))
  /-- An Eft unit's addition to a byte counter whose page was spilled (R169). -/
  | gain (n : Nat)
deriving DecidableEq, Repr

/-- A piece of a non-blocking instruction or engine operation, on its way (R166). -/
structure Piece where
  id     : Nat
  /-- The operation it belongs to; the operation ends with its last piece. -/
  op     : Nat
  tid    : Nat
  /-- The launch of its task. -/
  lid    : Nat := 0
  /-- The counter that counts the operation, or none. -/
  cc     : Option Nat
  place  : Place
  what   : PieceOp
  vi     : Nat
  /-- The level at which the issuing instruction ran, for a retranslation. -/
  level  : Level
  /-- The source strand's place. -/
  srcPkg : Nat
  srcDie : Nat
  srcCore : Nat
  srcSlot : Nat
  /-- Pieces of the operation before it are performed first (R143, R312). -/
  inOrder : Bool := false
  /-- A byte counter that gains when the whole operation succeeds (R317). -/
  counter : Option (Place × Nat) := none
  /-- The collective run that issued it (R323). -/
  run    : Option Nat := none
  /-- The element, row or step that it belongs to, for a blocking instruction that waits for it. -/
  elem : Nat := 0
  /-- The cause and TVAL with which it fails, where its status alone does not give them (R120). -/
  fault : Option (Nat × Word) := none
  /-- A piece of the operation has failed, so the counter gains nothing. -/
  spoiled : Bool := false
  /-- Another piece of the same store has failed and been reported (R398). -/
  reported : Bool := false
  /-- The operation has acquire order (R155): no later access of the strand is performed before it. -/
  acquire : Bool := false
  /-- It travels as packets: its home is on another die (R362). -/
  remote : Bool := false
  rail   : Nat := 0
  seq    : Nat := 0
  retries : Nat := 0
  sentAt : Nat := 0
  /-- Since when every answer was NACK-busy (R370). -/
  busySince : Option Nat := none
  /-- The last answer was NACK-busy, and a retransmission is due (R370). -/
  busyAt : Option Nat := none
  /-- The destination has performed it, with this status; its answer is on the way. -/
  performed : Option Status := none
  /-- The packet carries the resynchronisation mark (R369). -/
  resync : Bool := false
  /-- The reply of a load's piece has arrived and waits for those of its page; and a reply on the way is discarded, since another piece of the page was
  refused STALE (R176). -/
  replied : Bool := false
  again  : Bool := false
  /-- What a load's piece asked for, where a poisoned word has taken elements out of it (R166, R176). -/
  request : Option PieceOp := none
  /-- Its rail has failed, and no other rail carries its share yet (R366): it has not been transmitted. -/
  unsent : Bool := false
  /-- What a read or an atomic brought back, kept until it is written to its destination. -/
  result : List Byte := []
  /-- Loaded elements whose bytes touch an INV block (R97). -/
  invs   : List Nat := []
  /-- Parts of loaded elements that other pieces of the operation have brought: element, first byte, bytes (R266). -/
  carry  : List (Nat × Nat × List Byte) := []
  /-- The extent hint of its instruction, in words (R130). -/
  hint   : Nat := 0
deriving DecidableEq, Repr

/-- The kinds of a packet (R364). -/
inductive PacketKind where
  | readRequest | write | atomic | data | orderedFlag | contribution
  | readReply | acknowledgement | nackBusy
  | gang | preempt | report | shootdown
  | reserved (code : Nat)
deriving DecidableEq, Repr

/-- A packet on the wire (R364). A class-0 packet and its answers name the piece they carry. Control messages carry their own numbers. -/
structure Packet where
  kind   : PacketKind := .write
  dstPkg : Nat := 0
  dstDie : Nat := 0
  srcPkg : Nat := 0
  srcDie : Nat := 0
  srcCore : Nat := 0
  srcSlot : Nat := 0
  vi     : Nat := 0
  cls    : Nat := 0
  seq    : Nat := 0
  rail   : Nat := 0
  piece  : Nat := 0
  status : Status := .ok
  /-- The end-to-end CRC checks (R364). -/
  crcOk  : Bool := true
  /-- The torus hops it has made (R371). -/
  hops   : Nat := 0
  /-- The sender's mark of a resynchronised channel (R369). -/
  resync : Bool := false
  /-- Control messages: launch, instance or window, count. -/
  x      : Nat := 0
  y      : Nat := 0
  z      : Nat := 0
deriving DecidableEq, Repr

/-! Saved contexts. -/

/-- A saved context (R342, R343, R346): the image as an object, with its place. -/
structure Saved where
  strand : Strand
  /-- Physical home address of the image. -/
  at_    : Nat
  /-- The parking slot it takes, or none for CTXSAVE. -/
  slot   : Option Nat
  lost   : Bool
  region : Option (List Byte)
  /-- Stopped under R329: the save engine writes its image next. -/
  stopped : Bool := false
  /-- The save's number, which its header carries (log entry 9). -/
  number : Nat := 0
deriving DecidableEq, Repr

/-! Events, outputs, the agenda. -/

/-- What an event of the table of operations names. Each meaning says which of these it reads. -/
structure EventArg where
  pkg    : Nat := 0
  vi     : Nat := 0
  /-- A die (package * 8 + die), a channel (die * 16 + channel), a core (die * 128 + core), a launch, a task, a piece or an index. -/
  key    : Nat := 0
  index  : Nat := 0
  off    : Nat := 0
  value  : Nat := 0
  submitted : Bool := false
  bytes  : List Byte := []
  packet : Packet := {}
  offer  : List SpdmAlgorithm := []
  image  : FirmwareImage := {}
deriving DecidableEq, Repr

/-- What the machine does next other than the current strand's own step. -/
inductive Action where
  | event (i : Instr) (arg : EventArg)
  /-- The strand with this task becomes the current one. -/
  | select (tid : Nat)
  /-- Time passes, in nanoseconds. -/
  | tick (ns : Nat)
  /-- A packet on the wire is lost. -/
  | lose (index : Nat)
  /-- A cache holds a line no longer: the core and the line's home address. -/
  | dropLine (core ha : Nat)
  /-- H firmware answers the service call at which the current strand stands (R381). -/
  | service
  /-- The memory-side cache of a channel writes a decoded sector back and holds it no longer (R96). -/
  | evict (chan sector : Nat)
  /-- A line of a core's L1 instruction cache meets a parity error (R337, R390): the core and the line's home address. -/
  | parity (core ha : Nat)
  /-- A home word meets an uncorrectable error (R390): its home address / 8. -/
  | strike (word : Nat)
  /-- A register or tile word of a task meets an uncorrectable error (R391, R346): its poison key. -/
  | strikeOwn (tid key : Nat)
  /-- H firmware sets a VI's scratchpad quota in bytes (R379). -/
  | setQuota (pkg vi bytes : Nat)
  /-- H firmware sets a VI's level-1 table in the home agent of a channel (R379, R113). -/
  | setRoot (chan vi pa : Nat)
  /-- S or H software ends a launch (R38). -/
  | endLaunch (id : Nat)
  /-- H configuration sets a VI's budgets of P0 to P3, its share weight and its quantum (R71 to R73). -/
  | setShares (pkg vi : Nat) (budgets : List Nat) (weight quantum : Nat)
  /-- H configuration sets the power limit of a package in watts (R388). -/
  | setLimit (pkg watts : Nat)
  /-- A thermal monitor of a die reads so many degrees, a voltage monitor so many thousandths of its setting (R388). -/
  | thermal (die monitor degrees : Nat)
  | voltage (die monitor permille : Nat)
  /-- A home word, or a register or tile word of a task, meets a correctable error (R390). -/
  | soft (word : Nat)
  | softOwn (tid key : Nat)
  /-- An access to the word corrects the error (R390). -/
  | correct (word : Nat)
  | correctOwn (tid key : Nat)
  /-- An error in a word of a physical lane group's slice of the vector register file (R392). -/
  | laneError (core group word : Nat) (uncorrectable : Bool)
  /-- H firmware retires a lane group, or marks a core as failed (R392). -/
  | retireGroup (core group : Nat)
  | markFailed (core : Nat)
deriving DecidableEq, Repr

/-- What the device has sent to the host (R380, R384, R388). -/
inductive Output where
  | msix (pkg vi vector : Nat)
  | readData (bytes : List Byte)
  | poisoned
  | writeAck
  | writeError
  | spdm (pkg code : Nat) (bytes : List Byte)
  | spdmError (pkg : Nat)
  | errorVector (pkg : Nat)
  | report (code : Nat)
deriving DecidableEq, Repr

/-- The whole machine. -/
structure State where
  /-- The strand that moves next. -/
  cpu    : Strand := {}
  others : List Strand := []
  agenda : List Action := []
  /-- The model's own: the current strand has moved, and work in progress has its turn before the next strand (R63, log entry 3). -/
  background : Bool := false
  arg    : EventArg := {}
  mem    : Memory := []
  /-- Poisoned 8-byte words by home address / 8 (R390). -/
  poison : List Nat := []
  /-- Words with a correctable error, by home address / 8 (R390). -/
  soft   : List Nat := []
  /-- Host memory of spilled pages: host slot * 65536 + offset (R112, R122). -/
  hostMem : Memory := []
  /-- The 64-byte blocks of spilled window pages that were INV (R97), by host address / 64. -/
  hostInv : List Nat := []
  cores  : Cells CoreSt := []
  dies   : Cells DieSt := []
  chans  : Cells ChanSt := []
  pkgs   : Cells PkgSt := []
  vis    : Cells ViSt := []
  /-- By package * 1024 + VI. -/
  viPkgs : Cells ViPkgSt := []
  launches : List Launch := []
  pieces : List Piece := []
  wire   : List Packet := []
  saved  : List Saved := []
  /-- The saves whose images have been loaded and may be loaded again (R356). -/
  loaded : List Saved := []
  /-- Pages that a stalled access waits for (R122): VI and virtual address. -/
  pageIns : List (Nat × Word) := []
  /-- Host accesses that stall on a page (R378, R122), oldest first; `true` for a write. -/
  hostWaits : List (EventArg × Bool) := []
  /-- Packets that a destination has performed, by the number of the piece they carry, with the status first answered (R368). -/
  answered : List (Nat × Status) := []
  /-- Nanoseconds since the system started. -/
  time   : Nat := 0
  /-- The model's own counter of free values. -/
  free   : Nat := 0
  /-- The next number for a task, launch, piece, operation or run. -/
  next   : Nat := 1
  outputs : List Output := []
deriving DecidableEq, Repr

/-- Why the machine stops with a fault. -/
inductive Fault where
  /-- The package of the current strand, or of the event, is in stage 15: a thermal trip has halted every core and port (R389).
  Raised by step. Safe: the spec gives the halted machine no step but a package reset, which stays possible as an event. -/
  | halted
deriving DecidableEq, Repr

/-- Why a step has no meaning. -/
inductive Refusal where
  /-- No meaning has been written for the instruction. Raised by Dispatch.lean. Safe: nothing is proved of a step that does not happen. -/
  | notModelled (mnemonic : String)
deriving DecidableEq, Repr

/-- The machine right after reset. Nothing has started: no task, no accepted launch, nothing in memory, every register at its reset value
(log entry 2 names those the spec gives no value for). -/
def State.reset : State := {}

end Sys2Proof.Machine
end

