-- ==== Sys2Proof/Machine/Ops.lean ====
section
/-! DEFINITION. The named operations over registers, tables and memory bytes, taking a trap (spec/23_traps.md R328 to R331) and returning from one
(R332). Everything a meaning does to the state goes through these. -/

namespace Sys2Proof

/-- The bytes of an instruction: 16 with a literal word (R178). -/
def Ops.bytes (o : Ops) : Word :=
  match o.b with
  | .lit _ => 16
  | .reg _ _ => 8
  | .imm _ => 8
  | .kbank _ => 8
  | .limm _ => 8

end Sys2Proof

namespace Sys2Proof.Machine

/-! Tables. -/

/-- The value at a number, `d` where the table lists none. -/
def cellGet {α : Type} (d : α) : Cells α → Nat → α
  | [], _ => d
  | (k, v) :: rest, n => if k = n then v else cellGet d rest n

/-- The table with `v` at `n`. -/
def cellPut {α : Type} : Cells α → Nat → α → Cells α
  | [], n, v => [(n, v)]
  | (k, w) :: rest, n, v =>
    if n < k then (n, v) :: (k, w) :: rest
    else if k = n then (n, v) :: rest
    else (k, w) :: cellPut rest n v

/-- The table without `n`. -/
def cellDrop {α : Type} (c : Cells α) (n : Nat) : Cells α := c.filter (fun x => x.1 ≠ n)

/-- The table with `v` at `n`, keeping no entry equal to the default `d`. -/
def cellSet {α : Type} [DecidableEq α] (d : α) (c : Cells α) (n : Nat) (v : α) : Cells α :=
  if v = d then cellDrop c n else cellPut c n v

/-! Bytes. -/

/-- One byte of memory; an unlisted byte reads 0 (log entry 1). -/
def memGet (m : Memory) (a : Nat) : Byte := cellGet 0 m a

/-- Memory with one byte written, in canonical form. -/
def memSet (m : Memory) (a : Nat) (b : Byte) : Memory := cellSet 0 m a b

/-- `n` bytes from address `a` up. -/
def memRead (m : Memory) (a : Nat) : Nat → List Byte
  | 0 => []
  | n + 1 => memGet m a :: memRead m (a + 1) n

/-- Memory with bytes written from address `a` up. -/
def memWrite (m : Memory) (a : Nat) : List Byte → Memory
  | [] => m
  | b :: bs => memWrite (memSet m a b) (a + 1) bs

/-- R3: the little-endian value of some bytes. -/
def leNat : List Byte → Nat
  | [] => 0
  | b :: bs => b.toNat + 256 * leNat bs

/-- R3: the low `n` bytes of a value. -/
def leBytes : Nat → Nat → List Byte
  | 0, _ => []
  | n + 1, x => BitVec.ofNat 8 x :: leBytes n (x / 256)

/-- A 64-bit word at a memory address. -/
def memWord (m : Memory) (a : Nat) : Nat := leNat (memRead m a 8)

/-! Parts of the state. -/

def coreKey (pkg die core : Nat) : Nat := (pkg * 8 + die) * 128 + core
def dieKey (pkg die : Nat) : Nat := pkg * 8 + die
def chanKey (pkg die chan : Nat) : Nat := (pkg * 8 + die) * 16 + chan

namespace State
def core (s : State) (k : Nat) : CoreSt := cellGet {} s.cores k
def die (s : State) (k : Nat) : DieSt := cellGet {} s.dies k
def chan (s : State) (k : Nat) : ChanSt := cellGet {} s.chans k
def pkg (s : State) (k : Nat) : PkgSt := cellGet {} s.pkgs k
def vi (s : State) (k : Nat) : ViSt := cellGet {} s.vis k
def viPkg (s : State) (pkg vi : Nat) : ViPkgSt := cellGet {} s.viPkgs (pkg * 1024 + vi)
def setCore (s : State) (k : Nat) (x : CoreSt) : State := { s with cores := cellPut s.cores k x }
def setDie (s : State) (k : Nat) (x : DieSt) : State := { s with dies := cellPut s.dies k x }
def setChan (s : State) (k : Nat) (x : ChanSt) : State := { s with chans := cellPut s.chans k x }
def setPkg (s : State) (k : Nat) (x : PkgSt) : State := { s with pkgs := cellPut s.pkgs k x }
def setVi (s : State) (k : Nat) (x : ViSt) : State := { s with vis := cellPut s.vis k x }
def setViPkg (s : State) (pkg vi : Nat) (x : ViPkgSt) : State := { s with viPkgs := cellPut s.viPkgs (pkg * 1024 + vi) x }
/-- The state with the current strand changed. -/
def onCpu (s : State) (f : Strand → Strand) : State := { s with cpu := f s.cpu }
/-- Every strand, the current one first. -/
def strands (s : State) : List Strand := s.cpu :: s.others
/-- The state with every strand changed. -/
def onStrands (s : State) (f : Strand → Strand) : State := { s with cpu := f s.cpu, others := s.others.map f }
/-- The state with the strand of one task changed. -/
def onTask (s : State) (tid : Nat) (f : Strand → Strand) : State :=
  s.onStrands (fun t => if t.tid = tid then f t else t)
/-- The strand of a task. -/
def task? (s : State) (tid : Nat) : Option Strand := s.strands.find? (fun t => t.tid = tid && decide (t.tid ≠ 0))
/-- The running strand at a place. -/
def strandAt (s : State) (pkg die core slot : Nat) : Option Strand :=
  s.strands.find? (fun t => t.tid ≠ 0 && t.pkg = pkg && t.die = die && t.core = core && t.slot = slot)
/-- The core, die and package of the current strand. -/
def myCore (s : State) : Nat := coreKey s.cpu.pkg s.cpu.die s.cpu.core
def myDie (s : State) : Nat := dieKey s.cpu.pkg s.cpu.die
/-- A new number. -/
def fresh (s : State) : Nat × State := (s.next, { s with next := s.next + 1 })
end State

/-! Registers of a strand. -/

namespace Strand

/-- G[n]: g0 reads zero (R8). -/
def readG (t : Strand) (n : Nat) : Word := if n = 0 then 0 else cellGet 0 t.g n

/-- A write of G[n]; a write of g0 is discarded (R8). The whole register is written, so it is no longer poisoned (R391). -/
def writeG (t : Strand) (n : Nat) (x : Word) : Strand :=
  if n = 0 then t else { t with g := cellSet 0 t.g n x, poison := t.poison.filter (· ≠ n) }

/-- K[n]. -/
def readK (t : Strand) (n : Nat) : Word := cellGet 0 t.k n

def writeK (t : Strand) (n : Nat) (x : Word) : Strand := { t with k := cellSet 0 t.k n x }

/-- The key of element `i` of register `n`. -/
def elemKey (n i : Nat) : Nat := n * 65536 + i

/-- The EW bits of element `i` of vn (R231). -/
def readV (t : Strand) (n i : Nat) : Nat := cellGet 0 t.v (elemKey n i)

/-- The poison mark of the 64-bit word that holds an element of a v register (R391). -/
def vPoisonKey (t : Strand) (n i : Nat) : Nat := 64 + elemKey n (i * t.ew / 64)

/-- The elements of the 64-bit word that holds an element. -/
def wordElems (t : Strand) (n i : Nat) : List Nat :=
  (List.range (64 / t.ew)).map (fun j => elemKey n (i * t.ew / 64 * (64 / t.ew) + j))

/-- A write of element `i` of vn. A poisoned word stays poisoned until one instruction has written all of it (R391). -/
def writeV (t : Strand) (n i x : Nat) : Strand :=
  let key := t.vPoisonKey n i
  let seen := elemKey n i :: t.healed
  let whole := (t.wordElems n i).all (fun e => seen.contains e)
  { t with v := cellSet 0 t.v (elemKey n i) (low t.ew x), poison := if whole then t.poison.filter (· ≠ key) else t.poison,
           healed := if t.poison.contains key then seen else t.healed }

/-- M[n][i]; n = 8 is mq (R232, R97). -/
def readM (t : Strand) (n i : Nat) : Bool :=
  if n = 8 then !(cellGet false t.mqOff i) else cellGet false t.m (elemKey n i)

def writeM (t : Strand) (n i : Nat) (b : Bool) : Strand :=
  if n = 8 then { t with mqOff := cellSet false t.mqOff i (!b) } else { t with m := cellSet false t.m (elemKey n i) b }

/-- E of R52. -/
def groupElems (t : Strand) : Nat := 131072 / (t.nv * t.ew)

/-- MVL (R52). -/
def mvl (t : Strand) : Nat := t.groups * t.groupElems

/-- R9: Active(m, i). -/
def active (t : Strand) (m i : Nat) : Bool :=
  decide (t.vstart ≤ i) && decide (i < t.vl) && (m == 0 || !t.mmode || t.readM m i)

def readCC (t : Strand) (n : Nat) : CC := cellGet {} t.cc n
def writeCC (t : Strand) (n : Nat) (x : CC) : Strand := { t with cc := cellSet {} t.cc n x }
def readBnd (t : Strand) (n : Nat) : Option Binding := cellGet none t.bnd n
def writeBnd (t : Strand) (n : Nat) (x : Option Binding) : Strand := { t with bnd := cellSet none t.bnd n x }

/-- The trap registers of a level; S for U. -/
def traps (t : Strand) : Level → TrapRegs
  | .u => t.trapS
  | .s => t.trapS
  | .h => t.trapH

def setTraps (t : Strand) (x : Level) (r : TrapRegs) : Strand :=
  match x with
  | .u => { t with trapS := r }
  | .s => { t with trapS := r }
  | .h => { t with trapH := r }

/-- The hold bank of a level (R333). -/
def hold (t : Strand) : Level → List QEntry
  | .u => t.holdS
  | .s => t.holdS
  | .h => t.holdH

def setHold (t : Strand) (x : Level) (q : List QEntry) : Strand :=
  match x with
  | .u => { t with holdS := q }
  | .s => { t with holdS := q }
  | .h => { t with holdH := q }

/-- OR flags into FPFLAGS (R85). -/
def orFlags (t : Strand) (f : Flags) : Strand := { t with fpflags := t.fpflags ||| f }

/-- VCONFIG's and a regrant's clearing of the vector state (R51, R53). -/
def clearVector (t : Strand) : Strand :=
  { t with v := [], m := [], mqOff := [], vstart := 0, healed := [],
           poison := t.poison.filter (fun p => p < 64 || (2 ^ 32 ≤ p && p < 2 ^ 40)) }

end Strand

/-! The captured operands of the head of the queue (R57). -/

/-- The g register that a queued instruction captured, or the register itself where nothing was captured. -/
def State.srcG (s : State) (n : Nat) : Word :=
  match s.cpu.queue with
  | [] => s.cpu.readG n
  | e :: _ => if n = 0 then 0 else cellGet (s.cpu.readG n) e.caps n

/-- The constant-bank entry that a queued instruction captured. -/
def State.srcK (s : State) (n : Nat) : Word :=
  match s.cpu.queue with
  | [] => s.cpu.readK n
  | e :: _ => cellGet (s.cpu.readK n) e.caps (64 + n)

/-- FPMODE of a queued instruction: as it stood at commit (R81). -/
def State.srcRm (s : State) : Nat :=
  match s.cpu.queue with
  | [] => s.cpu.fpmode
  | e :: _ => e.rm

/-! Advancing. -/

/-- R336: an instruction completes at the level to which the arming ERET returned. -/
def Strand.stepped (t : Strand) : Bool := t.stepDone || t.level == t.stepAt

/-- A scalar instruction has committed: the pc moves past it, and the strand is not parked. -/
def Strand.advance (t : Strand) (n : Word) : Strand := { t with pc := t.pc + n, parked := false, stepDone := t.stepped }

/-- A scalar instruction completes with a changed strand. -/
def State.commit (s : State) (n : Word) (f : Strand → Strand) : State := s.onCpu (fun t => (f t).advance n)

/-- The head of the vector queue completes (R57): it leaves the queue. VSTART stays: the instruction is none that R235 and R57 let clear it. -/
def Strand.retireKeep (t : Strand) : Strand :=
  { t with queue := t.queue.drop 1, parked := false, arrived := false, watched := [], watchFull := false, healed := [], stepDone := t.stepped }

/-- The head of the queue, a vector instruction, completes: VSTART becomes 0 (R235, R54), unless the meaning sets it after. -/
def Strand.retire (t : Strand) : Strand := { t.retireKeep with vstart := 0 }

/-- The head of the queue completes after `f` has changed the strand. -/
def State.retire (s : State) (f : Strand → Strand) : State := s.onCpu (fun t => (f t).retire)

/-- The head of the queue, no vector instruction, completes after `f` has changed the strand. -/
def State.retireKeep (s : State) (f : Strand → Strand) : State := s.onCpu (fun t => (f t).retireKeep)

/-- The instruction waits: nothing of it has an effect, and it is performed again later (R60, R62). -/
def State.park (s : State) : State := s.onCpu (fun t => { t with parked := true })

/-! The error log (R393) and the interrupt bits (R380). -/

/-- R380: an IRQ bit is set; its vector is sent when the bit rises. -/
def raiseIrq (s : State) (pkg vi bit : Nat) : State :=
  let v := s.viPkg pkg vi
  if v.irq.getLsbD bit then s
  else
    let s1 := s.setViPkg pkg vi { v with irq := v.irq ||| (1#2 <<< bit) }
    { s1 with outputs := s1.outputs ++ [.msix pkg vi bit] }

/-- R393: a record enters the error log of a package; a full log loses its oldest record. A record of one VI sets that VI's error bit. -/
def pushLog (s : State) (pkg : Nat) (r : LogRecord) : State :=
  let p := s.pkg pkg
  let full := decide (Config.logRecords ≤ p.log.length)
  let p1 := { p with log := (if full then p.log.drop 1 else p.log) ++ [{ r with time := s.time - p.resetAt }],
                     overflow := if full then p.overflow + 1 else p.overflow }
  let s1 := s.setPkg pkg p1
  match r.vi with
  | none => s1
  | some v => raiseIrq s1 pkg v 1

/-- R388: the throttle step of a die: what its monitors and its package's power have set, and the step that a voltage droop adds for 1 ms. -/
def dieStep (d : DieSt) : Nat := min 5 (d.step + d.droop)

/-- A package in stage 15 runs nothing (R389). -/
def haltedPkg (s : State) (n : Nat) : Bool := (s.pkg n).stage == 15

/-! Traps. -/

/-- Cause codes (R200). -/
def causeIllOpc : Nat := 0x01
def causeIllFld : Nat := 0x02
def causeIllPair : Nat := 0x03
def causeLitexec : Nat := 0x04
def causeVreg : Nat := 0x05
def causePriv : Nat := 0x06
def causeGate : Nat := 0x07
def causeAlign : Nat := 0x10
def causeStride : Nat := 0x11
def causePageNp : Nat := 0x12
def causePageProt : Nat := 0x13
def causeSpace : Nat := 0x14
def causeNode : Nat := 0x15
def causeWindowWrite : Nat := 0x16
def causeRevoked : Nat := 0x17
def causeTimeout : Nat := 0x18
def causeAbn : Nat := 0x20
def causeMatrix : Nat := 0x21
def causeOrder : Nat := 0x22
def causeHfull : Nat := 0x23
def causeUeData : Nat := 0x30
def causeUeInstr : Nat := 0x31
def causeContextLost : Nat := 0x32
def causeTrap : Nat := 0x40
def causeBreak : Nat := 0x41
def causeStep : Nat := 0x42
def causePreempt : Nat := 0x50
def causeTimer : Nat := 0x51
def causeDoorbell : Nat := 0x52
def causeWatch : Nat := 0x53

/-- R328: the level that a synchronous cause enters, by the level at which it is raised. STEP has its own target. -/
def trapTarget (cause : Nat) (l : Level) : Level :=
  match l with
  | .h => .h
  | .s => if cause = causePriv ∨ cause = causeTrap ∨ cause = causeBreak then .h else .s
  | .u => .s

/-- TVEC of a level for the current strand (R396). Bits 2:0 read as zero (R330). -/
def State.tvec (s : State) : Level → Word
  | .h => (s.pkg s.cpu.pkg).tvecH
  | .u => (s.viPkg s.cpu.pkg s.cpu.vi).tvec
  | .s => (s.viPkg s.cpu.pkg s.cpu.vi).tvec

/-- R331: entry into level `x`, as one step. -/
def enterTrap (s : State) (x : Level) (cause : Nat) (tval epc : Word) : State :=
  s.onCpu (fun t =>
    let r := t.traps x
    let r' := { r with cause := BitVec.ofNat 8 cause, tval := tval, epc := epc &&& ~~~7, plvl := BitVec.ofNat 2 t.level.rank,
                       pmm := t.mmode, pie := r.ie, ie := false }
    { t.setTraps x r' with
        mmode := false, td := t.td || t.held ≠ 0, level := x, pc := s.tvec x, parked := false, arrived := false,
        exiting := false, watched := [], watchFull := false, entering := x != .h, trip := none })

/-- The strand stops as a lost context (R329, R346): its place is free, and the save engine saves it as a lost image next (PREEMPTION_SAVE). -/
def stopStrand (s : State) : State :=
  let t := s.cpu
  { s with cpu := { pkg := t.pkg, die := t.die, core := t.core, slot := t.slot },
           saved := s.saved ++ [{ strand := t, at_ := 0, slot := none, lost := true, region := none, stopped := true }] }

/-- The trap of a scalar instruction: taken only after every older queue entry has completed (R59), so it waits while the queue holds one.
`epc` is where ERET resumes. -/
def scalarTrapAt (s : State) (cause : Nat) (tval epc : Word) : State :=
  match s.cpu.queue with
  | [] => enterTrap s (trapTarget cause s.cpu.level) cause tval epc
  | _ :: _ => s.park

/-- The trap of a scalar instruction at the instruction itself. -/
def scalarTrap (s : State) (cause : Nat) (tval : Word) : State := scalarTrapAt s cause tval s.cpu.pc

/-- R333: the head of the queue begins: an entry that was held behind another resumes at the start it recorded. -/
def Strand.beginHead (t : Strand) : Strand :=
  match t.queue with
  | [] => t
  | e :: rest =>
    match e.start with
    | none => t
    | some k => { t with vstart := k, queue := { e with start := none } :: rest }

/-- The entries that a trap moves to the hold bank: the oldest, which resumes at VSTART, and the younger ones, each with its own start, 0 where it has
not started (R59, R333). -/
def heldEntries (t : Strand) : List QEntry :=
  match t.queue with
  | [] => []
  | e :: rest => { e with read := [], tau := none, query := none, pass := e.pass.filter (fun x => x.desc.isEmpty) } :: rest.map (fun x => { x with start := some (x.start.getD 0) })

/-- R59, R329: a trap that moves the whole queue into the hold bank of its target level; into an occupied bank it is a double trap. -/
def queueTrapTo (s : State) (x : Level) (cause : Nat) (tval epc : Word) : State :=
  match heldEntries s.cpu.beginHead with
  | [] => enterTrap s x cause tval epc
  | q =>
    if (s.cpu.hold x).isEmpty then
      enterTrap (s.onCpu (fun t => { t.beginHead.setHold x q with queue := [] })) x cause tval epc
    else if x = .h then stopStrand s
    else if !(s.cpu.holdH).isEmpty then stopStrand s
    else
      enterTrap (s.onCpu (fun t => { t.beginHead with holdH := q, queue := [], trapH := { t.trapH with dbl := true } })) .h cause tval epc

/-- The trap of the instruction at the head of the queue. TEPC is the scalar resume point (R59, R331). -/
def queuedTrap (s : State) (cause : Nat) (tval : Word) : State :=
  queueTrapTo s (trapTarget cause s.cpu.level) cause tval s.cpu.pc

/-- The word of the instruction at the head of the queue, for TVAL. -/
def State.headWord (s : State) : Word :=
  match s.cpu.queue with
  | [] => 0
  | e :: _ => e.word

/-- R332: the return from the level `x` at which the strand runs, once the queue is empty and no tile claim is outstanding. The ERET itself may be the
instruction that R336 counts. -/
def returnFrom (t : Strand) : Strand :=
  let x := t.level
  let r := t.traps x
  let l := match r.plvl.toNat with
    | 0 => Level.u
    | 1 => Level.s
    | _ => Level.h
  let t1 := { t.setTraps x { r with ie := r.pie } with
                mmode := r.pmm, level := l, td := t.td && l != Level.u, pc := r.epc,
                stepArm := if r.step then some x else t.stepArm, stepAt := if r.step then l else t.stepAt,
                stepDone := t.stepped && !r.step, parked := false, entering := false }
  { t1.setHold x [] with queue := t1.hold x ++ t1.queue }

end Sys2Proof.Machine
end

