-- ==== Sys2Proof/Machine/Caches.lean ====
section
/-! DEFINITION. What the caches at a home hold: the blocks of an L2 set (spec/07_memory.md R110, R126 to R132, 08_memory_notes.md R145) and
the sectors of the memory-side cache (R134, R135). Their data is the home's own data, so only tags and states stand here; no result
depends on them (R130). -/

namespace Sys2Proof.Machine

/-! Home addresses. -/

/-- The home address of a channel offset. -/
def haOf (pkg die chan off : Nat) : Nat := pkg * 2 ^ 40 + die * 2 ^ 37 + chan * 2 ^ 33 + off
/-- The home address of a scratchpad byte. -/
def haScratch (pkg die core off : Nat) : Nat := 2 ^ 63 + pkg * 2 ^ 34 + die * 2 ^ 31 + core * 2 ^ 24 + off
def haIsScratch (ha : Nat) : Bool := decide (2 ^ 63 ≤ ha)
def haPkg (ha : Nat) : Nat := if haIsScratch ha then (ha - 2 ^ 63) / 2 ^ 34 else ha / 2 ^ 40
def haDie (ha : Nat) : Nat := if haIsScratch ha then bitsOf ha 33 31 else bitsOf ha 39 37
def haChan (ha : Nat) : Nat := bitsOf ha 36 33
def haOff (ha : Nat) : Nat := low 33 ha
def haCore (ha : Nat) : Nat := bitsOf ha 30 24
/-- The die of a home, and its channel. -/
def haDieKey (ha : Nat) : Nat := dieKey (haPkg ha) (haDie ha)
def haChanKey (ha : Nat) : Nat := chanKey (haPkg ha) (haDie ha) (haChan ha)
/-- A physical address on a package (R107): bits 63:40 are ignored. -/
def haPhys (pkg : Nat) (pa : Nat) : Nat := pkg * 2 ^ 40 + low 40 pa

/-! The home slice (R110). -/

/-- The slice of channel offset `p` on channel `c`. -/
def sliceOf (p c : Nat) : Nat :=
  (bitsOf p 14 8 ^^^ bitsOf p 21 15 ^^^ bitsOf p 28 22 ^^^ (bitsOf p 32 29 * 8 ||| c % 8)) % 128

/-- The set within the slice. -/
def setOf (p : Nat) : Nat := (bitsOf p 23 15 ^^^ bitsOf p 32 24) % 512

/-- The word within its 256-byte frame. -/
def wordInFrame (p : Nat) : Nat := bitsOf p 7 3

/-! L2 sets. -/

/-- R126: the granules that a block occupies. -/
def L2Block.granules (b : L2Block) : Nat := b.last / 2 + 1 - b.first / 2

def granulesOf (l : List L2Block) : Nat := (l.map L2Block.granules).foldl (· + ·) 0

/-- R108: the granule quota of a class. -/
def l2Quota (quota : Word) (cls : Nat) : Nat := low 6 (quota.toNat / 2 ^ (8 * cls))

/-- R132: whether a class holds more granules of the set than its quota. -/
def overQuota (quota : Word) (set : List L2Block) (cls : Nat) : Bool :=
  decide (l2Quota quota cls < granulesOf (set.filter (·.cls = cls)))

/-- R132: the victim of a fill of class `cls`; blocks stand least recently used first. -/
def l2Victim (quota : Word) (cls : Nat) (set : List L2Block) : Option L2Block :=
  let first := if overQuota quota set cls then set.find? (·.cls = cls)
    else match set.find? (fun b => overQuota quota set b.cls) with
      | some b => some b
      | none => set.find? (·.cls = cls)
  match first with
  | some b => some b
  | none => set.head?

/-- R132: evict whole blocks until `granules` and a tag are free. The first argument bounds the evictions. -/
def l2MakeRoom : Nat → Word → Nat → Nat → List L2Block → List L2Block
  | 0, _, _, _, set => set
  | n + 1, quota, cls, granules, set =>
    if set.length < 8 ∧ granulesOf set + granules ≤ 32 then set
    else match l2Victim quota cls set with
      | none => set
      | some b => l2MakeRoom n quota cls granules (set.erase b)

/-- The set holds word `w` of the frame. -/
def l2Holds (set : List L2Block) (frame w : Nat) : Bool :=
  set.any (fun b => b.frame = frame && decide (b.first ≤ w) && decide (w ≤ b.last))

/-- R128: one sub-run of words that no block holds joins a neighbour, bridges two, or becomes a block. A block merged from blocks of two classes or sources
keeps the lower block's, and a run that joins only a higher block takes that one's (DESIGN CHOICE, log entry 74). -/
def l2Insert (quota : Word) (set : List L2Block) (new : L2Block) : List L2Block :=
  let left := set.find? (fun b => b.frame = new.frame && b.last + 1 = new.first)
  let right := set.find? (fun b => b.frame = new.frame && b.first = new.last + 1)
  let whole := fun (l r : L2Block) => { l with first := l.first, last := r.last, dirty := l.dirty ++ r.dirty }
  let fits := fun (rest : List L2Block) (b : L2Block) => decide (granulesOf rest + b.granules ≤ 32)
  let alone := l2MakeRoom 9 quota new.cls new.granules set ++ [new]
  match left, right with
  | some l, some r =>
    let rest := (set.erase l).erase r
    let b := whole (whole l new) r
    if fits rest b then rest ++ [b] else alone
  | some l, none =>
    let rest := set.erase l
    let b := whole l new
    if fits rest b then rest ++ [b] else alone
  | none, some r =>
    let rest := set.erase r
    let b := { whole new r with cls := r.cls, src := r.src }
    if fits rest b then rest ++ [b] else alone
  | none, none => alone

/-- The maximal runs of missing words among `lo` to `lo + n - 1`. -/
def l2Missing (set : List L2Block) (frame : Nat) : Nat → Nat → Option Nat → List (Nat × Nat)
  | lo, 0, some a => [(a, lo - 1)]
  | _, 0, none => []
  | lo, n + 1, start =>
    if l2Holds set frame lo then
      match start with
      | some a => (a, lo - 1) :: l2Missing set frame (lo + 1) n none
      | none => l2Missing set frame (lo + 1) n none
    else l2Missing set frame (lo + 1) n (some (start.getD lo))

/-- R128: a fill of words `lo` to `hi`; words already held keep their block. -/
def l2Fill (quota : Word) (cls src frame lo hi : Nat) (set : List L2Block) : List L2Block :=
  (l2Missing set frame lo (hi + 1 - lo) none).foldl
    (fun st run => l2Insert quota st { frame := frame, first := run.1, last := run.2, dirty := [], cls := cls, src := src }) set

/-- Words `lo` to `hi`. -/
def wordsUpTo (lo hi : Nat) : List Nat := (List.range (hi + 1 - lo)).map (· + lo)

/-- R145: the blocks that hold a named word become the most recently used; several of them keep their order (DESIGN CHOICE, log entry 74). -/
def l2Hit (frame : Nat) (named : List Nat) (set : List L2Block) : List L2Block :=
  let hit := fun (b : L2Block) => b.frame = frame && named.any (fun w => decide (b.first ≤ w) && decide (w ≤ b.last))
  set.filter (fun b => !hit b) ++ set.filter hit

/-- R129: the named words that the set lacks. -/
def l2Lacks (set : List L2Block) (frame : Nat) (named : List Nat) : List Nat := named.filter (fun w => !l2Holds set frame w)

/-- R129, R130: a request that names some words of a frame, with an extent hint of `hint` words, 0 for none. The words it lacks are fetched as one run, from
the lowest to the highest, widened to the aligned group of the lowest; the fill is trimmed by what is held. Without a hint the group is one word, the
smallest that the predictor may choose (log entry 6). -/
def l2Read (quota : Word) (cls src frame : Nat) (named : List Nat) (hint : Nat) (set : List L2Block) : List L2Block :=
  let set1 := l2Hit frame named set
  match l2Lacks set1 frame named with
  | [] => set1
  | x :: rest =>
    let lo := rest.foldl min x
    let hi := rest.foldl max x
    let group := max 1 hint
    l2Fill quota cls src frame (lo / group * group) (min 31 (max hi (lo / group * group + group - 1))) set1

/-- R131: words `lo` to `hi` are held and written, so they are dirty. -/
def l2Write (quota : Word) (cls src frame lo hi : Nat) (set : List L2Block) : List L2Block :=
  let set1 := l2Fill quota cls src frame lo hi (l2Hit frame (wordsUpTo lo hi) set)
  set1.map (fun b =>
    if b.frame = frame then
      { b with dirty := b.dirty.filter (fun w => !(decide (lo ≤ w) && decide (w ≤ hi)))
                 ++ (wordsUpTo lo hi).filter (fun w => decide (b.first ≤ w) && decide (w ≤ b.last)) }
    else b)

/-- R133: FLUSHR on words `lo` to `hi`: held words become clean. It moves no block in the order of use (DESIGN CHOICE, log entry 74). -/
def l2Flush (frame lo hi : Nat) (set : List L2Block) : List L2Block :=
  set.map (fun b => if b.frame = frame then { b with dirty := b.dirty.filter (fun w => !(decide (lo ≤ w) && decide (w ≤ hi))) } else b)

/-- R133: CINV on words `lo` to `hi` of one block: what is left of it below and above. -/
def l2Split (b : L2Block) (lo hi : Nat) : List L2Block :=
  let part : Nat → Nat → L2Block := fun x y => { b with first := x, last := y, dirty := b.dirty.filter (fun w => decide (x ≤ w) && decide (w ≤ y)) }
  (if b.first < lo then [part b.first (lo - 1)] else []) ++ (if hi < b.last then [part (hi + 1) b.last] else [])

/-- R133: CINV on words `lo` to `hi`. Where a split needs a ninth tag, the part with fewer words goes, on a tie the higher. The
parts that stay are the most recently used (DESIGN CHOICE, log entry 74). -/
def l2Invalidate (frame lo hi : Nat) (set : List L2Block) : List L2Block :=
  set.foldl (fun st b =>
    if b.frame = frame ∧ b.first ≤ hi ∧ lo ≤ b.last then
      let rest := st.erase b
      match l2Split b lo hi with
      | [x, y] => if rest.length + 2 ≤ 8 then rest ++ [x, y]
                  else if x.last + 1 - x.first < y.last + 1 - y.first then rest ++ [y] else rest ++ [x]
      | parts => rest ++ parts
    else st) set

/-! The memory-side cache. -/

/-- The key of a sector's set on its die: the stack of eight channels, and a set that the implementation chooses (log entry 7). -/
def mscKey (chan frame : Nat) : Nat := chan / 8 * 262144 + Config.mscSet frame % 262144

/-- R135: what a victim search may take for a fill of `vi` and class `rc` in ways `ways`. -/
def mscMayEvict (vi rc ways : Nat) (x : MscSector) : Bool :=
  ways.testBit x.way && !(x.rc = 3 && (x.vi ≠ vi || rc ≠ 3))

/-- R135: choose a victim; a sticky sector chosen for the first time moves to the most recently used place instead. The first argument bounds
the search. -/
def mscEvict : Nat → Nat → Nat → Nat → List MscSector → Option (Nat × List MscSector)
  | 0, _, _, _, _ => none
  | n + 1, vi, rc, ways, set =>
    match set.find? (mscMayEvict vi rc ways) with
    | none => none
    | some x =>
      if x.rc = 2 ∧ !x.spared then mscEvict n vi rc ways (set.erase x ++ [{ x with spared := true }])
      else some (x.way, set.erase x)

/-- R135: the RC that a fill takes: a pinned fill of a VI with pinned sectors in all but one of its ways is sticky. -/
def mscFillRc (vi rc ways : Nat) (set : List MscSector) : Nat :=
  let allowed := ((List.range 16).filter (fun w => ways.testBit w)).length
  let pinned := (set.filter (fun x => x.rc = 3 && x.vi = vi && ways.testBit x.way)).length
  if rc = 3 ∧ allowed ≤ pinned + 1 then 2 else rc

/-- R134, R135: a fetch by `vi` through a sector of class `rc`, with way mask `ways`: a hit takes the class of the accessing page, a miss allocates. -/
def mscAccess (vi rc ways frame : Nat) (set : List MscSector) : List MscSector :=
  match set.find? (fun x => x.frame = frame) with
  | some x => set.erase x ++ [{ x with rc := rc }]
  | none =>
    let rc' := mscFillRc vi rc ways set
    let place := fun (way : Nat) (l : List MscSector) =>
      let x : MscSector := { frame := frame, way := way, rc := rc', vi := vi }
      if rc' = 1 then x :: l else l ++ [x]
    match (List.range 16).find? (fun w => ways.testBit w && !(set.any (fun x => x.way = w))) with
    | some way => place way set
    | none =>
      match mscEvict 33 vi rc' ways set with
      | some (way, l) => place way l
      | none => set

/-- R134: the mark of a sector set to `d`: it is newer than memory, or as memory. -/
def mscMark (frame : Nat) (d : Bool) (set : List MscSector) : List MscSector :=
  set.map (fun x => if x.frame = frame then { x with dirty := d } else x)

/-- The sets of a memory-side cache with the set of a frame changed. -/
def onMsc (m : Cells (List MscSector)) (frame : Nat) (f : List MscSector → List MscSector) : Cells (List MscSector) :=
  let k := mscKey (haChan (frame * 256)) frame
  cellSet [] m k (f (cellGet [] m k))

/-- R132, R134: a whole block that leaves an L2 set writes its dirty words back: into the memory-side cache where it holds their sector. -/
def mscWriteBacks (old new : List L2Block) (m : Cells (List MscSector)) : Cells (List MscSector) :=
  ((old.filter (fun b => b.dirty.any (fun w => !l2Holds new b.frame w))).map (·.frame)).foldl (fun m f => onMsc m f (mscMark f true)) m

/-- R135: a VI's way mask changes: its pinned sectors in ways that are no longer in it become sticky. -/
def mscRemask (vi ways : Nat) (set : List MscSector) : List MscSector :=
  set.map (fun x => if x.rc = 3 ∧ x.vi = vi ∧ !ways.testBit x.way then { x with rc := 2 } else x)

/-! What an access leaves in the caches of its home. -/

/-- How an access uses the words of a frame. -/
inductive FrameUse where
  | read | write | flush | invalidate
deriving DecidableEq, Repr

/-- R131: the words that a write of `n` bytes at offset `off` writes only in part. -/
def partWords (off n : Nat) : List Nat :=
  (if off % 8 ≠ 0 ∨ n < 8 then [wordInFrame off] else []) ++ (if (off + n) % 8 ≠ 0 then [wordInFrame (off + n - 1)] else [])

/-- The words of its frame that `n` bytes at a home address name. -/
def frameWords (ha n : Nat) : List Nat := wordsUpTo (wordInFrame (haOff ha)) (wordInFrame (haOff ha + n - 1))

/-- The caches of a die after an access of `n` bytes at home address `ha` inside one frame (R129 to R135); a read names words `named`. Only what an L2 slice
fetches reaches the memory-side cache: a hit, and a store that writes whole words that no block holds, do not. The source of a fill is the memory-side
cache where it holds the sector; words that a host's write allocates have source 3. -/
def useFrame (d : DieSt) (quota : Word) (v : ViSt) (vi rc ha n : Nat) (named : List Nat) (hint : Nat) (host : Bool) (use : FrameUse) : DieSt :=
  let off := haOff ha
  let chan := haChan ha
  let key := sliceOf off chan * 512 + setOf off
  let frame := ha / 256
  let lo := wordInFrame off
  let hi := wordInFrame (off + n - 1)
  let cls := low 2 v.l2class.toNat
  let set := cellGet [] d.l2 key
  let src := if (cellGet [] d.msc (mscKey chan frame)).any (fun x => x.frame = frame) then 1 else 0
  let asked := match use with
    | .read => [named]
    | .write => (partWords off n).map (fun w => [w])
    | .flush => []
    | .invalidate => []
  let fetched := asked.any (fun x => !(l2Lacks set frame x).isEmpty)
  let set1 := asked.foldl (fun st x => l2Read quota cls src frame x hint st) set
  let set' := match use with
    | .read => set1
    | .write => l2Write quota cls (if host then 3 else 0) frame lo hi set1
    | .flush => l2Flush frame lo hi set
    | .invalidate => l2Invalidate frame lo hi set
  let m := if fetched then onMsc d.msc frame (mscAccess vi rc (low 16 v.mscways.toNat) frame) else d.msc
  let m' := mscWriteBacks set set' m
  let m'' := match use with
    | .read => m'
    | .write => m'
    | .flush => onMsc m' frame (mscMark frame false)
    | .invalidate => onMsc m' frame (fun l => l.filter (fun x => x.frame ≠ frame))
  { d with l2 := cellSet [] d.l2 key set', msc := m'' }

/-- `ha` to `ha + n - 1` cut at 256-byte frames. The first argument bounds the number of parts. -/
def frameParts : Nat → Nat → Nat → List (Nat × Nat)
  | 0, _, _ => []
  | fuel + 1, ha, n =>
    if n = 0 then []
    else
      let room := 256 - ha % 256
      if n ≤ room then [(ha, n)] else (ha, room) :: frameParts fuel (ha + room) (n - room)

/-- The state after an access of VI `vi` to `n` bytes at home address `ha`: only the caches of the home die change. -/
def useHome (s : State) (vi rc ha n hint : Nat) (use : FrameUse) (host : Bool := false) : State :=
  if haIsScratch ha then s
  else
    let k := haDieKey ha
    let d := s.die k
    s.setDie k ((frameParts (n / 256 + 2) ha n).foldl
      (fun d p => useFrame d d.l2quota (s.vi vi) vi rc p.1 p.2 (frameWords p.1 p.2) hint host use) d)

/-- R129: the state after one request for some words of the frame at home address `frame * 256`. -/
def requestWords (s : State) (vi rc frame : Nat) (named : List Nat) (hint : Nat) : State :=
  let k := haDieKey (frame * 256)
  let d := s.die k
  s.setDie k (useFrame d d.l2quota (s.vi vi) vi rc (frame * 256) 256 named hint false .read)

end Sys2Proof.Machine
end

