-- ==== Sys2Proof/Machine/Operands.lean ====
section
/-! DEFINITION. Every operand form: operand B (spec/11_encoding.md R180 to R182, R189, spec/15_vector.md R233) and the modifier fields
(R184, R185, R221, R234). -/

namespace Sys2Proof

/-- The binary32 pattern of an F20 (R181) or of a literal (R182); none for a register or a constant-bank entry. -/
def OperandB.f32Pattern : OperandB → Option Nat
  | .imm x => some (x.toNat / 32 * 2 ^ 12)
  | .lit x => some x.toNat
  | .limm x => some x.toNat
  | .reg _ _ => none
  | .kbank _ => none

namespace Ops
/-- The numbers of the fields. -/
def D (o : Ops) : Nat := o.d.toNat
def A (o : Ops) : Nat := o.a.toNat
def C (o : Ops) : Nat := o.c.toNat
def T (o : Ops) : Nat := o.t.toNat
def M (o : Ops) : Nat := o.m.toNat
def B (o : Ops) : Nat := o.b.regNo
/-- The memory modifier field (R184), with the defaults of R185 where the word carries none. -/
def scope (o : Ops) : Nat := if o.b.isReg then bitsOf o.b.i19.toNat 12 10 else 5
def order (o : Ops) : Nat := bitsOf o.b.i19.toNat 9 8
def hint (o : Ops) : Nat := bitsOf o.b.i19.toNat 7 5
def nb (o : Ops) : Bool := bitsOf o.b.i19.toNat 4 4 == 1
def ccNo (o : Ops) : Nat := bitsOf o.b.i19.toNat 3 0
def orderedFlag (o : Ops) : Bool := bitsOf o.b.i19.toNat 13 13 == 1
def acquires (o : Ops) : Bool := o.order % 2 == 1
def releases (o : Ops) : Bool := o.order / 2 == 1
/-- The rounding code of a scalar conversion (R221). -/
def rmScalar (o : Ops) : Nat := bitsOf o.b.i19.toNat 2 0
/-- The vector modifier field (R234). -/
def rmVector (o : Ops) : Nat := bitsOf o.b.i19.toNat 4 2
def q (o : Ops) : Bool := bitsOf o.b.i19.toNat 1 1 == 1
def bs (o : Ops) : Bool := bitsOf o.b.i19.toNat 0 0 == 1
/-- Operand B is a v register (R233). -/
def bIsVector (o : Ops) : Bool := o.b.isReg && !o.bs
end Ops

/-- The row accepts an order field (R185). -/
def BForm.carriesOrder : BForm → Bool
  | .all _ (.mem _ k _ _ _) => k != .relaxed
  | .reg _ (.mem _ k _ _ _) => k != .relaxed
  | .noReg (.mem _ k _ _ _) => k != .relaxed
  | .pref (.mem _ k _ _ _) => k != .relaxed
  | .all _ _ => false
  | .reg _ _ => false
  | .noReg _ => false
  | .pref _ => false
  | .none => false
  | .lit => false
  | .const => false
  | .imm => false
  | .conv => false
  | .vec _ => false
  | .scalar _ _ => false
  | .noVec _ _ => false
  | .vecOnly _ => false

/-- The immediate of TRAP, BREAK, GATE, BARRIER and of the system register number. -/
def Ops.bImm (o : Ops) : Nat := o.b.bits

end Sys2Proof

namespace Sys2Proof.Machine

/-- Operand B as a 64-bit value (R180, R182): a register, a constant-bank entry, or an immediate sign-extended. -/
def operandWord (g k : Nat → Word) (b : OperandB) : Word :=
  match b with
  | .reg r _ => g r.toNat
  | .imm x => x.signExtend 64
  | .kbank i => k i.toNat
  | .lit x => x.signExtend 64
  | .limm x => x.signExtend 64

/-- A floating operand B of type `t`: its pattern at the type's width, and the abandoned-result pattern it is, if any
(R105, R181, R182). Under `.l8` nothing is an ABN. -/
def operandFp (g k : Nat → Word) (t : Nat) (b : OperandB) : Nat × Option Nat :=
  match b.f32Pattern with
  | some p => (f32As t p, if t != 12 && isAbn p then some p else none)
  | none =>
    let x := low (typeWidth t) (operandWord g k b).toNat
    (x, if t == 10 && isAbn x then some x else none)

/-- Operand B of a scalar instruction. -/
def State.opB (s : State) (b : OperandB) : Word := operandWord s.cpu.readG s.cpu.readK b

/-- Operand B of a queued instruction, as captured (R57). -/
def State.srcB (s : State) (b : OperandB) : Word := operandWord s.srcG s.srcK b


/-- The extent hint in words: 0 for none (R184). -/
def hintWords (h : Nat) : Nat :=
  match h with
  | 1 => 1
  | 2 => 4
  | 3 => 8
  | 4 => 16
  | 5 => 32
  | _ => 0

/-- The extension of a loaded or returned value into a g register (R216, R217, R254). -/
def extendG (t x : Nat) : Word := BitVec.ofNat 64 (extendTo 64 t x)

/-- The extension of a result into an element slot of `ew` bits (R231). -/
def extendV (ew t x : Nat) : Nat := extendTo ew t x

/-! What a scalar instruction reads and writes among the g registers (R57, R58, R391). -/

/-- The g registers that a word reads: its gSrc and gBoth fields, its register B, and the odd registers of CAS2, TMAC and VDOTV. GATE and
GRET read sp (R228, R229). -/
def gReads (i : Instr) : List Nat :=
  match i.form, i.ops? with
  | some f, some o =>
    let fld := fun (k : Field) (n : Nat) => match k with
      | .gSrc => [n]
      | .gBoth => [n]
      | .zero => []
      | .gDest => []
      | .v => []
      | .m => []
      | .polarity => []
      | .code _ => []
      | .exactly _ => []
    let bRead := match f.b with
      | .all _ _ => if o.b.isReg then [o.B] else []
      | .reg .g _ => [o.B]
      | .reg .v _ => []
      | .reg .m _ => []
      | .vec _ => if o.b.isReg && o.bs then [o.B] else []
      | .scalar _ _ => if o.b.isReg && o.bs then [o.B] else []
      | .pref _ => if o.b.isReg && o.c != 2 then [o.B] else []
      | .none => []
      | .lit => []
      | .const => []
      | .imm => []
      | .conv => []
      | .noReg _ => []
      | .noVec _ _ => []
      | .vecOnly _ => []
    let odd := if f.op = 0x088 then [o.B + 1, o.C + 1] else if f.op = 0x1A2 ∨ f.op = 0x1A8 then [o.B + 1] else []
    let sp := if f.op = 0x06A ∨ f.op = 0x06B then [62] else []
    fld f.d o.D ++ fld f.a o.A ++ fld f.c o.C ++ bRead ++ odd ++ sp
  | _, _ =>
    match i with
    | .pFormPair a b => (if a.op.isVector then [] else a.reads) ++ (if b.op.isVector then [] else b.reads)
    | _ => []

/-- The g registers that a word writes. -/
def gWrites (i : Instr) : List Nat :=
  match i.form, i.ops? with
  | some f, some o =>
    match f.d with
    | .gDest => if f.op = 0x088 then [o.D, o.D + 1] else [o.D]
    | .gBoth => [o.D]
    | .zero => if f.op = 0x067 ∨ f.op = 0x068 then [63] else if f.op = 0x06A ∨ f.op = 0x06B then [62] else []
    | .gSrc => []
    | .v => []
    | .m => []
    | .polarity => []
    | .code _ => []
    | .exactly _ => []
  | _, _ =>
    match i with
    | .pFormPair a b => (if a.op.isVector then [] else [a.d.toNat]) ++ (if b.op.isVector then [] else [b.d.toNat])
    | _ => []

/-- The constant-bank entries that a word reads. -/
def kReads (i : Instr) : List Nat :=
  match i.ops? with
  | some o => (match o.b with
    | .kbank n => [n.toNat]
    | .reg _ _ => []
    | .imm _ => []
    | .lit _ => []
    | .limm _ => [])
  | none => []

/-- The captured operands of a queued instruction (R57). -/
def captures (t : Strand) (i : Instr) : Cells Word :=
  (kReads i).foldl (fun c n => cellPut c (64 + n) (t.readK n))
    ((gReads i).foldl (fun c n => cellPut c n (t.readG n)) [])

/-- Whether an instruction enters the vector queue (R57, R253): by its row, and for ST, STX and AMO when NB = 1; a pair with a vector slot
does (R193). -/
def isQueued (i : Instr) : Bool :=
  match i.form, i.ops? with
  | some f, some o => f.queued || ((f.op = 0x081 || f.op = 0x083 || f.op = 0x086) && o.nb)
  | _, _ =>
    match i with
    | .pFormPair a b => a.op.isVector || b.op.isVector
    | _ => false

/-! Checks at the head of the vector queue. -/

/-- R50, R232: the first v register field at or beyond NV, in the order D, A, B, C. -/
def badVreg (t : Strand) (i : Instr) : Option Nat :=
  match i.form, i.ops? with
  | some f, some o =>
    let fld := fun (k : Field) (n : Nat) => match k with
      | .v => [n]
      | .zero => []
      | .gSrc => []
      | .gBoth => []
      | .gDest => []
      | .m => []
      | .polarity => []
      | .code _ => []
      | .exactly _ => []
    let bReg := match f.b with
      | .reg .v _ => [o.B]
      | .reg .g _ => []
      | .reg .m _ => []
      | .vec _ => if o.bIsVector then [o.B] else []
      | .vecOnly _ => [o.B]
      | .pref _ => if o.c == 2 then [o.B] else []
      | .all _ _ => []
      | .scalar _ _ => []
      | .none => []
      | .lit => []
      | .const => []
      | .imm => []
      | .conv => []
      | .noReg _ => []
      | .noVec _ _ => []
    (fld f.d o.D ++ fld f.a o.A ++ bReg ++ fld f.c o.C).find? (fun n => decide (t.nv ≤ n))
  | _, _ =>
    match i with
    | .pFormPair a b =>
      ((if a.op.isVector then a.reads else []) ++ (if b.op.isVector then b.reads else [])).find? (fun n => decide (t.nv ≤ n))
    | _ => none

end Sys2Proof.Machine
end

