-- ==== Sys2Proof/Machine/Translate.lean ====
section
/-! DEFINITION. From a virtual address to the place of its bytes: the four spaces (spec/01_device.md R26 to R32), the node map (R109), page
walks and TLBs (spec/07_memory.md R112 to R116), spilled pages (R122), windows (R136). -/

namespace Sys2Proof.Machine

/-- The kinds of an access (R10). -/
inductive AccKind where
  | read | write | execute | atomic
deriving DecidableEq, Repr

/-- What a memory operation answers: a result, a fault with its cause and TVAL, or a stall in which nothing has happened yet. -/
inductive Acc (α : Type) where
  | ok (a : α) (s : State)
  | fault (cause : Nat) (tval : Word) (s : State)
  | wait (s : State)
deriving Repr

/-- Continue a memory operation that has answered. -/
def Acc.andThen {α β : Type} (x : Acc α) (f : α → State → Acc β) : Acc β :=
  match x with
  | .ok a s => f a s
  | .fault c t s => .fault c t s
  | .wait s => .wait s

/-- Who makes an access: the VI, the place, the level, and the TLB used, if any. -/
structure Who where
  vi    : Nat
  pkg   : Nat
  die   : Nat
  core  : Nat
  level : Level
  tlb   : Option TlbKind
  /-- The device's own accesses and the host's stall on a spilled page whatever MEMPOL.sptrap holds (R122, R395). -/
  device : Bool := false
  /-- The task whose strand makes the access, for its prefetch buffer (R268). -/
  tid    : Nat := 0
  /-- The extent hint that an access's L2 requests carry, in words; 0 for none (R130). -/
  hint   : Nat := 0
  /-- The access is the host's: words that it allocates have source 3 (R126). -/
  host   : Bool := false
deriving DecidableEq, Repr

/-- The current strand as the source of an access through one of its TLBs. -/
def State.who (s : State) (k : TlbKind) : Who :=
  { vi := s.cpu.vi, pkg := s.cpu.pkg, die := s.cpu.die, core := s.cpu.core, level := s.cpu.level, tlb := some k,
    tid := s.cpu.tid }

/-- The device's own access for a VI, at level S (R395). -/
def deviceWho (pkg vi : Nat) : Who := { vi := vi, pkg := pkg, die := 0, core := 0, level := .s, tlb := none, device := true }

/-! The node map (R109). -/

/-- The physical package of virtual package `v`; none where R109 faults NODE. In reduced service, an entry that names another package
reads as not valid (R386). -/
def nodeOf (s : State) (pkg vi v : Nat) : Option Nat :=
  let c := s.vi vi
  if v < low 23 c.nodecnt.toNat then
    let e := memWord s.mem (haPhys pkg (c.nodemap.toNat + 8 * v))
    if bitsOf e 63 63 = 1 ∧ bitsOf e 62 22 = 0 then
      let p := low 22 e
      if (s.pkg pkg).stage = 3 ∧ p ≠ pkg then none else some p
    else none
  else none

/-! Page walks (R112, R113). -/

/-- The leaf of a page table entry, or none where a reserved or zero field is not zero. -/
def leafOf (e : Nat) (big : Bool) : Option Leaf :=
  if bitsOf e 55 48 ≠ 0 ∨ bitsOf e 15 12 ≠ 0 then none
  else if bitsOf e 11 11 = 0 ∧ bitsOf e 47 33 ≠ 0 then none
  else if big ∧ bitsOf e 24 16 ≠ 0 then none
  else some
    { frame := bitsOf e 47 16, gen := BitVec.ofNat 8 (bitsOf e 63 56), big := big, uo := bitsOf e 10 10 == 1, wc := bitsOf e 9 9 == 1,
      hs := bitsOf e 8 8 == 1, rc := bitsOf e 7 6, x := bitsOf e 4 4 == 1, w := bitsOf e 3 3 == 1, r := bitsOf e 2 2 == 1,
      so := bitsOf e 1 1 == 1, sp := bitsOf e 11 11 == 1 }

/-- The home address of the entry that maps channel offset `a`, with its leaf; none where R113 faults PAGE_NP. -/
def walk (s : State) (pkg die chan vi a : Nat) : Option (Nat × Leaf) :=
  let root := low 33 (cellGet 0 (s.chan (chanKey pkg die chan)).roots vi)
  let at1 := haOf pkg die chan (low 33 (root + 8 * bitsOf a 32 25))
  let e1 := memWord s.mem at1
  if bitsOf e1 0 0 = 0 then none
  else if bitsOf e1 5 5 = 1 then (leafOf e1 true).map (fun l => (at1, l))
  else if bitsOf e1 63 33 ≠ 0 ∨ bitsOf e1 11 1 ≠ 0 then none
  else
    let at2 := haOf pkg die chan (low 33 (bitsOf e1 32 12 * 2 ^ 12 + 8 * bitsOf a 24 16))
    let e2 := memWord s.mem at2
    if bitsOf e2 0 0 = 0 ∨ bitsOf e2 5 5 = 1 then none else (leafOf e2 false).map (fun l => (at2, l))

/-- The home addresses of the entries that the walk of channel offset `a` reads. -/
def walkReads (s : State) (pkg die chan vi a : Nat) : List Nat :=
  let root := low 33 (cellGet 0 (s.chan (chanKey pkg die chan)).roots vi)
  let at1 := haOf pkg die chan (low 33 (root + 8 * bitsOf a 32 25))
  let e1 := memWord s.mem at1
  if bitsOf e1 0 0 = 0 ∨ bitsOf e1 5 5 = 1 ∨ bitsOf e1 63 33 ≠ 0 ∨ bitsOf e1 11 1 ≠ 0 then [at1]
  else [at1, haOf pkg die chan (low 33 (bitsOf e1 32 12 * 2 ^ 12 + 8 * bitsOf a 24 16))]

/-- R113, R145: a walk reads its entries through the home slice. -/
def noteWalk (s : State) (pkg die chan vi a : Nat) : State :=
  (walkReads s pkg die chan vi a).foldl (fun st x => useHome st vi 0 x 8 0 .read) s

/-- R113: the leaf permits the access at the level. -/
def leafPermits (l : Leaf) (k : AccKind) (lvl : Level) : Bool :=
  (match k with
    | .read => l.r
    | .write => l.w
    | .execute => l.x
    | .atomic => l.r && l.w) && (!l.so || lvl != .u)

/-! TLBs (R114). -/

def tlbCapacity : TlbKind → Bool → Nat
  | .scalar, _ => 128
  | .fetch, _ => 64
  | .vector, big => if big then 512 else 4096
  | .matrix, _ => 256

/-- The entry covers the page. -/
def tlbMatches (e : TlbEntry) (k : TlbKind) (vi page : Nat) : Bool :=
  e.kind = k && e.vi = vi && (if e.leaf.big then e.page / 512 = page / 512 else e.page = page)

/-- Keep the last `n` entries of one kind and size. -/
def tlbTrim (k : TlbKind) (big : Bool) (n : Nat) (l : List TlbEntry) : List TlbEntry :=
  let same := l.filter (fun e => e.kind = k && (k != .vector || e.leaf.big = big))
  if same.length ≤ n then l
  else match same with
    | [] => l
    | old :: _ => l.erase old

/-- The entry index of R115: the generation table's entry of a virtual page, named by its channel's key. -/
def tagOf (pkg die chan a : Nat) (big : Bool) : Nat :=
  chanKey pkg die chan * 131072 + (if big then bitsOf a 32 25 * 512 else bitsOf a 32 16)

/-- The generation of an entry (R115). -/
def genOf (s : State) (tag : Nat) : BitVec 8 := cellGet 0 (s.chan (tag / 131072)).gens (tag % 131072)

/-- The place of PG bytes under a leaf. -/
def pgPlace (pkg die chan a : Nat) (l : Leaf) (va : Word) (gen : BitVec 8) : Place :=
  let off := if l.big then (l.frame / 512) % 256 * 2 ^ 25 + low 25 a else low 17 l.frame * 65536 + low 16 a
  { kind := .pg, ha := haOf pkg die chan off, va := va, tag := tagOf pkg die chan a l.big, gen := gen, hs := l.hs, wc := l.wc, rc := l.rc }

/-- Remember a translation in the strand's TLB. A walk that faults leaves no entry. Replacement is first in, first out (log entry 5). -/
def tlbFill (s : State) (w : Who) (page pkg : Nat) (l : Leaf) (gen : BitVec 8) : State :=
  match w.tlb with
  | none => s
  | some k =>
    let ck := coreKey w.pkg w.die w.core
    let c := s.core ck
    let rest := c.tlbs.filter (fun e => !tlbMatches e k w.vi page)
    s.setCore ck { c with tlbs := tlbTrim k l.big (tlbCapacity k l.big)
                            (rest ++ [{ kind := k, vi := w.vi, page := page, pkg := pkg, leaf := { l with gen := gen }, since := s.time }]) }

/-- The cached translation of a page that was filled less than 1 ms ago (R114) and still carries the home's generation. A stale one is dropped
(R115). -/
def tlbLookup (s : State) (w : Who) (va : Word) : Option TlbEntry :=
  match w.tlb with
  | none => none
  | some k =>
    let page := va.toNat / 65536
    match (s.core (coreKey w.pkg w.die w.core)).tlbs.find? (fun e => tlbMatches e k w.vi page) with
    | none => none
    | some e =>
      let a := low 33 va.toNat
      if s.time < e.since + 1000000 ∧ genOf s (tagOf e.pkg (bitsOf va.toNat 39 37) (bitsOf va.toNat 36 33) a e.leaf.big) = e.leaf.gen then some e
      else none

/-! Victims of a page-in (R124). -/

/-- What the home agent remembers of a VI's page `j` of a channel. -/
def pageHist (s : State) (ck vi j : Nat) : PageHist := cellGet {} (s.chan ck).pages (vi * 131072 + j)

/-- The 64 KiB pages of a VI that a channel holds: page number and leaf. -/
def residentPages (s : State) (pkg die chan vi : Nat) : List (Nat × Leaf) :=
  (List.range 131072).filterMap (fun j =>
    match walk s pkg die chan vi (j * 65536) with
    | some (_, l) => if l.sp || l.big then none else some (j, l)
    | none => none)

/-- R124: since when a page is settled at time `now`: for 256 ms. -/
def settledSince (now : Nat) (h : PageHist) : Option Nat := h.settledAt.filter (fun t => decide (now < t + 256000000))

/-- R124: the group of a page among victims, and its age within the group. -/
def victimRank (now : Nat) (l : Leaf) (h : PageHist) : Nat × Nat :=
  match settledSince now h with
  | some t => (3, t)
  | none => (if l.uo then 0 else if h.gathered then 2 else 1, h.used)

/-- One page goes before another as a victim. -/
def victimBefore (x y : Nat × Nat) : Bool := decide (x.1 < y.1) || (x.1 == y.1 && decide (x.2 < y.2))

/-- R124: the victim among the resident pages; a page with RC = 3 is none. -/
def victimOf (s : State) (ck vi : Nat) (l : List (Nat × Leaf)) : Option (Nat × Leaf) :=
  match l.filter (fun x => x.2.rc != 3) with
  | [] => none
  | x :: rest => some (rest.foldl (fun best y =>
      if victimBefore (victimRank s.time y.2 (pageHist s ck vi y.1)) (victimRank s.time best.2 (pageHist s ck vi best.1)) then y else best) x)

/-- R124: the VI holds as many pages of the channel as its quota allows; 0 is no limit. -/
def quotaUsed (s : State) (vi resident : Nat) : Bool :=
  let quota := bitsOf (s.vi vi).mempol.toNat 47 16
  quota != 0 && decide (quota ≤ resident)

/-- R124: a page-in for the VI must spill a page first: its quota is used up, or the channel has no free frame (log entry 10). -/
def needsVictim (s : State) (ck vi resident : Nat) : Bool := quotaUsed s vi resident || (s.chan ck).freeFrames.isEmpty

/-- R112, R113: the first frame of an aligned run of 512 free frames, for a 32 MiB page. -/
def freeRun (free : List Nat) : Option Nat := free.find? (fun f => f % 512 == 0 && (List.range 512).all (fun i => free.contains (f + i)))

/-- R124: a page-in finds no frame. A 32 MiB page needs an aligned run of free frames, and no spill makes one (DESIGN CHOICE, log entry 10). -/
def noFrame (s : State) (pkg die chan vi : Nat) (big : Bool) : Bool :=
  let l := residentPages s pkg die chan vi
  let ck := chanKey pkg die chan
  let must := if big then quotaUsed s vi l.length else needsVictim s ck vi l.length
  (must && (victimOf s ck vi l).isNone) || (big && (freeRun (s.chan ck).freeFrames).isNone)

/-- R113, R122: what a leaf answers to an access. -/
def useLeaf (s : State) (w : Who) (l : Leaf) (k : AccKind) (pkg : Nat) (va : Word) (gen : BitVec 8) : Acc Place :=
  let n := va.toNat
  if !leafPermits l k w.level then .fault causePageProt va s
  else if l.sp then
    if !w.device && (s.vi w.vi).mempol.toNat % 2 = 1 then .fault causePageNp va s
    else if noFrame s pkg (bitsOf n 39 37) (bitsOf n 36 33) w.vi l.big then .fault causePageNp (va ||| (1 <<< 63)) s
    else if s.pageIns.contains (w.vi, va) then .wait s
    else .wait { s with pageIns := s.pageIns ++ [(w.vi, va)] }
  else .ok (pgPlace pkg (bitsOf n 39 37) (bitsOf n 36 33) (low 33 n) l va gen) s

/-- R124: the home agent notes when a VI's page was last used. -/
def notePage (s : State) (vi tag : Nat) : State :=
  let c := s.chan (tag / 131072)
  let key := vi * 131072 + tag % 131072
  s.setChan (tag / 131072) { c with pages := cellPut c.pages key { cellGet {} c.pages key with used := s.time } }

/-- R368, R386, R389: a package that packets of others do not reach: its packets are lost, a trip has halted it, or it is in reduced service, whose Chorus is
package-internal only. -/
def silent (s : State) (p : Nat) : Bool := (s.pkg p).unreachable || (s.pkg p).stage == 3 || (s.pkg p).stage == 15

/-- R109, R113 to R115: the translation of a PG address. -/
def placePg (s : State) (w : Who) (va : Word) (k : AccKind) : Acc Place :=
  match tlbLookup s w va with
  | some e =>
    match useLeaf s w e.leaf k e.pkg va e.leaf.gen with
    | .ok x s1 => .ok x (notePage s1 w.vi x.tag)
    | .fault c t s1 => .fault c t s1
    | .wait s1 => .wait s1
  | none =>
    let n := va.toNat
    match nodeOf s w.pkg w.vi (bitsOf n 61 40) with
    | none => .fault causeNode va s
    | some p =>
      if p ≠ w.pkg ∧ silent s p then .fault causeTimeout va s
      else
        let s0 := noteWalk s p (bitsOf n 39 37) (bitsOf n 36 33) w.vi (low 33 n)
        match walk s p (bitsOf n 39 37) (bitsOf n 36 33) w.vi (low 33 n) with
        | none => .fault causePageNp va s0
        | some (_, l) =>
          let gen := genOf s (tagOf p (bitsOf n 39 37) (bitsOf n 36 33) (low 33 n) l.big)
          match useLeaf s0 w l k p va gen with
          | .ok x s1 => .ok x (notePage (tlbFill s1 w (n / 65536) p l gen) w.vi x.tag)
          | .fault c t s1 => .fault c t s1
          | .wait s1 => .wait s1

/-- R136: a window table entry: target, length and its two marks. -/
def windowEntry (s : State) (w : Who) (index : Nat) : Nat × Nat × Bool × Bool :=
  let at_ := haPhys w.pkg ((s.vi w.vi).wintab.toNat / 4096 * 4096 + 32 * index)
  (memWord s.mem at_, memWord s.mem (at_ + 8), bitsOf (memWord s.mem (at_ + 16)) 0 0 == 1, bitsOf (memWord s.mem (at_ + 16)) 1 1 == 1)

/-- R28, R136: the place that a window read reads. While a window is revoking its reads are not cached (R325); a host-shared page is held at its home
alone (R142). Bit 63 of TVAL, where no frame can be had (R124), stays. -/
def placeWindow (s : State) (w : Who) (va : Word) (k : AccKind) : Acc Place :=
  let n := va.toNat
  if k = .write ∨ k = .atomic then .fault causeWindowWrite va s
  else
    let index := bitsOf n 61 44
    if 2 ^ ((s.vi w.vi).wintab.toNat % 32) ≤ index then .fault causePageNp va s
    else
      let (target, length, isOpen, revoking) := windowEntry s w index
      if !isOpen || length ≤ low 44 n then .fault causePageNp va s
      else
        match placePg s { w with tlb := none } (BitVec.ofNat 64 (target + low 44 n)) k with
        | .ok p s1 => .ok { p with va := va, viaWindow := true, window := if p.wc && !p.hs && !revoking then some index else none } s1
        | .fault c t s1 => .fault c (va ||| (if c = causePageNp then t &&& (1 <<< 63) else 0)) s1
        | .wait s1 => .wait s1

/-- R30: the bytes of one register of a strand. -/
def regBytes (t : Strand) : Nat := t.mvl * t.ew / 8

/-- R31: the regions of a VI hold `n` bytes from `off` on. The first argument bounds the number of regions that the bytes touch. -/
def regionsHold (l : List Region) : Nat → Nat → Nat → Bool
  | 0, _, n => n == 0
  | fuel + 1, off, n =>
    n == 0 ||
      (match l.find? (fun r => decide (r.off ≤ off) && decide (off < r.off + r.bytes)) with
       | none => false
       | some r => let m := min n (r.off + r.bytes - off); regionsHold l fuel (off + m) (n - m))

/-- R29 to R32: the place of `n` on-chip bytes. R32 does not say where the SPACE of a fetch stands, nor that of an atomic to registers or tiles: the
first is raised before every other check, the second behind the NODE checks and before those of R30 (DESIGN CHOICE, log entry 66). -/
def placeOnChip (s : State) (w : Who) (va : Word) (n : Nat) (k : AccKind) : Acc Place :=
  let x := va.toNat
  let kind := bitsOf x 23 22
  let off := low 22 x
  if bitsOf x 61 56 ≠ 0 ∨ kind = 3 ∨ (kind = 0 ∧ 0x80000 < off + n) ∨ k = .execute then .fault causeSpace va s
  else
    match nodeOf s w.pkg w.vi (bitsOf x 55 34) with
    | none => .fault causeNode va s
    | some p =>
      let die := bitsOf x 33 31
      let core := bitsOf x 30 24
      if 80 ≤ core then .fault causeNode va s
      else if p ≠ w.pkg ∧ silent s p then .fault causeTimeout va s
      else
        let c := s.core (coreKey p die core)
        if !(s.strands.any (fun t => t.tid ≠ 0 && t.vi = w.vi && t.pkg = p && t.die = die && t.core = core)) then
          .fault causeNode va s
        else if kind = 0 then
          if regionsHold (c.regions.filter (fun r => r.vi = w.vi)) (c.regions.length + 1) off n then
            .ok { kind := .scratch, ha := haScratch p die core off, va := va } s
          else .fault causeNode va s
        else
          match s.strandAt p die core (bitsOf off 21 20) with
          | none => .fault causeNode va s
          | some t =>
            if t.vi ≠ w.vi then .fault causeNode va s
            else if k = .atomic then .fault causeSpace va s
            else if kind = 1 then
              if t.nv * regBytes t < low 20 off + n then .fault causeSpace va s
              else .ok { kind := .vreg, ha := low 20 off, tid := t.tid, va := va } s
            else if bitsOf off 19 18 ≠ 0 ∨ !t.held.getLsbD (bitsOf off 17 16) then .fault causeSpace va s
            else .ok { kind := .tile, ha := low 18 off, tid := t.tid, va := va } s

/-- R26, R32: the place of `n` bytes at `va` that lie in one 64 KiB page. -/
def placeOf (s : State) (w : Who) (va : Word) (n : Nat) (k : AccKind) : Acc Place :=
  match bitsOf va.toNat 63 62 with
  | 0 => placePg s w va k
  | 1 => placeWindow s w va k
  | 2 => placeOnChip s w va n k
  | _ => .fault causeSpace va s

/-- `va` to `va + n - 1`, modulo 2^64, cut at 64 KiB boundaries: addresses and byte counts. The first argument bounds the number of parts. -/
def pageParts : Nat → Word → Nat → List (Word × Nat)
  | 0, _, _ => []
  | fuel + 1, va, n =>
    if n = 0 then []
    else
      let room := 65536 - va.toNat % 65536
      if n ≤ room then [(va, n)] else (va, room) :: pageParts fuel (va + BitVec.ofNat 64 room) (n - room)

/-- The parts of a byte range. -/
def partsOf (va : Word) (n : Nat) : List (Word × Nat) := pageParts (n / 65536 + 2) va n

/-- R121: the places of a range, every page translated before anything is done with any. A fault carries the lowest address of the range on the page
that faults. -/
def placesIn (w : Who) (k : AccKind) : State → List (Word × Nat) → Acc (List (Place × Nat))
  | s, [] => .ok [] s
  | s, (va, n) :: rest =>
    match placeOf s w va n k with
    | .fault c t s1 => .fault c t s1
    | .wait s1 => .wait s1
    | .ok p s1 =>
      match placesIn w k s1 rest with
      | .ok ps s2 => .ok ((p, n) :: ps) s2
      | .fault c t s2 => .fault c t s2
      | .wait s2 => .wait s2

/-- The places of the range of an engine operation (R303). -/
def rangeOf (s : State) (w : Who) (va : Word) (n : Nat) (k : AccKind) : Acc (List (Place × Nat)) := placesIn w k s (partsOf va n)

/-- R254, R263: the places of `n` bytes at `va`, one access: a fault on either page carries the access's address. Bit 63 stays where R124 sets it. -/
def placesOf (s : State) (w : Who) (va : Word) (n : Nat) (k : AccKind) : Acc (List (Place × Nat)) :=
  match rangeOf s w va n k with
  | .ok ps s1 => .ok ps s1
  | .wait s1 => .wait s1
  | .fault c t s1 => .fault c (if c = causePageNp then va ||| (t &&& (1 <<< 63)) else va) s1

end Sys2Proof.Machine
end

