-- ==== Sys2Proof/Machine/Homes.lean ====
section
/-! DEFINITION. Reading and writing bytes where they live: format regions (spec/05_numbers.md R95 to R97), poisoned words (spec/25_edges.md
R391), watches (spec/03_execution.md R61), the scalar L1 (spec/07_memory.md R125, spec/09_consistency.md R157), window copies (R137), registers
and tiles of a strand (spec/01_device.md R30), generation advances (R116, R117). -/

namespace Sys2Proof.Machine

/-! Format regions. -/

/-- The home address of a channel's offset. -/
def chanHa (ck off : Nat) : Nat := ck * 2 ^ 33 + off

/-- The enabled region whose window holds a channel offset (R95). -/
def regionAt (c : ChanSt) (off : Nat) : Option FormatReg :=
  (c.regs.map (·.2)).find? (fun r => r.en && decide (r.winbase ≤ off) && decide (off < r.winbase + 64 * r.count))

/-- R96: whether a byte range meets the packed data or the headers of an enabled region. -/
def meetsPacked (c : ChanSt) (off n : Nat) : Bool :=
  (c.regs.map (·.2)).any (fun r => r.en &&
    ((decide (r.pkbase < off + n) && decide (off < r.pkbase + 48 * r.count))
      || (decide (r.hdrbase < off + n) && decide (off < r.hdrbase + 2 * r.count))))

/-- R96: block `b` of a region decoded from its packed data and header, with its INV marker. -/
def decodeBlock (s : State) (ck : Nat) (r : FormatReg) (b : Nat) : List Byte × Bool :=
  let scale := signedOf 8 (memGet s.mem (chanHa ck (r.hdrbase + 2 * b))).toNat
  let (xs, inv) := l6DecodeBlock scale (leNat (memRead s.mem (chanHa ck (r.pkbase + 48 * b)) 48))
  (xs.map (BitVec.ofNat 8), inv)

/-- R96: the decoded sector of channel offsets `256 q` to `256 q + 255`: as held, or decoded from its four blocks. -/
def sectorOf (s : State) (ck : Nat) (r : FormatReg) (q : Nat) : Sector :=
  match (s.chan ck).sectors.lookup q with
  | some x => x
  | none =>
    let first := (q * 256 - r.winbase) / 64
    let blocks := [0, 1, 2, 3].map (fun i => decodeBlock s ck r (first + i))
    { bytes := (blocks.map (·.1)).flatten, inv := blocks.map (·.2), dirty := false }

/-- One byte at a channel offset: decoded bytes inside a window, memory elsewhere (R96). -/
def homeByte (s : State) (ck off : Nat) : Byte :=
  match regionAt (s.chan ck) off with
  | none => memGet s.mem (chanHa ck off)
  | some r => (sectorOf s ck r (off / 256)).bytes.getD (off % 256) 0

/-- `n` bytes at a home address, in one page. -/
def homeBytes (s : State) (ha n : Nat) : List Byte :=
  if haIsScratch ha || (s.chan (haChanKey ha)).regs.isEmpty then memRead s.mem ha n
  else (List.range n).map (fun i => homeByte s (haChanKey ha) (haOff ha + i))

/-- R97: whether bytes touch an INV block. -/
def homeInv (s : State) (ha n : Nat) : Bool :=
  if haIsScratch ha || (s.chan (haChanKey ha)).regs.isEmpty then false
  else (List.range n).any (fun i =>
    let off := haOff ha + i
    match regionAt (s.chan (haChanKey ha)) off with
    | none => false
    | some r => (sectorOf s (haChanKey ha) r (off / 256)).inv.getD (off % 256 / 64) false)

/-- One byte written at a channel offset; `inv` makes its block INV (R97). -/
def putHomeByte (s : State) (ck off : Nat) (b : Byte) (inv : Bool) : State :=
  match regionAt (s.chan ck) off with
  | none => { s with mem := memSet s.mem (chanHa ck off) b }
  | some r =>
    let x := sectorOf s ck r (off / 256)
    let x' : Sector := { bytes := x.bytes.set (off % 256) b,
                         inv := if inv then x.inv.set (off % 256 / 64) true else x.inv, dirty := true }
    s.setChan ck { s.chan ck with sectors := cellPut (s.chan ck).sectors (off / 256) x' }

/-- Bytes written from a channel offset up. -/
def putHomeBytes (s : State) (ck off : Nat) (inv : Bool) : List Byte → State
  | [] => s
  | b :: bs => putHomeBytes (putHomeByte s ck off b inv) ck (off + 1) inv bs

/-- R97: the block at a channel offset becomes valid. -/
def validateBlock (s : State) (ha : Nat) : State :=
  let ck := haChanKey ha
  let off := haOff ha
  match regionAt (s.chan ck) off with
  | none => s
  | some r =>
    let x := sectorOf s ck r (off / 256)
    s.setChan ck { s.chan ck with sectors := cellPut (s.chan ck).sectors (off / 256)
                                    { x with inv := x.inv.set (off % 256 / 64) false, dirty := true } }

/-- R94, R391: one block written back into the packed data and the headers; a block with a poisoned word is encoded as INV. -/
def encodeBlock (s : State) (ck : Nat) (r : FormatReg) (b : Nat) (bytes : List Byte) (inv : Bool) : State :=
  let base := (chanHa ck (r.winbase + 64 * b)) / 8
  let bad := inv || s.poison.any (fun w => decide (base ≤ w) && decide (w < base + 8))
  let (scale, bound, packed) := l6EncodeBlock bad (bytes.map (·.toNat))
  { s with mem := memWrite (memWrite s.mem (chanHa ck (r.hdrbase + 2 * b)) [BitVec.ofNat 8 scale, BitVec.ofNat 8 bound])
                    (chanHa ck (r.pkbase + 48 * b)) (leBytes 48 packed) }

/-- R96: the blocks of a sector from `i` on, written back. -/
def encodeBlocks (ck : Nat) (r : FormatReg) (first : Nat) (x : Sector) : Nat → State → State
  | 0, s => s
  | n + 1, s =>
    let i := 3 - n
    let s1 := if first + i < r.count then
        encodeBlock s ck r (first + i) ((x.bytes.drop (64 * i)).take 64) (x.inv.getD i false)
      else s
    encodeBlocks ck r first x n s1

/-- R96: write a held sector back when it is dirty; `keep` says whether it stays held, clean. -/
def writeBackSector (s : State) (ck q : Nat) (keep : Bool) : State :=
  match (s.chan ck).sectors.lookup q with
  | none => s
  | some x =>
    let s1 := if x.dirty then
        match regionAt (s.chan ck) (q * 256) with
        | none => s
        | some r => encodeBlocks ck r ((q * 256 - r.winbase) / 64) x 4 s
      else s
    let c := s1.chan ck
    s1.setChan ck { c with sectors := if keep then cellPut c.sectors q { x with dirty := false } else cellDrop c.sectors q }

/-- Write back the held sectors among some. -/
def writeBackSectors (s : State) (ck : Nat) (keep : Bool) : List Nat → State
  | [] => s
  | q :: qs => writeBackSectors (writeBackSector s ck q keep) ck keep qs

/-- The L2 or the memory-side cache of its die holds words of the frame at home address `ha`. -/
def frameHeld (s : State) (ha : Nat) : Bool :=
  let d := s.die (haDieKey ha)
  (cellGet [] d.msc (mscKey (haChan ha) (ha / 256))).any (fun x => x.frame = ha / 256)
  || (cellGet [] d.l2 (sliceOf (haOff ha) (haChan ha) * 512 + setOf (haOff ha))).any (fun b => b.frame = ha / 256)

/-- R96: the decoded sectors of a channel that neither cache holds any longer. -/
def evictedSectors (s : State) (ck : Nat) : List Nat :=
  ((s.chan ck).sectors.map (·.1)).filter (fun q => !frameHeld s (chanHa ck (256 * q)))

/-- R96: what the caches' own replacement has put out is written back to the packed data and the headers, before anything else moves. -/
def writeEvicted (s : State) : State :=
  (s.chans.map (·.1)).foldl (fun st ck => writeBackSectors st ck false (evictedSectors st ck)) s

/-- R95: the alignments and ranges that enabling a region needs. -/
def regionOk (c : ChanSt) (n : Nat) (r : FormatReg) : Bool :=
  let parts := fun (x : FormatReg) => [(x.winbase, 64 * x.count), (x.pkbase, 48 * x.count), (x.hdrbase, 2 * x.count)]
  let apart := fun (x y : Nat × Nat) => decide (x.1 + x.2 ≤ y.1) || decide (y.1 + y.2 ≤ x.1)
  let mine := parts r
  decide (1 ≤ r.count) && r.winbase % 65536 == 0 && r.pkbase % 16 == 0 && r.hdrbase % 2 == 0
  && mine.all (fun p => decide (p.1 + p.2 ≤ 2 ^ 33))
  && apart (r.winbase, 64 * r.count) (r.pkbase, 48 * r.count) && apart (r.winbase, 64 * r.count) (r.hdrbase, 2 * r.count)
  && apart (r.pkbase, 48 * r.count) (r.hdrbase, 2 * r.count)
  && c.regs.all (fun other => other.1 == n || !other.2.en || (parts other.2).all (fun q => mine.all (fun p => apart p q)))

/-! Poisoned words (R391). -/

def wordsOf (ha n : Nat) : List Nat := (List.range ((ha + n - 1) / 8 + 1 - ha / 8)).map (· + ha / 8)

/-- Some word of a range is poisoned. -/
def homePoisoned (s : State) (ha n : Nat) : Bool := s.poison.any (fun w => decide (ha / 8 ≤ w) && decide (w * 8 < ha + n))

/-! Writes. -/

/-- R61, R339: a write to a home word wakes the strands that watch it, and makes WATCH pending where WAITEV armed it in a watch table. -/
def noteStrand (ha n : Nat) (t : Strand) : Strand :=
  let hit := fun (w : Nat) => decide (ha / 8 ≤ w) && decide (w * 8 < ha + n)
  let t1 := match t.watch.filter (fun _ => t.watchSlow.isNone) with
    | some w => if hit w then { t with trapS := { t.trapS with evp := t.trapS.evp ||| 4 }, evWatch := t.watchVa } else t
    | none => t
  if t1.watched.any hit then { t1 with parked := false } else t1

/-- R61: every strand learns of a write. -/
def noteWrite (s : State) (ha n : Nat) : State := s.onStrands (noteStrand ha n)

/-- Plain bytes stored at a home address; whole words written are no longer poisoned (R391). -/
def storeBytes (s : State) (ha : Nat) (bytes : List Byte) (inv : Bool) : State :=
  let n := bytes.length
  let s1 := if haIsScratch ha || (s.chan (haChanKey ha)).regs.isEmpty then { s with mem := memWrite s.mem ha bytes }
    else putHomeBytes s (haChanKey ha) (haOff ha) inv bytes
  { s1 with poison := s1.poison.filter (fun w => !(decide (ha ≤ w * 8) && decide (w * 8 + 8 ≤ ha + n))) }

/-- R121, R391: a write as pieces of at most one 8-byte word each; a piece of fewer than 8 bytes into a poisoned word is refused. -/
def storePieces : Nat → State → Nat → List Byte → Bool → Status → State × Status
  | 0, s, _, _, _, st => (s, st)
  | fuel + 1, s, ha, bytes, inv, st =>
    match bytes with
    | [] => (s, st)
    | _ =>
      let k := min (8 - ha % 8) bytes.length
      let piece := bytes.take k
      if k < 8 ∧ homePoisoned s ha k then storePieces fuel s (ha + k) (bytes.drop k) inv .ue
      else storePieces fuel (storeBytes s ha piece inv) (ha + k) (bytes.drop k) inv st

/-- The frame that a VI's page `j` of a channel maps; none while the page is spilled or absent. -/
def frameOfPage (s : State) (ck vi j : Nat) : Option Nat :=
  match walk s (ck / 128) (ck / 16 % 8) (ck % 16) vi (j * 65536) with
  | none => none
  | some (_, l) => if l.sp then none else some (if l.big then l.frame / 512 % 256 * 512 + j % 512 else low 17 l.frame)

/-- R137: the home of a page of an open window refuses every write to the page, whatever frame holds it. -/
def frameRefused (s : State) (ha : Nat) : Bool :=
  !haIsScratch ha && (s.chan (haChanKey ha)).refuse.any
    (fun x => frameOfPage s (haChanKey ha) (x.1 / 131072) (x.1 % 131072) == some (haOff ha / 65536))

/-- R96, R137, R391: how the home of `n` bytes answers a write: it refuses one into a window's page, into packed data, and one that writes a part of a
poisoned word. -/
def homeRefusal (s : State) (ha n : Nat) : Status :=
  if n = 0 then .ok
  else if frameRefused s ha then .windowWrite
  else if !haIsScratch ha && meetsPacked (s.chan (haChanKey ha)) (haOff ha) n then .prot
  else if s.poison.any (fun w => decide (ha / 8 ≤ w) && decide (w * 8 < ha + n) && !(decide (ha ≤ w * 8) && decide (w * 8 + 8 ≤ ha + n))) then .ue
  else .ok

/-- A write accepted or refused at its home (R96, R137, R391). -/
def homeWrite (s : State) (vi rc ha : Nat) (bytes : List Byte) (inv : Bool) (hint : Nat := 0) (host : Bool := false) : State × Status :=
  let n := bytes.length
  if n = 0 then (s, .ok)
  else if frameRefused s ha then (s, .windowWrite)
  else if !haIsScratch ha && meetsPacked (s.chan (haChanKey ha)) (haOff ha) n then (s, .prot)
  else
    let (s1, st) := if homePoisoned s ha n then storePieces (n + 1) s ha bytes inv .ok else (storeBytes s ha bytes inv, .ok)
    (noteWrite (useHome s1 vi rc ha n hint .write host) ha n, st)

/-! The scalar L1 (R125). -/

/-- Drop lines of a core's L1. -/
def l1Drop (s : State) (ck : Nat) (p : Line → Bool) : State :=
  let c := s.core ck
  s.setCore ck { c with l1 := c.l1.filter (fun l => !p l) }

/-- R157: a store of the core's strands updates a resident line. -/
def l1Store (s : State) (ck ha : Nat) (bytes : List Byte) : State :=
  let c := s.core ck
  if c.l1.isEmpty then s
  else
    s.setCore ck { c with l1 := c.l1.map (fun l =>
      if ha < l.ha + 64 ∧ l.ha < ha + bytes.length then
        { l with bytes := l.bytes.mapIdx (fun i b => if ha ≤ l.ha + i then bytes.getD (l.ha + i - ha) b else b) }
      else l) }

/-- R157: the line of each word changed by an atomic or an engine write goes. -/
def l1Invalidate (s : State) (ck ha n : Nat) : State :=
  if (s.core ck).l1.isEmpty then s else l1Drop s ck (fun l => decide (ha < l.ha + 64) && decide (l.ha < ha + n))

/-- R125: whether the L1 of a core may hold the bytes of a place. -/
def l1May (w : Who) (p : Place) : Bool :=
  p.kind = .pg && !p.viaWindow && !p.hs && haDieKey p.ha = dieKey w.pkg w.die

/-- Bytes inside one 64-byte line as a scalar load reads them: from the line, or from the home with a fill (R125, R151). The L1 always fills
and replaces the oldest line (log entry 5). -/
def l1Line (s : State) (w : Who) (p : Place) (ha n hint : Nat) : Option (List Byte) × State :=
  let ck := coreKey w.pkg w.die w.core
  let c := s.core ck
  let base := ha / 64 * 64
  match c.l1.find? (fun l => l.ha = base) with
  | some l => (some ((l.bytes.drop (ha - base)).take n), s)
  | none =>
    if homePoisoned s ha n then (none, s)
    else
      let s1 := useHome s w.vi p.rc ha n hint .read
      let s2 := if homePoisoned s base 64 then s1
        else
          let l : Line := { ha := base, bytes := homeBytes s base 64, tag := p.tag }
          s1.setCore ck { c with l1 := (c.l1 ++ [l]).drop (c.l1.length + 1 - Config.l1Lines) }
      (some (homeBytes s ha n), s2)

/-! Registers and tiles of a strand (R30). -/

/-- The register, element and byte of an offset into a strand's v registers. -/
def vregAt (t : Strand) (off : Nat) : Nat × Nat × Nat :=
  let rb := regBytes t
  (off / rb, off % rb / (t.ew / 8), off % rb % (t.ew / 8))

def vregByte (t : Strand) (off : Nat) : Byte :=
  let (n, i, b) := vregAt t off
  BitVec.ofNat 8 (t.readV n i / 2 ^ (8 * b))

def putVregByte (t : Strand) (off : Nat) (x : Byte) : Strand :=
  let (n, i, b) := vregAt t off
  let old := t.readV n i
  let new := old - (old / 2 ^ (8 * b) % 256) * 2 ^ (8 * b) + x.toNat * 2 ^ (8 * b)
  { t with v := cellSet 0 t.v (Strand.elemKey n i) new }

def tileByte (t : Strand) (off : Nat) : Byte := cellGet 0 t.tiles off

/-- The poison key of a tile word (R391). -/
def tilePoisonKey (off : Nat) : Nat := 2 ^ 32 + off / 8

/-- The poison key of the word that holds a byte of a strand's registers or tiles. -/
def ownKey (t : Strand) (k : PlaceKind) (off : Nat) : Option Nat :=
  match k with
  | .vreg => (let (r, e, _) := vregAt t off; some (t.vPoisonKey r e))
  | .tile => some (tilePoisonKey off)
  | .pg => none
  | .scratch => none

/-- R391: the byte lies in a poisoned word. -/
def ownBad (t : Strand) (k : PlaceKind) (off : Nat) : Bool := (ownKey t k off).any (fun x => t.poison.contains x)

/-- R391: whether bytes of a strand's registers or tiles are poisoned. -/
def ownPoisoned (t : Strand) (k : PlaceKind) (off n : Nat) : Bool :=
  if t.poison.isEmpty then false else (List.range n).any (fun i => ownBad t k (off + i))

/-- The write of `n` bytes at `off` writes the whole word of byte `a`. -/
def coversWord (off n a : Nat) : Bool := decide (off ≤ a / 8 * 8) && decide (a / 8 * 8 + 8 ≤ off + n)

/-- R391: the write writes a part of a poisoned word of a strand's registers or tiles. -/
def ownRefused (t : Strand) (k : PlaceKind) (off n : Nat) : Bool :=
  if t.poison.isEmpty then false else (List.range n).any (fun i => ownBad t k (off + i) && !coversWord off n (off + i))

def putOwnByte (t : Strand) (k : PlaceKind) (off : Nat) (b : Byte) : Strand :=
  match k with
  | .vreg => putVregByte t off b
  | .tile => { t with tiles := cellSet 0 t.tiles off b }
  | .pg => t
  | .scratch => t

/-- Bytes put into a strand's registers or tiles as they are. -/
def fillOwn (t : Strand) (k : PlaceKind) (off : Nat) (bytes : List Byte) : Strand :=
  bytes.zipIdx.foldl (fun u x => putOwnByte u k (off + x.2) x.1) t

/-- Bytes written to a strand's registers or tiles: a part of a poisoned word is left, a poisoned word written whole is sound again (R391). -/
def putOwnBytes (t : Strand) (k : PlaceKind) (off : Nat) (bytes : List Byte) : Strand :=
  let n := bytes.length
  let u := bytes.zipIdx.foldl (fun (u : Strand) x =>
    if ownBad t k (off + x.2) && !coversWord off n (off + x.2) then u else putOwnByte u k (off + x.2) x.1) t
  let sound := (List.range n).filterMap (fun i => if coversWord off n (off + i) then ownKey t k (off + i) else none)
  { u with poison := t.poison.filter (fun x => !sound.contains x) }

/-! Reads of a place. -/

/-- What a read brings back. -/
structure Got where
  bytes  : List Byte
  inv    : Bool := false
  poison : Bool := false
deriving Repr

/-- The number of a VI's window. -/
def windowKey (vi index : Nat) : Nat := vi * 2 ^ 18 + index

/-- R126: the identity of the window frame of 256 bytes at offset `off` of a window, among the frames of an L2 set and of an MSC set. -/
def windowFrame (key off : Nat) : Nat := 2 ^ 64 + key * 2 ^ 36 + off / 256

/-- The frame is one of the window's. -/
def ofWindow (key frame : Nat) : Bool := frame / 2 ^ 36 == 2 ^ 28 + key

/-- R137, R325: a die discards what its L2 and its MSC hold of a window. -/
def dropWindow (d : DieSt) (key : Nat) : DieSt :=
  { d with winCopies := d.winCopies.filter (fun c => c.1 ≠ key),
           l2 := d.l2.map (fun x => (x.1, x.2.filter (fun b => !ofWindow key b.frame))),
           msc := d.msc.map (fun x => (x.1, x.2.filter (fun b => !ofWindow key b.frame))) }

/-- R137: the requester's die holds words `lo` to `hi` of a window frame whose home lies at `ha`: in its MSC, or in its L2. -/
def windowHolds (d : DieSt) (wf ha lo hi : Nat) : Bool :=
  (cellGet [] d.msc (mscKey (haChan ha) wf)).any (fun x => x.frame = wf)
  || (l2Lacks (cellGet [] d.l2 (sliceOf (haOff ha) (haChan ha) * 512 + setOf (haOff ha))) wf (wordsUpTo lo hi)).isEmpty

/-- R137: the requester's die after a request for some words of a window frame, and the frame's bytes as it then holds them: from what it held or from the
home, with a fill of source 2. The home at `ha` chooses slice, set and stack (log entry 66). -/
def windowRequest (s : State) (w : Who) (rc key off ha : Nat) (named : List Nat) (hint : Nat) : List Byte × State :=
  let dk := dieKey w.pkg w.die
  let d := s.die dk
  let v := s.vi w.vi
  let wf := windowFrame key off
  let home := homeBytes s (ha / 256 * 256) 256
  let old := match d.winCopies.find? (fun c => c.1 = key && c.2.1 = off / 256) with
    | some (_, _, b) => b
    | none => home
  let frame := (List.range 256).map (fun i => (if windowHolds d wf ha (i / 8) (i / 8) then old else home).getD i 0)
  let k2 := sliceOf (haOff ha) (haChan ha) * 512 + setOf (haOff ha)
  let set := cellGet [] d.l2 k2
  let set' := l2Read d.l2quota (low 2 v.l2class.toNat) 2 wf named hint set
  let m := mscWriteBacks set set' d.msc
  let mk := mscKey (haChan ha) wf
  let m' := if (l2Lacks set wf named).isEmpty then m else cellSet [] m mk (mscAccess w.vi rc (low 16 v.mscways.toNat) wf (cellGet [] m mk))
  (frame,
   s.setDie dk { d with l2 := cellSet [] d.l2 k2 set', msc := m',
                        winCopies := d.winCopies.filter (fun c => !(c.1 = key && c.2.1 = off / 256)) ++ [(key, off / 256, frame)] })

/-- R137: `n` bytes of one window frame. -/
def windowPart (s : State) (w : Who) (rc key off ha n hint : Nat) : List Byte × State :=
  let (frame, s1) := windowRequest s w rc key off ha (frameWords ha n) hint
  ((frame.drop (ha % 256)).take n, s1)

/-- R137: the 256-byte parts of a window read: home addresses and byte counts, with `off` the offset of the first in the window. -/
def windowRead (s : State) (w : Who) (rc key hint : Nat) (off : Nat) : List (Nat × Nat) → List Byte × State
  | [] => ([], s)
  | (ha, n) :: rest =>
    let (bytes, s1) := windowPart s w rc key off ha n hint
    let (more, s2) := windowRead s1 w rc key hint (off + n) rest
    (bytes ++ more, s2)

/-- The bytes at a place, read at its home. `hint` is the extent hint in words. -/
def readPlace (s : State) (w : Who) (hint : Nat) (p : Place) (n : Nat) : Got × State :=
  match p.kind with
  | .scratch => ({ bytes := memRead s.mem p.ha n, poison := homePoisoned s p.ha n }, s)
  | .pg =>
    if homePoisoned s p.ha n then ({ bytes := homeBytes s p.ha n, poison := true }, s)
    else
      match p.window with
      | some index =>
        let (b, s1) := windowRead s w p.rc (windowKey w.vi index) hint (low 44 p.va.toNat) (frameParts (n / 256 + 2) p.ha n)
        ({ bytes := b, inv := homeInv s p.ha n }, s1)
      | none => ({ bytes := homeBytes s p.ha n, inv := homeInv s p.ha n }, useHome s w.vi p.rc p.ha n hint .read)
  | .vreg =>
    match s.task? p.tid with
    | none => ({ bytes := [] }, s)
    | some t => ({ bytes := (List.range n).map (fun i => vregByte t (p.ha + i)), poison := ownPoisoned t .vreg p.ha n }, s)
  | .tile =>
    match s.task? p.tid with
    | none => ({ bytes := [] }, s)
    | some t => ({ bytes := (List.range n).map (fun i => tileByte t (p.ha + i)), poison := ownPoisoned t .tile p.ha n }, s)

/-- R129, R263: the parts of some places by frame: the place, its first byte in the frame, and the bytes. -/
def framesOf (ps : List (Place × Nat)) : List (Place × Nat × Nat) :=
  ps.flatMap (fun x => if x.1.kind = .pg then (frameParts (x.2 / 256 + 2) x.1.ha x.2).map (fun y => (x.1, y)) else [])

/-- R129, R263: an access that names several words of one frame makes one request for them. -/
def requestFrames (s : State) (w : Who) (hint : Nat) (ps : List (Place × Nat)) : State :=
  let parts := framesOf ps
  ((parts.map (fun x => (x.2.1 / 256, x.1.window))).eraseDups).foldl (fun st key =>
    match parts.filter (fun x => decide ((x.2.1 / 256, x.1.window) = key)) with
    | [] => st
    | [_] => st
    | x :: rest =>
      let named := ((x :: rest).flatMap (fun y => frameWords y.2.1 y.2.2)).eraseDups
      match x.1.window with
      | none => requestWords st w.vi x.1.rc key.1 named hint
      | some index => (windowRequest st w x.1.rc (windowKey w.vi index) (low 44 x.1.va.toNat + (x.2.1 - x.1.ha)) x.2.1 named hint).2) s

/-- A word of a place is poisoned: at its home, or in the strand that holds it. -/
def wordPoisoned (s : State) (p : Place) (w : Nat) : Bool :=
  match p.kind with
  | .pg => s.poison.contains w
  | .scratch => s.poison.contains w
  | .vreg => (s.task? p.tid).any (fun t => ownPoisoned t .vreg (8 * w) 8)
  | .tile => (s.task? p.tid).any (fun t => ownPoisoned t .tile (8 * w) 8)

/-- Some of the `n` bytes at a place lie in a poisoned word. -/
def placePoisoned (s : State) (p : Place) (n : Nat) : Bool := (wordsOf p.ha n).any (wordPoisoned s p)

/-- R200: TVAL of UE_DATA: the address of the first poisoned word among `n` bytes at a place. -/
def poisonVa (s : State) (p : Place) (n : Nat) : Word :=
  match (wordsOf p.ha n).find? (wordPoisoned s p) with
  | some w => p.va + BitVec.ofInt 64 ((8 * w : Int) - p.ha)
  | none => p.va &&& ~~~7

/-- R166, R200: TVAL of a failed blocking access at `va`. -/
def failTval (s : State) (st : Status) (p : Place) (n : Nat) (va : Word) : Word := if st = .ue then poisonVa s p n else va

/-- R137: every frame of a window read is held at the requester's die. -/
def windowHeld (s : State) (w : Who) (p : Place) (n : Nat) : Bool :=
  match p.window with
  | none => false
  | some index => (frameParts (n / 256 + 2) p.ha n).all (fun x =>
      windowHolds (s.die (dieKey w.pkg w.die)) (windowFrame (windowKey w.vi index) (low 44 p.va.toNat + (x.1 - p.ha))) x.1 (wordInFrame x.1)
        (wordInFrame (x.1 + x.2 - 1)))

/-- R368: the home of a place lies on another package that does not answer. -/
def cutOff (s : State) (w : Who) (p : Place) (n : Nat) : Bool :=
  (p.kind = .pg || p.kind = .scratch) && haPkg p.ha != w.pkg && silent s (haPkg p.ha) && !windowHeld s w p n

/-- The bytes at places in order, each read at its home; poison faults UE_DATA (R391), a package that does not answer REMOTE_TIMEOUT. -/
def readPlaces (w : Who) (hint : Nat) (tval : Word) : State → List (Place × Nat) → Acc Got
  | s, [] => .ok { bytes := [] } s
  | s, (p, n) :: rest =>
    if cutOff s w p n then .fault causeTimeout tval s else
    let (x, s1) := readPlace s w hint p n
    if x.poison then .fault causeUeData (poisonVa s1 p n) s1
    else (readPlaces w hint tval s1 rest).andThen (fun y s2 => .ok { bytes := x.bytes ++ y.bytes, inv := x.inv || y.inv } s2)

/-- A blocking read of `n` bytes at `va` at their homes. -/
def readMem (s : State) (w : Who) (va : Word) (n hint : Nat) (k : AccKind) : Acc Got :=
  (placesOf s w va n k).andThen (fun ps s1 => readPlaces w hint va s1 ps)

/-- The parts of a scalar read that lie in one 64-byte line each. -/
def lineParts : Nat → Nat → Nat → List (Nat × Nat)
  | 0, _, _ => []
  | fuel + 1, ha, n =>
    if n = 0 then []
    else
      let room := 64 - ha % 64
      if n ≤ room then [(ha, n)] else (ha, room) :: lineParts fuel (ha + room) (n - room)

/-- The line parts read through the scalar L1. -/
def l1Parts (w : Who) (p : Place) (hint : Nat) (tval : Word) : State → List (Nat × Nat) → Acc (List Byte)
  | s, [] => .ok [] s
  | s, (ha, n) :: rest =>
    match l1Line s w p ha n hint with
    | (none, s1) => .fault causeUeData (poisonVa s1 { p with ha := ha, va := p.va + BitVec.ofInt 64 ((ha : Int) - p.ha) } n) s1
    | (some b, s1) => (l1Parts w p hint tval s1 rest).andThen (fun more s2 => .ok (b ++ more) s2)

/-- The places of a scalar load: through the scalar L1 where it may hold them, at their homes otherwise. -/
def loadPlaces (w : Who) (hint : Nat) (tval : Word) : State → List (Place × Nat) → Acc (List Byte)
  | s, [] => .ok [] s
  | s, (p, n) :: rest =>
    let one : Acc (List Byte) :=
      if l1May w p then l1Parts w p hint tval s (lineParts (n + 1) p.ha n)
      else (readPlaces w hint tval s [(p, n)]).andThen (fun x s1 => .ok x.bytes s1)
    one.andThen (fun b s1 => (loadPlaces w hint tval s1 rest).andThen (fun more s2 => .ok (b ++ more) s2))

/-- A scalar load of `n` bytes at `va` (R125, R254). -/
def loadMem (s : State) (w : Who) (va : Word) (n hint : Nat) : Acc (List Byte) :=
  (placesOf s w va n .read).andThen (fun ps s1 => loadPlaces w hint va s1 ps)

/-! Writes of a place. -/

/-- Who writes, for the L1 of the writing core (R157): a store updates it, an atomic or an engine invalidates it; others leave it. -/
inductive WriteKind where
  | store | engine | outside
deriving DecidableEq, Repr

/-- The L1 of the writing core after a write. -/
def l1Note (s : State) (w : Who) (k : WriteKind) (ha : Nat) (bytes : List Byte) : State :=
  match k with
  | .store => l1Store s (coreKey w.pkg w.die w.core) ha bytes
  | .engine => l1Invalidate s (coreKey w.pkg w.die w.core) ha bytes.length
  | .outside => s

/-- R268: a line of the prefetch buffer holds a word of the `n` bytes at home address `ha`. -/
def lineHolds (ha n : Nat) (l : Nat × Cells Byte × Nat) : Bool :=
  l.2.1.any (fun b => decide (ha / 8 ≤ (l.1 + b.1) / 8) && decide ((l.1 + b.1) / 8 ≤ (ha + n - 1) / 8))

/-- R268, R265: the lines of a strand's prefetch buffer that hold a word of these bytes go. -/
def forgetLines (ha n : Nat) (t : Strand) : Strand :=
  if t.prefetch.isEmpty then t else { t with prefetch := t.prefetch.filter (fun l => !lineHolds ha n l) }

/-- R151, R268: a vector load of the strand `tid` has read the words of some places at their homes: no prefetch line holds them any longer. -/
def forgetRead (s : State) (tid : Nat) (ps : List (Place × Nat)) : State :=
  s.onTask tid (fun t => ps.foldl (fun u x => if x.1.kind = .pg then forgetLines x.1.ha x.2 u else u) t)

/-- R391: how a strand's registers or tiles answer a write. -/
def ownStatus (s : State) (p : Place) (n : Nat) : Status :=
  if (s.task? p.tid).any (fun t => ownRefused t p.kind p.ha n) then .ue else .ok

/-- Bytes written at a place, with the status of their home. The strand that writes takes no older byte from its prefetch buffer later (R265). -/
def writePlace (s : State) (w : Who) (k : WriteKind) (p : Place) (bytes : List Byte) (inv : Bool) : State × Status :=
  if cutOff s w p bytes.length then (s, .timeout) else
  match p.kind with
  | .scratch => homeWrite s w.vi 0 p.ha bytes false
  | .pg =>
    let (s1, st) := homeWrite s w.vi p.rc p.ha bytes inv w.hint w.host
    -- where some words were refused as poisoned, the others have been written (R391)
    (if st = .ok then (l1Note s1 w k p.ha bytes).onTask w.tid (forgetLines p.ha bytes.length)
     else if st = .ue then (l1Note s1 w (if k = .store then .engine else k) p.ha bytes).onTask w.tid (forgetLines p.ha bytes.length)
     else s1, st)
  | .vreg => (s.onTask p.tid (fun t => putOwnBytes t .vreg p.ha bytes), ownStatus s p bytes.length)
  | .tile => (s.onTask p.tid (fun t => putOwnBytes t .tile p.ha bytes), ownStatus s p bytes.length)

/-- The worse of two statuses: the first that is not ok. -/
def Status.orElse (a b : Status) : Status := if a = .ok then b else a

/-- Bytes written over places in order. -/
def writePlaces (w : Who) (k : WriteKind) (inv : Bool) : State → List (Place × Nat) → List Byte → State × Status
  | s, [], _ => (s, .ok)
  | s, (p, n) :: rest, bytes =>
    let (s1, a) := writePlace s w k p (bytes.take n) inv
    let (s2, b) := writePlaces w k inv s1 rest (bytes.drop n)
    (s2, a.orElse b)

/-- How the home of a place answers a write of `n` bytes. -/
def placeRefusal (s : State) (w : Who) (p : Place) (n : Nat) : Status :=
  if cutOff s w p n then .timeout
  else
    match p.kind with
    | .pg => homeRefusal s p.ha n
    | .scratch => homeRefusal s p.ha n
    | .vreg => ownStatus s p n
    | .tile => ownStatus s p n

/-- R398, R378: bytes written over places as a whole: where a home refuses some of them, none is written. -/
def writeWhole (w : Who) (k : WriteKind) (inv : Bool) (s : State) (ps : List (Place × Nat)) (bytes : List Byte) : State × Status :=
  match ((ps.map (fun x => placeRefusal s w x.1 x.2)).find? (fun st => st ≠ .ok)) with
  | some st => (s, st)
  | none => writePlaces w k inv s ps bytes

/-- The cause that a failed blocking access raises (R166, R398). -/
def Status.cause : Status → Nat
  | .revoked => causeRevoked
  | .windowWrite => causeWindowWrite
  | .ue => causeUeData
  | .timeout => causeTimeout
  | .prot => causePageProt
  | .stale => causePageNp
  | .abort => causeRevoked
  | .busy => causeTimeout
  | .ok => 0

/-- R200: the address of the first poisoned word among some places, `va` where none holds one. -/
def poisonVaIn (s : State) (va : Word) : List (Place × Nat) → Word
  | [] => va
  | (p, n) :: rest => if placePoisoned s p n then poisonVa s p n else poisonVaIn s va rest

/-- R166, R200: TVAL of a failed write over some places. -/
def writeTval (s : State) (st : Status) (ps : List (Place × Nat)) (va : Word) : Word := if st = .ue then poisonVaIn s va ps else va

/-- A blocking write of bytes at `va`, every page translated first (R121); a refusal faults with TVAL = `va`, or the poisoned word. -/
def writeMem (s : State) (w : Who) (k : WriteKind) (va : Word) (bytes : List Byte) (inv : Bool) : Acc Unit :=
  (placesOf s w va bytes.length .write).andThen (fun ps s1 =>
    match writePlaces w k inv s1 ps bytes with
    | (s2, .ok) => .ok () s2
    | (s2, st) => .fault st.cause (writeTval s2 st ps va) s2)

/-- R11, R256: one atomic at its home, on `n` bytes in one place: `f` gives the new bytes from the old, or none where nothing is written. -/
def atomicPlace (s : State) (w : Who) (p : Place) (n : Nat) (f : List Byte → Option (List Byte)) : State × Status × List Byte :=
  if cutOff s w p n then (s, .timeout, []) else
  let (x, s1) := readPlace s w 0 p n
  if x.poison then (s1, .ue, x.bytes)
  else
    match f x.bytes with
    | none =>
      -- an atomic that writes nothing is still refused where a write is (R137)
      if frameRefused s1 p.ha then (s1, .windowWrite, x.bytes) else (s1, .ok, x.bytes)
    | some b =>
      let (s2, st) := writePlace s1 w .engine p b false
      (s2, st, x.bytes)

/-- A blocking atomic at `va`, aligned, in one page. -/
def atomicMem (s : State) (w : Who) (va : Word) (n : Nat) (f : List Byte → Option (List Byte)) : Acc (List Byte) :=
  (placeOf s w va n .atomic).andThen (fun p s1 =>
    match atomicPlace s1 w p n f with
    | (s2, .ok, old) => .ok old s2
    | (s2, st, _) => .fault st.cause (failTval s2 st p n va) s2)

/-! Generation advances (R115 to R117). -/

/-- R116: whether a page has advanced 255 times within the last millisecond. -/
def advanceWaits (s : State) (tag : Nat) : Bool :=
  decide (255 ≤ ((cellGet [] (s.chan (tag / 131072)).advances (tag % 131072)).filter (fun t => decide (s.time < t + 1000000))).length)

/-- R112: the copies of a generation entry in the page table entries of every VI whose page uses it, rewritten. -/
def copyGens (s : State) (tag : Nat) : List (Nat × Nat) → State
  | [] => s
  | (vi, _) :: rest =>
    let ck := tag / 131072
    let j := tag % 131072
    let s1 := match walk s (ck / 128) (ck / 16 % 8) (ck % 16) vi (j * 65536) with
      | some (at_, l) =>
        if tagOf (ck / 128) (ck / 16 % 8) (ck % 16) (j * 65536) l.big = tag then { s with mem := memSet s.mem (at_ + 7) (genOf s tag) } else s
      | none => s
    copyGens s1 tag rest

/-- R112, R115 to R117: the generation entry `tag` advances, and its copies with it; the scalar L1 and prefetch lines of the home die filled through
it go. -/
def advanceGen (s : State) (tag : Nat) : State :=
  let ck := tag / 131072
  let j := tag % 131072
  let c := s.chan ck
  let dk := ck / 16
  let recent := (cellGet [] c.advances j).filter (fun t => decide (s.time < t + 1000000))
  let s1 := s.setChan ck { c with gens := cellPut c.gens j (cellGet 0 c.gens j + 1),
                                  advances := cellPut c.advances j (recent ++ [s.time]) }
  let s2 := { s1 with cores := s1.cores.map (fun (x : Nat × CoreSt) =>
                        if x.1 / 128 = dk then (x.1, { x.2 with l1 := x.2.l1.filter (fun l => l.tag ≠ tag) }) else x) }
  let s3 := s2.onStrands (fun t => if dieKey t.pkg t.die = dk then { t with prefetch := t.prefetch.filter (fun l => l.2.2 ≠ tag) } else t)
  copyGens s3 tag c.roots

/-- The generation entry of a VI's page at channel offset `a` (R115). -/
def pageTag (s : State) (pkg die chan vi a : Nat) : Nat :=
  match walk s pkg die chan vi a with
  | none => tagOf pkg die chan a false
  | some (_, l) => tagOf pkg die chan a l.big

/-- The advance of a VI's page at channel offset `a`. -/
def advancePage (s : State) (pkg die chan vi a : Nat) : State := advanceGen s (pageTag s pkg die chan vi a)

end Sys2Proof.Machine
end

