-- ==== Sys2Proof/Machine/Fetch.lean ====
section
/-! DEFINITION. Fetching an instruction's words (spec/11_encoding.md R177, R178; spec/23_traps.md R329, R330, R337, R357), and placing a word where
the current strand fetches next. -/

namespace Sys2Proof.Machine

/-- One 8-byte word at a home address through the L1 instruction cache of a core; none where the word is poisoned (R337). A hit is not checked
against the home (R118). The cache always fills and replaces the oldest line (log entry 5), wherever the line is homed: R25 leaves open whether it keeps
lines of other dies and packages (log entry 67). It never holds a line of a host-shared page (R142), nor one read through a window, whose copies only L2 and
MSC may hold (R137). -/
def icacheWord (s : State) (ck : Nat) (vi rc ha tag : Nat) (never : Bool) : Option Word × State :=
  let c := s.core ck
  let base := ha / 64 * 64
  match c.icache.find? (fun l => l.ha = base) with
  | some l => (some (BitVec.ofNat 64 (leNat ((l.bytes.drop (ha - base)).take 8))), s)
  | none =>
    if homePoisoned s ha 8 then (none, s)
    else
      let w := BitVec.ofNat 64 (leNat (homeBytes s ha 8))
      let s1 := useHome s vi rc ha 8 0 .read
      if never || homePoisoned s base 64 then (some w, s1)
      else
        let l : Line := { ha := base, bytes := homeBytes s base 64, tag := tag }
        (some w, s1.setCore ck { c with icache := (c.icache ++ [l]).drop (c.icache.length + 1 - Config.icacheLines) })

/-- R118, R114: a word that the L1 instruction cache holds, found by a cached translation less than 1 ms old: neither is checked against the home. -/
def fetchHit (s : State) (pc : Word) : Option Word :=
  let n := pc.toNat
  if bitsOf n 63 62 ≠ 0 then none
  else
    match (s.core s.myCore).tlbs.find? (fun e => tlbMatches e .fetch s.cpu.vi (n / 65536)) with
    | none => none
    | some e =>
      let p := pgPlace e.pkg (bitsOf n 39 37) (bitsOf n 36 33) (low 33 n) e.leaf pc e.leaf.gen
      if s.time < e.since + 1000000 ∧ leafPermits e.leaf .execute s.cpu.level ∧ !e.leaf.sp then
        ((s.core s.myCore).icache.find? (fun l => l.ha = p.ha / 64 * 64)).map
          (fun l => BitVec.ofNat 64 (leNat ((l.bytes.drop (p.ha % 64)).take 8)))
      else none

/-- The word at a fetch address: physical at H, translated below (R330, R29). A fault carries its cause and TVAL. -/
def fetchWord (s : State) (pc : Word) : Acc Word :=
  let t := s.cpu
  let ck := s.myCore
  let read := fun (s1 : State) (ha rc tag : Nat) (hs : Bool) =>
    match icacheWord s1 ck t.vi rc ha tag hs with
    | (some w, s2) => Acc.ok w s2
    | (none, s2) => Acc.fault causeUeInstr pc s2
  if t.level = .h then read s (haPhys t.pkg pc.toNat) 0 0 false
  else
    match fetchHit s pc with
    | some w => .ok w s
    | none => (placeOf s (s.who .fetch) pc 8 .execute).andThen (fun p s1 => read s1 p.ha p.rc p.tag (p.hs || p.viaWindow))

/-- The word at the pc and the word that follows it, which is read only where the instruction takes a literal and is otherwise 0 (R178). -/
def fetch (s : State) : Acc (Word × Word) :=
  (fetchWord s s.cpu.pc).andThen (fun w s1 =>
    if takesLiteral w && ownFieldsOk w then (fetchWord s1 (s.cpu.pc + 8)).andThen (fun f s2 => .ok (w, f) s2)
    else .ok (w, 0) s1)

/-- R337, R329: a fetch that faults. The first word of an S handler that cannot be fetched enters H. -/
def fetchTrap (s : State) (cause : Nat) (tval : Word) : State :=
  if s.cpu.entering && cause != causeUeInstr then enterTrap s .h cause tval s.cpu.pc else scalarTrap s cause tval

end Sys2Proof.Machine
end

