-- ==== Sys2Proof/Machine/Images.lean ====
section
/-! DEFINITION. Context images (spec/23_traps.md R343): a strand as the bytes of an image, and the strand that an image in memory holds. What is in
memory is the context: a restore reads it back from there (R345), and a piece that ends while the strand is saved changes it there (R168). -/

namespace Sys2Proof.Machine

/-! Words of the image. -/

def boolNat (b : Bool) : Nat := if b then 1 else 0

/-- TSTATUS of a level as MFSR reads it (R330). `lvl` is the level at which the strand runs. -/
def tstatusOf (t : Strand) (x : Level) : Nat :=
  let r := t.traps x
  let low9 := boolNat r.step * 2 ^ 7 + boolNat r.pie * 2 ^ 6 + boolNat r.ie * 2 ^ 5 + boolNat r.pmm * 2 ^ 4 + r.plvl.toNat * 4 + t.level.rank
  match x with
  | .h => boolNat r.dbl * 2 ^ 17 + low9
  | .u => r.evp.toNat * 2 ^ 13 + r.evm.toNat * 2 ^ 9 + boolNat r.pn * 2 ^ 8 + low9
  | .s => r.evp.toNat * 2 ^ 13 + r.evm.toNat * 2 ^ 9 + boolNat r.pn * 2 ^ 8 + low9

/-- The trap registers of S whose TSTATUS reads as a word, with the TCAUSE, TEPC and TVAL given. -/
def trapsOfWord (n : Nat) (cause : BitVec 8) (epc tval : Word) : TrapRegs :=
  { evp := BitVec.ofNat 4 (bitsOf n 16 13), evm := BitVec.ofNat 4 (bitsOf n 12 9), pn := n.testBit 8, step := n.testBit 7, pie := n.testBit 6,
    ie := n.testBit 5, pmm := n.testBit 4, plvl := BitVec.ofNat 2 (bitsOf n 3 2), cause := cause, epc := epc, tval := tval }

/-- R165. -/
def ccWord (c : CC) : Nat := c.count + boolNat c.timeout * 2 ^ 32 + boolNat c.revoked * 2 ^ 33 + boolNat c.ue * 2 ^ 34

/-- The counter that a word holds. -/
def ccOfWord (n : Nat) : CC := { count := low 20 n, timeout := n.testBit 32, revoked := n.testBit 33, ue := n.testBit 34 }

/-- VQHOLD (R59): the S bank at U and S, the H bank at H. -/
def vqhold (t : Strand) : Nat :=
  match t.hold t.level with
  | [] => 0
  | e :: _ => e.pc.toNat / 8 * 8 + 1

/-- The level of a number. -/
def levelOf (n : Nat) : Level :=
  match n with
  | 0 => .u
  | 1 => .s
  | _ => .h

/-- `n` bytes of zeros. -/
def zeros (n : Nat) : List Byte := List.replicate n 0

/-- A list cut or filled with zeros to `n` bytes. -/
def padTo (n : Nat) (l : List Byte) : List Byte := l.take n ++ zeros (n - l.length)

def wordsBytes (l : List Nat) : List Byte := l.flatMap (leBytes 8)

/-! Collective runs in an image (R360). -/

/-- The key of a graph in its die's store, and in a strand's run counts. -/
def graphKey (vi n : Nat) : Nat := vi * 64 + n

/-- The graph of a run at its member's die. -/
def runGraph (s : State) (t : Strand) (r : CollRun) : Option CollGraph := (s.die (dieKey t.pkg t.die)).graphs.lookup (graphKey t.vi r.graph)

/-- R323: every step of the run is issued and every write of it acknowledged. -/
def runEnded (s : State) (t : Strand) (r : CollRun) : Bool :=
  (match runGraph s t r with
   | none => true
   | some g => decide (g.steps.length ≤ r.step))
  && !(s.pieces.any (fun p => p.tid = t.tid && p.run == some r.id))

/-- The runs of a strand that have not ended: at most four (R323). -/
def liveRuns (s : State) (t : Strand) : List CollRun := t.runs.filter (fun r => !runEnded s t r)

/-- R360: a run's next step, status and base table as 19 words; the layout is the model's (log entry 9). -/
def runWords (r : CollRun) : List Nat :=
  [r.id, r.run, 2 ^ 32 + r.level.rank * 2 ^ 24 + r.status * 2 ^ 16 + r.graph * 2 ^ 9 + r.step] ++ (List.range 16).map (fun i => (r.base.getD i 0).toNat)

/-- The run that 19 words hold; none where they are zero. -/
def runOfWords (l : List Nat) : Option CollRun :=
  let n := l.getD 2 0
  if n = 0 then none
  else some { id := l.getD 0 0, run := l.getD 1 0, level := levelOf (bitsOf n 25 24), status := bitsOf n 23 16, graph := bitsOf n 14 9, step := low 9 n,
              base := ((l.drop 3).take 16).map (BitVec.ofNat 64) }

/-! A strand as bytes (R343). -/

/-- The size of one mask in an image. -/
def maskBytesOf (mvl : Nat) : Nat := 64 * ceilDiv mvl 512

/-- A mask as bytes. -/
def maskImage (t : Strand) (n : Nat) : List Byte :=
  (List.range (maskBytesOf t.mvl)).map (fun j =>
    BitVec.ofNat 8 ((List.range 8).foldl (fun acc b => if decide (8 * j + b < t.mvl) && t.readM n (8 * j + b) then acc + 2 ^ b else acc) 0))

/-- A v register as bytes. -/
def vregImage (t : Strand) (n : Nat) : List Byte := (List.range t.mvl).flatMap (fun i => leBytes (t.ew / 8) (t.readV n i))

/-- A set of elements as 4,096 bytes. -/
def bitmapImage (l : List Nat) : List Byte :=
  (List.range 4096).map (fun j => BitVec.ofNat 8 ((List.range 8).foldl (fun acc b => if l.contains (8 * j + b) then acc + 2 ^ b else acc) 0))

/-- The elements of a bitmap. -/
def bitmapOf (l : List Byte) : List Nat :=
  (l.zipIdx.filter (fun x => x.1 ≠ 0)).flatMap (fun x => ((List.range 8).filter (fun b => x.1.getLsbD b)).map (fun b => 8 * x.2 + b))

/-- The tiles that a strand holds. -/
def heldTiles (t : Strand) : List Nat := (List.range 4).filter (fun n => t.held.getLsbD n)

/-- The bytes of one tile. -/
def tileImage (t : Strand) (n : Nat) : List Byte := (List.range 65536).map (fun i => tileByte t (n * 65536 + i))

/-- The words of the 0x0240 block (log entry 9): registers, counters, position and deadline, then the runs that have not ended. -/
def blockWords (t : Strand) (runs : List CollRun) : List Nat :=
  [t.pc.toNat, t.level.rank, tstatusOf t .s, t.trapS.cause.toNat, t.trapS.epc.toNat, t.trapS.tval.toNat, t.vl, t.vstart, t.vfs.toNat, vqhold t,
   t.fpmode, t.fpflags.toNat, boolNat t.mmode, t.tm, t.tn, t.tk, t.trow, t.held.toNat * 256 + boolNat t.sat * 4 + boolNat t.td, t.ttype]
  ++ (List.range 16).map (fun n => ccWord (t.readCC n))
  ++ (List.range 8).map (fun i => ((t.levels[i]?).map (·.index)).getD 0) ++ (List.range 8).map (fun i => ((t.levels[i]?).map (·.extent)).getD 1)
  ++ [t.deadline.toNat] ++ (runs.take 4).flatMap runWords

def bindingImage : Option Binding → List Byte
  | none => zeros 32
  | some b => leBytes 8 b.base.toNat ++ leBytes 8 b.stride.toNat ++ leBytes 4 b.count ++ leBytes 4 b.width ++ leBytes 8 b.sync.toNat

/-- The binding that 32 bytes hold; a width of 0 marks an unbound register (R159). -/
def bindingOfImage (b : List Byte) : Option Binding :=
  let width := leNat ((b.drop 20).take 4)
  if width = 0 then none
  else some { base := BitVec.ofNat 64 (leNat (b.take 8)), stride := BitVec.ofNat 64 (leNat ((b.drop 8).take 8)), count := leNat ((b.drop 16).take 4),
              width := width, sync := BitVec.ofNat 64 (leNat ((b.drop 24).take 8)) }

/-- The instruction's words and captured operands of an entry. -/
def entryWords (e : QEntry) : List Nat := (encode e.instr).map (·.toNat) ++ e.caps.map (·.2.toNat)

/-- A queue or bank entry; its layout is internal (R343, log entry 9): the address, the word count with FPMODE and the start element, the instruction's
words, the captured operands. -/
def entryImage (e : QEntry) : List Byte :=
  padTo 64 (wordsBytes ([e.pc.toNat,
    (match e.start with
     | none => 0
     | some k => 2 ^ 32 + k) * 2 ^ 8 + e.rm * 4 + 2 + (if (encode e.instr).length = 2 then 1 else 0)] ++ entryWords e))

/-- The entry that 64 bytes hold, or none where they are zero. What an image does not name (a claim, a pass, an operation's number) is `old`'s, the
engine's own record of the same instruction. -/
def entryOfBytes (old : Option QEntry) (b : List Byte) : Option QEntry :=
  let word := fun (i : Nat) => leNat ((b.drop (8 * i)).take 8)
  let mark := word 1
  if mark = 0 then none
  else
    let two := mark.testBit 0
    let w := BitVec.ofNat 64 (word 2)
    let instr := match decode w (if two then BitVec.ofNat 64 (word 3) else 0) with
      | .instr i _ => i
      | _ => Instr.illegalOpcodeWord w
    let first := if two then 4 else 3
    let keys := (captures {} instr).map (·.1)
    let base : QEntry := match old with
      | some e => if e.instr = instr then e else { pc := 0, word := w, instr := instr }
      | none => { pc := 0, word := w, instr := instr }
    some { base with pc := BitVec.ofNat 64 (word 0), word := w, instr := instr, rm := bitsOf mark 7 2,
                     caps := keys.zipIdx.map (fun k => (k.1, BitVec.ofNat 64 (word (first + k.2)))),
                     start := if mark.testBit 40 then some (bitsOf mark 39 8) else none }

/-- The bitmap of a bank: its oldest entry's (R333). -/
def bankBitmap (l : List QEntry) : List Byte :=
  match l with
  | [] => zeros 4096
  | e :: _ => bitmapImage e.bitmap

/-- The entries that 4,096 bytes hold; the oldest takes the bitmap of its bank. -/
def bankOf (old : List QEntry) (bytes : List Byte) (bitmap : Option (List Byte)) : List QEntry :=
  match (List.range 64).filterMap (fun i => entryOfBytes (old[i]?) ((bytes.drop (64 * i)).take 64)), bitmap with
  | e :: rest, some b => { e with bitmap := bitmapOf b } :: rest
  | l, _ => l

/-- Offsets of the parts that depend on the strand. -/
def maskAt : Nat := 0x6040
def vregsAt (t : Strand) : Nat := maskAt + 9 * maskBytesOf t.mvl
def tilesAt (t : Strand) : Nat := vregsAt t + t.groups * 16384
def regionImageAt (t : Strand) : Nat := tilesAt t + 65536 * (heldTiles t).length

/-- The header of an image (R343); at 0x20 it carries the save's number (log entry 9). -/
def imageHeader (t : Strand) (number : Nat) (lost : Bool) (region : Option (List Byte)) : List Byte :=
  padTo 64 (leBytes 4 0x4E4C4358 ++ leBytes 2 1 ++ leBytes 2 (1 + boolNat lost * 2 + boolNat region.isSome * 4) ++ leBytes 2 t.vi ++ leBytes 1 t.nv
    ++ leBytes 1 t.ew ++ leBytes 1 t.groups ++ leBytes 1 (heldTiles t).length ++ zeros 2 ++ leBytes 8 (regionImageAt t + (region.getD []).length)
    ++ leBytes 8 t.mvl ++ leBytes 8 number)

/-- An image behind its header, without the region. -/
def imageBody (t : Strand) (runs : List CollRun) : List Byte :=
  wordsBytes ((List.range 64).map (fun n => (t.readG n).toNat)) ++ padTo 1024 (wordsBytes (blockWords t runs))
  ++ (List.range 16).flatMap (fun n => bindingImage (t.readBnd n)) ++ wordsBytes ((List.range 256).map (fun n => (t.readK n).toNat))
  ++ padTo 4096 (t.queue.flatMap entryImage) ++ padTo 4096 (t.holdS.flatMap entryImage) ++ padTo 4096 (t.holdH.flatMap entryImage)
  ++ bankBitmap t.holdS ++ bankBitmap t.holdH
  ++ (List.range 9).flatMap (maskImage t) ++ (List.range t.nv).flatMap (vregImage t) ++ (heldTiles t).flatMap (tileImage t)

/-- The image of a strand with the bytes of its launch's region, if it carries them (R343). -/
def imageOf (t : Strand) (runs : List CollRun) (number : Nat) (lost : Bool) (region : Option (List Byte)) : List Byte :=
  imageHeader t number lost region ++ imageBody t runs ++ region.getD []

/-- R340: the image is written through the home slices with RC = 3. -/
def writeImage (s : State) (x : Saved) : State × Status :=
  homeWrite s x.strand.vi 3 x.at_ (imageOf x.strand (liveRuns s x.strand) x.number x.lost x.region) false

/-! The strand that an image holds. -/

/-- The header's flags, number and total length. -/
def imageFlags (s : State) (at_ : Nat) : Nat := leNat (homeBytes s (at_ + 6) 2)
def imageNumber (s : State) (at_ : Nat) : Nat := leNat (homeBytes s (at_ + 0x20) 8)
def imageTotal (s : State) (at_ : Nat) : Nat := leNat (homeBytes s (at_ + 0x10) 8)

/-- R343: the header at an address is that of a valid image. -/
def imageValid (s : State) (at_ : Nat) : Bool :=
  leNat (homeBytes s at_ 4) == 0x4E4C4358 && leNat (homeBytes s (at_ + 4) 2) == 1 && imageFlags s at_ % 2 == 1

/-- The words of the 0x0240 block, put into a strand: each field at its own width, so that no reserved bit of a register becomes 1 (R6). -/
def ofBlockWords (t : Strand) (b : List Nat) : Strand :=
  let word := fun (i : Nat) => b.getD i 0
  let stat := word 17
  let cc := (List.range 16).foldl (fun (u : Strand) n => u.writeCC n (ccOfWord (word (19 + n)))) { t with cc := [] }
  let runs := (List.range 4).filterMap (fun i => runOfWords ((b.drop (52 + 19 * i)).take 19))
  { cc with
      pc := BitVec.ofNat 64 (word 0), level := levelOf (low 2 (word 1)),
      trapS := trapsOfWord (word 2) (BitVec.ofNat 8 (word 3)) (BitVec.ofNat 64 (word 4) &&& ~~~7) (BitVec.ofNat 64 (word 5)),
      vl := low 16 (word 6), vstart := low 16 (word 7), vfs := BitVec.ofNat 5 (word 8), fpmode := low 2 (word 10),
      fpflags := BitVec.ofNat 6 (word 11), mmode := word 12 == 1, tm := min 64 (word 13), tn := min 256 (word 14), tk := low 24 (word 15),
      trow := low 24 (word 16), held := BitVec.ofNat 4 (bitsOf stat 11 8), sat := stat.testBit 2, td := stat.testBit 0, ttype := low 4 (word 18),
      levels := t.levels.mapIdx (fun i l => { l with index := low 32 (word (35 + i)), extent := low 32 (word (43 + i)) }),
      deadline := BitVec.ofNat 64 (word 51),
      runs := t.runs.filter (fun r => !runs.any (fun x => x.id = r.id)) ++ runs }

/-- R345: the strand that the image at an address holds. What an image does not name (the task's identity and links, its ended runs) is `t`'s. -/
def readImage (s : State) (at_ : Nat) (t : Strand) : Strand :=
  let byte := fun (off n : Nat) => homeBytes s (at_ + off) n
  let word := fun (off : Nat) => leNat (byte off 8)
  let bytes := byte 0x0A 3
  let t0 := ofBlockWords { t with nv := (bytes.getD 0 0).toNat, ew := (bytes.getD 1 0).toNat, groups := (bytes.getD 2 0).toNat, g := [], k := [], m := [],
                                  mqOff := [], v := [], tiles := [], bnd := [] } ((List.range 128).map (fun i => word (0x240 + 8 * i)))
  let g := (List.range 63).foldl (fun (u : Strand) i => u.writeG (i + 1) (BitVec.ofNat 64 (word (0x40 + 8 * (i + 1))))) t0
  let b := (List.range 16).foldl (fun (u : Strand) n => u.writeBnd n (bindingOfImage (byte (0x640 + 32 * n) 32))) g
  let k := (List.range 256).foldl (fun (u : Strand) i => u.writeK i (BitVec.ofNat 64 (word (0x840 + 8 * i)))) b
  let q : Strand := { k with queue := bankOf t.queue (byte 0x1040 4096) none, holdS := bankOf t.holdS (byte 0x2040 4096) (some (byte 0x4040 4096)),
                             holdH := bankOf t.holdH (byte 0x3040 4096) (some (byte 0x5040 4096)) }
  let m := (List.range 9).foldl (fun (u : Strand) n =>
      let mask := byte (maskAt + n * maskBytesOf q.mvl) (maskBytesOf q.mvl)
      (List.range q.mvl).foldl (fun (w : Strand) i => w.writeM n i ((mask.getD (i / 8) 0).getLsbD (i % 8))) u) q
  let v := fillOwn m .vreg 0 (byte (vregsAt q) (q.nv * regBytes q))
  (heldTiles q).zipIdx.foldl (fun (u : Strand) n => fillOwn u .tile (n.1 * 65536) (byte (tilesAt q + 65536 * n.2) 65536)) v

/-- R168, R344: a saved strand changed in its image. A lost image discards the change (R361), and so does one with an uncorrectable word, which no
restore takes, and the place of an image that another has overwritten. -/
def onImage (s : State) (x : Saved) (f : Strand → Strand) : State :=
  if x.lost || x.stopped || imageNumber s x.at_ != x.number then s
  else
    let old := readImage s x.at_ x.strand
    if homePoisoned s x.at_ (regionImageAt old) then s
    else
      let u := f old
      let keep := fun (y : Saved) => if y.number = x.number then { y with strand := u } else y
      (homeWrite { s with saved := s.saved.map keep } u.vi 3 (x.at_ + 0x40) (imageBody u (liveRuns s u)) false).1

/-- A saved task changed in its image. -/
def onSaved (s : State) (tid : Nat) (f : Strand → Strand) : State :=
  (s.saved.filter (fun (x : Saved) => x.strand.tid = tid)).foldl (fun st x => onImage st x f) s

end Sys2Proof.Machine
end

