-- ==== Sys2Proof/Machine/Meaning.lean ====
section
/-! DEFINITION. The shapes that the meanings share: a scalar instruction that writes one register, the checks at the head of the vector queue
(spec/11_encoding.md R194, spec/15_vector.md R231, R232), privilege (R197), and the checks made when a queued instruction commits. -/

namespace Sys2Proof

/-- R183: negated masking, for a row whose C field carries nothing else. -/
def Ops.mn (o : Ops) : Bool := o.C == 1

end Sys2Proof

namespace Sys2Proof.Machine

/-- What a meaning answers. -/
abbrev Out := Host.Outcome State Fault Refusal

/-- The first word of an instruction, for TVAL (R200). -/
def instrWord (i : Instr) : Word := (encode i).headD 0

/-- A scalar instruction completes: D receives `x`, and the flags are added to FPFLAGS (R85, R216). -/
def scalarDone (o : Ops) (s : State) (x : Word) (fl : Flags) : Out :=
  .next (s.commit o.bytes (fun t => (t.writeG o.D x).orFlags fl))

/-- R197: an instruction below its least level traps PRIV with TVAL = its word. -/
def atLevel (l : Level) (i : Instr) (s : State) (k : Out) : Out :=
  if s.cpu.level.rank < l.rank then .next (scalarTrap s causePriv (instrWord i)) else k

/-- A scalar memory operation that has answered: its effect, a precise trap, or a wait. -/
def scalarAcc {α : Type} (x : Acc α) (f : α → State → State) : Out :=
  match x with
  | .ok a s => .next (f a s)
  | .fault c t s => .next (scalarTrap s c t)
  | .wait s => .next s.park

/-- A queued operation that has answered. -/
def queuedAcc {α : Type} (x : Acc α) (f : α → State → State) : Out :=
  match x with
  | .ok a s => .next (f a s)
  | .fault c t s => .next (queuedTrap s c t)
  | .wait s => .next s.park

/-- A queued operation that has answered, and what follows it. -/
def queuedAccOut {α : Type} (x : Acc α) (f : α → State → Out) : Out :=
  match x with
  | .ok a s => f a s
  | .fault c t s => .next (queuedTrap s c t)
  | .wait s => .next s.park

/-- The v registers that an instruction reads: its v sources, and D where D is a source (stores, atomics, TOPKI, HACC). -/
def vReads (i : Instr) : List Nat :=
  match i.form, i.ops? with
  | some f, some o =>
    let src := fun (k : Field) (n : Nat) => if k = .v then [n] else []
    let dSource := (0x165 ≤ f.op && f.op ≤ 0x167) || f.op = 0x180 || f.op = 0x181 || f.op = 0x182 || f.op = 0x1AA || f.op = 0x1C3
    let pairDest := f.op = 0x149 || f.op = 0x1AB || f.op = 0x1C4
    let b := match f.b with
      | .reg .v _ => [o.B]
      | .vec _ => if o.bIsVector then [o.B] else []
      | .vecOnly _ => [o.B]
      | .pref _ => if o.c == 2 then [o.B] else []
      | .reg .g _ => []
      | .reg .m _ => []
      | .all _ _ => []
      | .scalar _ _ => []
      | .none => []
      | .lit => []
      | .const => []
      | .imm => []
      | .conv => []
      | .noReg _ => []
      | .noVec _ _ => []
    (if dSource then src f.d o.D else []) ++ src f.a o.A ++ b ++ (if pairDest then [] else src f.c o.C)
  | _, _ =>
    match i with
    | .pFormPair a b => (if a.op.isVector then a.reads else []) ++ (if b.op.isVector then b.reads else [])
    | _ => []

/-- The on-chip map address of a strand's register or tile byte (R29, R30): `kind` is 1 for registers, 2 for tiles. -/
def ownVa (t : Strand) (kind off : Nat) : Word :=
  BitVec.ofNat 64 (2 ^ 63 + t.vpkg * 2 ^ 34 + t.die * 2 ^ 31 + t.core * 2 ^ 24 + kind * 2 ^ 22 + t.slot * 2 ^ 20 + off)

/-- R391: the on-chip map address of a word of a strand by its poison key: 0 for a g register. -/
def keyVa (t : Strand) (key : Nat) : Word :=
  if key < 64 then 0
  else if key < 2 ^ 32 then ownVa t 1 ((key - 64) / 65536 * regBytes t + (key - 64) % 65536 * 8)
  else ownVa t 2 (8 * (key - 2 ^ 32))

/-- R391: the poisoned word of a v register among `regs` with an element that the instruction reads, by its on-chip map address. -/
def poisonedIn (t : Strand) (regs : List Nat) (reads : Nat → Bool) : Option Word :=
  let per := 64 / t.ew
  (t.poison.find? (fun p => decide (64 ≤ p) && decide (p < 2 ^ 32) && regs.contains ((p - 64) / 65536)
      && (List.range per).any (fun j => reads ((p - 64) % 65536 * per + j)))).map
    (keyVa t)

/-- R391: the poisoned word of the instruction's v sources. -/
def poisonedAmong (t : Strand) (i : Instr) (reads : Nat → Bool) : Option Word := poisonedIn t (vReads i) reads

/-- R9, R183, R234: Active(m, i), with the mask read negated or not, and with mq where Q = 1. -/
def activeAt (t : Strand) (m : Nat) (neg q : Bool) (i : Nat) : Bool :=
  decide (t.vstart ≤ i) && decide (i < t.vl) && (m == 0 || !t.mmode || (t.readM m i != neg)) && (!q || t.readM 8 i)

/-- The elements of its v sources that an instruction reads: the active ones, by its mask, its polarity and, among the rows of R234, mq. A permutation reads
elements 0 to VL - 1 (R248), a pair those from VSTART on. -/
def readsElem (t : Strand) (i : Instr) (j : Nat) : Bool :=
  match i.form, i.ops? with
  | some f, some o =>
    if 0x140 ≤ f.op ∧ f.op ≤ 0x149 then decide (j < t.vl)
    else activeAt t o.M (f.c = .polarity && o.mn) (decide (0x0B0 ≤ f.op) && decide (f.op < 0x160) && o.q) j
  | _, _ => decide (t.vstart ≤ j) && decide (j < t.vl)

/-- R391: the poisoned source word of an instruction that reads its sources by element. -/
def poisonedSource (t : Strand) (i : Instr) : Option Word := poisonedAmong t i (readsElem t i)

/-- R232, R231, R391: at the head of the queue, a v register beyond NV traps VREG, then a type wider than EW traps ILL_FLD, then a poisoned source word
UE_DATA. `types` are the type codes that the instruction's elements use, `poison` finds the poisoned source word. -/
def headChecks (i : Instr) (types : List Nat) (poison : Option Word) (s : State) (k : Out) : Out :=
  match badVreg s.cpu i with
  | some n => .next (queuedTrap s causeVreg (BitVec.ofNat 64 n))
  | none =>
    if types.any (fun t => decide (t < 13) && decide (s.cpu.ew < typeWidth t)) then .next (queuedTrap s causeIllFld s.headWord)
    else
      match poison with
      | some va => .next (queuedTrap s causeUeData va)
      | none => k

/-- The checks of an instruction that reads its sources from VSTART to VL - 1. -/
def atHead (i : Instr) (types : List Nat) (s : State) (k : Out) : Out := headChecks i types (poisonedSource s.cpu i) s k

/-- R22, R235: with VL = 0 the sequencer retires the instruction with no effect but VSTART := 0. -/
def unlessVl0 (s : State) (k : Out) : Out := if s.cpu.vl = 0 then .next (s.retire id) else k

/-! What the entries of the queue still have to do (R58, R155, R156). -/

/-- The operation code of a queue entry; 0 for a pair. -/
def QEntry.code (e : QEntry) : Nat :=
  match e.instr.form with
  | some f => f.op
  | none => 0

/-- The entry carries NB = 1 (R184). -/
def QEntry.nonBlocking (e : QEntry) : Bool :=
  match e.instr.form, e.instr.ops? with
  | some _, some o => decide (e.code ≥ 0x080) && e.code != 0x1A8 && !(decide (0x0A0 ≤ e.code) && decide (e.code < 0x160)) && o.nb
  | _, _ => false

/-- The entry is a vector memory access in the sense of R156 and R358, or a scalar store or atomic with NB = 1, which is ordered as one (R253). -/
def QEntry.isVector (e : QEntry) : Bool :=
  let n := e.code
  n == 0x081 || n == 0x083 || n == 0x086 || decide (0x160 ≤ n) && decide (n < 0x1E0) && n != 0x183 && n != 0x184 && n != 0x189 && n != 0x1A0 && n != 0x1A1 && n != 0x1A5 && n != 0x1A6

/-- The entry is an operation of an engine acting for the strand (R146): the copy engine, collectives and fabric, the matrix load pipes, gathers and scatters,
the hash and stream engine, the top-k engine. -/
def QEntry.isEngine (e : QEntry) : Bool :=
  let n := e.code
  decide (0x1C0 ≤ n) || (decide (0x1A2 ≤ n) && decide (n ≤ 0x1A4)) || (decide (0x1A8 ≤ n) && decide (n ≤ 0x1AB)) || n == 0x162 || n == 0x164 || n == 0x167

/-- The entry has acquire order (R155): by its order field, or as a wait (R167, R170, R172, R273, R274, R314, R323). -/
def QEntry.acquires (e : QEntry) : Bool :=
  let n := e.code
  n == 0x182 || n == 0x183 || n == 0x185 || n == 0x188 || n == 0x189 || n == 0x1E2 || n == 0x1EC
  || (match e.instr.form, e.instr.ops? with
      | some f, some o => f.b.carriesOrder && o.acquires
      | _, _ => false)

/-- R155: the instruction has release order: by its order field, or as WMPUB (R273), BARRIER (R274) and CBFREE (R314). -/
def releasesOf (i : Instr) : Bool :=
  match i.form, i.ops? with
  | some f, some o => f.op == 0x187 || f.op == 0x189 || f.op == 0x1E3 || (f.b.carriesOrder && o.releases)
  | _, _ => false

/-- The entry may access memory. -/
def QEntry.accesses (e : QEntry) : Bool :=
  let n := e.code
  e.isVector || e.isEngine || (decide (0x185 ≤ n) && decide (n ≤ 0x188))

/-- The entry may write memory: a store of the queue, or a vector or engine instruction other than the loads and waits. -/
def QEntry.writes (e : QEntry) : Bool :=
  let n := e.code
  n == 0x081 || n == 0x083 || n == 0x086 || (decide (0x165 ≤ n) && decide (n ≤ 0x167)) || n == 0x180 || n == 0x181 || n == 0x186 || n == 0x187
  || n == 0x1A4 || n == 0x1A9 || n == 0x1AA || (decide (0x1C0 ≤ n) && n != 0x1E5 && n != 0x1EA && n != 0x1EC && n != 0x1EF && n != 0x1F0)

/-- The entry leaves VSTART 0 when it completes, or is an MTSR of it (R235, R57): a pair, the vector instructions, VAMO, VCAS and VWAIT, TRD and TWR,
VDOTV, TOPKI and TOPKR, the stream and hash instructions, COPY and CSEND. -/
def QEntry.writesVstart (e : QEntry) : Bool :=
  let n := e.code
  n == 0 || (decide (0x0B0 ≤ n) && decide (n < 0x180)) || n == 0x180 || n == 0x181 || n == 0x182
  || n == 0x1A5 || n == 0x1A6 || n == 0x1A8 || n == 0x1AA || n == 0x1AB || (decide (0x1C0 ≤ n) && decide (n ≤ 0x1C4)) || n == 0x1E0 || n == 0x1E9
  || (match e.instr with
    | .mtsrVstart _ => true
    | _ => false)

/-- R224: the entry writes a mask, VL or VSTART. Every entry that writes a mask, or VL otherwise than by an MTSR, leaves VSTART 0 too. -/
def QEntry.writesMasks (e : QEntry) : Bool :=
  e.writesVstart
  || (match e.instr with
    | .mtsrVl _ => true
    | _ => false)

/-- The piece belongs to a blocking scalar store that has committed (R398). -/
def Piece.isPost (p : Piece) : Bool :=
  match p.what with
  | .post _ _ _ => true
  | _ => false

/-- R398: a blocking scalar store of the current strand is on its way to another die. -/
def postsOut (s : State) : Bool := s.pieces.any (fun p => p.tid = s.cpu.tid && p.isPost)

/-- R155: a blocking scalar or vector memory access is not complete: it is queued, or a store on its way to another die. -/
def accessQueued (s : State) : Bool :=
  s.cpu.queue.any (fun e => e.isVector && !e.nonBlocking) || postsOut s

/-- R155: a blocking scalar store that comes before the head of the queue is on its way to another die. -/
def earlierPosts (s : State) : Bool :=
  s.pieces.any (fun p => p.tid = s.cpu.tid && p.isPost && s.cpu.queue.head?.any (fun e => decide (p.id < e.after)))

/-- R155, R398: an access of the queue with release order waits for every blocking scalar store before it; the vector accesses before it have left the
queue. -/
def afterPosts (release : Bool) (s : State) (k : Out) : Out := if release && earlierPosts s then .next s.park else k

/-- R155: an access with release order waits for every earlier blocking access. -/
def afterQueue (release : Bool) (s : State) (k : Out) : Out :=
  if release && accessQueued s then .next s.park else k

/-! Watched words (R61). -/

/-- The home slice of a home word, as one number; none for a scratchpad word. -/
def sliceKey (w : Nat) : Option Nat :=
  if haIsScratch (8 * w) then none else some (haDieKey (8 * w) * 128 + sliceOf (haOff (8 * w)) (haChan (8 * w)))

/-- The words of some that a slice watches. -/
def wordsInSlice (slice : Nat) (l : List Nat) : Nat := (l.filter (fun w => sliceKey w = some slice)).length

/-- The watch-table entries of a slice that are in use. -/
def watchesIn (s : State) (slice : Nat) : Nat := (s.strands.map (fun t => wordsInSlice slice (t.watched ++ (if t.watchSlow.isNone then t.watch.toList else [])))).foldl (· + ·) 0

/-- R61, R24: the slice of a word holds all its entries, those of `mine` included. -/
def watchTableFull (s : State) (mine : List Nat) (w : Nat) : Bool :=
  match sliceKey w with
  | none => false
  | some k => decide (Config.watchEntries ≤ watchesIn s k + wordsInSlice k mine)

/-- R61, R24: the words, in order, that find a free entry in the watch table of their slice. -/
def armWords (s : State) (words : List Nat) : List Nat := words.foldl (fun mine w => if watchTableFull s mine w then mine else mine ++ [w]) []

/-- R61, R62: the instruction at hand parks and watches some home words; a word whose table is full is read again every microsecond. -/
def parkOn (s : State) (words : List Nat) : State :=
  let armed := armWords { s with cpu := { s.cpu with watched := [] } } words.eraseDups
  s.onCpu (fun t => { t with parked := true, watched := armed, watchFull := armed.length != words.eraseDups.length })

/-! System registers: reserved bits (R6). -/

/-- The bits of a system register that exist; an MTSR that writes 1 to another bit traps ILL_FLD (R6). Bit 17 of TSTATUS, `dbl`, is of the H copy only: in the
S copy it is taken as reserved (DESIGN CHOICE, log entry 73). -/
def srMask (n : Nat) : Nat :=
  if n = 0x000 then 0x3 else if n = 0x001 then 0x7F else if n = 0x002 then 0x7 else if n = 0x003 then 0x3FFFFF
  else if n = 0x004 then 0x3FF else if n ≤ 0x01F then 0xFFFFFFFF
  else if n = 0x020 then 2 ^ 64 - 1 else if n = 0x021 then 0xFFFF else if n = 0x022 then 0xFFFF
  else if n = 0x023 then 0x1F else if n = 0x024 then 0x7F else if n = 0x025 then 0x7F
  else if n = 0x026 then 0x1F001F else if n = 0x027 then 0x100FF0001FFFF else if n = 0x028 then 2 ^ 64 - 8 + 1
  else if n = 0x030 ∨ n = 0x031 ∨ n = 0x032 then 2 ^ 64 - 1 else if n = 0x033 then 0xFFFFFF
  else if n = 0x034 then 0xF05 else if n = 0x035 then 0xF else if n = 0x040 then 0x3 else if n = 0x041 then 0x3F
  else if 0x050 ≤ n ∧ n ≤ 0x05F then 0x7000FFFFF else if 0x060 ≤ n ∧ n ≤ 0x063 then 0xFFFF
  else if n = 0x070 then 1 else if n = 0x071 then 2 ^ 64 - 1
  else if n = 0x100 then 0x1FFFF else if n = 0x210 then 0x200FF
  else if n = 0x101 ∨ n = 0x211 then 0xFF else if n = 0x102 ∨ n = 0x212 then 2 ^ 64 - 8
  else if n = 0x103 ∨ n = 0x213 then 2 ^ 64 - 1 else if n = 0x104 ∨ n = 0x214 then 2 ^ 64 - 8
  else if n = 0x105 ∨ n = 0x215 then 2 ^ 64 - 32 else if n = 0x106 ∨ n = 0x216 then 0x1FFF
  else if n = 0x107 ∨ n = 0x217 then 2 ^ 64 - 8 else if n = 0x108 ∨ n = 0x218 then 2 ^ 64 - 1
  else if n = 0x200 then 0x1FFE000FF else if n = 0x201 then 0xFFFF else if n = 0x202 then 3
  else if n = 0x203 then 0x3F3F3F3F else if n = 0x204 then 2 ^ 64 - 4096 else if n = 0x205 then 0x7FFFFF
  else if n = 0x206 then 0xFFFFFFFF0001 else if n = 0x207 ∨ n = 0x208 then 2 ^ 64 - 4096 + 31
  else 0

/-- R199: the least level to read a system register. -/
def srReadLevel (n : Nat) : Level :=
  if 0x200 ≤ n then .h else if 0x100 ≤ n ∧ n ≤ 0x106 then .s else .u

/-- R199: the least level to write a system register. -/
def srWriteLevel (n : Nat) : Level :=
  if 0x200 ≤ n ∨ n = 0x027 then .h else if 0x100 ≤ n ∨ n = 0x071 then .s else .u

/-- The value of the register is legal to write: no reserved bit is 1 (R6). A field value outside its stated range is kept as written (DESIGN CHOICE, log
entry 73). -/
def srWriteOk (n : Nat) (x : Word) : Bool := x &&& ~~~(BitVec.ofNat 64 (srMask n)) == 0

/-! Commit of a queued instruction (R57). -/

/-- The g registers of a word that are poisoned: reading one traps UE_DATA with TVAL 0 (R391). -/
def readsPoison (t : Strand) (i : Instr) : Bool := !t.poison.isEmpty && (gReads i).any (fun n => n ≠ 0 && t.poison.contains n)

/-- Whether a word is an MTSR, and of which register. -/
def mtsrNumber (i : Instr) : Option (Nat × Nat) :=
  match i.form, i.ops? with
  | some f, some o => if f.op = 0x0A1 then some (o.bImm, o.A) else none
  | _, _ => none

/-- R274: the level that a BARRIER names has no barrier, or there is no such level. -/
def badBarrier (t : Strand) (i : Instr) : Bool :=
  match i.form, i.ops? with
  | some f, some o => f.op == 0x189 && !(((t.levels[o.bImm]?).map (·.barrier)).getD false)
  | _, _ => false

/-- R194 step 5: the least level at which a word commits, for MFSR and MTSR that of its register (R197, R199). -/
def needsLevel (i : Instr) : Level :=
  match i.form with
  | none => .u
  | some f =>
    let sr := (i.ops?.map Ops.bImm).getD 0
    if f.op = 0x0A0 then srReadLevel sr else if f.op = 0x0A1 then srWriteLevel sr else f.level

/-- R197: the strand stands below the level that the word needs. -/
def privFault (t : Strand) (i : Instr) : Bool := decide (t.level.rank < (needsLevel i).rank)

/-- What the commit of a queued instruction traps on, in the order of R194: the level of a BARRIER (R274, step 4), PRIV (R197, step 5), a poisoned g register
that it reads (TVAL 0, R391), a reserved bit written by an MTSR (R6). The cause and TVAL. -/
def commitFault (t : Strand) (i : Instr) (w : Word) : Option (Nat × Word) :=
  if badBarrier t i then some (causeIllFld, w)
  else if privFault t i then some (causePriv, w)
  else if readsPoison t i then some (causeUeData, 0)
  else
    match mtsrNumber i with
    | some (n, a) => if srWriteOk n (t.readG a) then none else some (causeIllFld, w)
    | none => none

/-- R57: the queue entry of an instruction that commits now. -/
def entryOf (t : Strand) (i : Instr) (w : Word) : QEntry :=
  { pc := t.pc, word := w, instr := i, caps := captures t i, rm := t.fpmode }

/-- R57: an instruction enters the vector queue, and the pc moves past its words. The entry keeps the number of the next piece, by which an access of
release order knows the stores before it (R155). -/
def enqueue (s : State) (i : Instr) (w : Word) (words : Nat) : State :=
  s.onCpu (fun t => { t with queue := t.queue ++ [{ entryOf t i w with after := s.next }], pc := t.pc + 8 * BitVec.ofNat 64 words, parked := false, entering := false })

end Sys2Proof.Machine
end

