-- ==== Sys2Proof/Machine/Pieces.lean ====
section
/-! DEFINITION. Pieces of non-blocking instructions and engine operations: issuing, performing at the home, ending (spec/09_consistency.md R166, R168,
spec/17_vecmem.md R266, spec/22_streams_notes.md R327, spec/25_edges.md R362 to R372), and the arithmetic of atomics (R256). -/

namespace Sys2Proof.Machine

/-! Atomics (R256). -/

/-- R256: the new value of the word. A NaN already in memory, or a NaN result, leaves the canonical NaN. -/
def amoNew (op t old b : Nat) : Nat :=
  let w := typeWidth t
  let f := fmtOf t
  let canonical := fun (r : Nat) => if (fdecode f old).isNan || (fdecode f r).isNan then f.nan else r
  match op with
  | 0 => low w b
  | 1 => wrapInt w (intOf t old + intOf t b)
  | 2 => low w (old &&& b)
  | 3 => low w (old ||| b)
  | 4 => low w (old ^^^ b)
  | 5 => if intOf t old ≤ intOf t b then low w old else low w b
  | 6 => if intOf t old ≤ intOf t b then low w b else low w old
  | 7 => canonical (addVal f rmRNE (fdecode f (low w old)) (fdecode f (low w b))).1
  | 8 => canonical (minMaxVal f false (low w old) (low w b)).1
  | _ => canonical (minMaxVal f true (low w old) (low w b)).1

/-- The bytes that an atomic of R256 writes. -/
def amoBytes (op t b : Nat) (old : List Byte) : Option (List Byte) := some (leBytes (typeWidth t / 8) (amoNew op t (leNat old) b))

/-- R257: the bytes that a compare-and-swap writes, or none. -/
def casBytes (n expect new : Nat) (old : List Byte) : Option (List Byte) :=
  if leNat old = low (8 * n) expect then some (leBytes n new) else none

/-- R170: max(count - n, 0), with bits 63 and 62:40 kept. -/
def counterLess (x n : Nat) : Nat := x / 2 ^ 40 * 2 ^ 40 + (low 40 x - n)

/-- What a scalar access writes from the old bytes, or none. -/
def TripAct.new : TripAct → List Byte → Option (List Byte)
  | .read => fun _ => none
  | .hold => fun _ => none
  | .swap x => fun _ => some (leBytes 8 x)
  | .plus x => fun old => some (leBytes 8 (leNat old + x))
  | .amo op t v => amoBytes op t v
  | .cas n expect new => casBytes n expect new
  | .less n => fun old => some (leBytes 8 (counterLess (leNat old) n))
  | .top x => fun old => some (leBytes 8 (max (leNat old) x))
  | .put bytes _ => fun _ => some bytes

/-- Whether a scalar access only reads, only writes, or does both at once. -/
def TripAct.access : TripAct → AccKind
  | .read => .read
  | .put _ _ => .write
  | .hold => .atomic
  | .swap _ => .atomic
  | .plus _ => .atomic
  | .amo _ _ _ => .atomic
  | .cas _ _ _ => .atomic
  | .less _ => .atomic
  | .top _ => .atomic

/-! Where a piece goes. -/

/-- The die that holds a place. -/
def placeDie (s : State) (p : Place) : Nat :=
  match p.kind with
  | .pg => haDieKey p.ha
  | .scratch => haDieKey p.ha
  | .vreg => (match s.task? p.tid with
    | some t => dieKey t.pkg t.die
    | none => s.myDie)
  | .tile => (match s.task? p.tid with
    | some t => dieKey t.pkg t.die
    | none => s.myDie)

/-- R327: the rail of an ordinary access by its byte address. -/
def railOf (va : Nat) : Nat := bitsOf va 4 3 ^^^ bitsOf va 9 8

/-- R366: the rail that carries the share of `r`: its own, or the one to which it has moved. -/
def healthyRail (d : DieSt) (r : Nat) : Nat := cellGet r d.moved r

/-- R366: the next healthy rail in ascending order, wrapping at 3. -/
def nextHealthy (d : DieSt) (r : Nat) : Option Nat := ([r + 1, r + 2, r + 3].map (· % 4)).find? (fun x => !d.failed.contains x)

/-- R366: the shares of a rail that has failed and been drained move to the next healthy rail. -/
def moveShares (d : DieSt) (r : Nat) : DieSt :=
  match nextHealthy d r with
  | none => d
  | some x => { d with moved := ([0, 1, 2, 3].filter (fun n => healthyRail d n = r)).foldl (fun m n => cellPut m n x) d.moved }

/-- The packet kind of a piece (R364). -/
def PieceOp.kind : PieceOp → PacketKind
  | .write _ _ => .write
  | .loads _ _ _ => .readRequest
  | .amo _ _ _ _ _ _ => .atomic
  | .cas _ _ _ _ _ => .atomic
  | .copy _ _ => .write
  | .data _ _ => .data
  | .flag _ _ _ => .orderedFlag
  | .block _ _ => .data
  | .contrib _ _ _ _ _ _ _ _ => .contribution
  | .topk _ _ => .atomic
  | .cbcopy _ _ => .write
  | .xsend _ _ _ => .data
  | .slots _ => .write
  | .engine _ => .write
  | .fetch _ _ => .readRequest
  | .publish _ => .atomic
  | .revoke _ => .atomic
  | .fill _ _ => .atomic
  | .trip _ act => (match act.access with
    | .read => .readRequest
    | .write => .write
    | .atomic => .atomic
    | .execute => .atomic)
  | .post _ _ _ => .write
  | .gain _ => .atomic

/-- Whether the packets of a kind keep sequence order (R369). -/
def PacketKind.ordered : PacketKind → Bool
  | .readRequest => true
  | .write => true
  | .atomic => true
  | .data => false
  | .orderedFlag => false
  | .contribution => false
  | .readReply => false
  | .acknowledgement => false
  | .nackBusy => false
  | .gang => false
  | .preempt => false
  | .report => false
  | .shootdown => false
  | .reserved _ => false

/-- R327: the rail of a packet is hashed from the access's address; bulk packets, RFETCH's requests among them, take the shortest queue. -/
def PieceOp.hashed : PieceOp → Bool
  | .fetch _ _ => false
  | what => what.kind.ordered

/-- Pieces that run in the issuing core's own engine, whatever die their data lie on. -/
def PieceOp.isLocal : PieceOp → Bool
  | .topk _ _ => true
  | .cbcopy _ _ => true
  | .xsend _ _ _ => true
  | .publish _ => true
  | .revoke _ => true
  | .fill _ _ => true
  | .gain _ => true
  | .trip _ _ => false
  | .post _ _ _ => false
  | .write _ _ => false
  | .loads _ _ _ => false
  | .amo _ _ _ _ _ _ => false
  | .cas _ _ _ _ _ => false
  | .copy _ _ => false
  | .data _ _ => false
  | .flag _ _ _ => false
  | .block _ _ => false
  | .contrib _ _ _ _ _ _ _ _ => false
  | .slots _ => false
  | .engine _ => false
  | .fetch _ _ => false

/-- The packet of a piece (R364). -/
def packetOf (s : State) (p : Piece) : Packet :=
  let d := placeDie s p.place
  { kind := p.what.kind, dstPkg := d / 8, dstDie := d % 8, srcPkg := p.srcPkg, srcDie := p.srcDie, srcCore := p.srcCore, srcSlot := p.srcSlot,
    vi := p.vi, cls := 0, seq := p.seq, rail := p.rail, piece := p.id }

/-- R327: bulk packets take the healthy rail with the fewest packets waiting, the lowest on ties. -/
def shortestRail (s : State) (pkg die : Nat) : Nat :=
  let load := fun r => (s.wire.filter (fun (k : Packet) => k.srcPkg = pkg && k.srcDie = die && k.rail = r)).length
  let failed := (s.die (dieKey pkg die)).failed
  match [0, 1, 2, 3].filter (fun r => !failed.contains r) with
  | [] => 0
  | r :: rest => rest.foldl (fun best x => if load x < load best then x else best) r

/-- A packet goes on the wire. -/
def State.send (s : State) (k : Packet) : State := { s with wire := s.wire ++ [k] }

/-- An ordered channel of a core (R369): strand slot, destination die, rail. -/
def channelKey (slot die rail : Nat) : Nat := (slot * 2 ^ 25 + die) * 4 + rail

/-- A piece changed. -/
def onPiece (s : State) (id_ : Nat) (f : Piece → Piece) : State := { s with pieces := s.pieces.map (fun p => if p.id = id_ then f p else p) }

/-- The rail of a first transmission (R327, R366). In reduced service every die sends on rail 0 alone (R386). -/
def firstRail (s : State) (p : Piece) : Nat :=
  if (s.pkg p.srcPkg).stage = 3 then 0
  else if p.what.hashed then healthyRail (s.die (dieKey p.srcPkg p.srcDie)) (railOf p.place.va.toNat)
  else shortestRail s p.srcPkg p.srcDie

/-- R364, R369: the first transmission of a remote piece: it takes its rail and its sequence number. On a failed rail that no other replaces yet it
waits (R366). -/
def transmit (s : State) (p : Piece) : State :=
  let rail := firstRail s p
  let d := s.die (dieKey p.srcPkg p.srcDie)
  if d.failed.contains rail then onPiece s p.id (fun x => { x with unsent := true })
  else
    let ck := coreKey p.srcPkg p.srcDie p.srcCore
    let c := s.core ck
    let chan := channelKey p.srcSlot (placeDie s p.place) rail
    let ordered := p.what.kind.ordered
    let seq := if ordered then cellGet 0 c.seq chan else s.next
    let q : Piece := { p with rail := rail, seq := seq, sentAt := s.time, retries := 0, unsent := false, performed := none,
                              resync := ordered && c.resync.contains chan }
    let s1 := if ordered then
        s.setCore ck { c with seq := cellSet 0 c.seq chan ((seq + 1) % 2 ^ 24), resync := c.resync.filter (· ≠ chan) }
      else { s with next := s.next + 1 }
    (onPiece s1 p.id (fun _ => q)).send (packetOf s1 q)

/-- The extent hint of the instruction at the head of the queue, in words (R130). -/
def State.headHint (s : State) : Nat :=
  match s.cpu.queue.head?.bind (fun e => e.instr.ops?) with
  | some o => hintWords o.hint
  | none => 0

/-- A piece starts under a new number: performed later on its own die, or sent as a packet (R362, R369). -/
def startPiece (s : State) (p0 : Piece) : State :=
  let (id, s1) := s.fresh
  let p : Piece := { p0 with id := id, sentAt := s1.time,
                             remote := !p0.what.isLocal && placeDie s1 p0.place != dieKey p0.srcPkg p0.srcDie }
  let s2 : State := { s1 with pieces := s1.pieces ++ [p] }
  if p.remote then transmit s2 p else s2

/-- A piece of a strand's operation, before it starts. -/
def pieceFor (t : Strand) (op : Nat) (x : Place × PieceOp) : Piece :=
  { id := 0, op := op, tid := t.tid, lid := t.lid, cc := none, place := x.1, what := x.2, vi := t.vi, level := t.level, srcPkg := t.pkg, srcDie := t.die,
    srcCore := t.core, srcSlot := t.slot }

/-- A piece of the instruction at the head of the queue, or of a collective run, is issued. -/
def issueOne (s : State) (strand : Strand) (op : Nat) (cc : Option Nat) (inOrder : Bool) (counter : Option (Place × Nat))
    (x : Place × PieceOp) (run : Option Nat := none) (elem : Nat := 0) : State :=
  startPiece s { pieceFor strand op x with
    cc := cc, inOrder := inOrder, counter := counter, acquire := run.isNone && s.cpu.queue.head?.any QEntry.acquires, run := run,
    hint := if run.isNone then s.headHint else 0, elem := elem }

/-- The pieces of a scalar access are issued, numbered from 0. -/
def issueScalar (s : State) (op hint : Nat) (l : List (Place × PieceOp)) : State :=
  l.zipIdx.foldl (fun st x => startPiece st { pieceFor s.cpu op x.1 with hint := hint, elem := x.2 }) s

/-- A further piece of an operation in progress (R319). -/
def followOn (s : State) (p : Piece) (x : Place × PieceOp) : State :=
  startPiece s { p with place := x.1, what := x.2, unsent := false, reported := false, performed := none, busyAt := none, busySince := none, result := [], fault := none }

/-- The pieces of one operation. -/
def issueAll (op : Nat) (cc : Option Nat) (inOrder : Bool) (counter : Option (Place × Nat)) : State → List (Place × PieceOp) → State
  | s, [] => s
  | s, x :: rest => issueAll op cc inOrder counter (issueOne s s.cpu op cc inOrder counter x) rest

/-- R166: the cc is full, so the instruction waits. -/
def ccFull (s : State) (c : Nat) : Bool := decide (2 ^ 20 - 1 ≤ (s.cpu.readCC c).count)

/-! The queue's order at one word (R150, R151). -/

/-- Whether a vector piece writes its words or only reads them; engine pieces are ordered by fences alone. -/
def PieceOp.vectorWrites : PieceOp → Option Bool
  | .write _ _ => some true
  | .amo _ _ _ _ _ _ => some true
  | .cas _ _ _ _ _ => some true
  | .loads _ _ _ => some false
  | .copy _ _ => none
  | .data _ _ => none
  | .flag _ _ _ => none
  | .block _ _ => none
  | .contrib _ _ _ _ _ _ _ _ => none
  | .topk _ _ => none
  | .cbcopy _ _ => none
  | .xsend _ _ _ => none
  | .slots _ => none
  | .engine _ => none
  | .fetch _ _ => none
  | .publish _ => none
  | .revoke _ => none
  | .fill _ _ => none
  | .trip _ _ => none
  | .post _ _ _ => none
  | .gain _ => none

/-- The byte ranges of a vector piece: distance from its place, and count. -/
def PieceOp.spans : PieceOp → List (Nat × Nat)
  | .write bytes _ => [(0, bytes.length)]
  | .amo _ t _ _ _ _ => [(0, typeWidth t / 8)]
  | .cas t _ _ _ _ => [(0, typeWidth t / 8)]
  | .loads _ _ els => els.map (fun e => (e.2.1, e.2.2.2))
  | .copy _ _ => []
  | .data _ _ => []
  | .flag _ _ _ => []
  | .block _ _ => []
  | .contrib _ _ _ _ _ _ _ _ => []
  | .topk _ _ => []
  | .cbcopy _ _ => []
  | .xsend _ _ _ => []
  | .slots _ => []
  | .engine _ => []
  | .fetch _ _ => []
  | .publish _ => []
  | .revoke _ => []
  | .fill _ _ => []
  | .trip _ _ => []
  | .post _ _ _ => []
  | .gain _ => []

/-- Two byte ranges touch one 8-byte word. -/
def wordsMeet (a n b m : Nat) : Bool :=
  decide (1 ≤ n) && decide (1 ≤ m) && decide (a / 8 ≤ (b + m - 1) / 8) && decide (b / 8 ≤ (a + n - 1) / 8)

/-- Bytes at two places touch one word, by home or by address. -/
def placesMeet (p : Place) (n : Nat) (q : Place) (d m : Nat) : Bool :=
  (p.kind = q.kind && p.tid = q.tid && wordsMeet p.ha n (q.ha + d) m) || wordsMeet p.va.toNat n (q.va.toNat + d) m

/-- R150, R151: a non-blocking vector access that the strand issued earlier has not been performed yet, touches a word of the places, and writes
where this one writes, or only reads where this one only reads: this one waits in the queue (log entry 65). Between a write and a read R265 gives
no order. -/
def wordPending (s : State) (writes : Bool) (ps : List (Place × Nat)) : Bool :=
  s.pieces.any (fun q => q.tid = s.cpu.tid && q.performed != some .ok && q.what.vectorWrites == some writes
    && q.what.spans.any (fun x => ps.any (fun p => placesMeet p.1 p.2 q.place x.1 x.2)))

/-- The places that a blocking scalar store on its way writes. -/
def Piece.postPlaces (p : Piece) : List (Place × Nat) :=
  match p.what with
  | .post bytes _ more => (p.place, bytes.length - (more.map (·.2)).foldl (· + ·) 0) :: more
  | _ => []

/-- R150, R151, R154: a blocking scalar store of the strand to a word of the places is on its way and not accepted yet: a later scalar access to that word
waits for it, so that they keep program order whatever the packets meet. -/
def postPending (s : State) (ps : List (Place × Nat)) : Bool :=
  s.pieces.any (fun q => q.tid = s.cpu.tid && q.performed != some .ok && q.postPlaces.any (fun x => ps.any (fun p => placesMeet p.1 p.2 x.1 0 x.2)))

/-- The access kind writes. -/
def AccKind.writes : AccKind → Bool
  | .read => false
  | .execute => false
  | .write => true
  | .atomic => true

/-- R166: an instruction with NB = 1 leaves the queue: its cc counts it, and its pieces are issued. With no piece it ends at once. -/
def issueNb (s : State) (c : Nat) (inOrder : Bool) (counter : Option (Place × Nat)) (l : List (Place × PieceOp)) : State :=
  let (op, s1) := s.fresh
  if l.isEmpty then s1
  else
    issueAll op (some c) inOrder counter (s1.onCpu (fun t => t.writeCC c { t.readCC c with count := (t.readCC c).count + 1 })) l

/-! Blocking instructions that wait for their pieces (R120, R362, R368). -/

/-- The pieces of a blocking instruction at the head of the queue: it waits for them. Each has the number of its element, row or step. -/
def awaitPieces (s : State) (inOrder : Bool) (counter : Option (Place × Nat)) (l : List (Nat × Place × PieceOp)) : State :=
  let (op, s1) := s.fresh
  (l.foldl (fun st x => issueOne st st.cpu op none inOrder counter x.2 none x.1)
    (s1.onCpu (fun t => { t with queue := match t.queue with
                                          | [] => []
                                          | e :: rest => { e with op := op, fails := [], lost := [], got := [], gotInv := [], land := none, issued := l.map (·.1) } :: rest }))).park

/-- The head of the queue waits for its pieces. -/
def QEntry.awaits (e : QEntry) : Bool := e.op != 0 && !e.begun

/-- The lowest failure of some: element, cause, TVAL. -/
def lowestFail : List (Nat × Nat × Word) → Option (Nat × Nat × Word)
  | [] => none
  | x :: rest =>
    match lowestFail rest with
    | none => some x
    | some y => if x.1 ≤ y.1 then some x else some y

/-- A blocking instruction that waits for its pieces: it starts, it waits for the last of them, or it goes on with their failures. -/
def awaited (s : State) (start : State → Out) (done : List (Nat × Nat × Word) → State → Out) : Out :=
  match s.cpu.queue with
  | [] => start s
  | e :: rest =>
    if !e.awaits then start s
    else if s.pieces.any (fun p => p.op = e.op) then .next s.park
    else done e.fails (s.onCpu (fun t => { t with queue := { e with op := 0, fails := [] } :: rest }))

/-! Accesses to other dies (R120, R327, R362, R368). -/

/-- Bytes at a place are reached by packets: they lie on another die, and the requester's die does not hold them for a window. -/
def away (s : State) (w : Who) (p : Place) (n : Nat) : Bool := placeDie s p != dieKey w.pkg w.die && !windowHeld s w p n

/-- Some of the places are reached by packets. -/
def anyAway (s : State) (w : Who) (ps : List (Place × Nat)) : Bool := ps.any (fun x => away s w x.1 x.2)

/-- A blocking scalar load or atomic leaves as packets, and the strand waits for them. -/
def startTrip (s : State) (i : Instr) (va : Word) (hint : Nat) (l : List (Place × PieceOp)) : State :=
  let (op, s1) := s.fresh
  (issueScalar (s1.onCpu (fun t => { t with trip := some { pc := t.pc, instr := i, va := va, op := op } })) op hint l).park

/-- R398: a blocking scalar store leaves as one piece, which is written as a whole or not at all. -/
def postStore (s : State) (ea : Word) (hint : Nat) (ps : List (Place × Nat)) (bytes : List Byte) : State :=
  match ps with
  | [] => s
  | p :: more =>
    let (op, s1) := s.fresh
    issueScalar s1 op hint [(p.1, .post bytes ea more)]

/-- The bytes that a trip has brought, in order. -/
def Trip.bytes (x : Trip) : List Byte := (List.range x.got.length).flatMap (fun i => (x.got.lookup i).getD [])

/-- R254: a scalar access to another die: it starts, it waits, it traps precisely, or it completes with what it has brought. -/
def onTrip (s : State) (start : State → Out) (k : List Byte → State → State) : Out :=
  let s0 := s.onCpu (fun t => { t with trip := none })
  match s.cpu.trip.filter (fun x => x.pc = s.cpu.pc) with
  | none => start s
  | some x =>
    match x.fail with
    | some (c, t) => .next (scalarTrap s0 c t)
    | none => if s.pieces.any (fun p => p.op = x.op) then .next s.park else .next (k x.bytes s0)

/-- The strand waits for the packets of a scalar access. -/
def tripping (t : Strand) : Bool := t.trip.any (fun x => x.fail.isNone && x.pc = t.pc)

/-! Performing. -/

def Piece.who (p : Piece) : Who :=
  { vi := p.vi, pkg := p.srcPkg, die := p.srcDie, core := p.srcCore, level := p.level, tlb := none, tid := p.tid, hint := p.hint }

/-- What performing a piece answers: it has to wait, or it is performed, with its status; the piece carries what it brought back. -/
inductive Performed where
  | wait (s : State)
  | done (s : State) (st : Status) (p : Piece)

/-- The access kind of a piece at its place. -/
def PieceOp.access : PieceOp → AccKind
  | .loads _ _ _ => .read
  | .fetch _ _ => .read
  | .amo _ _ _ _ _ _ => .atomic
  | .cas _ _ _ _ _ => .atomic
  | .write _ _ => .write
  | .copy _ _ => .write
  | .data _ _ => .write
  | .flag _ _ _ => .write
  | .block _ _ => .write
  | .contrib _ _ _ _ _ _ _ _ => .write
  | .topk _ _ => .atomic
  | .cbcopy _ _ => .write
  | .xsend _ _ _ => .write
  | .slots _ => .write
  | .engine _ => .write
  | .publish _ => .write
  | .revoke _ => .write
  | .fill _ _ => .write
  | .trip _ act => act.access
  | .post _ _ _ => .write
  | .gain _ => .atomic

/-- R115: the request still carries the home's generation. -/
def placeFresh (s : State) (p : Place) : Bool := p.kind = .pg && genOf s p.tag = p.gen

/-- The place as it stands when the request arrives: PG memory under an unchanged generation keeps it; a stale one is translated again (R115),
and an on-chip map access is checked when it arrives (R31). An access of no byte has no page. -/
def arrive (s : State) (w : Who) (p : Place) (n : Nat) (k : AccKind) : Acc Place :=
  if n = 0 ∨ placeFresh s p then .ok p s else placeOf s w p.va n k

/-- The places of a list as they stand when the request arrives. -/
def arriveAll (w : Who) (k : AccKind) : State → List (Place × Nat) → Acc (List (Place × Nat))
  | s, [] => .ok [] s
  | s, (p, n) :: rest => (arrive s w p n k).andThen (fun q s1 => (arriveAll w k s1 rest).andThen (fun more s2 => .ok ((q, n) :: more) s2))

/-- R316: one active registration of the VI on the die covers all the bytes. -/
def registered (s : State) (die vi : Nat) (va : Word) (n : Nat) : Bool :=
  (s.die die).regs.any (fun r => r.2.vi = vi && !r.2.revoking && decide (r.2.base.toNat ≤ va.toNat)
    && decide (va.toNat + n ≤ r.2.base.toNat + r.2.bytes))

/-- R171: the stream of a source strand and VI. -/
def streamKey (pkg die core slot vi : Nat) : Nat := (((pkg * 8 + die) * 128 + core) * 4 + slot) * 1024 + vi

/-- R374: bytes of a stream have arrived from a launch's strand, performed or refused. -/
def streamAdd (s : State) (die key lid n : Nat) : State :=
  let d := s.die die
  s.setDie die { d with streams := cellPut d.streams key (cellGet 0 d.streams key + n), streamLids := cellPut d.streamLids key lid }

/-- R374: a committed flag takes the bytes it waited for from its stream's count; at 0 the entry is free. -/
def streamTake (s : State) (die key n : Nat) : State :=
  let d := s.die die
  s.setDie die { d with streams := cellSet 0 d.streams key (cellGet 0 d.streams key - n) }

/-- R169: an Eft unit adds arriving bytes to a byte counter: saturating at 2^40 - 1 with bit 63. -/
def counterGain (old n : Nat) : Nat :=
  let c := low 40 old + n
  if 2 ^ 40 - 1 < c then (old / 2 ^ 40 * 2 ^ 40 + (2 ^ 40 - 1)) ||| 2 ^ 63 else old / 2 ^ 40 * 2 ^ 40 + c

/-- R169: the addition at the counter's home. A spilled page holds it back as a piece of its own. Where the counter's page faults when it is translated
again, no rule names an effect, and nothing is added (log entry 78). -/
def addCounter (s : State) (w : Who) (p : Place) (n : Nat) : State :=
  match arrive s w p 8 .atomic with
  | .ok q s1 => (atomicPlace s1 { w with tlb := none } q 8 (fun old => some (leBytes 8 (counterGain (leNat old) n)))).1
  | .fault _ _ s1 => s1
  | .wait s1 =>
    startPiece s1 { id := 0, op := s1.next, tid := w.tid, cc := none, place := p, what := .gain n, vi := w.vi, level := w.level, srcPkg := w.pkg,
                    srcDie := w.die, srcCore := w.core, srcSlot := 0 }

/-- A place moved on by some bytes of its page. -/
def Place.add (p : Place) (n : Nat) : Place := { p with ha := p.ha + n, va := p.va + BitVec.ofNat 64 n }

/-- The elements of a load piece, read one by one: bytes in order, elements that failed, elements that touched an INV block. -/
def readElems (w : Who) (p : Place) : State → List (Nat × Nat × Nat × Nat) →
    List Byte × List (Nat × Nat × Nat × Nat) × List Nat × Bool × State
  | s, [] => ([], [], [], false, s)
  | s, (i, off, b, n) :: rest =>
    let (x, s1) := readPlace s w w.hint (p.add off) n
    let (bytes, els, invs, bad, s2) := readElems w p s1 rest
    if x.poison then (bytes, els, invs, true, s2)
    else (x.bytes ++ bytes, (i, off, b, n) :: els, (if x.inv then [i] else []) ++ invs, bad, s2)

/-- A write of bytes over the places of a virtual range, each translated again; used where a range leaves its first page. -/
def writeAt (s : State) (p : Piece) (k : WriteKind) (q : Place) (bytes : List Byte) (inv : Bool) : State × Status :=
  writePlace s p.who k q bytes inv

/-- R308: the bytes of an empty slot. -/
def emptySlot : List Byte := List.replicate 8 255 ++ List.replicate 8 0

/-- The bytes of a compressed block, from its place on (R320). -/
def blockSpan (t : Nat) (els : List (Nat × Nat)) : Nat := els.foldl (fun m e => max m (e.1 + typeWidth t / 8)) 1

/-- R320: the additions of a block, each an atomic at its home: the first failure's status, and the elements that are added. -/
def addBlock (w : Who) (t : Nat) (q : Place) : State → List (Nat × Nat) → State × Status × List (Nat × Nat)
  | s, [] => (s, .ok, [])
  | s, e :: rest =>
    let (s1, st, _) := atomicPlace s w (q.add e.1) (typeWidth t / 8) (amoBytes (if t < 8 then 1 else 7) t e.2)
    let (s2, later, done) := addBlock w t q s1 rest
    (s2, st.orElse later, if st = .ok then e :: done else done)

/-- The stream of a piece (R171). -/
def pieceStream (p : Piece) : Nat := streamKey p.srcPkg p.srcDie p.srcCore p.srcSlot p.vi

/-- R171, R317: the data bytes that S counts have arrived: they are performed, or refused at their home. -/
def countData (s : State) (p : Piece) : State :=
  match p.what with
  | .data bytes true => streamAdd s (placeDie s p.place) (pieceStream p) p.lid bytes.length
  | _ => s

/-- R200: a piece that a home refused as poisoned carries the address of the poisoned word. -/
def Piece.refusedAt (p : Piece) (s : State) (st : Status) (ps : List (Place × Nat)) : Piece :=
  if st = .ue then { p with fault := some (causeUeData, poisonVaIn s p.place.va ps) } else p

/-- R398, R254: the bytes of a scalar store over its piece's place and the pages beyond, all of them or none. -/
def storeWhole (s : State) (p : Piece) (q : Place) (bytes : List Byte) (more : List (Place × Nat)) : Performed :=
  match arriveAll p.who .write s more with
  | .wait s1 => .wait s1
  | .fault c t s1 => .done s1 .revoked { p with fault := some (c, t) }
  | .ok rest s1 =>
    let ps := (q, bytes.length - (more.map (·.2)).foldl (· + ·) 0) :: rest
    let (s2, st) := writeWhole p.who .store false s1 ps bytes
    .done s2 st (p.refusedAt s2 st ps)

/-- Pieces that need only their place: writes, reads, atomics, copies, data. -/
def performAt (s : State) (p : Piece) (q : Place) : Performed :=
  let w := p.who
  match p.what with
  | .write bytes inv =>
    -- 64 bytes are a whole block that a vector store writes with mq = 1: it becomes valid (R97)
    (let (s1, st) := writePlace s w .store q bytes inv
     .done (if st = .ok && !inv && bytes.length == 64 && q.kind == .pg then validateBlock s1 q.ha else s1) st p)
  | .loads r t els =>
    (let ps := els.map (fun e => (q.add e.2.1, e.2.2.2))
     let (bytes, els', invs, bad, s1) := readElems w q (requestFrames s w w.hint ps) els
     let q1 : Piece := { p with what := .loads r t els', result := bytes, invs := p.invs ++ invs }
     if bad then
       let x := (els.find? (fun e => placePoisoned s (q.add e.2.1) e.2.2.2)).getD (p.elem, 0, 0, 1)
       .done (forgetRead s1 p.tid ps) .ue { q1 with elem := x.1, request := some p.what, fault := some (causeUeData, poisonVa s (q.add x.2.1) x.2.2.2) }
     else .done (forgetRead s1 p.tid ps) .ok q1)
  | .amo op t v _ _ _ =>
    (let (s1, st, old) := atomicPlace s w q (typeWidth t / 8) (amoBytes op t v)
     .done s1 st { p with result := old })
  | .cas t expect new _ _ =>
    (let n := typeWidth t / 8
     let (s1, st, old) := atomicPlace s w q n (casBytes n expect new)
     .done s1 st { p with result := old })
  | .copy src dst =>
    match arriveAll w .read s src with
    | .wait s1 => .wait s1
    | .fault c t s1 => .done s1 .revoked { p with fault := some (c, t) }
    | .ok src' s1 =>
      match arriveAll w .write s1 dst with
      | .wait s2 => .wait s2
      | .fault c t s2 => .done s2 .revoked { p with fault := some (c, t) }
      | .ok dst' s2 =>
        match readPlaces w 0 0 s2 src' with
        | .wait s3 => .wait s3
        | .fault c t s3 => .done s3 (if c = causeTimeout then .timeout else .ue) { p with fault := some (c, t) }
        | .ok x s3 =>
          (let (s4, st) := writePlaces w .engine false s3 dst' x.bytes
           .done s4 st (p.refusedAt s4 st dst'))
  | .data bytes _ =>
    (let die := placeDie s q
     let s0 := countData s p
     if registered s0 die p.vi p.place.va bytes.length then
       let (s1, st) := writePlace s0 w .engine q bytes false
       .done s1 st p
     else .done s0 .revoked p)
  | .flag bytes _ more =>
    -- R171, R375: the flag has been accepted, and its stream has arrived
    match arriveAll w .write s more with
    | .wait s1 => .wait s1
    | .fault c t s1 => .done s1 .revoked { p with fault := some (c, t) }
    | .ok rest s1 =>
      (let ps := (q, bytes.length - (rest.map (·.2)).foldl (· + ·) 0) :: rest
       let (s2, st) := writePlaces w .engine false s1 ps bytes
       .done s2 st (p.refusedAt s2 st ps))
  | .block t els =>
    -- R316: one registration covers the whole packet, or it is refused
    if registered s (placeDie s q) p.vi p.place.va (blockSpan t els) then
      let (s1, st, done) := addBlock w t q s els
      .done s1 st ({ p with what := .block t done }.refusedAt s1 st (els.map (fun (e : Nat × Nat) => (q.add e.1, typeWidth t / 8))))
    else .done s .revoked p
  | .engine bytes =>
    (let (s1, st) := writePlace s w .engine q bytes false
     .done s1 st p)
  | .slots n =>
    (let (s1, st) := writePlace s w .engine q ((List.replicate n emptySlot).flatten) false
     .done s1 st p)
  | .fetch _ n =>
    -- the reply carries the bytes to their destination (R318)
    (let (x, s1) := readPlace s w 0 q n
     if x.poison then .done s1 .ue p else .done s1 .ok { p with result := x.bytes })
  | .contrib _ _ _ _ _ _ _ _ => .done s .abort p
  | .topk _ _ => .done s .abort p
  | .cbcopy _ _ => .done s .abort p
  | .xsend _ _ _ => .done s .abort p
  | .publish _ => .done s .abort p
  | .revoke _ => .done s .abort p
  | .fill _ _ => .done s .abort p
  | .trip n act =>
    match act with
    | .read =>
      (let (x, s1) := readPlace s w w.hint q n
       .done s1 (if x.poison then .ue else .ok) { p with result := x.bytes })
    | .put bytes more => storeWhole s p q bytes more
    | act =>
      (let (s1, st, old) := atomicPlace s w q n act.new
       .done s1 st { p with result := old })
  | .post bytes _ more => storeWhole s p q bytes more
  | .gain n =>
    (let (s1, st, _) := atomicPlace s w q 8 (fun old => some (leBytes 8 (counterGain (leNat old) n)))
     .done s1 st p)

/-- The bytes that a piece touches from its place on, for a check at arrival. -/
def PieceOp.span : PieceOp → Nat
  | .write bytes _ => bytes.length
  | .loads _ _ els => els.foldl (fun m e => max m (e.2.1 + e.2.2.2)) 1
  | .amo _ t _ _ _ _ => typeWidth t / 8
  | .cas t _ _ _ _ => typeWidth t / 8
  | .copy _ dst => (dst.headD ({ kind := .pg, ha := 0, va := 0 }, 1)).2
  | .data bytes _ => bytes.length
  | .flag bytes _ more => bytes.length - (more.map (·.2)).foldl (· + ·) 0
  | .block t els => blockSpan t els
  | .engine bytes => bytes.length
  | .contrib _ _ _ _ bytes _ _ _ => bytes.length
  | .topk _ _ => 1
  | .cbcopy _ _ => 1
  | .xsend _ _ _ => 1
  | .slots n => 16 * n
  | .fetch _ n => n
  | .publish _ => 1
  | .revoke _ => 1
  | .fill _ _ => 1
  | .trip n act => (match act with
    | .put bytes more => bytes.length - (more.map (·.2)).foldl (· + ·) 0
    | _ => n)
  | .post bytes _ more => bytes.length - (more.map (·.2)).foldl (· + ·) 0
  | .gain _ => 8

/-- R74, R360: the piece belongs to the step inside which its run stands: the last one issued, unless the run has come to a WAIT, where it stands at the step
boundary before that. -/
def ofCurrentStep (s : State) (t : Strand) (p : Piece) : Bool :=
  t.runs.any (fun r => p.run = some r.id && p.elem + 1 = r.step
    && !((runGraph s t r).bind (fun g => g.steps[r.step]?)).any (fun x => x.kind = 3))

/-- R360: the copy inside which a collective run stands stops while its strand is saved, between two engine steps; the steps before it carry on. -/
def stopsSaved (s : State) (p : Piece) : Bool :=
  match p.what with
  | .copy _ _ => s.saved.any (fun x => x.strand.tid = p.tid && ofCurrentStep s x.strand p)
  | _ => false

/-- A piece of the same operation before this one has not been performed, or a refusal of its generation sends it again. -/
def Piece.behind (p : Piece) (s : State) : Bool :=
  p.inOrder && s.pieces.any (fun q => q.op = p.op && decide (q.id < p.id)
    && (match q.performed with
        | none => true
        | some st => st = .stale || st = .busy))

/-- Perform a piece at its home. A retranslation that faults ends it as revoked (R166, R266). A piece that keeps the order of its operation waits
for the pieces before it (R143, R312); an element of a vector store, scatter or atomic to an HS page is not performed where one before it has failed, so
that no host read sees it before that one (R143; log entry 26). -/
def performPiece (s : State) (p : Piece) : Performed :=
  if stopsSaved s p || p.behind s then .wait s
  else if p.inOrder && p.spoiled && p.what.vectorWrites == some true then
    .done s (if p.cc.isSome then .ok else .revoked) { p with what := .write [] false, fault := some (causeRevoked, p.place.va) }
  else
    match arrive s p.who p.place p.what.span p.what.access with
    | .wait s1 => .wait s1
    | .fault c t s1 => .done (countData s1 p) .revoked { p with fault := some (c, t) }
    | .ok q s1 => performAt s1 p q

/-! Ending. -/

/-- Element `i` of vn receives bytes `b` to `b + k - 1` of a value of type `t`. -/
def putElem (u : Strand) (r t i b : Nat) (bytes : List Byte) : Strand :=
  let w := typeWidth t
  let old := low w (u.readV r i)
  let k := bytes.length
  let mid := old / 2 ^ (8 * b) % 2 ^ (8 * k)
  let x := old - mid * 2 ^ (8 * b) + leNat bytes * 2 ^ (8 * b)
  u.writeV r i (extendV u.ew t x)

/-- A part of a loaded element: the element, its first byte, its bytes. -/
abbrev ElemPart := Nat × Nat × List Byte

/-- The parts of elements that some bytes are. -/
def cutParts : List (Nat × Nat × Nat × Nat) → List Byte → List ElemPart
  | [], _ => []
  | (i, _, b, n) :: rest, bytes => (i, b, bytes.take n) :: cutParts rest (bytes.drop n)

/-- The parts that a piece of a load holds when it ends: those it has read, and those that other pieces of its operation have brought. -/
def Piece.parts (p : Piece) : List ElemPart :=
  match p.what with
  | .loads _ _ els => cutParts els p.result ++ p.carry
  | _ => []

/-- R266: the parts of an element make up the whole of it. -/
def partsWhole (t : Nat) (l : List ElemPart) (i : Nat) : Bool :=
  ((l.filter (fun x => x.1 = i)).map (fun x => x.2.2.length)).foldl (· + ·) 0 == typeWidth t / 8

/-- R266: the loaded elements that are whole arrive, each at once. -/
def putParts (u : Strand) (r t : Nat) (l : List ElemPart) : Strand :=
  (l.filter (fun x => partsWhole t l x.1)).foldl (fun u x => putElem u r t x.1 x.2.1 x.2.2) u

/-- R97: elements whose bytes touched an INV block are marked in mq. -/
def markInv (u : Strand) (l : List Nat) : Strand := l.foldl (fun u i => u.writeM 8 i false) u

/-- What a piece has read is written: it was read, wholly or but for poisoned elements (R166). -/
def Status.brings (st : Status) : Bool := st = .ok || st = .ue

/-- The strand's trip, if the piece is one of its own, changed. -/
def onTripOf (p : Piece) (f : Trip → Trip) (u : Strand) : Strand :=
  { u with trip := u.trip.map (fun x => if x.op = p.op then f x else x) }

/-- A piece of a trip brings its bytes. -/
def bringTrip (p : Piece) : Strand → Strand := onTripOf p (fun x => { x with got := x.got ++ [(p.elem, p.result)] })

/-- The head of the queue, if it waits for the piece, changed. -/
def onHeadOf (p : Piece) (f : QEntry → QEntry) (u : Strand) : Strand :=
  match u.queue with
  | [] => u
  | e :: rest => if e.awaits && e.op == p.op then { u with queue := f e :: rest } else u

/-- R263: what a piece of a blocking load has read waits at the head of the queue: no element at or above the lowest failing one is written. -/
def bringLoad (p : Piece) (els : List (Nat × Nat × Nat × Nat)) : Strand → Strand :=
  onHeadOf p (fun e => { e with got := e.got ++ cutParts els p.result, gotInv := e.gotInv ++ p.invs })

/-- A piece of an atomic at the head of the queue brings its old bytes. -/
def bringHead (p : Piece) : Strand → Strand := onHeadOf p (fun e => { e with got := e.got ++ [(p.elem, 0, p.result)] })

/-- R304, R320: a blocking CSEND at the head of the queue learns which elements of a packet have been added: they are not sent again. -/
def bringBlock (p : Piece) (t : Nat) (els : List (Nat × Nat)) : Strand → Strand :=
  onHeadOf p (fun e => { e with got := e.got ++ els.map (fun x => (p.elem + x.1 / (typeWidth t / 8), 0, [])) })

/-- What an ended piece writes into its strand. Failed elements are unchanged (R166). -/
def applyPiece (p : Piece) (st : Status) (u : Strand) : Strand :=
  match p.what with
  | .loads r t els => if p.cc.isNone then (if st.brings then bringLoad p els u else u) else if st.brings then markInv (putParts u r t p.parts) (p.invs.filter (partsWhole t p.parts)) else u
  | .amo _ t _ ret r i => if ret && st = .ok then putElem u r t i 0 p.result else u
  | .cas t _ _ r i => if st = .ok then putElem u r t i 0 p.result else u
  | .write _ _ => u
  | .copy _ _ => u
  | .data _ _ => u
  | .flag _ _ _ => u
  | .block t els => if st = .ok ∨ st = .ue then bringBlock p t els u else u
  | .contrib _ _ _ _ _ _ _ _ => u
  | .topk _ _ => u
  | .cbcopy _ _ => u
  | .xsend _ _ _ => u
  | .slots _ => u
  | .engine _ => u
  | .fetch _ _ => u
  | .publish _ => u
  | .revoke _ => u
  | .fill _ _ => u
  | .trip _ _ => if st = .ok then bringHead p (bringTrip p u) else u
  | .post _ _ _ => u
  | .gain _ => u

/-- The piece loads bytes of an element. -/
def Piece.loadsElem (p : Piece) (i : Nat) : Bool :=
  match p.what with
  | .loads _ _ els => els.any (fun e => e.1 = i)
  | _ => false

/-- R266: the parts of elements that a piece has brought, and that are not whole, wait with the piece that brings the rest. -/
def handOn (p : Piece) (st : Status) (l : List Piece) : List Piece :=
  match p.what with
  | .loads _ t _ =>
    if !st.brings then l
    else
      let left := p.parts.filter (fun x => !partsWhole t p.parts x.1)
      l.map (fun q => if q.op = p.op then { q with carry := q.carry ++ left.filter (fun x => q.loadsElem x.1),
                                                   invs := q.invs ++ p.invs.filter (fun i => left.any (fun x => x.1 = i) && q.loadsElem i) } else q)
  | _ => l

/-- R166: the error bit that a failure sets. -/
def ccFail (c : CC) : Status → CC
  | .ok => c
  | .timeout => { c with timeout := true }
  | .busy => { c with timeout := true }
  | .ue => { c with ue := true }
  | .stale => { c with revoked := true }
  | .revoked => { c with revoked := true }
  | .windowWrite => { c with revoked := true }
  | .abort => { c with revoked := true }
  | .prot => { c with revoked := true }

/-- R323: the status code of a run for a failed piece; the larger code stands. -/
def runFail (st : Status) : Nat :=
  match st with
  | .ok => 0
  | .timeout => 1
  | .busy => 1
  | .ue => 3
  | .abort => 4
  | .stale => 2
  | .revoked => 2
  | .windowWrite => 2
  | .prot => 2

/-- R97: the piece writes a whole block of a decoded window, for a vector store with mq = 1. -/
def Piece.wholeBlock (p : Piece) : Bool :=
  match p.what with
  | .write bytes inv => !inv && bytes.length == 64
  | _ => false

/-- R120, R166: the blocking instruction that waits for a piece learns of its failure. -/
def failHead (p : Piece) (x : Nat × Word) : Strand → Strand :=
  onHeadOf p (fun e => { e with fails := e.fails ++ [(p.elem, x)], lost := if p.wholeBlock then e.lost ++ [p.place.va.toNat / 64] else e.lost })

/-- R254, R200: a scalar access learns of a piece's failure: TVAL is the access's address, or the poisoned word's. -/
def failTrip (p : Piece) (x : Nat × Word) : Strand → Strand :=
  onTripOf p (fun y => { y with fail := some (y.fail.getD (x.1,
    if x.1 = causeUeData then x.2 else if x.1 = causePageNp then y.va ||| (x.2 &&& (1 <<< 63)) else y.va)) })

/-- A piece that no counter counts fails: the instruction that waits for it learns of it, and a store that has committed leaves its deferred trap (R398). -/
def failBlocking (p : Piece) (x : Nat × Word) (u : Strand) : Strand :=
  match p.what with
  | .trip _ _ => failTrip p x (failHead p x u)
  | .post _ ea _ => if p.reported then u else { u with deferred := u.deferred ++ [(BitVec.ofNat 8 x.1, ea)] }
  | _ => failHead p x u

/-- R166, R271: the strand's books when a piece ends: the error bit, and the count once the operation's last piece has ended. An abort
acknowledgement ends its run (R360). -/
def bookPiece (p : Piece) (st : Status) (last : Bool) (u : Strand) : Strand :=
  let u1 : Strand := match p.cc with
    | none => if st = .ok then u else failBlocking p (p.fault.getD (st.cause, p.place.va)) u
    | some c =>
      let x := ccFail (u.readCC c) st
      u.writeCC c (if last then { x with count := x.count - 1 } else x)
  { u1 with runs := u1.runs.map (fun r =>
      if p.run = some r.id then { r with status := if st = .abort then 4 else max r.status (runFail st), step := if st = .abort then 256 else r.step } else r) }

/-- What an ended piece does to its strand. -/
def endInto (p : Piece) (st : Status) (last : Bool) (u : Strand) : Strand := bookPiece p st last (applyPiece p st u)

/-- R344: a held load whose replies have all arrived in its image completes there, and leaves the image's queue. -/
def landLoad (p : Piece) (u : Strand) : Strand :=
  match u.queue with
  | [] => u
  | e :: _ =>
    match e.land with
    | none => u
    | some (r, t) => if e.awaits && e.op == p.op && e.fails.isEmpty then (markInv (putParts u r t e.got) e.gotInv).retire else u

/-- R168, R344: a piece ends into its strand on its core, or into the saved image; a lost image discards it (R361). -/
def endAtTask (s : State) (p : Piece) (st : Status) (last : Bool) : State :=
  if s.strands.any (fun t => t.tid = p.tid) then s.onTask p.tid (endInto p st last)
  else onSaved s p.tid (fun u => (if last then landLoad p else id) (endInto p st last u))

/-- R318: the bytes that a reply brings are written to their destination on the strand's own die. A spilled page holds them back. A retranslation of the
destination that faults, or a poisoned word of it, fails the piece with that cause (R303, R200). -/
def deliver (s : State) (p : Piece) (st : Status) : Acc (Status × Piece) :=
  match p.what with
  | .fetch dst n =>
    if st ≠ .ok then .ok (st, p) s
    else
      match arrive s p.who dst n .write with
      | .wait s1 => .wait s1
      | .fault c t s1 => .ok (.revoked, { p with fault := some (c, t) }) s1
      | .ok d s1 => (let (s2, st2) := writePlace s1 p.who .engine d p.result false
                     .ok (st2, p.refusedAt s2 st2 [(d, n)]) s2)
  | _ => .ok (st, p) s

/-- R393: a piece that met a poisoned word leaves a record in the error log of the word's package. The spec names no moment for the kind `consumed`: the model
logs it for pieces and for host reads (DESIGN CHOICE, log entry 79). -/
def logConsumed (s : State) (p : Piece) (st : Status) : State :=
  if st = .ue then
    let d := placeDie s p.place
    pushLog s (d / 8) { time := 0, kind := .consumed, die := d % 8, unit := if p.place.kind = .pg then haChan p.place.ha else haCore p.place.ha,
                        addr := p.place.va.toNat, vi := some p.vi }
  else s

/-- R318: the counter of an RFETCH gains after the last byte of the operation is written. -/
def fetchCounted (s : State) (p : Piece) (st : Status) (last : Bool) : State :=
  match p.what, p.counter with
  | .fetch _ _, some (c, n) => if last && st = .ok && !p.spoiled then addCounter s p.who c n else s
  | _, _ => s

/-- R166: a piece whose data have arrived ends with a status: its strand takes what it brought, and its operation is counted. -/
def closePiece (s : State) (q : Piece) (st : Status) : State :=
  let p := if st = .ok then q else { q with fault := some (q.fault.getD (st.cause, failTval s st q.place q.what.span q.place.va)) }
  let s1 : State := { s with pieces := handOn p st ((s.pieces.filter (fun q => q.id ≠ p.id)).map
                               (fun q => if q.op = p.op ∧ st ≠ .ok then { q with spoiled := true, reported := true } else q)) }
  let last := !(s1.pieces.any (fun q => q.op = p.op))
  fetchCounted (endAtTask s1 p st last) p st last

/-- R166: a piece ends with a status. -/
def endPiece (s : State) (p : Piece) (st : Status) : State :=
  match deliver s p st with
  | .ok (st1, q) s1 => closePiece (logConsumed s1 q st1) q st1
  | .fault _ _ s1 => s1
  | .wait s1 => s1

/-- R169, R316: after a piece has been performed at its home: a failure spoils its operation; with the last byte of an operation that has met no
failure the Eft unit adds its count to the byte counter. -/
def afterPerform (s : State) (p : Piece) (st : Status) : State :=
  if st ≠ .ok then { s with pieces := s.pieces.map (fun q => if q.op = p.op then { q with spoiled := true } else q) }
  else
    match p.counter, p.what with
    | none, _ => s
    | some _, .fetch _ _ => s
    | some (c, n), _ =>
      let others := s.pieces.filter (fun q => q.op = p.op && q.id != p.id)
      if !p.spoiled && others.all (fun q => q.performed == some .ok) then addCounter s p.who c n else s

/-- R166: a piece on its own die is performed and ends; a piece that waits stays. -/
def runPiece (s : State) (p : Piece) : State :=
  match performPiece s p with
  | .wait s1 => s1
  | .done s1 st q => endPiece (afterPerform s1 q st) q st

/-- The pieces of the current strand. -/
def myPieces (s : State) : List Piece := s.pieces.filter (fun p => p.tid = s.cpu.tid)

end Sys2Proof.Machine
end

