-- ==== Sys2Proof/Machine/ScalarMemory.lean ====
section
/-! DEFINITION. Scalar loads, stores and atomics, bindings, acquire, release and fences (spec/17_vecmem.md R251 to R261, R398,
spec/09_consistency.md R154 to R164). -/

namespace Sys2Proof.Machine

/-- The bytes of an access of type `t` (R251). -/
def accessBytes (t : Nat) : Nat := typeWidth t / 8

/-- R251: base + offset. The offset is the 64-bit value of operand B whatever the access's type: R213 and R251 leave open whether an immediate, literal or
constant-bank offset of a narrower type is cut to its width (DESIGN CHOICE, log entry 77). -/
def eaOffset (o : Ops) (s : State) : Word := s.cpu.readG o.A + s.opB o.b
/-- R251: scaled index. -/
def eaScaled (o : Ops) (s : State) : Word := s.cpu.readG o.A + (s.cpu.readG o.B <<< Nat.log2 (accessBytes o.T))
/-- R251: base + offset of a queued store, as captured (R253). -/
def eaOffsetQueued (o : Ops) (s : State) : Word := s.srcG o.A + s.srcB o.b
/-- R251: scaled index of a queued store. -/
def eaScaledQueued (o : Ops) (s : State) : Word := s.srcG o.A + (s.srcG o.B <<< Nat.log2 (accessBytes o.T))

/-- The places of a scalar access whose bytes packets must reach, or that meets a store still on its way, and the machine after its translation; none for an
access that its own die performs at once. -/
def awaySpan (s : State) (va : Word) (n : Nat) (k : AccKind) : Option (List (Place × Nat) × State) :=
  match placesOf s (s.who .scalar) va n k with
  | .ok ps s1 => if anyAway s1 (s.who .scalar) ps || postPending s1 ps then some (ps, s1) else none
  | .fault _ _ _ => none
  | .wait _ => none

/-- R254, R327: the bytes of a blocking scalar load, from the scalar L1 and the homes of the strand's own die, or by packets. -/
def loadFrom (i : Instr) (s : State) (ea : Word) (n hint : Nat) (k : List Byte → State → State) : Out :=
  onTrip s (fun s =>
    match awaySpan s ea n .read with
    | some (ps, s1) => if postPending s1 ps then .next s1.park else .next (startTrip s1 i ea hint (ps.map (fun x => (x.1, .trip x.2 .read))))
    | none => scalarAcc (loadMem s (s.who .scalar) ea n hint) k) k

/-- R256, R327: a blocking scalar atomic, at a home of the strand's own die, or by a packet. -/
def atomicFrom (i : Instr) (s : State) (va : Word) (n : Nat) (act : TripAct) (k : List Byte → State → State) : Out :=
  onTrip s (fun s =>
    match awaySpan s va n .atomic with
    | some (ps, s1) => if postPending s1 ps then .next s1.park else .next (startTrip s1 i va 0 (ps.map (fun x => (x.1, .trip n act))))
    | none => scalarAcc (atomicMem s (s.who .scalar) va n act.new) k) k

/-- R254: a scalar load from `ea` into G[D]. -/
def loadScalar (i : Instr) (o : Ops) (s : State) (ea : Word) : Out :=
  loadFrom i s ea (accessBytes o.T) (hintWords o.hint) (fun bytes s1 => s1.commit o.bytes (fun t => t.writeG o.D (extendG o.T (leNat bytes))))

/-- R115: the scalar TLB holds a translation of the page that permits a write and whose generation the home has left behind: a request made with it is
refused STALE. -/
def staleEntry (s : State) (va : Word) : Bool :=
  bitsOf va.toNat 63 62 == 0 && (s.core s.myCore).tlbs.any (fun e => tlbMatches e .scalar s.cpu.vi (va.toNat / 65536) && decide (s.time < e.since + 1000000)
    && leafPermits e.leaf .write s.cpu.level
    && genOf s (tagOf e.pkg (bitsOf va.toNat 39 37) (bitsOf va.toNat 36 33) (low 33 va.toNat) e.leaf.big) != e.leaf.gen)

/-- R398: the page of an access whose translation faults was translated before, and its request is refused STALE: the fault is that of the
retranslation. -/
def faultsStale (s : State) (ea : Word) (n : Nat) : Bool :=
  match (partsOf ea n).find? (fun x => match placeOf s (s.who .scalar) x.1 x.2 .write with
    | .fault _ _ _ => true
    | .ok _ _ => false
    | .wait _ => false) with
  | some x => staleEntry s x.1
  | none => false

/-- R398: a failure of a blocking store is kept for its deferred trap. -/
def deferFailure (ea : Word) (cause : Nat) (s : State) : State :=
  s.onCpu (fun t => { t with deferred := t.deferred ++ [(BitVec.ofNat 8 cause, ea)] })

/-- R398: a blocking store whose write is refused leaves a failure to report. -/
def noteFailure (ea : Word) : State × Status → State
  | (s, .ok) => s
  | (s, st) => deferFailure ea st.cause s

/-- R254, R398: a blocking scalar store of G[D] to `ea`. -/
def storeScalar (o : Ops) (s : State) (ea : Word) (release : Bool) : Out :=
  let n := accessBytes o.T
  let w : Who := { s.who .scalar with hint := hintWords o.hint }
  afterQueue release s
    (match placesOf s w ea n .write with
     | .fault c t s1 => if faultsStale s ea n then .next ((deferFailure ea c s1).commit o.bytes id) else .next (scalarTrap s1 c t)
     | .wait s1 => .next s1.park
     | .ok ps s1 =>
       if postPending s1 ps then .next s1.park
       else if anyAway s1 w ps then .next ((postStore s1 ea w.hint ps (leBytes n (s.cpu.readG o.D).toNat)).commit o.bytes id)
       else .next ((noteFailure ea (writeWhole w .store false s1 ps (leBytes n (s.cpu.readG o.D).toNat))).commit o.bytes id))

/-- R253, R254: STREL commits when it completes: its write is performed at once, or by a packet that the strand waits for, and a failure traps precisely. -/
def storeRelease (i : Instr) (o : Ops) (s : State) (ea : Word) : Out :=
  let n := accessBytes o.T
  let w : Who := { s.who .scalar with hint := hintWords o.hint }
  onTrip s (fun s => afterQueue true s
    (let bytes := leBytes n (s.cpu.readG o.D).toNat
     match placesOf s w ea n .write with
     | .fault c t s1 => .next (scalarTrap s1 c t)
     | .wait s1 => .next s1.park
     | .ok ps s1 =>
       if anyAway s1 w ps then
         match ps with
         | [] => .next (s1.commit o.bytes id)
         | p :: more => .next (startTrip s1 i ea w.hint [(p.1, .trip n (.put bytes more))])
       else
         match writeWhole w .store false s1 ps bytes with
         | (s2, .ok) => .next (s2.commit o.bytes id)
         | (s2, st) => .next (scalarTrap s2 st.cause (writeTval s2 st ps ea))))
    (fun _ s1 => s1.commit o.bytes id)

/-- The pieces of one write over places: at most 8 bytes each, inside one word (R121). -/
def wordPieces : Nat → Place → List Byte → Bool → List (Place × PieceOp)
  | 0, _, _, _ => []
  | fuel + 1, p, bytes, inv =>
    match bytes with
    | [] => []
    | _ =>
      let k := min (8 - p.ha % 8) bytes.length
      (p, .write (bytes.take k) inv) :: wordPieces fuel (p.add k) (bytes.drop k) inv

/-- The pieces of a write of bytes over places in order. -/
def writePieces (inv : Bool) : List (Place × Nat) → List Byte → List (Place × PieceOp)
  | [], _ => []
  | (p, n) :: rest, bytes => wordPieces (n + 1) p (bytes.take n) inv ++ writePieces inv rest (bytes.drop n)

/-- Some place lies on a host-shared page. -/
def anyHs (l : List (Place × Nat)) : Bool := l.any (fun x => x.1.hs)

/-- R253, R254: a non-blocking scalar store at the head of the queue. -/
def storeNb (o : Ops) (s : State) (ea : Word) : Out :=
  afterPosts o.releases s
    (if ccFull s o.ccNo then .next s.park
     else
       queuedAcc (placesOf s (s.who .scalar) ea (accessBytes o.T) .write)
         (fun ps s1 =>
           if wordPending s1 true ps then s1.park
           else (issueNb s1 o.ccNo (anyHs ps) none (writePieces false ps (leBytes (accessBytes o.T) (s.srcG o.D).toNat))).retireKeep id))

/-- LD (R254). -/
def execLd (o : Ops) (s : State) : Out := loadScalar (.ld o) o s (eaOffset o s)
/-- LDX (R254). -/
def execLdx (o : Ops) (s : State) : Out := loadScalar (.ldx o) o s (eaScaled o s)
/-- LDACQ (R254): later accesses are performed later in any case. -/
def execLdacq (o : Ops) (s : State) : Out := loadScalar (.ldacq o) o s (eaOffset o s)
/-- ST (R254, R253, R398). -/
def execSt (o : Ops) (s : State) : Out :=
  if o.nb then storeNb o s (eaOffsetQueued o s) else storeScalar o s (eaOffset o s) o.releases
/-- STX (R254). -/
def execStx (o : Ops) (s : State) : Out :=
  if o.nb then storeNb o s (eaScaledQueued o s) else storeScalar o s (eaScaled o s) o.releases
/-- STREL (R254). -/
def execStrel (o : Ops) (s : State) : Out := storeRelease (.strel o) o s (eaOffset o s)

/-- LDK (R254): N = 4 D + C. -/
def execLdk (o : Ops) (s : State) : Out :=
  loadFrom (.ldk o) s (eaOffset o s) 8 (hintWords o.hint)
    (fun bytes s1 => s1.commit o.bytes (fun t => t.writeK (4 * o.D + o.C) (BitVec.ofNat 64 (leNat bytes))))

/-- R255: the lines of a run fetched into the scalar L1. -/
def prefetchLines (w : Who) (p : Place) : State → List (Nat × Nat) → State
  | s, [] => s
  | s, (ha, n) :: rest => prefetchLines w p (l1Line s w p ha n 0).2 rest

/-- PREF (R255): the run of the extent hint, or one word; dropped where the address faults or the L1 may not hold it. -/
def execPref (o : Ops) (s : State) : Out :=
  let size := 8 * max 1 (hintWords o.hint)
  let ea := BitVec.ofNat 64 ((eaOffset o s).toNat / size * size)
  match placeOf s (s.who .scalar) ea size .read with
  | .ok p s1 =>
    if l1May (s.who .scalar) p then .next ((prefetchLines (s.who .scalar) p s1 (lineParts (size + 1) p.ha size)).commit o.bytes id)
    else .next (s1.commit o.bytes id)
  | .fault _ _ _ => .next (s.commit o.bytes id)
  | .wait _ => .next (s.commit o.bytes id)

/-! Atomics. -/

/-- Operand b of an atomic at its type's width, with its ABN (R256, R181). -/
def atomicB (g k : Nat → Word) (o : Ops) : Nat × Option Nat :=
  if 8 ≤ o.T then operandFp g k o.T o.b else (low (typeWidth o.T) (operandWord g k o.b).toNat, none)

/-- R256, R106: the ABN that a floating atomic traps on. -/
def amoAbn (op : Nat) (b : Nat × Option Nat) : Option Nat := if 7 ≤ op then b.2 else none

/-- R256: ALIGN unless the address is aligned to the access. -/
def misaligned (va : Word) (n : Nat) : Bool := va.toNat % n != 0

/-- AMO (R256). -/
def execAmo (o : Ops) (s : State) : Out :=
  let n := accessBytes o.T
  if o.nb then
    let va := s.srcG o.A
    let b := atomicB s.srcG s.srcK o
    match amoAbn o.C b with
    | some x => .next (queuedTrap s causeAbn (BitVec.ofNat 64 x))
    | none =>
      if misaligned va n then .next (queuedTrap s causeAlign va)
      else
        afterPosts o.releases s
          (if ccFull s o.ccNo then .next s.park
           else
             queuedAcc (placeOf s (s.who .scalar) va n .atomic)
               (fun p s1 =>
                 if wordPending s1 true [(p, n)] then s1.park
                 else (issueNb s1 o.ccNo p.hs none [(p, .amo o.C o.T b.1 false 0 0)]).retireKeep id))
  else
    let va := s.cpu.readG o.A
    let b := atomicB s.cpu.readG s.cpu.readK o
    match amoAbn o.C b with
    | some x => .next (scalarTrap s causeAbn (BitVec.ofNat 64 x))
    | none =>
      if misaligned va n then .next (scalarTrap s causeAlign va)
      else
        afterQueue o.releases s
          (atomicFrom (.amo o) s va n (.amo o.C o.T b.1)
            (fun old s1 => s1.commit o.bytes (fun t => t.writeG o.D (extendG o.T (leNat old)))))

/-- CAS (R257). -/
def execCas (o : Ops) (s : State) : Out :=
  let n := accessBytes o.T
  let va := s.cpu.readG o.A
  let b := (atomicB s.cpu.readG s.cpu.readK o).1
  if misaligned va n then .next (scalarTrap s causeAlign va)
  else
    afterQueue o.releases s
      (atomicFrom (.cas o) s va n (.cas n b (s.cpu.readG o.C).toNat)
        (fun old s1 => s1.commit o.bytes (fun t => t.writeG o.D (extendG o.T (leNat old)))))

/-- R258: the words of an even-odd register pair as one value. -/
def pairValue (t : Strand) (n : Nat) : Nat := (t.readG n).toNat + (t.readG (n + 1)).toNat * 2 ^ 64

/-- CAS2 (R258). -/
def execCas2 (o : Ops) (s : State) : Out :=
  let va := s.cpu.readG o.A
  if va.toNat % 8 ≠ 0 ∨ 240 < va.toNat % 256 then .next (scalarTrap s causeAlign va)
  else
    afterQueue o.releases s
      (atomicFrom (.cas2 o) s va 16 (.cas 16 (pairValue s.cpu o.B) (pairValue s.cpu o.C))
        (fun old s1 => s1.commit o.bytes (fun t =>
          (t.writeG o.D (BitVec.ofNat 64 (leNat (old.take 8)))).writeG (o.D + 1) (BitVec.ofNat 64 (leNat (old.drop 8))))))

/-! Bindings. -/

/-- R159, R29, R30: `n` bytes at an address lie in one core's scratchpad. -/
def inScratchpad (x n : Nat) : Bool :=
  bitsOf x 63 62 == 2 && bitsOf x 61 56 == 0 && decide (bitsOf x 30 24 < 80) && decide (low 24 x + n ≤ 0x80000)

/-- R159: `n` bytes at an address may belong to a region: PG, or on-chip scratchpad. -/
def bindable (x n : Nat) : Bool := bitsOf x 63 62 == 0 || inScratchpad x n

/-- R159: the lowest and the highest byte of a region. -/
def regionBounds (b : Binding) : Int × Int :=
  let last := (b.base.toNat : Int) + ((b.count : Int) - 1) * b.stride.toInt
  (min (b.base.toNat : Int) last, max (b.base.toNat : Int) last + (b.width : Int) - 1)

/-- R159: every element of a region that spans cores lies in a scratchpad. Scratchpads lie further apart than 2^23 bytes, so a smaller stride meets the
gap between two of them. -/
def scratchElems (b : Binding) : Bool :=
  decide (2 ^ 23 ≤ b.stride.toInt.natAbs) && decide (b.count ≤ 256)
  && (List.range b.count).all (fun (k : Nat) => inScratchpad ((b.base.toNat : Int) + (k : Int) * b.stride.toInt).toNat b.width)

/-- R159: the legal values of a descriptor. -/
def bindingOk (b : Binding) : Bool :=
  let (lo, hi) := regionBounds b
  let unit := fun (x : Nat) => if bitsOf x 63 62 == 0 then x / 2 ^ 33 else x / 2 ^ 31
  decide (1 ≤ b.count) && decide (1 ≤ b.width) && decide (b.width ≤ 2 ^ 31) && b.sync.toNat % 8 == 0 && bindable b.sync.toNat 8
  && decide (0 ≤ lo) && decide (hi < ((2 ^ 64 : Nat) : Int)) && bindable b.base.toNat b.width && bindable lo.toNat b.width
  && unit lo.toNat == unit hi.toNat
  && (bitsOf b.base.toNat 63 62 == 0 || lo.toNat / 2 ^ 24 == hi.toNat / 2 ^ 24 && inScratchpad lo.toNat (hi.toNat + 1 - lo.toNat) || scratchElems b)

/-- R159: a descriptor from its 32 bytes. -/
def bindingOf (bytes : List Byte) : Binding :=
  let word := fun (i n : Nat) => leNat ((bytes.drop i).take n)
  { base := BitVec.ofNat 64 (word 0 8), stride := BitVec.ofNat 64 (word 8 8), count := word 16 4, width := word 20 4,
    sync := BitVec.ofNat 64 (word 24 8) }

/-- BIND (R259, R159). -/
def execBind (o : Ops) (s : State) : Out :=
  let ea := eaOffset o s
  if misaligned ea 8 then .next (scalarTrap s causeAlign ea)
  else
    loadFrom (.bind o) s ea 32 (hintWords o.hint)
      (fun bytes s1 =>
        if bindingOk (bindingOf bytes) then s1.commit o.bytes (fun t => t.writeBnd o.D (some (bindingOf bytes)))
        else scalarTrap s1 causeAlign ea)

/-- UNBIND (R259). -/
def execUnbind (o : Ops) (s : State) : Out := .next (s.commit o.bytes (fun t => t.writeBnd o.D none))

/-- R159: whether bytes `x` to `x + n - 1` meet the region. -/
def regionMeets (b : Binding) (x n : Nat) : Bool :=
  let (lo, _) := regionBounds b
  let step : Int := b.stride.toInt.natAbs
  let a : Int := (x : Int) - lo - (b.width : Int) + 1
  let z : Int := (x : Int) + (n : Int) - 1 - lo
  if step = 0 then decide (a ≤ 0) && decide (0 ≤ z)
  else
    let kmin := max 0 (-((-a) / step))
    let kmax := min ((b.count : Int) - 1) (z / step)
    decide (kmin ≤ kmax)

/-- The piece writes memory. -/
def PieceOp.writes : PieceOp → Bool
  | .loads _ _ _ => false
  | .revoke _ => false
  | .fill _ _ => true
  | .trip _ act => act != .read
  | .post _ _ _ => true
  | .gain _ => true
  | .write _ _ => true
  | .amo _ _ _ _ _ _ => true
  | .cas _ _ _ _ _ => true
  | .copy _ _ => true
  | .data _ _ => true
  | .flag _ _ _ => true
  | .block _ _ => true
  | .contrib _ _ _ _ _ _ _ _ => true
  | .topk _ _ => true
  | .cbcopy _ _ => true
  | .xsend _ _ _ => true
  | .slots _ => true
  | .engine _ => true
  | .fetch _ _ => true
  | .publish _ => true

/-- The bytes that a piece writes: virtual address and count. -/
def pieceRange (p : Piece) : Word × Nat :=
  match p.what with
  | .fetch dst n => (dst.va, n)
  | .write _ _ => (p.place.va, p.what.span)
  | .loads _ _ _ => (p.place.va, p.what.span)
  | .amo _ _ _ _ _ _ => (p.place.va, p.what.span)
  | .cas _ _ _ _ _ => (p.place.va, p.what.span)
  | .copy _ dst => (p.place.va, (dst.map (·.2)).foldl (· + ·) 0)
  | .data _ _ => (p.place.va, p.what.span)
  | .flag _ _ _ => (p.place.va, p.what.span)
  | .block _ _ => (p.place.va, p.what.span)
  | .contrib _ _ _ _ _ _ _ _ => (p.place.va, p.what.span)
  | .topk _ _ => (p.place.va, p.what.span)
  | .cbcopy _ _ => (p.place.va, p.what.span)
  | .xsend _ _ _ => (p.place.va, p.what.span)
  | .slots _ => (p.place.va, p.what.span)
  | .engine _ => (p.place.va, p.what.span)
  | .publish _ => (p.place.va, p.what.span)
  | .revoke _ => (p.place.va, p.what.span)
  | .fill _ _ => (p.place.va, p.what.span)
  | .trip _ _ => (p.place.va, p.what.span)
  | .post _ _ _ => (p.place.va, ((p.postPlaces).map (·.2)).foldl (· + ·) 0)
  | .gain _ => (p.place.va, p.what.span)

/-- The whole address space: what a write may reach whose target cannot be read yet. -/
def anywhere : Word × Nat := (0, 2 ^ 64)

/-- R140: the slots of the circular buffer whose descriptor stands at an address: base and bytes. While the descriptor cannot be read, any address. -/
def slotsRange (s : State) (w : Who) (desc : Word) : List (Word × Nat) :=
  match placeOf s w desc 64 .read with
  | .ok p _ =>
    let word := fun (off n : Nat) => leNat (homeBytes s (p.ha + off) n)
    [(BitVec.ofNat 64 (word 0 8), word 8 4 * word 12 4), (desc + 16, 32)]
  | .fault _ _ _ => [anywhere]
  | .wait _ => [anywhere]

/-- R319: the descriptors that an expert's entry names; none while the entry cannot be read. -/
def expertDescriptors (s : State) (w : Who) (table expert : Word) : Option (List Word) :=
  match readMem s w (table + 64 * expert) 64 0 .read with
  | .ok x _ => some (((List.range 8).map (fun r => BitVec.ofNat 64 (leNat ((x.bytes.drop (8 * r)).take 8)))).filter (fun d => d ≠ 0))
  | .fault _ _ _ => none
  | .wait _ => none

/-- R319: the bytes that a send to an expert may write. -/
def expertRanges (s : State) (w : Who) (table expert : Word) : List (Word × Nat) :=
  match expertDescriptors s w table expert with
  | some l => l.flatMap (slotsRange s w)
  | none => [anywhere]

/-- R160, R173: the bytes that a piece has yet to write. CBCOPY and XSEND may write any slot of their buffers until they have claimed one. -/
def writesOf (s : State) (p : Piece) : List (Word × Nat) :=
  match p.what with
  | .cbcopy _ desc => slotsRange s p.who desc
  | .xsend _ expert table => expertRanges s p.who table expert
  | .fill desc _ => [(desc + 16, 32)]
  | .topk _ _ => [(p.place.va, 64 + 8 * 1024)]
  | what => if what.writes then [pieceRange p] else []

/-- R321, R323: the bytes that the steps of a run not issued yet write: destinations, and the counters of their WAITs. -/
def runWrites (s : State) (t : Strand) (r : CollRun) : List (Word × Nat) :=
  match runGraph s t r with
  | none => []
  | some g => (g.steps.drop r.step).flatMap (fun x =>
      (if x.kind = 3 then [] else [(r.base.getD x.dst 0 + x.doff, if g.ty = 0xC ∧ x.kind = 2 then 4 * x.bytes else x.bytes)])
      ++ (if x.cnt = 15 then [] else [(r.base.getD x.cnt 0 + BitVec.ofNat 64 x.coff, 8)]))

/-- R323, R146: the current strand's collective runs have writes to come, or engine operations that have not ended. -/
def runsBusy (s : State) : Bool := !(liveRuns s s.cpu).isEmpty

/-- Everything that the current strand's pieces and runs have yet to write. -/
def pendingWrites (s : State) (pieces : List Piece) : List (Word × Nat) := pieces.flatMap (writesOf s) ++ (liveRuns s s.cpu).flatMap (runWrites s s.cpu)

/-- R160, R155: some earlier blocking access of the strand, or some earlier write of it into the region, is not complete. -/
def regionBusy (s : State) (b : Binding) : Bool :=
  accessQueued s || s.cpu.queue.any QEntry.writes || (pendingWrites s (myPieces s)).any (fun x => regionMeets b x.1.toNat x.2)

/-- R174: a range has a byte on a host-shared page. -/
def touchesHs (s : State) (x : Word × Nat) : Bool :=
  x == anywhere || (partsOf x.1 x.2).any (fun y => match placeOf s (s.who .scalar) y.1 y.2 .read with
    | .ok p _ => p.hs
    | .fault _ _ _ => false
    | .wait _ => false)

/-- R156: a range has a byte that is homed off the issuing die. -/
def leavesDie (s : State) (x : Word × Nat) : Bool :=
  x == anywhere || (partsOf x.1 x.2).any (fun y => match placeOf s (s.who .scalar) y.1 y.2 .read with
    | .ok p _ => placeDie s p != s.myDie
    | .fault _ _ _ => false
    | .wait _ => false)

/-- R157, R161: the local copies that an acquire of a region discards: lines and prefetched frames homed in the region's channel (log entry 8).
At ST and CO only the prefetched frames go. -/
def discardRegion (s : State) (scope : Nat) (b : Binding) : State :=
  let x := b.base.toNat
  if bitsOf x 63 62 ≠ 0 then s
  else
    match nodeOf s s.cpu.pkg s.cpu.vi (bitsOf x 61 40) with
    | none => s
    | some p =>
      let ck := chanKey p (bitsOf x 39 37) (bitsOf x 36 33)
      let s1 := s.onCpu (fun t => { t with prefetch := t.prefetch.filter (fun l => l.1 / 2 ^ 33 ≠ ck) })
      if scope ≤ 1 then s1 else l1Drop s1 s1.myCore (fun l => l.ha / 2 ^ 33 = ck)

/-- R161: what an ACQ does to the sync word. -/
def acqAction (o : Ops) (s : State) : TripAct :=
  match o.C with
  | 0 => .hold
  | 1 => .plus (s.opB o.b).toNat
  | _ => .cas 8 (s.opB o.b).toNat (s.cpu.readG o.D).toNat

/-- R160: what a REL does to the sync word. -/
def relAction (o : Ops) (s : State) : TripAct := if o.C = 0 then .swap (s.opB o.b).toNat else .plus (s.opB o.b).toNat

/-- ACQ (R260, R161). Its action on the sync word is an atomic (R157), which needs R and W (R113, log entry 21). It waits for the acknowledgement of
blocking stores before it (R398). -/
def execAcq (o : Ops) (s : State) : Out :=
  match s.cpu.readBnd o.A with
  | none => .next (scalarTrap s causeIllFld (BitVec.ofNat 64 o.A))
  | some b =>
    if postsOut s then .next s.park
    else atomicFrom (.acq o) s b.sync 8 (acqAction o s)
      (fun old s1 => (discardRegion s1 o.scope b).commit o.bytes (fun t => t.writeG o.D (BitVec.ofNat 64 (leNat old))))

/-- REL (R260, R160). -/
def execRel (o : Ops) (s : State) : Out :=
  match s.cpu.readBnd o.A with
  | none => .next (scalarTrap s causeIllFld (BitVec.ofNat 64 o.A))
  | some b =>
    if regionBusy s b then .next s.park
    else
      atomicFrom (.rel o) s b.sync 8 (relAction o s) (fun _ s1 => s1.commit o.bytes id)

/-! Fences (R156, R157, R261). -/

/-- The piece belongs to a vector memory instruction (R156, R358). -/
def PieceOp.isVector : PieceOp → Bool
  | .write _ _ => true
  | .loads _ _ _ => true
  | .amo _ _ _ _ _ _ => true
  | .cas _ _ _ _ _ => true
  | .slots _ => true
  | .engine _ => true
  | .copy _ _ => false
  | .data _ _ => false
  | .flag _ _ _ => false
  | .block _ _ => false
  | .contrib _ _ _ _ _ _ _ _ => false
  | .topk _ _ => false
  | .cbcopy _ _ => false
  | .xsend _ _ _ => false
  | .fetch _ _ => false
  | .publish _ => false
  | .revoke _ => false
  | .fill _ _ => false
  | .trip _ _ => false
  | .post _ _ _ => false
  | .gain _ => false

/-- R156: what a fence of kind `t` still waits for. Earlier scalar accesses other than stores to other dies are performed already; HOST and FULL need no more, since a write
accepted at its home is visible at the host (R174). -/
def fenceBusy (s : State) (t : Nat) : Bool :=
  let q := s.cpu.queue
  let p := myPieces s
  match t with
  | 1 => p.any Piece.isPost
  | 2 => q.any QEntry.isVector || p.any (fun x => x.what.isVector)
  | 3 => q.any QEntry.isVector || p.any (fun x => x.what.isVector || x.isPost)
  | 4 => q.any (fun e => e.isEngine || e.nonBlocking) || p.any (fun x => x.cc.isSome || x.run.isSome) || runsBusy s
  | 5 => q.any QEntry.writes || p.any (fun x => x.what.writes && x.remote) || (pendingWrites s p).any (leavesDie s)
  | 6 => q.any QEntry.writes || p.any (fun x => x.what.writes && x.place.hs) || (pendingWrites s p).any (touchesHs s)
  | _ => !q.isEmpty || !p.isEmpty || runsBusy s

/-- R157: what a FENCE FULL at a scope discards: the strand's prefetched frames, and from DI on the whole scalar L1 of its core. -/
def discardAll (s : State) (scope : Nat) : State :=
  let s1 := s.onCpu (fun t => { t with prefetch := [] })
  if scope ≤ 1 then s1 else l1Drop s1 s1.myCore (fun _ => true)

/-- FENCE (R261, R156, R157). -/
def execFence (o : Ops) (s : State) : Out :=
  if fenceBusy s o.T then .next s.park
  else .next ((if o.T = 7 then discardAll s o.scope else s).commit o.bytes id)

end Sys2Proof.Machine
end

