-- ==== Sys2Proof/Machine/System.lean ====
section
/-! DEFINITION. System registers and the system instructions that act on one strand, its core's caches and the page generations (spec/23_traps.md
R330, R338, R347 to R357, R396; spec/03_execution.md R54, R55, R58). Context saves stand in Context.lean. -/

namespace Sys2Proof.Machine

/-! Reading a system register. -/

/-- R55: the groups that RETIRED leaves usable. -/
def usableOf (retired : Nat) : Nat := min 16 (17 - popc 17 retired)

/-- The groups of a core that no strand holds (R54). -/
def freeGroups (s : State) (ck : Nat) : Nat :=
  usableOf (s.core ck).retired
    - ((s.strands.filter (fun t => t.tid ≠ 0 && coreKey t.pkg t.die t.core = ck)).map (·.groups)).foldl (· + ·) 0

/-- R153: the strand's packets sent on one rail of its die that are not acknowledged, in the register's 16 bits. -/
def railCount (s : State) (r : Nat) : Nat := low 16 ((myPieces s).filter (fun p => p.remote && !p.unsent && p.rail = r)).length

/-- A trap register of a level, by its place in 0x100 to 0x108. -/
def trapRegOf (s : State) (x : Level) (i : Nat) : Nat :=
  let t := s.cpu
  let v := s.viPkg t.pkg t.vi
  let p := s.pkg t.pkg
  let isH := x == Level.h
  match i with
  | 0 => tstatusOf t x
  | 1 => (t.traps x).cause.toNat
  | 2 => (t.traps x).epc.toNat
  | 3 => (t.traps x).tval.toNat
  | 4 => if isH then p.tvecH.toNat else v.tvec.toNat
  | 5 => if isH then p.gtbH.toNat else v.gtb.toNat
  | 6 => if isH then p.gtnH.toNat else v.gtn.toNat
  | 7 => if isH then t.kbaseH.toNat else t.kbase.toNat
  | _ => t.scratchbase.toNat

/-- The registers of R108 and PARKBASE of the strand's VI; L2QUOTA is its die's. -/
def viRegOf (s : State) (i : Nat) : Nat :=
  let v := s.vi s.cpu.vi
  match i with
  | 0 => v.parkbase.toNat
  | 1 => v.mscways.toNat
  | 2 => v.l2class.toNat
  | 3 => (s.die s.myDie).l2quota.toNat
  | 4 => v.nodemap.toNat
  | 5 => v.nodecnt.toNat
  | 6 => v.mempol.toNat
  | 7 => v.wintab.toNat
  | _ => v.nbtab.toNat

/-- The fields of a system register (R198). -/
def srFields (s : State) (n : Nat) : Nat :=
  let t := s.cpu
  if n = 0x000 then t.slot
  else if n = 0x001 then t.core
  else if n = 0x002 then t.die
  else if n = 0x003 then t.vpkg
  else if n = 0x004 then t.vi
  else if n ≤ 0x017 then (match t.levels[n - 0x010]? with
    | some p => p.index
    | none => 0)
  else if n ≤ 0x01F then (match t.levels[n - 0x018]? with
    | some p => p.extent
    | none => 1)
  else if n = 0x020 then t.vl
  else if n = 0x021 then t.mvl
  else if n = 0x022 then t.vstart
  else if n = 0x023 then t.vfs.toNat
  else if n = 0x024 then t.nv
  else if n = 0x025 then t.ew
  else if n = 0x026 then freeGroups s s.myCore * 2 ^ 16 + t.groups
  else if n = 0x027 then
    (let c := s.core s.myCore
     c.retired + usableOf c.retired * 2 ^ 32 + boolNat c.pend.isSome * 2 ^ 48)
  else if n = 0x028 then vqhold t
  else if n = 0x030 then t.tm
  else if n = 0x031 then t.tn
  else if n = 0x032 then t.tk
  else if n = 0x033 then t.trow
  else if n = 0x034 then t.held.toNat * 2 ^ 8 + boolNat t.sat * 4 + boolNat t.td
  else if n = 0x035 then t.ttype
  else if n = 0x040 then t.fpmode
  else if n = 0x041 then t.fpflags.toNat
  else if n ≤ 0x05F then ccWord (t.readCC (n - 0x050))
  else if n ≤ 0x063 then railCount s (n - 0x060)
  else if n = 0x070 then boolNat t.mmode
  else if n = 0x071 then s.time - (s.pkg t.pkg).resetAt
  else if n ≤ 0x108 then trapRegOf s .s (n - 0x100)
  else if n ≤ 0x208 then viRegOf s (n - 0x200)
  else trapRegOf s .h (n - 0x210)

/-- R348, R6: the value of a system register, reserved bits 0. -/
def readSr (s : State) (n : Nat) : Nat := srFields s n &&& srMask n

/-- The entry is an MTSR of register `n`. -/
def QEntry.isMtsr (e : QEntry) (n : Nat) : Bool :=
  match mtsrNumber e.instr with
  | some (k, _) => k == n
  | none => false

/-- R58: whether a queue entry writes the register that an MFSR of `n` reads. -/
def writesSr (n : Nat) (e : QEntry) : Bool :=
  let c := e.code
  let config := c == 0x0B0 || c == 0x0B1 || c == 0x0B2
  if n = 0x020 then config || e.isMtsr n || c == 0x163 || c == 0x164 || c == 0x1C0 || c == 0x1C1 || c == 0x1C4 || c == 0x1AB
  else if n = 0x021 ∨ n = 0x024 ∨ n = 0x025 ∨ n = 0x026 then config
  else if n = 0x022 then e.writesVstart
  else if n = 0x023 then c == 0x163 || c == 0x164 || c == 0x1C0 || c == 0x1C1 || c == 0x1C3 || c == 0x1A8
  else if 0x030 ≤ n ∧ n ≤ 0x035 then
    e.isMtsr n || c == 0x0A8 || c == 0x0A9 || c == 0x1A0 || (decide (n = 0x033 ∨ n = 0x034) && (c == 0x1A2 || c == 0x1A3 || c == 0x1A4))
  else if n = 0x041 then c == 0 || (decide (0x100 ≤ c) && decide (c < 0x160)) || (decide (0x1A0 ≤ c) && decide (c ≤ 0x1AB)) || c == 0x1C3
  else if 0x050 ≤ n ∧ n ≤ 0x05F then
    (match e.instr.ops? with
     | some o => (e.nonBlocking && o.ccNo == n - 0x050) || (c == 0x184 && o.D == n - 0x050)
     | none => false)
  else if n = 0x070 then e.isMtsr n
  else false

/-- MFSR (R348, R199, R58). -/
def execMfsr (o : Ops) (s : State) : Out :=
  atLevel (srReadLevel o.bImm) (.mfsr o) s
    (if s.cpu.queue.any (writesSr o.bImm) then .next s.park
     else .next (s.commit o.bytes (fun t => t.writeG o.D (BitVec.ofNat 64 (readSr s o.bImm)))))

/-! Writing one. -/

/-- R199, R6: the checks of an MTSR that does not enter the queue. -/
def mtsrScalar (o : Ops) (i : Instr) (s : State) (k : Word → Out) : Out :=
  atLevel (srWriteLevel o.bImm) i s
    (if srWriteOk o.bImm (s.cpu.readG o.A) then k (s.cpu.readG o.A) else .next (scalarTrap s causeIllFld (instrWord i)))

/-- An MTSR that waits for every earlier queue entry (R85, R236, R277). -/
def afterEmptyQueue (s : State) (k : Out) : Out := if s.cpu.queue.isEmpty then k else .next s.park

/-- R330, R5, R6: fields of a trap register of a level written by an MTSR. -/
def writeTrapReg (s : State) (x : Level) (i : Nat) (v : Word) : State :=
  let t := s.cpu
  let vp := s.viPkg t.pkg t.vi
  let p := s.pkg t.pkg
  let isH := x == Level.h
  match i with
  | 1 => s.onCpu (fun u => u.setTraps x { u.traps x with cause := v.truncate 8 })
  | 2 => s.onCpu (fun u => u.setTraps x { u.traps x with epc := v })
  | 3 => s.onCpu (fun u => u.setTraps x { u.traps x with tval := v })
  | 4 => if isH then s.setPkg t.pkg { p with tvecH := v } else s.setViPkg t.pkg t.vi { vp with tvec := v }
  | 5 => if isH then s.setPkg t.pkg { p with gtbH := v } else s.setViPkg t.pkg t.vi { vp with gtb := v }
  | 6 => if isH then s.setPkg t.pkg { p with gtnH := v } else s.setViPkg t.pkg t.vi { vp with gtn := v }
  | 7 => if isH then s.onCpu (fun u => { u with kbaseH := v }) else s.onCpu (fun u => { u with kbase := v })
  | _ => s

/-- The registers of R108 and PARKBASE, written. -/
def writeViReg (s : State) (i : Nat) (x : Word) : State :=
  let n := s.cpu.vi
  let v := s.vi n
  match i with
  | 0 => s.setVi n { v with parkbase := x }
  | 1 =>
    -- R135: pinned sectors in ways that leave the mask become sticky
    (let s1 := s.setVi n { v with mscways := x }
     { s1 with dies := s1.dies.map (fun (d : Nat × DieSt) =>
         (d.1, { d.2 with msc := d.2.msc.map (fun y => (y.1, mscRemask n (low 16 x.toNat) y.2)) })) })
  | 2 => s.setVi n { v with l2class := x }
  | 3 => s.setDie s.myDie { s.die s.myDie with l2quota := x }
  | 4 => s.setVi n { v with nodemap := x }
  | 5 => s.setVi n { v with nodecnt := x }
  | 6 => s.setVi n { v with mempol := x }
  | 7 => s.setVi n { v with wintab := x }
  | _ => s.setVi n { v with nbtab := x }

/-- R383: the PF's configuration: the registers of R108 and PARKBASE, its scratchpad quota, its shares and budgets, and its root in each channel. -/
def pfConfig (s : State) (pkg : Nat) : List Byte :=
  let v := s.vi 0
  [v.parkbase, v.mscways, v.l2class, v.nodemap, v.nodecnt, v.mempol, v.wintab, v.nbtab].flatMap (fun (x : Word) => leBytes 8 x.toNat)
  ++ ((List.range Config.dies).map (fun d => (s.die (dieKey pkg d)).l2quota)).flatMap (fun (x : Word) => leBytes 8 x.toNat)
  ++ ([v.quota, v.weight, v.quantum] ++ v.budgets).flatMap (leBytes 8)
  ++ (List.range (Config.dies * Config.channels)).flatMap (fun c => leBytes 8 (cellGet 0 (s.chan (pkg * Config.dies * Config.channels + c)).roots 0))

/-- The value of a measurement register: 64 bytes, zero until it is measured (R383). -/
def measurement (p : PkgSt) (i : Nat) : List Byte := cellGet (zeros 64) p.measured i

/-- R383: a change of VI 0's configuration extends measurement register 6 of a package with the digest of the configuration. -/
def measureConfig (s : State) (pkg vi : Nat) : State :=
  if vi ≠ 0 then s
  else
    let p := s.pkg pkg
    s.setPkg pkg { p with measured := cellPut p.measured 6 (Config.shake256 (measurement p 6 ++ Config.shake256 (pfConfig s pkg))) }

/-- MTSR of the registers without a row of their own (R348, R5): FPMODE, the trap registers TCAUSE, TEPC, TVAL, KBASE, the registers of R108; RO and H
fields stay as they are. -/
def execMtsr (o : Ops) (s : State) : Out :=
  mtsrScalar o (.mtsr o) s (fun x =>
    let n := o.bImm
    let s1 := if n = 0x040 then s.onCpu (fun t => { t with fpmode := low 2 x.toNat })
      else if 0x100 ≤ n ∧ n ≤ 0x108 then writeTrapReg s .s (n - 0x100) x
      else if 0x200 ≤ n ∧ n ≤ 0x208 then measureConfig (writeViReg s (n - 0x200) x) s.cpu.pkg s.cpu.vi
      else if 0x210 ≤ n then writeTrapReg s .h (n - 0x210) x
      else s
    .next (s1.commit o.bytes id))

/-- The value of a queued MTSR, and its completion. -/
def mtsrQueued (o : Ops) (s : State) (f : Word → Strand → Strand) : Out := .next (s.retireKeep (f (s.srcG o.A)))

/-- MTSR VL (R54): min(value, MVL). -/
def execMtsrVl (o : Ops) (s : State) : Out := mtsrQueued o s (fun x t => { t with vl := min x.toNat t.mvl })
/-- MTSR VSTART (R57). -/
def execMtsrVstart (o : Ops) (s : State) : Out := mtsrQueued o s (fun x t => { t with vstart := low 16 x.toNat })
/-- MTSR MMODE (R229). -/
def execMtsrMmode (o : Ops) (s : State) : Out := mtsrQueued o s (fun x t => { t with mmode := x.getLsbD 0 })
/-- MTSR TM (R277). -/
def execMtsrTm (o : Ops) (s : State) : Out := mtsrQueued o s (fun x t => { t with tm := clampNat x.toNat 1 64 })
/-- MTSR TN (R277). -/
def execMtsrTn (o : Ops) (s : State) : Out := mtsrQueued o s (fun x t => { t with tn := clampNat x.toNat 1 256 })
/-- MTSR TK (R277). -/
def execMtsrTk (o : Ops) (s : State) : Out := mtsrQueued o s (fun x t => { t with tk := clampNat x.toNat 1 16777215 })
/-- MTSR TTYPE (R277, R276): another code leaves the field unchanged. -/
def execMtsrTtype (o : Ops) (s : State) : Out :=
  mtsrQueued o s (fun x t => if (8 ≤ x.toNat ∧ x.toNat ≤ 12) ∨ x.toNat = 15 then { t with ttype := x.toNat } else t)

/-- MTSR VFS (R236): each bit clears by a 1. -/
def execMtsrVfs (o : Ops) (s : State) : Out :=
  mtsrScalar o (.mtsrVfs o) s (fun x =>
    afterEmptyQueue s (.next (s.commit o.bytes (fun t => { t with vfs := t.vfs &&& ~~~(x.truncate 5) }))))

/-- MTSR LANEMAP (R55): the value waits until the core has no resident strand. -/
def execMtsrLanemap (o : Ops) (s : State) : Out :=
  mtsrScalar o (.mtsrLanemap o) s (fun x =>
    .next ((s.setCore s.myCore { s.core s.myCore with pend := some (low 17 x.toNat) }).commit o.bytes id))

/-- MTSR TROW (R277). -/
def execMtsrTrow (o : Ops) (s : State) : Out :=
  mtsrScalar o (.mtsrTrow o) s (fun x => afterEmptyQueue s (.next (s.commit o.bytes (fun t => { t with trow := low 24 x.toNat }))))

/-- MTSR TSTAT (R277): `sat` clears by a 1. -/
def execMtsrTstat (o : Ops) (s : State) : Out :=
  mtsrScalar o (.mtsrTstat o) s (fun x => afterEmptyQueue s (.next (s.commit o.bytes (fun t => { t with sat := t.sat && !x.getLsbD 2 }))))

/-- MTSR FPFLAGS (R85). -/
def execMtsrFpflags (o : Ops) (s : State) : Out :=
  mtsrScalar o (.mtsrFpflags o) s (fun x => afterEmptyQueue s (.next (s.commit o.bytes (fun t => { t with fpflags := x.truncate 6 }))))

/-- MTSR CC0 to CC15 (R165): error bits clear by a 1. -/
def execMtsrCc (o : Ops) (s : State) : Out :=
  mtsrScalar o (.mtsrCc o) s (fun x =>
    .next (s.commit o.bytes (fun t =>
      let n := o.bImm - 0x050
      let c := t.readCC n
      t.writeCC n { c with timeout := c.timeout && !x.getLsbD 32, revoked := c.revoked && !x.getLsbD 33, ue := c.ue && !x.getLsbD 34 })))

/-- MTSR TIMER (R339): the strand's deadline, 0 for none. -/
def execMtsrTimer (o : Ops) (s : State) : Out :=
  mtsrScalar o (.mtsrTimer o) s (fun x => .next (s.commit o.bytes (fun t => { t with deadline := x })))

/-- MTSR TSTATUS (R330): pending events and dbl clear by a 1; a plvl above the copy's own level is not written. -/
def execMtsrTstatus (o : Ops) (s : State) : Out :=
  mtsrScalar o (.mtsrTstatus o) s (fun x =>
    .next (s.commit o.bytes (fun t =>
      let lv := if o.bImm = 0x100 then Level.s else Level.h
      let r := t.traps lv
      let n := x.toNat
      let r1 := { r with step := x.getLsbD 7, pie := x.getLsbD 6, ie := x.getLsbD 5, pmm := x.getLsbD 4,
                         plvl := if bitsOf n 3 2 ≤ lv.rank then BitVec.ofNat 2 (bitsOf n 3 2) else r.plvl }
      t.setTraps lv
        (if lv = .h then { r1 with dbl := r.dbl && !x.getLsbD 17 }
         else { r1 with evp := r.evp &&& ~~~(BitVec.ofNat 4 (bitsOf n 16 13)), evm := BitVec.ofNat 4 (bitsOf n 12 9), pn := x.getLsbD 8 }))))

/-- MTSR TVEC, GTB and GTN (R396): held per VI and package at S, per package at H. -/
def execMtsrTvecGtbGtn (o : Ops) (s : State) : Out :=
  mtsrScalar o (.mtsrTvecGtbGtn o) s (fun x =>
    let n := o.bImm
    .next ((if n < 0x200 then writeTrapReg s .s (n - 0x100) x else writeTrapReg s .h (n - 0x210) x).commit o.bytes id))

/-! TRAP, BREAK, ERET. -/

/-- TRAP (R349): TEPC is the next instruction. -/
def execTrap (o : Ops) (s : State) : Out :=
  .next (scalarTrapAt s causeTrap (BitVec.ofNat 64 (low 16 o.bImm)) (s.cpu.pc + o.bytes))
/-- BREAK (R349). -/
def execBrk (o : Ops) (s : State) : Out := .next (scalarTrap s causeBreak (BitVec.ofNat 64 (low 16 o.bImm)))

/-- The home address of a parking slot (R340). -/
def slotHa (s : State) (pkg die vi slot : Nat) : Nat :=
  haOf pkg die 0 (low 33 (bitsOf (s.vi vi).parkbase.toNat 32 21 * 2 ^ 21 + slot * 2 ^ 21))

/-- The tiles and tile registers in a parking slot (R338): the held tiles in order, then one word for each register. The layout is the model's (log
entry 50). -/
def claimImage (t : Strand) : List Byte :=
  (heldTiles t).flatMap (tileImage t) ++ wordsBytes [t.tm, t.tn, t.tk, t.trow, t.ttype, boolNat t.sat]

/-- The marks of the tiles' poisoned words. -/
def isTilePoison (p : Nat) : Bool := decide (2 ^ 32 ≤ p) && decide (p < 2 ^ 40)

/-- The tiles and registers that a parking slot holds for some tiles, each field at its own width (R6); an uncorrectable word of the slot comes back poisoned (R391). -/
def readClaim (s : State) (at_ : Nat) (tiles : List Nat) (t : Strand) : Strand :=
  let word := fun (i : Nat) => leNat (homeBytes s (at_ + 65536 * tiles.length + 8 * i) 8)
  let bad := tiles.zipIdx.flatMap (fun n =>
    ((List.range 8192).filter (fun w => s.poison.contains ((at_ + 65536 * n.2) / 8 + w))).map (fun w => tilePoisonKey (n.1 * 65536 + 8 * w)))
  let u := tiles.zipIdx.foldl (fun (u : Strand) n => fillOwn u .tile (n.1 * 65536) (homeBytes s (at_ + 65536 * n.2) 65536)) { t with tiles := [] }
  { u with tm := min 64 (word 0), tn := min 256 (word 1), tk := low 24 (word 2), trow := low 24 (word 3), ttype := low 4 (word 4), sat := word 5 == 1,
           poison := t.poison.filter (fun p => !isTilePoison p) ++ bad }

/-- The tiles that a claim names. -/
def TileClaim.list (c : TileClaim) : List Nat := (List.range 4).filter (fun n => c.tiles.getLsbD n)

/-- TRELS's effect (R338): the last claimed tiles and registers come back from their slot, the slot is free, and td is 1. -/
def releaseTiles (s : State) : State :=
  match s.cpu.claims with
  | [] => s
  | c :: rest =>
    let dk := s.myDie
    let d := s.die dk
    let u := readClaim s (slotHa s s.cpu.pkg s.cpu.die s.cpu.vi c.slot) c.list s.cpu
    (s.setDie dk { d with slots := d.slots.erase (s.cpu.vi * 256 + c.slot) }).onCpu (fun _ => { u with td := true, claims := rest })

/-- ERET (R350, R332). -/
def execEret (s : State) : Out :=
  atLevel .s .eret s (afterEmptyQueue s (.next ((releaseTiles s).onCpu returnFrom)))

/-! Tile claims. -/

/-- R341: the lowest free parking slot of a VI on a die. -/
def freeSlot (s : State) (dk vi : Nat) : Option Nat :=
  (List.range (low 8 (s.vi vi).parkbase.toNat)).find? (fun n => !(s.die dk).slots.contains (vi * 256 + n))

/-- R338: the tiles are written to a slot and cleared, and td is 0. -/
def claimTiles (s : State) (slot : Nat) : State :=
  let dk := s.myDie
  let d := s.die dk
  let t := s.cpu
  let s1 := (homeWrite (s.setDie dk { d with slots := d.slots ++ [t.vi * 256 + slot] }) t.vi 3 (slotHa s t.pkg t.die t.vi slot) (claimImage t) false).1
  s1.onCpu (fun t => { t with claims := { slot := slot, tiles := t.held } :: t.claims, tiles := [], tm := 1, tn := 1, tk := 1, trow := 0, ttype := 15,
                              td := false })

/-- TCLAIM (R353, R338, R341). A poisoned tile word that the save would read traps UE_DATA (R391). -/
def execTclaim (o : Ops) (s : State) : Out :=
  if !s.cpu.td then .next (s.retireKeep (fun t => t.writeG o.D 2))
  else
    match freeSlot s s.myDie s.cpu.vi with
    | none => .next (s.retireKeep (fun t => t.writeG o.D 1))
    | some slot =>
      match s.cpu.poison.find? isTilePoison with
      | some p => .next (queuedTrap s causeUeData (ownVa s.cpu 2 (8 * (p - 2 ^ 32))))
      | none => .next ((claimTiles s slot).retireKeep (fun t => t.writeG o.D 0))

/-- TRELS (R353). -/
def execTrels (s : State) : Out := .next ((releaseTiles s).retireKeep id)

/-! Generations and caches. -/

/-- The 64 KiB pages that hold bytes `a` to `a + n - 1`. -/
def pagesOf (a n : Nat) : List Nat := if n = 0 then [] else (List.range ((a + n - 1) / 65536 + 1 - a / 65536)).map (fun i => (a / 65536 + i) * 65536)

/-- The home page of a PG address: package, die, channel, channel offset. -/
def homePage (s : State) (a : Nat) : Option (Nat × Nat × Nat × Nat) :=
  (nodeOf s s.cpu.pkg s.cpu.vi (bitsOf a 61 40)).map (fun p => (p, bitsOf a 39 37, bitsOf a 36 33, low 33 a))

/-- R115, R116: the generation entries of some home pages: each page's own, and that of the 32 MiB leaf under which it now lies. -/
def tagsOf (s : State) (vi : Nat) (l : List (Nat × Nat × Nat × Nat)) : List Nat :=
  (l.flatMap (fun x => [tagOf x.1 x.2.1 x.2.2.1 x.2.2.2 false, pageTag s x.1 x.2.1 x.2.2.1 vi x.2.2.2])).eraseDups

/-- R116: the entries advance. -/
def advanceTags (s : State) (l : List Nat) : State := l.foldl advanceGen s

/-- R351: the issuing core drops its matching TLB entries. -/
def dropTlb (s : State) (p : TlbEntry → Bool) : State :=
  let c := s.core s.myCore
  s.setCore s.myCore { c with tlbs := c.tlbs.filter (fun e => !p e) }

/-- The first page whose package the node map does not give (R109). -/
def noNode (s : State) (pages : List Nat) : Option Nat := pages.find? (fun a => (homePage s a).isNone)

/-- TLBINV (R351, R116). -/
def execTlbinv (o : Ops) (s : State) : Out :=
  let a := (s.cpu.readG o.A).toNat
  let n := (s.cpu.readG o.B).toNat
  atLevel .s (.tlbinv o) s
    (if n = 0 then .next (s.commit o.bytes id)
     else if 2 ^ 64 < a + n then .next (scalarTrap s causeAlign (BitVec.ofNat 64 a))
     else if 2 ^ 62 < a + n then .next (scalarTrap s causeSpace (BitVec.ofNat 64 (max a (2 ^ 62))))
     else
       let pages := pagesOf a n
       match noNode s pages with
       | some p => .next (scalarTrap s causeNode (BitVec.ofNat 64 (max a p)))
       | none =>
         let tags := tagsOf s s.cpu.vi (pages.filterMap (homePage s))
         if tags.any (advanceWaits s) then .next s.park
         else
           let s1 := advanceTags s tags
           .next ((dropTlb s1 (fun e => e.vi = s.cpu.vi && pages.any (fun p => if e.leaf.big then e.page / 512 = p / 65536 / 512 else e.page = p / 65536))).commit
             o.bytes id))

/-- TLBINV.DIE (R351): every translation of every core of the die goes. -/
def execTlbinvDie (o : Ops) (s : State) : Out :=
  atLevel .h (.tlbinvDie o) s
    (.next ({ s with cores := s.cores.map (fun (x : Nat × CoreSt) => if x.1 / 128 = s.myDie then (x.1, { x.2 with tlbs := [] }) else x) }.commit o.bytes id))

/-- R352: an earlier write of the strand into the range is not performed yet. -/
def rangeBusy (s : State) (a n : Nat) : Bool :=
  s.cpu.queue.any QEntry.writes
  || (pendingWrites s (myPieces s)).any (fun x => decide (x.1.toNat < a + n) && decide (a < x.1.toNat + x.2))

/-- The sectors of decoded data that a range touches. -/
def sectorsOf (ha n : Nat) : List Nat := (List.range ((haOff ha + n - 1) / 256 + 1 - haOff ha / 256)).map (· + haOff ha / 256)

/-- R133: FLUSHR or CINV at the home of one part of the range: caches, and decoded sectors of a format region (R96). -/
def cleanHome (s : State) (use : FrameUse) (p : Place) (n : Nat) : State :=
  writeBackSectors (useHome s s.cpu.vi p.rc p.ha n 0 use) (haChanKey p.ha) (use == .flush)
    ((sectorsOf p.ha n).filter (fun q => ((s.chan (haChanKey p.ha)).sectors.lookup q).isSome))

/-- The homes of a range in address order. -/
def cleanHomes (use : FrameUse) : State → List (Place × Nat) → State
  | s, [] => s
  | s, (p, n) :: rest => cleanHomes use (cleanHome s use p n) rest

/-- R133: the lines of the range leave the issuing core's scalar L1. -/
def dropLines (s : State) : List (Place × Nat) → State
  | [] => s
  | (p, n) :: rest => dropLines (l1Invalidate s s.myCore p.ha n) rest

/-- FLUSHR and CINV (R352, R133). -/
def cleanRange (o : Ops) (i : Instr) (s : State) (use : FrameUse) : Out :=
  let a := s.cpu.readG o.A
  let n := (s.opB o.b).toNat
  if n = 0 then .next (s.commit o.bytes id)
  else if 2 ^ 36 < n then .next (scalarTrap s causeIllFld (instrWord i))
  else if 2 ^ 62 < a.toNat + n then .next (scalarTrap s causeSpace (BitVec.ofNat 64 (max a.toNat (2 ^ 62))))
  else if rangeBusy s a.toNat n then .next s.park
  else
    -- the first page that faults traps with its lowest address in the range
    let rec places (st : State) : List (Word × Nat) → Acc (List (Place × Nat))
      | [] => .ok [] st
      | (va, k) :: rest =>
        match placeOf st (st.who .scalar) va k .read with
        | .fault c t s1 => .fault c t s1
        | .wait s1 => .wait s1
        | .ok p s1 => (places s1 rest).andThen (fun ps s2 => .ok ((p, k) :: ps) s2)
    scalarAcc (places s (partsOf a n)) (fun ps s1 =>
      let s2 := cleanHomes use s1 ps
      (if use = .invalidate then dropLines s2 ps else s2).commit o.bytes id)

/-- FLUSHR (R352, R133). -/
def execFlushr (o : Ops) (s : State) : Out := cleanRange o (.flushr o) s .flush
/-- CINV (R352, R133). -/
def execCinv (o : Ops) (s : State) : Out := cleanRange o (.cinv o) s .invalidate

/-- IFENCE (R357). -/
def execIfence (s : State) : Out :=
  if s.cpu.queue.any QEntry.writes || !(pendingWrites s (myPieces s)).isEmpty then .next s.park
  else .next ((s.setCore s.myCore { s.core s.myCore with icache := [] }).commit 8 id)

/-! WAITEV. -/

/-- R354, R61: the watch that WAITEV arms at G[A]; none is armed when A is 0. Where the watch table of the word's slice is full, the strand reads the word
again every microsecond instead. -/
def armWatch (o : Ops) (s : State) : Acc Unit :=
  if o.A = 0 then .ok () s
  else
    let va := s.cpu.readG o.A
    if va.toNat % 8 ≠ 0 then .fault causeAlign va s
    else
      (placeOf s (s.who .scalar) va 8 .read).andThen (fun p s1 =>
        if p.kind = .vreg ∨ p.kind = .tile then .fault causeSpace va s1
        else
          let full := watchTableFull { s1 with cpu := { s1.cpu with watch := none } } [] (p.ha / 8)
          .ok () (s1.onCpu (fun t => { t with watch := some (p.ha / 8), watchVa := va,
                                              watchSlow := if full then some (leNat (homeBytes s1 p.ha 8)) else none })))

/-- The pending events that WAITEV asks for. -/
def waitedEvents (o : Ops) (s : State) : BitVec 4 := s.cpu.trapS.evp &&& (s.opB o.b).truncate 4

/-- R354: bits 24:4 of b are zero. -/
def waitevBad (o : Ops) (s : State) : Bool := (s.opB o.b).toNat / 16 % 2 ^ 21 != 0

/-- WAITEV (R354). -/
def execWaitev (o : Ops) (s : State) : Out :=
  if waitevBad o s then .next (scalarTrap s causeIllFld (instrWord (.waitev o)))
  else
    scalarAcc (armWatch o s) (fun _ s1 =>
      let e := waitedEvents o s1
      if e = 0 then s1.park
      else s1.commit o.bytes (fun t => { (t.writeG o.D (e.zeroExtend 64)) with trapS := { t.trapS with evp := t.trapS.evp &&& ~~~e } }))

/-- WAITEV.ARM (R354): neither parks nor clears. -/
def execWaitevArm (o : Ops) (s : State) : Out :=
  if waitevBad o s then .next (scalarTrap s causeIllFld (instrWord (.waitevArm o)))
  else
    scalarAcc (armWatch o s) (fun _ s1 => s1.commit o.bytes (fun t => t.writeG o.D ((waitedEvents o s1).zeroExtend 64)))

/-! LAUNCH. -/

/-- The class of the launch to which the current task belongs: its record's priority (R69). -/
def launchClass (s : State) : Nat :=
  match s.launches.find? (fun l => l.id = s.cpu.lid) with
  | some l => l.record.prio
  | none => 0

/-- The LAUNCH submissions of a VI that the device has not accepted. -/
def submissions (s : State) (vi : Nat) : Nat :=
  ((s.viPkgs.filter (fun x => x.1 % 1024 = vi)).map (fun (x : Nat × ViPkgSt) => x.2.submitted.length)).foldl (· + ·) 0

/-- LAUNCH (R355). -/
def execLaunch (o : Ops) (s : State) : Out :=
  let va := s.cpu.readG o.A
  if va.toNat % 64 ≠ 0 then .next (scalarTrap s causeAlign va)
  else
    match placeOf s (s.who .scalar) va 64 .read with
    | .fault c t s1 => .next (scalarTrap s1 c t)
    | .wait s1 => .next s1.park
    | .ok _ s1 =>
      afterQueue true s1
        (if 256 ≤ submissions s1 s1.cpu.vi then .next s1.park
         else
           let v := s1.viPkg s1.cpu.pkg s1.cpu.vi
           .next ((s1.setViPkg s1.cpu.pkg s1.cpu.vi { v with submitted := v.submitted ++ [(va, launchClass s1)] }).commit o.bytes
             (fun t => t.writeG o.D 0)))

end Sys2Proof.Machine
end

