-- ==== Sys2Proof/Machine/Vector.lean ====
section
/-! DEFINITION. The shape of the vector instructions (spec/15_vector.md R231 to R236), configuration (R237, R238, spec/03_execution.md R51 to R53) and
the mask instructions (R239). -/

namespace Sys2Proof.Machine

/-! Activity and operands. -/

/-- The active elements of an instruction, in index order. -/
def activeList (t : Strand) (o : Ops) (neg : Bool) : List Nat := (List.range t.vl).filter (activeAt t o.M neg o.q)

/-- Element `i` of a v register at type `t`. -/
def elemOf (u : Strand) (t n i : Nat) : Nat := low (typeWidth t) (u.readV n i)

/-- R233: operand b of element `i` at type `t`, as a pattern. -/
def bElem (s : State) (o : Ops) (t i : Nat) : Nat :=
  if o.bIsVector then elemOf s.cpu t o.B i
  else if 8 ≤ t ∧ t ≤ 12 then (operandFp s.srcG s.srcK t o.b).1
  else low (typeWidth t) (s.srcB o.b).toNat

/-- R106, R181, R182: the ABN that operand b of element `i` is, if any. -/
def bAbn (s : State) (o : Ops) (i : Nat) : Option Nat :=
  if o.T < 8 ∨ 12 ≤ o.T then none
  else if o.bIsVector then (if o.T = 10 ∧ isAbn (elemOf s.cpu 10 o.B i) then some (elemOf s.cpu 10 o.B i) else none)
  else (operandFp s.srcG s.srcK o.T o.b).2

/-- R106: the ABN that element `i` of a register is under type `t`. -/
def elemAbn (u : Strand) (t n i : Nat) : Option Nat :=
  if t = 10 ∧ isAbn (elemOf u 10 n i) then some (elemOf u 10 n i) else none

/-- The first of some ABNs. -/
def firstAbn : List (Option Nat) → Option Nat
  | [] => none
  | some x :: _ => some x
  | none :: rest => firstAbn rest

/-! The element-wise effect (R235). -/

/-- What one element gives: its result, its flags, or the ABN at which it traps. -/
structure Elem where
  val   : Nat
  flags : Flags := flagNone
  abn   : Option Nat := none

/-- R231: the result written to element `i` of vD. -/
def putV (o : Ops) (t : Strand) (i x : Nat) : Strand := t.writeV o.D i (extendV t.ew o.T x)

/-- A result bit written to element `i` of mask D; D = 8 is mq. -/
def putM (o : Ops) (t : Strand) (i x : Nat) : Strand := t.writeM o.D i (x != 0)

/-- The results of some elements, written in order. -/
def putAll (w : Strand → Nat → Nat → Strand) (f : Nat → Elem) (t : Strand) (l : List Nat) : Strand := l.foldl (fun u i => w u i (f i).val) t

/-- The flags of some elements. -/
def flagsOf (f : Nat → Elem) (l : List Nat) : Flags := l.foldl (fun a i => a ||| (f i).flags) flagNone

/-- R106: TVAL of an ABN at element `i`. -/
def abnTval (x i : Nat) : Word := BitVec.ofNat 64 (x + i * 2 ^ 32)

/-- R235, R85, R106: the elements of a list are performed in order; the first that traps becomes VSTART, with the flags of those below it. `fin` is
done when the instruction completes. -/
def runElems (s : State) (act : List Nat) (f : Nat → Elem) (w : Strand → Nat → Nat → Strand) (fin : Strand → Strand) : Out :=
  match act.find? (fun i => (f i).abn.isSome) with
  | none => .next (s.retire (fun t => fin ((putAll w f t act).orFlags (flagsOf f act))))
  | some i =>
    let below := act.filter (fun j => decide (j < i))
    let s1 := s.onCpu (fun t => { (putAll w f t below).orFlags (flagsOf f below) with vstart := i })
    .next (queuedTrap s1 causeAbn (abnTval ((f i).abn.getD 0) i))

/-- R231, R232, R235: an element-wise instruction. `types` are its element types; `neg` is the mask polarity. -/
def vectorOp (i : Instr) (o : Ops) (types : List Nat) (neg : Bool) (s : State) (f : Nat → Elem) (w : Strand → Nat → Nat → Strand) : Out :=
  atHead i types s (unlessVl0 s (runElems s (activeList s.cpu o neg) f w id))

/-! Configuration. -/

/-- R237: the code of NV and EW. -/
def sizeCode (n : Nat) : Nat :=
  match n with
  | 0 => 8
  | 1 => 16
  | 2 => 32
  | _ => 64

/-- VCONFIG (R237, R51). -/
def execVconfig (o : Ops) (s : State) : Out :=
  .next (s.retire (fun t =>
    let u := { t.clearVector with nv := sizeCode (bitsOf o.bImm 1 0), ew := sizeCode (bitsOf o.bImm 3 2), vl := 0 }
    u.writeG o.D (BitVec.ofNat 64 u.mvl)))

/-- R53: SETVL in its renegotiating form. -/
def renegotiate (s : State) (avl : Nat) (t : Strand) : Strand :=
  let w := clampNat (ceilDiv avl t.groupElems) 1 16
  let h := min w (t.groups + freeGroups s s.myCore)
  let u := if h ≠ t.groups then { t.clearVector with groups := h } else t
  { u with vl := min avl (h * t.groupElems) }

/-- SETVL and SETVLI (R238, R53): C = 1 keeps the grant. -/
def setVl (o : Ops) (s : State) (avl : Nat) : Out :=
  .next (s.retire (fun t =>
    let u := if o.C = 1 then { t with vl := min avl t.mvl } else renegotiate s avl t
    u.writeG o.D (BitVec.ofNat 64 u.vl)))

/-- SETVL (R238). -/
def execSetvl (o : Ops) (s : State) : Out := setVl o s (s.srcG o.A).toNat
/-- SETVLI (R238). -/
def execSetvli (o : Ops) (s : State) : Out := setVl o s (s.srcB o.b).toNat

/-! Masks (R239). -/

/-- Bits 0 to VL - 1 of mask D receive `f i`. -/
def maskOp (o : Ops) (s : State) (f : Nat → Bool) : Out :=
  .next (s.retire (fun t => (List.range t.vl).foldl (fun u i => u.writeM o.D i (f i)) t))

/-- The first set bit of mask A below VL. -/
def firstSet (o : Ops) (s : State) : Option Nat := (List.range s.cpu.vl).find? (fun i => s.cpu.readM o.A i)

/-- MSET (R239). -/
def execMset (o : Ops) (s : State) : Out := maskOp o s (fun _ => true)
/-- MCLR (R239). -/
def execMclr (o : Ops) (s : State) : Out := maskOp o s (fun _ => false)
/-- MAND (R239). -/
def execMand (o : Ops) (s : State) : Out := maskOp o s (fun i => s.cpu.readM o.A i && s.cpu.readM o.B i)
/-- MOR (R239). -/
def execMor (o : Ops) (s : State) : Out := maskOp o s (fun i => s.cpu.readM o.A i || s.cpu.readM o.B i)
/-- MXOR (R239). -/
def execMxor (o : Ops) (s : State) : Out := maskOp o s (fun i => s.cpu.readM o.A i != s.cpu.readM o.B i)
/-- MNOT (R239). -/
def execMnot (o : Ops) (s : State) : Out := maskOp o s (fun i => !s.cpu.readM o.A i)
/-- MANDN (R239). -/
def execMandn (o : Ops) (s : State) : Out := maskOp o s (fun i => s.cpu.readM o.A i && !s.cpu.readM o.B i)
/-- MPOP (R239). -/
def execMpop (o : Ops) (s : State) : Out :=
  .next (s.retire (fun t => t.writeG o.D (BitVec.ofNat 64 ((List.range t.vl).filter (t.readM o.A)).length)))
/-- MFIRST (R239). -/
def execMfirst (o : Ops) (s : State) : Out :=
  .next (s.retire (fun t => t.writeG o.D (match firstSet o s with
    | some i => BitVec.ofNat 64 i
    | none => BitVec.ofNat 64 (2 ^ 64 - 1))))
/-- MBEFORE (R239). -/
def execMbefore (o : Ops) (s : State) : Out := maskOp o s (fun i => ((firstSet o s).map (fun f => decide (i < f))).getD true)
/-- MINCL (R239). -/
def execMincl (o : Ops) (s : State) : Out := maskOp o s (fun i => ((firstSet o s).map (fun f => decide (i ≤ f))).getD true)
/-- MONLY (R239). -/
def execMonly (o : Ops) (s : State) : Out := maskOp o s (fun i => firstSet o s == some i)
/-- MVAL (R239). -/
def execMval (o : Ops) (s : State) : Out := maskOp o s (fun i => s.cpu.readM 8 i)

end Sys2Proof.Machine
end

