-- ==== Sys2Proof/Machine/Permute.lean ====
section
/-! DEFINITION. Permutations, scan and key sort (spec/15_vector.md R248 to R250, spec/05_numbers.md R103). -/

namespace Sys2Proof.Machine

/-- An element of vA at the instruction's type. -/
def permA (o : Ops) (s : State) (i : Nat) : Nat := elemOf s.cpu o.T o.A i

/-- R248: each active element i of vD receives `f i`. -/
def permute (i : Instr) (o : Ops) (neg : Bool) (s : State) (f : Nat → Nat) : Out :=
  vectorOp i o [o.T] neg s (fun k => { val := f k }) (putV o)

/-- VPERM (R248). -/
def execVperm (o : Ops) (s : State) : Out :=
  permute (.vperm o) o o.mn s (fun i =>
    let x := elemOf s.cpu o.T o.B i
    if x < s.cpu.vl then permA o s x else 0)

/-- VSLIDEUP (R248, R233): elements below b are unchanged. -/
def execVslideup (o : Ops) (s : State) : Out :=
  let b := (s.srcB o.b).toNat
  vectorOp (.vslideup o) o [o.T] o.mn s (fun i => { val := permA o s (i - b) }) (fun t i x => if b ≤ i then putV o t i x else t)

/-- VSLIDEDN (R248, R233). -/
def execVslidedn (o : Ops) (s : State) : Out :=
  let b := (s.srcB o.b).toNat
  permute (.vslidedn o) o o.mn s (fun i => if i + b < s.cpu.vl then permA o s (i + b) else 0)

/-- VCOMPRESS (R248): packed positions are written. -/
def execVcompress (o : Ops) (s : State) : Out :=
  atHead (.vcompress o) [o.T] s (unlessVl0 s
    (.next (s.retire (fun t => ((activeList s.cpu o o.mn).zipIdx).foldl (fun u (e : Nat × Nat) => putV o u e.2 (permA o s e.1)) t))))

/-- VEXPAND (R248). -/
def execVexpand (o : Ops) (s : State) : Out :=
  atHead (.vexpand o) [o.T] s (unlessVl0 s
    (.next (s.retire (fun t => ((activeList s.cpu o o.mn).zipIdx).foldl (fun u (e : Nat × Nat) => putV o u e.1 (permA o s e.2)) t))))

/-- VZIP (R248). -/
def execVzip (o : Ops) (s : State) : Out :=
  permute (.vzip o) o false s (fun i =>
    let k := i + o.C * s.cpu.vl
    if k % 2 = 0 then permA o s (k / 2) else elemOf s.cpu o.T o.B (k / 2))

/-- VUNZIP (R248). -/
def execVunzip (o : Ops) (s : State) : Out :=
  permute (.vunzip o) o false s (fun i =>
    let k := 2 * i + o.C
    if k < s.cpu.vl then permA o s k else elemOf s.cpu o.T o.B (k - s.cpu.vl))

/-- VREV (R248). -/
def execVrev (o : Ops) (s : State) : Out := permute (.vrev o) o o.mn s (fun i => permA o s (s.cpu.vl - 1 - i))

/-- R249: the nearest active element below VSTART, whose D a scan reads when it resumes. -/
def scanFrom (t : Strand) (o : Ops) : Option Nat := ((List.range t.vstart).filter (activeAt { t with vstart := 0 } o.M o.mn o.q)).getLast?

/-- R249: the running value with which a scan resumes: D at the nearest active element below VSTART. -/
def scanStart (s : State) (o : Ops) : Option Nat := (scanFrom s.cpu o).map (fun i => elemOf s.cpu o.T o.D i)

/-- R391: the poisoned word that a scan reads, in its source or, when it resumes, in D. -/
def scanPoison (t : Strand) (o : Ops) : Option Word :=
  match poisonedSource t (.vscan o) with
  | some va => some va
  | none => poisonedIn t [o.D] (fun j => scanFrom t o == some j)

/-- R105: the ABN that a pattern of type `t` is. -/
def abnPattern (t x : Nat) : Option Nat := if t = 10 ∧ isAbn x then some x else none

/-- R103, R249, R106: the results of a scan over some elements, in order, up to the first ABN. `abn` is the ABN that a running value taken from D is: the first
element reads it as an operand too. -/
def scanElems (s : State) (o : Ops) (abn prev : Option Nat) : List Nat → List (Nat × Elem)
  | [] => []
  | i :: rest =>
    let a := permA o s i
    match firstAbn [elemAbn s.cpu o.T o.A i, abn] with
    | some x => [(i, { val := 0, abn := some x })]
    | none =>
      let r : Nat × Flags := match prev with
        | none => (a, flagNone)
        | some p =>
          if o.T < 8 then (low (typeWidth o.T) (p + a), flagNone)
          else addVal (fmtOf o.T) s.srcRm (fdecode (fmtOf o.T) p) (fdecode (fmtOf o.T) a)
      (i, { val := r.1, flags := r.2 }) :: scanElems s o none (some r.1) rest

/-- VSCAN (R249, R103, R106). -/
def execVscan (o : Ops) (s : State) : Out :=
  let act := activeList s.cpu o o.mn
  let l := scanElems s o ((scanStart s o).bind (abnPattern o.T)) (scanStart s o) act
  headChecks (.vscan o) [o.T] (scanPoison s.cpu o) s (unlessVl0 s
    (runElems s (l.map (·.1)) (fun i => (l.lookup i).getD { val := 0 }) (putV o) id))

/-- R250: the place of a key in its order. -/
def sortKey (t x : Nat) : Int :=
  if t < 8 then intOf t x
  else if t = 12 then
    (if l8Zero x then 0 else if l8Neg x then -(l8Log x + 64) else l8Log x + 64)
  else
    let f := fmtOf t
    let mag := low (f.width - 1) x
    if x / 2 ^ (f.width - 1) % 2 = 1 then -(mag : Int) - 1 else (mag : Int)

/-- One pair of key and index put into an ascending list, behind equal keys. -/
def insertKey (k : Nat → Int) (e : Nat × Nat) : List (Nat × Nat) → List (Nat × Nat)
  | [] => [e]
  | x :: rest => if k x.1 ≤ k e.1 then x :: insertKey k e rest else e :: x :: rest

/-- A stable ascending sort of pairs of key and index. -/
def sortPairs (k : Nat → Int) : List (Nat × Nat) → List (Nat × Nat) → List (Nat × Nat)
  | acc, [] => acc
  | acc, e :: rest => sortPairs k (insertKey k e acc) rest

/-- VSORTK (R250): keys to vD, original indices to vC. -/
def execVsortk (o : Ops) (s : State) : Out :=
  atHead (.vsortk o) [o.T] s (unlessVl0 s
    (let sorted := sortPairs (sortKey o.T) [] ((activeList s.cpu o false).map (fun i => (permA o s i, i)))
     .next (s.retire (fun t => (sorted.zipIdx).foldl (fun u (e : (Nat × Nat) × Nat) =>
       (putV o u e.2 e.1.1).writeV o.C e.2 (extendV u.ew o.T (low (typeWidth o.T) e.1.2))) t))))

end Sys2Proof.Machine
end

