-- ==== Sys2Proof/Machine/VectorMemory.lean ====
section
/-! DEFINITION. Vector loads, stores and prefetches, vector atomics, waits and counters (spec/17_vecmem.md R251, R262 to R274; spec/07_memory.md
R119 to R124, R143; spec/03_execution.md R60 to R68, R76). -/

namespace Sys2Proof.Machine

/-! Addresses (R251). -/

/-- The address forms of vector accesses; `engine` stands for the elements of an engine operation, which mark no page (R123). -/
inductive VForm where
  | unit | strided | indexed | engine
deriving DecidableEq, Repr

/-- The exact address of element `i`; only a strided one may lie outside 0 to 2^64 - 1. -/
def vExact (o : Ops) (s : State) (f : VForm) (i : Nat) : Int :=
  let base : Int := (s.srcG o.A).toNat
  match f with
  | .unit => base + (s.srcB o.b).toNat + ((i * accessBytes o.T : Nat) : Int)
  | .strided => base + (i : Int) * (s.srcB o.b).toInt
  | .indexed => base + signedOf s.cpu.ew (s.cpu.readV o.B i)
  | .engine => base + ((i * accessBytes o.T : Nat) : Int)

/-- The address of element `i`, modulo 2^64. -/
def vEa (o : Ops) (s : State) (f : VForm) (i : Nat) : Word := BitVec.ofInt 64 (vExact o s f i)

/-- R251: a strided form leaves the address space at some active element. -/
def strideBad (o : Ops) (s : State) (f : VForm) (act : List Nat) : Bool :=
  f = .strided && act.any (fun i => decide (vExact o s f i < 0) || decide (((2 ^ 64 : Nat) : Int) ≤ vExact o s f i))

/-- R251: STRIDE with TVAL = b, and nothing is performed. -/
def unlessStride (o : Ops) (s : State) (f : VForm) (act : List Nat) (k : Out) : Out :=
  if strideBad o s f act then .next (queuedTrap s causeStride (s.srcB o.b)) else k

/-- The active elements of a memory instruction. -/
def activeMem (t : Strand) (o : Ops) (neg : Bool) : List Nat := (List.range t.vl).filter (activeAt t o.M neg false)

/-! Translation in element order (R119, R121, R123). -/

/-- R123, R124: the leaf's UO bit after a touch, and the home agent's note of an indexed touch. -/
def touchPage (s : State) (vi : Nat) (f : VForm) (p : Place) : State :=
  if p.kind ≠ .pg ∨ f = .engine then s
  else
    let page := p.tag % 131072
    let s1 := match walk s (haPkg p.ha) (haDie p.ha) (haChan p.ha) vi (page * 65536) with
      | none => s
      | some (at_, l) =>
        if l.uo = (f == .unit) then s
        else
          let b := memGet s.mem (at_ + 1)
          { s with mem := memSet s.mem (at_ + 1) (if f = .unit then b ||| 4 else b &&& ~~~4) }
    if f ≠ .indexed then s1
    else
      let c := s1.chan (p.tag / 131072)
      let key := vi * 131072 + page
      s1.setChan (p.tag / 131072) { c with pages := cellPut c.pages key { cellGet {} c.pages key with gathered := true } }

/-- An element with its address and its places. -/
structure VElem where
  i      : Nat
  va     : Word
  places : List (Place × Nat)
deriving Repr

/-- What the translation of some elements gives: all of them, those below a faulting one, or a stall. -/
inductive VTrans where
  | done (els : List VElem) (s : State)
  | fault (els : List VElem) (i cause : Nat) (tval : Word) (s : State)
  | wait (s : State)

/-- Put an element before what the later ones gave. -/
def VTrans.cons (e : VElem) : VTrans → VTrans
  | .done els s => .done (e :: els) s
  | .fault els i c t s => .fault (e :: els) i c t s
  | .wait s => .wait s

/-- R119: elements translated in rising index order, which is the order of the lowest active element of each page. An element whose word an earlier
non-blocking access of the same class has yet to reach stalls (R150, R151). -/
def vTranslate (w : Who) (k : AccKind) (n : Nat) (f : VForm) (ea : Nat → Word) : State → List Nat → VTrans
  | s, [] => .done [] s
  | s, i :: rest =>
    match placesOf s w (ea i) n k with
    | .fault c t s1 => .fault [] i c t s1
    | .wait s1 => .wait s1
    | .ok ps s1 =>
      if wordPending s1 k.writes ps then .wait s1 else
      (vTranslate w k n f ea (ps.foldl (fun st p => touchPage st w.vi f p.1) s1) rest).cons { i := i, va := ea i, places := ps }

/-! Watermark links (R67, R68). -/

/-- What the links of a strand say to a read at an address. -/
inductive WmAnswer where
  | pass (s : State)
  | stall (s : State)
  | fault (cause : Nat) (tval : Word) (s : State)

/-- R68: link `j` covers the address with an element at or beyond its cached watermark. -/
def linkBelow (l : WmLink) (a : Nat) : Bool :=
  decide (l.base.toNat ≤ a) && decide (a < l.base.toNat + l.bytes.toNat) && decide (l.w ≤ (a - l.base.toNat) / l.esize)

/-- R68: the first stall on a link subscribes at the cell's home and receives its value. -/
def subscribe (s : State) (k : TlbKind) (j : Nat) (l : WmLink) : Acc Unit :=
  if misaligned l.cell 8 then .fault causeAlign l.cell s
  else
    match readMem s (s.who k) l.cell 8 0 .read with
    | .fault c _ s1 => .fault c l.cell s1
    | .wait s1 => .wait s1
    | .ok x s1 => .ok () (s1.onCpu (fun t => { t with links := t.links.set j { l with w := leNat x.bytes, sub := true } }))

/-- R68: the links from number `j` on, checked for a read at address `a`. -/
def checkLinks (k : TlbKind) (a : Nat) : State → Nat → List WmLink → WmAnswer
  | s, _, [] => .pass s
  | s, j, l :: rest =>
    if !linkBelow l a then checkLinks k a s (j + 1) rest
    else if l.sub then .stall s
    else
      match subscribe s k j l with
      | .fault c t s1 => .fault c t s1
      | .wait s1 => .stall s1
      | .ok _ s1 => if linkBelow (s1.cpu.links.getD j l) a then .stall s1 else checkLinks k a s1 (j + 1) rest

/-- R68: a read of an element at `va`. -/
def wmCheck (s : State) (k : TlbKind) (va : Word) : WmAnswer := checkLinks k va.toNat s 0 s.cpu.links

/-! Reading elements (R263, R268). -/

/-- R268: the bytes of a place that one prefetch line holds whole. -/
def prefetched (t : Strand) (p : Place) (n : Nat) : Option (List Byte) :=
  if p.kind ≠ .pg ∨ p.viaWindow ∨ p.hs then none
  else
    match t.prefetch.find? (fun l => l.1 = p.ha / 256 * 256) with
    | none => none
    | some l =>
      let bytes := (List.range n).map (fun j => l.2.1.lookup (p.ha % 256 + j))
      if bytes.all Option.isSome then some (bytes.map (fun x => x.getD 0)) else none

/-- R268: after a vector load every line goes that holds a word it has read. -/
def dropTouched (s : State) (els : List VElem) : State := forgetRead s s.cpu.tid (els.flatMap (·.places))

/-- The bytes of an element, from the prefetch buffer or from their homes; poison faults UE_DATA. -/
def readParts (w : Who) (hint : Nat) (tval : Word) : State → List (Place × Nat) → Acc Got
  | s, [] => .ok { bytes := [] } s
  | s, (p, n) :: rest =>
    let one : Acc Got := match prefetched s.cpu p n with
      | some b => .ok { bytes := b, inv := homeInv s p.ha n } s
      | none => readPlaces w hint tval s [(p, n)]
    one.andThen (fun x s1 => (readParts w hint tval s1 rest).andThen (fun y s2 => .ok { bytes := x.bytes ++ y.bytes, inv := x.inv || y.inv } s2))

/-- How the reading of some elements ended. -/
inductive LoadEnd where
  | done
  | stall (i : Nat)
  | fault (i cause : Nat) (tval : Word)
deriving DecidableEq, Repr

/-- R263, R231, R97: a loaded element arrives. -/
def putLoaded (o : Ops) (i : Nat) (x : Got) (t : Strand) : Strand :=
  let u := t.writeV o.D i (extendV t.ew o.T (leNat x.bytes))
  if x.inv then u.writeM 8 i false else u

/-- R263: elements read in index order up to the first that stalls or fails. -/
def loadElems (o : Ops) (w : Who) : State → List VElem → State × LoadEnd
  | s, [] => (s, .done)
  | s, e :: rest =>
    match wmCheck s .vector e.va with
    | .stall s1 => (s1, .stall e.i)
    | .fault c t s1 => (s1, .fault e.i c t)
    | .pass s1 =>
      match readParts w (hintWords o.hint) e.va s1 e.places with
      | .ok x s2 => loadElems o w (s2.onCpu (putLoaded o e.i x)) rest
      | .fault c t s2 => (s2, .fault e.i c t)
      | .wait s2 => (s2, .stall e.i)

/-- The machine with VSTART at `i`. -/
def atElement (s : State) (i : Nat) : State := s.onCpu (fun t => { t with vstart := i })

/-- R267: the causes that a fault-first load trims at. -/
def trims (c : Nat) : Bool := decide (causeStride ≤ c) && decide (c ≤ causeNode)

/-- The head of the queue changed. -/
def onHead (s : State) (f : QEntry → QEntry) : State :=
  s.onCpu (fun t => { t with queue := match t.queue with
                                      | [] => []
                                      | e :: rest => f e :: rest })

/-- What the load at the head has read before it stalled (R176). -/
def readSoFar (s : State) : List (Nat × BitVec 8 × Nat) := (s.cpu.queue.head?.map (·.read)).getD []

/-- R176: the elements of a stalled load that are read again: they lie on a page of which the load has more to read, and whose generation has advanced since,
or whose home lies on another die, where a request of it may yet be refused. -/
def staleReads (s : State) (els : List VElem) : List Nat :=
  ((readSoFar s).filter (fun x => els.any (fun e => e.places.any (fun p => p.1.kind = .pg && p.1.tag = x.1
      && (genOf s x.1 ≠ x.2.1 || placeDie s p.1 != s.myDie))))).map (fun x => x.2.2)

/-- R176: the head keeps what its load has read, by page. -/
def keepReads (s : State) (els : List VElem) : State :=
  let again := els.map (·.i)
  onHead s (fun e => { e with read := e.read.filter (fun x => !again.contains x.2.2)
                                ++ els.flatMap (fun e => (e.places.filter (fun p => p.1.kind = .pg)).map (fun p => (p.1.tag, p.1.gen, e.i))) })

/-- R129, R263: the requests of a load for the words that no prefetch line holds, one for each frame. -/
def requestElems (o : Ops) (w : Who) (s : State) (els : List VElem) : State :=
  requestFrames s w (hintWords o.hint) ((els.flatMap (·.places)).filter (fun x => (prefetched s.cpu x.1 x.2).isNone))

/-- The elements of one step of the VMU, of the hash and stream engine (R64). -/
def stepElems : Nat := 64

/-- R64: the operation at the head of the queue stands between two of its steps; its next one follows in its turn. -/
def betweenSteps (s : State) (p : EnginePass) : State := onHead s (fun e => { e with pass := some p })

/-- The mark of a vector access or a TMAC between two steps; a trap removes it. -/
def accessPass : EnginePass := { desc := [0] }

/-- The access at the head has performed a step already. -/
def started (s : State) : Bool := s.cpu.queue.head?.any (fun e => e.pass.isSome)

/-- R263, R76: some elements read in index order. A stall holds the load at its element, with those below it read; `fin` follows them all. -/
def readLoad (o : Ops) (els : List VElem) (s : State) (fin : State → State) : State :=
  let w := s.who .vector
  match loadElems o w (requestElems o w s els) els with
  | (s1, .done) => fin (dropTouched s1 els)
  | (s1, .stall i) =>
    (let below := els.filter (fun e => decide (e.i < i))
     (atElement (keepReads (dropTouched s1 below) below) i).park)
  | (s1, .fault i c t) => queuedTrap (atElement (dropTouched s1 (els.filter (fun e => decide (e.i ≤ i)))) i) c t

/-- R119, R176: the elements of a load translated, with those that a stalled load reads again before them. -/
def translateLoad (o : Ops) (f : VForm) (s : State) (act : List Nat) : VTrans :=
  let w := s.who .vector
  let again := fun (els : List VElem) (s1 : State) (x : VTrans) => match staleReads s1 els with
    | [] => x
    | l => vTranslate w .read (accessBytes o.T) f (vEa o s f) s1 (l.eraseDups ++ act)
  match vTranslate w .read (accessBytes o.T) f (vEa o s f) s act with
  | .done els s1 => again els s1 (.done els s1)
  | .fault els i c t s1 => again els s1 (.fault els i c t s1)
  | .wait s1 => .wait s1

/-- The bytes of the elements of a load, by page: element, first byte of the element, place, count. -/
def loadParts (els : List VElem) : List (Nat × Nat × Place × Nat) :=
  (els.map (fun e => (e.places.foldl (fun (acc : Nat × List (Nat × Nat × Place × Nat)) x =>
    (acc.1 + x.2, acc.2 ++ [(e.i, acc.1, x.1, x.2)])) (0, [])).2)).flatten

/-- The parts of elements, cut where a frame ends. -/
def frameCuts (x : Nat × Nat × Place × Nat) : List (Nat × Nat × Place × Nat) :=
  let room := 256 - x.2.2.1.ha % 256
  if x.2.2.2 ≤ room then [x] else [(x.1, x.2.1, x.2.2.1, room), (x.1, x.2.1 + room, x.2.2.1.add room, x.2.2.2 - room)]

/-- R166, R263, R327: a piece for each frame that the load touches. -/
def loadPieces (o : Ops) (els : List VElem) : List (Place × PieceOp) :=
  let parts := (loadParts els).flatMap frameCuts
  let frames := (parts.map (fun x => x.2.2.1.va.toNat / 256)).eraseDups
  frames.filterMap (fun frame =>
    match parts.filter (fun x => x.2.2.1.va.toNat / 256 = frame) with
    | [] => none
    | x :: rest =>
      let base := rest.foldl (fun (b : Place) y => if y.2.2.1.va.toNat < b.va.toNat then y.2.2.1 else b) x.2.2.1
      some (base, .loads o.D o.T ((x :: rest).map (fun y => (y.1, y.2.2.1.va.toNat - base.va.toNat, y.2.1, y.2.2.2)))))

/-- Some element lies on a host-shared page. -/
def elemsHs (els : List VElem) : Bool := els.any (fun e => anyHs e.places)

/-- Some bytes of the elements are reached by packets (R327, R362). -/
def elemsAway (s : State) (w : Who) (els : List VElem) : Bool := els.any (fun e => anyAway s w e.places)

/-- R68: the elements that may be read before the first that stalls or faults at a watermark link. -/
def passElems : State → List VElem → List VElem × State
  | s, [] => ([], s)
  | s, e :: rest =>
    match wmCheck s .vector e.va with
    | .pass s1 => (let (l, s2) := passElems s1 rest; (e :: l, s2))
    | .stall s1 => ([], s1)
    | .fault _ _ _ => ([], s)

/-- The lowest element of a load that a piece reads. -/
def leastElem : PieceOp → Nat
  | .loads _ _ els => els.foldl (fun m e => min m e.1) ((els.headD (0, 0, 0, 0)).1)
  | _ => 0

/-- R120, R263: a blocking load of elements on other dies: a piece for each frame, and the load waits for them. `fault` is the element at which translation
stopped; `whole` says that these elements are all that the load has left. -/
def awaitLoad (o : Ops) (els : List VElem) (fault : Option (Nat × Nat × Word)) (whole : Bool) (s : State) : State :=
  let s1 := awaitPieces (keepReads s els) (elemsHs els) none ((loadPieces o els).map (fun x => (leastElem x.2, x)))
  onHead s1 (fun e => { e with fails := fault.toList, land := if whole then some (o.D, o.T) else none, issued := els.map (·.i) })

/-- R267: a load ends at a fault: a fault-first one trims there, another traps. Behind its first step no element is the lowest (R64). -/
def loadFault (ff : Bool) (act : List Nat) (x : Nat × Nat × Word) (s : State) : State :=
  if ff && trims x.2.1 && (act.head? != some x.1 || started s) then s.retire (fun u => { u with vl := x.1, vfs := u.vfs ||| 1 })
  else queuedTrap (atElement s x.1) x.2.1 x.2.2

/-- R263: the elements below `i` that have arrived whole are written. -/
def landBelow (o : Ops) (e : QEntry) (i : Nat) (s : State) : State :=
  let mine := e.got.filter (fun x => decide (x.1 < i))
  s.onCpu (fun u => markInv (putParts u o.D o.T mine) (e.gotInv.filter (fun j => decide (j < i) && partsWhole o.T mine j)))

/-- R263, R120: the pieces of a load have ended: the elements below the lowest failure are written, and it traps there; or all are, and the load completes or
goes on with those that it has not asked for. `e` is the load. -/
def loadDone (o : Ops) (ff : Bool) (e : QEntry) (fails : List (Nat × Nat × Word)) (s : State) : Out :=
  let act := activeMem s.cpu o o.mn
  match lowestFail fails with
  | some x => .next (loadFault ff act x (landBelow o e x.1 s))
  | none =>
    let s1 := landBelow o e (2 ^ 64) s
    match act.filter (fun i => !e.issued.contains i) with
    | [] => .next (s1.retire id)
    | j :: _ => .next (atElement s1 j).park

/-- R64: a load of its own die reads one step of its elements; `fin` follows the last of them. -/
def readStep (o : Ops) (els : List VElem) (s : State) (fin : State → State) : State :=
  match els.drop stepElems with
  | [] => readLoad o els s fin
  | e :: _ =>
    let now := els.take stepElems
    readLoad o now s (fun s1 => betweenSteps (atElement (keepReads s1 now) e.i) accessPass)

/-- R263, R267, R76: the translated elements of a load: pieces where some lie on another die, else read one step after another. `fault` is where translation
stopped, and `fin` follows the last element. -/
def loadSome (o : Ops) (els : List VElem) (fault : Option (Nat × Nat × Word)) (s s1 : State) (fin : State → State) : Out :=
  let (pre, s2) := passElems s1 els
  let all := pre.length == els.length
  if elemsAway s1 (s.who .vector) pre then .next (awaitLoad o pre (if all then fault else none) (all && fault.isNone) s2)
  else .next (readStep o els s1 fin)

/-- R263, R267: a blocking load that starts, or goes on. -/
def loadBlocking (o : Ops) (f : VForm) (ff : Bool) (s : State) : Out :=
  let act := activeMem s.cpu o o.mn
  match translateLoad o f s act with
  | .wait s1 => .next s1.park
  | .done els s1 => loadSome o els none s s1 (fun s3 => s3.retire id)
  | .fault els i c t s1 => loadSome o els (some (i, c, t)) s s1 (loadFault ff act (i, c, t))

/-- R68: the links checked for every element before a non-blocking load issues. -/
def checkAll (k : TlbKind) : State → List VElem → WmAnswer
  | s, [] => .pass s
  | s, e :: rest =>
    match wmCheck s k e.va with
    | .pass s1 => checkAll k s1 rest
    | .stall s1 => .stall s1
    | .fault c t s1 => .fault c t s1

/-- R266: a non-blocking load leaves the queue once it is translated. A watermark stall holds it at the stalling element, with the elements below it read
(R76); a fault is raised behind the elements below it (R263). While it stands in the queue it reads them as a blocking load does, and a failure there traps
precisely: R76 and R166 leave open how (DESIGN CHOICE, log entry 76). -/
def loadNb (o : Ops) (f : VForm) (s : State) : Out :=
  let act := activeMem s.cpu o o.mn
  if ccFull s o.ccNo then .next s.park
  else
    match translateLoad o f s act with
    | .wait s1 => .next s1.park
    | .done els s1 =>
      (match checkAll .vector s1 els with
       | .stall s2 => loadSome o els none s s2 (fun s3 => s3.retire id)
       | .fault _ _ _ => loadSome o els none s s1 (fun s3 => s3.retire id)
       | .pass s2 => .next ((issueNb (dropTouched s2 els) o.ccNo (elemsHs els) none (loadPieces o els)).retire id))
    | .fault els i c t s1 => loadSome o els (some (i, c, t)) s s1 (fun s2 => queuedTrap (atElement s2 i) c t)

/-- R262, R263: the shape of every vector load. -/
def vload (i : Instr) (o : Ops) (f : VForm) (ff : Bool) (s : State) : Out :=
  awaited s (fun s => atHead i [o.T] s (unlessVl0 s (unlessStride o s f (activeMem s.cpu o o.mn)
    (if o.nb then loadNb o f s else loadBlocking o f ff s))))
    (fun fails s1 => loadDone o (ff && !o.nb) (s.cpu.queue.headD { pc := 0, word := 0, instr := i }) fails s1)

/-- VLD (R262, R263). -/
def execVld (o : Ops) (s : State) : Out := vload (.vld o) o .unit false s
/-- VLDS (R262, R263). -/
def execVlds (o : Ops) (s : State) : Out := vload (.vlds o) o .strided false s
/-- VLDX (R262, R263). -/
def execVldx (o : Ops) (s : State) : Out := vload (.vldx o) o .indexed false s
/-- VLDFF (R267). -/
def execVldff (o : Ops) (s : State) : Out := vload (.vldff o) o .unit true s
/-- VLDXFF (R267). -/
def execVldxff (o : Ops) (s : State) : Out := vload (.vldxff o) o .indexed true s

/-! Performing elements at their homes (R264, R120, R143). -/

/-- What performing one element gives: the state, its status, and TVAL if it failed. -/
abbrev Perform := State → VElem → State × Status × Word

/-- The performed elements and the lowest failure: element, status, TVAL. -/
structure Performance where
  s    : State
  done : List Nat := []
  fail : Option (Nat × Status × Word) := none

/-- Elements performed in the order of the list; `stop` ends at the first failure (R143). -/
def performAll (f : Perform) (stop : Bool) (x : Performance) : List VElem → Performance
  | [] => x
  | e :: rest =>
    if stop && x.fail.isSome then x
    else
      match f x.s e with
      | (s1, .ok, _) => performAll f stop { x with s := s1, done := x.done ++ [e.i] } rest
      | (s1, st, t) =>
        performAll f stop { x with s := s1, fail := match x.fail with
                                              | none => some (e.i, st, t)
                                              | some g => if e.i < g.1 then some (e.i, st, t) else some g } rest

/-- R120: the performed elements above `i`, kept in the oldest entry. -/
def keepBitmap (s : State) (i : Nat) (done : List Nat) : State :=
  s.onCpu (fun t => { t with queue := match t.queue with
                                      | [] => []
                                      | e :: rest => { e with bitmap := (e.bitmap ++ done).filter (fun j => decide (i < j)) } :: rest })

/-- The elements of the oldest entry that are performed already (R120). -/
def doneAlready (s : State) : List Nat :=
  match s.cpu.queue with
  | [] => []
  | e :: _ => e.bitmap

/-- R64: a store or atomic goes on with the elements that it has not performed; the performed ones above the lowest of them stay in the bitmap (R120). -/
def goOn (rest : List Nat) (done : List Nat) (s : State) : State :=
  match rest with
  | [] => s.retire id
  | j :: more => let i := more.foldl min j; betweenSteps (keepBitmap (atElement s i) i done) accessPass

/-- R264, R120: the end of a step of a blocking store or atomic: the lowest failure traps, then a translation fault, else `fin` follows. -/
def settle (x : Performance) (fault : Option (Nat × Nat × Word)) (fin : State → State) : Out :=
  match x.fail with
  | some (i, st, t) => .next (queuedTrap (keepBitmap (atElement x.s i) i x.done) st.cause t)
  | none =>
    match fault with
    | some (i, c, t) => .next (queuedTrap (keepBitmap (atElement x.s i) i x.done) c t)
    | none => .next (fin x.s)

/-- A failed element's status and TVAL over its places. -/
def elemTval (s : State) (st : Status) (e : VElem) : Word :=
  if st = .ue then
    match e.places.find? (fun x => placePoisoned s x.1 x.2) with
    | some (p, n) => poisonVa s p n
    | none => e.va
  else e.va

/-! Stores. -/

/-- The bytes that a store writes for element `i`, and whether mq marks them invalid (R97). -/
def storedBytes (o : Ops) (t : Strand) (i : Nat) : List Byte × Bool := (leBytes (accessBytes o.T) (elemOf t o.T o.D i), !t.readM 8 i)

/-- One element of a blocking store. -/
def storeElem (o : Ops) (w : Who) (t : Strand) : Perform := fun s e =>
  let (bytes, inv) := storedBytes o t e.i
  let (s1, st) := writePlaces w .store inv s e.places bytes
  (s1, st, elemTval s1 st e)

/-- A part of what a store writes: its place, its bytes, whether the element's mq bit is 1 (R97), and the element. -/
abbrev StorePart := Place × List Byte × Bool × Nat

/-- The parts of one element, in one page and one 64-byte block each. -/
def elemParts : List (Place × Nat) → List Byte → Bool × Nat → List StorePart
  | [], _, _ => []
  | (p, n) :: rest, bytes, ok =>
    let k := min n (64 - p.ha % 64)
    (p, bytes.take k, ok) :: (if k < n then [(p.add k, (bytes.take n).drop k, ok)] else []) ++ elemParts rest (bytes.drop n) ok

/-- The parts of what a store writes for some elements. -/
def storeParts (o : Ops) (t : Strand) (els : List VElem) : List StorePart :=
  els.flatMap (fun e => elemParts e.places (storedBytes o t e.i).1 (!(storedBytes o t e.i).2, e.i))

/-- The part lies in a decoded window. -/
def partInWindow (s : State) (x : StorePart) : Bool := x.1.kind = .pg && (regionAt (s.chan (haChanKey x.1.ha)) (haOff x.1.ha)).isSome

/-- The place of the 64-byte block in which a part lies. -/
def blockPlace (p : Place) : Place := { p with ha := p.ha / 64 * 64, va := p.va - BitVec.ofNat 64 (p.ha % 64) }

/-- The byte of a store at a home address: the last part that covers it. -/
def partByte (l : List StorePart) (ha : Nat) : Option Byte :=
  (l.reverse.find? (fun x => decide (x.1.ha ≤ ha) && decide (ha < x.1.ha + x.2.1.length))).map (fun x => x.2.1.getD (ha - x.1.ha) 0)

/-- R97: the blocks of decoded windows that a vector store writes whole, every element of it with mq = 1. `wrote` is what the store wrote before it was
interrupted: it counts while the block still holds it. -/
def wholeBlocks (s : State) (parts : List StorePart) (wrote : List (Nat × List Byte × Bool)) : List Place :=
  let mine := parts.filter (partInWindow s)
  let blocks := mine.foldl (fun (l : List Place) x => if l.any (fun b => b.ha = x.1.ha / 64 * 64) then l else l ++ [blockPlace x.1]) []
  blocks.filter (fun b =>
    let here := mine.filter (fun x => x.1.ha / 64 * 64 = b.ha)
    let v := b.va.toNat
    let old := wrote.filter (fun x => decide (x.1 < v + 64) && decide (v < x.1 + x.2.1.length))
    here.all (fun x => x.2.2.1) && old.all (fun x => x.2.2)
    && (List.range 64).all (fun j => (partByte here (b.ha + j)).isSome
          || old.any (fun x => decide (x.1 ≤ v + j) && (x.2.1[v + j - x.1]?) == some (homeByte s (haChanKey b.ha) (haOff b.ha + j)))))

/-- R97: those blocks become valid. -/
def validateAll (s : State) (l : List Place) : State := l.foldl (fun st p => validateBlock st p.ha) s

/-- What the store at the head wrote into decoded windows before it was interrupted (R97). -/
def wroteSoFar (s : State) : List (Nat × List Byte × Bool) := (s.cpu.queue.head?.map (·.wrote)).getD []

/-- R97: after some elements of a store have been performed, the blocks that it has written whole become valid, and the head keeps what it wrote. -/
def settleBlocks (o : Ops) (t : Strand) (els : List VElem) (x : Performance) : Performance :=
  let parts := storeParts o t (els.filter (fun e => x.done.contains e.i))
  let wrote := wroteSoFar x.s
  let kept := (parts.filter (partInWindow x.s)).map (fun y => (y.1.va.toNat, y.2.1, y.2.2.1))
  { x with s := onHead (validateAll x.s (wholeBlocks x.s parts wrote)) (fun e => { e with wrote := wrote ++ kept }) }

/-- Who makes the accesses of a vector store: its requests carry the instruction's extent hint (R130). -/
def storeWho (o : Ops) (s : State) : Who := { s.who .vector with hint := hintWords o.hint }

/-- The elements of a store performed at their homes. -/
def performStore (o : Ops) (s : State) (els : List VElem) (s1 : State) : Performance :=
  settleBlocks o s.cpu els (performAll (storeElem o (storeWho o s) s.cpu) (elemsHs els) { s := s1 } els)

/-- R158, R264: two elements name one byte, so the elements keep their index order. -/
def bytesShared : List VElem → Bool
  | [] => false
  | e :: rest =>
    e.places.any (fun x => rest.any (fun d => d.places.any (fun y =>
      x.1.kind = y.1.kind && x.1.tid = y.1.tid && decide (x.1.ha < y.1.ha + y.2) && decide (y.1.ha < x.1.ha + x.2)))) || bytesShared rest

/-- The pieces of a store, each with its lowest element: a block that it writes whole is one write of 64 bytes (R97), every other part a write of its
own. -/
def blockPieces (all : List StorePart) (blocks : List Place) : List Nat → List StorePart → List (Nat × Place × PieceOp)
  | _, [] => []
  | seen, x :: rest =>
    match blocks.find? (fun b => x.1.kind = .pg && x.1.ha / 64 * 64 = b.ha) with
    | none => (wordPieces (x.2.1.length + 1) x.1 x.2.1 (!x.2.2.1)).map (fun y => (x.2.2.2, y)) ++ blockPieces all blocks seen rest
    | some b =>
      if seen.contains b.ha then blockPieces all blocks seen rest
      else
        let mine := all.filter (fun y => y.1.kind = .pg && y.1.ha / 64 * 64 = b.ha)
        (mine.foldl (fun m y => min m y.2.2.2) x.2.2.2, b, .write ((List.range 64).map (fun j => (partByte mine (b.ha + j)).getD 0)) false) :: blockPieces all blocks (b.ha :: seen) rest

/-- The pieces of the elements of a store. -/
def storePiecesOf (o : Ops) (s : State) (els : List VElem) : List (Nat × Place × PieceOp) :=
  let parts := storeParts o s.cpu els
  blockPieces parts (wholeBlocks s parts []) [] parts

/-- The pieces of a blocking store or atomic on other dies: it waits for them (R120). `fault` is the element at which translation stopped. -/
def awaitElems (s : State) (inOrder : Bool) (els : List VElem) (fault : Option (Nat × Nat × Word)) (l : List (Nat × Place × PieceOp)) : State :=
  onHead (awaitPieces s inOrder none l) (fun e => { e with fails := fault.toList, issued := els.map (·.i) })

/-- R97: the blocks of decoded windows that a store has written whole in several parts, every element of them with mq = 1, become valid, where they still hold
what it wrote. -/
def validateWrote (s : State) : State :=
  let wrote := wroteSoFar s
  ((wrote.map (fun x => x.1 / 64)).eraseDups).foldl (fun st b =>
    match placeOf st (st.who .vector) (BitVec.ofNat 64 (64 * b)) 64 .write with
    | .ok p _ =>
      let here := wrote.filter (fun x => decide (x.1 < 64 * b + 64) && decide (64 * b < x.1 + x.2.1.length))
      let held := fun (j : Nat) => here.any (fun x => decide (x.1 ≤ 64 * b + j)
        && (x.2.1[64 * b + j - x.1]?) == some (homeByte st (haChanKey p.ha) (haOff p.ha + j)))
      if p.kind = .pg && here.all (fun x => x.2.2) && (List.range 64).all held then validateBlock st p.ha else st
    | .fault _ _ _ => st
    | .wait _ => st) s

/-- The 64-byte blocks that an element touches. -/
def elemBlocks (o : Ops) (s : State) (f : VForm) (i : Nat) : Nat × Nat :=
  ((vEa o s f i).toNat / 64, ((vEa o s f i).toNat + accessBytes o.T - 1) / 64)

/-- R120, R264: the pieces of a blocking store or atomic have ended: it completes, or traps at its lowest failure, with the elements above it that were
performed in the bitmap. A block of a decoded window that failed as a whole fails every element in it. -/
def elemsDone (o : Ops) (f : VForm) (e : QEntry) (fails : List (Nat × Nat × Word)) (s : State) : Out :=
  match lowestFail fails with
  | none => .next ((validateWrote s).retire id)
  | some (i, c, t) =>
    let failed := fun (j : Nat) => fails.any (fun x => x.1 = j)
      || e.lost.any (fun b => decide ((elemBlocks o s f j).1 ≤ b) && decide (b ≤ (elemBlocks o s f j).2))
    .next (queuedTrap (keepBitmap (atElement s i) i (e.issued.filter (fun j => !failed j))) c t)

/-- R97: what a store on its way writes into decoded windows is kept, should it be interrupted. -/
def keepWrote (o : Ops) (t : Strand) (els : List VElem) (s : State) : State :=
  onHead s (fun e => { e with wrote := e.wrote ++ ((storeParts o t els).filter (partInWindow s)).map (fun y => (y.1.va.toNat, y.2.1, y.2.2.1)) })

/-- R264, R64: a blocking store that starts or goes on: its elements on its own die and scratchpads are performed one step after another; where some lie on
another die all of them travel as pieces. -/
def storeElems (o : Ops) (s : State) (els : List VElem) (fault : Option (Nat × Nat × Word)) (s1 : State) : Out :=
  if elemsAway s1 (s.who .vector) els then
    .next (awaitElems (keepWrote o s.cpu els s1) (elemsHs els || bytesShared els) els fault (storePiecesOf o s1 els))
  else
    let rest := els.drop stepElems
    let x := performStore o s (els.take stepElems) s1
    settle x (if rest.isEmpty then fault else none) (goOn (rest.map (·.i)) [])

/-- R264: a blocking store. -/
def storeBlocking (o : Ops) (f : VForm) (s : State) : Out :=
  let act := (activeMem s.cpu o o.mn).filter (fun i => !(doneAlready s).contains i)
  match vTranslate (s.who .vector) .write (accessBytes o.T) f (vEa o s f) s act with
  | .wait s1 => .next s1.park
  | .done els s1 => storeElems o s els none s1
  | .fault els i c t s1 => storeElems o s els (some (i, c, t)) s1

/-- R166: a failure of an operation that has ended is recorded in its counter. -/
def failCC (s : State) (c : Nat) (st : Status) : State := s.onCpu (fun t => t.writeCC c (ccFail (t.readCC c) st))

/-- R266, R97: a non-blocking store that had written into a decoded window before a fault performs the rest of its elements as it leaves the queue; its
failures go into its counter (R166). -/
def storeRest (o : Ops) (s : State) (els : List VElem) (s1 : State) : Out :=
  let x := performStore o s els s1
  .next ((match x.fail with
    | none => x.s
    | some (_, st, _) => failCC x.s o.ccNo st).retire id)

/-- R266: a non-blocking store: one operation. -/
def storeNbV (o : Ops) (f : VForm) (s : State) : Out :=
  let act := (activeMem s.cpu o o.mn).filter (fun i => !(doneAlready s).contains i)
  if ccFull s o.ccNo then .next s.park
  else
    match vTranslate (s.who .vector) .write (accessBytes o.T) f (vEa o s f) s act with
    | .wait s1 => .next s1.park
    | .fault els i c t s1 => storeElems o s els (some (i, c, t)) s1
    | .done els s1 =>
      if !(wroteSoFar s1).isEmpty && !elemsAway s1 (s.who .vector) els then storeRest o s els s1
      else
        .next ((issueNb s1 o.ccNo (elemsHs els || bytesShared els) none ((storePiecesOf o s1 els).map (·.2))).retire id)

/-- R262, R264: the shape of every vector store. -/
def vstore (i : Instr) (o : Ops) (f : VForm) (s : State) : Out :=
  awaited s (fun s => afterPosts o.releases s (atHead i [o.T] s (unlessVl0 s (unlessStride o s f (activeMem s.cpu o o.mn)
    (if o.nb then storeNbV o f s else storeBlocking o f s)))))
    (fun fails s1 => elemsDone o f (s.cpu.queue.headD { pc := 0, word := 0, instr := i }) fails s1)

/-- VST (R262, R264). -/
def execVst (o : Ops) (s : State) : Out := vstore (.vst o) o .unit s
/-- VSTS (R262, R264). -/
def execVsts (o : Ops) (s : State) : Out := vstore (.vsts o) o .strided s
/-- VSTX (R262, R264). -/
def execVstx (o : Ops) (s : State) : Out := vstore (.vstx o) o .indexed s

/-! VPREF (R268). -/

/-- The form that VPREF's C selects. -/
def vprefForm (c : Nat) : VForm :=
  match c with
  | 0 => .unit
  | 1 => .strided
  | _ => .indexed

/-- R268: bytes `ha` to `ha + n - 1` of one frame enter the prefetch buffer; when it is full the oldest line goes. -/
def prefetchFrame (s : State) (w : Who) (p : Place) (ha n : Nat) : State :=
  if homePoisoned s ha n then s
  else
    let base := ha / 256 * 256
    let s1 := useHome s w.vi p.rc ha n 0 .read
    let new := (List.range n).map (fun j => (ha % 256 + j, (homeBytes s1 ha n).getD j 0))
    s1.onCpu (fun t =>
      match t.prefetch.find? (fun l => l.1 = base && l.2.2 = p.tag) with
      | some l => { t with prefetch := t.prefetch.map (fun x => if x.1 = base && x.2.2 = p.tag then
                                          (base, new.foldl (fun c b => cellPut c b.1 b.2) l.2.1, p.tag) else x) }
      | none =>
        let l := t.prefetch.filter (fun x => x.1 ≠ base) ++ [(base, new, p.tag)]
        { t with prefetch := l.drop (l.length - Config.prefetchLines) })

/-- One run of bytes of an element prefetched: into the buffer on its own die, into the home's caches elsewhere. -/
def prefetchRun (s : State) (w : Who) (va : Word) (n : Nat) : State :=
  match placeOf s w va n .read with
  | .fault _ _ _ => s
  | .wait _ => s
  | .ok p s1 =>
    if p.kind ≠ .pg ∨ p.viaWindow ∨ p.hs then s
    else if haDieKey p.ha ≠ dieKey w.pkg w.die then
      (if cutOff s1 w p n then s1 else useHome s1 w.vi p.rc p.ha n 0 .read)
    else (frameParts (n / 256 + 2) p.ha n).foldl (fun st x => prefetchFrame st w p x.1 x.2) s1

/-- The runs that an element's bytes touch: those of the extent hint, or whole frames. -/
def prefetchRuns (hint : Nat) (va : Word) (n : Nat) : List (Word × Nat) :=
  let size := if hintWords hint = 0 then 256 else 8 * hintWords hint
  let first := va.toNat / size
  (List.range ((va.toNat + n - 1) / size + 1 - first)).map (fun j => (BitVec.ofNat 64 ((first + j) * size), size))

/-- VPREF (R262, R268). -/
def execVpref (o : Ops) (s : State) : Out :=
  let f := vprefForm o.C
  let w := s.who .vector
  atHead (.vpref o) [o.T] s (unlessVl0 s
    (let runs := ((activeMem s.cpu o false).filter (fun i => !strideBad o s f [i])).map (fun i => prefetchRuns o.hint (vEa o s f i) (accessBytes o.T))
     .next ((runs.flatten.foldl (fun st r => prefetchRun st w r.1 r.2) s).retire id)))

/-! Vector atomics (R269). -/

/-- R158: the elements in the order in which they are applied, an unspecified one. The first argument bounds the list. -/
def freeOrderOf : Nat → Nat → List VElem → List VElem
  | 0, _, l => l
  | _ + 1, _, [] => []
  | _ + 1, _, [x] => [x]
  | fuel + 1, k, x :: y :: rest =>
    let l := x :: y :: rest
    let j := Config.freeOrder k l.length % l.length
    l.getD j x :: freeOrderOf fuel (k + 1) (l.eraseIdx j)

/-- One element of a blocking vector atomic: `f` gives the new bytes; a returning one writes the old value. -/
def atomicElem (o : Ops) (w : Who) (ret : Bool) (f : Nat → List Byte → Option (List Byte)) : Perform := fun s e =>
  match e.places with
  | [] => (s, .ok, e.va)
  | (p, n) :: _ =>
    let (s1, st, old) := atomicPlace s w p n (f e.i)
    if st = .ok then
      ((if ret then s1.onCpu (fun t => t.writeV o.D e.i (extendV t.ew o.T (leNat old))) else s1), .ok, e.va)
    else (s1, st, failTval s1 st p n e.va)

/-- R269: the checks and the performing of VAMO and VCAS. `abn` finds an ABN operand, `f` is the element's action, `what` its piece. -/
def vatomic (o : Ops) (s : State) (ret : Bool) (abn : Nat → Option Nat) (f : Nat → List Byte → Option (List Byte)) (what : Nat → PieceOp) : Out :=
  let n := accessBytes o.T
  let w := s.who .vector
  let ea := vEa o s .indexed
  let act := (activeMem s.cpu o false).filter (fun i => !(doneAlready s).contains i)
  match act.find? (fun i => (abn i).isSome) with
  | some i => .next (queuedTrap (atElement s i) causeAbn (abnTval ((abn i).getD 0) i))
  | none =>
    match act.find? (fun i => misaligned (ea i) n) with
    | some i => .next (queuedTrap (atElement s i) causeAlign (ea i))
    | none =>
      if o.nb && ccFull s o.ccNo then .next s.park
      else
        let pieces := fun (els : List VElem) => (els.map (fun e => e.places.map (fun x => (e.i, x.1, what e.i)))).flatten
        let perform := fun (els : List VElem) (fault : Option (Nat × Nat × Word)) (s1 : State) =>
          let hs := elemsHs els
          let order := if hs then els else freeOrderOf els.length s1.free els
          let s2 : State := { s1 with free := s1.free + els.length }
          if elemsAway s1 w els then .next (awaitElems s2 hs els fault (pieces order))
          else
            let rest := (order.drop stepElems).map (·.i)
            let x := performAll (atomicElem o w ret f) hs { s := s2 } (order.take stepElems)
            settle x (if rest.isEmpty then fault else none) (goOn rest x.done)
        match vTranslate w .atomic n .indexed ea s act with
        | .wait s1 => .next s1.park
        | .fault els i c t s1 => perform els (some (i, c, t)) s1
        | .done els s1 =>
          if o.nb then .next ((issueNb s1 o.ccNo (elemsHs els) none ((pieces els).map (·.2))).retire id)
          else perform els none s1

/-- VAMO (R269): C bits 4:0 are the operation, bit 5 returns the old values. -/
def execVamo (o : Ops) (s : State) : Out :=
  let op := o.C % 32
  let ret := decide (32 ≤ o.C)
  let b := fun i => elemOf s.cpu o.T o.D i
  awaited s (fun s => afterPosts o.releases s (atHead (.vamo o) [o.T] s (unlessVl0 s
    (vatomic o s ret (fun i => if 7 ≤ op then elemAbn s.cpu o.T o.D i else none) (fun i => amoBytes op o.T (b i))
      (fun i => .amo op o.T (b i) ret o.D i)))))
    (fun fails s1 => elemsDone o .indexed (s.cpu.queue.headD { pc := 0, word := 0, instr := .vamo o }) fails s1)

/-- VCAS (R269): expected values in D, new ones in C; old values return to D. -/
def execVcas (o : Ops) (s : State) : Out :=
  let n := accessBytes o.T
  let e := fun i => elemOf s.cpu o.T o.D i
  let new := fun i => elemOf s.cpu o.T o.C i
  awaited s (fun s => afterPosts o.releases s (atHead (.vcas o) [o.T] s (unlessVl0 s
    (vatomic o s true (fun _ => none) (fun i => casBytes n (e i) (new i)) (fun i => .cas o.T (e i) (new i) o.D i)))))
    (fun fails s1 => elemsDone o .indexed (s.cpu.queue.headD { pc := 0, word := 0, instr := .vcas o }) fails s1)

/-! Waits on words (R270, R272, R273). -/

/-- The home words of some places that a watch table may hold. -/
def watchWords (ps : List (Place × Nat)) : List Nat := ps.filterMap (fun x => if x.1.kind = .vreg ∨ x.1.kind = .tile then none else some (x.1.ha / 8))

/-- R270: every watched word read once: its value by element; a failed read traps at the element's address. -/
def readWatched (w : Who) : State → List VElem → Acc (List (Nat × Nat))
  | s, [] => .ok [] s
  | s, e :: rest =>
    (readPlaces w 0 e.va s e.places).andThen (fun x s1 => (readWatched w s1 rest).andThen (fun more s2 => .ok ((e.i, leNat x.bytes) :: more) s2))

/-- VWAIT (R270). -/
def execVwait (o : Ops) (s : State) : Out :=
  let n := accessBytes o.T
  let w := s.who .vector
  let ea := vEa o s .indexed
  let act := activeMem s.cpu o false
  let sat := fun (x : Nat × Nat) => condInt (o.C % 8) (intOf o.T x.2) (intOf o.T (elemOf s.cpu o.T o.D x.1))
  atHead (.vwait o) [o.T] s (unlessVl0 s
    (match act.find? (fun i => misaligned (ea i) n) with
     | some i => .next (queuedTrap s causeAlign (ea i))
     | none =>
       match vTranslate w .read n .indexed ea s act with
       | .wait s1 => .next s1.park
       | .fault _ _ c t s1 => .next (queuedTrap s1 c t)
       | .done els s1 =>
         match readWatched w s1 els with
         | .wait s2 => .next s2.park
         | .fault c t s2 => .next (queuedTrap s2 c t)
         | .ok xs s2 =>
           let done := xs.isEmpty || (if 8 ≤ o.C then xs.all sat else xs.any sat)
           if done then
             .next (s2.retire (fun t =>
               let u := xs.foldl (fun (u : Strand) x => u.writeV o.D x.1 (extendV u.ew o.T x.2)) t
               (List.range t.vl).foldl (fun (u : Strand) i => u.writeM 0 i ((xs.find? (fun x => x.1 = i)).any sat)) u))
           else .next (parkOn s2 (els.map (fun e => watchWords e.places)).flatten)))

/-- R167: the status of a counter. -/
def ccStatus (c : CC) : Word := if c.ue then 3 else if c.revoked then 2 else if c.timeout then 1 else 0

/-- CCWAIT (R271, R167). -/
def execCcwait (o : Ops) (s : State) : Out :=
  let c := s.cpu.readCC o.A
  if c.count ≤ (s.srcB o.b).toNat then .next (s.retireKeep (fun t => t.writeG o.D (ccStatus c)))
  else .next s.park

/-- CCSET (R271). -/
def execCcset (o : Ops) (s : State) : Out :=
  let b := s.srcB o.b
  .next (s.retireKeep (fun t =>
    t.writeCC o.D { count := low 20 b.toNat, timeout := b.getLsbD 32, revoked := b.getLsbD 33, ue := b.getLsbD 34 }))

/-- A wait on one aligned word at G[A]: it completes with the word in G[D] once `f` holds, and watches it otherwise. -/
def waitWord (o : Ops) (s : State) (f : Nat → Bool) (fin : Strand → Strand) : Out :=
  let va := s.srcG o.A
  if misaligned va 8 then .next (queuedTrap s causeAlign va)
  else
    queuedAcc
      ((placesOf s (s.who .vector) va 8 .read).andThen (fun ps s1 =>
        (readPlaces (s.who .vector) 0 va s1 ps).andThen (fun x s2 => .ok (ps, leNat x.bytes) s2)))
      (fun r s1 => if f r.2 then s1.retireKeep (fun t => fin (t.writeG o.D (BitVec.ofNat 64 r.2))) else parkOn s1 (watchWords r.1))

/-- R170: a byte counter satisfies a wait for `n` bytes. -/
def counterMeets (x n : Nat) : Bool := decide (n ≤ low 40 x) || bitsOf x 63 63 == 1

/-- BYTEWAIT (R272, R170). The bytes counted before the value that it reads are visible to later vector loads: no older line serves them. -/
def execBytewait (o : Ops) (s : State) : Out := waitWord o s (fun x => counterMeets x (s.srcB o.b).toNat) (fun t => { t with prefetch := [] })

/-- R150: an earlier non-blocking write of the strand to the word at `va` has not been performed yet. -/
def heldBack (s : State) (va : Word) : Bool :=
  match placesOf s (s.who .vector) va 8 .atomic with
  | .ok ps _ => wordPending s true ps
  | .fault _ _ _ => false
  | .wait _ => false

/-- An atomic on the aligned word at G[A], at the head of the queue: at a home of the strand's own die, or by a packet that it waits for (R327). -/
def wordAtomic (o : Ops) (s : State) (release : Bool) (act : TripAct) (g : List Byte → Strand → Strand) : Out :=
  awaited s
    (fun s =>
      let va := s.srcG o.A
      let w := s.who .vector
      afterPosts release s
        (if misaligned va 8 then .next (queuedTrap s causeAlign va)
         else if heldBack s va then .next s.park
         else
           queuedAccOut (placeOf s w va 8 .atomic) (fun p s1 =>
             if away s1 w p 8 then .next (awaitPieces s1 false none [(0, p, .trip 8 act)])
             else queuedAcc (atomicMem s w va 8 act.new) (fun old s2 => s2.retireKeep (g old)))))
    (fun fails s1 =>
      match fails with
      | (_, c, t) :: _ => .next (queuedTrap s1 c t)
      | [] => .next (s1.retireKeep (g (((s.cpu.queue.head?.bind (fun e => e.got.head?)).map (fun x => x.2.2)).getD []))))

/-- BYTESUB (R272, R170). -/
def execBytesub (o : Ops) (s : State) : Out :=
  wordAtomic o s o.releases (.less (s.srcB o.b).toNat) (fun old t => t.writeG o.D (BitVec.ofNat 64 (leNat old)))

/-- WMPUB (R273, R67): with release order. -/
def execWmpub (o : Ops) (s : State) : Out := wordAtomic o s true (.top (s.srcB o.b).toNat) (fun _ t => t)

/-- WMWAIT (R273). -/
def execWmwait (o : Ops) (s : State) : Out := waitWord o s (fun x => decide ((s.srcB o.b).toNat ≤ x)) id

/-! BARRIER (R274). -/

/-- The tasks of a launch in the level-`i` instance that holds a task, by index. -/
def instanceSize (t : Strand) (i : Nat) : Nat := (t.levels.drop (i + 1)).foldl (fun n l => n * l.extent) 1

/-- The task with index `k` lies in the same level-`i` instance as `t`. -/
def sameInstance (t : Strand) (i k : Nat) : Bool := t.index / instanceSize t i == k / instanceSize t i

/-- The strand stands at a BARRIER of level `i` and has arrived there. -/
def arrivedAt (t : Strand) (i : Nat) : Bool :=
  t.arrived && (match t.queue with
    | e :: _ => e.code == 0x189 && (match e.instr.ops? with
      | some o => o.bImm == i
      | none => false)
    | [] => false)

/-- The arrivals of a strand on level `i`. -/
def arrivalsOf (t : Strand) (i : Nat) : Nat := cellGet 0 t.arrivals i + boolNat (arrivedAt t i)

/-- The started tasks of the caller's instance that have exited, or have made `r` arrivals. -/
def arrivedTasks (s : State) (i r : Nat) : Nat :=
  let t := s.cpu
  let started := (match s.launches.find? (fun (l : Launch) => l.id = t.lid) with
    | some l => l.started
    | none => []).filter (sameInstance t i)
  (started.filter (fun k =>
    match s.strands.find? (fun (u : Strand) => u.tid ≠ 0 && u.lid = t.lid && u.index = k) with
    | some u => u.exiting || decide (r ≤ arrivalsOf u i)
    | none =>
      match s.saved.find? (fun (x : Saved) => x.strand.lid = t.lid && x.strand.index = k) with
      | some x => decide (r ≤ cellGet 0 x.strand.arrivals i)
      | none => true)).length

/-- R157, R274: a strand completes its BARRIER and discards as FENCE FULL at the level's scope. -/
def passBarrier (s : State) (t : Strand) (i scope : Nat) : State :=
  let s1 := s.onTask t.tid (fun u => { u.retireKeep with arrivals := cellPut u.arrivals i (cellGet 0 u.arrivals i + 1), prefetch := [] })
  if scope ≤ 1 then s1 else l1Drop s1 (coreKey t.pkg t.die t.core) (fun _ => true)

/-- BARRIER (R274). It waits first as a release does. -/
def execBarrier (o : Ops) (s : State) : Out :=
  afterPosts true s (
  let i := o.bImm
  match s.cpu.levels[i]? with
  | none => .next (queuedTrap s causeIllFld s.headWord)
  | some l =>
    if !l.barrier then .next (queuedTrap s causeIllFld s.headWord)
    else
      let s1 := s.onCpu (fun t => { t with arrived := true })
      let r := cellGet 0 s.cpu.arrivals i + 1
      if instanceSize s.cpu i ≤ arrivedTasks s1 i r then
        let peers := s1.strands.filter (fun u => u.tid ≠ 0 && u.lid = s.cpu.lid && sameInstance s.cpu i u.index && arrivedAt u i
                                                && cellGet 0 u.arrivals i + 1 == r)
        .next (peers.foldl (fun st u => passBarrier st u i l.scope) s1)
      else .next s1.park)

end Sys2Proof.Machine
end

