-- ==== Sys2Proof/Machine/Matrix.lean ====
section
/-! DEFINITION. Tiles, the shape registers and the matrix instructions (spec/19_matrix.md R276 to R287; spec/23_traps.md R338). -/

namespace Sys2Proof.Machine

/-! Tiles (R276, R281). -/

/-- Nmax of a tile type. -/
def tileColumns (t : Nat) : Nat := if t = 11 then 128 else if t = 12 then 64 else 256
/-- The bytes of an accumulator. -/
def accBytes (t : Nat) : Nat := if t = 11 then 8 else if t = 12 then 16 else 4

/-- The offset of accumulator (r, c) of a tile among the strand's tile bytes. -/
def accAt (tile t r c : Nat) : Nat := tile * 65536 + 1024 * r + accBytes t * c

/-- `n` tile bytes from an offset. -/
def tileRead (u : Strand) (off n : Nat) : Nat := leNat ((List.range n).map (fun j => tileByte u (off + j)))

/-- Tile bytes written; words written whole are no longer poisoned (R391). -/
def tileWrite (u : Strand) (off : Nat) (bytes : List Byte) : Strand :=
  let v := fillOwn u .tile off bytes
  { v with poison := v.poison.filter (fun p => !(isTilePoison p && decide (off ≤ (p - 2 ^ 32) * 8) && decide ((p - 2 ^ 32) * 8 + 8 ≤ off + bytes.length))) }

/-- The pattern of accumulator (r, c). -/
def accGet (u : Strand) (tile t r c : Nat) : Nat := tileRead u (accAt tile t r c) (accBytes t)
/-- Accumulator (r, c) under `.l8`: bits 95:0, read signed. -/
def accGetL8 (u : Strand) (tile r c : Nat) : Int := signedOf 96 (accGet u tile 12 r c)
/-- R391: a half of a poisoned tile word is written; once one instruction has written both halves the word is sound again. -/
def healHalf (u : Strand) (off : Nat) : Strand :=
  let half := 2 ^ 32 + off / 4
  if !u.poison.contains (tilePoisonKey off) then u
  else if u.healed.contains (half / 2 * 2 + (1 - half % 2)) then { u with poison := u.poison.filter (· ≠ tilePoisonKey off) }
  else { u with healed := half :: u.healed }

/-- A pattern written to accumulator (r, c). -/
def accPut (u : Strand) (tile t r c x : Nat) : Strand :=
  let off := accAt tile t r c
  let v := tileWrite u off (leBytes (accBytes t) x)
  if accBytes t = 4 then healHalf v off else v
/-- An EA96 sum as its 16 bytes. -/
def eaPattern (x : Int) : Nat := wrapInt 128 x

/-- A poisoned word within rows below `m` and the first `n` bytes of each row of a tile, by its on-chip map address. -/
def tilePoisoned (u : Strand) (tile m n : Nat) : Option Word :=
  (u.poison.find? (fun p =>
    let off := (p - 2 ^ 32) * 8
    isTilePoison p && off / 65536 == tile && decide (off % 65536 / 1024 < m) && decide (off % 1024 < n))).map
    (fun p => ownVa u 2 ((p - 2 ^ 32) * 8))

/-- A poisoned word among the first `n` bytes of one row of a tile. -/
def rowPoisoned (u : Strand) (tile r n : Nat) : Option Word :=
  (u.poison.find? (fun p =>
    let off := (p - 2 ^ 32) * 8
    isTilePoison p && off / 65536 == tile && off % 65536 / 1024 == r && decide (off % 1024 < n))).map (fun p => ownVa u 2 ((p - 2 ^ 32) * 8))

/-! Checks at the head of the queue (R278). -/

/-- R278, R231, R338: VREG, then ILL_FLD for an element type wider than EW, then MATRIX_UNAVAIL for td or a tile not held, then, where `typed`, ILL_FLD for
the shape against T. A poisoned v source traps last. -/
def matrixHead (i : Instr) (tile : Option Nat) (types : List Nat) (typed : Option Nat) (s : State) (k : Out) : Out :=
  let u := s.cpu
  match badVreg u i with
  | some n => .next (queuedTrap s causeVreg (BitVec.ofNat 64 n))
  | none =>
    if types.any (fun t => decide (u.ew < typeWidth t)) then .next (queuedTrap s causeIllFld s.headWord)
    else if u.td || (match tile with
        | some t => !u.held.getLsbD t
        | none => false) then .next (queuedTrap s causeMatrix 0)
    else if (match typed with
        | some t => u.ttype == 15 || u.ttype != t || decide (tileColumns u.ttype < u.tn)
        | none => false) then .next (queuedTrap s causeIllFld s.headWord)
    else
      match poisonedSource u i with
      | some va => .next (queuedTrap s causeUeData va)
      | none => k

/-- TROW set. -/
def atRow (s : State) (r : Nat) : State := s.onCpu (fun t => { t with trow := r })

/-- TSHAPE (R279). -/
def execTshape (o : Ops) (s : State) : Out :=
  matrixHead (.tshape o) none [] none s
    (.next (s.retireKeep (fun t =>
      let u := { t with ttype := o.T, tm := clampNat (s.srcG o.A).toNat 1 64, tn := clampNat (s.srcB o.b).toNat 1 (tileColumns o.T),
                        tk := clampNat (s.srcG o.C).toNat 1 16777215, trow := 0 }
      u.writeG o.D (BitVec.ofNat 64 (u.tm + u.tn * 2 ^ 16 + u.tk * 2 ^ 32)))))

/-- TZERO (R280). -/
def execTzero (o : Ops) (s : State) : Out :=
  matrixHead (.tzero o) (some o.D) [] none s
    (.next (s.retireKeep (fun t =>
      { t with tiles := t.tiles.filter (fun b => b.1 / 65536 ≠ o.D),
               poison := t.poison.filter (fun p => !(isTilePoison p && (p - 2 ^ 32) * 8 / 65536 == o.D)) })))

/-! Reading operands through the matrix load pipes. -/

/-- The places of some elements of `n` bytes, every page translated first. -/
def placesAll (w : Who) (k : AccKind) (n : Nat) : State → List Word → Acc (List (List (Place × Nat)))
  | s, [] => .ok [] s
  | s, a :: rest => (placesOf s w a n k).andThen (fun ps s1 => (placesAll w k n s1 rest).andThen (fun more s2 => .ok (ps :: more) s2))

/-- The elements at some places. -/
def readAll (w : Who) (hint : Nat) : State → List (Word × List (Place × Nat)) → Acc (List Got)
  | s, [] => .ok [] s
  | s, (a, ps) :: rest => (readPlaces w hint a s ps).andThen (fun x s1 => (readAll w hint s1 rest).andThen (fun more s2 => .ok (x :: more) s2))

/-- R68: the links checked for some addresses. -/
def checkAddrs (k : TlbKind) : State → List Word → WmAnswer
  | s, [] => .pass s
  | s, a :: rest =>
    match wmCheck s k a with
    | .pass s1 => checkAddrs k s1 rest
    | .stall s1 => .stall s1
    | .fault c t s1 => .fault c t s1

/-- R282, R286: elements of `n` bytes at some addresses: translated, checked against the links, read. A stall waits. -/
def pipeRead (s : State) (hint n : Nat) (l : List Word) : Acc (List Got) :=
  let w := s.who .matrix
  (placesAll w .read n s l).andThen (fun ps s1 =>
    match checkAddrs .matrix s1 l with
    | .stall s2 => .wait s2
    | .fault c t s2 => .fault c t s2
    | .pass s2 => readAll w hint s2 (l.zip ps))

/-! TMAC (R285, R286). -/

/-- An operand of TMAC or a stored tile: base, stride, the lines' count, whether the stride counts lines, and the element size. -/
structure Lines where
  base   : Nat
  stride : Int
  lines  : Nat
  byLine : Bool
  size   : Nat
deriving Repr

/-- The exact address of line `r` at step `k`. -/
def Lines.at (x : Lines) (r k : Nat) : Int :=
  if x.byLine then (x.base : Int) + r * x.stride + k * x.size else (x.base : Int) + k * x.stride + r * x.size

/-- Some address of steps `lo` to `hi` lies outside 0 to 2^64 - 1; addresses are linear, so the corners decide. -/
def Lines.outside (x : Lines) (lo hi : Nat) : Bool :=
  [x.at 0 lo, x.at (x.lines - 1) lo, x.at 0 hi, x.at (x.lines - 1) hi].any (fun a => decide (a < 0) || decide (((2 ^ 64 : Nat) : Int) ≤ a))

/-- The first address of steps `lo` to `hi` not aligned to `n`: the base, or an element of one of the first two strides. -/
def Lines.misalignedAt (x : Lines) (n lo hi : Nat) : Option Int :=
  if x.base % n ≠ 0 then some x.base
  else
    let cands := if x.byLine then [x.at 0 lo] ++ (if 1 < x.lines then [x.at 1 lo] else [])
      else [x.at 0 lo] ++ (if lo < hi then [x.at 0 (lo + 1)] else [])
    cands.find? (fun a => a % n != 0)

/-- The addresses of the lines at step `k`. -/
def Lines.step (x : Lines) (k : Nat) : List Word := (List.range x.lines).map (fun r => BitVec.ofInt 64 (x.at r k))

/-- Operands A and B of a TMAC. -/
def tmacLines (o : Ops) (s : State) : Lines × Lines :=
  let size := typeWidth o.T / 8
  ({ base := (s.srcG o.A).toNat, stride := (s.srcG o.B).toInt, lines := s.cpu.tm, byLine := !o.D.testBit 2, size := size },
   { base := (s.srcG o.C).toNat, stride := (s.srcG (o.B + 1)).toInt, lines := s.cpu.tn, byLine := o.D.testBit 3, size := size })

/-- R104, R286: one accumulation: the new pattern, its flags, and whether an EA96 sum saturated. -/
def accStep (t rm old a b : Nat) : Nat × Flags × Bool :=
  if t = 12 then
    let r := eaAdd (signedOf 96 old) (eaProd a b)
    (eaPattern r.1, flagNone, r.2)
  else
    let f := if t = 11 then fmt64 else fmt32
    let m := if t = 11 ∨ t = 10 then rm else rmRNE
    let r := fmaVal f m (fdecode (fmtOf t) a) (fdecode (fmtOf t) b) (fdecode f old)
    (r.1, r.2, false)

/-- The accumulators of a shape. -/
def shapeCells (m n : Nat) : List (Nat × Nat) := ((List.range m).map (fun r => (List.range n).map (fun c => (r, c)))).flatten

/-- R286: step `k` on operand values `a` and `b`. -/
def tmacApply (tile t rm : Nat) (a b : List Nat) (u : Strand) : Strand :=
  (shapeCells a.length b.length).foldl (fun u x =>
    let r := accStep t rm (accGet u tile t x.1 x.2) (a.getD x.1 0) (b.getD x.2 0)
    let v := (accPut u tile t x.1 x.2 r.1).orFlags r.2.1
    { v with sat := v.sat || r.2.2 }) u

/-- R286: the first ABN that step `k` meets: A, then B, then the accumulators. -/
def tmacAbn (u : Strand) (tile t : Nat) (a b : List Nat) : Option Nat :=
  if t ≠ 10 then none
  else (a ++ b ++ (shapeCells a.length b.length).map (fun x => accGet u tile t x.1 x.2)).find? isAbn

/-- The K steps of one step of the matrix unit (R64). -/
def matrixSteps : Nat := 16

/-- R286: steps `k` on; the first argument is the count of those that this step of the matrix unit still performs. Between two steps of the unit the
instruction stands at its next K step (R64). -/
def tmacSteps (o : Ops) (tile : Nat) (x y : Lines) : Nat → Nat → State → Out
  | 0, k, s => if s.cpu.tk ≤ k then .next ((atRow s 0).retireKeep id) else .next (betweenSteps (atRow s k) accessPass)
  | n + 1, k, s =>
    match pipeRead s (hintWords o.hint) x.size (x.step k ++ y.step k) with
    | .wait s1 => .next (atRow s1 k).park
    | .fault c t s1 => .next (queuedTrap (atRow s1 k) c t)
    | .ok got s1 =>
      let vals := got.map (fun g => leNat g.bytes)
      let a := vals.take x.lines
      let b := vals.drop x.lines
      match tmacAbn s1.cpu tile o.T a b with
      | some p => .next (queuedTrap (atRow s1 k) causeAbn (BitVec.ofNat 64 (p + k * 2 ^ 32)))
      | none => tmacSteps o tile x y n (k + 1) (s1.onCpu (tmacApply tile o.T s1.srcRm a b))

/-- TMAC (R285, R286). -/
def execTmac (o : Ops) (s : State) : Out :=
  let tile := o.D % 4
  let u := s.cpu
  matrixHead (.tmac o) (some tile) [] (some o.T) s
    (if u.tk ≤ u.trow then .next ((atRow s 0).retireKeep id)
     else
       let (x, y) := tmacLines o s
       let hi := u.tk - 1
       if x.outside u.trow hi then .next (queuedTrap s causeStride (BitVec.ofInt 64 x.stride))
       else if y.outside u.trow hi then .next (queuedTrap s causeStride (BitVec.ofInt 64 y.stride))
       else
         match x.misalignedAt x.size u.trow hi with
         | some a => .next (queuedTrap s causeAlign (BitVec.ofInt 64 a))
         | none =>
           match y.misalignedAt y.size u.trow hi with
           | some a => .next (queuedTrap s causeAlign (BitVec.ofInt 64 a))
           | none =>
             match tilePoisoned u tile u.tm (u.tn * accBytes o.T) with
             | some va => .next (queuedTrap s causeUeData va)
             | none => tmacSteps o tile x y (min matrixSteps (u.tk - u.trow)) u.trow s)

/-! TLDACC and TSTACC (R282, R283). -/

/-- The rows of a tile in memory, elements of `n` bytes. -/
def tileLines (o : Ops) (s : State) (n : Nat) : Lines :=
  { base := (s.srcG o.A).toNat, stride := (s.srcB o.b).toInt, lines := s.cpu.tn, byLine := false, size := n }

/-- The checks that TLDACC and TSTACC make before any row. -/
def tileMove (i : Instr) (o : Ops) (s : State) (n : Nat) (k : Lines → Out) : Out :=
  let u := s.cpu
  matrixHead i (some o.D) [] (some o.T) s
    (if u.tm ≤ u.trow then .next ((atRow s 0).retireKeep id)
     else
       let x := tileLines o s n
       if x.outside u.trow (u.tm - 1) then .next (queuedTrap s causeStride (BitVec.ofInt 64 x.stride))
       else
         match x.misalignedAt (min n 8) u.trow (u.tm - 1) with
         | some a => .next (queuedTrap s causeAlign (BitVec.ofInt 64 a))
         | none => k x)

/-- R282: a row of accumulators read from memory; under `.l8` the sign fills bits 127:96. -/
def loadRow (tile t r : Nat) (xs : List Nat) (u : Strand) : Strand :=
  tileWrite u (accAt tile t r 0)
    ((xs.map (fun x => leBytes (accBytes t) (if t = 12 then eaPattern (signedOf 96 x) else x))).flatten)

/-- R282: rows `r` on of a TLDACC; the first argument is their count. -/
def loadRows (o : Ops) (x : Lines) : Nat → Nat → State → Out
  | 0, _, s => .next ((atRow s 0).retireKeep id)
  | n + 1, r, s =>
    match pipeRead s (hintWords o.hint) x.size (x.step r) with
    | .wait s1 => .next (atRow s1 r).park
    | .fault c t s1 => .next (queuedTrap (atRow s1 r) c t)
    | .ok got s1 => loadRows o x n (r + 1) (s1.onCpu (loadRow o.D o.T r (got.map (fun g => leNat g.bytes))))

/-- TLDACC (R282). -/
def execTldacc (o : Ops) (s : State) : Out :=
  tileMove (.tldacc o) o s (accBytes o.T) (fun x => loadRows o x (s.cpu.tm - s.cpu.trow) s.cpu.trow s)

/-- R283: an accumulator converted to the stored type, with its flags; none for an ABN. -/
def storedAcc (t c rm x : Nat) : Option (Nat × Flags) :=
  if c = 0 then some (x, flagNone)
  else if t = 12 then some (if c = 12 then eaToL8 (signedOf 96 x) else eaToFmt (fmtOf c) (signedOf 96 x))
  else if isAbn x then none
  else some (convVal (fmtOf c) rm (fdecode fmt32 x))

/-- The bytes of a stored element (R282). -/
def storedSize (o : Ops) : Nat := if o.C = 0 then accBytes o.T else typeWidth o.C / 8

/-- One row of a TSTACC written, element by element; the first refusal ends it. -/
def storeCells (w : Who) : State → List (Word × List (Place × Nat) × List Byte) → Acc Unit
  | s, [] => .ok () s
  | s, (a, ps, bytes) :: rest =>
    match writePlaces w .store false s ps bytes with
    | (s1, .ok) => storeCells w s1 rest
    | (s1, st) => .fault st.cause (elemTval s1 st { i := 0, va := a, places := ps }) s1

/-- R282, R283: rows `r` on of a TSTACC; the first argument is their count. -/
def storeRows (o : Ops) (x : Lines) : Nat → Nat → State → Out
  | 0, _, s => .next ((atRow s 0).retireKeep id)
  | n + 1, r, s =>
    let w := storeWho o s
    let addrs := x.step r
    match placesAll w .write x.size s addrs with
    | .wait s1 => .next (atRow s1 r).park
    | .fault c t s1 => .next (queuedTrap (atRow s1 r) c t)
    | .ok ps s1 =>
      let old := fun c => accGet s1.cpu o.D o.T r c
      let cols := List.range x.lines
      -- an earlier non-blocking write of the strand to a word of the row goes first (R150)
      if ps.any (wordPending s1 true) then .next (atRow s1 r).park else
      match rowPoisoned s1.cpu o.D r (x.lines * accBytes o.T), cols.find? (fun c => (storedAcc o.T o.C s1.srcRm (old c)).isNone) with
      | some va, _ => .next (queuedTrap (atRow s1 r) causeUeData va)
      | none, some c => .next (queuedTrap (atRow s1 r) causeAbn (BitVec.ofNat 64 (old c + (r * 256 + c) * 2 ^ 32)))
      | none, none =>
        let res := cols.map (fun c => (storedAcc o.T o.C s1.srcRm (old c)).getD (0, flagNone))
        match storeCells w s1 (addrs.zip (ps.zip (res.map (fun v => leBytes x.size v.1)))) with
        | .wait s2 => .next (atRow s2 r).park
        | .fault c t s2 => .next (queuedTrap (atRow s2 r) c t)
        | .ok _ s2 => storeRows o x n (r + 1) (s2.onCpu (fun u => u.orFlags (res.foldl (fun f v => f ||| v.2) flagNone)))

/-- TSTACC (R282, R283). -/
def execTstacc (o : Ops) (s : State) : Out :=
  tileMove (.tstacc o) o s (storedSize o) (fun x => afterPosts o.releases s (storeRows o x (s.cpu.tm - s.cpu.trow) s.cpu.trow s))

/-! TRD and TWR (R284). -/

/-- R284: the pairings of TTYPE and T. -/
def tilePairs (read : Bool) (tt t : Nat) : Bool :=
  if tt = 11 then t == 11
  else if tt = 12 then (if read then t == 10 || t == 11 || t == 12 else t == 12)
  else t == 10 || t == 9 || t == 8

/-- The shape checks of TRD and TWR: the pairing takes the place of T = TTYPE (R284). -/
def lineHead (i : Instr) (o : Ops) (tile : Nat) (read : Bool) (s : State) (k : Out) : Out :=
  matrixHead i (some tile) [o.T] none s
    (if s.cpu.ttype = 15 ∨ tileColumns s.cpu.ttype < s.cpu.tn ∨ !tilePairs read s.cpu.ttype o.T then .next (queuedTrap s causeIllFld s.headWord)
     else unlessVl0 s k)

/-- The accumulator of element `i` on line `x`; none outside the tile. -/
def lineCell (o : Ops) (tt x i : Nat) : Option (Nat × Nat) :=
  if o.C = 0 then (if x < 64 ∧ i < tileColumns tt then some (x, i) else none)
  else if i < 64 ∧ x < tileColumns tt then some (i, x) else none

/-- R284: the value that TRD writes for an accumulator. -/
def trdValue (tt t rm x : Nat) : Elem :=
  if tt = 12 then
    let r := if t = 12 then eaToL8 (signedOf 96 x) else eaToFmt (fmtOf t) (signedOf 96 x)
    { val := r.1, flags := r.2 }
  else if t = 11 ∨ t = 10 then { val := x }
  else if isAbn x then { val := 0, abn := some x }
  else
    let r := convVal (fmtOf t) rm (fdecode fmt32 x)
    { val := r.1, flags := r.2 }

/-- A poisoned word of the tile's line. -/
def linePoison (u : Strand) (o : Ops) (tile x : Nat) : Option Word :=
  (u.poison.find? (fun p =>
    let off := (p - 2 ^ 32) * 8
    isTilePoison p && off / 65536 == tile
    && (if o.C = 0 then off % 65536 / 1024 == x else off % 1024 / max 8 (accBytes u.ttype) == x * accBytes u.ttype / max 8 (accBytes u.ttype)))).map (fun p => ownVa u 2 ((p - 2 ^ 32) * 8))

/-- TRD (R284). -/
def execTrd (o : Ops) (s : State) : Out :=
  let u := s.cpu
  let x := (s.srcB o.b).toNat
  lineHead (.trd o) o o.A true s
    (match linePoison u o o.A x with
     | some va => .next (queuedTrap s causeUeData va)
     | none =>
       runElems s (activeList u o false)
         (fun i => match lineCell o u.ttype x i with
           | some (r, c) => trdValue u.ttype o.T s.srcRm (accGet u o.A u.ttype r c)
           | none => { val := 0 }) (putV o) id)

/-- R284: the pattern that TWR stores for an element. -/
def twrValue (tt t x : Nat) : Nat :=
  if tt = 12 then eaPattern (eaOf x)
  else if t = 11 ∨ t = 10 then x
  else (convVal fmt32 rmRNE (fdecode (fmtOf t) x)).1

/-- TWR (R284). -/
def execTwr (o : Ops) (s : State) : Out :=
  let u := s.cpu
  let x := (s.srcB o.b).toNat
  lineHead (.twr o) o o.D false s
    (runElems s (activeList u o false) (fun i => { val := twrValue u.ttype o.T (elemOf u o.T o.A i) })
      (fun t i v => match lineCell o u.ttype x i with
        | some (r, c) => accPut t o.D u.ttype r c v
        | none => t) id)

end Sys2Proof.Machine
end

