-- ==== Sys2Proof/Machine/Verdict.lean ====
section
/-! DEFINITION. VDOTV and the top-k instructions (spec/19_matrix.md R288 to R300, spec/20_matrix_notes.md R301). -/

namespace Sys2Proof.Machine

/-! VDOTV (R288 to R294). -/

/-- VDOTV's own modifier field (R288): the chunk count, the predicate. -/
def vdotvChunks (o : Ops) : Nat := bitsOf o.b.i19.toNat 7 0
def vdotvPred (o : Ops) : Nat := bitsOf o.b.i19.toNat 9 8

/-- R290: the largest L among the non-zero elements of a query chunk. -/
def chunkMax (xs : List Nat) : Option Int := l8MaxLog xs

/-- R289: a directory entry: chunk id and bound. -/
def entryId (e : Nat) : Nat := low 16 e
def entryBk (e : Nat) : Int := signedOf 7 (bitsOf e 22 16)

/-- R290: Bnd of an entry. -/
def entryBound (e : Nat) (bq : Option Int) : Int :=
  match bq with
  | none => 0
  | some q =>
    if entryBk e = -64 then 0
    else
      let p := l8Parts (entryBk e + q)
      ((64 * p.1 * 2 ^ (p.2 + 32).toNat : Nat) : Int)

/-- R289: a directory of `n` entries is malformed. -/
def dirBad (n : Nat) (ents : List Nat) : Bool := (List.range n).any (fun id => !(ents.any (fun e => entryId e == id)))

/-- What a row evaluates to: result, FPFLAGS bits, VFS bits; a stall, with the threshold sampled so far; a trap. -/
inductive RowEnd where
  | val (x : Nat) (fl : Flags) (vfs : BitVec 5) (tau : Nat) (s : State)
  | stall (tau : Nat) (s : State)
  | fault (cause : Nat) (tval : Word) (s : State)

/-- The canonical NaN of binary32, and minus infinity. -/
def nan32 : Nat := 0x7FC00000
def negInf32 : Nat := 0xFF800000

/-- VFS.BND and VFS.INV (R236). -/
def vfsBnd : BitVec 5 := 8
def vfsInv : BitVec 5 := 16

/-- R292: the largest value read so far, NaNs and ABNs ignored. -/
def sampleMax (tau x : Nat) : Nat :=
  if (fdecode fmt32 x).isNan then tau else if ltVal (fdecode fmt32 tau) (fdecode fmt32 x) then x else tau

/-- R292: Sample(). -/
def sampleTau (s : State) (cell : Word) (tau : Nat) : Acc Nat :=
  (readMem s (s.who .matrix) cell 8 0 .read).andThen (fun x s1 => .ok (sampleMax tau (low 32 (leNat x.bytes))) s1)

/-- What VDOTV keeps of its query: its bytes and the largest L of each chunk. -/
structure Query where
  bytes : List Nat
  bq    : List (Option Int)
deriving Repr

/-- R291: the verdict at a checkpoint, or none where the row goes on. -/
def verdict (p : Nat) (sum b : Int) (tau : Nat) : Option Nat :=
  if p = 1 then (if sum > b then some 0xFFA00003 else if sum < -b then some 0xFFA00002 else none)
  else if p = 2 then (if ltVal (fdecode fmt32 (eaToFmt fmt32 (sum + b)).1) (fdecode fmt32 tau) then some 0xFFA00001 else none)
  else none

/-- R291: the products of a chunk with its query chunk. -/
def chunkSum (chunk q : List Nat) : Int := ((chunk.zip q).map (fun x => eaProd x.1 x.2)).foldl (· + ·) 0

/-- R291: the entries of a row from number `e` on. -/
def rowEntries (p : Nat) (q : Query) (cell data : Word) : State → Nat → List Nat → Int → Int → Bool → BitVec 5 → Nat → RowEnd
  | s, _, [], sum, _, _, vfs, tau =>
    let r := eaToFmt fmt32 sum
    .val r.1 (r.2 &&& (flagNX ||| flagUF)) vfs tau s
  | s, e, ent :: rest, sum, b, live, vfs, tau =>
    let check : Acc (Nat × Option Nat) :=
      if !live then .ok (tau, none) s
      else if p = 2 then (sampleTau s cell tau).andThen (fun t s1 => .ok (t, verdict p sum b t) s1)
      else .ok (tau, verdict p sum b tau) s
    match check with
    | .fault c t s1 => .fault c t s1
    | .wait s1 => .stall tau s1
    | .ok (tau1, some v) s1 => .val v flagNone vfs tau1 s1
    | .ok (tau1, none) s1 =>
      let bnd := entryBound ent (q.bq.getD (entryId ent) none)
      if bnd = 0 then rowEntries p q cell data s1 (e + 1) rest sum b live vfs tau1
      else
        match readMem s1 (s1.who .matrix) (data + BitVec.ofNat 64 (64 * e)) 64 0 .read with
        | .fault c t s2 => .fault c t s2
        | .wait s2 => .stall tau1 s2
        | .ok x s2 =>
          if x.inv then .val nan32 flagNone (vfs ||| vfsInv) tau1 s2
          else
            let chunk := x.bytes.map (·.toNat)
            let broken := chunk.any (fun c => !l8Zero c && decide (entryBk ent < l8Log c))
            rowEntries p q cell data s2 (e + 1) rest (sum + chunkSum chunk ((q.bytes.drop (64 * entryId ent)).take 64)) (b - bnd)
              (live && !broken) (if broken then vfs ||| vfsBnd else vfs) tau1

/-- R289, R291: one row with its record at `rec`. -/
def rowEval (n p : Nat) (q : Query) (cell rec : Word) (tau : Nat) (s : State) : RowEnd :=
  match wmCheck s .matrix rec with
  | .stall s1 => .stall tau s1
  | .fault c t s1 => .fault c t s1
  | .pass s1 =>
    match readMem s1 (s1.who .matrix) rec (4 * n) 0 .read with
    | .fault c t s2 => .fault c t s2
    | .wait s2 => .stall tau s2
    | .ok d s2 =>
      let ents := (List.range n).map (fun e => leNat ((d.bytes.drop (4 * e)).take 4))
      if d.inv || dirBad n ents then .val nan32 flagNone vfsInv tau s2
      else
        let total := (ents.map (fun e => entryBound e (q.bq.getD (entryId e) none))).foldl (· + ·) 0
        rowEntries p q cell (rec + BitVec.ofNat 64 (64 * ceilDiv (4 * n) 64)) s2 0 ents 0 total (p != 0) 0 tau

/-- R290, R292: a VDOTV that stands between two rows keeps its query and the largest threshold that it has sampled; one that is held starts again from minus
infinity and reads its query again. -/
def keepRow (s : State) (q : Query) (tau : Nat) : State := onHead s (fun e => { e with tau := some tau, query := some (q.bytes, q.bq) })

/-- R292: the threshold at which the head of the queue goes on. -/
def headTau (s : State) : Nat := (s.cpu.queue.head?.bind (fun e => e.tau)).getD negInf32

/-- R290: the query that the head of the queue has read. -/
def headQuery (s : State) : Option Query := s.cpu.queue.head?.bind (fun e => e.query.map (fun x => { bytes := x.1, bq := x.2 }))

/-- R291, R294: the rows in index order; a stall or a trap leaves VSTART at its row. The rows of one step are those below `stop` (R64, log entry 71); the
instruction then stands at the next one. -/
def vdotvRows (o : Ops) (q : Query) (cell : Word) (base : Nat) (stride : Int) (stop : Nat) : State → Nat → List Nat → Out
  | s, _, [] => .next (s.retire id)
  | s, tau, i :: rest =>
    if stop ≤ i then .next (betweenSteps (keepRow (atElement s i) q tau) accessPass)
    else
    let rec_ : Int := (base : Int) + i * stride
    if rec_ < 0 ∨ ((2 ^ 64 : Nat) : Int) ≤ rec_ then .next (queuedTrap (atElement s i) causeStride (BitVec.ofInt 64 stride))
    else
      match rowEval (vdotvChunks o) (vdotvPred o) q cell (BitVec.ofInt 64 rec_) tau s with
      | .stall tau1 s1 => .next (keepRow (atElement s1 i) q tau1).park
      | .fault c t s1 => .next (queuedTrap (atElement s1 i) c t)
      | .val x fl vfs tau1 s1 =>
        vdotvRows o q cell base stride stop
          (s1.onCpu (fun t => { ((t.writeV o.D i x).orFlags fl) with vfs := t.vfs ||| vfs })) tau1 rest

/-- R292: the threshold cell is translated before any row. -/
def cellCheck (o : Ops) (s : State) : Acc Unit :=
  if vdotvPred o ≠ 2 then .ok () s
  else
    let cell := s.srcG o.C
    if misaligned cell 8 then .fault causeAlign cell s
    else (placeOf s (s.who .matrix) cell 8 .read).andThen (fun _ s1 => .ok () s1)

/-- VDOTV (R288 to R294). -/
def execVdotv (o : Ops) (s : State) : Out :=
  let n := vdotvChunks o
  let act := activeList s.cpu { o with b := .reg 0 0 } false
  matrixHead (.vdotv o) none [10] none s (unlessVl0 s
    (queuedAccOut (cellCheck o s) (fun _ s0 =>
      let rows := fun (q : Query) (s1 : State) =>
        vdotvRows o q (s1.srcG o.C) (s1.srcG o.A).toNat (s1.srcG (o.B + 1)).toInt (s1.cpu.vstart + stepElems) s1 (headTau s1) act
      match headQuery s0 with
      | some q => rows q s0
      | none =>
        queuedAccOut (readMem s0 (s0.who .matrix) (s0.srcG o.B) (64 * n) 0 .read) (fun x s1 =>
          if x.inv then
            .next (s1.retire (fun t => { (act.foldl (fun (u : Strand) i => u.writeV o.D i nan32) t) with vfs := t.vfs ||| vfsInv }))
          else
            let bytes := x.bytes.map (·.toNat)
            rows { bytes := bytes, bq := (List.range n).map (fun j => chunkMax ((bytes.drop (64 * j)).take 64)) } s1))))

/-! Top-k objects (R295, R296). -/

/-- A top-k object as read. -/
structure TopK where
  k        : Nat
  entries  : List (Nat × Nat)
  cell     : Nat
  rejected : Nat
deriving Repr

/-- R295: the object is in its place: aligned, in one page or one scratchpad. -/
def topkFits (p : Place) (k : Nat) : Bool :=
  p.ha % 64 == 0 && (if p.kind = .pg then decide (p.ha % 65536 + 64 + 8 * k ≤ 65536) else decide (p.ha % 2 ^ 22 + 64 + 8 * k ≤ 0x80000))

/-- Reading the object: it is not valid, its home fails, or it is there. -/
inductive TopKRead where
  | bad (s : State)
  | fail (st : Status) (s : State)
  | ok (x : TopK) (s : State)

/-- R295: the header's fields are legal. -/
def topkHeaderOk (h : List Byte) : Bool :=
  let word := fun (i n : Nat) => leNat ((h.drop i).take n)
  decide (1 ≤ word 0 2) && decide (word 0 2 ≤ 1024) && word 2 2 == 0 && decide (word 4 4 ≤ word 0 2) && word 16 4 == 1
  && (h.drop 24).all (· == 0)

/-- R297: one snapshot of the object at a place. -/
def topkRead (s : State) (w : Who) (p : Place) : TopKRead :=
  if !topkFits p 0 then .bad s
  else if cutOff s w p 64 then .fail .timeout s
  else
    let (h, s1) := readPlace s w 0 p 64
    if h.poison then .fail .ue s1
    else if !topkHeaderOk h.bytes then .bad s1
    else
      let k := leNat (h.bytes.take 2)
      let count := leNat ((h.bytes.drop 4).take 4)
      if !topkFits p k then .bad s1
      else
        let (e, s2) := readPlace s1 w 0 (p.add 64) (8 * count)
        if count ≠ 0 ∧ e.poison then .fail .ue s2
        else
          .ok { k := k, entries := (List.range count).map (fun j =>
                                     (leNat ((e.bytes.drop (8 * j)).take 4), leNat ((e.bytes.drop (8 * j + 4)).take 4))),
                cell := leNat ((h.bytes.drop 8).take 8), rejected := leNat ((h.bytes.drop 20).take 4) } s2

/-- R296: an entry stands before another: by score descending, then by index. -/
def ranksBefore (x y : Nat × Nat) : Bool :=
  ltVal (fdecode fmt32 y.1) (fdecode fmt32 x.1) || (!ltVal (fdecode fmt32 x.1) (fdecode fmt32 y.1) && decide (x.2 < y.2))

/-- R296: equal scores and equal indices. -/
def duplicates (x y : Nat × Nat) : Bool :=
  x.2 == y.2 && !ltVal (fdecode fmt32 x.1) (fdecode fmt32 y.1) && !ltVal (fdecode fmt32 y.1) (fdecode fmt32 x.1)

/-- R296: a member takes its place, unless it is a NaN or a duplicate; `cand` marks the candidates. -/
def insertMember (x : (Nat × Nat) × Bool) : List ((Nat × Nat) × Bool) → List ((Nat × Nat) × Bool)
  | [] => [x]
  | y :: rest => if ranksBefore x.1 y.1 then x :: y :: rest else y :: insertMember x rest

/-- R296: the members in order. -/
def members (l : List ((Nat × Nat) × Bool)) : List ((Nat × Nat) × Bool) :=
  l.foldl (fun acc x =>
    if (fdecode fmt32 x.1.1).isNan || acc.any (fun y => duplicates y.1 x.1) then acc else insertMember x acc) []

/-- R296, R299: the object after a set of candidates. -/
def topkInsert (x : TopK) (cands : List (Nat × Nat)) (active : Nat) : TopK :=
  let new := (members (x.entries.map (·, false) ++ cands.map (·, true))).take x.k
  let kth := (new.getLast?.map (fun y => y.1.1)).getD 0
  let tau := fdecode fmt32 (low 32 x.cell)
  let raise := new.length = x.k && !tau.isNan && ltVal tau (fdecode fmt32 kth)
  { x with entries := new.map (·.1),
           cell := if raise then kth + low 32 (x.cell / 2 ^ 32 + 1) * 2 ^ 32 else x.cell,
           rejected := min (2 ^ 32 - 1) (x.rejected + active - (new.filter (·.2)).length) }

/-- The bytes of an object: header words 0 to 0x17, then its entries. -/
def topkBytes (x : TopK) : List Byte × List Byte :=
  (leBytes 4 x.k ++ leBytes 4 x.entries.length ++ leBytes 8 x.cell ++ leBytes 4 1 ++ leBytes 4 x.rejected,
   (x.entries.map (fun e => leBytes 4 e.1 ++ leBytes 4 e.2)).flatten)

/-- R297, R157: the engine's writes. -/
def topkWrite (s : State) (w : Who) (p : Place) (x : TopK) : State × Status :=
  let (h, e) := topkBytes x
  match writePlace s w .engine p h false with
  | (s1, .ok) => if e.isEmpty then (s1, .ok) else writePlace s1 w .engine (p.add 64) e false
  | r => r

/-- R299: the action of a TOPKI; none where the object is not valid. -/
def topkAct (s : State) (w : Who) (p : Place) (cands : List (Nat × Nat)) (active : Nat) : Option (State × Status) :=
  match topkRead s w p with
  | .bad _ => none
  | .fail st s1 => some (s1, st)
  | .ok x s1 => some (topkWrite s1 w p (topkInsert x cands active))

/-- R31: the bytes of an object in a scratchpad, each of which its region holds: its header, and for an action on its entries all 64 + 8k bytes. An
object that R295 calls no object is left to its engine. -/
def topkWhole (s : State) (w : Who) (k : AccKind) (p : Place) : Acc Place :=
  if p.kind ≠ .scratch ∨ !topkFits p 0 then .ok p s
  else
    (placeOf s w p.va 64 k).andThen (fun q s1 =>
      let h := memRead s1.mem q.ha 64
      let n := leNat (h.take 2)
      if k = .write ∨ homePoisoned s1 q.ha 64 ∨ !topkHeaderOk h ∨ !topkFits q n then .ok q s1 else placeOf s1 w p.va (64 + 8 * n) k)

/-- R297: the place of the object; vector registers and tiles fault SPACE. -/
def topkPlace (s : State) (va : Word) (k : AccKind) : Acc Place :=
  (placeOf s (s.who .vector) va 1 k).andThen (fun p s1 =>
    if p.kind = .vreg ∨ p.kind = .tile then .fault causeSpace va s1 else topkWhole s1 (s1.who .vector) k p)

/-- TOPKINIT (R298). -/
def execTopkinit (o : Ops) (s : State) : Out :=
  let va := s.srcG o.A
  let b := (s.srcB o.b).toNat
  afterPosts o.releases s (matrixHead (.topkinit o) none [] none s
    (match topkPlace s va .write with
     | .wait s1 => .next s1.park
     | .fault c t s1 => .next (queuedTrap s1 c t)
     | .ok p s1 =>
       if b < 1 ∨ 1024 < b ∨ !topkFits p b then .next (queuedTrap s1 causeAlign va)
       else
         let header := leBytes 4 b ++ leBytes 4 0 ++ leBytes 8 negInf32 ++ leBytes 4 1 ++ leBytes 44 0
         match writePlace s1 (s1.who .vector) .engine p header false with
         | (s2, .ok) => .next (s2.retireKeep id)
         | (s2, st) => .next (queuedTrap s2 st.cause (failTval s2 st p 64 va))))

/-- TOPKI (R299). -/
def execTopki (o : Ops) (s : State) : Out :=
  let va := s.srcG o.A
  let act := activeMem s.cpu o o.mn
  let score := fun i => elemOf s.cpu 10 o.D i
  let index := fun i => low 32 (s.cpu.readV o.B i)
  afterPosts o.releases s (matrixHead (.topki o) none [10] none s (unlessVl0 s
    (match act.find? (fun i => isAbn (score i) && score i != 0xFFA00001) with
     | some i => .next (queuedTrap (atElement s i) causeAbn (abnTval (score i) i))
     | none =>
       let cands := (act.filter (fun i => !isAbn (score i))).map (fun i => (score i, index i))
       if o.nb && ccFull s o.ccNo then .next s.park
       else
         match topkPlace s va .atomic with
         | .wait s1 => .next s1.park
         | .fault c t s1 => .next (queuedTrap s1 c t)
         | .ok p s1 =>
           if o.nb then .next ((issueNb s1 o.ccNo false none [(p, .topk cands act.length)]).retire id)
           else
             match topkAct s1 (s1.who .vector) p cands act.length with
             | none => .next (queuedTrap s1 causeAlign va)
             | some (s2, .ok) => .next (s2.retire id)
             | some (s2, st) => .next (queuedTrap s2 st.cause (failTval s2 st p 64 va)))))

/-- TOPKR (R300). -/
def execTopkr (o : Ops) (s : State) : Out :=
  let va := s.srcG o.A
  matrixHead (.topkr o) none [10] none s (unlessVl0 s
    (match topkPlace s va .read with
     | .wait s1 => .next s1.park
     | .fault c t s1 => .next (queuedTrap s1 c t)
     | .ok p s1 =>
       match topkRead s1 (s1.who .vector) p with
       | .bad s2 => .next (queuedTrap s2 causeAlign va)
       | .fail st s2 => .next (queuedTrap s2 st.cause (failTval s2 st p 64 va))
       | .ok x s2 =>
         .next (s2.retire (fun t =>
           (activeMem s.cpu o false).foldl (fun (u : Strand) i =>
             let e := x.entries.getD i (negInf32, 0xFFFFFFFF)
             (u.writeV o.D i e.1).writeV o.C i e.2) t))))

end Sys2Proof.Machine
end

