-- ==== Sys2Proof/Machine/Streams.lean ====
section
/-! DEFINITION. Sorted streams and hash tables (spec/21_streams.md R302 to R311). -/

namespace Sys2Proof.Machine

/-! Sorted streams (R305 to R307). -/

/-- A stream descriptor as read. -/
structure Stream where
  abase   : Nat
  alen    : Nat
  apos    : Nat
  bbase   : Nat
  blen    : Nat
  bpos    : Nat
  emitted : Nat
  state   : Nat
deriving DecidableEq, Repr

/-- The value of `n` bytes at offset `i`. -/
def fieldAt (b : List Byte) (i n : Nat) : Nat := leNat ((b.drop i).take n)

/-- R305: a descriptor from its 64 bytes, or none where a field is outside its legal values. -/
def streamOf (size : Nat) (b : List Byte) : Option Stream :=
  let d : Stream := { abase := fieldAt b 0 8, alen := fieldAt b 8 4, apos := fieldAt b 12 4, bbase := fieldAt b 16 8, blen := fieldAt b 24 4,
                      bpos := fieldAt b 28 4, emitted := fieldAt b 32 8, state := fieldAt b 40 8 }
  if d.abase % size == 0 && d.bbase % size == 0 && decide (d.apos ≤ d.alen) && decide (d.bpos ≤ d.blen) && decide (d.state < 4)
     && fieldAt b 48 16 == 0 then some d else none

/-- The bytes of a descriptor. -/
def streamBytes (d : Stream) : List Byte :=
  leBytes 8 d.abase ++ leBytes 4 d.alen ++ leBytes 4 d.apos ++ leBytes 8 d.bbase ++ leBytes 4 d.blen ++ leBytes 4 d.bpos
    ++ leBytes 8 d.emitted ++ leBytes 8 d.state ++ leBytes 16 0

/-- The address `n` bytes above another, modulo 2^64. -/
def vaAdd (va : Word) (n : Nat) : Word := va + BitVec.ofNat 64 n

/-! Engine steps (R64, R304). -/

/-- The bytes `lo` to `lo + n - 1` of a range of places. -/
def slicePlaces : List (Place × Nat) → Nat → Nat → List (Place × Nat)
  | [], _, _ => []
  | (p, k) :: rest, lo, n =>
    if n = 0 then []
    else if k ≤ lo then slicePlaces rest (lo - k) n
    else
      let m := min n (k - lo)
      (p.add lo, m) :: slicePlaces rest 0 (n - m)

/-- The pass at the head of the queue that stands between two steps. -/
def headPass (s : State) : Option EnginePass := s.cpu.queue.head?.bind (fun e => e.pass)

/-- R59: the head of the queue has started, and does not wait. -/
def midStep (t : Strand) : Bool := !t.parked && t.queue.head?.any (fun e => e.pass.isSome)

/-- A pass of the stream engine: the next output slot, the positions, the keys held at them and the ones before them (R307), and the keys given out with
their marks. -/
structure Pass where
  n    : Nat
  apos : Nat
  bpos : Nat
  a    : Option Nat := none
  b    : Option Nat := none
  lastA : Option Nat := none
  lastB : Option Nat := none
  out  : List (Nat × Nat × Bool) := []

/-- How a pass ends: `more` is the end of a step only. -/
inductive PassEnd where
  | full | exhausted | more
  | disorder (list pos : Nat)
  | fault (cause : Nat) (tval : Word)
  | wait
deriving DecidableEq, Repr

/-- R307: the key at a position of a list, none where it is not in order. The engine rereads the key before it, `last`, where it does not hold it. -/
def readKey (o : Ops) (s : State) (base pos : Nat) (last : Option Nat) : Acc (Option Nat) :=
  let size := accessBytes o.T
  let w := s.who .vector
  let at_ := fun (k : Nat) => BitVec.ofNat 64 (base + k * size)
  (readMem s w (at_ pos) size (hintWords o.hint) .read).andThen (fun x s1 =>
    let key := leNat x.bytes
    if pos = 0 then .ok (some key) s1
    else
      let before : Acc Nat := match last with
        | some y => .ok y s1
        | none => (readMem s1 w (at_ (pos - 1)) size 0 .read).andThen (fun y s2 => .ok (leNat y.bytes) s2)
      before.andThen (fun y s2 => .ok (if intOf o.T y < intOf o.T key then some key else none) s2))

/-- R306: the key of a list that is not exhausted: the one that the engine holds, or read once. -/
def listKey (o : Ops) (s : State) (base len pos : Nat) (held last : Option Nat) : Acc (Option (Option Nat)) :=
  if pos < len then
    (match held with
     | some x => .ok (some (some x)) s
     | none => (readKey o s base pos last).andThen (fun x s1 => .ok (some x) s1))
  else .ok none s

/-- List A moves past the key `x`. -/
def Pass.pastA (p : Pass) (x : Nat) : Pass := { p with apos := p.apos + 1, a := none, lastA := some x }
/-- List B moves past the key `y`. -/
def Pass.pastB (p : Pass) (y : Nat) : Pass := { p with bpos := p.bpos + 1, b := none, lastB := some y }
/-- A key is given out with its mark. -/
def Pass.give (p : Pass) (x : Nat) (mark : Bool) : Pass := { p with n := p.n + 1, out := p.out ++ [(p.n, x, mark)] }

/-- R306: one choice of SINTER on keys of both lists. -/
def interStep (t : Nat) (p : Pass) (x y : Nat) : Pass :=
  if intOf t x < intOf t y then p.pastA x
  else if intOf t y < intOf t x then p.pastB y
  else ((p.give x false).pastA x).pastB y

/-- R306: one choice of SMERGE on the keys that are left. -/
def mergeStep (t : Nat) (p : Pass) : Option Nat → Option Nat → Pass
  | some x, some y =>
    if intOf t x < intOf t y then (p.give x false).pastA x
    else if intOf t y < intOf t x then (p.give y false).pastB y
    else ((p.give x true).pastA x).pastB y
  | some x, none => (p.give x false).pastA x
  | none, some y => (p.give y false).pastB y
  | none, none => p

/-- R306: the loop over one step of the engine: it goes on until the lists have moved past `stop` elements together. The first argument bounds its
turns. -/
def streamLoop (o : Ops) (merge : Bool) (d : Stream) (vl stop : Nat) : Nat → State → Pass → State × Pass × PassEnd
  | 0, s, p => (s, p, .more)
  | fuel + 1, s, p =>
    if vl ≤ p.n then (s, p, .full)
    else if (if merge then p.apos = d.alen && p.bpos = d.blen else p.apos = d.alen || p.bpos = d.blen) then (s, p, .exhausted)
    else if stop ≤ p.apos + p.bpos then (s, p, .more)
    else
      match listKey o s d.abase d.alen p.apos p.a p.lastA with
      | .fault c t s1 => (s1, p, .fault c t)
      | .wait s1 => (s1, p, .wait)
      | .ok (some none) s1 => (s1, p, .disorder 0 p.apos)
      | .ok a s1 =>
        let q := { p with a := a.getD none }
        match listKey o s1 d.bbase d.blen p.bpos p.b p.lastB with
        | .fault c t s2 => (s2, q, .fault c t)
        | .wait s2 => (s2, q, .wait)
        | .ok (some none) s2 => (s2, q, .disorder 1 p.bpos)
        | .ok b s2 =>
          let x := a.getD none
          let y := b.getD none
          let r := { q with b := y }
          streamLoop o merge d vl stop fuel s2 (if merge then mergeStep o.T r x y else interStep o.T r (x.getD 0) (y.getD 0))

/-- The keys of a pass written to vD, and for SMERGE the marks to M[0]. -/
def putPass (o : Ops) (merge : Bool) (p : Pass) (t : Strand) : Strand :=
  p.out.foldl (fun (u : Strand) x =>
    let u1 := u.writeV o.D x.1 (extendV u.ew o.T x.2.1)
    if merge then u1.writeM 0 x.1 x.2.2 else u1) t

/-- The pass of SINTER or SMERGE between two steps: the descriptor as it was read, the slot at which the pass began, and where it stands. -/
def engineOf (bytes : List Byte) (from_ : Nat) (p : Pass) : EnginePass :=
  { desc := bytes, from_ := from_, n := p.n, apos := p.apos, bpos := p.bpos, keys := [p.a, p.b, p.lastA, p.lastB] }

/-- The pass that goes on from there. -/
def passOf (x : EnginePass) : Pass :=
  let key := fun (i : Nat) => x.keys.getD i none
  { n := x.n, apos := x.apos, bpos := x.bpos, a := key 0, b := key 1, lastA := key 2, lastB := key 3 }

/-- R306: the descriptor that a pass leaves. -/
def passStream (d : Stream) (from_ : Nat) (p : Pass) (e : PassEnd) : Stream :=
  let mark := match e with
    | .exhausted => 1
    | .disorder _ _ => 2
    | .full => 0
    | .more => 0
    | .fault _ _ => 0
    | .wait => 0
  { d with apos := p.apos, bpos := p.bpos, state := d.state ||| mark, emitted := d.emitted + (p.n - from_) }

/-- R306: what the end of a pass does once the descriptor is written. -/
def endPass (o : Ops) (merge : Bool) (s : State) (p : Pass) (e : PassEnd) : State :=
  let put := putPass o merge p
  let stop := fun (f : Strand → Strand) => s.retire (fun t => f { put t with vl := if p.n ≤ t.vl then p.n else t.vl })
  let hold := fun (c : Nat) (tv : Word) => queuedTrap (onHead (s.onCpu (fun t => { put t with vstart := p.n })) (fun e => { e with pass := none })) c tv
  match e with
  | .full => stop id
  | .exhausted => stop id
  | .more => s
  | .wait => s.park
  | .fault c tv => hold c tv
  | .disorder list pos =>
    if o.C = 1 then hold causeOrder (BitVec.ofNat 64 (list * 2 ^ 63 + pos)) else stop (fun t => { t with vfs := t.vfs ||| 2 })

/-- One step of a pass (R64, R306). At its end, the engine keeps the pass for its next step; where the pass stops or traps, the descriptor is written
once. -/
def streamStep (o : Ops) (merge : Bool) (s : State) (bytes : List Byte) (d : Stream) (from_ : Nat) (p0 : Pass) : Out :=
  let va := s.srcG o.A
  let r := streamLoop o merge d s.cpu.vl (p0.apos + p0.bpos + stepElems) (stepElems + 1) s p0
  let (p, e) := r.2
  let keep := fun (s1 : State) => betweenSteps (s1.onCpu (putPass o merge p)) (engineOf bytes from_ p)
  match e with
  | .more => .next (keep r.1)
  | .wait => .next (keep r.1).park
  | _ =>
    match writeMem r.1 (r.1.who .vector) .engine va (streamBytes (passStream d from_ p e)) false with
    | .ok _ s2 => .next (endPass o merge s2 p e)
    | .fault c t s2 => .next (queuedTrap (onHead s2 (fun e => { e with pass := none })) c t)
    | .wait s2 => .next (keep s2).park

/-- SINTER and SMERGE (R306, R307): a pass that stands between two steps goes on; otherwise the descriptor is read and a pass begins at VSTART. -/
def streamOp (i : Instr) (o : Ops) (s : State) (merge : Bool) : Out :=
  let va := s.srcG o.A
  let w := s.who .vector
  atHead i [o.T] s (unlessVl0 s
    (if misaligned va 64 then .next (queuedTrap s causeAlign va)
     else
       match headPass s with
       | some x =>
         (match streamOf (accessBytes o.T) x.desc with
          | none => .next (queuedTrap s causeAlign va)
          | some d => streamStep o merge s x.desc d x.from_ (passOf x))
       | none =>
         queuedAccOut (placesOf s w va 64 .write) (fun _ s0 =>
           queuedAccOut (readMem s0 w va 64 0 .read) (fun x s1 =>
             match streamOf (accessBytes o.T) x.bytes with
             | none => .next (queuedTrap s1 causeAlign va)
             | some d => streamStep o merge s1 x.bytes d s1.cpu.vstart { n := s1.cpu.vstart, apos := d.apos, bpos := d.bpos }))))

/-- SINTER (R306). -/
def execSinter (o : Ops) (s : State) : Out := streamOp (.sinter o) o s false
/-- SMERGE (R306). -/
def execSmerge (o : Ops) (s : State) : Out := streamOp (.smerge o) o s true

/-! Hash tables (R308 to R311). -/

/-- A table's header as read. -/
structure HashHeader where
  slots : Nat
  limit : Nat
  used  : Nat
  drain : Nat
  vtype : Nat
deriving DecidableEq, Repr

/-- R308: a legal slot count. -/
def hashSlotsOk (s : Nat) : Bool := decide (64 ≤ s) && decide (s ≤ 2 ^ 24) && 2 ^ Nat.log2 s == s

/-- R308: the header's legal values. -/
def hashHeader (b : List Byte) : Option HashHeader :=
  let h : HashHeader := { slots := fieldAt b 0 4, limit := fieldAt b 4 4, used := fieldAt b 8 8, drain := fieldAt b 16 8, vtype := fieldAt b 24 1 }
  if hashSlotsOk h.slots && decide (1 ≤ h.limit) && decide (h.limit ≤ h.slots) && decide (h.drain ≤ h.slots)
     && [2, 3, 6, 7, 10, 11].contains h.vtype && fieldAt b 25 3 == 0 && fieldAt b 28 4 == 1 && fieldAt b 32 32 == 0 then some h else none

/-- The header of an aligned table of type T, with its bytes; anything else traps ALIGN (R308). An operation between two steps keeps the header that it has
read. -/
def withTable (o : Ops) (s : State) (k : HashHeader → List Byte → State → Out) : Out :=
  let va := s.srcG o.A
  let use := fun (bytes : List Byte) (s1 : State) =>
    match hashHeader bytes with
    | none => Host.Outcome.next (queuedTrap s1 causeAlign va)
    | some h => if h.vtype = o.T then k h bytes s1 else .next (queuedTrap s1 causeAlign va)
  if misaligned va 64 then .next (queuedTrap s causeAlign va)
  else
    match headPass s with
    | some x => use x.desc s
    | none => queuedAccOut (readMem s (s.who .vector) va 64 0 .read) (fun x s1 => use x.bytes s1)

/-- The empty key. -/
def emptyKey : Nat := 2 ^ 64 - 1

/-- R308: the first slot of a key's probe sequence. -/
def hashOf (slots x : Nat) : Nat := low 64 (x * 0x9E3779B97F4A7C15) / 2 ^ (64 - Nat.log2 slots)

/-- The address of slot `e`. -/
def slotVa (table : Word) (e : Nat) : Word := table + BitVec.ofNat 64 (64 + 16 * e)

/-- R310: Init. -/
def haccInit (op t v : Nat) : Nat := if op = 3 then 1 else low (typeWidth t) v

/-- R310: Comb, with its flags. -/
def haccComb (op t old v : Nat) : Nat × Flags :=
  let w := typeWidth t
  let x := low w old
  let y := low w v
  if op = 3 then (low w (x + 1), flagNone)
  else if t < 8 then
    (if op = 0 then low w (x + y)
     else if op = 1 then (if intOf t x ≤ intOf t y then x else y)
     else (if intOf t x ≤ intOf t y then y else x), flagNone)
  else if op = 0 then addVal (fmtOf t) rmRNE (fdecode (fmtOf t) x) (fdecode (fmtOf t) y)
  else minMaxVal (fmtOf t) (op == 2) x y

/-- One probe at a slot. -/
inductive Probe where
  | claimed (s : State)
  | combined (fl : Flags) (s : State)
  | other (s : State)
  | fault (cause : Nat) (tval : Word) (s : State)
  | wait (s : State)

/-- R310, R11: a claim writes `used` too, so it needs the header word: translated, and not refused at its home. -/
def headerReady (s : State) (table : Word) : Acc Unit :=
  (placeOf s (s.who .vector) (table + 8) 8 .atomic).andThen (fun p s1 =>
    let st := if placePoisoned s1 p 8 then Status.ue else placeRefusal s1 (s1.who .vector) p 8
    if st = .ok then .ok () s1 else .fault st.cause (failTval s1 st p 8 (table + 8)) s1)

/-- R310: the atomic action at one slot. An empty slot is claimed together with the header's count, or not at all (R11). -/
def probeSlot (o : Ops) (s : State) (table va : Word) (key v : Nat) : Probe :=
  let op := bitsOf o.C 2 1
  let w := s.who .vector
  match placeOf s w va 16 .atomic with
  | .fault c t s1 => .fault c t s1
  | .wait s1 => .wait s1
  | .ok p s1 =>
    let new := fun (b : List Byte) =>
      let k := leNat (b.take 8)
      if k = emptyKey then some (leBytes 8 key ++ leBytes 8 (haccInit op o.T v))
      else if k = key then some (leBytes 8 key ++ leBytes 8 (haccComb op o.T (leNat (b.drop 8)) v).1)
      else none
    let empty := leNat (homeBytes s1 p.ha 8) = emptyKey && !placePoisoned s1 p 16
    match (if empty then headerReady s1 table else .ok () s1) with
    | .fault c t s2 => .fault c t s2
    | .wait s2 => .wait s2
    | .ok _ s2 =>
      match atomicPlace s2 w p 16 new with
      | (s3, .ok, old) =>
        let k := leNat (old.take 8)
        if k = emptyKey then .claimed s3
        else if k = key then .combined (haccComb op o.T (leNat (old.drop 8)) v).2 s3
        else .other s3
      | (s3, st, _) => .fault st.cause (failTval s3 st p 16 va) s3

/-- R310: `used` gains one. -/
def gainUsed (s : State) (table : Word) : Acc Unit :=
  (atomicMem s (s.who .vector) (table + 8) 8 (fun old => some (leBytes 8 (leNat old + 1)))).andThen (fun _ s1 => .ok () s1)

/-- R310: the probe sequence of one element; the first argument is the count of probes left. -/
def placeKey (o : Ops) (table : Word) (h : HashHeader) (key v : Nat) : Nat → Nat → State → Acc Bool
  | 0, _, s => .ok false s
  | n + 1, p, s =>
    match probeSlot o s table (slotVa table ((hashOf h.slots key + p) % h.slots)) key v with
    | .claimed s1 => (gainUsed s1 table).andThen (fun _ s2 => .ok true s2)
    | .combined fl s1 => .ok true (s1.onCpu (fun t => t.orFlags fl))
    | .other s1 => placeKey o table h key v n (p + 1) s1
    | .fault c t s1 => .fault c t s1
    | .wait s1 => .wait s1

/-- R310: the active elements in increasing index. The elements of one step are those below `stop` (R64); the operation then stands at the next one. -/
def haccElems (o : Ops) (table : Word) (h : HashHeader) (u : Strand) (bytes : List Byte) (stop : Nat) : State → List Nat → Out
  | s, [] => .next (s.retire id)
  | s, i :: rest =>
    if stop ≤ i then .next (betweenSteps (atElement s i) { desc := bytes })
    else
    let v := elemOf u o.T o.B i
    match elemAbn u o.T o.B i with
    | some x => .next (queuedTrap (atElement s i) causeAbn (abnTval x i))
    | none =>
      match placeKey o table h (u.readV o.D i) v h.limit 0 s with
      | .fault c t s1 => .next (queuedTrap (atElement s1 i) c t)
      | .wait s1 => .next (atElement s1 i).park
      | .ok true s1 => haccElems o table h u bytes stop s1 rest
      | .ok false s1 =>
        if o.C % 2 = 1 then .next (queuedTrap (atElement s1 i) causeHfull (BitVec.ofNat 64 i))
        else .next (atElement (s1.retire (fun t => { t with vfs := t.vfs ||| 4 })) i)

/-- R303: an HACC that has not begun translates every page of its table before it writes any slot. -/
def tableReady (o : Ops) (h : HashHeader) (s : State) : Acc Unit :=
  match headPass s with
  | some _ => .ok () s
  | none => (rangeOf s (s.who .vector) (s.srcG o.A) (64 + 16 * h.slots) .atomic).andThen (fun _ s1 => .ok () s1)

/-- HACC (R310). -/
def execHacc (o : Ops) (s : State) : Out :=
  atHead (.hacc o) [o.T] s (unlessVl0 s
    (withTable o s (fun h bytes s1 =>
      queuedAccOut (tableReady o h s1) (fun _ s2 =>
        haccElems o (s.srcG o.A) h s.cpu bytes (s.cpu.vstart + stepElems) s2
          ((activeMem s.cpu o false).filter (fun i => s.cpu.readV o.D i != emptyKey))))))

/-- HDRAIN's scan of one step from slot `e`: the slots read, where it stands, and why it stops. The first argument is the count of slots that the step may
still read (R64). -/
def drainLoop (o : Ops) (table : Word) (slots vl : Nat) :
    Nat → State → Nat → Nat → List (Nat × Nat × Nat) → State × Nat × Nat × List (Nat × Nat × Nat) × PassEnd
  | 0, s, e, n, out => (s, e, n, out, if vl ≤ n then .full else if slots ≤ e then .exhausted else .more)
  | fuel + 1, s, e, n, out =>
    if vl ≤ n then (s, e, n, out, .full)
    else if slots ≤ e then (s, e, n, out, .exhausted)
    else
      match readMem s (s.who .vector) (slotVa table e) 16 0 .read with
      | .fault c t s1 => (s1, e, n, out, .fault c t)
      | .wait s1 => (s1, e, n, out, .wait)
      | .ok x s1 =>
        let k := leNat (x.bytes.take 8)
        if k = emptyKey then drainLoop o table slots vl fuel s1 (e + 1) n out
        else drainLoop o table slots vl fuel s1 (e + 1) (n + 1) (out ++ [(n, k, leNat (x.bytes.drop 8))])

/-- HDRAIN (R311). -/
def execHdrain (o : Ops) (s : State) : Out :=
  let table := s.srcG o.A
  atHead (.hdrain o) [o.T] s (unlessVl0 s
    (withTable o s (fun h bytes s1 =>
      let x := (headPass s1).getD { desc := bytes, from_ := s1.cpu.vstart, n := s1.cpu.vstart, apos := h.drain }
      let (s2, e, n, out, why) := drainLoop o table h.slots s1.cpu.vl stepElems s1 x.apos x.n []
      let put := fun (t : Strand) => out.foldl (fun (u : Strand) x => (u.writeV o.D x.1 x.2.1).writeV o.C x.1 (extendV u.ew o.T x.2.2)) t
      let stop := fun (s3 : State) => s3.retire (fun t => { put t with vl := if n ≤ t.vl then n else t.vl })
      let keep := betweenSteps (s2.onCpu put) { x with n := n, apos := e }
      match why with
      | .more => .next keep
      | .wait => .next keep.park
      | _ =>
        match writeMem s2 (s2.who .vector) .engine (table + 16) (leBytes 8 e) false with
        | .fault c t s3 => .next (queuedTrap (onHead s3 (fun e => { e with pass := none })) c t)
        | .wait s3 => .next (betweenSteps (s3.onCpu put) { x with n := n, apos := e }).park
        | .ok _ s3 =>
          match why with
          | .fault c t => .next (queuedTrap (onHead (s3.onCpu (fun u => { put u with vstart := n })) (fun e => { e with pass := none })) c t)
          | _ => .next (stop s3))))

/-- R309: the header that HINIT writes. -/
def hinitHeader (slots limit t : Nat) : List Byte :=
  leBytes 4 slots ++ leBytes 4 limit ++ leBytes 8 0 ++ leBytes 8 0 ++ leBytes 4 t ++ leBytes 4 1 ++ leBytes 32 0

/-- Places cut into packets of at most 256 bytes (R364). -/
def packetParts : List (Place × Nat) → List (Place × Nat)
  | [] => []
  | (p, n) :: rest => ((List.range (ceilDiv n 256)).map (fun i => (p.add (256 * i), min 256 (n - 256 * i)))) ++ packetParts rest

/-- R309: the pieces that write the empty slots. -/
def slotPieces (ps : List (Place × Nat)) : List (Place × PieceOp) := (packetParts ps).map (fun x => (x.1, .slots (x.2 / 16)))

/-- R309: the writes of a header: engine writes. -/
def headerPieces (ps : List (Place × Nat)) (bytes : List Byte) : List (Place × PieceOp) :=
  (ps.foldl (fun (acc : Nat × List (Place × PieceOp)) x => (acc.1 + x.2, acc.2 ++ [(x.1, .engine ((bytes.drop acc.1).take x.2))])) (0, [])).2

/-- R309: the blocking form writes the empty slots from number `e` on, one step of 64 at a time (R64). -/
def hinitSlots (s : State) (w : Who) (va : Word) (slots e : Nat) (sp : List (Place × Nat)) : Out :=
  let k := min stepElems (slots - e)
  match writePlaces w .engine false s (slicePlaces sp (16 * e) (16 * k)) ((List.replicate k emptySlot).flatten) with
  | (s1, .ok) => if slots ≤ e + k then .next (s1.retire id) else .next (betweenSteps s1 { n := e + k })
  | (s1, st) => .next (queuedTrap s1 st.cause (va + 64))

/-- HINIT (R309). -/
def execHinit (o : Ops) (s : State) : Out :=
  let va := s.srcG o.A
  let slots := (s.srcB o.b).toNat
  let c := (s.srcG o.C).toNat
  let limit := if c = 0 then slots else min c slots
  let w := s.who .vector
  if misaligned va 64 ∨ !hashSlotsOk slots then .next (queuedTrap s causeAlign va)
  else if o.nb && ccFull s o.ccNo then .next s.park
  else
    afterPosts o.releases s (queuedAccOut (rangeOf s w va 64 .write) (fun hp s1 =>
      queuedAccOut (rangeOf s1 w (va + 64) (16 * slots) .write) (fun sp s2 =>
        if o.nb then
          .next ((issueNb s2 o.ccNo false none (headerPieces hp (hinitHeader slots limit o.T) ++ slotPieces sp)).retire id)
        else
          match headPass s2 with
          | some x => hinitSlots s2 w va slots x.n sp
          | none =>
            match writePlaces w .engine false s2 hp (hinitHeader slots limit o.T) with
            | (s3, .ok) => hinitSlots s3 w va slots 0 sp
            | (s3, st) => .next (queuedTrap s3 st.cause va))))

/-! Stopping between two steps (R304, R306). -/

/-- The source of a strand's engine accesses. -/
def engineWho (t : Strand) : Who := { vi := t.vi, pkg := t.pkg, die := t.die, core := t.core, level := t.level, tlb := some .vector, tid := t.tid }

/-- The table or descriptor address of a strand's queue entry. -/
def entryAddress (t : Strand) (e : QEntry) : Word :=
  match e.instr.ops? with
  | some o => if o.A = 0 then 0 else cellGet (t.readG o.A) e.caps o.A
  | none => 0

/-- R306, R311: what a pass writes when it stops between two steps: the positions reached, into the descriptor or the header. -/
def passBytes (e : QEntry) (x : EnginePass) : Option (Nat × List Byte) :=
  if e.code = 0x1C0 ∨ e.code = 0x1C1 then
    (e.instr.ops?.bind (fun o => streamOf (accessBytes o.T) x.desc)).map (fun d => (0, streamBytes (passStream d x.from_ (passOf x) .more)))
  else if e.code = 0x1C4 then some (16, leBytes 8 x.apos)
  else none

/-- R304, R306, R311: a trap or a pre-emption stops the operation at the head of a strand's queue between two of its steps: its positions are written, and
VSTART follows. Where the write cannot be made, the descriptor and VSTART stay as the pass found them, from which it is made again with the same
result. HINIT and CBCOPY keep their place in their entry (R309, R313), COPY, HACC and the vector accesses in VSTART. -/
def settlePass (s : State) (t : Strand) : State :=
  match t.queue.head? with
  | none => s
  | some e =>
    match e.pass with
    | none => s
    | some x =>
      let drop := fun (v : Option Nat) (st : State) => st.onTask t.tid (fun u =>
        { u with vstart := v.getD u.vstart, queue := match u.queue with
                                                     | [] => []
                                                     | e :: rest => { e with pass := none } :: rest })
      match passBytes e x with
      | none => if e.code = 0x1C2 ∨ e.code = 0x1E1 then s else drop none s
      | some (off, bytes) =>
        match writeMem s (engineWho t) .engine (entryAddress t e + BitVec.ofNat 64 off) bytes false with
        | .ok _ s1 => drop (some x.n) s1
        | .fault _ _ s1 => drop none s1
        | .wait s1 => drop none s1

end Sys2Proof.Machine
end

