-- ==== Sys2Proof/Machine/Context.lean ====
section
/-! DEFINITION. The save engine (spec/23_traps.md R340 to R346, R356; spec/24_traps_notes.md R360, R361; spec/03_execution.md R56, R73 to R75): saves,
restores, lost contexts. The context is the image in memory (Images.lean); a record in the field `saved` is the engine's slot state, with what an image
does not name. -/

namespace Sys2Proof.Machine

/-! Scratchpad regions (R49). -/

/-- The offset at which `n` bytes fit: the lowest multiple of 256 at which they are all free. -/
def fitRegion (c : CoreSt) (n : Nat) : Option Nat :=
  ((List.range 2048).map (· * 256)).find? (fun o =>
    decide (o + n ≤ 524288) && c.regions.all (fun r => decide (o + n ≤ r.off) || decide (r.off + r.bytes ≤ o)))

/-- The home address of a byte of a core's scratchpad, by the core's key. -/
def scratchHa (ck off : Nat) : Nat := haScratch (ck / 1024) (ck / 128 % 8) (ck % 128) off

/-- The on-chip map address of a scratchpad byte (R29). -/
def scratchVa (vpkg ck off : Nat) : Word := BitVec.ofNat 64 (2 ^ 63 + vpkg * 2 ^ 34 + ck / 128 % 8 * 2 ^ 31 + ck % 128 * 2 ^ 24 + off)

/-- Bytes from a home address on become 0 and are no longer poisoned. -/
def zeroHome (s : State) (ha n : Nat) : State :=
  { s with mem := s.mem.filter (fun c => !(decide (ha ≤ c.1) && decide (c.1 < ha + n))),
           poison := s.poison.filter (fun w => !(decide (ha ≤ 8 * w) && decide (8 * w < ha + n))) }

/-- A region's bytes come from an image. -/
def fillRegion (s : State) (ha : Nat) (b : List Byte) : State :=
  let s1 := zeroHome s ha b.length
  { s1 with mem := memWrite s1.mem ha b }

/-- A strand runs on a core. -/
def onCore (ck : Nat) (t : Strand) : Bool := t.tid ≠ 0 && coreKey t.pkg t.die t.core = ck

/-- R345: before a core runs a strand of a VI other than the one it last ran, its scratchpad is zeroed. Vector registers and tiles start at 0 with
every strand. DEDUCED (log 30): strands of several VIs may share a core, and the scratchpad is zeroed as a whole only on a core without strands; on
another one the region that a strand's launch is given is zeroed. -/
def enterVi (s : State) (ck vi : Nat) : State :=
  let c := s.core ck
  let on := s.strands.filter (onCore ck)
  let since := if on.any (fun t => t.vi = vi) then c.viSince else cellPut c.viSince vi s.time
  let s1 := if on.isEmpty && c.lastVi.isSome && c.lastVi ≠ some vi then zeroHome s (scratchHa ck 0) 524288 else s
  s1.setCore ck { s1.core ck with lastVi := some vi, viSince := since }

/-- The region of a launch on a core. -/
def regionOf (s : State) (ck lid : Nat) : Option Region := (s.core ck).regions.find? (fun r => r.lid = lid)

/-- The region of the launch is allocated on the core and zeroed where the launch has none there yet. None where no range is free. -/
def allocRegion (s : State) (ck lid vi n : Nat) : Option (Nat × State) :=
  match regionOf s ck lid with
  | some r => some (r.off, s)
  | none =>
    let c := s.core ck
    (fitRegion c n).map (fun o =>
      (o, (zeroHome s (scratchHa ck o) n).setCore ck { c with regions := c.regions ++ [{ lid := lid, vi := vi, off := o, bytes := n }] }))

/-- R49: the region goes when no strand of the launch is left on the core, and none that the save engine has still to save from it (R329). -/
def dropRegion (s : State) (ck lid : Nat) : State :=
  let uses := fun (t : Strand) => t.tid ≠ 0 && t.lid = lid && coreKey t.pkg t.die t.core = ck
  if s.strands.any uses || s.saved.any (fun x => x.stopped && uses x.strand) then s
  else
    let c := s.core ck
    s.setCore ck { c with regions := c.regions.filter (fun r => r.lid ≠ lid) }

/-! Saving. -/

/-- A strand as a save stops it (R342, R62): at a commit boundary, its wait undone; its queue keeps what has not completed, each entry with its own
start (R333). Watermarks start again at 0 (R67, R344). -/
def stopped (t : Strand) : Strand :=
  let u := t.beginHead
  { u with queue := heldEntries u, parked := false, arrived := false, watched := [], watchFull := false, watch := none, watchSlow := none, prefetch := [], stepArm := none,
           deferSince := none, links := u.links.map (fun (l : WmLink) => { l with w := 0, sub := false }) }

/-- The place of a strand without a task. -/
def idleAt (t : Strand) : Strand := { pkg := t.pkg, die := t.die, core := t.core, slot := t.slot }

/-- R342: the strand's place is free. -/
def freeStrand (s : State) (tid : Nat) : State :=
  { s with cpu := if s.cpu.tid = tid then idleAt s.cpu else s.cpu, others := s.others.filter (fun t => t.tid ≠ tid) }

/-- R342, R346: one strand is saved at a home address. A poisoned register word, or an image that cannot be written, makes the image lost. -/
def saveStrand (s : State) (t : Strand) (at_ : Nat) (slot : Option Nat) (region : Option (List Byte)) (regionBad : Bool) : State :=
  let (number, s0) := (settlePass s t).fresh
  let u := (s0.task? t.tid).getD t
  let x : Saved := { strand := stopped u, at_ := at_, slot := slot, lost := !u.poison.isEmpty || regionBad, region := region, number := number }
  let (s1, st) := writeImage s0 x
  let y := if st = .ok then x else { x with lost := true, region := none }
  freeStrand { s1 with saved := s1.saved ++ [y] } t.tid

/-- The bytes of a launch's region on a core, and whether a word of them is poisoned (R346): a region with an uncorrectable word is not saved. -/
def regionBytes (s : State) (ck lid : Nat) : Option (List Byte) × Bool :=
  match regionOf s ck lid with
  | none => (none, false)
  | some r =>
    if r.bytes = 0 then (none, false)
    else if homePoisoned s (scratchHa ck r.off) r.bytes then (none, true)
    else (some (memRead s.mem (scratchHa ck r.off) r.bytes), false)

/-- CTXSAVE and CTXLOAD name a strand by b (R356). -/
def namedStrand (s : State) (b : Nat) : Option Strand := s.strandAt s.cpu.pkg s.cpu.die (bitsOf b 8 2) (low 2 b)

/-- R356: the checks on b and the address. -/
def ctxChecks (o : Ops) (i : Instr) (s : State) (k : Out) : Out :=
  let b := (s.cpu.readG o.B).toNat
  atLevel .h i s
    (if b / 2 ^ 9 ≠ 0 ∨ 80 ≤ bitsOf b 8 2 then .next (scalarTrap s causeIllFld (instrWord i))
     else if (s.cpu.readG o.A).toNat % 64 ≠ 0 then .next (scalarTrap s causeAlign (s.cpu.readG o.A)) else k)

/-- CTXSAVE (R356). -/
def execCtxsave (o : Ops) (s : State) : Out :=
  let b := (s.cpu.readG o.B).toNat
  let ck := coreKey s.cpu.pkg s.cpu.die (bitsOf b 8 2)
  ctxChecks o (.ctxsave o) s
    (match namedStrand s b with
     | none => .next (s.commit o.bytes (fun t => t.writeG o.D 1))
     | some t =>
       if t.tid = s.cpu.tid then .next (s.commit o.bytes (fun u => u.writeG o.D 2))
       else
         let (region, bad) := if o.C = 1 then regionBytes s ck t.lid else (none, false)
         let s1 := saveStrand s t (haPhys s.cpu.pkg (s.cpu.readG o.A).toNat) none region bad
         .next ((if o.C = 1 then dropRegion s1 ck t.lid else s1).commit o.bytes (fun u => u.writeG o.D 0)))

/-! Restoring. -/

/-- The tiles of a core that no strand holds. -/
def freeTiles (s : State) (ck : Nat) : Nat :=
  4 - ((s.strands.filter (fun t => t.tid ≠ 0 && coreKey t.pkg t.die t.core = ck)).map (fun t => (heldTiles t).length)).foldl (· + ·) 0

/-- The constant-bank address of a launch, for KBASE (R330). -/
def kbaseOf (s : State) (lid : Nat) : Word :=
  match s.launches.find? (fun l => l.id = lid) with
  | some l => l.record.kaddr
  | none => 0

/-- PKGID: the lowest number under which the VI's node map names a package (R33, R44). -/
def virtualPkg (s : State) (pkg vi : Nat) : Nat :=
  ((List.range (low 23 (s.vi vi).nodecnt.toNat)).find? (fun v => nodeOf s pkg vi v = some pkg)).getD 0

/-- Where a strand stands. -/
structure Seat where
  pkg  : Nat
  die  : Nat
  core : Nat
  slot : Nat
deriving DecidableEq, Repr

def Seat.key (x : Seat) : Nat := coreKey x.pkg x.die x.core

/-- R345, R396, R33: a strand at its new position, with its KBASE and its SCRATCHBASE. KBASE's bits 2:0 are reserved (R330). -/
def placed (s : State) (t : Strand) (x : Seat) (off : Nat) : Strand :=
  let v := if x.pkg = t.pkg then t.vpkg else virtualPkg s x.pkg t.vi
  { t with pkg := x.pkg, die := x.die, core := x.core, slot := x.slot, vpkg := v, kbase := kbaseOf s t.lid &&& ~~~7, kbaseH := kbaseOf s t.lid &&& ~~~7,
           scratchbase := scratchVa v x.key off }

/-- R345, R339: the strand of an image as it resumes; what the image does not cover, S of R171 among it, is zero. It counts as started at its restore, and the model orders restores of one nanosecond by their
place in the list (log entry 69). -/
def resumed (s : State) (u : Strand) (x : Seat) (off : Nat) : Strand :=
  let r := u.trapS
  { placed s u x off with
      trapH := {}, poison := [], flagBytes := [], order := s.time,
      trapS := if r.pn then { r with evp := r.evp ||| 8 } else r }

/-- R341: the slot of an image is free again. -/
def freeSlotOf (s : State) (x : Saved) : State :=
  match x.slot with
  | none => s
  | some n =>
    let dk := dieKey x.strand.pkg x.strand.die
    let d := s.die dk
    s.setDie dk { d with slots := d.slots.erase (x.strand.vi * 256 + n) }

/-- A strand comes onto the machine, behind those that move before it. -/
def joinStrand (s : State) (t : Strand) : State :=
  if s.cpu.tid = 0 then { s with cpu := t } else { s with others := s.others ++ [t] }

/-- The scratchpad bytes that a launch asks for. -/
def scratchOf (s : State) (lid : Nat) : Nat := ((s.launches.find? (fun l => l.id = lid)).map (fun (l : Launch) => l.record.scratch)).getD 0

/-- The region bytes that an image in memory carries (R343). -/
def imageRegion (s : State) (at_ : Nat) (u : Strand) : Option (List Byte) :=
  if (imageFlags s at_).testBit 2 then some (homeBytes s (at_ + regionImageAt u) (min 524288 (imageTotal s at_ - regionImageAt u))) else none

/-- R345, R75: the core takes a strand of the launch: its region is allocated, and filled where the image carries it. A region that the launch has on the
core already takes the image's bytes too (log entry 69). -/
def seatRegion (s : State) (x : Seat) (lid vi : Nat) (region : Option (List Byte)) : Option (Nat × State) :=
  let n := match region with
    | some b => max b.length (scratchOf s lid)
    | none => scratchOf s lid
  (allocRegion (enterVi s x.key vi) x.key lid vi n).map (fun r =>
    (r.1, match region with
          | some b => fillRegion r.2 (scratchHa x.key r.1) (b.take (((regionOf r.2 x.key lid).map (·.bytes)).getD 0))
          | none => r.2))

/-- The record of a context that a restore has taken: its image may be loaded again (R356). -/
def takeSaved (s : State) (x : Saved) : State :=
  let s1 := freeSlotOf s x
  { s1 with saved := s1.saved.filter (fun y => y.number ≠ x.number),
            loaded := s1.loaded.filter (fun y => y.number ≠ x.number) ++ [{ x with slot := none }] }

/-- R151: a strand that comes to another core than it left finds none of the lines that the core's L1 kept before: one could be older than what the strand has
read. -/
def dropOlder (s : State) (t : Strand) (x : Seat) : State :=
  if coreKey t.pkg t.die t.core = x.key then s else s.setCore x.key { s.core x.key with l1 := [] }

/-- R345: the image of a context is restored onto a seat. -/
def restoreStrand (s : State) (x : Saved) (seat : Seat) : Option State :=
  let u := readImage s x.at_ x.strand
  (seatRegion s seat u.lid u.vi (imageRegion s x.at_ u)).map (fun r =>
    let s1 := dropOlder r.2 u seat
    joinStrand (takeSaved s1 x) (resumed s1 u seat r.1))

/-- An image holds an uncorrectable word. -/
def imagePoisoned (s : State) (x : Saved) : Bool := homePoisoned s x.at_ (max (regionImageAt x.strand) (imageTotal s x.at_))

/-- A context's image is lost (R346): marked so, or with a word that the restore cannot read. -/
def isLost (s : State) (x : Saved) : Bool := x.lost || imagePoisoned s x

/-- R356: the context whose image stands at an address: its header is valid and not marked lost, and carries the number of a save. The engine's record
may be that of a context restored before, or of an image that software has copied. -/
def imageAt (s : State) (at_ : Nat) : Option Saved :=
  if !imageValid s at_ || (imageFlags s at_).testBit 1 then none
  else
    match (s.saved.filter (fun x => !x.stopped) ++ s.loaded).find? (fun x => x.number = imageNumber s at_) with
    | none => none
    | some x =>
      let y := { x with at_ := at_ }
      if x.lost || imagePoisoned s y then none else some y

/-- The task number under which an image is loaded: its own, or a fresh one where a task of that number runs or is saved apart. -/
def loadAs (s : State) (x : Saved) : Saved × State :=
  if (s.task? x.strand.tid).isSome || s.saved.any (fun y => y.strand.tid = x.strand.tid && y.number ≠ x.number) then
    let (tid, s1) := s.fresh
    ({ x with strand := { x.strand with tid := tid } }, s1)
  else (x, s)

/-- CTXLOAD (R356). -/
def execCtxload (o : Ops) (s : State) : Out :=
  let b := (s.cpu.readG o.B).toNat
  let seat : Seat := { pkg := s.cpu.pkg, die := s.cpu.die, core := bitsOf b 8 2, slot := low 2 b }
  let done := fun (st : State) (n : Word) => Host.Outcome.next (st.commit o.bytes (fun t => t.writeG o.D n))
  ctxChecks o (.ctxload o) s
    (if (namedStrand s b).isSome then done s 1
     else
       match imageAt s (haPhys s.cpu.pkg (s.cpu.readG o.A).toNat) with
       | none => done s 3
       | some x =>
         let u := readImage s x.at_ x.strand
         if freeGroups s seat.key < u.groups ∨ freeTiles s seat.key < (heldTiles u).length then done s 2
         else if s.strands.any (fun t => onCore seat.key t && t.vi ≠ u.vi) then done s 4
         else
           let (y, s1) := loadAs s x
           match restoreStrand s1 y seat with
           | none => done s 2
           | some s2 => done s2 0)

/-! Pre-emption (R73, R74, R342). -/

/-- Two tasks of one launch belong to one instance of a gang or barrier level (R74). -/
def shareGang (t u : Strand) : Bool :=
  (List.range t.levels.length).any (fun i =>
    (match t.levels[i]? with
     | some p => p.gang || p.barrier
     | none => false)
    && (t.levels.take i).map (·.index) == (u.levels.take i).map (·.index)
    && i < u.levels.length && (t.levels[i]?).map (·.index) == (u.levels[i]?).map (·.index))

/-- The graphs that a task has started (R323). -/
def graphsOf (t : Strand) : List Nat := (t.runCounts.map (·.1)) ++ t.runs.map (fun r => graphKey t.vi r.graph)

/-- R74: the two tasks are pre-empted and resumed together. Tasks of a VI are members of one collective group when they have started runs of a graph of
one number, on whatever dies and of whatever launches: the spec names no other mark of a member (log entry 69). -/
def together (t u : Strand) : Bool :=
  t.vi = u.vi && ((t.lid = u.lid && ((t.pkg = u.pkg && t.die = u.die && t.core = u.core) || shareGang t u))
    || (graphsOf t).any (fun g => (graphsOf u).contains g))

/-- The group of a task among some strands, by repeated joining. The first argument bounds the rounds. -/
def groupOf (all : List Strand) : Nat → List Strand → List Strand
  | 0, g => g
  | n + 1, g => groupOf all n (all.filter (fun u => g.any (fun t => t.tid = u.tid || together t u)))

/-- The resident group of a task. -/
def residentGroup (s : State) (t : Strand) : List Strand :=
  let all := s.strands.filter (fun u => u.tid ≠ 0)
  groupOf all all.length [t]

/-- A collective run of the strand stands inside a step (R74, R324, R360): the copy of a LOCAL is under way, or a packet of the step is not sent yet. Steps
before it carry on by themselves. -/
def insideStep (s : State) (t : Strand) : Bool :=
  s.pieces.any (fun p => p.tid = t.tid && p.performed.isNone && ofCurrentStep s t p
    && (p.unsent || (match p.what with
                     | .copy _ _ => true
                     | _ => false)))

/-- R342, R346: the strands of a group are saved, each into the lowest free slot of its die; the first strand of each core's share of a launch
carries the region. An uncorrectable word of the region loses every image of the launch on that core. -/
def saveGroup : State → List Strand → List Nat → State
  | s, [], _ => s
  | s, t :: rest, seen =>
    let ck := coreKey t.pkg t.die t.core
    let dk := dieKey t.pkg t.die
    match freeSlot s dk t.vi with
    | none => s
    | some n =>
      let key := ck * 2 ^ 32 + t.lid
      let (region, bad) := regionBytes s ck t.lid
      let d := s.die dk
      let s1 := s.setDie dk { d with slots := d.slots ++ [t.vi * 256 + n] }
      let s2 := saveStrand s1 t (slotHa s t.pkg t.die t.vi n) (some n) (if seen.contains key then none else region) bad
      saveGroup (if rest.any (fun u => u.lid = t.lid && coreKey u.pkg u.die u.core = ck) then s2 else dropRegion s2 ck t.lid) rest (key :: seen)

/-- R341: the group has a free slot for each of its strands on its die. -/
def slotsFor (s : State) (g : List Strand) : Bool :=
  g.all (fun t =>
    let dk := dieKey t.pkg t.die
    decide ((g.filter (fun u => u.vi = t.vi && dieKey u.pkg u.die = dk)).length
      ≤ ((List.range (low 8 (s.vi t.vi).parkbase.toNat)).filter (fun n => !(s.die dk).slots.contains (t.vi * 256 + n))).length))

/-- R73: a pre-empted launch returns to ready in its class, and its waiting time starts at the pre-emption. Whether it keeps its place in its VI's ready order
(R72, R397) the spec does not say: the model lets it keep that (DESIGN CHOICE, log entry 75). -/
def waitAgain (s : State) (g : List Strand) : State :=
  { s with launches := s.launches.map (fun (l : Launch) => if g.any (fun t => t.lid = l.id) then { l with since := s.time } else l) }

/-- The VI and graph of a combine slot's match (R323). -/
def slotGraph (key : Nat) : Nat := key / 2 ^ 64 / 4096

/-- R324: the combine slots of the group's graphs that its pre-emption leaves partly filled. -/
def leaveSlots (s : State) (g : List Strand) : State :=
  let mine := g.flatMap graphsOf
  { s with dies := s.dies.map (fun (d : Nat × DieSt) =>
      (d.1, { d.2 with combine := d.2.combine.map (fun x => if mine.contains (slotGraph x.key) then { x with since := some s.time } else x) })) }

/-- R342, R74: the pre-emption of a group; refused and reported where a slot is missing (R341), deferred while a collective member stands inside a step
and 50 microseconds have not passed. A package that has tripped saves nothing (R389). -/
def preemptGroup (s : State) (t : Strand) (force : Bool) : State :=
  let g := residentGroup s t
  if g.any (fun u => haltedPkg s u.pkg) then s
  else if !slotsFor s g then { s with outputs := s.outputs ++ [.report 1] }
  else if g.any (insideStep s) ∧ !force then
    s.onStrands (fun u => if g.any (fun x => x.tid = u.tid) && u.deferSince.isNone then { u with deferSince := some s.time } else u)
  else leaveSlots (waitAgain (saveGroup s g []) g) g

/-- The other packages that hold members of a task's group. -/
def groupPackages (s : State) (t : Strand) : List Nat := (((residentGroup s t).map (·.pkg)).filter (fun p => p ≠ t.pkg)).eraseDups

/-- A control message orders the pre-emption of a task's group (R74). -/
def preemptMessage (t : Strand) (p : Nat) : Packet :=
  { kind := .preempt, dstPkg := p, srcPkg := t.pkg, srcDie := t.die, srcCore := t.core, srcSlot := t.slot, vi := t.vi, cls := 2, x := t.tid }

/-- R74: a group on one package is pre-empted at once; one that spans packages is, once every other package has the control message. -/
def requestPreempt (s : State) (t : Strand) : State :=
  match groupPackages s t with
  | [] => preemptGroup s t false
  | ps =>
    if s.wire.any (fun (k : Packet) => k.kind = .preempt && k.x = t.tid) then s
    else { s with wire := s.wire ++ ps.map (preemptMessage t) }

/-- R329, R341, R346: the save engine saves a strand that a trap has stopped: as a lost image, into the lowest free slot of its die, with its launch's
region where no other strand of the launch is left on the core. Without a free slot it reports. -/
def saveStopped (s : State) (x : Saved) : State :=
  let t := x.strand
  let ck := coreKey t.pkg t.die t.core
  let dk := dieKey t.pkg t.die
  match freeSlot s dk t.vi with
  | none => { s with outputs := s.outputs ++ [.report 1] }
  | some n =>
    let d := s.die dk
    let alone := !(s.strands.any (fun u => u.tid ≠ 0 && u.lid = t.lid && coreKey u.pkg u.die u.core = ck))
    let region := if alone then (regionBytes s ck t.lid).1 else none
    let (number, s1) := (s.setDie dk { d with slots := d.slots ++ [t.vi * 256 + n] }).fresh
    let y : Saved := { x with strand := stopped t, at_ := slotHa s t.pkg t.die t.vi n, slot := some n, lost := true, stopped := false, region := region,
                              number := number }
    let (s2, st) := writeImage s1 y
    let z := if st = .ok then y else { y with region := none }
    dropRegion { s2 with saved := s2.saved.map (fun w => if w.stopped && w.strand.tid = t.tid then z else w) } ck t.lid

/-- PREEMPTION_SAVE (R342, R73 case 3, R74): the group of the task that the event names; or a strand that has stopped (R329). -/
def execPreemptionSave (s : State) : Out :=
  match s.task? s.arg.key with
  | some t => .next (requestPreempt s t)
  | none =>
    match s.saved.find? (fun x => x.stopped && x.strand.tid = s.arg.key) with
    | some x => .next (saveStopped s x)
    | none => .next s

/-- PREEMPT_DEFERRAL_EXPIRY (R74): after 50 microseconds the pre-emption happens wherever the collective stands. -/
def execPreemptDeferralExpiry (s : State) : Out :=
  match s.task? s.arg.key with
  | none => .next s
  | some t =>
    match t.deferSince with
    | none => .next s
    | some since => if since + 50000 ≤ s.time then .next (preemptGroup s t true) else .next s

/-! Resuming. -/

/-- The contexts of a group of tasks that the scheduler has to resume: those in slots, and lost ones (R346). A strand that has stopped and is not saved
yet belongs to its group too (R329). -/
def waitsResume (x : Saved) : Bool := x.slot.isSome || x.lost

/-- The saved group of a task (R74, R75). -/
def savedGroup (s : State) (t : Strand) : List Strand :=
  let all := (s.saved.filter waitsResume).map (·.strand)
  groupOf all all.length [t]

/-- The free strand slots of a core. -/
def freeStrandSlots (s : State) (p d c : Nat) : List Nat := (List.range 4).filter (fun n => (s.strandAt p d c n).isNone)

/-- R49, R75: a core has scratchpad room for the region of a share of a launch. A core that holds a region of the launch already takes only a share whose images
carry none, and only back to where it left it: two shares have two regions. -/
def regionRoom (s : State) (ck : Nat) (share : List Saved) : Bool :=
  match share with
  | [] => false
  | x :: _ =>
    match regionOf s ck x.strand.lid with
    | some r => r.bytes == 0 || (share.all (fun y => y.region.isNone) && ck == coreKey x.strand.pkg x.strand.die x.strand.core)
    | none => (fitRegion (s.core ck) (scratchOf s x.strand.lid)).isSome

/-- R56, R75: a core of the die on which the strands of one launch's share can resume together. The spec names no core among several; the model takes the one
that still has the share's region, else the lowest-numbered (log entry 69). -/
def resumeCore (s : State) (share : List Saved) : Option Nat :=
  match share with
  | [] => none
  | x :: _ =>
    let t := x.strand
    let left := if (regionOf s (coreKey t.pkg t.die t.core) t.lid).isSome then [t.core] else []
    (left ++ List.range Config.coresPerDie).find? (fun c =>
      let ck := coreKey t.pkg t.die c
      decide (share.length ≤ (freeStrandSlots s t.pkg t.die c).length)
      && decide ((share.map (fun y => y.strand.groups)).foldl (· + ·) 0 ≤ freeGroups s ck)
      && decide ((share.map (fun y => (heldTiles y.strand).length)).foldl (· + ·) 0 ≤ freeTiles s ck)
      && (s.core ck).pend.isNone && regionRoom s ck share)

/-- R346: a lost context resumes with every register zero but its identity, in S with CONTEXT_LOST; mq is a register too. -/
def lostStrand (s : State) (t : Strand) (x : Seat) (off : Nat) : Strand :=
  let z : Strand := { tid := t.tid, pkg := t.pkg, die := t.die, vpkg := t.vpkg, vi := t.vi, lid := t.lid, index := t.index, levels := t.levels,
                      nv := t.nv, ew := t.ew, groups := t.groups, held := t.held, links := (stopped t).links, arrivals := t.arrivals,
                      runCounts := t.runCounts, claims := t.claims, order := s.time }
  let p := placed s z x off
  { p with level := .s, mmode := false, tm := 0, tn := 0, tk := 0, ttype := 0, mqOff := (List.range p.mvl).map (fun i => (i, true)),
           pc := (s.viPkg x.pkg t.vi).tvec, entering := true, trapS := { cause := BitVec.ofNat 8 causeContextLost, pmm := false } }

/-- R361: the pieces of a lost context go on to their homes, and end nowhere. -/
def orphanPieces (s : State) (tid : Nat) : State :=
  let (none_, s1) := s.fresh
  { s1 with pieces := s1.pieces.map (fun p => if p.tid = tid then { p with tid := none_ } else p) }

/-- R346: the lost context is resumed, its region from its image where that carries it; the launch's status is at least CONTEXT_LOST. -/
def resumeLost (s : State) (x : Saved) (seat : Seat) : Option State :=
  let t := x.strand
  let region := x.region.map (fun b => homeBytes s (x.at_ + regionImageAt t) b.length)
  (seatRegion s seat t.lid t.vi region).map (fun r =>
    let s1 := orphanPieces (freeSlotOf (dropOlder r.2 t seat) x) t.tid
    joinStrand { s1 with
                   saved := s1.saved.filter (fun y => y.number ≠ x.number),
                   launches := s1.launches.map (fun (l : Launch) => if l.id = t.lid then { l with codes := l.codes ++ [6] } else l) }
      (lostStrand s1 t seat r.1))

/-- The contexts of one launch's share of a core resume on core `c`, lost ones as R346 says. -/
def resumeShare (c : Nat) : State → List Saved → State
  | s, [] => s
  | s, x :: rest =>
    match freeStrandSlots s x.strand.pkg x.strand.die c with
    | [] => s
    | n :: _ =>
      let seat : Seat := { pkg := x.strand.pkg, die := x.strand.die, core := c, slot := n }
      match (if isLost s x then resumeLost s x seat else restoreStrand s x seat) with
      | none => s
      | some s1 => resumeShare c s1 rest

/-- The group's contexts by launch and core, each share resumed on one core of its die. The first argument bounds the shares. -/
def resumeGroup : Nat → State → List Saved → State
  | 0, s, _ => s
  | _ + 1, s, [] => s
  | n + 1, s, x :: rest =>
    let mine := fun (y : Saved) => y.strand.lid = x.strand.lid && y.strand.pkg = x.strand.pkg && y.strand.die = x.strand.die && y.strand.core = x.strand.core
    let share := x :: rest.filter mine
    match resumeCore s share with
    | none => s
    | some c => resumeGroup n (resumeShare c s share) (rest.filter (fun y => !mine y))

/-- R74, R75, R56: the saved group of a context resumes as a whole, when every share of it finds a core. -/
def resumeWhole (s : State) (x : Saved) : State :=
  let g := savedGroup s x.strand
  let images := s.saved.filter (fun y => waitsResume y && g.any (fun t => t.tid = y.strand.tid))
  if images.any (·.stopped) then s
  else
    let s1 := resumeGroup images.length s images
    if s1.saved.any (fun y => images.any (fun z => z.number = y.number)) then s else s1

end Sys2Proof.Machine
end

