-- ==== Sys2Proof/Machine/Engines.lean ====
section
/-! DEFINITION. The copy engine, circular buffers and named buffers (spec/21_streams.md R302 to R304, R312 to R315; spec/07_memory.md R138 to R141;
spec/09_consistency.md R173). -/

namespace Sys2Proof.Machine

/-! COPY (R312). -/

/-- The status that a fault of an engine's access stands for (R303, R304). -/
def faultStatus (c : Nat) : Status := if c = causeUeData then .ue else if c = causeTimeout then .timeout else .revoked

/-- R312: one step of a copy: all source bytes are read, then the destination bytes written. -/
def copyStep (s : State) (w : Who) (src dst : List (Place × Nat)) (sva dva : Word) : Acc Unit :=
  (readPlaces w 0 sva s src).andThen (fun x s1 =>
    match writePlaces w .engine false s1 dst x.bytes with
    | (s2, .ok) => .ok () s2
    | (s2, st) => .fault st.cause (elemTval s2 st { i := 0, va := dva, places := dst }) s2)

/-- R312, R64: step number VSTART of a copy, 256 bytes; VSTART then names the next one. A failure stops at its step. -/
def copyTurn (w : Who) (src dst : List (Place × Nat)) (sva dva : Word) (n : Nat) (s : State) : Out :=
  let k := s.cpu.vstart
  let lo := 256 * k
  let len := min 256 (n - lo)
  if n ≤ lo then .next (s.retire id)
  else
    match copyStep s w (slicePlaces src lo len) (slicePlaces dst lo len) (vaAdd sva lo) (vaAdd dva lo) with
    | .ok _ s1 => if n ≤ lo + 256 then .next (s1.retire id) else .next (betweenSteps (atElement s1 (k + 1)) {})
    | .fault c t s1 => .next (queuedTrap s1 c t)
    | .wait s1 => .next s1.park

/-- The pieces of a copy from step `first` on: one for each step of 256 bytes. -/
def copyPieces (src dst : List (Place × Nat)) (first n : Nat) : List (Place × PieceOp) :=
  (List.range (ceilDiv n 256 - first)).filterMap (fun j =>
    let k := first + j
    let lo := 256 * k
    let len := min 256 (n - lo)
    match slicePlaces dst lo len with
    | [] => none
    | d :: rest => some (d.1, .copy (slicePlaces src lo len) (d :: rest)))

/-- COPY (R312, R303). -/
def execCopy (o : Ops) (s : State) : Out :=
  let n := (s.srcB o.b).toNat
  let w := s.who .vector
  let dva := s.srcG o.D
  let sva := s.srcG o.A
  if 2 ^ 24 < n then .next (queuedTrap s causeIllFld s.headWord)
  else if n = 0 then .next (s.retire id)
  else if o.nb && ccFull s o.ccNo then .next s.park
  else
    afterPosts o.releases s (queuedAccOut (rangeOf s w sva n .read) (fun src s1 =>
      queuedAccOut (rangeOf s1 w dva n .write) (fun dst s2 =>
        if o.nb then .next ((issueNb s2 o.ccNo true none (copyPieces src dst s2.cpu.vstart n)).retire id)
        else copyTurn w src dst sva dva n s2)))

/-! Circular buffers (R140, R141). -/

/-- A circular-buffer descriptor as read. -/
structure CircBuf where
  base   : Nat
  size   : Nat
  count  : Nat
  free   : Nat
  filled : Nat
  read   : Nat
  write  : Nat
deriving DecidableEq, Repr

/-- R140, R141: a descriptor from its bytes, or none where it is not legal. -/
def circBufOf (b : List Byte) : Option CircBuf :=
  let d : CircBuf := { base := fieldAt b 0 8, size := fieldAt b 8 4, count := fieldAt b 12 4, free := fieldAt b 16 8, filled := fieldAt b 24 8,
                       read := fieldAt b 32 8, write := fieldAt b 40 8 }
  if d.base % 8 == 0 && d.size % 8 == 0 && decide (8 ≤ d.size) && decide (d.size ≤ 2 ^ 20) && decide (1 ≤ d.count) && decide (d.count ≤ 2 ^ 24)
     && decide (d.free ≤ d.count) && decide (d.filled ≤ d.count) && decide (d.read < d.count) && decide (d.write < d.count)
     && fieldAt b 48 8 == 0 then some d else none

/-- R141: the descriptor at an address, with its place; one that is not legal faults ALIGN. -/
def readCb (s : State) (w : Who) (va : Word) : Acc (Place × CircBuf) :=
  if misaligned va 64 then .fault causeAlign va s
  else
    (placeOf s w va 64 .atomic).andThen (fun p s1 =>
      (readPlaces w 0 va s1 [(p, 64)]).andThen (fun x s2 =>
        match circBufOf x.bytes with
        | none => .fault causeAlign va s2
        | some d => .ok (p, d) s2))

/-- The four counts of a descriptor written by its home, as one action. -/
def putCb (s : State) (w : Who) (p : Place) (d : CircBuf) : State × Status :=
  writePlace s w .engine (p.add 16) (leBytes 8 d.free ++ leBytes 8 d.filled ++ leBytes 8 d.read ++ leBytes 8 d.write) false

/-- The die whose home keeps the claims of a descriptor. -/
def cbDie (p : Place) : Nat := haDieKey p.ha

/-- A claimed slot (R141, R313): its descriptor as it stood before, the slot, the claim's number. -/
structure CbClaim where
  buf  : CircBuf
  slot : Nat
  num  : Nat
deriving DecidableEq, Repr

/-- R141, R313: Claim; none while no slot is free. -/
def claimCb (s : State) (w : Who) (va : Word) : Acc (Place × CircBuf × Option CbClaim) :=
  (readCb s w va).andThen (fun x s1 =>
    let (p, d) := x
    if d.free = 0 then .ok (p, d, none) s1
    else
      match putCb s1 w p { d with free := d.free - 1, write := (d.write + 1) % d.count } with
      | (s2, .ok) =>
        (let (num, s3) := s2.fresh
         let dk := cbDie p
         let s4 := s3.setDie dk { s3.die dk with fills := (s3.die dk).fills ++ [(p.ha, num, false)] }
         .ok (p, d, some { buf := d, slot := d.write, num := num }) s4)
      | (s2, st) => .fault st.cause (failTval s2 st p 64 va) s2)

/-- R313: the claims of a descriptor that stand filled at the head of its claim order. -/
def readyFills (ha : Nat) (l : List (Nat × Nat × Bool)) : List Nat :=
  ((l.filter (fun x => x.1 = ha)).takeWhile (fun x => x.2.2)).map (fun x => x.2.1)

/-- R141, R313: Fill: the claim is marked, and `filled` gains every slot whose earlier claims are filled too. -/
def fillCb (s : State) (w : Who) (p : Place) (num : Nat) : State × Status :=
  let dk := cbDie p
  let marked := (s.die dk).fills.map (fun x => if x.1 = p.ha ∧ x.2.1 = num then (x.1, x.2.1, true) else x)
  let ready := readyFills p.ha marked
  let s1 := s.setDie dk { s.die dk with fills := marked.filter (fun x => !(x.1 == p.ha && ready.contains x.2.1)) }
  if ready.isEmpty then (s1, .ok)
  else
    let r := atomicPlace s1 w (p.add 24) 8 (fun old => some (leBytes 8 (leNat old + ready.length)))
    (r.1, r.2.1)

/-- The claim that the head of the queue keeps (R313). -/
def headClaim (s : State) : Option (Word × Nat × Nat) :=
  match s.cpu.queue with
  | [] => none
  | e :: _ => e.claim

/-- R313: the address of slot `k`. -/
def slotAddr (d : CircBuf) (k : Nat) : Word := BitVec.ofNat 64 (d.base + k * d.size)

/-- R313: source and whole buffer translated, the buffer's size checked. -/
def cbTranslate (s : State) (w : Who) (src desc : Word) (d : CircBuf) : Acc Unit :=
  if 2 ^ 24 < d.size * d.count then .fault causeAlign desc s
  else
    (rangeOf s w src d.size .read).andThen (fun _ s1 =>
      (rangeOf s1 w (BitVec.ofNat 64 d.base) (d.size * d.count) .write).andThen (fun _ s2 => .ok () s2))

/-- One step of the slot copied, from byte `lo` on (R64): its bytes read, then written. -/
def cbMove (s : State) (w : Who) (src : Word) (d : CircBuf) (slot lo : Nat) : Acc Unit :=
  let len := min 256 (d.size - lo)
  let dst := vaAdd (slotAddr d slot) lo
  (rangeOf s w (vaAdd src lo) len .read).andThen (fun sps s1 =>
    (rangeOf s1 w dst len .write).andThen (fun dps s2 => copyStep s2 w sps dps (vaAdd src lo) dst))

/-- The bytes of some parts of a range, each with a mark where it cannot be read: a poisoned word, a package that does not answer, a page whose
retranslation faults. The status is the first failure's. -/
def readSound (w : Who) : State → List (Word × Nat) → Acc (List (Byte × Bool) × Status)
  | s, [] => .ok ([], .ok) s
  | s, (va, n) :: rest =>
    let one : Acc (List (Byte × Bool) × Status) :=
      match placeOf s w va n .read with
      | .wait s1 => .wait s1
      | .fault c _ s1 => .ok (List.replicate n (0, true), faultStatus c) s1
      | .ok p s1 =>
        if cutOff s1 w p n then .ok (List.replicate n (0, true), .timeout) s1
        else
          let (x, s2) := readPlace s1 w 0 p n
          let bytes := x.bytes.mapIdx (fun i b => (b, x.poison && wordPoisoned s2 p ((p.ha + i) / 8)))
          .ok (bytes, if bytes.any (·.2) then .ue else .ok) s2
    one.andThen (fun x s1 => (readSound w s1 rest).andThen (fun y s2 => .ok (x.1 ++ y.1, x.2.orElse y.2) s2))

/-- The runs of bytes that are sound: distance from the first byte, and the bytes. -/
def soundRuns : Nat → List (Byte × Bool) → List (Nat × List Byte)
  | _, [] => []
  | i, (b, bad) :: rest =>
    if bad then soundRuns (i + 1) rest
    else
      match soundRuns (i + 1) rest with
      | (j, l) :: more => if j = i + 1 then (i, b :: l) :: more else (i, [b]) :: (j, l) :: more
      | [] => [(i, [b])]

/-- Parts of a range written, each where its page translates and its home accepts it; the others stay unwritten. -/
def writeSound (w : Who) : State → List (Word × List Byte) → Acc Status
  | s, [] => .ok .ok s
  | s, (va, bytes) :: rest =>
    let one : Acc Status :=
      match placeOf s w va bytes.length .write with
      | .wait s1 => .wait s1
      | .fault c _ s1 => .ok (faultStatus c) s1
      | .ok p s1 => (let (s2, st) := writePlace s1 w .engine p bytes false; .ok st s2)
    one.andThen (fun a s1 => (writeSound w s1 rest).andThen (fun b s2 => .ok (a.orElse b) s2))

/-- Some bytes at an address, by page. -/
def bytesByPage (va : Word) (bytes : List Byte) : List (Word × List Byte) :=
  ((partsOf va bytes.length).foldl (fun (acc : List Byte × List (Word × List Byte)) x => (acc.1.drop x.2, acc.2 ++ [(x.1, acc.1.take x.2)])) (bytes, [])).2

/-- R313: the slot of an `.nb` CBCOPY: the bytes that fail stay unwritten, the others are copied. -/
def cbMoveSound (s : State) (w : Who) (src : Word) (d : CircBuf) (slot : Nat) : Acc Status :=
  (readSound w s (partsOf src d.size)).andThen (fun x s1 =>
    (writeSound w s1 ((soundRuns 0 x.1).flatMap (fun y => bytesByPage (vaAdd (slotAddr d slot) y.1) y.2))).andThen (fun st s2 => .ok (x.2.orElse st) s2))

/-- R313, R64: a blocking CBCOPY that holds a claim copies a step of its slot, and fills after the last one. -/
def cbFinish (s : State) (w : Who) (src desc : Word) (p : Place) (d : CircBuf) (slot num : Nat) : Out :=
  let keep := fun (st : State) => onHead st (fun e => { e with claim := some (desc, slot, num) })
  let lo := ((headPass s).map (·.n)).getD 0
  match cbMove s w src d slot lo with
  | .fault c t s1 => .next (queuedTrap (keep s1) c t)
  | .wait s1 => .next (keep s1).park
  | .ok _ s1 =>
    if lo + 256 < d.size then .next (betweenSteps (keep s1) { n := lo + 256 })
    else
      match fillCb s1 w p num with
      | (s2, .ok) => .next (s2.retireKeep id)
      | (s2, st) => .next (queuedTrap (keep s2) st.cause desc)

/-- CBCOPY (R313). -/
def execCbcopy (o : Ops) (s : State) : Out :=
  let w := s.who .vector
  let desc := s.srcG o.D
  let src := s.srcG o.A
  if o.nb && ccFull s o.ccNo then .next s.park
  else
    queuedAccOut (readCb s w desc) (fun x s1 =>
      queuedAccOut (cbTranslate s1 w src desc x.2) (fun _ s2 =>
        if o.nb then .next ((issueNb s2 o.ccNo false none [(x.1, .cbcopy src desc)]).retireKeep id)
        else
          match headClaim s2 with
          | some (_, slot, num) => cbFinish s2 w src desc x.1 x.2 slot num
          | none =>
            queuedAccOut (claimCb s2 w desc) (fun c s3 =>
              match c.2.2 with
              | none => .next (parkOn s3 [(c.1.ha + 16) / 8])
              | some k => cbFinish s3 w src desc c.1 k.buf k.slot k.num)))

/-- R313: a CBCOPY piece: it waits for a free slot; a failure after its claim still fills. -/
def performCbcopy (s : State) (p : Piece) (src desc : Word) : Performed :=
  let w := p.who
  match claimCb s w desc with
  | .wait s1 => .wait s1
  | .fault c _ s1 => .done s1 (faultStatus c) p
  | .ok (_, _, none) s1 => .wait s1
  | .ok (q, _, some k) s1 =>
    let finish := fun (s2 : State) (st : Status) => let (s3, st2) := fillCb s2 w q k.num; Performed.done s3 (st.orElse st2) p
    match cbMoveSound s1 w src k.buf k.slot with
    | .ok st s2 => finish s2 st
    -- a spilled page holds the whole attempt back
    | .wait s2 => .wait { s with pageIns := s2.pageIns }
    | .fault c _ s2 => finish s2 (faultStatus c)

/-- CBWAITF (R314). -/
def execCbwaitf (o : Ops) (s : State) : Out :=
  let w := s.who .vector
  let desc := s.srcG o.A
  queuedAccOut (readCb s w desc) (fun x s1 =>
    let (p, d) := x
    if d.filled = 0 then .next (parkOn s1 [(p.ha + 24) / 8])
    else
      match putCb s1 w p { d with filled := d.filled - 1, read := (d.read + 1) % d.count } with
      | (s2, .ok) => .next (s2.retireKeep (fun t => t.writeG o.D (slotAddr d d.read)))
      | (s2, st) => .next (queuedTrap s2 st.cause (failTval s2 st p 64 desc)))

/-- CBFREE (R314). -/
def execCbfree (o : Ops) (s : State) : Out :=
  let w := s.who .vector
  let desc := s.srcG o.A
  let b := (s.srcB o.b).toNat
  afterPosts true s (queuedAccOut (readCb s w desc) (fun x s1 =>
    let (p, d) := x
    if b < 1 ∨ d.count < b ∨ d.count < d.free + b then .next (queuedTrap s1 causeAlign desc)
    else
      match putCb s1 w p { d with free := d.free + b } with
      | (s2, .ok) => .next (s2.retireKeep id)
      | (s2, st) => .next (queuedTrap s2 st.cause (failTval s2 st p 64 desc))))

/-! Named buffers (R138, R139, R173, R315). -/

/-- A named-buffer entry as read. -/
structure NamedBuf where
  index  : Nat
  pub    : Nat
  alias_ : Nat
  pages  : Nat
deriving DecidableEq, Repr

/-- The address of entry `n` of a VI's named-buffer table on a package. -/
def nbEntryAt (s : State) (pkg vi n : Nat) : Nat := haPhys pkg ((s.vi vi).nbtab.toNat / 4096 * 4096 + 32 * n)

/-- R138: a valid entry. Both ranges start on pages, lie in one channel of one die and do not overlap. -/
def nbEntry (s : State) (pkg vi n : Nat) : Option NamedBuf :=
  let at_ := nbEntryAt s pkg vi n
  let e : NamedBuf := { index := n, pub := memWord s.mem at_, alias_ := memWord s.mem (at_ + 8), pages := low 32 (memWord s.mem (at_ + 16)) }
  let bytes := 65536 * e.pages
  let lo := e.pub % 2 ^ 33
  let hi := e.alias_ % 2 ^ 33
  if memWord s.mem (at_ + 16) / 2 ^ 32 == 1 && e.pub % 65536 == 0 && e.alias_ % 65536 == 0 && e.pub / 2 ^ 62 == 0
     && e.pub / 2 ^ 33 == e.alias_ / 2 ^ 33 && decide (1 ≤ e.pages) && decide (lo + bytes ≤ 2 ^ 33) && decide (hi + bytes ≤ 2 ^ 33)
     && (decide (lo + bytes ≤ hi) || decide (hi + bytes ≤ lo)) then some e else none

/-- R315: the matching valid entry of lowest index. -/
def nbFind (s : State) (pkg vi : Nat) (f : NamedBuf → Bool) : Option NamedBuf :=
  ((List.range (2 ^ min 12 ((s.vi vi).nbtab.toNat % 32))).filterMap (nbEntry s pkg vi)).find? f

/-- SHADOW (R315). -/
def execShadow (o : Ops) (s : State) : Out :=
  let a := s.srcG o.A
  match nbFind s s.cpu.pkg s.cpu.vi (fun e => decide (e.pub ≤ a.toNat) && decide (a.toNat < e.pub + 65536 * e.pages)) with
  | none => .next (queuedTrap s causePageNp a)
  | some e => .next (s.retireKeep (fun t => t.writeG o.D (BitVec.ofNat 64 (e.alias_ + (a.toNat - e.pub)))))

/-- The page addresses of a range of pages. -/
def rangePages (a n : Nat) : List Nat := (List.range n).map (fun i => a + 65536 * i)

/-- What stands in the way of a swap: a page of either range that is not mapped faults, one that is spilled is paged in. -/
inductive SwapReady where
  | ready
  | absent (va : Nat)
  | spilled (va : Nat)
deriving DecidableEq, Repr

/-- R139, R395: whether every page of both ranges can be swapped now. -/
def swapReady (s : State) (pkg vi : Nat) : List Nat → SwapReady
  | [] => .ready
  | a :: rest =>
    match nodeOf s pkg vi (bitsOf a 61 40) with
    | none => .absent a
    | some p =>
      match walk s p (bitsOf a 39 37) (bitsOf a 36 33) vi (low 33 a) with
      | none => .absent a
      | some (_, l) => if l.sp then .spilled a else swapReady s pkg vi rest

/-- Bits 47:16 of a page table entry replaced (R112). -/
def withFrame (e frame : Nat) : Nat := e / 2 ^ 48 * 2 ^ 48 + low 32 (frame / 2 ^ 16) * 2 ^ 16 + low 16 e

/-- R139: the frame fields of two page table entries exchanged. -/
def swapFrames (s : State) (x y : Nat) : State :=
  let a := memWord s.mem x
  let b := memWord s.mem y
  { s with mem := memWrite (memWrite s.mem x (leBytes 8 (withFrame a b))) y (leBytes 8 (withFrame b a)) }

/-- The home addresses of the page table entries of a public page and its alias page. -/
def swapPairs (s : State) (pkg vi : Nat) (e : NamedBuf) : List (Nat × Nat) :=
  ((rangePages e.pub e.pages).zip (rangePages e.alias_ e.pages)).filterMap (fun x =>
    match nodeOf s pkg vi (bitsOf x.1 61 40) with
    | none => none
    | some p =>
      match walk s p (bitsOf x.1 39 37) (bitsOf x.1 36 33) vi (low 33 x.1), walk s p (bitsOf x.2 39 37) (bitsOf x.2 36 33) vi (low 33 x.2) with
      | some a, some b => some (a.1, b.1)
      | _, _ => none)

/-- R139: the generation entries of both ranges' pages. -/
def swapTags (s : State) (pkg vi : Nat) (e : NamedBuf) : List Nat :=
  tagsOf s vi ((rangePages e.pub e.pages ++ rangePages e.alias_ e.pages).filterMap (fun a =>
    (nodeOf s pkg vi (bitsOf a 61 40)).map (fun p => (p, bitsOf a 39 37, bitsOf a 36 33, low 33 a))))

/-- R139, R116: the swap as one action: frames exchanged, every page's generation advanced, `swaps` counted. -/
def swapBuffer (s : State) (pkg vi : Nat) (e : NamedBuf) : State :=
  let s1 := (swapPairs s pkg vi e).eraseDups.foldl (fun st x => swapFrames st x.1 x.2) s
  let s2 := advanceTags s1 (swapTags s1 pkg vi e)
  let at_ := nbEntryAt s2 pkg vi e.index + 24
  noteWrite { s2 with mem := memWrite s2.mem at_ (leBytes 8 (memWord s2.mem at_ + 1)) } at_ 8

/-- R116: some page of the buffer has used up its advances. -/
def swapWaits (s : State) (pkg vi : Nat) (e : NamedBuf) : Bool := (swapTags s pkg vi e).any (advanceWaits s)

/-- R173: what a strand's pieces and collective runs that started before the number `before` have yet to write. -/
def earlierWrites (s : State) (t : Strand) (before : Nat) : List (Word × Nat) :=
  (s.pieces.filter (fun q => q.tid = t.tid && (decide (q.id < before) || q.run.any (fun n => decide (n < before))))).flatMap (writesOf s)
  ++ ((liveRuns s t).filter (fun r => decide (r.id < before))).flatMap (runWrites s t)

/-- R173: some of these writes goes into the buffer's shadow frames through the alias. -/
def shadowBusy (l : List (Word × Nat)) (e : NamedBuf) : Bool :=
  l.any (fun x => decide (x.1.toNat < e.alias_ + 65536 * e.pages) && decide (e.alias_ < x.1.toNat + x.2))

/-- R303, R395: every page of both ranges is mapped; a spilled one is paged in first. -/
def publishPages (s : State) (pkg vi : Nat) (e : NamedBuf) : Acc Unit :=
  match swapReady s pkg vi (rangePages e.pub e.pages ++ rangePages e.alias_ e.pages) with
  | .absent a => .fault causePageNp (BitVec.ofNat 64 a) s
  | .spilled a =>
    let x := (vi, BitVec.ofNat 64 a)
    .wait (if s.pageIns.contains x then s else { s with pageIns := s.pageIns ++ [x] })
  | .ready => .ok () s

/-- R139, R173: a PUBLISH at its home: it waits, faults at a page, or swaps. -/
def publishNow (s : State) (pkg vi : Nat) (e : NamedBuf) (earlier : List (Word × Nat)) : Acc Unit :=
  if shadowBusy earlier e then .wait s
  else (publishPages s pkg vi e).andThen (fun _ s1 => if swapWaits s1 pkg vi e then .wait s1 else .ok () (swapBuffer s1 pkg vi e))

/-- The place of a PG page at its home, untranslated. -/
def homePlace (s : State) (a : Word) : Place :=
  match homePage s a.toNat with
  | some (p, d, c, off) => { kind := .pg, ha := haOf p d c off, va := a }
  | none => { kind := .pg, ha := 0, va := a }

/-- PUBLISH (R315). -/
def execPublish (o : Ops) (s : State) : Out :=
  let a := s.srcG o.A
  if o.nb && ccFull s o.ccNo then .next s.park
  else
    match nbFind s s.cpu.pkg s.cpu.vi (fun e => e.pub == a.toNat) with
    | none => .next (queuedTrap s causePageNp a)
    | some e =>
      if o.nb then
        queuedAcc (publishPages s s.cpu.pkg s.cpu.vi e)
          (fun _ s1 => (issueNb s1 o.ccNo false none [(homePlace s1 a, .publish e.index)]).retireKeep id)
      else queuedAcc (publishNow s s.cpu.pkg s.cpu.vi e (earlierWrites s s.cpu s.next)) (fun _ s1 => s1.retireKeep id)

/-- R315, R173: a PUBLISH piece. -/
def performPublish (s : State) (p : Piece) (index : Nat) : Performed :=
  match nbEntry s p.srcPkg p.vi index with
  | none => .done s .revoked p
  | some e =>
    let earlier := match (s.strands ++ s.saved.map (·.strand)).find? (fun t => t.tid = p.tid) with
      | some t => earlierWrites s t p.id
      | none => []
    match publishNow s p.srcPkg p.vi e earlier with
    | .ok _ s1 => .done s1 .ok p
    | .wait s1 => .wait s1
    | .fault _ _ s1 => .done s1 .revoked p

end Sys2Proof.Machine
end

