-- ==== Sys2Proof/Machine/Fabric.lean ====
section
/-! DEFINITION. Bulk transfers, expert dispatch, registrations and windows (spec/21_streams.md R316 to R320, R325, R326; spec/09_consistency.md R169
to R171). -/

namespace Sys2Proof.Machine

/-! Where a range lies. -/

/-- The die of a PG or on-chip map address, by virtual package and die number; none for a window or an unassigned address. -/
def vaDie (a : Nat) : Option (Nat × Nat) :=
  match bitsOf a 63 62 with
  | 0 => some (bitsOf a 61 40, bitsOf a 39 37)
  | 2 => some (bitsOf a 55 34, bitsOf a 33 31)
  | _ => none

/-- The last byte of a range. -/
def lastOf (a n : Nat) : Nat := if n = 0 then a else a + n - 1

/-- The die of an address, by its physical package (R109): two virtual numbers may name one package. -/
def physDie (s : State) (t : Strand) (a : Nat) : Option (Nat × Nat) :=
  (vaDie a).bind (fun x => (nodeOf s t.pkg t.vi x.1).map (fun p => (p, x.2)))

/-- R317: a range and a counter lie on one die, as far as their addresses say. -/
def oneDie (s : State) (t : Strand) (a n : Nat) (counter : Option Nat) : Bool :=
  match physDie s t a with
  | none => true
  | some d => decide (lastOf a n < 2 ^ 64) && physDie s t (lastOf a n) == some d && (bitsOf a 63 62 == bitsOf (lastOf a n) 63 62)
      && (match counter with
          | none => true
          | some c => physDie s t c == none || physDie s t c == some d)

/-- R318: a range in PG memory homed on the strand's own die, or in the scratchpad of a core of it. -/
def onOwnDie (s : State) (a n : Nat) : Bool :=
  let mine := fun (v d : Nat) => nodeOf s s.cpu.pkg s.cpu.vi v == some s.cpu.pkg && d == s.cpu.die
  decide (lastOf a n < 2 ^ 64)
  && (match bitsOf a 63 62 with
      | 0 => mine (bitsOf a 61 40) (bitsOf a 39 37) && a / 2 ^ 37 == lastOf a n / 2 ^ 37
      | 2 => mine (bitsOf a 55 34) (bitsOf a 33 31) && a / 2 ^ 22 == lastOf a n / 2 ^ 22 && bitsOf a 23 22 == 0
      | _ => false)

/-! RSEND (R317). -/

/-- The operands of a bulk transfer: destination, source, count, counter. -/
structure Bulk where
  dst     : Word
  src     : Word
  n       : Nat
  counter : Option Word
deriving DecidableEq, Repr

def bulkOf (o : Ops) (s : State) : Bulk :=
  let c := s.srcG o.C
  { dst := s.srcG o.D, src := s.srcG o.A, n := (s.srcG o.B).toNat, counter := if c = 0 then none else some c }

/-- The counter's place, if one is named. -/
def counterPlace (s : State) (w : Who) : Option Word → Acc (Option Place)
  | none => .ok none s
  | some c => (placeOf s w c 8 .atomic).andThen (fun p s1 => .ok (some p) s1)

/-- R171: S of the strand towards a die. -/
def flagNeed (s : State) (die : Nat) : Nat := cellGet 0 s.cpu.flagBytes die
def setFlagNeed (s : State) (die n : Nat) : State := s.onCpu (fun t => { t with flagBytes := cellSet 0 t.flagBytes die n })

/-- The die on which a destination lies. -/
def destDie (s : State) (ps : List (Place × Nat)) : Nat :=
  match ps with
  | [] => s.myDie
  | x :: _ => placeDie s x.1

/-- R317, R171: the place of an ordered flag of no byte: its destination's address names the die that it goes to, and no page of it is translated. -/
def emptyPlace (s : State) (va : Word) : Place :=
  let d := (physDie s s.cpu va.toNat).getD (s.cpu.pkg, s.cpu.die)
  { kind := .pg, ha := haOf d.1 d.2 0 0, va := va }

/-- The places of an RSEND's destination. -/
def bulkPlaces (s : State) (va : Word) (ps : List (Place × Nat)) : List (Place × Nat) := if ps.isEmpty then [(emptyPlace s va, 0)] else ps

/-- R171: the Eft unit's stream table has no room for a new stream. -/
def streamsFull (s : State) (die key : Nat) : Bool :=
  let l := (s.die die).streams
  decide (4096 ≤ l.length) && (l.lookup key).isNone

/-- The packets whose source bytes are sound. -/
def soundParts : List (Place × Nat) → List (Byte × Bool) → List (Place × Nat × List Byte)
  | [], _ => []
  | (p, n) :: rest, bytes =>
    let mine := bytes.take n
    (if mine.any (·.2) then [] else [(p, n, mine.map (·.1))]) ++ soundParts rest (bytes.drop n)

/-- R317: the packets of an RSEND: an ordered flag is one packet, though it may cross a page; data leave in packets of one page. -/
def bulkPieces (flag : Bool) (need : Nat) (dst : List (Place × Nat)) (bytes : List (Byte × Bool)) : List (Place × PieceOp) :=
  if flag then
    (match dst with
     | [] => []
     | x :: more => if bytes.any (·.2) then [] else [(x.1, .flag (bytes.map (·.1)) need more)])
  else (soundParts (packetParts dst) bytes).map (fun x => (x.1, .data x.2.2 true))

/-- R171: what the strand has sent to a die since its last flag there, once an RSEND of `n` bytes is sent. -/
def countSent (s : State) (flag : Bool) (die n : Nat) : State := setFlagNeed s die (if flag then 0 else flagNeed s die + n)

/-- Pieces with their numbers. -/
def numbered (l : List (Place × PieceOp)) : List (Nat × Place × PieceOp) := l.zipIdx.map (fun x => (x.2, x.1))

/-- R317: a blocking RSEND whose ranges are translated: it sends its packets and waits for them (R362, R368). -/
def rsendBlocking (s : State) (b : Bulk) (flag : Bool) (src dst : List (Place × Nat)) (c : Option Place) : Out :=
  let die := destDie s (bulkPlaces s b.dst dst)
  queuedAcc (readPlaces (s.who .vector) 0 b.src s src) (fun x s1 =>
    awaitPieces (countSent s1 flag die b.n) false (c.map (·, b.n)) (numbered (bulkPieces flag (flagNeed s1 die) (bulkPlaces s b.dst dst) (x.bytes.map (·, false)))))

/-- A blocking instruction whose packets have all ended: it completes, or traps on the first one that failed. -/
def bulkDone (fails : List (Nat × Nat × Word)) (s : State) : Out :=
  match lowestFail fails with
  | none => .next (s.retireKeep id)
  | some (_, c, t) => .next (queuedTrap s c t)

/-- The bytes of some places read one by one, each with its poison mark; nothing faults. -/
def readMarked (w : Who) : State → List (Place × Nat) → List (Byte × Bool) × State
  | s, [] => ([], s)
  | s, (p, n) :: rest =>
    let (x, s1) := readPlace s w 0 p n
    let (more, s2) := readMarked w s1 rest
    ((x.bytes.mapIdx (fun i b => (b, x.poison && wordPoisoned s1 p ((p.ha + i) / 8)))) ++ more, s2)

/-- R166: the ue bit of a counter. -/
def markUe (s : State) (c : Nat) : State := s.onCpu (fun t => t.writeCC c { t.readCC c with ue := true })

/-- R317, R166: a non-blocking RSEND: a poisoned source packet is not sent, sets ue, and the byte counter gains nothing. -/
def rsendNb (s : State) (o : Ops) (b : Bulk) (flag : Bool) (src dst : List (Place × Nat)) (c : Option Place) : Out :=
  let die := destDie s (bulkPlaces s b.dst dst)
  let (bytes, s1) := readMarked (s.who .vector) s src
  let bad := bytes.any (·.2)
  let s2 := countSent (if bad then markUe s1 o.ccNo else s1) flag die b.n
  .next ((issueNb s2 o.ccNo false (if bad then none else c.map (·, b.n)) (bulkPieces flag (flagNeed s1 die) (bulkPlaces s b.dst dst) bytes)).retireKeep id)

/-- RSEND (R317). -/
def execRsend (o : Ops) (s : State) : Out :=
  let b := bulkOf o s
  let flag := o.orderedFlag
  let w := s.who .vector
  awaited s (fun s => afterPosts o.releases s (
  if (if flag then 256 else 2 ^ 24) < b.n ∨ !oneDie s s.cpu b.dst.toNat b.n (b.counter.map (·.toNat)) then .next (queuedTrap s causeAlign b.dst)
  else
    match b.counter.filter (fun c => misaligned c 8) with
    | some c => .next (queuedTrap s causeAlign c)
    | none =>
      if o.nb && ccFull s o.ccNo then .next s.park
      else
        queuedAccOut (rangeOf s w b.src b.n .read) (fun src s1 =>
          queuedAccOut (rangeOf s1 w b.dst b.n .write) (fun dst s2 =>
            queuedAccOut (counterPlace s2 w b.counter) (fun c s3 =>
              if o.nb then rsendNb s3 o b flag src dst c else rsendBlocking s3 b flag src dst c))))) bulkDone

/-! RFETCH (R318). -/

/-- The pieces of an RFETCH: each in one page at both ends, at most 256 bytes. -/
def rfetchPieces (src dst : List (Place × Nat)) : List (Place × PieceOp) :=
  let step := fun (acc : Nat × List (Place × PieceOp)) (x : Place × Nat) =>
    ((acc.1 + x.2, acc.2 ++ (packetParts (slicePlaces dst acc.1 x.2)).foldl (fun (l : List (Place × PieceOp)) d =>
        let off := (l.map (fun y => match y.2 with
          | .fetch _ n => n
          | _ => 0)).foldl (· + ·) 0
        l ++ [(x.1.add off, .fetch d.1 d.2)]) []))
  (src.foldl step (0, [])).2

/-- RFETCH (R318). -/
def execRfetch (o : Ops) (s : State) : Out :=
  let b := bulkOf o s
  let w := s.who .vector
  let local_ := onOwnDie s b.dst.toNat b.n && (match b.counter with
    | none => true
    | some c => onOwnDie s c.toNat 8)
  awaited s (fun s =>
  if 2 ^ 24 < b.n ∨ !local_ then .next (queuedTrap s causeAlign b.dst)
  else
    match b.counter.filter (fun c => misaligned c 8) with
    | some c => .next (queuedTrap s causeAlign c)
    | none =>
      if o.nb && ccFull s o.ccNo then .next s.park
      else
        queuedAccOut (rangeOf s w b.src b.n .read) (fun src s1 =>
          queuedAccOut (rangeOf s1 w b.dst b.n .write) (fun dst s2 =>
            queuedAccOut (counterPlace s2 w b.counter) (fun c s3 =>
              let pieces := rfetchPieces src dst
              if o.nb then .next ((issueNb s3 o.ccNo false (c.map (·, b.n)) pieces).retireKeep id)
              else .next (awaitPieces s3 false (c.map (·, b.n)) (numbered pieces)))))) bulkDone

/-! XSEND (R319). -/

/-- The address of an expert's entry. -/
def expertEntry (table : Word) (e : Nat) : Word := table + BitVec.ofNat 64 (64 * e)

/-- The replicas of an entry, by number, with their descriptor addresses. -/
def replicasOf (bytes : List Byte) : List (Nat × Word) :=
  ((List.range 8).map (fun r => (r, BitVec.ofNat 64 (fieldAt bytes (8 * r) 8)))).filter (fun x => x.2 ≠ 0)

/-- The key of a descriptor in a core's occupancy cache. -/
def occupancyKey (vi : Nat) (desc : Word) : Nat := vi * 2 ^ 64 + desc.toNat

/-- R319: the value of the occupancy cache, 0 if absent. -/
def occupancyOf (s : State) (w : Who) (desc : Word) : Nat := cellGet 0 (s.core (coreKey w.pkg w.die w.core)).occupancy (occupancyKey w.vi desc)

/-- R319: the cache learns a filled count. With 4,096 entries the lowest key goes (log entry 5). -/
def noteOccupancy (s : State) (w : Who) (desc : Word) (filled : Nat) : State :=
  let ck := coreKey w.pkg w.die w.core
  let c := s.core ck
  let key := occupancyKey w.vi desc
  let old := if (c.occupancy.lookup key).isNone ∧ 4096 ≤ c.occupancy.length then c.occupancy.drop 1 else c.occupancy
  s.setCore ck { c with occupancy := cellPut old key filled }

/-- R319: replica `x` is tried before `y`. -/
def triedBefore (s : State) (w : Who) (x y : Nat × Word) : Bool :=
  let a := occupancyOf s w x.2
  let b := occupancyOf s w y.2
  decide (a < b) || (a == b && decide (x.1 < y.1))

def insertReplica (s : State) (w : Who) (x : Nat × Word) : List (Nat × Word) → List (Nat × Word)
  | [] => [x]
  | y :: rest => if triedBefore s w x y then x :: y :: rest else y :: insertReplica s w x rest

/-- R319: replicas in the order tried. -/
def rankReplicas (s : State) (w : Who) (l : List (Nat × Word)) : List (Nat × Word) := l.foldl (fun acc x => insertReplica s w x acc) []

/-- A claimed replica: its number, its descriptor, the descriptor's place, the claim. -/
structure Replica where
  r     : Nat
  desc  : Word
  place : Place
  claim : CbClaim
deriving DecidableEq, Repr

/-- R303: the source and the slot that a claim would take are translated before it. -/
def xsendTranslate (s : State) (w : Who) (src : Word) (d : CircBuf) : Acc Unit :=
  (rangeOf s w src d.size .read).andThen (fun _ s1 => (rangeOf s1 w (slotAddr d d.write) d.size .write).andThen (fun _ s2 => .ok () s2))

/-- R319: Claim attempted at each replica in order; none where all refuse. -/
def claimReplica (w : Who) (src : Word) : State → List (Nat × Word) → Acc (Option Replica)
  | s, [] => .ok none s
  | s, (r, desc) :: rest =>
    (readCb s w desc).andThen (fun y s0 =>
      (if y.2.free = 0 then Acc.ok () s0 else xsendTranslate s0 w src y.2).andThen (fun _ s1 =>
        (claimCb s1 w desc).andThen (fun x s2 =>
          match x.2.2 with
          | some k => .ok (some { r := r, desc := desc, place := x.1, claim := k }) s2
          | none => claimReplica w src (noteOccupancy s2 w desc x.2.1.filled) rest)))

/-- R303: an `.nb` XSEND translates its source and the buffers of every replica that it may choose, before it leaves the queue (log entry 66). -/
def xsendReady (w : Who) (src : Word) : State → List (Nat × Word) → Acc Unit
  | s, [] => .ok () s
  | s, (_, desc) :: rest =>
    (readCb s w desc).andThen (fun y s1 =>
      (rangeOf s1 w src y.2.size .read).andThen (fun _ s2 =>
        (rangeOf s2 w (BitVec.ofNat 64 y.2.base) (y.2.size * y.2.count) .write).andThen (fun _ s3 => xsendReady w src s3 rest)))

/-- The expert's replicas; a bad number or an entry without a replica faults ALIGN. -/
def expertReplicas (s : State) (w : Who) (table : Word) (e : Nat) : Acc (List (Nat × Word)) :=
  let at_ := expertEntry table e
  if 4096 ≤ e then .fault causeAlign at_ s
  else
    (readMem s w at_ 64 0 .read).andThen (fun x s1 =>
      match replicasOf x.bytes with
      | [] => .fault causeAlign at_ s1
      | l => .ok l s1)

/-- R319: the claimed slot is filled, and the acknowledgement's filled count kept. -/
def finishXsend (s : State) (w : Who) (x : Replica) : State × Status :=
  let (s1, st) := fillCb s w x.place x.claim.num
  match readCb s1 w x.desc with
  | .ok y s2 => (noteOccupancy s2 w x.desc y.2.filled, st)
  | .fault _ _ s2 => (s2, st)
  | .wait s2 => (s2, st)

/-- The claim that an XSEND at the head of the queue holds. -/
def keepClaim (s : State) (x : Replica) : State := onHead s (fun e => { e with claim := some (x.desc, x.claim.slot, x.claim.num) })

/-- R319, R316: a blocking XSEND that holds a claim sends the slot's bytes as packets, and waits for them. -/
def xsendClaimed (s : State) (src : Word) (x : Replica) : Out :=
  let w := s.who .vector
  let d := x.claim.buf
  queuedAcc ((rangeOf (keepClaim s x) w src d.size .read).andThen (fun sps s1 =>
      (rangeOf s1 w (slotAddr d x.claim.slot) d.size .write).andThen (fun dps s2 =>
        (readPlaces w 0 src s2 sps).andThen (fun y s3 => .ok (dps, y.bytes) s3))))
    (fun y s1 => awaitPieces s1 false none
      (numbered ((soundParts (packetParts y.1) (y.2.map (·, false))).map (fun z => (z.1, .data z.2.2 false)))))

/-- R319: the claim of the head with its replica's number. -/
def claimedReplica (s : State) (w : Who) (l : List (Nat × Word)) (c : Word × Nat × Nat) : Acc Replica :=
  (readCb s w c.1).andThen (fun x s1 =>
    .ok { r := ((l.find? (fun y => y.2 = c.1)).map (·.1)).getD 0, desc := c.1, place := x.1, claim := { buf := x.2, slot := c.2.1, num := c.2.2 } } s1)

/-- R319: an XSEND that every replica has refused tries again after 1 microsecond. -/
def xsendResting (s : State) : Bool := (s.cpu.queue.head?.bind (fun e => e.refused)).any (fun t => decide (s.time < t + 1000))

/-- R319: the packets of a blocking XSEND have ended: it fills its slot, or traps and keeps its claim (R304). -/
def xsendDone (o : Ops) (s : State) (l : List (Nat × Word)) (fails : List (Nat × Nat × Word)) : Out :=
  match lowestFail fails, headClaim s with
  | some (_, c, t), _ => .next (queuedTrap s c t)
  | none, none => .next s.park
  | none, some c =>
    queuedAccOut (claimedReplica s (s.who .vector) l c) (fun x s1 =>
      match finishXsend s1 (s1.who .vector) x with
      | (s2, .ok) => .next (s2.retireKeep (fun t => t.writeG o.D (BitVec.ofNat 64 x.r)))
      | (s2, st) => .next (queuedTrap s2 st.cause x.desc))

/-- XSEND (R319). -/
def execXsend (o : Ops) (s : State) : Out :=
  let w := s.who .vector
  let src := s.srcG o.A
  let e := (s.srcG o.B).toNat
  let table := s.srcG o.C
  if o.nb && ccFull s o.ccNo || xsendResting s then .next s.park
  else
    queuedAccOut (expertReplicas s w table e) (fun l s1 =>
      if o.nb then
        queuedAcc (xsendReady w src s1 l) (fun _ s2 =>
          (issueNb s2 o.ccNo false none [({ kind := .pg, ha := 0, va := src }, .xsend src (BitVec.ofNat 64 e) table)]).retireKeep id)
      else
        awaited s1 (fun s2 =>
          match headClaim s2 with
          | some c => queuedAccOut (claimedReplica s2 w l c) (fun x s3 => xsendClaimed s3 src x)
          | none =>
            queuedAccOut (claimReplica w src s2 (rankReplicas s2 w l)) (fun x s3 =>
              match x with
              | none => .next (onHead s3 (fun e => { e with refused := some s3.time })).park
              | some y => xsendClaimed s3 src y))
          (fun fails s2 => xsendDone o s2 l fails))

/-- R319: the packets of an `.nb` XSEND that has a claim: the slot's sound bytes, then the fill, after the last of them has ended. -/
def xsendPackets (s : State) (p : Piece) (x : Replica) (dps : List (Place × Nat)) (bytes : List (Byte × Bool)) : State :=
  let parts := (soundParts (packetParts dps) bytes).map (fun z => (z.1, PieceOp.data z.2.2 false))
  (parts ++ [({ x.place with va := x.desc }, PieceOp.fill x.desc x.claim.num)]).foldl (fun st y => followOn st p y) s

/-- R319: an XSEND piece: where every replica refuses, it waits; a failure after its claim still fills. -/
def performXsend (s : State) (p : Piece) (src expert table : Word) : Performed :=
  let w := p.who
  match expertReplicas s w table expert.toNat with
  | .wait s1 => .wait s1
  | .fault c _ s1 => .done s1 (faultStatus c) p
  | .ok l s1 =>
    match claimReplica w src s1 (rankReplicas s1 w l) with
    | .wait s2 => .wait s2
    | .fault c _ s2 => .done s2 (faultStatus c) p
    | .ok none s2 => .done s2 .busy p
    | .ok (some x) s2 =>
      match readSound w s2 (partsOf src x.claim.buf.size), rangeOf s2 w (slotAddr x.claim.buf x.claim.slot) x.claim.buf.size .write with
      | .ok y s3, .ok dps _ => .done (xsendPackets s3 p x dps y.1) y.2 p
      | .ok y s3, .fault c _ _ => .done (xsendPackets s3 p x [] y.1) (faultStatus c) p
      -- a spilled page holds the whole attempt back
      | .ok _ _, .wait s3 => .wait { s with pageIns := s3.pageIns }
      | .wait s3, _ => .wait { s with pageIns := s3.pageIns }
      | .fault c _ s3, _ => .done (xsendPackets s3 p x [] []) (faultStatus c) p

/-- R319: the fill of an `.nb` XSEND, once its packets have ended; its acknowledgement carries the filled count. -/
def performFill (s : State) (p : Piece) (desc : Word) (num : Nat) : Performed :=
  if s.pieces.any (fun q => q.op = p.op && decide (q.id < p.id)) then .wait s
  else
    match placeOf s p.who desc 64 .atomic with
    | .wait s1 => .wait s1
    | .fault c _ s1 => .done s1 (faultStatus c) p
    | .ok q s1 =>
      let (s2, st) := fillCb s1 p.who q num
      .done (match readCb s2 p.who desc with
        | .ok y s3 => noteOccupancy s3 p.who desc y.2.filled
        | .fault _ _ s3 => s3
        | .wait s3 => s3) st p

/-! CSEND (R320). -/

/-- R320: the selected elements of a block stand in order of magnitude, ties by index. -/
def csendBefore (t : Nat) (x y : Nat × Nat) : Bool :=
  let less := fun (a b : Nat) => if t < 8 then decide ((intOf t a).natAbs < (intOf t b).natAbs)
    else ltVal (fdecode (fmtOf t) (signOp (fmtOf t) false a).1) (fdecode (fmtOf t) (signOp (fmtOf t) false b).1)
  less y.2 x.2 || (!less x.2 y.2 && decide (x.1 < y.1))

def csendInsert (t : Nat) (x : Nat × Nat) : List (Nat × Nat) → List (Nat × Nat)
  | [] => [x]
  | y :: rest => if csendBefore t x y then x :: y :: rest else y :: csendInsert t x rest

/-- R320: the elements of block `j` that are sent: index and value. -/
def csendBlock (t m j : Nat) (l : List (Nat × Nat)) : List (Nat × Nat) :=
  let mine := l.filter (fun x => x.1 / 64 == j && !(decide (8 ≤ t) && (fdecode (fmtOf t) x.2).isNan))
  ((mine.foldl (fun acc x => csendInsert t x acc) []).take m)

/-- R320: the packets of a CSEND: the selected elements of one block that lie on one page, with their index mask. An element is its number, its place
and its value. -/
def csendPackets (t : Nat) : List (Nat × Place × Nat) → List (List (Nat × Place × Nat)) → List (List (Nat × Place × Nat))
  | [], acc => acc
  | x :: rest, acc =>
    let mine := fun (g : List (Nat × Place × Nat)) => match g with
      | [] => false
      | y :: _ => y.1 / 64 == x.1 / 64 && y.2.1.va.toNat / 65536 == x.2.1.va.toNat / 65536
    csendPackets t rest (match acc.find? mine with
      | some _ => acc.map (fun g => if mine g then g ++ [x] else g)
      | none => acc ++ [[x]])

/-- The lowest element of a packet. -/
def lowestPlace : List (Nat × Place × Nat) → Option (Nat × Place)
  | [] => none
  | x :: rest =>
    match lowestPlace rest with
    | none => some (x.1, x.2.1)
    | some y => if x.1 < y.1 then some (x.1, x.2.1) else some y

/-- R320: the packet of some elements, as a piece at the lowest one's place; its number is that element's. -/
def csendPiece (t : Nat) (g : List (Nat × Place × Nat)) : Option (Nat × Place × PieceOp) :=
  (lowestPlace g).map (fun x => (x.1, x.2, .block t (g.map (fun y => ((y.1 - x.1) * accessBytes t, y.2.2)))))

/-- R304, R320: the packets of a blocking CSEND have ended. It traps on the first failed one, and its entry keeps the elements that have been added, which are
not sent again. -/
def csendDone (fails : List (Nat × Nat × Word)) (s : State) : Out :=
  match lowestFail fails with
  | none => .next (s.retire id)
  | some (_, c, tv) => .next (queuedTrap (onHead s (fun e => { e with bitmap := e.bitmap ++ e.got.map (·.1), got := [] })) c tv)

/-- CSEND (R320). -/
def execCsend (o : Ops) (s : State) : Out :=
  let n := accessBytes o.T
  let w := s.who .vector
  let u := s.cpu
  let val := fun i => elemOf u o.T o.A i
  let act := activeList u { o with b := .reg 0 0 } false
  let m := min (s.srcB o.b).toNat (if n = 4 then 62 else 31)
  let ea := fun i => vaAdd (s.srcG o.D) (n * i)
  atHead (.csend o) [o.T] s (unlessVl0 s
    (match act.find? (fun i => (elemAbn u o.T o.A i).isSome) with
     | some i => .next (queuedTrap (atElement s i) causeAbn (abnTval (val i) i))
     | none =>
       let chosen := ((List.range (ceilDiv u.vl 64)).map (fun j => csendBlock o.T m j (act.map (fun i => (i, val i))))).flatten.map (·.1)
       let todo := chosen.filter (fun i => !(doneAlready s).contains i)
       if o.nb && ccFull s o.ccNo then .next s.park
       else
         match todo.find? (fun i => misaligned (ea i) n) with
         | some i => .next (queuedTrap s causeAlign (ea i))
         | none =>
           awaited s (fun s =>
             match vTranslate w .atomic n .engine ea s todo with
             | .wait s1 => .next s1.park
             | .fault _ _ c t s1 => .next (queuedTrap s1 c t)
             | .done els s1 =>
               let l := els.flatMap (fun e => (e.places.take 1).map (fun x => (e.i, x.1, val e.i)))
               let pieces := (csendPackets o.T l []).filterMap (csendPiece o.T)
               if o.nb then .next ((issueNb s1 o.ccNo false none (pieces.map (·.2))).retire id)
               else if pieces.isEmpty then .next (s1.retire id)
               else .next (awaitPieces s1 false none pieces))
             csendDone))

/-! Registrations (R326). -/

/-- The lowest free entry of a die's registration table. -/
def freeRegistration (s : State) (die : Nat) : Option Nat := (List.range 4096).find? (fun n => ((s.die die).regs.lookup n).isNone)

/-- R326: the range of a GRANT: not empty, PG of one die or scratchpad of one core. -/
def grantRange (a n : Nat) : Bool :=
  decide (1 ≤ n) && decide (lastOf a n < 2 ^ 64)
  && (match bitsOf a 63 62 with
      | 0 => a / 2 ^ 37 == lastOf a n / 2 ^ 37
      | 1 => false
      | 2 => bitsOf a 23 22 == 0 && a / 2 ^ 22 == lastOf a n / 2 ^ 22 && (decide (0x80000 ≤ low 22 a) || decide (low 22 (lastOf a n) < 0x80000))
      | _ => true)

/-- R326: the range translated as a write at level S, page by page; a fault's TVAL is the page's lowest address in the range. -/
def grantPlaces (w : Who) : State → List (Word × Nat) → Acc (List (Place × Nat))
  | s, [] => .ok [] s
  | s, (va, n) :: rest =>
    (placeOf s w va n .write).andThen (fun p s1 => (grantPlaces w s1 rest).andThen (fun more s2 => .ok ((p, n) :: more) s2))

/-- GRANT (R326). -/
def execGrant (o : Ops) (s : State) : Out :=
  let a := s.srcG o.A
  let n := (s.srcG o.B).toNat
  if !grantRange a.toNat n then .next (queuedTrap s causeAlign a)
  else
    let scratch := bitsOf a.toNat 63 62 == 2
    let w := if scratch then s.who .vector else { s.who .vector with level := .s }
    queuedAccOut (grantPlaces w s (if scratch then [(a, n)] else partsOf a n)) (fun ps s1 =>
      let die := destDie s1 ps
      match freeRegistration s1 die with
      | none => .next (s1.retireKeep (fun t => t.writeG o.D (BitVec.ofNat 64 (2 ^ 64 - 1))))
      | some e =>
        let d := s1.die die
        let s2 := s1.setDie die { d with regs := cellPut d.regs e { vi := s1.cpu.vi, base := a, bytes := n, revoking := false } }
        let v := (vaDie a.toNat).getD (0, 0)
        .next (s2.retireKeep (fun t => t.writeG o.D (BitVec.ofNat 64 (v.1 * 65536 + v.2 * 4096 + e)))))

/-- R326: the die and the entry that a handle names, where it names an entry of the VI. -/
def handleOf (s : State) (pkg vi : Nat) (h : Nat) : Option (Nat × Nat) :=
  if bitsOf h 15 15 ≠ 0 then none
  else
    match nodeOf s pkg vi (h / 65536) with
    | none => none
    | some p =>
      let die := dieKey p (bitsOf h 14 12)
      match (s.die die).regs.lookup (bitsOf h 11 0) with
      | some r => if r.vi = vi then some (die, bitsOf h 11 0) else none
      | none => none

/-- R326: the entry is freed; every packet that it accepted is performed, since a packet is checked when it is performed. -/
def freeEntry (s : State) (x : Nat × Nat) : State := s.setDie x.1 { s.die x.1 with regs := cellDrop (s.die x.1).regs x.2 }

/-- R326: the entry is revoking. -/
def markRevoking (s : State) (x : Nat × Nat) : State :=
  let d := s.die x.1
  s.setDie x.1 { d with regs := d.regs.map (fun (e : Nat × Registration) => if e.1 = x.2 then (e.1, { e.2 with revoking := true }) else e) }

/-- R326: a packet that the entry accepted is not performed yet. Only a held flag is accepted before it is performed. -/
def entryBusy (s : State) (x : Nat × Nat) : Bool := (s.die x.1).flags.any (fun f => f.entry = some x.2)

/-- REVOKE (R326). -/
def execRevoke (o : Ops) (s : State) : Out :=
  let h := s.srcG o.A
  if o.nb && ccFull s o.ccNo then .next s.park
  else
    match handleOf s s.cpu.pkg s.cpu.vi h.toNat with
    | none => .next (queuedTrap s causeAlign h)
    | some x =>
      let s1 := markRevoking s x
      if o.nb then .next ((issueNb s1 o.ccNo false none [({ kind := .pg, ha := 0, va := h }, .revoke h)]).retireKeep id)
      else if entryBusy s x then .next s1.park
      else .next ((freeEntry s x).retireKeep id)

/-- R326: a REVOKE piece. -/
def performRevoke (s : State) (p : Piece) (h : Word) : Performed :=
  match handleOf s p.srcPkg p.vi h.toNat with
  | none => .done s .ok p
  | some x => if entryBusy s x then .wait s else .done (freeEntry s x) .ok p

/-! Windows (R136, R137, R325). -/

/-- The address of a window's entry on a package. -/
def winEntryAt (s : State) (pkg vi index : Nat) : Nat := haPhys pkg ((s.vi vi).wintab.toNat / 4096 * 4096 + 32 * index)

/-- The entry's address as the trap value: the address that R136 gives it. -/
def winEntryTval (s : State) (vi index : Nat) : Word := BitVec.ofNat 64 ((s.vi vi).wintab.toNat / 4096 * 4096 + 32 * index)

/-- R325: an index at or beyond the table's count. -/
def windowBeyond (s : State) (vi index : Nat) : Bool := decide (2 ^ ((s.vi vi).wintab.toNat % 32) ≤ index)

/-- R136: the target and length are legal. -/
def windowRangeOk (target length : Nat) : Bool :=
  target / 2 ^ 62 == 0 && target % 65536 == 0 && length % 65536 == 0 && decide (length ≤ 2 ^ 44)

/-- R137: the pages of a window's target range, mapped or not: the channel, and the VI's page on it. -/
def windowPages (s : State) (pkg vi target length : Nat) : List (Nat × Nat) :=
  (rangePages target (length / 65536)).filterMap (fun a =>
    (nodeOf s pkg vi (bitsOf a 61 40)).map (fun p => (chanKey p (bitsOf a 39 37) (bitsOf a 36 33), vi * 131072 + bitsOf a 32 16)))

/-- R137, R325: the homes of a window's pages refuse writes to them. -/
def refuseWrites (s : State) (key : Nat) (pages : List (Nat × Nat)) : State :=
  pages.foldl (fun st x => st.setChan x.1 { st.chan x.1 with refuse := (st.chan x.1).refuse ++ [(x.2, key)] }) s

/-- R325: the homes accept writes again. -/
def acceptWrites (s : State) (key : Nat) : State :=
  { s with chans := s.chans.map (fun (x : Nat × ChanSt) => (x.1, { x.2 with refuse := x.2.refuse.filter (fun y => y.2 ≠ key) })) }

/-- A table entry's words written. -/
def putPhys (s : State) (ha : Nat) (words : List Nat) : State :=
  noteWrite { s with mem := memWrite s.mem ha ((words.map (leBytes 8)).flatten) } ha (8 * words.length)

/-- WOPEN (R325). -/
def execWopen (o : Ops) (s : State) : Out :=
  let vi := s.cpu.vi
  let pkg := s.cpu.pkg
  let index := (s.srcB o.b).toNat
  let target := (s.srcG o.A).toNat
  let length := (s.srcG o.C).toNat
  let at_ := winEntryAt s pkg vi index
  let bad := queuedTrap s causeAlign (winEntryTval s vi index)
  if windowBeyond s vi index ∨ !windowRangeOk target length then .next bad
  else if bitsOf (memWord s.mem (at_ + 16)) 1 0 ≠ 0 then .next bad
  else
    let s1 := refuseWrites s (windowKey vi index) (windowPages s pkg vi target length)
    .next ((putPhys s1 at_ [target, length, 1]).retireKeep id)

/-- The packages of a VI's node map. -/
def nodePackages (s : State) (vi : Nat) : List Nat := ((List.range (low 23 (s.vi vi).nodecnt.toNat)).filterMap (nodeOf s s.cpu.pkg vi)).eraseDups

/-- The shoot-down message of a window to some packages (R325). -/
def shootdowns (s : State) (vi index op : Nat) (nodes : List Nat) : List Packet :=
  nodes.map (fun p => { kind := .shootdown, dstPkg := p, srcPkg := s.cpu.pkg, srcDie := s.cpu.die, srcCore := s.cpu.core, srcSlot := s.cpu.slot,
                        vi := vi, cls := 2, x := index, y := op })

/-- The head has begun, with its operation number. -/
def headBegun (s : State) : Option Nat :=
  match s.cpu.queue with
  | [] => none
  | e :: _ => if e.begun then some e.op else none

/-- R325: the packages whose acknowledgement the head of the queue waits for. -/
def headAcks (s : State) : List Nat := (s.cpu.queue.head?.map (·.acks)).getD []

/-- R325: the shoot-downs that are not acknowledged and no longer on their way are sent again. -/
def resendShootdowns (s : State) (vi index op : Nat) : State :=
  let lost := (headAcks s).filter (fun p => !s.wire.any (fun (k : Packet) => k.kind = .shootdown && k.y = op && k.dstPkg = p))
  { s with wire := s.wire ++ shootdowns s vi index op lost }

/-- WREVOKE (R325): it sets revoking and sends the shoot-downs; once every package has acknowledged its own it closes the entry. -/
def execWrevoke (o : Ops) (s : State) : Out :=
  let vi := s.cpu.vi
  let index := (s.srcB o.b).toNat
  let at_ := winEntryAt s s.cpu.pkg vi index
  let bad := queuedTrap s causeAlign (winEntryTval s vi index)
  match headBegun s with
  | none =>
    if windowBeyond s vi index ∨ bitsOf (memWord s.mem (at_ + 16)) 0 0 = 0 then .next bad
    else
      let (op, s1) := s.fresh
      let s2 := putPhys s1 (at_ + 16) [3]
      let nodes := nodePackages s2 vi
      let s3 := onHead { s2 with wire := s2.wire ++ shootdowns s2 vi index op nodes } (fun e => { e with begun := true, op := op, acks := nodes })
      .next s3.park
  | some op =>
    if !(headAcks s).isEmpty then .next (resendShootdowns s vi index op).park
    else
      let s1 := putPhys s (at_ + 16) [0, memWord s.mem (at_ + 24) + 1]
      .next ((acceptWrites s1 (windowKey vi index)).retireKeep id)

end Sys2Proof.Machine
end

