-- ==== Sys2Proof/Machine/Collective.lean ====
section
/-! DEFINITION. Collectives (spec/21_streams.md R321 to R324, spec/24_traps_notes.md R360): graphs, runs, their steps, and the combine slots of an
Eft unit. -/

namespace Sys2Proof.Machine

/-! Graphs (R321, R322). -/

/-- R321: a step record from its 32 bytes. -/
def stepOf (b : List Byte) : CollStep :=
  { kind := fieldAt b 0 1, src := fieldAt b 1 1 % 16, dst := fieldAt b 1 1 / 16, cnt := fieldAt b 2 1, expected := fieldAt b 3 1,
    bytes := fieldAt b 4 4, soff := BitVec.ofNat 64 (fieldAt b 8 8), doff := BitVec.ofNat 64 (fieldAt b 16 8), coff := fieldAt b 24 6,
    slot := fieldAt b 30 2 }

/-- R321, R312: the legal values of a step record of a graph of type `t`. A LOCAL step copies what COPY may copy. -/
def stepOk (t : Nat) (x : CollStep) : Bool :=
  decide (x.cnt ≤ 15) && decide (x.slot ≤ 4095)
  && (match x.kind with
      | 1 => decide (x.bytes ≤ 2 ^ 24)
      | 2 => decide (1 ≤ x.bytes) && decide (x.bytes ≤ 256) && x.bytes % (typeWidth t / 8) == 0 && decide (1 ≤ x.expected)
      | 3 => true
      | 4 => decide (x.bytes ≤ 2 ^ 24)
      | _ => false)

/-- R321: a header's steps, type and operation, or none where it is not legal. -/
def graphHeader (b : List Byte) : Option (Nat × Nat × Nat) :=
  let n := fieldAt b 0 2
  let t := fieldAt b 2 1
  let op := fieldAt b 3 1
  if decide (1 ≤ n) && decide (n ≤ 256) && [0x2, 0x9, 0xA, 0xB, 0xC].contains t && (op == 0 || ((op == 1 || op == 2) && t != 0xC))
     && fieldAt b 4 28 == 0 then some (n, t, op) else none

/-- R321: a graph from its header and the bytes of its records. -/
def graphOf (n t op : Nat) (b : List Byte) : Option CollGraph :=
  let steps := (List.range n).map (fun i => stepOf (b.drop (32 * i)))
  if steps.all (stepOk t) then some { ty := t, op := op, steps := steps } else none

/-- R322: a run of the graph on the die has not ended. -/
def graphBusy (s : State) (die vi n : Nat) : Bool :=
  ((s.strands.filter (fun t => t.tid ≠ 0)) ++ s.saved.map (·.strand)).any (fun t =>
    dieKey t.pkg t.die == die && t.vi == vi && t.runs.any (fun r => r.graph == n && !runEnded s t r))

/-- COLLDEF (R322). -/
def execColldef (o : Ops) (s : State) : Out :=
  let w := s.who .vector
  let va := s.srcG o.A
  let n := (s.srcB o.b).toNat
  if 63 < n then .next (queuedTrap s causeAlign va)
  else if graphBusy s s.myDie s.cpu.vi n then .next s.park
  else
    queuedAccOut (readMem s w va 32 0 .read) (fun h s1 =>
      match graphHeader h.bytes with
      | none => .next (queuedTrap s1 causeAlign va)
      | some (steps, t, op) =>
        queuedAccOut (readMem s1 w (vaAdd va 32) (32 * steps) 0 .read) (fun b s2 =>
          match graphOf steps t op b.bytes with
          | none => .next (queuedTrap s2 causeAlign va)
          | some g =>
            let d := s2.die s2.myDie
            .next ((s2.setDie s2.myDie { d with graphs := cellPut d.graphs (graphKey s2.cpu.vi n) g }).retireKeep id)))

/-! Runs (R323). -/

/-- The 16 base words. -/
def baseTable (b : List Byte) : List Word := (List.range 16).map (fun i => BitVec.ofNat 64 (fieldAt b (8 * i) 8))

/-- COLLRUN (R323). -/
def execCollrun (o : Ops) (s : State) : Out :=
  let n := (s.srcB o.b).toNat
  if 63 < n ∨ ((s.die s.myDie).graphs.lookup (graphKey s.cpu.vi n)).isNone then .next (queuedTrap s causeAlign (s.srcB o.b))
  else if 4 ≤ (liveRuns s s.cpu).length then .next s.park
  else
    queuedAccOut (readMem s (s.who .vector) (s.srcG o.C) 128 0 .read) (fun b s1 =>
      let (id_, s2) := s1.fresh
      .next (s2.retireKeep (fun t =>
        let key := graphKey t.vi n
        let count := cellGet 0 t.runCounts key
        { t.writeG o.D (BitVec.ofNat 64 id_) with
            runs := t.runs ++ [{ id := id_, graph := n, run := count, base := baseTable b.bytes, level := t.level }],
            runCounts := cellPut t.runCounts key (count + 1) })))

/-- COLLWAIT (R323). -/
def execCollwait (o : Ops) (s : State) : Out :=
  let n := (s.srcG o.A).toNat
  match s.cpu.runs.find? (fun r => r.id = n) with
  | none => .next (s.retireKeep (fun t => t.writeG o.D 0))
  | some r =>
    if runEnded s s.cpu r then
      .next (s.retireKeep (fun t => { t.writeG o.D (BitVec.ofNat 64 r.status) with runs := t.runs.filter (fun x => x.id ≠ n) }))
    else .next s.park

/-! Steps (R321). -/

/-- The source of a run's accesses. -/
def runWho (t : Strand) (r : CollRun) : Who :=
  { vi := t.vi, pkg := t.pkg, die := t.die, core := t.core, level := r.level, tlb := some .vector, tid := t.tid }

/-- A run of a task changed. -/
def onRun (s : State) (tid id_ : Nat) (f : CollRun → CollRun) : State :=
  s.onTask tid (fun t => { t with runs := t.runs.map (fun r => if r.id = id_ then f r else r) })

/-- R323: the next step of the run follows. -/
def nextStep (s : State) (t : Strand) (r : CollRun) : State := onRun s t.tid r.id (fun x => { x with step := x.step + 1 })

/-- A step that cannot be issued: the run's status takes the failure's code, and the run goes on. -/
def failStep (s : State) (t : Strand) (r : CollRun) (st : Status) : State :=
  onRun s t.tid r.id (fun x => { x with step := x.step + 1, status := max x.status (runFail st) })

/-- An access of a step that has answered. -/
def stepAcc {α : Type} (t : Strand) (r : CollRun) (x : Acc α) (f : α → State → State) : State :=
  match x with
  | .ok a s => f a s
  | .wait s => s
  | .fault c _ s => failStep s t r (faultStatus c)

/-- The pieces of a step, issued for the run's strand at the run's level, with the step's number. -/
def issueStep (s : State) (t : Strand) (r : CollRun) (inOrder : Bool) (counter : Option (Place × Nat)) (l : List (Place × PieceOp)) : State :=
  let (op, s1) := s.fresh
  nextStep (l.foldl (fun st x => issueOne st { t with level := r.level } op none inOrder counter x (some r.id) r.step) s1) t r

/-- The address that a base index and an offset give. -/
def baseAt (r : CollRun) (i : Nat) (off : Word) : Word := r.base.getD i 0 + off

/-- The counter of a step; base index 15 names none. -/
def stepCounter (r : CollRun) (x : CollStep) : Option Word := if x.cnt = 15 then none else some (baseAt r x.cnt (BitVec.ofNat 64 x.coff))

/-- PUT (R321, R317): an RSEND for the run. Its bytes count in S (R171). -/
def putStep (s : State) (t : Strand) (r : CollRun) (x : CollStep) : State :=
  let w := runWho t r
  let src := baseAt r x.src x.soff
  let dst := baseAt r x.dst x.doff
  let c := stepCounter r x
  if !oneDie s t dst.toNat x.bytes (c.map (·.toNat)) || (c.filter (fun a => misaligned a 8)).isSome then failStep s t r .revoked
  else
    stepAcc t r (rangeOf s w src x.bytes .read) (fun from_ s1 =>
      stepAcc t r (rangeOf s1 w dst x.bytes .write) (fun dps s2 =>
        stepAcc t r (counterPlace s2 w c) (fun cp s3 =>
          let (bytes, s4) := readMarked w s3 from_
          let parts := packetParts dps
          let sound := soundParts parts bytes
          let bad := decide (sound.length ≠ parts.length)
          let die := destDie s4 dps
          let s5 := s4.onTask t.tid (fun u => { u with flagBytes := cellSet 0 u.flagBytes die (cellGet 0 u.flagBytes die + x.bytes) })
          let s6 := if bad then onRun s5 t.tid r.id (fun y => { y with status := max y.status 3 }) else s5
          issueStep s6 t r false (if bad then none else cp.map (·, x.bytes)) (sound.map (fun y => (y.1, PieceOp.data y.2.2 true))))))

/-- The match of a contribution (R323): VI, graph, slot, and the sender's run count of the graph. -/
def slotKey (vi graph slot run : Nat) : Nat := ((vi * 64 + graph) * 4096 + slot) * 2 ^ 64 + run

/-- The bytes that a contribution result takes. -/
def resultBytes (t n : Nat) : Nat := if t = 0xC then 4 * n else n

/-- CONTRIB (R321). Poisoned source bytes go with their mark (R391). -/
def contribStep (s : State) (t : Strand) (r : CollRun) (g : CollGraph) (x : CollStep) : State :=
  let w := runWho t r
  stepAcc t r (rangeOf s w (baseAt r x.src x.soff) x.bytes .read) (fun from_ s1 =>
    stepAcc t r (rangeOf s1 w (baseAt r x.dst x.doff) (resultBytes g.ty x.bytes) .write) (fun dps s2 =>
      stepAcc t r (counterPlace s2 w (stepCounter r x)) (fun cp s3 =>
        match dps with
        | [] => s3
        | (p, _) :: _ =>
          let (bytes, s4) := readMarked w s3 from_
          let bad := (List.range bytes.length).filter (fun i => (bytes.getD i (0, false)).2)
          issueStep s4 t r false none
            [(p, .contrib (slotKey t.vi r.graph x.slot r.run) x.expected g.ty g.op (bytes.map (·.1)) cp r.id bad)])))

/-- WAIT (R321, R170): the counter holds `bytes` or more, which are then subtracted; without a counter there is nothing to wait for. -/
def waitStep (s : State) (t : Strand) (r : CollRun) (x : CollStep) : State :=
  match stepCounter r x with
  | none => nextStep s t r
  | some c =>
    if misaligned c 8 then failStep s t r .revoked
    else
      let w := runWho t r
      stepAcc t r (placeOf s w c 8 .atomic) (fun p s1 =>
        stepAcc t r (readPlaces w 0 c s1 [(p, 8)]) (fun b s2 =>
          if !counterMeets (leNat b.bytes) x.bytes then s2
          else
            match atomicPlace s2 w p 8 (fun old => some (leBytes 8 (counterLess (leNat old) x.bytes))) with
            | (s3, .ok, _) => nextStep s3 t r
            | (s3, st, _) => failStep s3 t r st))

/-- LOCAL (R321, R312): a COPY for the run. -/
def localStep (s : State) (t : Strand) (r : CollRun) (x : CollStep) : State :=
  let w := runWho t r
  stepAcc t r (rangeOf s w (baseAt r x.src x.soff) x.bytes .read) (fun src s1 =>
    stepAcc t r (rangeOf s1 w (baseAt r x.dst x.doff) x.bytes .write) (fun dst s2 =>
      issueStep s2 t r true none (copyPieces src dst 0 x.bytes)))

/-- The next step of a run. -/
def collStep (s : State) (t : Strand) (r : CollRun) : State :=
  match runGraph s t r with
  | none => s
  | some g =>
    match g.steps[r.step]? with
    | none => s
    | some x =>
      match x.kind with
      | 1 => putStep s t r x
      | 2 => contribStep s t r g x
      | 3 => waitStep s t r x
      | _ => localStep s t r x

/-- COLLECTIVE_STEP (R321, R323): the run `index` of the task `key` issues its next step, or finds its WAIT not reached. A member whose pre-emption is
deferred issues none: it stands at the boundary, and its group is pre-empted once every member does (R74, R324). -/
def execCollectiveStep (s : State) : Out :=
  match s.task? s.arg.key with
  | none => .next s
  | some t =>
    if t.deferSince.isSome then .next (preemptGroup s t false)
    else
      match t.runs.find? (fun r => r.id = s.arg.index) with
      | none => .next s
      | some r => .next (collStep s t r)

/-! Combining (R321, R324, R360, R373). -/

/-- The elements of a contribution. -/
def contribElems (t : Nat) (bytes : List Byte) : List Nat :=
  let n := typeWidth t / 8
  (List.range (bytes.length / n)).map (fun i => fieldAt bytes (n * i) n)

/-- The first value of an element. A negative one stands for the NaN that an f32 ABN leaves (R106). -/
def firstValue (t x : Nat) : Int := if t = 0xC then eaOf x else if t = 0xA ∧ isAbn x then -1 else (x : Int)

/-- One contribution to an element: the new value, and whether an EA96 sum saturated. -/
def combineValue (t op : Nat) (acc : Int) (x : Nat) : Int × Bool :=
  if t = 0xC then eaAdd acc (eaOf x)
  else if t = 0xA ∧ (acc < 0 ∨ isAbn x) then (-1, false)
  else (amoNew (if t = 2 then (match op with
      | 0 => 1
      | 1 => 5
      | _ => 6)
    else op + 7) t acc.toNat x, false)

/-- The bytes of a finished element. -/
def valueBytes (t : Nat) (v : Int) : List Byte :=
  if t = 0xC then leBytes 4 (eaToFmt fmt32 v).1 else if v < 0 then leBytes 4 fmt32.nan else leBytes (typeWidth t / 8) v.toNat

/-- R324: a member of the graph on the die is parked by pre-emption. -/
def memberParked (s : State) (die vi graph : Nat) : Bool :=
  s.saved.any (fun (x : Saved) => x.slot.isSome && !x.stopped && dieKey x.strand.pkg x.strand.die = die && x.strand.vi = vi
    && (graphsOf x.strand).contains (graphKey vi graph))

/-- A status that the runs of a slot take, in the strand or in its image (R360). -/
def markRuns (s : State) (l : List (Nat × Nat)) (f : CollRun → CollRun) : State :=
  l.foldl (fun st x =>
    let g := fun (t : Strand) => { t with runs := t.runs.map (fun r => if r.id = x.2 then f r else r) }
    if st.strands.any (fun t => t.tid = x.1) then st.onTask x.1 g else onSaved st x.1 g) s

/-- The home words that hold bytes `lo` to `lo + n - 1` of some places. -/
def wordsAt (l : List (Place × Nat)) (lo n : Nat) : List Nat :=
  (slicePlaces l lo n).flatMap (fun x => if x.1.kind = .vreg ∨ x.1.kind = .tile then [] else wordsOf x.1.ha x.2)

/-- Home words become poisoned. -/
def poisonWords (s : State) (l : List Nat) : State := { s with poison := s.poison ++ (l.filter (fun w => !s.poison.contains w)).eraseDups }

/-- R391: the result words of poisoned elements are written poisoned, and the slot's runs end with status 3. -/
def poisonResult (s : State) (x : CombineSlot) (dest : List (Place × Nat)) : State :=
  let n := (valueBytes x.ty 0).length
  if x.bad.isEmpty then s
  else markRuns (poisonWords s (x.bad.flatMap (fun i => wordsAt dest (n * i) n))) x.runs (fun r => { r with status := max r.status 3 })

/-- R321, R316: a complete slot is written over the places of its destination, its bytes are added to its counter, and it is free. -/
def finishSlot (s : State) (w : Who) (die : Nat) (x : CombineSlot) (dest : List (Place × Nat)) : State × Status :=
  let d := s.die die
  let s1 := s.setDie die { d with combine := d.combine.filter (fun y => y.key ≠ x.key) }
  let s2 := if x.saturated then markRuns s1 x.runs (fun r => { r with status := if r.status = 4 then 4 else max r.status 5 }) else s1
  let bytes := x.values.flatMap (valueBytes x.ty)
  if dest.isEmpty || !registered s2 die x.vi x.dest.va bytes.length then (s2, .revoked)
  else
    match writePlaces w .outside false s2 dest bytes with
    | (s3, .ok) =>
      (let s4 := poisonResult s3 x dest
       ((match x.counter with
        | none => s4
        | some c => addCounter s4 w c x.bytes), .ok))
    | (s3, st) => (s3, st)

/-- The result of a complete slot, its destination translated as the request arrives. -/
def deliverSlot (s : State) (p : Piece) (die : Nat) (x : CombineSlot) : Performed :=
  let w := p.who
  let finish := fun (s1 : State) (ps : List (Place × Nat)) => let (s2, st) := finishSlot s1 w die x ps; Performed.done s2 st p
  match rangeOf s w x.dest.va (x.values.flatMap (valueBytes x.ty)).length .write with
  | .wait s1 => .wait s1
  | .fault _ _ s1 => finish s1 []
  | .ok ps s1 => finish s1 ps

/-- A contribution at the Eft unit of its destination's die. -/
def performContrib (s : State) (p : Piece) (key expected t op : Nat) (bytes : List Byte) (counter : Option Place) (run : Nat)
    (bad : List Nat) : Performed :=
  let die := placeDie s p.place
  let d := s.die die
  if d.aborted.contains key then .done s .abort p
  else if memberParked s die p.vi (slotGraph key % 64) then .done s .busy p
  else
    let elems := contribElems t bytes
    let badElems := (bad.map (fun i => i / (typeWidth t / 8))).eraseDups
    let slot : Option CombineSlot :=
      match d.combine.find? (fun x => x.key = key) with
      | some x =>
        let pairs := (x.values.zip elems).map (fun y => combineValue t op y.1 y.2)
        some { x with missing := x.missing - 1, values := pairs.map (·.1), saturated := x.saturated || pairs.any (·.2), bad := (x.bad ++ badElems).eraseDups,
                      runs := x.runs ++ [(p.tid, run)] }
      | none =>
        if 4096 ≤ d.combine.length then none
        else
          some { key := key, vi := p.vi, missing := expected - 1, ty := t, op := op, values := elems.map (firstValue t), bytes := bytes.length,
                 dest := p.place, counter := counter, saturated := false, bad := badElems, runs := [(p.tid, run)] }
    match slot with
    | none => .done s .busy p
    | some x =>
      if x.missing = 0 then deliverSlot s p die x
      else .done (s.setDie die { d with combine := d.combine.filter (fun y => y.key ≠ key) ++ [x] }) .ok p

/-- R324: a pre-emption has left the slot partly filled for 10 ms. -/
def CombineSlot.expired (x : CombineSlot) (now : Nat) : Bool :=
  match x.since with
  | none => false
  | some t => decide (t + 10000000 ≤ now)

/-- COMBINE_SLOT_EXPIRY (R324, R360): the slots of the die `key` that a pre-emption left partly filled, and that have stood so for 10 ms, are discarded,
and every run that waits on one ends with status 4; its launch completes with COLL_ABORT. -/
def execCombineSlotExpiry (s : State) : Out :=
  let die := s.arg.key
  let d := s.die die
  let old := d.combine.filter (fun x => x.expired s.time)
  let runs := old.flatMap (·.runs)
  let s1 := s.setDie die { d with combine := d.combine.filter (fun x => !x.expired s.time), aborted := d.aborted ++ old.map (·.key) }
  let s2 := markRuns s1 runs (fun r => { r with status := 4, step := 256 })
  let lids := ((s.strands ++ s.saved.map (·.strand)).filter (fun t => t.tid ≠ 0 && runs.any (fun x => x.1 = t.tid))).map (·.lid)
  .next { s2 with launches := s2.launches.map (fun (l : Launch) => if lids.contains l.id then { l with codes := l.codes ++ [8] } else l) }

end Sys2Proof.Machine
end

