-- ==== Sys2Proof/Machine/Control.lean ====
section
/-! DEFINITION. Branches, calls, gates, EXIT, YIELD and NOP (spec/13_scalar.md R223 to R230), pairs' scalar slots excepted. -/

namespace Sys2Proof.Machine

/-- R223, R178: the target of a direct branch, in words from the branch's first word. -/
def branchTarget (o : Ops) (s : State) : Word := s.cpu.pc + 8 * s.opB o.b

/-- The pc moves to `target`, and `f` changes the strand. -/
def jumpTo (s : State) (target : Word) (f : Strand → Strand) : Out :=
  .next (s.onCpu (fun t => { f t with pc := target, parked := false, stepDone := t.stepped }))

/-- A direct branch: taken to its target, or past its words. -/
def branchIf (o : Ops) (s : State) (taken : Bool) (f : Strand → Strand) : Out :=
  if taken then jumpTo s (branchTarget o s) f else .next (s.commit o.bytes f)

/-- BR (R223). -/
def execBr (o : Ops) (s : State) : Out := branchIf o s true id
/-- BCC (R223, R187): D is the first comparand. -/
def execBcc (o : Ops) (s : State) : Out :=
  branchIf o s (condInt o.C (intOf o.T (s.cpu.readG o.D).toNat) (intOf o.T (s.cpu.readG o.A).toNat)) id
/-- BZ (R223). -/
def execBz (o : Ops) (s : State) : Out := branchIf o s (s.cpu.readG o.A == 0) id
/-- BNZ (R223). -/
def execBnz (o : Ops) (s : State) : Out := branchIf o s (s.cpu.readG o.A != 0) id
/-- LOOPD (R223). -/
def execLoopd (o : Ops) (s : State) : Out :=
  let x := s.cpu.readG o.D - 1
  branchIf o s (x != 0) (fun t => t.writeG o.D x)

/-- R224: bits 0 to VL - 1 of a mask. -/
def maskBits (t : Strand) (n : Nat) : List Bool := (List.range t.vl).map (t.readM n)

/-- R58: a branch on a mask waits for the earlier queue entries that write it. -/
def maskBranch (o : Ops) (s : State) (taken : Bool) : Out :=
  if s.cpu.queue.any QEntry.writesMasks then .next s.park else branchIf o s taken id

/-- BMANY (R224). -/
def execBmany (o : Ops) (s : State) : Out := maskBranch o s ((maskBits s.cpu o.A).any id)
/-- BMALL (R224). -/
def execBmall (o : Ops) (s : State) : Out := maskBranch o s ((maskBits s.cpu o.A).all id)
/-- BMNONE (R224). -/
def execBmnone (o : Ops) (s : State) : Out := maskBranch o s (!(maskBits s.cpu o.A).any id)

/-- CALL (R225): lk is g63. -/
def execCall (o : Ops) (s : State) : Out := jumpTo s (branchTarget o s) (fun t => t.writeG 63 (t.pc + o.bytes))

/-- R225: an indirect jump; a misaligned target traps ALIGN. -/
def indirectJump (o : Ops) (s : State) (f : Strand → Strand) : Out :=
  let target := s.cpu.readG o.A
  if target.toNat % 8 ≠ 0 then .next (scalarTrap s causeAlign target) else jumpTo s target f

/-- CALLR (R225). -/
def execCallr (o : Ops) (s : State) : Out := indirectJump o s (fun t => t.writeG 63 (t.pc + 8))
/-- JR (R225). -/
def execJr (o : Ops) (s : State) : Out := indirectJump o s id

/-! Gates. -/

/-- R228: the queue is empty and every earlier operation of the strand has ended, its collective runs among them (R146). -/
def drained (s : State) : Bool := s.cpu.queue.isEmpty && !(s.pieces.any (fun p => p.tid = s.cpu.tid)) && (liveRuns s s.cpu).isEmpty

/-- R227: words of eight mask bits of one mask from bit `64 j` on. -/
def maskWord (t : Strand) (n j : Nat) : Nat :=
  (List.range 64).foldl (fun acc i => if t.readM n (64 * j + i) then acc + 2 ^ i else acc) 0

/-- R227: W. -/
def maskWords (mvl : Nat) : Nat := ceilDiv mvl 64

/-- R227: the bytes of a gate frame. -/
def gateFrame (t : Strand) (ret : Word) (f : Word) : List Byte :=
  let w := maskWords t.mvl
  let info := t.level.rank + (if t.mmode then 4 else 0) + t.mvl * 2 ^ 16
  let head := [ret.toNat, (t.readG 62).toNat, info, f.toNat, 0, 0, 0, 0]
  let masks := (List.range 8).flatMap (fun n => (List.range w).map (maskWord t n))
  (head ++ masks).flatMap (leBytes 8)

/-- The 32 bytes of a gate table entry (R226): physical at H, virtual below, read as an access at level S. -/
def gateEntry (s : State) (index : Nat) : Acc (List Byte) :=
  let t := s.cpu
  if t.level = .h then
    let at_ := haPhys t.pkg ((s.pkg t.pkg).gtbH.toNat + 32 * index)
    match (wordsOf at_ 32).find? (fun w => s.poison.contains w) with
    | some w => .fault causeUeData (BitVec.ofNat 64 (low 40 (8 * w))) s
    | none => .ok (homeBytes s at_ 32) s
  else
    let at_ := (s.viPkg t.pkg t.vi).gtb + BitVec.ofNat 64 (32 * index)
    (readMem s { s.who .scalar with level := .s } at_ 32 0 .read).andThen (fun x s1 => .ok x.bytes s1)

/-- The count of the gate table in use (R226). -/
def gateCount (s : State) : Nat :=
  if s.cpu.level = .h then (s.pkg s.cpu.pkg).gtnH.toNat else (s.viPkg s.cpu.pkg s.cpu.vi).gtn.toNat

/-- The higher of two levels. -/
def maxLevel (a b : Level) : Level := if a.rank < b.rank then b else a

/-- GATE (R228). -/
def execGate (o : Ops) (s : State) : Out :=
  let index := o.bImm
  let bad := fun (s1 : State) => scalarTrap s1 causeGate (BitVec.ofNat 64 index)
  if !drained s then .next s.park
  else if gateCount s ≤ index then .next (bad s)
  else
    match gateEntry s index with
    | .fault c t s1 => .next (scalarTrap s1 c t)
    | .wait s1 => .next s1.park
    | .ok bytes s1 =>
      let word := fun (i : Nat) => leNat ((bytes.drop (8 * i)).take 8)
      let target := word 0
      let sp := word 1
      let info := word 2
      let t := s1.cpu
      let lvl := maxLevel (levelOf (info % 4)) t.level
      let size := 64 + 64 * maskWords t.mvl
      let base : Word := if sp = 0 then t.readG 62 else BitVec.ofNat 64 sp
      let f := base - BitVec.ofNat 64 size
      let caller := t.readG 62
      if bitsOf info 3 3 = 0 ∨ bitsOf info 63 4 ≠ 0 ∨ word 3 ≠ 0 ∨ info % 4 = 3 ∨ target % 8 ≠ 0 ∨ sp % 16 ≠ 0 then .next (bad s1)
      else if t.level.rank < lvl.rank ∧ sp = 0 then .next (bad s1)
      else if sp ≠ 0 ∧ f.toNat ≤ caller.toNat ∧ caller.toNat < sp then .next (bad s1)
      else
        match writeMem s1 { s1.who .scalar with level := lvl } .store f (gateFrame t (t.pc + o.bytes) f) false with
        | .fault c x s2 => .next (scalarTrap s2 c x)
        | .wait s2 => .next s2.park
        | .ok _ s2 =>
          jumpTo s2 (BitVec.ofNat 64 target) (fun u => { u.writeG 62 f with level := lvl, mmode := bitsOf info 2 2 == 1 })

/-- R229: mask `n` from its words in a gate frame: bits below the lesser MVL come from the frame, the others are 0. -/
def frameMask (t : Strand) (n mvlThen : Nat) (bytes : List Byte) : Strand :=
  let w := maskWords mvlThen
  (List.range t.mvl).foldl (fun u i =>
    let word := leNat ((bytes.drop (8 * (w * n + i / 64))).take 8)
    u.writeM n i (decide (i < mvlThen) && word.testBit (i % 64))) t

/-- R229: the masks of a gate frame. -/
def frameMasks (t : Strand) (mvlThen : Nat) (bytes : List Byte) : Strand :=
  (List.range 8).foldl (fun u n => frameMask u n mvlThen bytes) t

/-- GRET (R229). -/
def execGret (s : State) : Out :=
  let sp := s.cpu.readG 62
  if !drained s then .next s.park
  else
    match readMem s (s.who .scalar) sp 64 0 .read with
    | .fault c t s1 => .next (scalarTrap s1 c t)
    | .wait s1 => .next s1.park
    | .ok head s1 =>
      let word := fun (i : Nat) => leNat ((head.bytes.drop (8 * i)).take 8)
      let info := word 2
      if word 3 ≠ sp.toNat ∨ bitsOf info 15 3 ≠ 0 ∨ bitsOf info 63 32 ≠ 0 ∨ word 4 ≠ 0 ∨ word 5 ≠ 0 ∨ word 6 ≠ 0 ∨ word 7 ≠ 0
          ∨ s.cpu.level.rank < info % 4 then .next (scalarTrap s1 causeGate sp)
      else
        let mvlThen := bitsOf info 31 16
        match readMem s1 (s1.who .scalar) (sp + 64) (64 * maskWords mvlThen) 0 .read with
        | .fault c t s2 => .next (scalarTrap s2 c t)
        | .wait s2 => .next s2.park
        | .ok masks s2 =>
          jumpTo s2 (BitVec.ofNat 64 (word 0 / 8 * 8)) (fun u =>
            { (frameMasks u mvlThen masks.bytes).writeG 62 (BitVec.ofNat 64 (word 1)) with
                level := levelOf (info % 4), mmode := bitsOf info 2 2 == 1 })

/-- EXIT (R230, R49): the strand parks until EXIT_RELEASE ends the task. -/
def execExit (s : State) : Out := .next (s.onCpu (fun t => { t with exiting := true, parked := true }))
/-- YIELD (R230): 16 cycles without issue, which no architectural result shows. -/
def execYield (s : State) : Out := .next (s.commit 8 id)
/-- NOP (R230). -/
def execNop (s : State) : Out := .next (s.commit 8 id)

end Sys2Proof.Machine
end

