-- ==== Sys2Proof/Machine/Progress.lean ====
section
/-! DEFINITION. Non-blocking work in progress: pieces that end on their own die, packets at their destination, answers at their source, retries and
timeouts (spec/09_consistency.md R166, R171; spec/25_edges.md R364 to R375; spec/21_streams.md R316, R319), and the error log (R393). -/

namespace Sys2Proof.Machine

/-! Performing. -/

/-- R299: a TOPKI piece at its object. -/
def performTopk (s : State) (p : Piece) (cands : List (Nat × Nat)) (active : Nat) : Performed :=
  match arrive s p.who p.place 1 .atomic with
  | .wait s1 => .wait s1
  | .fault c _ s1 => .done s1 (faultStatus c) p
  | .ok r s1 =>
    match topkWhole s1 p.who .atomic r with
    | .wait s2 => .wait s2
    | .fault c _ s2 => .done s2 (faultStatus c) p
    | .ok q s2 =>
      match topkAct s2 p.who q cands active with
      | none => .done s2 .revoked p
      | some (s3, st) => .done s3 st p

/-- The registration entry that accepts a packet (R316). -/
def acceptingEntry (s : State) (die vi : Nat) (va : Word) (n : Nat) : Option Nat :=
  ((s.die die).regs.find? (fun r => r.2.vi = vi && !r.2.revoking && decide (r.2.base.toNat ≤ va.toNat)
    && decide (va.toNat + n ≤ r.2.base.toNat + r.2.bytes))).map (·.1)

/-- R171: the bytes of a held flag's stream have all arrived. -/
def flagReady (s : State) (die : Nat) (f : HeldFlag) : Bool := decide (f.need ≤ cellGet 0 (s.die die).streams f.stream)

/-- R171: a held flag whose stream has arrived is performed, or refused; then it is held no longer, and takes its stream's count. A spilled page holds it
back. -/
def commitFlag (s : State) (p : Piece) (die : Nat) (f : HeldFlag) : Performed :=
  let take := fun (s1 : State) => streamTake (s1.setDie die { s1.die die with flags := (s1.die die).flags.filter (fun x => x.packet ≠ p.id) }) die f.stream f.need
  if f.entry.isNone then .done (take s) .revoked p
  else
    match performPiece s p with
    | .wait s1 => .wait s1
    | .done s1 st q => .done (take s1) st q

/-- R171, R373, R375: an ordered flag at the Eft unit of its destination: checked and held when it arrives, performed once its stream has arrived. A
refused flag also waits for its stream, whose count it takes. -/
def performFlag (s : State) (p : Piece) (need n : Nat) : Performed :=
  let die := placeDie s p.place
  let d := s.die die
  match d.flags.find? (fun f => f.packet = p.id) with
  | some f =>
    if !flagReady s die f then .wait s else commitFlag s p die f
  | none =>
    if 256 ≤ d.flags.length || streamsFull s die (pieceStream p) then .done s .busy p
    else
      let f : HeldFlag := { stream := pieceStream p, need := need, packet := p.id, entry := acceptingEntry s die p.vi p.place.va n }
      let held := s.setDie die { d with flags := d.flags ++ [f] }
      if flagReady s die f then commitFlag held p die f else .wait held

/-- Any piece, performed where it is performed. -/
def performFull (s : State) (p : Piece) : Performed :=
  match p.what with
  | .write _ _ => performPiece s p
  | .loads _ _ _ => performPiece s p
  | .amo _ _ _ _ _ _ => performPiece s p
  | .cas _ _ _ _ _ => performPiece s p
  | .copy _ _ => performPiece s p
  | .data _ counts => if counts && streamsFull s (placeDie s p.place) (pieceStream p) then .done s .busy p else performPiece s p
  | .flag bytes need _ => performFlag s p need bytes.length
  | .block _ _ => performPiece s p
  | .contrib key expected t op bytes counter run bad => performContrib s p key expected t op bytes counter run bad
  | .topk cands active => performTopk s p cands active
  | .cbcopy src desc => performCbcopy s p src desc
  | .xsend src expert table => performXsend s p src expert table
  | .slots _ => performPiece s p
  | .engine _ => performPiece s p
  | .fetch _ _ => performPiece s p
  | .publish index => performPublish s p index
  | .revoke h => performRevoke s p h
  | .fill desc num => performFill s p desc num
  | .trip _ _ => performPiece s p
  | .post _ _ _ => performPiece s p
  | .gain _ => performPiece s p

/-- R319: every replica of an XSEND has refused it; it tries again 1 microsecond later, and no time limit holds. -/
def markRefused (s : State) (id_ : Nat) : State := onPiece s id_ (fun q => { q with busyAt := some s.time })

/-- R370: an answer NACK-busy: the time from which it is counted, and the time of the answer. -/
def markBusy (s : State) (id_ : Nat) : State :=
  onPiece s id_ (fun q => { q with busyAt := some s.time, busySince := some (q.busySince.getD s.time) })

/-! The pieces of a vector load on one page (R176). -/

/-- R115: the request carries a generation that its home no longer holds. -/
def staleRequest (s : State) (p : Piece) : Bool := p.place.kind = .pg && p.what.span != 0 && !placeFresh s p.place

/-- The piece reads elements of a vector load. -/
def Piece.isLoad (p : Piece) : Bool :=
  match p.what with
  | .loads _ _ _ => true
  | _ => false

/-- The lowest element of a load's piece. -/
def Piece.firstElem (p : Piece) : Nat :=
  match p.what with
  | .loads _ _ [] => p.elem
  | .loads _ _ (e :: rest) => rest.foldl (fun m x => min m x.1) e.1
  | _ => p.elem

/-- A piece as it was before it was performed: what it has read is discarded. -/
def Piece.afresh (p : Piece) : Piece :=
  let what := p.request.getD p.what
  let q : Piece := { p with what := what, request := none, performed := none, result := [], fault := none, replied := false, again := false, busyAt := none,
                            busySince := none, invs := p.invs.filter (fun i => p.carry.any (fun x => x.1 = i)) }
  { q with elem := if p.request.isSome then q.firstElem else p.elem }

/-- The pieces of a load that lie on the 64 KiB page of one of them. -/
def pageMates (s : State) (p : Piece) : List Piece :=
  if p.isLoad then s.pieces.filter (fun q => q.op = p.op && q.isLoad && decide (q.place.va.toNat / 65536 = p.place.va.toNat / 65536)) else []

/-- A performed piece as its source holds it. -/
def keepPerformed (s : State) (q : Piece) (st : Status) : State :=
  onPiece s q.id (fun x => { x with what := q.what, result := q.result, invs := q.invs, fault := q.fault, elem := q.elem, request := q.request, performed := some st })

/-- R176: once every piece of the load on the page has its reply, they end together. -/
def settlePage (s : State) (p : Piece) : State :=
  let mates := pageMates s p
  if mates.all (·.replied) then mates.foldl (fun st q => match st.pieces.find? (fun x => x.id = q.id && x.isLoad) with
    | some x => endPiece st x (x.performed.getD .ok)
    | none => st) s
  else s

/-- R166, R176: the reply of a piece has arrived. A load's piece that brings data waits for those of its page; any other ends. -/
def replyPiece (s : State) (p : Piece) (st : Status) : State :=
  if p.isLoad && st.brings then settlePage (onPiece s p.id (fun x => { x with replied := true, performed := some st, busyAt := none, busySince := none })) p
  else settlePage (endPiece s p st) p

/-- What the destination remembers of a piece goes when the piece has ended. -/
def forget (s : State) (id_ : Nat) : State :=
  { s with answered := s.answered.filter (fun a => a.1 ≠ id_), wire := s.wire.filter (fun (k : Packet) => k.piece ≠ id_ || k.kind = .shootdown) }

/-- R115, R176: a piece is translated again and sent again, or performed again on its own die; a retranslation that faults ends it as revoked. -/
def redoPiece (s : State) (q : Piece) : State :=
  if !q.remote then onPiece s q.id Piece.afresh
  else
    match placeOf s q.who q.place.va q.what.span q.what.access with
    | .wait s1 => s1
    | .fault c t s1 => endPiece (forget s1 q.id) { q.afresh with fault := some (c, t) } .revoked
    | .ok pl s1 => transmit (onPiece (forget s1 q.id) q.id (fun x => { x.afresh with place := pl })) { q.afresh with place := pl }

/-- R176: where a piece of a load is refused STALE, the replies already received for its page are discarded, and their pieces sent again; a reply that is still
on its way is discarded when it arrives. -/
def redoMates (s : State) (p : Piece) : State :=
  settlePage ((pageMates s p).foldl (fun st q =>
    if q.id = p.id || !staleRequest st q then st
    else if q.replied then redoPiece st q
    else if q.performed.any Status.brings then onPiece st q.id (fun x => { x with again := true })
    else st) s) p

/-- A performed piece of the issuing core's own die: its reply is there at once. -/
def endLocal (s : State) (q : Piece) (st : Status) : State := replyPiece (keepPerformed (afterPerform s q st) q st) q st

/-- A piece of the issuing core's own die is performed and ends; one that waits stays, and its busy time ends (R370). -/
def runPlaced (s : State) (p : Piece) : State :=
  match performFull s p with
  | .wait s1 => onPiece s1 p.id (fun x => { x with busyAt := none, busySince := none })
  | .done s1 .busy _ =>
    match p.what with
    | .xsend _ _ _ => markRefused s1 p.id
    | _ => markBusy s1 p.id
  | .done s1 st q => endLocal s1 q st

/-- R176: a load's piece on its own die whose page has a new generation is translated again first, and the other pieces of the page are read again. -/
def runLocal (s : State) (p : Piece) : State :=
  if p.replied then s
  else if p.isLoad && staleRequest s p then
    match placeOf s p.who p.place.va p.what.span .read with
    | .wait s1 => s1
    | .fault _ _ _ => runPlaced (redoMates s p) p
    | .ok pl s1 => runPlaced (redoMates (onPiece s1 p.id (fun x => { x with place := pl })) p) { p with place := pl }
  else runPlaced s p

/-- 1 microsecond has passed since a piece was last refused (R319, R370). -/
def Piece.rested (p : Piece) (now : Nat) : Bool :=
  match p.busyAt with
  | none => true
  | some t => decide (t + 1000 ≤ now)

/-- CC_PIECE_END (R166, R168): the piece `key`, whose home is on its own die, is performed and ends. One that was refused waits its microsecond (R319, R370). -/
def execCcPieceEnd (s : State) : Out :=
  match s.pieces.find? (fun p => p.id = s.arg.key) with
  | none => .next s
  | some p => if p.remote || !p.rested s.time then .next s else .next (runLocal s p)

/-- XSEND_RETRY (R319): an XSEND that every replica refused tries again: the piece `key`, or the blocking one of the task `index`. -/
def execXsendRetry (s : State) : Out :=
  match s.pieces.find? (fun p => p.id = s.arg.key) with
  | some p =>
    (match p.what with
     | .xsend _ _ _ => if p.rested s.time then .next (runLocal s p) else .next s
     | _ => .next s)
  | none => .next (s.onTask s.arg.index (fun t =>
      if t.queue.head?.any (fun e => e.code = 0x1E8 && e.refused.any (fun x => decide (x + 1000 ≤ s.time))) then { t with parked := false } else t))

/-! The torus (R371, R372). -/

/-- The shorter way round a ring. -/
def ringDist (n a b : Nat) : Nat := min ((b + n - a) % n) ((a + n - b) % n)

/-- The coordinates of a package's domain (R363). -/
def domainOf (p : Nat) : Nat × Nat × Nat := (bitsOf p 21 16, bitsOf p 15 11, bitsOf p 10 6)

/-- R363, R371: the domain hops between two packages. -/
def domainHops (a b : Nat) : Nat :=
  ringDist 64 (bitsOf a 21 16) (bitsOf b 21 16) + ringDist 32 (bitsOf a 15 11) (bitsOf b 15 11) + ringDist 32 (bitsOf a 10 6) (bitsOf b 10 6)

/-- R371: the hops round one ring of `n` domains: the shorter way, the positive one on a tie. `g` numbers the positive direction. -/
def ringWay (n a b g : Nat) : List Nat := List.replicate (ringDist n a b) (if 2 * ((b + n - a) % n) ≤ n then g else g + 1)

/-- R371: a route in dimension order, by the directions +x, -x, +y, -y, +z, -z numbered from 0. -/
def routeOf (a b : Nat) : List Nat :=
  ringWay 64 (bitsOf a 21 16) (bitsOf b 21 16) 0 ++ ringWay 32 (bitsOf a 15 11) (bitsOf b 15 11) 2 ++ ringWay 32 (bitsOf a 10 6) (bitsOf b 10 6) 4

/-- The domain that one hop reaches. -/
def hopTo (x : Nat × Nat × Nat) (g : Nat) : Nat × Nat × Nat :=
  match g with
  | 0 => ((x.1 + 1) % 64, x.2.1, x.2.2)
  | 1 => ((x.1 + 63) % 64, x.2.1, x.2.2)
  | 2 => (x.1, (x.2.1 + 1) % 32, x.2.2)
  | 3 => (x.1, (x.2.1 + 31) % 32, x.2.2)
  | 4 => (x.1, x.2.1, (x.2.2 + 1) % 32)
  | _ => (x.1, x.2.1, (x.2.2 + 31) % 32)

/-- R371: the gateway of a domain for a direction. -/
def gatewayOf (x : Nat × Nat × Nat) (g : Nat) : Nat := x.1 * 2 ^ 16 + x.2.1 * 2 ^ 11 + x.2.2 * 2 ^ 6 + 56 + g

/-- The gateway whose buffer holds a packet after some hops of its route: none before the first. -/
def Packet.gateway (k : Packet) (hops : Nat) : Option Nat :=
  let route := (routeOf k.srcPkg k.dstPkg).take hops
  route.getLast?.map (fun g => gatewayOf (route.foldl hopTo (domainOf k.srcPkg)) g)

/-- The packet has made every domain hop of its route. -/
def Packet.here (k : Packet) : Bool := decide (domainHops k.srcPkg k.dstPkg ≤ k.hops)

/-- R372: the free buffers of a packet's class in a gateway. -/
def gatewayFree (s : State) (k : Packet) (g : Nat) : Nat :=
  Config.gatewayBuffers - (s.wire.filter (fun (x : Packet) => x.cls = k.cls && x.gateway x.hops == some g)).length

/-- R372: the next hop enters a ring: it is the packet's first, or turns into another direction. -/
def Packet.enters (k : Packet) : Bool :=
  let route := routeOf k.srcPkg k.dstPkg
  k.hops == 0 || route[k.hops - 1]? != route[k.hops]?

/-- R372: the receiving gateway of the packet's next hop answers and has the buffers that the hop needs. -/
def hopFree (s : State) (k : Packet) : Bool :=
  match k.gateway (k.hops + 1) with
  | none => false
  | some g => !silent s g && decide ((if k.enters then 2 else 1) ≤ gatewayFree s k g)

/-- GATEWAY_FORWARD (R371, R372): the packet at `index` of the wire makes its next domain hop, when the receiving gateway has room. -/
def execGatewayForward (s : State) : Out :=
  match s.wire[s.arg.index]? with
  | none => .next s
  | some k =>
    if k.here || !hopFree s k then .next s
    else .next { s with wire := s.wire.set s.arg.index { k with hops := k.hops + 1 } }

/-! Packets at their destination. -/

/-- The packet at a place of the wire that has reached its destination's port, taken off it. -/
def takePacket (s : State) : Option (Packet × State) :=
  (s.wire[s.arg.index]?.filter Packet.here).map (fun k => (k, { s with wire := s.wire.eraseIdx s.arg.index }))

/-- A packet that waits at its destination keeps its place on the wire. -/
def holdPacket (s : State) (k : Packet) : State := { s with wire := s.wire.take s.arg.index ++ k :: s.wire.drop s.arg.index }

/-- The packet is of a reserved kind or class (R364). -/
def isReservedPacket (k : Packet) : Bool :=
  (match k.kind with
   | .reserved _ => true
   | .readRequest => false
   | .write => false
   | .atomic => false
   | .data => false
   | .orderedFlag => false
   | .contribution => false
   | .readReply => false
   | .acknowledgement => false
   | .nackBusy => false
   | .gang => false
   | .preempt => false
   | .report => false
   | .shootdown => false) || decide (3 ≤ k.cls)

/-- R364, R393: a packet that is dropped is logged with the address of its access, 0 for a control message, and its VI; nothing is sent back. -/
def dropPacket (s : State) (k : Packet) : State :=
  let target := s.pieces.find? (fun p => p.id = k.piece)
  pushLog s k.dstPkg { time := 0, kind := .droppedPacket, die := k.dstDie, unit := (target.map (fun p => haChan p.place.ha)).getD 0,
                       addr := (target.map (fun p => p.place.va.toNat)).getD 0, vi := some k.vi }

/-- The rail of an answer: its packet's, or the next healthy one where that rail of the answering die has failed (R366); rail 0 in reduced service
(R386). -/
def answerRail (s : State) (k : Packet) : Nat :=
  let d := s.die (dieKey k.dstPkg k.dstDie)
  if (s.pkg k.dstPkg).stage = 3 then 0 else if d.failed.contains k.rail then (nextHealthy d k.rail).getD k.rail else k.rail

/-- The answer to a packet (R364, R368). -/
def answerOf (s : State) (k : Packet) (kind : PacketKind) (st : Status) : Packet :=
  { kind := kind, dstPkg := k.srcPkg, dstDie := k.srcDie, srcPkg := k.dstPkg, srcDie := k.dstDie, srcCore := k.srcCore, srcSlot := k.srcSlot,
    vi := k.vi, cls := 1, seq := k.seq, rail := answerRail s k, piece := k.piece, status := st }

/-- The piece brings back data. -/
def PieceOp.returns : PieceOp → Bool
  | .loads _ _ _ => true
  | .amo _ _ _ ret _ _ => ret
  | .cas _ _ _ _ _ => true
  | .fetch _ _ => true
  | .write _ _ => false
  | .copy _ _ => false
  | .data _ _ => false
  | .flag _ _ _ => false
  | .block _ _ => false
  | .contrib _ _ _ _ _ _ _ _ => false
  | .topk _ _ => false
  | .cbcopy _ _ => false
  | .xsend _ _ _ => false
  | .slots _ => false
  | .engine _ => false
  | .publish _ => false
  | .revoke _ => false
  | .fill _ _ => false
  | .trip _ _ => true
  | .post _ _ _ => false
  | .gain _ => false

/-- The kind of a piece's answer. -/
def replyKind (p : Piece) (st : Status) : PacketKind := if p.what.returns && st == .ok then .readReply else .acknowledgement

/-- The ordered channel of a packet as its destination counts it (R369). -/
def arrivalKey (k : Packet) : Nat := coreKey k.srcPkg k.srcDie k.srcCore * 16 + k.srcSlot * 4 + k.rail

/-- R369: the next number of the packet's channel follows it. -/
def expectNext (s : State) (k : Packet) : State :=
  if k.kind.ordered then
    let dk := dieKey k.dstPkg k.dstDie
    let d := s.die dk
    s.setDie dk { d with expected := cellPut d.expected (arrivalKey k) ((k.seq + 1) % 2 ^ 24) }
  else s

/-- R369: the packet is the next of its channel, or carries the resynchronisation mark. -/
def inSequence (s : State) (p : Piece) (k : Packet) : Bool :=
  !k.kind.ordered || p.resync || cellGet 0 (s.die (dieKey k.dstPkg k.dstDie)).expected (arrivalKey k) == k.seq

/-- The answer to a packet of a piece; the packets of an RFETCH take the shortest queue of their die (R318, R327). -/
def replyTo (s : State) (p : Piece) (k : Packet) (st : Status) : Packet :=
  match p.what with
  | .fetch _ _ => { answerOf s k (replyKind p st) st with rail := if (s.pkg k.dstPkg).stage = 3 then 0 else shortestRail s k.dstPkg k.dstDie }
  | _ => answerOf s k (replyKind p st) st

/-- R368: the destination remembers a performed packet and its status, and answers. -/
def answer (s : State) (p : Piece) (k : Packet) (st : Status) : State :=
  (expectNext { s with answered := s.answered ++ [(k.piece, st)] } k).send (replyTo s p k st)

/-- R368, R386: the packet's destination does not answer it. -/
def unheard (s : State) (k : Packet) : Bool := (s.pkg k.dstPkg).unreachable || (k.srcPkg != k.dstPkg && silent s k.dstPkg)

/-- A class-0 packet that reaches its destination (R115, R364, R368 to R370). -/
def receivePacket (s : State) (k : Packet) : State :=
  if unheard s k then s
  else
    match s.pieces.find? (fun p => p.id = k.piece) with
    | none => s
    | some p =>
      if k.seq ≠ p.seq then s
      else
        match s.answered.find? (fun a => a.1 = k.piece) with
        | some a => s.send (replyTo s p k a.2)
        | none =>
          if !inSequence s p k then s
          else if staleRequest s p then answer s p k .stale
          else
            match performFull s p with
            | .wait s1 =>
              (let s2 := onPiece s1 p.id (fun x => { x with busyAt := none, busySince := none })
               -- a flag that the Eft unit holds has left the network (R171, R372)
               if (s2.die (placeDie s2 p.place)).flags.any (fun f => f.packet = p.id) then s2 else holdPacket s2 k)
            | .done s1 .busy _ => s1.send (answerOf s1 k .nackBusy .busy)
            | .done s1 st q => answer (afterPerform (keepPerformed s1 q st) q st) q k st

/-- A packet event: the packet at `index` of the wire, where it has reached its port and has the kind that the event names. One of a reserved class or with
a bad CRC is dropped and logged (R364). -/
def packetEvent (s : State) (kind : PacketKind) (f : State → Packet → State) : Out :=
  match takePacket s with
  | none => .next s
  | some (k, s1) =>
    if k.kind ≠ kind then .next s
    else if isReservedPacket k || !k.crcOk then .next (dropPacket s1 k)
    else .next (f s1 k)

/-- READ_REQUEST (R369, R115, R364). -/
def execReadRequest (s : State) : Out := packetEvent s .readRequest receivePacket
/-- WRITE (R369, R115, R364). -/
def execWrite (s : State) : Out := packetEvent s .write receivePacket
/-- ATOMIC (R369, R115, R364). -/
def execAtomic (s : State) : Out := packetEvent s .atomic receivePacket
/-- FABRIC_DATA (R316, R171, R373). -/
def execFabricData (s : State) : Out := packetEvent s .data receivePacket
/-- ORDERED_FLAG (R171, R373): the flag is held until its stream has arrived. -/
def execOrderedFlag (s : State) : Out := packetEvent s .orderedFlag receivePacket
/-- COLLECTIVE_CONTRIBUTION (R321, R324, R360, R373). -/
def execCollectiveContribution (s : State) : Out := packetEvent s .contribution receivePacket

/-- ORDERED_FLAG_COMMIT (R171): the held flag of the piece `key` is performed, once the bytes of its stream have arrived. -/
def execOrderedFlagCommit (s : State) : Out :=
  match s.pieces.find? (fun p => p.id = s.arg.key) with
  | none => .next s
  | some p =>
    let die := placeDie s p.place
    if !((s.die die).flags.any (fun f => f.packet = p.id && flagReady s die f)) then .next s
    else if !p.remote then .next (runLocal s p)
    else
      match performFull s p with
      | .wait s1 => .next s1
      | .done s1 st q =>
        let s2 := afterPerform (keepPerformed s1 q st) q st
        let k := packetOf s2 p
        .next (answer { s2 with wire := s2.wire.filter (fun (x : Packet) => !(x.piece = p.id && x.kind = .orderedFlag)) } p k st)

/-! Answers at their source. -/

/-- R143, R158: an earlier refused piece of an operation that keeps its order is sent again before a later one. -/
def reissueWaits (s : State) (p : Piece) : Bool :=
  p.inOrder && s.pieces.any (fun q => q.op = p.op && decide (q.id < p.id) && q.remote && q.performed.isNone && staleRequest s q)

/-- R115, R266, R303: a refused piece is translated again and sent again; a retranslation that faults ends it as revoked, refused at its home as S counts
its bytes (R317). The other pieces of a load on its page follow (R176). -/
def reissue (s : State) (k : Packet) (p : Piece) : State :=
  if reissueWaits s p then holdPacket s k
  else
  match placeOf s p.who p.place.va p.what.span p.what.access with
  | .wait s1 => holdPacket s1 k
  | .fault c t s1 => redoMates (endPiece (countData (forget s1 p.id) p) { p.afresh with fault := some (c, t) } .revoked) p
  | .ok q s1 => redoMates (transmit (onPiece (forget s1 p.id) p.id (fun x => { x.afresh with place := q })) { p.afresh with place := q }) p

/-- READ_REPLY (R364): the bytes reach their destination, and the piece ends; a reply that R176 discards sends its piece again. -/
def execReadReply (s : State) : Out :=
  packetEvent s .readReply (fun s1 k =>
    match s1.pieces.find? (fun p => p.id = k.piece) with
    | none => s1
    | some p =>
      if k.seq ≠ p.seq then s1
      else if p.again then redoPiece s1 p
      else if p.isLoad then replyPiece (forget s1 p.id) p k.status
      else
        match deliver s1 p k.status with
        | .wait s2 => holdPacket s2 k
        | .fault _ _ s2 => s2
        | .ok x s2 => closePiece (logConsumed (forget s2 p.id) x.2 x.1) x.2 x.1)

/-- ACKNOWLEDGEMENT (R368, R115). -/
def execAcknowledgement (s : State) : Out :=
  packetEvent s .acknowledgement (fun s1 k =>
    match s1.pieces.find? (fun p => p.id = k.piece) with
    | none => s1
    | some p =>
      if k.seq ≠ p.seq then s1
      else if k.status = .stale then reissue s1 k p
      else if p.again then redoPiece s1 p
      else replyPiece (forget s1 p.id) p k.status)

/-- NACK_BUSY (R370). -/
def execNackBusy (s : State) : Out := packetEvent s .nackBusy (fun s1 k => markBusy s1 k.piece)

/-! Retries (R368 to R372). -/

/-- R368: the timeout interval of a piece now, in nanoseconds. -/
def retryInterval (s : State) (p : Piece) : Nat := (8000 + 2000 * domainHops p.srcPkg (placeDie s p.place / 8)) * 2 ^ p.retries

/-- A piece's packet sent once more on its rail; a failed rail carries nothing (R366). -/
def retransmit (s : State) (p : Piece) : State :=
  let s1 := onPiece s p.id (fun x => { x with sentAt := s.time, busyAt := none })
  if (s.die (dieKey p.srcPkg p.srcDie)).failed.contains p.rail then s1 else s1.send (packetOf s1 p)

/-- R369: two pieces travel on one ordered channel. -/
def sameChannel (s : State) (p q : Piece) : Bool :=
  p.remote && q.remote && p.what.kind.ordered && q.what.kind.ordered && !p.unsent && !q.unsent && !p.replied && !q.replied && p.srcPkg == q.srcPkg
  && p.srcDie == q.srcDie && p.srcCore == q.srcCore && p.srcSlot == q.srcSlot && p.rail == q.rail && placeDie s p.place == placeDie s q.place

/-- R369: the pieces of a piece's channel from it on, in sequence order. -/
def laterInChannel (s : State) (p : Piece) : List Piece :=
  if p.what.kind.ordered then s.pieces.filter (fun q => q.id = p.id || (sameChannel s p q && decide ((q.seq + 2 ^ 24 - p.seq) % 2 ^ 24 < 2 ^ 23)))
  else [p]

/-- How far a piece stands behind another in their channel's numbers, from half the number space before it. -/
def seqAfter (p q : Piece) : Nat := (q.seq + 2 ^ 24 + 2 ^ 23 - p.seq) % 2 ^ 24

/-- A piece put in sequence order among others, by its distance to `p`. -/
def insertSeq (p x : Piece) : List Piece → List Piece
  | [] => [x]
  | y :: rest => if seqAfter p x < seqAfter p y then x :: y :: rest else y :: insertSeq p x rest

/-- R369: the unacknowledged pieces of a piece's ordered channel, the oldest first; other kinds are held to no order. -/
def channelInOrder (s : State) (p : Piece) : List Piece :=
  if p.what.kind.ordered then (s.pieces.filter (fun q => q.id = p.id || sameChannel s p q)).foldl (fun l q => insertSeq p q l) [] else [p]

/-- R368, R369: a piece ends with REMOTE_TIMEOUT, and with it every later piece of its channel; the next packet there carries the mark. -/
def timeOut (s : State) (p : Piece) : State :=
  let ck := coreKey p.srcPkg p.srcDie p.srcCore
  let c := s.core ck
  let s1 := if p.remote && p.what.kind.ordered then s.setCore ck { c with resync := c.resync ++ [channelKey p.srcSlot (placeDie s p.place) p.rail] } else s
  (if p.remote then laterInChannel s p else [p]).foldl (fun st q => settlePage (endPiece (forget st q.id) q .timeout) q) s1

/-- RETRY_TIMEOUT (R368, R369): the timeout of the piece `key` has expired: its channel is sent again from its oldest unacknowledged packet on. -/
def execRetryTimeout (s : State) : Out :=
  match s.pieces.find? (fun p => p.id = s.arg.key) with
  | none => .next s
  | some p =>
    if !p.remote || p.unsent || p.replied || p.busyAt.isSome || decide (s.time < p.sentAt + retryInterval s p) then .next s
    else if 6 ≤ p.retries then .next (timeOut s p)
    else .next ((channelInOrder s p).foldl retransmit (onPiece s p.id (fun x => { x with retries := x.retries + 1, busySince := none })))

/-- NACK_RETRY (R370): 1 microsecond after a NACK-busy the packet is sent again, or tried again on its own die. -/
def execNackRetry (s : State) : Out :=
  match s.pieces.find? (fun p => p.id = s.arg.key) with
  | none => .next s
  | some p =>
    match p.busyAt with
    | none => .next s
    | some _ => if !p.rested s.time then .next s else if p.remote then .next (retransmit s p) else .next (runLocal s p)

/-- NACK_BUSY_TIMEOUT (R370): after 20 ms of NACK-busy the packet ends with REMOTE_TIMEOUT. -/
def execNackBusyTimeout (s : State) : Out :=
  match s.pieces.find? (fun p => p.id = s.arg.key) with
  | none => .next s
  | some p =>
    match p.busySince with
    | none => .next s
    | some t => if s.time < t + 20000000 then .next s else .next (timeOut s p)

/-! Rails, reserved kinds, links, gateways. -/

/-- RAIL_FAILURE (R366): rail `index` of the die `key` fails. -/
def execRailFailure (s : State) : Out :=
  let d := s.die s.arg.key
  if s.arg.index ≥ 4 ∨ d.failed.contains s.arg.index then .next s
  else .next (s.setDie s.arg.key { d with failed := d.failed ++ [s.arg.index] })

/-- RAIL_FAILOVER (R366): once every packet sent on the failed rail has ended, the shares that it carries move to the next healthy rail, and the packets that
waited are sent. -/
def execRailFailover (s : State) : Out :=
  let d := s.die s.arg.key
  let r := s.arg.index
  let onRail := fun (p : Piece) => p.remote && dieKey p.srcPkg p.srcDie == s.arg.key && p.rail == r && !p.unsent && !p.replied
  if !d.failed.contains r || !([0, 1, 2, 3].any (fun n => healthyRail d n = r)) || s.pieces.any onRail then .next s
  else
    let s1 := s.setDie s.arg.key (moveShares d r)
    .next ((s1.pieces.filter (fun p => p.unsent && dieKey p.srcPkg p.srcDie == s.arg.key)).foldl transmit s1)

/-- RESERVED_KIND_PACKET (R364): the packet that the event brings has a reserved kind or class, or a bad CRC: it is dropped and logged. -/
def execReservedKindPacket (s : State) : Out :=
  let k := s.arg.packet
  if isReservedPacket k || !k.crcOk then .next (dropPacket s k) else .next s

/-- LINK_LEVEL_RETRY (R365): a flit that failed its CRC is sent again by its link; nothing reaches the port, and nothing changes. -/
def execLinkLevelRetry (s : State) : Out := .next s

/-- R325: an entry of a strand's queue or banks has the acknowledgement of a package. -/
def ackEntry (op pkg : Nat) (e : QEntry) : QEntry := if e.begun && e.op == op then { e with acks := e.acks.filter (· ≠ pkg) } else e

/-- R325: a strand's WREVOKE has the acknowledgement of a package. -/
def ackStrand (op pkg : Nat) (t : Strand) : Strand :=
  { t with queue := t.queue.map (ackEntry op pkg), holdS := t.holdS.map (ackEntry op pkg), holdH := t.holdH.map (ackEntry op pkg) }

/-- WINDOW_SHOOTDOWN (R325): the destination package discards the copies of the window, and acknowledges. -/
def execWindowShootdown (s : State) : Out :=
  packetEvent s .shootdown (fun s0 k =>
    let s1 : State := { s0.onStrands (ackStrand k.y k.dstPkg) with
                          saved := s0.saved.map (fun (x : Saved) => { x with strand := ackStrand k.y k.dstPkg x.strand }) }
    { s1 with dies := s1.dies.map (fun (x : Nat × DieSt) =>
        if x.1 / 8 = k.dstPkg then (x.1, dropWindow x.2 (windowKey k.vi k.x)) else x) })

end Sys2Proof.Machine
end

