-- ==== Sys2Proof/Machine/Paging.lean ====
section
/-! DEFINITION. What home agents and translation caches do on their own: page-ins and spills (spec/07_memory.md R122 to R124), the expiry of cached
translations (R114), format regions (spec/05_numbers.md R95), lane retirement (spec/03_execution.md R55). -/

namespace Sys2Proof.Machine

/-! Host slots (R112, R122). -/

/-- The mark of a poisoned word of host memory, among the home words. -/
def hostPoison (addr : Nat) : Nat := 2 ^ 72 + addr / 8

/-- The key of a descriptor's claims while its page is spilled (R141): a host address, among the home addresses. -/
def hostKey (addr : Nat) : Nat := 2 ^ 76 + addr

/-- The blocks of a frame that are INV (R97). -/
def frameInvs (s : State) (ha : Nat) : List Nat :=
  if (s.chan (haChanKey ha)).regs.isEmpty then [] else (List.range 1024).filter (fun b => homeInv s (ha + 64 * b) 1)

/-- The blocks of a host slot that were INV when their page was spilled. -/
def slotInvs (s : State) (host : Nat) : List Nat :=
  (s.hostInv.filter (fun b => decide (host / 64 ≤ b) && decide (b < host / 64 + 1024))).map (· - host / 64)

/-- R96: block `b` of a frame takes its bytes: as decoded data in a window, else in memory. -/
def putBlock (s : State) (ha : Nat) (bytes : List Byte) (invs : List Nat) (b : Nat) : State :=
  let ck := haChanKey ha
  let off := haOff ha + 64 * b
  let mine := (bytes.drop (64 * b)).take 64
  match regionAt (s.chan ck) off with
  | none => { s with mem := memWrite s.mem (ha + 64 * b) mine }
  | some r =>
    let x := sectorOf s ck r (off / 256)
    let i := off % 256 / 64
    let y : Sector := { bytes := x.bytes.take (64 * i) ++ mine ++ x.bytes.drop (64 * i + 64), inv := x.inv.set i (invs.contains b), dirty := true }
    s.setChan ck { s.chan ck with sectors := cellPut (s.chan ck).sectors (off / 256) y }

/-- R96: a frame takes 64 KiB as its home sees them. -/
def putFrame (s : State) (ha : Nat) (bytes : List Byte) (invs : List Nat) : State :=
  if (s.chan (haChanKey ha)).regs.isEmpty then { s with mem := memWrite s.mem ha bytes }
  else (List.range 1024).foldl (fun st b => putBlock st ha bytes invs b) s

/-- A key in one range of `n` moved to another, and the other's to the first. -/
def swapKey (a b n k : Nat) : Nat := if a ≤ k ∧ k < a + n then b + (k - a) else if b ≤ k ∧ k < b + n then a + (k - b) else k

/-- R390, R141: the marks that move with a page: poisoned words and the claims of its descriptors. -/
def swapMarks (s : State) (ha host : Nat) : State :=
  { s with poison := s.poison.map (swapKey (ha / 8) (hostPoison host) 8192),
           dies := s.dies.map (fun (d : Nat × DieSt) =>
             (d.1, { d.2 with fills := d.2.fills.map (fun x => (swapKey ha (hostKey host) 65536 x.1, x.2)) })) }

/-- The 64 KiB of a host slot moved into a frame, with its marks. -/
def frameIn (s : State) (ha host : Nat) : State :=
  swapMarks { putFrame s ha (memRead s.hostMem host 65536) (slotInvs s host) with
                hostInv := s.hostInv.filter (fun b => !(decide (host / 64 ≤ b) && decide (b < host / 64 + 1024))) } ha host

/-- The 64 KiB of a frame and of a host slot exchanged, each as the home sees it (R96), with their marks. -/
def frameSwap (s : State) (ha host : Nat) : State :=
  swapMarks { putFrame s ha (memRead s.hostMem host 65536) (slotInvs s host) with
                hostMem := memWrite s.hostMem host (homeBytes s ha 65536),
                hostInv := s.hostInv.filter (fun b => !(decide (host / 64 ≤ b) && decide (b < host / 64 + 1024)))
                           ++ (frameInvs s ha).map (· + host / 64) } ha host

/-- A page table entry with its frame field and SP replaced. -/
def putPte (s : State) (at_ frame : Nat) (sp : Bool) : State :=
  let e := memWord s.mem at_
  let e1 := e / 2 ^ 48 * 2 ^ 48 + low 32 frame * 2 ^ 16 + (if sp then low 16 e ||| 2 ^ 11 else low 16 e - (if e.testBit 11 then 2 ^ 11 else 0))
  noteWrite { s with mem := memWrite s.mem at_ (leBytes 8 e1) } at_ 8

/-- R124: a refill is noted; a page refilled four times within 16 ms is settled. -/
def noteRefill (s : State) (ck vi j : Nat) : State :=
  let h := pageHist s ck vi j
  let recent := (h.refills.filter (fun t => decide (s.time < t + 16000000))) ++ [s.time]
  let c := s.chan ck
  let h1 := { h with used := s.time, gathered := false, refills := recent, settledAt := if 4 ≤ recent.length then some s.time else h.settledAt }
  s.setChan ck { c with pages := cellPut c.pages (vi * 131072 + j) h1 }

/-- R124, R122: a victim and a host slot exchange their bytes: the victim is spilled there, and its page advances. -/
def spillVictim (s : State) (pkg die chan vi slot : Nat) (x : Nat × Leaf) : Option State :=
  match walk s pkg die chan vi (x.1 * 65536) with
  | none => none
  | some (at_, _) =>
    let s1 := frameSwap s (haOf pkg die chan (low 17 x.2.frame * 65536)) (slot * 65536)
    some (advancePage (putPte s1 at_ slot true) pkg die chan vi (x.1 * 65536))

/-- R122: the page with entry `at_` has come into `frame`: its entry says so, its generation advances, and the refill is noted. -/
def pageCame (s : State) (pkg die chan vi a at_ frame : Nat) : State :=
  noteRefill (advancePage (putPte s at_ frame false) pkg die chan vi a) (chanKey pkg die chan) vi (a / 65536)

/-- R122, R124: the spilled page with entry `at_` and slot `slot` comes in: into a free frame, or in exchange for a victim. None where no frame is to
be had. -/
def pageIn (s : State) (pkg die chan vi a at_ slot : Nat) : Option State :=
  let ck := chanKey pkg die chan
  let resident := residentPages s pkg die chan vi
  if needsVictim s ck vi resident.length then
    (victimOf s ck vi resident).bind (fun x => (spillVictim s pkg die chan vi slot x).map (fun s1 => pageCame s1 pkg die chan vi a at_ x.2.frame))
  else
    match (s.chan ck).freeFrames with
    | [] => none
    | f :: rest =>
      let s1 := s.setChan ck { s.chan ck with freeFrames := rest }
      some (pageCame (frameIn s1 (haOf pkg die chan (f * 65536)) (slot * 65536)) pkg die chan vi a at_ f)

/-- The frame of a spilled victim is free. -/
def frameFreed (s : State) (ck frame : Nat) : State := s.setChan ck { s.chan ck with freeFrames := (s.chan ck).freeFrames ++ [frame] }

/-- R122, R112: a spilled 32 MiB page with entry `at_` and first slot `slot` comes into an aligned run of 512 free frames; where the VI's quota is used up, a
victim takes the place of its first slot (DESIGN CHOICE, log entry 10). -/
def bigPageIn (s : State) (pkg die chan vi a at_ slot : Nat) : Option State :=
  let ck := chanKey pkg die chan
  let resident := residentPages s pkg die chan vi
  (freeRun (s.chan ck).freeFrames).bind (fun f =>
    let s1 := s.setChan ck { s.chan ck with freeFrames := (s.chan ck).freeFrames.filter (fun x => x / 512 ≠ f / 512) }
    let s2 := (List.range 512).foldl (fun st i => frameIn st (haOf pkg die chan ((f + i) * 65536)) ((slot + i) * 65536)) s1
    let s3 := pageCame s2 pkg die chan vi (a / 2 ^ 25 * 2 ^ 25) at_ f
    if quotaUsed s vi resident.length then
      (victimOf s ck vi resident).bind (fun x => (spillVictim s3 pkg die chan vi slot x).map (fun s4 => frameFreed s4 ck (low 17 x.2.frame)))
    else some s3)

/-- R116: the page, or the victim that its page-in would spill, has used up its advances. -/
def pageInWaits (s : State) (pkg die chan vi a : Nat) : Bool :=
  let ck := chanKey pkg die chan
  let resident := residentPages s pkg die chan vi
  advanceWaits s (pageTag s pkg die chan vi a)
  || (needsVictim s ck vi resident.length && (victimOf s ck vi resident).any (fun x => advanceWaits s (pageTag s pkg die chan vi (x.1 * 65536))))

/-- The stalled access at a place of `pageIns` is no longer waited for. -/
def donePageIn (s : State) (i : Nat) : State := { s with pageIns := s.pageIns.eraseIdx i }

/-- PAGE_IN_COMPLETE (R122, R124, R116): the page of the access `index` comes in, once the pages that advance may. The node map is read on package `pkg`. -/
def execPageInComplete (s : State) : Out :=
  match s.pageIns[s.arg.index]? with
  | none => .next s
  | some (vi, va) =>
    let n := va.toNat
    match nodeOf s s.arg.pkg vi (bitsOf n 61 40) with
    | none => .next (donePageIn s s.arg.index)
    | some p =>
      match walk s p (bitsOf n 39 37) (bitsOf n 36 33) vi (low 33 n) with
      | none => .next (donePageIn s s.arg.index)
      | some (at_, l) =>
        if !l.sp then .next (donePageIn s s.arg.index)
        else if pageInWaits s p (bitsOf n 39 37) (bitsOf n 36 33) vi (low 33 n) then .next s
        else
          match (if l.big then bigPageIn else pageIn) s p (bitsOf n 39 37) (bitsOf n 36 33) vi (low 33 n) at_ l.frame with
          | none => .next (donePageIn s s.arg.index)
          | some s1 => .next (donePageIn s1 s.arg.index)

/-- PAGE_SETTLED_EXPIRY (R124): after 256 ms the page `index` of the VI on the channel `key` is settled no longer. -/
def execPageSettledExpiry (s : State) : Out :=
  let c := s.chan s.arg.key
  let k := s.arg.vi * 131072 + s.arg.index
  match (cellGet {} c.pages k).settledAt with
  | none => .next s
  | some t =>
    if s.time < t + 256000000 then .next s
    else .next (s.setChan s.arg.key { c with pages := cellPut c.pages k { cellGet {} c.pages k with settledAt := none } })

/-- TLB_ENTRY_EXPIRY (R114): the translations that the core `key` filled 1 ms ago or earlier go. -/
def execTlbEntryExpiry (s : State) : Out :=
  let c := s.core s.arg.key
  .next (s.setCore s.arg.key { c with tlbs := c.tlbs.filter (fun e => decide (s.time < e.since + 1000000)) })

/-! Format regions (R95). -/

/-- R95: the L2 and the MSC of a die no longer hold the frames of a range of home addresses. -/
def dropFrames (s : State) (ha n : Nat) : State :=
  let dk := haDieKey ha
  let d := s.die dk
  let gone := fun (frame : Nat) => decide (ha / 256 ≤ frame) && decide (frame * 256 < ha + n)
  s.setDie dk { d with l2 := d.l2.map (fun x => (x.1, x.2.filter (fun b => !gone b.frame))),
                       msc := d.msc.map (fun x => (x.1, x.2.filter (fun b => !gone b.frame))) }

/-- The page frames of a window no longer hold decoded data: every held sector of it is written back and goes, from the L2 and the MSC too. -/
def flushRegion (s : State) (ck : Nat) (r : FormatReg) : State :=
  dropFrames
    (writeBackSectors s ck false (((s.chan ck).sectors.map (·.1)).filter (fun q => decide (r.winbase ≤ q * 256) && decide (q * 256 < r.winbase + 64 * r.count))))
    (chanHa ck r.winbase) (64 * r.count)

/-- R95: EN of register `n` is set, where the conditions hold. -/
def enableRegion (s : State) (ck n : Nat) : Option State :=
  let c := s.chan ck
  let r := cellGet {} c.regs n
  if decide (n < 8) && !r.en && regionOk c n r then some (s.setChan ck { c with regs := cellPut c.regs n { r with en := true } }) else none

/-- R95: EN of register `n` is cleared, after the dirty sectors of its window have been written back. -/
def disableRegion (s : State) (ck n : Nat) : State :=
  let r := cellGet {} (s.chan ck).regs n
  if !r.en then s
  else
    let s1 := flushRegion s ck r
    let c := s1.chan ck
    s1.setChan ck { c with regs := cellPut c.regs n { r with en := false } }

/-- FORMAT_REGION_ENABLE (R95): H firmware sets EN of register `index` of the channel `key`. -/
def execFormatRegionEnable (s : State) : Out := .next ((enableRegion s s.arg.key s.arg.index).getD s)

/-- FORMAT_REGION_DISABLE (R95): H firmware clears EN of register `index` of the channel `key`. -/
def execFormatRegionDisable (s : State) : Out := .next (disableRegion s s.arg.key s.arg.index)

/-- LANEMAP_APPLY (R55): the written RETIRED value of the core `key` takes effect once the core has no resident strand. -/
def execLanemapApply (s : State) : Out :=
  let c := s.core s.arg.key
  match c.pend with
  | none => .next s
  | some x =>
    if s.strands.any (fun t => t.tid ≠ 0 && coreKey t.pkg t.die t.core = s.arg.key) then .next s
    else .next (s.setCore s.arg.key { c with retired := x, pend := none })

end Sys2Proof.Machine
end

