-- ==== Sys2Proof/Machine/Events.lean ====
section
/-! DEFINITION. What happens to a strand other than by its own instructions: the release of an exiting task (spec/03_execution.md R49), traps at commit
boundaries (spec/23_traps.md R328, R336, R339; spec/17_vecmem.md R398), wakes and watermark pushes (spec/03_execution.md R61, R68), and the firmware
services that a TRAP at S calls (spec/25_edges.md R381). -/

namespace Sys2Proof.Machine

/-! EXIT (R49). -/

/-- R49: the queue of an exiting strand is empty, its counts are 0, and its blocking scalar stores have been answered (R398). Its collective runs have
ended too: they belong to the strand (R360), and their writes are its engines' (R146, R175; log entry 68). -/
def exitReady (s : State) (t : Strand) : Bool :=
  t.exiting && t.queue.isEmpty && t.cc.all (fun c => c.2.count == 0) && (liveRuns s t).isEmpty && !s.pieces.any (fun p => p.tid = t.tid && p.isPost)

/-- R49: some counter of the strand carries error bits. -/
def ccErrors (t : Strand) : Bool := t.cc.any (fun c => c.2.ue || c.2.revoked || c.2.timeout)

/-- The slots of a task's tile claims are free. -/
def freeClaims (s : State) (t : Strand) : State :=
  let dk := dieKey t.pkg t.die
  let d := s.die dk
  s.setDie dk { d with slots := d.slots.filter (fun n => !(t.claims.any (fun c => t.vi * 256 + c.slot == n))) }

/-- R49: a task leaves its core: its strand, lane groups, tiles, bindings, tile claims and its part of the region are free. -/
def leaveCore (s : State) (t : Strand) : State := dropRegion (freeStrand (freeClaims s t) t.tid) (coreKey t.pkg t.die t.core) t.lid

/-- R49: a task ends: its launch counts it, and strands that wait at a barrier look again. -/
def releaseTask (s : State) (t : Strand) : State :=
  let s2 := leaveCore s t
  let wake := fun (u : Strand) => if u.lid = t.lid && u.arrived then { u with parked := false } else u
  { s2.onStrands wake with
      launches := s2.launches.map (fun (l : Launch) =>
        if l.id = t.lid then { l with exited := l.exited + 1, codes := if ccErrors t then l.codes ++ [7] else l.codes } else l) }

/-- EXIT_RELEASE (R49): the task `key`, once it may end. A failed blocking store is reported first (R398). -/
def execExitRelease (s : State) : Out :=
  match s.task? s.arg.key with
  | none => .next s
  | some t => if exitReady s t && t.deferred.isEmpty then .next (releaseTask s t) else .next s

/-! Traps at a commit boundary. -/

/-- The engine operation at the head of the current strand's queue stops between two of its steps (R304, R64): its pass is settled before the queue
moves. -/
def settled (s : State) : State := settlePass s s.cpu

/-- R59: the head of the queue has started and waits for nothing but its own pieces, so it completes before a trap at a commit boundary moves it; or a
scalar access is on its way, so the strand stands at no commit boundary. -/
def headBusy (t : Strand) : Bool := midStep t || tripping t || t.queue.head?.any QEntry.awaits

/-- DEFERRED_STORE_TRAP (R398): the oldest failed blocking scalar store of the current strand traps at this commit boundary; the queue is handled as for
an asynchronous trap (R59). -/
def execDeferredStoreTrap (s : State) : Out :=
  match s.cpu.deferred with
  | [] => .next s
  | (c, va) :: rest =>
    if headBusy s.cpu then .next s else
    let s1 := (settled s).onCpu (fun t => { t with deferred := rest })
    .next (queueTrapTo s1 (trapTarget c.toNat s.cpu.level) c.toNat va s.cpu.pc)

/-- STEP_TRAP (R336, R328): an instruction has completed at the level to which the arming ERET returned. -/
def execStepTrap (s : State) : Out :=
  match s.cpu.stepArm with
  | none => .next s
  | some x =>
    if s.cpu.stepDone && !headBusy s.cpu then
      .next (queueTrapTo ((settled s).onCpu (fun t => { t with stepArm := none, stepDone := false })) (if s.cpu.level = .h then .h else x) causeStep 0 s.cpu.pc)
    else .next s

/-- R339: the event that a strand may take: its number in evp, if it takes one. -/
def pendingEvent (t : Strand) : Option Nat :=
  if t.level = .h || !t.trapS.ie then none else [0, 1, 2, 3].find? (fun i => (t.trapS.evp &&& t.trapS.evm).getLsbD i)

/-- The cause of an event (R200). -/
def eventCause (i : Nat) : Nat :=
  match i with
  | 0 => causeDoorbell
  | 1 => causeTimer
  | 2 => causeWatch
  | _ => causePreempt

/-- TVAL of an event (R339). -/
def eventTval (s : State) (i : Nat) : Word :=
  match i with
  | 0 => s.cpu.evDoorbell
  | 1 => BitVec.ofNat 64 (readSr s 0x071)
  | 2 => s.cpu.evWatch
  | _ => 0

/-- EVENT_TRAP (R339, R59): the current strand takes one enabled pending event at this commit boundary. -/
def execEventTrap (s : State) : Out :=
  match pendingEvent s.cpu with
  | none => .next s
  | some i =>
    if headBusy s.cpu then .next s else
    let s1 := (settled s).onCpu (fun t => { t with trapS := { t.trapS with evp := t.trapS.evp &&& ~~~(1#4 <<< i) } })
    .next (queueTrapTo s1 .s (eventCause i) (eventTval s i) s.cpu.pc)

/-- TIMER_DEADLINE (R339): time has reached the deadline of the task `key`. -/
def execTimerDeadline (s : State) : Out :=
  match s.task? s.arg.key with
  | none => .next s
  | some t =>
    if t.deadline ≠ 0 ∧ t.deadline.toNat ≤ s.time - (s.pkg t.pkg).resetAt then
      .next (s.onTask t.tid (fun u => { u with deadline := 0, trapS := { u.trapS with evp := u.trapS.evp ||| 2 } }))
    else .next s

/-- DOORBELL_WRITE (R339): the host writes offset `off` of the VI's doorbell page of package `pkg`. -/
def execDoorbellWrite (s : State) : Out :=
  if s.arg.off < 0x100 ∨ 0x1F8 < s.arg.off then .next s
  else
    .next (s.onStrands (fun t =>
      if t.tid ≠ 0 && t.vi = s.arg.vi && t.pkg = s.arg.pkg && t.trapS.evm.getLsbD 0 then
        { t with evDoorbell := BitVec.ofNat 64 s.arg.off, trapS := { t.trapS with evp := t.trapS.evp ||| 1 } }
      else t))

/-! Waking (R61, R68). -/

/-- WATCH_WAKE (R61): the waiters that have armed an entry for the home word `key` look again. -/
def execWatchWake (s : State) : Out :=
  .next (s.onStrands (fun t => if t.watched.contains s.arg.key then { t with parked := false } else t))

/-- R61, R354: a word watched by reading is read again: another value than the last makes WATCH pending. -/
def pollWatch (s : State) (t : Strand) : Strand :=
  match t.watch, t.watchSlow with
  | some w, some old =>
    let new := leNat (homeBytes s (8 * w) 8)
    if new = old then t else { t with trapS := { t.trapS with evp := t.trapS.evp ||| 4 }, evWatch := t.watchVa, watchSlow := some new }
  | _, _ => t

/-- WATCH_POLL (R61, R354): the strand `key`, some word of which found no watch entry, reads it again. -/
def execWatchPoll (s : State) : Out :=
  .next (s.onTask s.arg.key (fun t => if t.watchFull then { pollWatch s t with parked := false } else pollWatch s t))

/-- WATERMARK_PUSH (R68): the cell of link `index` of the subscribed task `key` has risen, and the strand looks again. -/
def execWatermarkPush (s : State) : Out :=
  match s.task? s.arg.key with
  | none => .next s
  | some t =>
    match t.links[s.arg.index]? with
    | none => .next s
    | some l =>
      if !l.sub then .next s
      else
        let w : Who := { vi := t.vi, pkg := t.pkg, die := t.die, core := t.core, level := .s, tlb := none }
        match readMem s w l.cell 8 0 .read with
        | .fault _ _ s1 => .next s1
        | .wait s1 => .next s1
        | .ok x s1 =>
          .next (s1.onTask t.tid (fun u =>
            if l.w < leNat x.bytes then { u with links := u.links.set s.arg.index { l with w := leNat x.bytes }, parked := false } else u))

/-! Firmware services (R381). -/

/-- The current strand stands in H after a TRAP at S with service number `n`. -/
def inService (s : State) (n : Nat) : Bool :=
  s.cpu.level = .h && s.cpu.trapH.cause.toNat == causeTrap && s.cpu.trapH.tval.toNat == n && s.cpu.trapH.plvl.toNat == 1

/-- R381: the service returns a status in g1 and a value in g2, and goes back behind the TRAP. -/
def endService (s : State) (status value : Nat) : Out :=
  .next (s.onCpu (fun t => returnFrom ((t.writeG 1 (BitVec.ofNat 64 status)).writeG 2 (BitVec.ofNat 64 value))))

/-- The home addresses of a range, where its pages follow one another in one channel: the first one. -/
def oneRun : List (Place × Nat) → Option Nat
  | [] => none
  | [(p, _)] => if p.kind = .pg then some p.ha else none
  | (p, n) :: (q, m) :: rest =>
    match oneRun ((q, m) :: rest) with
    | some ha => if p.kind = .pg && p.ha + n = ha then some p.ha else none
    | none => none

/-- R381: the three ranges of a region translated for the caller as writes. -/
def regionRanges (s : State) (w : Who) (count : Nat) : Acc (List (List (Place × Nat))) :=
  (rangeOf s w (s.cpu.readG 1) (64 * count) .write).andThen (fun a s1 =>
    (rangeOf s1 w (s.cpu.readG 2) (48 * count) .write).andThen (fun b s2 =>
      (rangeOf s2 w (s.cpu.readG 3) (2 * count) .write).andThen (fun c s3 => .ok [a, b, c] s3)))

/-- REGION_SET (R381, R95). -/
def execRegionSet (s : State) : Out :=
  if !inService s 0xF001 then .next s
  else
    let w : Who := { s.who .scalar with level := .s, tlb := none }
    let count := (s.cpu.readG 4).toNat
    if 2 ^ 24 ≤ count ∨ count = 0 then endService s 2 0
    else
      match regionRanges s w count with
      | .wait s1 => .next s1
      | .fault _ _ s1 => endService s1 3 0
      | .ok l s1 =>
        match l.map oneRun with
        | [some win, some pk, some hdr] =>
          (let ck := haChanKey win
           if haChanKey pk ≠ ck ∨ haChanKey hdr ≠ ck then endService s1 2 0
           else
             let c := s1.chan ck
             match (List.range 8).find? (fun n => !(cellGet {} c.regs n).en) with
             | none => endService s1 1 0
             | some n =>
               let r : FormatReg := { count := count, hdrbase := haOff hdr, pkbase := haOff pk, en := false, vi := s1.cpu.vi, winbase := haOff win }
               match enableRegion (s1.setChan ck { c with regs := cellPut c.regs n r }) ck n with
               | none => endService s1 2 0
               | some s2 => endService s2 0 (ck * 8 + n))
        | _ => endService s1 2 0

/-- REGION_CLEAR (R381, R95). -/
def execRegionClear (s : State) : Out :=
  if !inService s 0xF002 then .next s
  else
    let h := (s.cpu.readG 1).toNat
    let r := cellGet {} (s.chan (h / 8)).regs (h % 8)
    if !r.en || r.vi != s.cpu.vi then endService s 2 0 else endService (disableRegion s (h / 8) (h % 8)) 0 0

/-- The throttle steps of a package's dies: three bits each, die 0 lowest (R385). -/
def stepField (s : State) (pkg : Nat) : Nat := ((List.range 8).map (fun d => dieStep (s.die (dieKey pkg d)) * 2 ^ (3 * d))).foldl (· + ·) 0

/-- THROTTLE (R381). -/
def execThrottle (s : State) : Out := if inService s 0xF003 then endService s 0 (stepField s s.cpu.pkg) else .next s

/-- LANES (R381, R55). -/
def execLanes (s : State) : Out :=
  if !inService s 0xF004 then .next s
  else
    let d := (s.cpu.readG 1).toNat
    let c := (s.cpu.readG 2).toNat
    if 8 ≤ d ∨ 80 ≤ c then endService s 2 0 else endService s 0 (usableOf (s.core (coreKey s.cpu.pkg d c)).retired)

/-- R381: what the firmware does for the call at which the current strand stands: nothing here for an assigned service, status 0xFF for another. -/
def unassignedService (s : State) : Out :=
  let n := s.cpu.trapH.tval.toNat
  if 0xF000 ≤ n ∧ n ≤ 0xF0FF ∧ inService s n then endService s 0xFF 0 else .next s

end Sys2Proof.Machine
end

