-- ==== Sys2Proof/Machine/Launches.lean ====
section
/-! DEFINITION. Launches: the doorbell page (spec/03_execution.md R69, R70; spec/25_edges.md R380), the record and its checks (R35, R36, R41, R42, R46,
R66), placement (R43 to R45), after cells (R65). -/

namespace Sys2Proof.Machine

/-! The doorbell page. -/

/-- A refused write of a doorbell field (R70). -/
def refuseDoorbell (s : State) : State := pushLog s s.arg.pkg { time := 0, kind := .launch, addr := s.arg.value, vi := some s.arg.vi }

/-- TAIL (R69, R70): the host writes `value`. -/
def execTail (s : State) : Out :=
  let v := s.viPkg s.arg.pkg s.arg.vi
  let x := low 32 s.arg.value
  if (x + 2 ^ 32 - v.head) % 2 ^ 32 ≤ 2 ^ v.ringSize then .next (s.setViPkg s.arg.pkg s.arg.vi { v with tail := x })
  else .next (refuseDoorbell s)

/-- RING_SIZE (R70). -/
def execRingSize (s : State) : Out :=
  if 6 ≤ s.arg.value ∧ s.arg.value ≤ 16 then
    .next (s.setViPkg s.arg.pkg s.arg.vi { s.viPkg s.arg.pkg s.arg.vi with ringSize := s.arg.value })
  else .next (refuseDoorbell s)

/-- RING_BASE (R70). -/
def execRingBase (s : State) : Out :=
  if s.arg.value % 64 = 0 then
    .next (s.setViPkg s.arg.pkg s.arg.vi { s.viPkg s.arg.pkg s.arg.vi with ringBase := BitVec.ofNat 64 s.arg.value })
  else .next (refuseDoorbell s)

/-- IRQ (R380): writing 1 clears a bit. -/
def execIrq (s : State) : Out :=
  let v := s.viPkg s.arg.pkg s.arg.vi
  .next (s.setViPkg s.arg.pkg s.arg.vi { v with irq := v.irq &&& ~~~(BitVec.ofNat 2 s.arg.value) })

/-- APBASE (R380): 1 TiB aligned. -/
def execApbase (s : State) : Out :=
  .next (s.setViPkg s.arg.pkg s.arg.vi { s.viPkg s.arg.pkg s.arg.vi with apbase := BitVec.ofNat 64 (s.arg.value / 2 ^ 40 * 2 ^ 40) })

/-! The record (R35). -/

/-- A level entry (R41). -/
def levelEntryOf (b : List Byte) : LevelEntry :=
  { extent := fieldAt b 0 4, domain := fieldAt b 4 1, scope := fieldAt b 5 1, flags := fieldAt b 6 1, policy := fieldAt b 7 1 % 8,
    argReg := fieldAt b 7 1 / 8, reserved := fieldAt b 8 8 }

/-- A watermark link (R66), with its flags and its reserved word. -/
def linkOf (b : List Byte) : WmLink × Nat × Nat :=
  ({ base := BitVec.ofNat 64 (fieldAt b 0 8), bytes := BitVec.ofNat 64 (fieldAt b 8 8), cell := BitVec.ofNat 64 (fieldAt b 16 8),
     esize := fieldAt b 24 2, scope := fieldAt b 26 2 % 8 }, fieldAt b 26 2, fieldAt b 28 4)

/-- R35, R36: a record; levels and links beyond their counts are not read. -/
def recordOf (b : List Byte) : LaunchRec :=
  { magic := fieldAt b 0 4, version := fieldAt b 4 2, flags := fieldAt b 6 2, entry := BitVec.ofNat 64 (fieldAt b 8 8),
    kaddr := BitVec.ofNat 64 (fieldAt b 0x10 8), kcount := fieldAt b 0x18 2, nlevels := fieldAt b 0x1A 1, prio := fieldAt b 0x1B 1,
    scratch := fieldAt b 0x1C 4, nv := fieldAt b 0x20 1, ew := fieldAt b 0x21 1, groups := fieldAt b 0x22 1, tiles := fieldAt b 0x23 1,
    reserved := fieldAt b 0x24 4, done := BitVec.ofNat 64 (fieldAt b 0x28 8), pub := BitVec.ofNat 64 (fieldAt b 0x30 8),
    npub := fieldAt b 0x38 4, nlinks := fieldAt b 0x3C 4,
    levels := (List.range (min 8 (fieldAt b 0x1A 1))).map (fun i => levelEntryOf (b.drop (0x40 + 16 * i))),
    links := (List.range (min 4 (fieldAt b 0x3C 4))).map (fun i => linkOf (b.drop (0xC0 + 32 * i))),
    args := (List.range 24).map (fun i => BitVec.ofNat 64 (fieldAt b (0x140 + 8 * i) 8)) }

def powerSize (n : Nat) : Bool := n == 8 || n == 16 || n == 32 || n == 64

/-- R36: the fields of a level entry that refuse with REC_FORMAT. -/
def levelFormatOk (l : LevelEntry) : Bool := decide (l.flags < 4) && (l.policy == 2 || l.argReg == 0) && l.reserved == 0

/-- R66. -/
def linkFormatOk (x : WmLink × Nat × Nat) : Bool :=
  decide (1 ≤ x.1.bytes.toNat) && x.1.cell.toNat % 8 == 0 && decide (1 ≤ x.1.esize) && decide (x.2.1 ≤ 5) && x.2.2 == 0

/-- R35, R36: every field is legal. -/
def formatOk (r : LaunchRec) : Bool :=
  r.magic == 0x4E4C4244 && r.version == 1 && decide (r.flags ≤ 1) && r.entry.toNat % 8 == 0 && decide (r.kcount ≤ 256)
  && (r.kcount == 0 || r.kaddr.toNat % 8 == 0) && decide (1 ≤ r.nlevels) && decide (r.nlevels ≤ 8) && decide (r.prio ≤ 3)
  && r.scratch % 256 == 0 && decide (r.scratch ≤ 524288) && powerSize r.nv && powerSize r.ew && decide (1 ≤ r.groups) && decide (r.groups ≤ 16)
  && decide (r.tiles ≤ 4) && r.reserved == 0 && r.done.toNat % 8 == 0 && r.pub.toNat % 64 == 0 && decide (r.npub ≤ 4096)
  && (r.pub != 0 || r.npub == 0) && decide (r.nlinks ≤ 4) && r.levels.all levelFormatOk && r.links.all linkFormatOk

/-- The domain of a level's parent; the root is as wide as a system. -/
def parentDomain (r : LaunchRec) (i : Nat) : Nat := if i = 0 then 6 else ((r.levels[i - 1]?).map (·.domain)).getD 6

/-- R42: level `i` is legal. -/
def levelLegal (r : LaunchRec) (i : Nat) (l : LevelEntry) : Bool :=
  l.extent != 0 && decide (1 ≤ l.domain) && decide (l.domain ≤ 6) && decide (l.scope ≤ 5) && decide (l.domain ≤ parentDomain r i)
  && decide (l.domain ≤ l.scope + 1) && decide (l.policy ≤ 2)
  && (l.policy != 2 || (l.domain == 3 && decide (1 ≤ l.argReg) && decide (l.argReg ≤ 24) && decide (4 ≤ parentDomain r i)))

/-- R42. -/
def levelsLegal (r : LaunchRec) : Bool :=
  r.levels.zipIdx.all (fun x => levelLegal r x.2 x.1) && ((r.levels.getLast?).map (·.domain)) == some 1

/-! Placement (R43 to R45). -/

/-- R43: the packages of the root, in the order of the VI's node map. -/
def rootOf (s : State) (pkg vi : Nat) (r : LaunchRec) : List Nat :=
  if ((r.levels.head?).map (·.domain)).getD 1 ≥ 5 then
    ((List.range (low 23 (s.vi vi).nodecnt.toNat)).filterMap (nodeOf s pkg vi)).eraseDups
  else [pkg]

/-- An instance of a domain: its packages, and the coordinates below them that are fixed. -/
structure Area where
  pkgs : List Nat
  die  : Option Nat := none
  core : Option Nat := none
  slot : Option Nat := none
deriving DecidableEq, Repr

/-- R44: q of a core. -/
def coreCapacity (s : State) (r : LaunchRec) (p d c : Nat) : Nat :=
  let u := usableOf (s.core (coreKey p d c)).retired / max 1 r.groups
  if r.tiles = 0 then min 4 u else min (min 4 u) (4 / r.tiles)

def Area.dies (a : Area) : List Nat :=
  match a.die with
  | some d => [d]
  | none => List.range 8

def Area.cores (a : Area) : List Nat :=
  match a.core with
  | some c => [c]
  | none => List.range Config.coresPerDie

def Area.slots (a : Area) : List Nat :=
  match a.slot with
  | some x => [x]
  | none => List.range 4

/-- R44: the instances of domain `k` inside an area, in pack order. R45 takes cores without room out of n; a die or package all of whose cores are such stays in
it, and the tasks placed there never start (log entry 68). -/
def packOrder (s : State) (r : LaunchRec) (a : Area) (k : Nat) : List Area :=
  if k = 6 then [a]
  else if k = 5 then ((a.pkgs.map (· / 64)).eraseDups).map (fun x => { pkgs := a.pkgs.filter (fun p => p / 64 = x) })
  else
    a.pkgs.flatMap (fun p =>
      if k = 4 then [{ pkgs := [p] }]
      else a.dies.flatMap (fun d =>
        if k = 3 then [{ pkgs := [p], die := some d }]
        else a.cores.flatMap (fun c =>
          if coreCapacity s r p d c = 0 then []
          else if k = 2 then [{ pkgs := [p], die := some d, core := some c }]
          else (a.slots.filter (fun x => decide (x < coreCapacity s r p d c))).map (fun x => { pkgs := [p], die := some d, core := some c, slot := some x }))))

/-- R44: the same instances in spread order. -/
def spreadOrder (s : State) (r : LaunchRec) (a : Area) (k : Nat) : List Area :=
  if 4 ≤ k then packOrder s r a k
  else if k = 3 then a.dies.flatMap (fun d => a.pkgs.map (fun p => { pkgs := [p], die := some d }))
  else if k = 2 then
    a.cores.flatMap (fun c => a.dies.flatMap (fun d => (a.pkgs.filter (fun p => coreCapacity s r p d c ≠ 0)).map (fun p =>
      { pkgs := [p], die := some d, core := some c })))
  else
    a.slots.flatMap (fun x => a.cores.flatMap (fun c => a.dies.flatMap (fun d =>
      (a.pkgs.filter (fun p => decide (x < coreCapacity s r p d c))).map (fun p => { pkgs := [p], die := some d, core := some c, slot := some x }))))

/-- R44: the capacity of a domain instance, in tasks. -/
def areaCapacity (s : State) (r : LaunchRec) (a : Area) : Nat :=
  if a.slot.isSome then 1
  else (a.pkgs.flatMap (fun p => a.dies.flatMap (fun d => a.cores.map (fun c => coreCapacity s r p d c)))).foldl (· + ·) 0

/-- The tasks in one instance of level `i` (R45). -/
def innerTasks (r : LaunchRec) (i : Nat) : Nat := (r.levels.drop (i + 1)).foldl (fun n l => n * l.extent) 1

/-- The tasks of a launch. -/
def taskCount (r : LaunchRec) : Nat := r.levels.foldl (fun n l => n * l.extent) 1

/-- The index of a task's instance at level `i`, with the level-0 index most significant (R47). -/
def indexAt (r : LaunchRec) (task i : Nat) : Nat := task / innerTasks r i % ((r.levels[i]?).map (·.extent)).getD 1

/-- R45: the package of a home-affine level; none where the argument word names none of the root. -/
def homePackage (s : State) (pkg vi : Nat) (r : LaunchRec) (root : List Nat) (parent : Area) (i : Nat) (word : Word) : Option Nat :=
  if i ≠ 0 ∧ 5 ≤ parentDomain r i then (nodeOf s pkg vi (bitsOf word.toNat 61 40)).filter (fun p => root.contains p) else parent.pkgs.head?

/-- The smallest of some capacities (R45). -/
def leastCapacity : List Nat → Nat
  | [] => 0
  | n :: rest => rest.foldl min n

/-- R45: the domain instance of instance `j` of level `i`, inside its parent's. -/
def placeLevel (s : State) (pkg vi : Nat) (r : LaunchRec) (root : List Nat) (parent : Area) (i : Nat) (l : LevelEntry) (j : Nat) : Option Area :=
  match l.policy with
  | 0 =>
    (let a := spreadOrder s r parent l.domain
     if a.isEmpty then none else a[j % a.length]?)
  | 1 =>
    (let a := packOrder s r parent l.domain
     let least := leastCapacity (a.map (areaCapacity s r))
     let c := max 1 (least / innerTasks r i)
     if a.isEmpty then none else a[j / c % a.length]?)
  | _ =>
    (let word := r.args.getD (l.argReg - 1) 0
     (homePackage s pkg vi r root parent i word).map (fun p => { pkgs := [p], die := some (bitsOf word.toNat 39 37) }))

/-- The area of a task's instance, level by level; the list holds the levels still to place, from number `i` on. -/
def placeFrom (s : State) (pkg vi : Nat) (r : LaunchRec) (root : List Nat) (task : Nat) : Nat → List LevelEntry → Area → Option Area
  | _, [], a => some a
  | i, l :: rest, a =>
    match placeLevel s pkg vi r root a i l (indexAt r task i) with
    | none => none
    | some b => placeFrom s pkg vi r root task (i + 1) rest b

/-- A task's place: package, die, core, strand. -/
structure TaskPlace where
  pkg  : Nat
  die  : Nat
  core : Nat
  slot : Nat
deriving DecidableEq, Repr

def Area.place? (a : Area) : Option TaskPlace :=
  match a.pkgs, a.die, a.core, a.slot with
  | [p], some d, some c, some x => some { pkg := p, die := d, core := c, slot := x }
  | _, _, _, _ => none

/-- R43 to R45: where a task of a record runs. -/
def placeTask (s : State) (pkg vi : Nat) (r : LaunchRec) (task : Nat) : Option TaskPlace :=
  let root := rootOf s pkg vi r
  (placeFrom s pkg vi r root task 0 r.levels { pkgs := root }).bind Area.place?

/-- R45: the argument words of home-affine levels name packages of the root. -/
def homesOk (s : State) (pkg vi : Nat) (r : LaunchRec) : Bool :=
  let root := rootOf s pkg vi r
  r.levels.zipIdx.all (fun x => x.1.policy != 2
    || (homePackage s pkg vi r root { pkgs := root } x.2 (r.args.getD (x.1.argReg - 1) 0)).isSome)

/-- R46: some core of the root can take a task, and the scratchpad quota suffices. -/
def resourcesOk (s : State) (pkg vi : Nat) (r : LaunchRec) : Bool :=
  areaCapacity s r { pkgs := rootOf s pkg vi r } != 0 && decide (r.scratch ≤ (s.vi vi).quota)

/-- R46: one instance of level `i` fits an empty domain instance: no two of its tasks share a strand. Which instance is placed matters only where cores' USABLE
differ, and the rule does not say; the model takes the one that holds task 0 (log entry 68). -/
def instanceFits (s : State) (pkg vi : Nat) (r : LaunchRec) (i : Nat) : Bool :=
  let root := rootOf s pkg vi r
  match placeFrom s pkg vi r root 0 0 (r.levels.take (i + 1)) { pkgs := root } with
  | none => false
  | some a =>
    if areaCapacity s r a < innerTasks r i then false
    else
      let places := (List.range (innerTasks r i)).map (fun k => placeFrom s pkg vi r root k (i + 1) (r.levels.drop (i + 1)) a)
      places.all Option.isSome && places.eraseDups.length == places.length

/-- R46: every gang or barrier level fits. -/
def gangsFit (s : State) (pkg vi : Nat) (r : LaunchRec) : Bool := r.levels.zipIdx.all (fun x => x.1.flags == 0 || instanceFits s pkg vi r x.2)

/-! The completion record (R37). -/

/-- TIMER of a package (R339). -/
def timerOf (s : State) (pkg : Nat) : Nat := s.time - (s.pkg pkg).resetAt

/-- R36: a launch that is dropped counts in DROPS. -/
def countDrop (s : State) (pkg vi : Nat) : State :=
  let v := s.viPkg pkg vi
  s.setViPkg pkg vi { v with drops := v.drops + 1 }

/-- R37, R38: the completion record is written, and whether it was; where its address cannot be, the launch is dropped (R36). -/
def writeRecord (s : State) (pkg vi : Nat) (at_ : Word) (status exited first : Nat) : Acc Bool :=
  if misaligned at_ 8 then .ok false (countDrop s pkg vi)
  else
    match writeMem s (deviceWho pkg vi) .outside at_
        (leBytes 4 status ++ leBytes 4 0 ++ leBytes 8 exited ++ leBytes 8 first ++ leBytes 8 (timerOf s pkg)) false with
    | .ok _ s1 => .ok true s1
    | .fault _ _ s1 => .ok false (countDrop s1 pkg vi)
    | .wait s1 => .wait s1

/-- R35: NOTIFY raises the VI's completion interrupt after a completion record is written. -/
def notify (s : State) (pkg vi : Nat) (r : LaunchRec) (written : Bool) : State := if written && r.flags.testBit 0 then raiseIrq s pkg vi 0 else s

/-- R36: a refused launch. -/
def refuseLaunch (s : State) (pkg vi : Nat) (r : LaunchRec) (code : Nat) : Acc Unit :=
  (writeRecord s pkg vi r.done code 0 0).andThen (fun written s1 => .ok () (notify s1 pkg vi r written))

/-! Acceptance (R36, R69, R70). -/

/-- The device's own read for a VI (R395). -/
def deviceRead (s : State) (pkg vi : Nat) (va : Word) (n : Nat) : Acc (List Byte) :=
  if n = 0 then .ok [] s else (readMem s (deviceWho pkg vi) va n 0 .read).andThen (fun x s1 => .ok x.bytes s1)

/-- A read whose failure refuses the launch with REC_READ and is logged (R36). The rule has the record name "the address"; the model names the first byte of
the bank or header that was read, and of an after cell the address that faulted (log entry 68). -/
def recRead (s : State) (pkg vi : Nat) (r : LaunchRec) (va : Word) (n : Nat) (k : List Byte → State → Acc Unit) : Acc Unit :=
  match deviceRead s pkg vi va n with
  | .ok b s1 => k b s1
  | .wait s1 => .wait s1
  | .fault _ _ s1 => refuseLaunch (pushLog s1 pkg { time := 0, kind := .launch, addr := va.toNat, vi := some vi }) pkg vi r 10

/-- R39: the used after cells of a publish-list header. -/
def cellsOf (b : List Byte) : List (Word × Word) :=
  ((List.range 4).map (fun i => (BitVec.ofNat 64 (fieldAt b (16 * i) 8), BitVec.ofNat 64 (fieldAt b (16 * i + 8) 8)))).filter (fun x => x.1 ≠ 0)

/-- R36: an accepted launch joins the launches. -/
def addLaunch (s : State) (pkg vi : Nat) (r : LaunchRec) (kbank cells : List Byte) (floor : Nat) (direct : Bool) : State :=
  let (id_, s1) := s.fresh
  let used := cellsOf cells
  let l : Launch :=
    { id := id_, vi := vi, pkg := pkg, record := r, kbank := (List.range r.kcount).map (fun i => BitVec.ofNat 64 (fieldAt kbank (8 * i) 8)),
      cells := used, state := if used.isEmpty then .ready else .waitCells, cls := max r.prio floor, since := s.time, readyOrder := id_,
      tasks := taskCount r, started := [], exited := 0, first := 0, codes := [], gangs := [], reports := [], direct := direct }
  { s1 with launches := s1.launches ++ [l] }

/-- R36: a record that has been read is checked, and the launch refused or accepted. `floor` is the highest class it may take (R69). Where both REC_RESOURCE and
GANG_FIT apply the spec does not say which is written: the model writes REC_RESOURCE (DESIGN CHOICE, log entry 75). -/
def acceptRecord (s : State) (pkg vi : Nat) (b : List Byte) (floor : Nat) (direct : Bool) : Acc Unit :=
  let r := recordOf b
  if !formatOk r then refuseLaunch s pkg vi r 2
  else if !levelsLegal r || !homesOk s pkg vi r then refuseLaunch s pkg vi r 3
  else
    recRead s pkg vi r r.kaddr (8 * r.kcount) (fun kbank s1 =>
      recRead s1 pkg vi r r.pub (if r.pub = 0 then 0 else 64) (fun cells s2 =>
        if !resourcesOk s2 pkg vi r then refuseLaunch s2 pkg vi r 4
        else if !gangsFit s2 pkg vi r then refuseLaunch s2 pkg vi r 1
        else .ok () (addLaunch s2 pkg vi r kbank cells floor direct)))

/-- R386: the package accepts launches of the VI. -/
def acceptsFrom (s : State) (pkg vi : Nat) : Bool := (s.pkg pkg).stage == 4 || ((s.pkg pkg).stage == 3 && vi == 0)

/-- The ring has an entry that is not accepted (R69). -/
def ringPending (v : ViPkgSt) : Bool := v.head != v.tail

/-- R69: HEAD moves past an entry. -/
def advanceHead (s : State) (pkg vi : Nat) : State :=
  let v := s.viPkg pkg vi
  s.setViPkg pkg vi { v with head := (v.head + 1) % 2 ^ 32 }

/-- R70: a dropped launch, logged. -/
def dropLaunch (s : State) (pkg vi addr : Nat) : State := pushLog (countDrop s pkg vi) pkg { time := 0, kind := .launch, addr := addr, vi := some vi }

/-- R70: the oldest entry of the ring is read and its record checked. -/
def acceptRing (s : State) (pkg vi : Nat) : State :=
  let v := s.viPkg pkg vi
  match deviceRead s pkg vi (vaAdd v.ringBase (8 * (v.head % 2 ^ v.ringSize))) 8 with
  | .wait s1 => s1
  | .fault _ _ s1 => advanceHead (dropLaunch s1 pkg vi v.head) pkg vi
  | .ok e s1 =>
    let at_ : Word := BitVec.ofNat 64 (leNat e)
    if at_.toNat % 64 ≠ 0 then advanceHead (dropLaunch s1 pkg vi v.head) pkg vi
    else
      match deviceRead s1 pkg vi at_ 512 with
      | .wait s2 => s2
      | .fault _ _ s2 => advanceHead (dropLaunch s2 pkg vi v.head) pkg vi
      | .ok b s2 =>
        match acceptRecord s2 pkg vi b 0 false with
        | .ok _ s3 => advanceHead s3 pkg vi
        | .fault _ _ s3 => s3
        | .wait s3 => { s with pageIns := s3.pageIns }

/-- R355, R69: the oldest LAUNCH submission is read and checked. -/
def acceptSubmitted (s : State) (pkg vi : Nat) : State :=
  let v := s.viPkg pkg vi
  match v.submitted with
  | [] => s
  | (at_, cls) :: rest =>
    let taken := fun (st : State) => st.setViPkg pkg vi { st.viPkg pkg vi with submitted := rest }
    match deviceRead s pkg vi at_ 512 with
    | .wait s1 => s1
    | .fault _ _ s1 => taken (dropLaunch s1 pkg vi at_.toNat)
    | .ok b s1 =>
      match acceptRecord s1 pkg vi b cls true with
      | .ok _ s2 => taken s2
      | .fault _ _ s2 => s2
      | .wait s2 => { s with pageIns := s2.pageIns }

/-- R394: a host write over the package's link has arrived and is not yet accepted at its home. -/
def hostWriteWaits (s : State) (pkg : Nat) : Bool := s.hostWaits.any (fun x => x.2 && x.1.pkg = pkg)

/-- LAUNCH_ACCEPT (R36, R69, R70, R355, R394): the device accepts the next launch of the VI on the package: from the ring, once the host's writes have been
accepted, or from the LAUNCH submissions. -/
def execLaunchAccept (s : State) : Out :=
  let pkg := s.arg.pkg
  let vi := s.arg.vi
  if !acceptsFrom s pkg vi then .next s
  else if s.arg.submitted then .next (acceptSubmitted s pkg vi)
  else if ringPending (s.viPkg pkg vi) && !hostWriteWaits s pkg then .next (acceptRing s pkg vi) else .next s

/-! After cells (R65). -/

/-- The launch with a number. -/
def launch? (s : State) (id_ : Nat) : Option Launch := s.launches.find? (fun (l : Launch) => l.id = id_)

def onLaunch (s : State) (id_ : Nat) (f : Launch → Launch) : State := { s with launches := s.launches.map (fun (l : Launch) => if l.id = id_ then f l else l) }

def dropLaunchEntry (s : State) (id_ : Nat) : State := { s with launches := s.launches.filter (fun (l : Launch) => l.id ≠ id_) }

/-- R65: every used cell is at least its value. -/
def cellsReady (pkg vi : Nat) : State → List (Word × Word) → Acc Bool
  | s, [] => .ok true s
  | s, (va, x) :: rest =>
    (deviceRead s pkg vi va 8).andThen (fun b s1 => (cellsReady pkg vi s1 rest).andThen (fun more s2 => .ok (decide (x.toNat ≤ leNat b) && more) s2))

/-- AFTER_CELLS_READY (R65, R36). -/
def execAfterCellsReady (s : State) : Out :=
  match launch? s s.arg.key with
  | none => .next s
  | some l =>
    if l.state ≠ .waitCells then .next s
    else
      match cellsReady l.pkg l.vi s l.cells with
      | .wait s1 => .next s1
      | .ok ready s1 =>
        if ready then
          (let (n, s2) := s1.fresh
           .next (onLaunch s2 l.id (fun x => { x with state := .ready, since := s2.time, readyOrder := n })))
        else .next s1
      | .fault _ va s1 =>
        match refuseLaunch (pushLog s1 l.pkg { time := 0, kind := .launch, addr := va.toNat, vi := some l.vi }) l.pkg l.vi l.record 10 with
        | .ok _ s2 => .next (dropLaunchEntry s2 l.id)
        | .fault _ _ s2 => .next s2
        | .wait s2 => .next { s with pageIns := s2.pageIns }

end Sys2Proof.Machine
end

