-- ==== Sys2Proof/Machine/ScalarFloat.lean ====
section
/-! DEFINITION. The scalar floating-point instructions (spec/13_scalar.md R217, R220 to R222). -/

namespace Sys2Proof.Machine

/-- R105, R106: the abandoned-result pattern that a g register holds as an operand of type `t`, if any. -/
def abnOf (t x : Nat) : Option Nat := if t == 10 && isAbn (low 32 x) then some (low 32 x) else none

/-- R106: a scalar floating instruction: an ABN among its operands traps ABN_OPERAND with the pattern, element index 0; otherwise D receives
the result and FPFLAGS the flags. -/
def floatDone (o : Ops) (s : State) (abns : List (Option Nat)) (r : Nat × Flags) : Out :=
  match abns.find? Option.isSome with
  | some (some x) => .next (scalarTrap s causeAbn (BitVec.ofNat 64 x))
  | some none => scalarDone o s (BitVec.ofNat 64 r.1) r.2
  | none => scalarDone o s (BitVec.ofNat 64 r.1) r.2

/-- The pattern of a g register at the width of type `t` (R217). -/
def floatG (s : State) (t n : Nat) : Nat := low (typeWidth t) (s.cpu.readG n).toNat

/-- Operand B as a floating value, with its ABN (R181, R182). -/
def floatB (s : State) (o : Ops) : Nat × Option Nat := operandFp s.cpu.readG s.cpu.readK o.T o.b

/-- R217: a two-operand form on values. -/
def floatBinary (o : Ops) (s : State) (f : Fmt → Nat → FVal → FVal → Nat × Flags) : Out :=
  let fmt := fmtOf o.T
  let a := floatG s o.T o.A
  let (b, abn) := floatB s o
  floatDone o s [abnOf o.T a, abn] (f fmt s.cpu.fpmode (fdecode fmt a) (fdecode fmt b))

/-- A one-operand form on a pattern. -/
def floatUnary (o : Ops) (s : State) (f : Fmt → Nat → Nat → Nat × Flags) : Out :=
  let a := floatG s o.T o.A
  floatDone o s [abnOf o.T a] (f (fmtOf o.T) s.cpu.fpmode a)

/-- FADD (R220). -/
def execFadd (o : Ops) (s : State) : Out := floatBinary o s addVal
/-- FSUB (R220). -/
def execFsub (o : Ops) (s : State) : Out := floatBinary o s (fun f rm a b => addVal f rm a b.flip)
/-- FMUL (R220). -/
def execFmul (o : Ops) (s : State) : Out := floatBinary o s mulVal
/-- FFMA (R220). -/
def execFfma (o : Ops) (s : State) : Out :=
  let fmt := fmtOf o.T
  let a := floatG s o.T o.A
  let (b, abn) := floatB s o
  let c := floatG s o.T o.C
  floatDone o s [abnOf o.T a, abn, abnOf o.T c] (fmaVal fmt s.cpu.fpmode (fdecode fmt a) (fdecode fmt b) (fdecode fmt c))
/-- FDIV (R220). -/
def execFdiv (o : Ops) (s : State) : Out := floatBinary o s divVal
/-- FSQRT (R220). -/
def execFsqrt (o : Ops) (s : State) : Out := floatUnary o s (fun f rm a => sqrtVal f rm (fdecode f a))
/-- FMIN (R220, R84). -/
def execFmin (o : Ops) (s : State) : Out :=
  let a := floatG s o.T o.A
  let (b, abn) := floatB s o
  floatDone o s [abnOf o.T a, abn] (minMaxVal (fmtOf o.T) false a b)
/-- FMAX (R220, R84). -/
def execFmax (o : Ops) (s : State) : Out :=
  let a := floatG s o.T o.A
  let (b, abn) := floatB s o
  floatDone o s [abnOf o.T a, abn] (minMaxVal (fmtOf o.T) true a b)
/-- FCMP (R220, R84, R187). -/
def execFcmp (o : Ops) (s : State) : Out :=
  floatBinary o s (fun _ _ a b => let (r, fl) := condFp o.C a b; (if r then 1 else 0, fl))
/-- FCVT (R221, R90). The source type is C. -/
def execFcvt (o : Ops) (s : State) : Out :=
  let a := floatG s o.C o.A
  floatDone o s [abnOf o.C a] (fcvtOp o.C o.T (convRm o.rmScalar s.cpu.fpmode) a)
/-- FCVTI (R221, R84). -/
def execFcvti (o : Ops) (s : State) : Out :=
  let a := floatG s o.C o.A
  let (x, fl) := fcvtiOp o.C o.T (convRm o.rmScalar s.cpu.fpmode) a
  floatDone o s [abnOf o.C a] (extendTo 64 o.T x, fl)
/-- ICVTF (R221, R84, R90). -/
def execIcvtf (o : Ops) (s : State) : Out :=
  floatDone o s [] (icvtfOp o.C o.T (convRm o.rmScalar s.cpu.fpmode) (floatG s o.C o.A))
/-- FABS (R220). -/
def execFabs (o : Ops) (s : State) : Out := floatUnary o s (fun f _ a => signOp f false a)
/-- FNEG (R220). -/
def execFneg (o : Ops) (s : State) : Out := floatUnary o s (fun f _ a => signOp f true a)
/-- FCLASS (R222). -/
def execFclass (o : Ops) (s : State) : Out := scalarDone o s (BitVec.ofNat 64 (2 ^ fclassBit o.T (floatG s o.T o.A))) flagNone
/-- FABN (R222). -/
def execFabn (o : Ops) (s : State) : Out :=
  let a := floatG s 10 o.A
  scalarDone o s (if isAbn a then BitVec.ofNat 64 (0x100 + a % 256) else 0) flagNone

end Sys2Proof.Machine
end

