-- ==== Sys2Proof/Machine/VectorFloat.lean ====
section
/-! DEFINITION. The vector floating-point and L8 instructions, reductions and dot products (spec/15_vector.md R242 to R247, spec/05_numbers.md R99 to R106). -/

namespace Sys2Proof.Machine

/-- The ABN among operands a and b of an element. -/
def abnAB (o : Ops) (s : State) (k : Nat) : Option Nat := firstAbn [elemAbn s.cpu o.T o.A k, bAbn s o k]

/-- A two-operand form on values (R242). -/
def vFpBinary (i : Instr) (o : Ops) (s : State) (f : Fmt → Nat → FVal → FVal → Nat × Flags) : Out :=
  let fmt := fmtOf o.T
  vectorOp i o [o.T] o.mn s
    (fun k =>
      let r := f fmt s.srcRm (fdecode fmt (elemOf s.cpu o.T o.A k)) (fdecode fmt (bElem s o o.T k))
      { val := r.1, flags := r.2, abn := abnAB o s k }) (putV o)

/-- A one-operand form on a pattern. -/
def vFpUnary (i : Instr) (o : Ops) (s : State) (f : Fmt → Nat → Nat → Nat × Flags) : Out :=
  vectorOp i o [o.T] o.mn s
    (fun k =>
      let r := f (fmtOf o.T) s.srcRm (elemOf s.cpu o.T o.A k)
      { val := r.1, flags := r.2, abn := elemAbn s.cpu o.T o.A k }) (putV o)

/-- A fused form: `f` on a, b and c. -/
def vFpFused (i : Instr) (o : Ops) (s : State) (negate : Bool) : Out :=
  let fmt := fmtOf o.T
  vectorOp i o [o.T] false s
    (fun k =>
      let a := fdecode fmt (elemOf s.cpu o.T o.A k)
      let r := fmaVal fmt s.srcRm (if negate then a.flip else a) (fdecode fmt (bElem s o o.T k)) (fdecode fmt (elemOf s.cpu o.T o.C k))
      { val := r.1, flags := r.2, abn := firstAbn [elemAbn s.cpu o.T o.A k, bAbn s o k, elemAbn s.cpu o.T o.C k] }) (putV o)

/-- VFADD (R242). -/
def execVfadd (o : Ops) (s : State) : Out := vFpBinary (.vfadd o) o s addVal
/-- VFSUB (R242). -/
def execVfsub (o : Ops) (s : State) : Out := vFpBinary (.vfsub o) o s (fun f rm a b => addVal f rm a b.flip)
/-- VFMUL (R242). -/
def execVfmul (o : Ops) (s : State) : Out := vFpBinary (.vfmul o) o s mulVal
/-- VFMA (R242). -/
def execVfma (o : Ops) (s : State) : Out := vFpFused (.vfma o) o s false
/-- VFNMA (R242). -/
def execVfnma (o : Ops) (s : State) : Out := vFpFused (.vfnma o) o s true
/-- VFDIV (R242). -/
def execVfdiv (o : Ops) (s : State) : Out := vFpBinary (.vfdiv o) o s divVal
/-- VFSQRT (R242). -/
def execVfsqrt (o : Ops) (s : State) : Out := vFpUnary (.vfsqrt o) o s (fun f rm a => sqrtVal f rm (fdecode f a))

/-- VFMIN and VFMAX (R242, R84). -/
def vMinMax (i : Instr) (o : Ops) (s : State) (max : Bool) : Out :=
  vectorOp i o [o.T] o.mn s
    (fun k =>
      let r := minMaxVal (fmtOf o.T) max (elemOf s.cpu o.T o.A k) (bElem s o o.T k)
      { val := r.1, flags := r.2, abn := abnAB o s k }) (putV o)

/-- VFMIN (R242). -/
def execVfmin (o : Ops) (s : State) : Out := vMinMax (.vfmin o) o s false
/-- VFMAX (R242). -/
def execVfmax (o : Ops) (s : State) : Out := vMinMax (.vfmax o) o s true

/-- VFCMP (R242, R84, R187). -/
def execVfcmp (o : Ops) (s : State) : Out :=
  let fmt := fmtOf o.T
  vectorOp (.vfcmp o) o [o.T] false s
    (fun k =>
      let r := condFp o.C (fdecode fmt (elemOf s.cpu o.T o.A k)) (fdecode fmt (bElem s o o.T k))
      { val := boolNat r.1, flags := r.2, abn := abnAB o s k }) (putM o)

/-- A conversion from source type C (R243, R221). -/
def vConvert (i : Instr) (o : Ops) (s : State) (f : Nat → Nat → Nat → Nat → Nat × Flags) : Out :=
  vectorOp i o [o.C, o.T] false s
    (fun k =>
      let r := f o.C o.T (convRm o.rmVector s.srcRm) (elemOf s.cpu o.C o.A k)
      { val := r.1, flags := r.2, abn := elemAbn s.cpu o.C o.A k }) (putV o)

/-- VFCVT (R243). -/
def execVfcvt (o : Ops) (s : State) : Out := vConvert (.vfcvt o) o s fcvtOp
/-- VFCVTI (R243). -/
def execVfcvti (o : Ops) (s : State) : Out := vConvert (.vfcvti o) o s fcvtiOp
/-- VICVTF (R243). -/
def execVicvtf (o : Ops) (s : State) : Out := vConvert (.vicvtf o) o s icvtfOp
/-- VFABS (R242, R220). -/
def execVfabs (o : Ops) (s : State) : Out := vFpUnary (.vfabs o) o s (fun f _ a => signOp f false a)
/-- VFNEG (R242, R220). -/
def execVfneg (o : Ops) (s : State) : Out := vFpUnary (.vfneg o) o s (fun f _ a => signOp f true a)
/-- VFRECE (R244). -/
def execVfrece (o : Ops) (s : State) : Out := vFpUnary (.vfrece o) o s (fun f _ a => vfreceOp f (fdecode f a))
/-- VFRSQE (R244). -/
def execVfrsqe (o : Ops) (s : State) : Out := vFpUnary (.vfrsqe o) o s (fun f _ a => vfrsqeOp f (fdecode f a))

/-- VLMUL (R242, R88). -/
def execVlmul (o : Ops) (s : State) : Out :=
  vectorOp (.vlmul o) o [o.T] o.mn s
    (fun k =>
      let r := l8Mul (elemOf s.cpu o.T o.A k) (bElem s o o.T k)
      { val := r.1, flags := r.2 }) (putV o)

/-- VLADD (R242, R101, R100). -/
def execVladd (o : Ops) (s : State) : Out :=
  vectorOp (.vladd o) o [o.T] o.mn s
    (fun k =>
      let x := eaAdd (eaOf (elemOf s.cpu o.T o.A k)) (eaOf (bElem s o o.T k))
      let r := eaToL8 x.1
      { val := r.1, flags := r.2 ||| flagIf x.2 flagEO }) (putV o)

/-- VTSTABN (R242). -/
def execVtstabn (o : Ops) (s : State) : Out :=
  vectorOp (.vtstabn o) o [o.T] o.mn s (fun k => { val := boolNat (isAbn (elemOf s.cpu o.T o.A k)) }) (putM o)

/-! Reductions (R245, R246, R102). -/

/-- A partial sum of R102: absent, or an exact value. -/
abbrev Partial := Option FVal

/-- R102: Round(a + b) of two partial sums in a format, with its flags. -/
def joinSums (f : Fmt) (rm : Nat) (x y : Partial × Flags) : Partial × Flags :=
  match x.1, y.1 with
  | none, b => (b, x.2 ||| y.2)
  | a, none => (a, x.2 ||| y.2)
  | some a, some b =>
    let r := addVal f rm a b
    (some (fdecode f r.1), x.2 ||| y.2 ||| r.2)

/-- R102: PairSum over a list of positions; the first argument is at least ceil(log2 n). -/
def pairSum (f : Fmt) (rm : Nat) : Nat → List Partial → Partial × Flags
  | 0, l => (l.headD none, flagNone)
  | fuel + 1, l =>
    match l with
    | [] => (none, flagNone)
    | [x] => (x, flagNone)
    | _ =>
      -- the largest power of two below n
      let h := 2 ^ Nat.log2 (l.length - 1)
      joinSums f rm (pairSum f rm fuel (l.take h)) (pairSum f rm fuel (l.drop h))

/-- R102: the whole sum, rounded once more with the start value. No active element sums to +0. -/
def sumFrom (f : Fmt) (rm : Nat) (l : List Partial) (start : FVal) : Nat × Flags :=
  let x := pairSum f rm 17 l
  let r := addVal f rm (x.1.getD (.fin false 0 0)) start
  (r.1, x.2 ||| r.2)

/-- The start value at position 0 to VL - 1: `g i` where element i is active. -/
def positions (s : State) (o : Ops) (g : Nat → FVal) : List Partial :=
  (List.range s.cpu.vl).map (fun i => if activeAt s.cpu o.M false o.q i then some (g i) else none)

/-- R106: a reduction traps without a result, with VSTART 0: the start value first, then the lowest active element. -/
def reduceAbn (s : State) (o : Ops) (start : Option Nat) (e : Nat → Option Nat) (k : Out) : Out :=
  match start with
  | some x => .next (queuedTrap (s.onCpu (fun t => { t with vstart := 0 })) causeAbn (abnTval x 0))
  | none =>
    match (activeList s.cpu o false).find? (fun i => (e i).isSome) with
    | some i => .next (queuedTrap (s.onCpu (fun t => { t with vstart := 0 })) causeAbn (abnTval ((e i).getD 0) i))
    | none => k

/-- A reduction completes: G[D] receives the result. With VL = 0 no flag is set (R235, R245). -/
def reduceDone (o : Ops) (s : State) (x : Word) (fl : Flags) : Out :=
  .next (s.retire (fun t => (t.writeG o.D x).orFlags (if t.vl = 0 then flagNone else fl)))

/-- The values of the active elements of vA under an integer type. -/
def activeInts (s : State) (o : Ops) : List Int := (activeList s.cpu o false).map (fun i => intOf o.T (elemOf s.cpu o.T o.A i))

/-- The scalar operand b under an integer type. -/
def startInt (s : State) (o : Ops) : Int := intOf o.T (s.srcB o.b).toNat

/-- An integer result kept to the type's width and extended (R245, R216). -/
def reduceInt (o : Ops) (s : State) (x : Int) : Out := reduceDone o s (extendG o.T (wrapInt (typeWidth o.T) x)) flagNone

/-- R106, R181, R182, R246: the ABN that the start value of a reduction is: at `.f32` any, at the other types an F20 or a literal. -/
def startAbn (o : Ops) (b : Nat × Option Nat) : Option Nat := if o.T = 10 || o.b.f32Pattern.isSome then b.2 else none

/-- VREDSUM (R246, R102). Under .bf16 and .f16 the start value, the sum and the result are binary32. -/
def execVredsum (o : Ops) (s : State) : Out :=
  atHead (.vredsum o) [o.T] s
    (if o.T < 8 then reduceInt o s ((activeInts s o).foldl (· + ·) (startInt s o))
     else
       let t := if o.T = 11 then 11 else 10
       let f := fmtOf t
       let b := operandFp s.srcG s.srcK t o.b
       reduceAbn s o (startAbn o b) (elemAbn s.cpu o.T o.A)
         (let r := sumFrom f s.srcRm (positions s o (fun i => fdecode (fmtOf o.T) (elemOf s.cpu o.T o.A i))) (fdecode f b.1)
          reduceDone o s (BitVec.ofNat 64 r.1) r.2))

/-- R246, R83: VREDMIN and VREDMAX; a result that is a NaN is the canonical one. -/
def reduceMinMax (i : Instr) (o : Ops) (s : State) (max : Bool) : Out :=
  atHead i [o.T] s
    (if o.T < 8 then
       reduceInt o s ((activeInts s o).foldl (fun a x => if max then (if a ≤ x then x else a) else (if a ≤ x then a else x)) (startInt s o))
     else
       let b := operandFp s.srcG s.srcK o.T o.b
       let f := fmtOf o.T
       reduceAbn s o (startAbn o b) (elemAbn s.cpu o.T o.A)
         (let r := (activeList s.cpu o false).foldl (fun (acc : Nat × Flags) k =>
              let y := minMaxVal f max acc.1 (elemOf s.cpu o.T o.A k)
              (y.1, acc.2 ||| y.2)) (b.1, flagIf (fdecode f b.1).isSignalling flagNV)
          reduceDone o s (BitVec.ofNat 64 (if (fdecode f r.1).isNan then f.nan else r.1)) r.2))

/-- VREDMIN (R246). -/
def execVredmin (o : Ops) (s : State) : Out := reduceMinMax (.vredmin o) o s false
/-- VREDMAX (R246). -/
def execVredmax (o : Ops) (s : State) : Out := reduceMinMax (.vredmax o) o s true

/-- VREDBIT (R246): op 0 and, 1 or, 2 xor. -/
def execVredbit (o : Ops) (s : State) : Out :=
  atHead (.vredbit o) [o.T] s
    (reduceDone o s
      (extendG o.T ((activeList s.cpu o false).foldl (fun acc i =>
        let x := elemOf s.cpu o.T o.A i
        if o.C = 0 then acc &&& x else if o.C = 1 then acc ||| x else acc ^^^ x) (low (typeWidth o.T) (s.srcB o.b).toNat))) flagNone)

/-- R102, R82: the exact product of two elements; an invalid one stands as a NaN, and its flag is set. -/
def exactProduct (f : Fmt) (a b : Nat) : FVal × Flags :=
  let x := fdecode f a
  let y := fdecode f b
  if x.isNan || y.isNan then (.nan (x.isSignalling || y.isSignalling), flagNone)
  else match mulExact x y with
    | some v => (v, flagNone)
    | none => (.nan false, flagNV)

/-- VDOT (R247, R102, R99). -/
def execVdot (o : Ops) (s : State) : Out :=
  let u := s.cpu
  let act := activeList u o false
  let a := fun i => elemOf u o.T o.A i
  let b := fun i => elemOf u o.T o.B i
  atHead (.vdot o) [o.T] s
    (if o.T < 8 then
       reduceInt o s (act.foldl (fun acc i => acc + intOf o.T (a i) * intOf o.T (b i)) (intOf o.T (s.srcG o.C).toNat))
     else if o.T = 12 then
       let r := act.foldl (fun (acc : Int × Bool) i =>
         let y := eaAdd acc.1 (eaProd (a i) (b i))
         (y.1, acc.2 || y.2)) (0, false)
       let z := eaToFmt fmt32 r.1
       reduceDone o s (BitVec.ofNat 64 z.1) (z.2 ||| flagIf r.2 flagEO)
     else
       let t := if o.T = 11 then 11 else 10
       let f := fmtOf t
       let c := low (typeWidth t) (s.srcG o.C).toNat
       reduceAbn s o (if o.T = 10 ∧ isAbn c then some c else none) (fun i => firstAbn [elemAbn u o.T o.A i, elemAbn u o.T o.B i])
         (let r := sumFrom f s.srcRm (positions s o (fun i => (exactProduct (fmtOf o.T) (a i) (b i)).1)) (fdecode f c)
          reduceDone o s (BitVec.ofNat 64 r.1) (act.foldl (fun acc i => acc ||| (exactProduct (fmtOf o.T) (a i) (b i)).2) r.2)))

end Sys2Proof.Machine
end

