-- ==== Sys2Proof/Machine/ScalarInteger.lean ====
section
/-! DEFINITION. The scalar integer instructions (spec/13_scalar.md R215 to R219). -/

namespace Sys2Proof.Machine

/-- R216, R217: a two-operand typed integer form: `f` on the operands' values, kept to the type's width and extended. -/
def intBinary (o : Ops) (s : State) (f : Int → Int → Int) : Out :=
  let t := o.T
  scalarDone o s (extendG t (wrapInt (typeWidth t) (f (intOf t (s.cpu.readG o.A).toNat) (intOf t (s.opB o.b).toNat)))) flagNone

/-- R216: a two-operand typed form on bit patterns of the type's width `w`. -/
def bitBinary (o : Ops) (s : State) (f : Nat → Nat → Nat → Nat) : Out :=
  let t := o.T
  let w := typeWidth t
  scalarDone o s (extendG t (low w (f w (low w (s.cpu.readG o.A).toNat) (low w (s.opB o.b).toNat)))) flagNone

/-- R216: a one-operand typed form on a bit pattern of the type's width. -/
def bitUnary (o : Ops) (s : State) (f : Nat → Nat → Nat) : Out :=
  let t := o.T
  let w := typeWidth t
  scalarDone o s (extendG t (low w (f w (low w (s.cpu.readG o.A).toNat)))) flagNone

/-- R216: an untyped form on all 64 bits. -/
def wordBinary (o : Ops) (s : State) (f : Word → Word → Word) : Out :=
  scalarDone o s (f (s.cpu.readG o.A) (s.opB o.b)) flagNone

/-- R79: the shift amount. -/
def shiftBy (w b : Nat) : Nat := b % w

/-- R218, R79: the high `w` bits of the product. -/
def highProduct (w : Nat) (a b : Int) : Int := (a * b) / ((2 ^ w : Nat) : Int)

/-- R218: bit `w - 1` enters a right shift. -/
def sarBits (w a n : Nat) : Nat := wrapInt w (signedOf w a / ((2 ^ n : Nat) : Int))

/-- R218: rotation left of `w` bits. -/
def rolBits (w a n : Nat) : Nat := low w (a * 2 ^ n + a / 2 ^ (w - n))

/-- ADD (R218). -/
def execAdd (o : Ops) (s : State) : Out := intBinary o s (fun a b => a + b)
/-- SUB (R218). -/
def execSub (o : Ops) (s : State) : Out := intBinary o s (fun a b => a - b)
/-- MUL (R218). -/
def execMul (o : Ops) (s : State) : Out := intBinary o s (fun a b => a * b)
/-- MULH (R218, R79). -/
def execMulh (o : Ops) (s : State) : Out := intBinary o s (highProduct (typeWidth o.T))
/-- DIV (R218, R78). -/
def execDiv (o : Ops) (s : State) : Out := intBinary o s divInt
/-- REM (R218, R78). -/
def execRem (o : Ops) (s : State) : Out := intBinary o s remInt
/-- AND (R218). -/
def execAnd (o : Ops) (s : State) : Out := wordBinary o s (fun a b => a &&& b)
/-- OR (R218). -/
def execOr (o : Ops) (s : State) : Out := wordBinary o s (fun a b => a ||| b)
/-- XOR (R218). -/
def execXor (o : Ops) (s : State) : Out := wordBinary o s (fun a b => a ^^^ b)
/-- ANDN (R218). -/
def execAndn (o : Ops) (s : State) : Out := wordBinary o s (fun a b => a &&& ~~~b)
/-- SHL (R218, R79). -/
def execShl (o : Ops) (s : State) : Out := bitBinary o s (fun w a b => a * 2 ^ shiftBy w b)
/-- SHR (R218, R79). -/
def execShr (o : Ops) (s : State) : Out := bitBinary o s (fun w a b => a / 2 ^ shiftBy w b)
/-- SAR (R218, R79). -/
def execSar (o : Ops) (s : State) : Out := bitBinary o s (fun w a b => sarBits w a (shiftBy w b))
/-- ROL (R218, R79). -/
def execRol (o : Ops) (s : State) : Out := bitBinary o s (fun w a b => rolBits w a (shiftBy w b))
/-- MIN (R218). -/
def execMin (o : Ops) (s : State) : Out := intBinary o s (fun a b => if a ≤ b then a else b)
/-- MAX (R218). -/
def execMax (o : Ops) (s : State) : Out := intBinary o s (fun a b => if a ≤ b then b else a)
/-- CMP (R218, R187). The 1 or 0 is the whole register. -/
def execCmp (o : Ops) (s : State) : Out :=
  scalarDone o s (if condInt o.C (intOf o.T (s.cpu.readG o.A).toNat) (intOf o.T (s.opB o.b).toNat) then 1 else 0) flagNone
/-- SEL (R218). -/
def execSel (o : Ops) (s : State) : Out :=
  wordBinary o s (fun a b => if s.cpu.readG o.C ≠ 0 then a else b)
/-- CLZ (R218). -/
def execClz (o : Ops) (s : State) : Out := bitUnary o s clz
/-- CTZ (R218). -/
def execCtz (o : Ops) (s : State) : Out := bitUnary o s ctz
/-- POPC (R218). -/
def execPopc (o : Ops) (s : State) : Out := bitUnary o s popc
/-- EXT (R218). -/
def execExt (o : Ops) (s : State) : Out := bitUnary o s (fun _ a => a)
/-- ADDSH (R218). -/
def execAddsh (o : Ops) (s : State) : Out := wordBinary o s (fun a b => a + (b <<< o.C))
/-- R219: the field of `len` bits at `pos` of a word. -/
def fieldOf (a : Word) (pos len : Nat) : Nat := low len (a.toNat / 2 ^ pos)
/-- BFX (R219). -/
def execBfx (o : Ops) (s : State) : Out :=
  wordBinary o s (fun a b =>
    let len := o.C + 1
    let f := fieldOf a (b.toNat % 64) len
    BitVec.ofNat 64 (if typeSigned o.T then wrapInt 64 (signedOf len f) else f))
/-- BFI (R219). -/
def execBfi (o : Ops) (s : State) : Out :=
  wordBinary o s (fun a b =>
    let mask : Word := BitVec.ofNat 64 (2 ^ (o.C + 1) - 1) <<< (b.toNat % 64)
    (s.cpu.readG o.D &&& ~~~mask) ||| ((a <<< (b.toNat % 64)) &&& mask))
/-- LI (R218). -/
def execLi (o : Ops) (s : State) : Out := wordBinary o s (fun _ b => b)
/-- LIH (R218). -/
def execLih (o : Ops) (s : State) : Out :=
  wordBinary o s (fun _ b => (b <<< 32) ||| (s.cpu.readG o.D &&& 0xFFFFFFFF))
/-- MOV (R218). -/
def execMov (o : Ops) (s : State) : Out := wordBinary o s (fun _ b => b)
/-- ABS (R218). -/
def execAbs (o : Ops) (s : State) : Out := bitUnary o s (fun w a => wrapInt w (signedOf w a).natAbs)
/-- MADD (R218). -/
def execMadd (o : Ops) (s : State) : Out :=
  intBinary o s (fun a b => a * b + intOf o.T (s.cpu.readG o.C).toNat)

end Sys2Proof.Machine
end

