-- ==== Sys2Proof/Machine/VectorInteger.lean ====
section
/-! DEFINITION. The vector integer instructions (spec/15_vector.md R240, R241). -/

namespace Sys2Proof.Machine

/-- A two-operand form on values, kept to the type's width. -/
def vIntBinary (i : Instr) (o : Ops) (s : State) (f : Int → Int → Int) : Out :=
  vectorOp i o [o.T] o.mn s
    (fun k => { val := wrapInt (typeWidth o.T) (f (intOf o.T (elemOf s.cpu o.T o.A k)) (intOf o.T (bElem s o o.T k))) }) (putV o)

/-- A two-operand form on patterns of the type's width. -/
def vBitBinary (i : Instr) (o : Ops) (s : State) (f : Nat → Nat → Nat → Nat) : Out :=
  vectorOp i o [o.T] o.mn s
    (fun k => { val := low (typeWidth o.T) (f (typeWidth o.T) (elemOf s.cpu o.T o.A k) (bElem s o o.T k)) }) (putV o)

/-- A one-operand form on a pattern of the type's width. -/
def vBitUnary (i : Instr) (o : Ops) (s : State) (f : Nat → Nat → Nat) : Out :=
  vectorOp i o [o.T] o.mn s (fun k => { val := low (typeWidth o.T) (f (typeWidth o.T) (elemOf s.cpu o.T o.A k)) }) (putV o)

/-- VADD (R240). -/
def execVadd (o : Ops) (s : State) : Out := vIntBinary (.vadd o) o s (fun a b => a + b)
/-- VSUB (R240). -/
def execVsub (o : Ops) (s : State) : Out := vIntBinary (.vsub o) o s (fun a b => a - b)
/-- VMUL (R240). -/
def execVmul (o : Ops) (s : State) : Out := vIntBinary (.vmul o) o s (fun a b => a * b)
/-- VMULH (R240, R79). -/
def execVmulh (o : Ops) (s : State) : Out := vIntBinary (.vmulh o) o s (highProduct (typeWidth o.T))
/-- VDIV (R240, R78). -/
def execVdiv (o : Ops) (s : State) : Out := vIntBinary (.vdiv o) o s divInt
/-- VREM (R240, R78). -/
def execVrem (o : Ops) (s : State) : Out := vIntBinary (.vrem o) o s remInt
/-- VMADD (R240). -/
def execVmadd (o : Ops) (s : State) : Out :=
  vectorOp (.vmadd o) o [o.T] false s
    (fun k => { val := low (typeWidth o.T) (elemOf s.cpu o.T o.A k * bElem s o o.T k + elemOf s.cpu o.T o.C k) }) (putV o)
/-- VAND (R240). -/
def execVand (o : Ops) (s : State) : Out := vBitBinary (.vand o) o s (fun _ a b => a &&& b)
/-- VOR (R240). -/
def execVor (o : Ops) (s : State) : Out := vBitBinary (.vor o) o s (fun _ a b => a ||| b)
/-- VXOR (R240). -/
def execVxor (o : Ops) (s : State) : Out := vBitBinary (.vxor o) o s (fun _ a b => a ^^^ b)
/-- VSHL (R240). -/
def execVshl (o : Ops) (s : State) : Out := vBitBinary (.vshl o) o s (fun w a b => a * 2 ^ shiftBy w b)
/-- VSHR (R240). -/
def execVshr (o : Ops) (s : State) : Out := vBitBinary (.vshr o) o s (fun w a b => a / 2 ^ shiftBy w b)
/-- VSAR (R240). -/
def execVsar (o : Ops) (s : State) : Out := vBitBinary (.vsar o) o s (fun w a b => sarBits w a (shiftBy w b))
/-- VMIN (R240). -/
def execVmin (o : Ops) (s : State) : Out := vIntBinary (.vmin o) o s (fun a b => if a ≤ b then a else b)
/-- VMAX (R240). -/
def execVmax (o : Ops) (s : State) : Out := vIntBinary (.vmax o) o s (fun a b => if a ≤ b then b else a)
/-- VADDS (R240, R77). -/
def execVadds (o : Ops) (s : State) : Out := vIntBinary (.vadds o) o s (fun a b => saturate o.T (a + b))
/-- VSUBS (R240, R77). -/
def execVsubs (o : Ops) (s : State) : Out := vIntBinary (.vsubs o) o s (fun a b => saturate o.T (a - b))
/-- VCMP (R240, R187). -/
def execVcmp (o : Ops) (s : State) : Out :=
  vectorOp (.vcmp o) o [o.T] false s
    (fun k => { val := boolNat (condInt o.C (intOf o.T (elemOf s.cpu o.T o.A k)) (intOf o.T (bElem s o o.T k))) }) (putM o)
/-- VSEL (R240). -/
def execVsel (o : Ops) (s : State) : Out :=
  vectorOp (.vsel o) o [o.T] false s
    (fun k => { val := if s.cpu.readM o.C k then elemOf s.cpu o.T o.A k else bElem s o o.T k }) (putV o)
/-- VMOV (R240). -/
def execVmov (o : Ops) (s : State) : Out := vBitUnary (.vmov o) o s (fun _ a => a)
/-- VSPLAT (R240). -/
def execVsplat (o : Ops) (s : State) : Out := vectorOp (.vsplat o) o [o.T] o.mn s (fun k => { val := bElem s o o.T k }) (putV o)
/-- VIOTA (R240). -/
def execViota (o : Ops) (s : State) : Out :=
  vectorOp (.viota o) o [o.T] o.mn s (fun k => { val := low (typeWidth o.T) (bElem s o o.T k + k) }) (putV o)
/-- VEXT (R240): read at source type C. -/
def execVext (o : Ops) (s : State) : Out :=
  vectorOp (.vext o) o [o.C, o.T] false s
    (fun k => { val := low (typeWidth o.T) (extendTo 64 o.C (elemOf s.cpu o.C o.A k)) }) (putV o)
/-- VPOPC (R240). -/
def execVpopc (o : Ops) (s : State) : Out := vBitUnary (.vpopc o) o s popc
/-- VCLZ (R240). -/
def execVclz (o : Ops) (s : State) : Out := vBitUnary (.vclz o) o s clz
/-- VABS (R240). -/
def execVabs (o : Ops) (s : State) : Out :=
  vectorOp (.vabs o) o [o.T] o.mn s
    (fun k => { val := wrapInt (typeWidth o.T) ((intOf o.T (elemOf s.cpu o.T o.A k)).natAbs : Int) }) (putV o)

/-- The index of VMVXS and VMVSX: 64 bits, unsigned (R233, R241). -/
def moveIndex (o : Ops) (s : State) : Nat := (s.srcB o.b).toNat

/-- VMVXS (R241). -/
def execVmvxs (o : Ops) (s : State) : Out :=
  let x := moveIndex o s
  headChecks (.vmvxs o) [o.T] (poisonedAmong s.cpu (.vmvxs o) (fun j => j == x && decide (x < s.cpu.mvl))) s
    (if s.cpu.mvl ≤ x then .next (s.retire (fun t => t.writeG o.D 0))
     else .next (s.retire (fun t => t.writeG o.D (extendG o.T (elemOf t o.T o.A x)))))

/-- VMVSX (R241). -/
def execVmvsx (o : Ops) (s : State) : Out :=
  let x := moveIndex o s
  atHead (.vmvsx o) [o.T] s
    (.next (s.retire (fun t =>
      if t.mvl ≤ x then t else t.writeV o.D x (extendV t.ew o.T (low (typeWidth o.T) (s.srcG o.A).toNat)))))

end Sys2Proof.Machine
end

