-- ==== Sys2Proof/Machine/Pair.lean ====
section
/-! DEFINITION. P-form pairs (spec/11_encoding.md R190 to R193), and the words that only trap (R178, R196). -/

namespace Sys2Proof.Machine

/-- A scalar slot's source value (R190). -/
def slotSource (g : Nat → Word) (x : Slot) : Word :=
  match x.src with
  | .reg r => g r.toNat
  | .imm v => v.signExtend 64

/-- The type of a floating scalar slot. -/
def slotFpType (op : SlotOp) : Nat := if op = .faddF64 ∨ op = .fmulF64 then 11 else 10

/-- R191: the result of a scalar slot on D and its source, with its flags. -/
def slotValue (op : SlotOp) (rm : Nat) (a b : Word) : Word × Flags :=
  let int := fun (x : Int) => (BitVec.ofInt 64 x, flagNone)
  let fp := fun (f : Fmt → Nat → FVal → FVal → Nat × Flags) =>
    let t := slotFpType op
    let w := typeWidth t
    let r := f (fmtOf t) rm (fdecode (fmtOf t) (low w a.toNat)) (fdecode (fmtOf t) (low w b.toNat))
    (BitVec.ofNat 64 r.1, r.2)
  match op with
  | .add => (a + b, flagNone)
  | .sub => (a - b, flagNone)
  | .and => (a &&& b, flagNone)
  | .or => (a ||| b, flagNone)
  | .xor => (a ^^^ b, flagNone)
  | .shl => (a <<< (b.toNat % 64), flagNone)
  | .shr => (a >>> (b.toNat % 64), flagNone)
  | .sar => (a.sshiftRight (b.toNat % 64), flagNone)
  | .mov => (b, flagNone)
  | .mul => (a * b, flagNone)
  | .min => int (if a.toInt ≤ b.toInt then a.toInt else b.toInt)
  | .max => int (if a.toInt ≤ b.toInt then b.toInt else a.toInt)
  | .faddF32 => fp addVal
  | .fmulF32 => fp mulVal
  | .faddF64 => fp addVal
  | .fmulF64 => fp mulVal
  | .vaddS32 => (a, flagNone)
  | .vaddS64 => (a, flagNone)
  | .vsubS32 => (a, flagNone)
  | .vand => (a, flagNone)
  | .vor => (a, flagNone)
  | .vxor => (a, flagNone)
  | .vmov => (a, flagNone)
  | .vfaddF32 => (a, flagNone)
  | .vfmulF32 => (a, flagNone)
  | .vfaddF64 => (a, flagNone)
  | .vfmulF64 => (a, flagNone)
  | .vfaddBf16 => (a, flagNone)
  | .vlmulL8 => (a, flagNone)
  | .vshlS32 => (a, flagNone)

/-- R193, R106: the ABN at which a scalar slot would trap. -/
def slotAbn (g : Nat → Word) (x : Slot) : Option Nat :=
  if x.op = .faddF32 ∨ x.op = .fmulF32 then firstAbn [abnOf 10 (g x.d.toNat).toNat, abnOf 10 (slotSource g x).toNat] else none

/-- The effect of a scalar slot on a strand, from the operands that `g` gives. -/
def slotWrite (g : Nat → Word) (rm : Nat) (x : Slot) (t : Strand) : Strand :=
  let r := slotValue x.op rm (g x.d.toNat) (slotSource g x)
  (t.writeG x.d.toNat r.1).orFlags r.2

/-- R191: the type at which a vector slot works; an untyped one works at width EW. -/
def slotType (t : Strand) (op : SlotOp) : Nat :=
  match op with
  | .vaddS32 => 2
  | .vsubS32 => 2
  | .vshlS32 => 2
  | .vaddS64 => 3
  | .vfaddF32 => 10
  | .vfmulF32 => 10
  | .vfaddF64 => 11
  | .vfmulF64 => 11
  | .vfaddBf16 => 9
  | .vlmulL8 => 12
  | _ => 4 + Nat.log2 (t.ew / 8)

/-- R191: one element of a vector slot on patterns of its type. -/
def slotElem (op : SlotOp) (t rm a b : Nat) : Nat × Flags :=
  let w := typeWidth t
  let int := fun (x : Int) => (wrapInt w x, flagNone)
  let fp := fun (f : Fmt → Nat → FVal → FVal → Nat × Flags) => f (fmtOf t) rm (fdecode (fmtOf t) a) (fdecode (fmtOf t) b)
  match op with
  | .vaddS32 => int (intOf t a + intOf t b)
  | .vaddS64 => int (intOf t a + intOf t b)
  | .vsubS32 => int (intOf t a - intOf t b)
  | .vand => (a &&& b, flagNone)
  | .vor => (a ||| b, flagNone)
  | .vxor => (a ^^^ b, flagNone)
  | .vmov => (b, flagNone)
  | .vfaddF32 => fp addVal
  | .vfaddF64 => fp addVal
  | .vfaddBf16 => fp addVal
  | .vfmulF32 => fp mulVal
  | .vfmulF64 => fp mulVal
  | .vlmulL8 => l8Mul a b
  | .vshlS32 => (low w (a * 2 ^ shiftBy w b), flagNone)
  | _ => (a, flagNone)

/-- The register source of a vector slot (R192: I = 0). -/
def slotReg (x : Slot) : Nat :=
  match x.src with
  | .reg r => r.toNat
  | .imm _ => 0

/-- R193: a pair with vector slot `v`; the scalar slot `x` writes when the entry completes. -/
def vectorPair (i : Instr) (v x : Slot) (s : State) : Out :=
  let u := s.cpu
  let t := slotType u v.op
  let d := v.d.toNat
  let fin := slotWrite s.srcG s.srcRm x
  atHead i [t] s
    (if u.vl = 0 then .next (s.retire fin)
     else
       runElems s ((List.range u.vl).filter (fun k => decide (u.vstart ≤ k)))
         (fun k =>
           let r := slotElem v.op t s.srcRm (elemOf u t d k) (elemOf u t (slotReg v) k)
           { val := r.1, flags := r.2, abn := firstAbn [elemAbn u t d k, elemAbn u t (slotReg v) k] })
         (fun w k y => w.writeV d k (extendV w.ew t y)) fin)

/-- R193: a pair without a vector slot; slot A's trap comes before slot B's. -/
def scalarPair (a b : Slot) (s : State) : Out :=
  let g := s.cpu.readG
  match firstAbn [slotAbn g a, slotAbn g b] with
  | some x => .next (scalarTrap s causeAbn (BitVec.ofNat 64 x))
  | none => .next (s.commit 8 (fun t => slotWrite g s.cpu.fpmode b (slotWrite g s.cpu.fpmode a t)))

/-- P_FORM_PAIR (R193, R192). -/
def execPFormPair (a b : Slot) (s : State) : Out :=
  if a.op.isVector then vectorPair (.pFormPair a b) a b s
  else if b.op.isVector then vectorPair (.pFormPair a b) b a s
  else scalarPair a b s

/-- R193: the trap of the scalar slot of a pair with a vector slot, taken at commit. -/
def pairFault (t : Strand) (i : Instr) : Option (Nat × Word) :=
  match i with
  | .pFormPair a b => (firstAbn [slotAbn t.readG (if a.op.isVector then b else a)]).map (fun x => (causeAbn, BitVec.ofNat 64 x))
  | _ => none

/-- LITERAL_WORD_EXECUTE (R178): a literal word reached by sequence or branch traps LITEXEC. -/
def execLiteralWordExecute (w : Word) (s : State) : Out := .next (scalarTrap s causeLitexec w)

/-- ILLEGAL_OPCODE_WORD (R196): TVAL is the word, 0 for an all-zero word. -/
def execIllegalOpcodeWord (w : Word) (s : State) : Out := .next (scalarTrap s causeIllOpc w)

end Sys2Proof.Machine
end

