-- ==== Sys2Proof/Machine/Scheduler.lean ====
section
/-! DEFINITION. The scheduler (spec/03_execution.md R47 to R49, R71 to R74, R397) and the completion of a launch (spec/09_consistency.md R175,
spec/03_execution.md R37 to R40). -/

namespace Sys2Proof.Machine

/-! Starting a task (R49). -/

/-- The key of a task's core. -/
def TaskPlace.core_ (x : TaskPlace) : Nat := coreKey x.pkg x.die x.core

/-- Where a task of an accepted launch runs. The spec does not say whether a task that has not started is placed as the configuration stood at acceptance: the
model places it by the RETIRED values and the node map of its start (DESIGN CHOICE, log entry 75). -/
def taskPlace (s : State) (l : Launch) (task : Nat) : Option TaskPlace := placeTask s l.pkg l.vi l.record task

/-- R41, R48: a task's positions. -/
def positionsOf (r : LaunchRec) (task : Nat) : List LevelPos :=
  r.levels.zipIdx.map (fun x => { index := indexAt r task x.2, extent := x.1.extent, gang := x.1.flags.testBit 0, barrier := x.1.flags.testBit 1,
                                  scope := x.1.scope, domain := x.1.domain })

/-- Words as registers from 0 up. -/
def wordCells (l : List Word) : Cells Word := (l.zipIdx.filter (fun x => x.1 ≠ 0)).map (fun x => (x.2, x.1))

/-- R49: the strand of a task that starts. KBASE's bits 2:0 are reserved (R330). -/
def newStrand (s : State) (l : Launch) (task tid : Nat) (x : TaskPlace) (off : Nat) : Strand :=
  let r := l.record
  let vp := virtualPkg s x.pkg l.vi
  { tid := tid, pkg := x.pkg, die := x.die, core := x.core, slot := x.slot, vpkg := vp, vi := l.vi, lid := l.id, index := task,
    levels := positionsOf r task, g := (wordCells r.args).map (fun c => (c.1 + 1, c.2)), k := wordCells l.kbank, pc := r.entry, nv := r.nv, ew := r.ew,
    groups := r.groups, held := BitVec.ofNat 4 (2 ^ r.tiles - 1), kbase := r.kaddr &&& ~~~7, kbaseH := r.kaddr &&& ~~~7,
    scratchbase := scratchVa vp x.core_ off, links := r.links.map (·.1), order := s.time }

/-- The package takes new tasks of the VI (R385 to R387). -/
def startsTasks (s : State) (pkg vi : Nat) : Bool := acceptsFrom s pkg vi && !(s.pkg pkg).draining

/-- R47, R49, R55: the core has room for the task now. -/
def hasRoom (s : State) (l : Launch) (x : TaskPlace) : Bool :=
  (s.strandAt x.pkg x.die x.core x.slot).isNone && decide (l.record.groups ≤ freeGroups s x.core_) && decide (l.record.tiles ≤ freeTiles s x.core_)
  && (s.core x.core_).pend.isNone

/-- R74, R75: a share of the launch that left the core waits to resume: it and its region come back before another task of the launch starts there. -/
def shareAway (s : State) (lid ck : Nat) : Bool :=
  s.saved.any (fun (x : Saved) => x.strand.lid = lid && (waitsResume x || x.stopped) && coreKey x.strand.pkg x.strand.die x.strand.core = ck)

/-- R49: one task starts at its place; none where the core has no room. The first task's start time (R37) is read on the package that accepted the launch, its
end on the one that records it: the spec names no package's TIMER (DESIGN CHOICE, log entry 75). -/
def startTask (s : State) (id_ task : Nat) : Option State :=
  match launch? s id_ with
  | none => none
  | some l =>
    match taskPlace s l task with
    | none => none
    | some x =>
      if l.started.contains task || !startsTasks s x.pkg l.vi || !hasRoom s l x || shareAway s l.id x.core_ then none
      else
        (allocRegion (enterVi s x.core_ l.vi) x.core_ l.id l.vi l.record.scratch).map (fun a =>
          let (tid, s1) := a.2.fresh
          let t := newStrand s1 l task tid x a.1
          onLaunch (joinStrand s1 t) l.id (fun y =>
            { y with started := y.started ++ [task], state := .running, first := if y.started.isEmpty then timerOf s1 y.pkg else y.first }))

/-- R47: tasks start together, or none does. -/
def startAll (id_ : Nat) : State → List Nat → Option State
  | s, [] => some s
  | s, k :: rest =>
    match startTask s id_ k with
    | none => none
    | some s1 => startAll id_ s1 rest

/-! Gangs (R47). -/

/-- The outermost gang or barrier level of a record. -/
def gangLevel (r : LaunchRec) : Option Nat := (List.range r.levels.length).find? (fun i => ((r.levels[i]?).map (·.flags)).getD 0 ≠ 0)

/-- The gang instance of a task: its number and its tasks; a task of no gang stands alone. -/
def gangOf (r : LaunchRec) (task : Nat) : Option (Nat × List Nat) :=
  (gangLevel r).map (fun i =>
    let n := innerTasks r i
    (task / n, (List.range n).map (fun k => task / n * n + k)))

/-- R47: the package that holds the level 0 instance of a task. -/
def gangHome (s : State) (l : Launch) (task : Nat) : Nat :=
  ((taskPlace s l (task / innerTasks l.record 0 * innerTasks l.record 0)).map (·.pkg)).getD l.pkg

/-- R47: the packages that a gang instance of a DOMAIN or SYSTEM level asks for reservations: those of its tasks but the level 0 instance's own. An instance of
a narrower level lies on one package and asks none. -/
def gangPackages (s : State) (l : Launch) (tasks : List Nat) : List Nat :=
  let domain := ((gangLevel l.record).bind (fun i => l.record.levels[i]?)).map (·.domain)
  if domain.getD 1 < 5 then []
  else ((tasks.filterMap (fun k => (taskPlace s l k).map (·.pkg))).filter (fun p => p ≠ gangHome s l (tasks.headD 0))).eraseDups

/-- The reservation messages of a gang instance (R47). -/
def gangMessages (l : Launch) (home n : Nat) (ps : List Nat) : List Packet :=
  ps.map (fun p => { kind := .gang, dstPkg := p, srcPkg := home, vi := l.vi, cls := 2, x := l.id, y := n })

/-- The instance of a launch has a message on the wire. -/
def gangAsked (s : State) (id_ n : Nat) : Bool := s.wire.any (fun (k : Packet) => k.kind = .gang && k.x = id_ && k.y = n)

/-- GANG_RESERVATION_MESSAGE (R47): the message at `index` of the wire arrives; with the last one the instance is reserved, if every task of it has
room, and otherwise nothing is held. -/
def execGangReservationMessage (s : State) : Out :=
  packetEvent s .gang (fun s1 k =>
    match launch? s1 k.x with
    | none => s1
    | some l => if gangAsked s1 l.id k.y then s1 else onLaunch s1 l.id (fun x => { x with gangs := x.gangs ++ [k.y] }))

/-! Which task a core starts next (R71, R72, R397). -/

/-- R38: S or H software has ended the launch. -/
def Launch.ended (l : Launch) : Bool := l.codes.contains 5

/-- The launch still has tasks to start. -/
def startable (l : Launch) : Bool := (l.state == .ready || l.state == .running) && decide (l.started.length < l.tasks) && !l.ended

/-- The lowest task of a launch that waits on a core. -/
def nextOn (s : State) (l : Launch) (ck : Nat) : Option Nat :=
  (List.range l.tasks).find? (fun k => !l.started.contains k && (taskPlace s l k).any (fun x => x.core_ = ck))

/-- R73: tasks of the launch have been pre-empted on the core, and wait to resume. -/
def preemptedOn (s : State) (l : Launch) (ck : Nat) : Bool :=
  s.saved.any (fun (x : Saved) => waitsResume x && !x.stopped && x.strand.lid = l.id && coreKey x.strand.pkg x.strand.die x.strand.core = ck)

/-- R397, R73: the launches with a task waiting on a core, to start or to resume; those whose tasks there wait for a gang hold back nothing. A pre-empted task
waits on the core that it left (log entry 69). -/
def waitingOn (s : State) (ck : Nat) : List Launch :=
  s.launches.filter (fun (l : Launch) => ((startable l && (nextOn s l ck).isSome) || preemptedOn s l ck) && (gangLevel l.record).isNone)

/-- R72: the VI that the round-robin serves next, among those with a task waiting. -/
def servedVi (s : State) (ck cls : Nat) (vis : List Nat) : Option Nat :=
  let (v, n) := cellGet (0, 0) (s.core ck).turn cls
  if vis.contains v ∧ n < max 1 (s.vi v).weight then some v
  else
    match vis.find? (fun x => decide (v < x)) with
    | some x => some x
    | none => vis.head?

/-- The distinct VIs of some launches, rising. -/
def visOf (l : List Launch) : List Nat := (List.range 1024).filter (fun v => l.any (fun (x : Launch) => x.vi = v))

/-- The saved share of a launch with a context: its contexts that left the same core. -/
def savedShare (s : State) (x : Saved) : List Saved :=
  s.saved.filter (fun y => waitsResume y && y.strand.lid = x.strand.lid && y.strand.pkg = x.strand.pkg && y.strand.die = x.strand.die
    && y.strand.core = x.strand.core)

/-- R397, R73: a pre-empted share of a launch that left a core finds room on it now. -/
def canResumeOn (s : State) (l : Launch) (ck : Nat) : Bool :=
  s.saved.any (fun (x : Saved) => waitsResume x && !x.stopped && x.strand.lid = l.id && coreKey x.strand.pkg x.strand.die x.strand.core = ck
    && (resumeCore s (savedShare s x)).isSome)

/-- R397: the next task of a launch on a core finds room there now, to start or to resume. -/
def canStartOn (s : State) (l : Launch) (ck : Nat) : Bool :=
  canResumeOn s l ck ||
  ((nextOn s l ck).bind (taskPlace s l)).any (fun x =>
    startsTasks s x.pkg l.vi && hasRoom s l x && (allocRegion (enterVi s ck l.vi) ck l.id l.vi l.record.scratch).isSome)

/-- R72, R397: an earlier-ready launch of the same VI stands among some of one class. -/
def behindOwn (same : List Launch) (l : Launch) : Bool := same.any (fun (x : Launch) => x.vi = l.vi && decide (x.readyOrder < l.readyOrder))

/-- R71, R72, R397: the core serves the launch now. A VI whose next task finds no room has no turn: it holds back no other VI of its class. -/
def servesNow (s : State) (l : Launch) (ck : Nat) : Bool :=
  let others := waitingOn s ck
  let same := others.filter (fun (x : Launch) => x.cls = l.cls)
  !(others.any (fun (x : Launch) => decide (x.cls < l.cls)))
  && !behindOwn same l
  && servedVi s ck l.cls (visOf (l :: same.filter (fun (x : Launch) => !behindOwn same x && canStartOn s x ck))) == some l.vi

/-- R72: the round-robin counts `k` starts at once. -/
def countTurn (s : State) (ck cls vi k : Nat) : State :=
  let c := s.core ck
  let (v, n) := cellGet (0, 0) c.turn cls
  s.setCore ck { c with turn := cellPut c.turn cls (vi, if v = vi ∧ n < max 1 (s.vi v).weight then n + k else k) }

/-- R72: the tasks that a launch starts or resumes on some cores count, each on its core. -/
def countTurns (s : State) (l : Launch) (cores : List Nat) : State :=
  cores.eraseDups.foldl (fun st ck => countTurn st ck l.cls l.vi (cores.filter (· = ck)).length) s

/-- R47: no earlier task of the launch, but those of `mine`, waits on the task's core. -/
def firstOnCore (s : State) (l : Launch) (mine : List Nat) (task : Nat) : Bool :=
  match taskPlace s l task with
  | none => false
  | some x => (List.range task).all (fun k => l.started.contains k || mine.contains k || !((taskPlace s l k).any (fun y => y.core_ = x.core_)))

/-- TASK_START (R47, R49, R71, R72, R397): task `index` of launch `key` starts, with the whole of its gang or barrier instance. An instance that spans
packages first sends its reservation messages. -/
def execTaskStart (s : State) : Out :=
  match launch? s s.arg.key with
  | none => .next s
  | some l =>
    let k := s.arg.index
    if !startable l || l.tasks ≤ k || l.started.contains k then .next s
    else
      let mine := ((gangOf l.record k).map (·.2)).getD [k]
      let cores := mine.filterMap (fun j => (taskPlace s l j).map TaskPlace.core_)
      if !mine.all (firstOnCore s l mine) || !cores.all (servesNow s l) then .next s
      else
        match startAll l.id s mine with
        | none => .next s
        | some s1 =>
          match gangOf l.record k with
          | none => .next (countTurns s1 l cores)
          | some (n, tasks) =>
            let ps := gangPackages s l tasks
            if ps.isEmpty || l.gangs.contains n then .next (countTurns s1 l cores)
            else if gangAsked s l.id n then .next s
            else .next { s with wire := s.wire ++ gangMessages l (gangHome s l k) n ps }

/-! Waiting and pre-emption (R71, R73). -/

/-- The launch is ready and waits: it has not started, or it has been pre-empted (R73). -/
def launchWaits (s : State) (l : Launch) : Bool :=
  (l.state == .ready && !l.ended) || s.saved.any (fun (x : Saved) => x.strand.lid = l.id && x.slot.isSome && !x.stopped)

/-- R72, R73: the launch has ready work: it waits, or has tasks that are still to start. -/
def hasReadyWork (s : State) (l : Launch) : Bool := launchWaits s l || startable l

/-- R71: the budget of a class of a VI, in nanoseconds. -/
def budgetOf (s : State) (vi cls : Nat) : Nat := (s.vi vi).budgets.getD cls 20000000

/-- AGING_PROMOTION (R71). -/
def execAgingPromotion (s : State) : Out :=
  match launch? s s.arg.key with
  | none => .next s
  | some l =>
    if launchWaits s l && decide (1 ≤ l.cls) && decide (l.since + 4 * budgetOf s l.vi l.cls < s.time) then
      .next (onLaunch s l.id (fun x => { x with cls := x.cls - 1, since := s.time }))
    else .next s

/-- The class of a running task: its launch's (R73). -/
def classOf (s : State) (t : Strand) : Nat := ((launch? s t.lid).map (·.cls)).getD 3

/-- The strands that tasks of a VI and class hold on a package. -/
def strandsHeld (s : State) (pkg vi cls : Nat) : Nat := (s.strands.filter (fun t => t.tid ≠ 0 && t.pkg = pkg && t.vi = vi && classOf s t = cls)).length

/-- R73: victim `x` goes before victim `y`. -/
def victimFirst (s : State) (x y : Strand) : Bool :=
  let cx := classOf s x
  let cy := classOf s y
  if cx ≠ cy then decide (cy < cx)
  else if x.vi ≠ y.vi then
    let a := strandsHeld s x.pkg x.vi cx * max 1 (s.vi y.vi).weight
    let b := strandsHeld s y.pkg y.vi cy * max 1 (s.vi x.vi).weight
    decide (b < a) || (a == b && decide (y.vi < x.vi))
  else decide (y.order < x.order)

/-- R73, R341: the first victim among some tasks; a VI without a free slot on the die is none, nor is a task of a package that has tripped (R389). -/
def firstVictim (s : State) (l : List Strand) : Option Strand :=
  match l.filter (fun t => (freeSlot s (dieKey t.pkg t.die) t.vi).isSome && !haltedPkg s t.pkg) with
  | [] => none
  | t :: rest => some (rest.foldl (fun best u => if victimFirst s u best then u else best) t)

/-- R73: the places on a core that the work of a waiting launch needs at once: of the lowest waiting task's gang or barrier instance, or of the tasks that wait
there, one for each strand. -/
def neededOn (s : State) (l : Launch) (ck : Nat) : List TaskPlace :=
  match nextOn s l ck with
  | none => []
  | some k =>
    let tasks := match gangOf l.record k with
      | some (_, ks) => ks
      | none => (List.range l.tasks).filter (fun j => !l.started.contains j)
    ((tasks.filterMap (taskPlace s l)).filter (fun x => x.core_ = ck)).eraseDups

/-- R73: a strand holds what the waiting work of a launch needs on its core: a strand slot itself; with those free, lane groups or tiles that are short. -/
def holdsPlace (s : State) (l : Launch) (u : Strand) : Bool :=
  let ck := coreKey u.pkg u.die u.core
  let need := neededOn s l ck
  if need.any (fun x => (s.strandAt x.pkg x.die x.core x.slot).isSome) then need.any (fun x => u.slot = x.slot)
  else
    decide (freeGroups s ck < need.length * l.record.groups)
    || (decide (freeTiles s ck < need.length * l.record.tiles) && !(heldTiles u).isEmpty)

/-- The lane groups and tiles that a share needs. -/
def shareGroups (share : List Saved) : Nat := (share.map (fun y => y.strand.groups)).foldl (· + ·) 0
def shareTiles (share : List Saved) : Nat := (share.map (fun y => (heldTiles y.strand).length)).foldl (· + ·) 0

/-- R73, R75: the core would take a share once the strands on it that may give way have left. -/
def wouldTake (s : State) (gives : Strand → Bool) (share : List Saved) (ck lid : Nat) : Bool :=
  let on := s.strands.filter (onCore ck)
  let going := on.filter gives
  decide (share.length + on.length ≤ 4 + going.length)
  && decide (shareGroups share ≤ freeGroups s ck + (going.map (·.groups)).foldl (· + ·) 0)
  && decide (shareTiles share ≤ freeTiles s ck + (going.map (fun t => (heldTiles t).length)).foldl (· + ·) 0)
  && (s.core ck).pend.isNone && ((regionOf s ck lid).isNone || regionRoom s ck share)

/-- R73: the core is short of strand slots, lane groups, tiles or scratchpad for a share, and the strand holds some of what is short. -/
def holdsShort (s : State) (share : List Saved) (u : Strand) : Bool :=
  let ck := coreKey u.pkg u.die u.core
  decide (4 < share.length + (s.strands.filter (onCore ck)).length) || decide (freeGroups s ck < shareGroups share)
  || (decide (freeTiles s ck < shareTiles share) && !(heldTiles u).isEmpty)
  || (!regionRoom s ck share && ((regionOf s ck u.lid).map (·.bytes)).getD 0 != 0)

/-- R73, R75: a strand holds what a saved share of a waiting launch is short of, on the one core that is cleared for it: the lowest-numbered core of its die that
would take it once the strands that may give way have left (log entry 69). -/
def holdsDie (s : State) (gives : Strand → Bool) (l : Launch) (u : Strand) : Bool :=
  s.saved.any (fun (x : Saved) =>
    let t := x.strand
    let share := savedShare s x
    t.lid = l.id && x.slot.isSome && !x.stopped && dieKey t.pkg t.die = dieKey u.pkg u.die && (resumeCore s share).isNone
    && (List.range Config.coresPerDie).find? (fun c => wouldTake s gives share (coreKey t.pkg t.die c) t.lid) == some u.core
    && holdsShort s share u)

/-- R73: a strand that may give way holds what a waiting launch needs. -/
def holdsNeeded (s : State) (gives : Strand → Bool) (l : Launch) (u : Strand) : Bool := gives u && (holdsPlace s l u || holdsDie s gives l u)

/-- R73: victim groups of the tasks that satisfy `f` are pre-empted, in the victims' order, until none holds what the waiting work needs, or one's pre-emption
has still to happen. A victim whose group finds fewer slots than it needs is reported as one that H orders (R341), and ends the search: the spec does not say
whether another is tried (DESIGN CHOICE, log entry 75). The first argument bounds the groups. -/
def preemptFor (f : State → Strand → Bool) : Nat → State → State
  | 0, s => s
  | n + 1, s =>
    match firstVictim s (s.strands.filter (fun t => t.tid ≠ 0 && f s t)) with
    | none => s
    | some t =>
      let s1 := requestPreempt s t
      if (s1.task? t.tid).isSome then s1 else preemptFor f n s1

/-- BUDGET_EXPIRY (R73 case 1): launch `key` has waited longer than its budget; groups of a lower class that hold what it needs give way. -/
def execBudgetExpiry (s : State) : Out :=
  match launch? s s.arg.key with
  | none => .next s
  | some l =>
    if launchWaits s l && decide (l.since + budgetOf s l.vi l.cls < s.time) then
      .next (preemptFor (fun st => holdsNeeded st (fun t => decide (l.cls < classOf st t)) l) s.strands.length s)
    else .next s

/-- R73 case 2: the strand's VI has held the core for its quantum. -/
def quantumOver (s : State) (ck : Nat) (u : Strand) : Bool :=
  onCore ck u && decide (cellGet 0 (s.core ck).viSince u.vi + (s.vi u.vi).quantum ≤ s.time)

/-- QUANTUM_EXPIRY (R73 case 2): a VI has held the core `key` for its quantum, and another VI has ready work of the same or a higher class for it;
groups of the first give way. -/
def execQuantumExpiry (s : State) : Out :=
  .next (preemptFor (fun st u => s.launches.any (fun (l : Launch) =>
    hasReadyWork s l && holdsNeeded st (fun t => quantumOver s s.arg.key t && decide (l.vi ≠ t.vi) && decide (l.cls ≤ classOf st t)) l u)) s.strands.length s)

/-- PREEMPTION_MESSAGE (R74): the message at `index` of the wire arrives; with the last one the group is pre-empted. -/
def execPreemptionMessage (s : State) : Out :=
  packetEvent s .preempt (fun s1 k =>
    if s1.wire.any (fun (x : Packet) => x.kind = .preempt && x.x = k.x) then s1
    else
      match s1.task? k.x with
      | none => s1
      | some t => preemptGroup s1 t false)

/-! Resuming (R73, R75). -/

/-- The launches and cores of the strands that have resumed with a context; `s1` is the state in which they have. -/
def resumedOn (s s1 : State) (x : Saved) : List (Launch × Nat) :=
  (savedGroup s x.strand).filterMap (fun t => (s1.task? t.tid).bind (fun u => (launch? s t.lid).map (fun l => (l, coreKey u.pkg u.die u.core))))

/-- R71, R72, R73, R397: the cores on which the group of a context has come to stand serve its launches now, by class, turn and order as they serve tasks that
start. -/
def resumesNow (s s1 : State) (x : Saved) : Bool := (resumedOn s s1 x).all (fun y => servesNow s y.1 y.2)

/-- The saved group of a context resumes, where its class and its turn let it, and its tasks count (R72). -/
def resumeInClass (s : State) (x : Saved) : State :=
  let s1 := resumeWhole s x
  if resumesNow s s1 x then (resumedOn s s1 x).foldl (fun st y => countTurn st y.2 y.1.cls y.1.vi 1) s1 else s

/-- CONTEXT_RESTORE (R345, R75, R56, R73): the saved group of the task that the event names resumes as a whole, when every share of it finds a core and the
class and turn of its launches let it. -/
def execContextRestore (s : State) : Out :=
  match s.saved.find? (fun x => x.strand.tid = s.arg.key && x.slot.isSome) with
  | none => .next s
  | some x => .next (resumeInClass s x)

/-- LOST_CONTEXT_RESUME (R346, R329, R74): the lost context of the task that the event names, with its group. -/
def execLostContextResume (s : State) : Out :=
  match s.saved.find? (fun x => x.strand.tid = s.arg.key && isLost s x && waitsResume x) with
  | none => .next s
  | some x => .next (resumeInClass s x)

/-! Completion (R175). -/

/-- The package that holds level 0's instance 0 of a launch. -/
def homeOfLaunch (s : State) (l : Launch) : Nat := ((taskPlace s l 0).map (·.pkg)).getD l.pkg

/-- R175 conditions 1, 2 and 4: every task has exited, or the launch has been ended and none is left, and nothing that the launch has issued is
outstanding; a task exits only when its collective runs have ended. -/
def launchDone (s : State) (l : Launch) : Bool :=
  (l.ended || (l.state != .waitCells && decide (l.started.length = l.tasks) && decide (l.exited = l.tasks)))
  && !(s.pieces.any (fun p => p.lid = l.id))

/-- R38: S or H software ends a launch: its tasks leave their cores without exiting, its saved contexts are dropped and their slots free, and its status is at
most ABORTED (log entry 59). -/
def endLaunch (s : State) (id_ : Nat) : State :=
  let s1 := (s.strands.filter (fun t => t.tid ≠ 0 && t.lid = id_)).foldl leaveCore s
  let s2 := (s1.saved.filter (fun x => x.strand.lid = id_)).foldl (fun st x => freeClaims (freeSlotOf st x) x.strand) s1
  onLaunch { s2 with saved := s2.saved.filter (fun x => x.strand.lid ≠ id_) } id_ (fun l => { l with codes := l.codes ++ [5] })

/-- R175: the packages of the root that have to report. -/
def reporters (s : State) (l : Launch) : List Nat :=
  (rootOf s l.pkg l.vi l.record).filter (fun p => p ≠ homeOfLaunch s l && !(l.reports.any (fun x => x.1 = p)))

/-- COMPLETION_REPORT (R175): the report at `index` of the wire arrives. -/
def execCompletionReport (s : State) : Out :=
  packetEvent s .report (fun s1 k => onLaunch s1 k.x (fun l => { l with reports := l.reports ++ [(k.srcPkg, k.y)] }))

/-- R40: the next entry of the publish list is published; one that names no buffer is skipped and logged, and the status is at least
PUBLISH_MISS. The rule does not say what an entry does whose own read faults, or whose buffer has an unmapped page: the model skips it in the same way (log
entry 68). -/
def publishEntry (s : State) (l : Launch) : State :=
  let next := fun (st : State) (codes : List Nat) => onLaunch st l.id (fun x => { x with published := x.published + 1, codes := x.codes ++ codes })
  let miss := fun (st : State) (a : Nat) => next (pushLog st l.pkg { time := 0, kind := .launch, addr := a, vi := some l.vi }) [9]
  match deviceRead s l.pkg l.vi (vaAdd l.record.pub (64 + 16 * l.published)) 8 with
  | .wait s1 => s1
  | .fault _ a s1 => miss s1 a.toNat
  | .ok b s1 =>
    match nbFind s1 l.pkg l.vi (fun e => e.pub == leNat b) with
    | none => miss s1 (leNat b)
    | some e =>
      match publishNow s1 l.pkg l.vi e [] with
      | .wait s2 => s2
      | .fault _ a s2 => miss s2 a.toNat
      | .ok _ s2 => next s2 []

/-- R374: the stream entries whose source strand's launch has completed are freed. -/
def freeStreams (s : State) (lid : Nat) : State :=
  { s with dies := s.dies.map (fun (x : Nat × DieSt) =>
      let gone := fun (key : Nat) => x.2.streamLids.lookup key == some lid
      (x.1, { x.2 with streams := x.2.streams.filter (fun e => !gone e.1), streamLids := x.2.streamLids.filter (fun e => e.2 ≠ lid) })) }

/-- R38: the lowest code that applies. -/
def statusOf (l : Launch) : Nat :=
  match l.codes with
  | [] => 0
  | c :: rest => rest.foldl min c

/-- LAUNCH_COMPLETION (R175, R37, R40, R380): launch `key` takes its next step towards its completion record: reports of other packages, its publishes in
list order, then the record and the interrupt. -/
def execLaunchCompletion (s : State) : Out :=
  match launch? s s.arg.key with
  | none => .next s
  | some l =>
    if !launchDone s l then .next s
    else
      match reporters s l with
      | p :: ps =>
        if s.wire.any (fun (k : Packet) => k.kind = .report && k.x = l.id) then .next s
        else
          .next { s with wire := s.wire ++ (p :: ps).map (fun q =>
            { kind := .report, dstPkg := homeOfLaunch s l, srcPkg := q, vi := l.vi, cls := 2, x := l.id, y := l.exited }) }
      | [] =>
        if l.published < l.record.npub then .next (publishEntry s l)
        else
          match writeRecord s (homeOfLaunch s l) l.vi l.record.done (statusOf l) l.exited l.first with
          | .wait s1 => .next s1
          | .fault _ _ s1 => .next s1
          | .ok written s1 => .next (notify (freeStreams (dropLaunchEntry s1 l.id) l.id) l.pkg l.vi l.record written)

end Sys2Proof.Machine
end

