-- ==== Sys2Proof/Machine/Platform.lean ====
section
/-! DEFINITION. The host's accesses (spec/25_edges.md R378), package reset, boot and service stages (R382, R385 to R387), measurement and attestation
(R383, R384), monitors and throttling (R388, R389), scrubbing (R390), IDE keys (R376). -/

namespace Sys2Proof.Machine

/-! The host aperture (R378). -/

/-- R378, R380: the virtual address of a host access at an offset of a VI's share: by APBASE as it stood when the access arrived, so one that has stalled keeps
its address. -/
def apertureVa (s : State) : Word :=
  if s.arg.submitted then BitVec.ofNat 64 s.arg.key else vaAdd (s.viPkg s.arg.pkg s.arg.vi).apbase (s.arg.off % 2 ^ 40)

def pushOutput (s : State) (x : Output) : State := { s with outputs := s.outputs ++ [x] }

/-- R378: an access that faults or is refused is logged, and ERRADDR holds its address. -/
def refuseHost (s : State) (va : Word) : State :=
  let v := s.viPkg s.arg.pkg s.arg.vi
  pushLog (s.setViPkg s.arg.pkg s.arg.vi { v with erraddr := va }) s.arg.pkg
    { time := 0, kind := .refusedHost, die := bitsOf va.toNat 39 37, unit := bitsOf va.toNat 36 33, addr := va.toNat, vi := some s.arg.vi }

/-- R391, R393: a host read of a poisoned word is logged (log entry 79). -/
def logHostPoison (s : State) (va : Word) : State :=
  pushLog s s.arg.pkg
    { time := 0, kind := .consumed, die := bitsOf va.toNat 39 37, unit := bitsOf va.toNat 36 33, addr := va.toNat, vi := some s.arg.vi }

/-- The host as the source of an access for a VI (R378, R395, R126). -/
def hostWho (s : State) : Who := { deviceWho s.arg.pkg s.arg.vi with host := true }

/-- R378: a host access that stalls is kept with its address; `submitted` marks one that has stalled before. -/
def hostWaits (s : State) (write : Bool) : State :=
  if s.arg.submitted then s
  else { s with hostWaits := s.hostWaits ++ [({ s.arg with submitted := true, key := (apertureVa s).toNat }, write)] }

/-- A host access has its answer. -/
def hostDone (s : State) (write : Bool) (x : Output) : State :=
  pushOutput (if s.arg.submitted then { s with hostWaits := s.hostWaits.erase (s.arg, write) } else s) x

/-- HOST_READ (R378, R391, R122): `value` bytes at offset `off` of the VI's share. -/
def execHostRead (s : State) : Out :=
  let va := apertureVa s
  if bitsOf va.toNat 63 62 ≠ 0 then .next (hostDone (refuseHost s va) false .poisoned)
  else
    match readMem s (hostWho s) va s.arg.value 0 .read with
    | .ok x s1 => .next (hostDone s1 false (.readData x.bytes))
    | .wait s1 => .next (hostWaits s1 false)
    | .fault c a s1 => .next (hostDone (if c = causeUeData then logHostPoison s1 a else refuseHost s1 va) false .poisoned)

/-- HOST_WRITE (R378, R144, R122): the event's bytes at offset `off` of the VI's share; one that some home refuses changes nothing. -/
def execHostWrite (s : State) : Out :=
  let va := apertureVa s
  let w := hostWho s
  if bitsOf va.toNat 63 62 ≠ 0 then .next (hostDone (refuseHost s va) true .writeError)
  else
    match placesOf s w va s.arg.bytes.length .write with
    | .wait s1 => .next (hostWaits s1 true)
    | .fault _ _ s1 => .next (hostDone (refuseHost s1 va) true .writeError)
    | .ok ps s1 =>
      match writeWhole w .outside false s1 ps s.arg.bytes with
      | (s2, .ok) => .next (hostDone s2 true .writeAck)
      | (s2, _) => .next (hostDone (refuseHost s2 va) true .writeError)

/-! Reset and boot. -/

/-- What a package keeps over its reset: what is fused or stored in the root of trust, and its form. -/
def resetPkg (s : State) (p : PkgSt) : PkgSt :=
  { module := p.module, resetAt := s.time, rollback := p.rollback, keyDigest := p.keyDigest, boot := p.boot, pending := p.pending,
    spareMap := p.spareMap, retirementMap := p.retirementMap, unreachable := p.unreachable }

/-- R14, R23, R392: the physical core behind an enabled number: its own, or the spare of its die that replaces it (log entry 80). -/
def physicalCore (p : PkgSt) (c : Nat) : Nat := cellGet c p.spareMap c

/-- R392: bit 17 of a physical core's entry in the retirement map marks it as failed. -/
def failedMark (p : PkgSt) (q : Nat) : Bool := (cellGet 0 p.retirementMap q).testBit 17

/-- R14: the four physical cores of a die beyond the 80 that are enabled. -/
def spareCores (die : Nat) : List Nat := [80, 81, 82, 83].map (· + die * 128)

/-- R392: at a package reset a spare of its die replaces the physical core `q`, marked as failed, where it is in use and a sound spare is left. -/
def replaceFailed (p : PkgSt) (q : Nat) : PkgSt :=
  let c := ((p.spareMap.find? (fun x => x.2 = q)).map (·.1)).getD q
  if 80 ≤ c % 128 ∨ physicalCore p c ≠ q then p
  else
    match (spareCores (c / 128)).find? (fun n => !p.spareMap.any (fun x => x.2 = n) && !failedMark p n) with
    | some n => { p with spareMap := cellPut p.spareMap c n }
    | none => p

/-- R392: every core marked as failed is replaced. -/
def replaceCores (p : PkgSt) : PkgSt := ((p.retirementMap.map (·.1)).filter (failedMark p)).foldl replaceFailed p

/-- R392: RETIRED after reset comes from the retirement map's entry of the physical core, by enabled core of the package. -/
def resetCores (pkg : Nat) (p : PkgSt) : Cells CoreSt :=
  (((p.retirementMap ++ p.spareMap).map (·.1)).eraseDups.filter (fun c => decide (c % 128 < 80))).map
    (fun c => (pkg * 1024 + c, { retired := low 17 (cellGet 0 p.retirementMap (physicalCore p c)) }))

/-- PACKAGE_RESET (R385, R339): nothing that ran on the package, or was held there, stays; its memory holds nothing. -/
def execPackageReset (s : State) : Out :=
  let n := s.arg.pkg
  let p := replaceCores (resetPkg s (s.pkg n))
  let s1 : State :=
    { s with
        cpu := if s.cpu.pkg = n then {} else s.cpu,
        others := s.others.filter (fun t => t.pkg ≠ n),
        saved := s.saved.filter (fun (x : Saved) => x.strand.pkg ≠ n),
        loaded := s.loaded.filter (fun (x : Saved) => x.strand.pkg ≠ n),
        hostWaits := s.hostWaits.filter (fun x => x.1.pkg ≠ n),
        pieces := s.pieces.filter (fun x => x.srcPkg ≠ n),
        wire := s.wire.filter (fun (k : Packet) => k.srcPkg ≠ n && k.dstPkg ≠ n),
        launches := s.launches.filter (fun (l : Launch) => l.pkg ≠ n),
        mem := s.mem.filter (fun c => haPkg c.1 ≠ n),
        poison := s.poison.filter (fun w => decide (2 ^ 72 ≤ w) || haPkg (8 * w) ≠ n),
        soft := s.soft.filter (fun w => haPkg (8 * w) ≠ n),
        cores := (s.cores.filter (fun (x : Nat × CoreSt) => x.1 / 1024 ≠ n)),
        dies := s.dies.filter (fun (x : Nat × DieSt) => x.1 / 8 ≠ n),
        chans := s.chans.filter (fun (x : Nat × ChanSt) => x.1 / 128 ≠ n),
        viPkgs := s.viPkgs.filter (fun (x : Nat × ViPkgSt) => x.1 / 1024 ≠ n) }
  .next ((resetCores n p).foldl (fun st x => st.setCore x.1 x.2) (s1.setPkg n p))

/-- R382: image `i` passes its checks: its key is the one whose digest is fused, its signature verifies over its digest, and its version is not below the
fused counter. -/
def imageOk (p : PkgSt) (i : Nat) (x : FirmwareImage) : Bool :=
  Config.shake256 x.key == p.keyDigest && Config.signatureValid x.key (Config.shake256 x.bytes) x.signature
  && decide (cellGet 0 p.rollback i ≤ x.version)

/-- R382: an update becomes the boot image once it has been verified; one that fails is reported, and the old image stays. -/
def promote (n : Nat) (s : State) (i : Nat) : State :=
  let p := s.pkg n
  match p.pending.lookup i with
  | none => s
  | some x =>
    if imageOk p i x then s.setPkg n { p with boot := cellPut p.boot i x, pending := cellDrop p.pending i }
    else pushLog s n { time := 0, kind := .bootCheck, addr := i }

/-- Numbered words as bytes. -/
def cellBytes (l : Cells Nat) : List Byte := l.flatMap (fun x => leBytes 8 x.1 ++ leBytes 8 x.2)

/-- R383: the fuse state as bytes: anti-rollback counters, spare map, retirement map. -/
def fuseBytes (p : PkgSt) : List Byte := cellBytes p.rollback ++ cellBytes p.spareMap ++ cellBytes p.retirementMap

/-- R383: measurement registers 1 to 5; register 6 stays. -/
def measureImages (p : PkgSt) : PkgSt :=
  let image := fun (i : Nat) => Config.shake256 (cellGet {} p.boot i).bytes
  { p with measured := [(1, Config.shake256 Config.rom), (2, image 2), (3, image 3), (4, image 4), (5, Config.shake256 (fuseBytes p)), (6, measurement p 6)] }

/-- ROOT_OF_TRUST_BOOT (R382, R383, R385): from stage 0 the root of trust starts; in stage 1 it verifies and measures the images, and runs them; an image
that fails leaves stage 1. From stage 2 the firmware enters reduced service. -/
def execRootOfTrustBoot (s : State) : Out :=
  let n := s.arg.pkg
  let p := s.pkg n
  if p.stage = 0 then .next (s.setPkg n { p with stage := 1 })
  else if p.stage = 1 then
    let s1 := [2, 3, 4].foldl (promote n) s
    let p1 := s1.pkg n
    if [2, 3, 4].all (fun i => imageOk p1 i (cellGet {} p1.boot i)) then .next (s1.setPkg n { measureImages p1 with stage := 2 })
    else .next (pushLog s1 n { time := 0, kind := .bootCheck })
  else if p.stage = 2 then .next (s.setPkg n { p with stage := 3 })
  else .next s

/-- R387: no packet to or from a package is outstanding, and no piece that it has issued or that has its home there. -/
def quietPkg (s : State) (n : Nat) : Bool :=
  !s.wire.any (fun (k : Packet) => k.srcPkg = n || k.dstPkg = n) && !s.pieces.any (fun p => p.srcPkg = n || placeDie s p.place / 8 = n)

/-- FULL_SERVICE_TRANSITION (R387): no task starts any more; once none runs on the package and nothing of it is outstanding, it enters stage 4. -/
def execFullServiceTransition (s : State) : Out :=
  let n := s.arg.pkg
  let p := s.pkg n
  if p.stage ≠ 3 then .next s
  else if s.strands.any (fun t => t.tid ≠ 0 && t.pkg = n) || !quietPkg s n then .next (s.setPkg n { p with draining := true })
  else .next (s.setPkg n { p with draining := false, stage := 4 })

/-- FIRMWARE_IMAGE_UPDATE (R382): the new image `index` stands beside the old one until it has been verified. -/
def execFirmwareImageUpdate (s : State) : Out :=
  let p := s.pkg s.arg.pkg
  if 2 ≤ s.arg.index ∧ s.arg.index ≤ 4 then .next (s.setPkg s.arg.pkg { p with pending := cellPut p.pending s.arg.index s.arg.image }) else .next s

/-- R379: H firmware sets the scratchpad quota of a VI; the PF's configuration is measured (R383). -/
def setQuota (s : State) (pkg vi bytes : Nat) : State := measureConfig (s.setVi vi { s.vi vi with quota := bytes }) pkg vi

/-- R379, R113: H firmware sets a VI's level-1 table in the home agent of a channel; the PF's configuration is measured (R383). -/
def setRoot (s : State) (chan vi pa : Nat) : State :=
  measureConfig (s.setChan chan { s.chan chan with roots := cellPut (s.chan chan).roots vi pa }) (chan / 128) vi

/-! SPDM (R384). -/

/-- The root of trust of the package answers. -/
def spdmAnswers (s : State) : Bool := decide (1 ≤ (s.pkg s.arg.pkg).stage) && (s.pkg s.arg.pkg).stage != 15

/-- An SPDM answer, and the connection's new state. -/
def spdmReply (s : State) (code : Nat) (bytes : List Byte) (f : Spdm → Spdm) : Out :=
  if spdmAnswers s then
    let p := s.pkg s.arg.pkg
    .next (pushOutput (s.setPkg s.arg.pkg { p with spdm := f p.spdm }) (.spdm s.arg.pkg code bytes))
  else .next s

/-- SPDM_GET_VERSION (R384): SPDM 1.4. -/
def execSpdmGetVersion (s : State) : Out := spdmReply s 0x04 [0x14] (fun x => { x with version := true })
/-- SPDM_GET_CAPABILITIES (R384): certificates, challenges, measurements, key exchange. -/
def execSpdmGetCapabilities (s : State) : Out := spdmReply s 0x61 [] (fun x => { x with caps := true })

/-- SPDM_NEGOTIATE_ALGORITHMS (R384): ML-DSA-65, SHAKE256 and ML-KEM-768, and no other. -/
def execSpdmNegotiateAlgorithms (s : State) : Out :=
  if [SpdmAlgorithm.mlDsa65, .shake256, .mlKem768].all (fun a => s.arg.offer.contains a) then spdmReply s 0x63 [] (fun x => { x with algs := true })
  else if spdmAnswers s then .next (pushOutput s (.spdmError s.arg.pkg)) else .next s

/-- The package's fused secret, from which its identity key is derived (R384). -/
def identity (s : State) : List Byte := Config.fusedSecret s.arg.pkg

/-- SPDM_GET_CERTIFICATE (R384). -/
def execSpdmGetCertificate (s : State) : Out := spdmReply s 0x02 (Config.certificate (identity s)) id
/-- SPDM_CHALLENGE (R384): the identity key signs the nonce. -/
def execSpdmChallenge (s : State) : Out := spdmReply s 0x03 (Config.sign (identity s) s.arg.bytes) id

/-- The measurement registers as bytes. -/
def measurementBytes (p : PkgSt) : List Byte := (List.range 6).flatMap (fun i => measurement p (i + 1))

/-- SPDM_GET_MEASUREMENTS (R383, R384): the registers, signed with the nonce. -/
def execSpdmGetMeasurements (s : State) : Out :=
  let m := measurementBytes (s.pkg s.arg.pkg)
  spdmReply s 0x60 (m ++ Config.sign (identity s) (m ++ s.arg.bytes)) id

/-- SPDM_KEY_EXCHANGE (R384): the reply carries the ciphertext of a fresh ML-KEM-768 encapsulation, and the session holds its secret. -/
def execSpdmKeyExchange (s : State) : Out :=
  spdmReply { s with free := s.free + 1 } 0x64 (Config.encapsulate s.free s.arg.bytes)
    (fun x => { x with session := some (Config.sharedSecret s.free s.arg.bytes) })

/-- IDE_KEY_MANAGEMENT (R376): over a session, the key of the link stream (0) or of a selective stream (1 to 1,024). -/
def execIdeKeyManagement (s : State) : Out :=
  let p := s.pkg s.arg.pkg
  if p.spdm.session.isNone || decide (1024 < s.arg.index) then (if spdmAnswers s then .next (pushOutput s (.spdmError s.arg.pkg)) else .next s)
  else .next (s.setPkg s.arg.pkg { p with ideKeys := cellPut p.ideKeys s.arg.index s.arg.bytes })

/-- R71 to R73: H configuration sets a VI's budgets of the four classes, its share weight and its quantum; the PF's configuration is measured (R383). -/
def setShares (s : State) (pkg vi : Nat) (budgets : List Nat) (weight quantum : Nat) : State :=
  if budgets.length = 4 ∧ 1 ≤ weight ∧ weight ≤ 255 then
    measureConfig (s.setVi vi { s.vi vi with budgets := budgets, weight := weight, quantum := quantum }) pkg vi
  else s

/-! Monitors (R388, R389). -/

/-- R388: H configuration sets the package power limit, from 1.5 kW to 3.4 kW. -/
def setLimit (s : State) (pkg watts : Nat) : State :=
  if 1500 ≤ watts ∧ watts ≤ 3400 then s.setPkg pkg { s.pkg pkg with limit := watts } else s

/-- R388: some thermal monitor of the die reads at least so many degrees. -/
def anyAbove (d : DieSt) (degrees : Nat) : Bool := d.thermal.any (fun x => decide (degrees ≤ x.2))

/-- R388: the thermal monitor `monitor` of a die takes a reading; since when one has been at 100 degrees or above, and since when all have been below 92, is
noted. -/
def readThermal (s : State) (die monitor degrees : Nat) : State :=
  if 16 ≤ monitor then s
  else
    let d := s.die die
    let d1 := { d with thermal := cellPut d.thermal monitor degrees }
    let since := fun (holds : Bool) (held : Bool) (old : Option Nat) => if holds && held then old else some s.time
    s.setDie die { d1 with hotSince := if anyAbove d1 100 then since (anyAbove d 100) true d.hotSince else none,
                           coolSince := since (!anyAbove d1 92) (!anyAbove d 92) d.coolSince }

/-- R388: the voltage monitor `monitor` of a die reads so many thousandths of its setting. -/
def readVoltage (s : State) (die monitor permille : Nat) : State :=
  if 8 ≤ monitor then s else s.setDie die { s.die die with volts := cellPut (s.die die).volts monitor permille }

/-- The step of a die that its temperature and its package's power set, at most 5. -/
def setStep (s : State) (die n : Nat) : State := s.setDie die { s.die die with step := min 5 n }

/-- THERMAL_STEP_UP (R388): a monitor of the die `key` has been at 100 degrees or above for 100 microseconds, and the last step up is as long ago. -/
def execThermalStepUp (s : State) : Out :=
  let d := s.die s.arg.key
  if d.hotSince.any (fun t => decide (t + 100000 ≤ s.time)) && (d.lastStep == 0 || decide (d.lastStep + 100000 ≤ s.time)) then
    .next (setStep (s.setDie s.arg.key { d with lastStep := s.time }) s.arg.key (d.step + 1))
  else .next s

/-- THERMAL_STEP_DOWN (R388): every monitor of the die has been below 92 degrees for 10 ms; the next step down comes after 10 ms more. -/
def execThermalStepDown (s : State) : Out :=
  let d := s.die s.arg.key
  if !anyAbove d 92 && decide (d.coolSince.getD (s.pkg (s.arg.key / 8)).resetAt + 10000000 ≤ s.time) then
    .next (setStep (s.setDie s.arg.key { d with coolSince := some s.time }) s.arg.key (d.step - 1))
  else .next s

/-- THERMAL_CLAMP (R388): a monitor of the die reads 110 degrees or above. -/
def execThermalClamp (s : State) : Out := if anyAbove (s.die s.arg.key) 110 then .next (setStep s s.arg.key 5) else .next s

/-- THERMAL_TRIP (R388, R389): a monitor of the die `key` reads 120 degrees or above: its package halts, and nothing is saved. -/
def execThermalTrip (s : State) : Out :=
  let n := s.arg.key / 8
  if anyAbove (s.die s.arg.key) 120 then
    .next (pushOutput (pushLog (s.setPkg n { s.pkg n with stage := 15 }) n { time := 0, kind := .trip, die := s.arg.key % 8 }) (.errorVector n))
  else .next s

/-- VOLTAGE_DROOP (R388): a voltage monitor of the die is more than 5 % below its setting: a step up for 1 ms. -/
def execVoltageDroop (s : State) : Out :=
  let d := s.die s.arg.key
  if d.volts.any (fun x => decide (x.2 < 950)) then .next (s.setDie s.arg.key { d with droop := 1, droopSince := s.time }) else .next s

/-- VOLTAGE_DROOP_EXPIRY (R388). -/
def execVoltageDroopExpiry (s : State) : Out :=
  let d := s.die s.arg.key
  if d.droop = 0 ∨ s.time < d.droopSince + 1000000 then .next s else .next (s.setDie s.arg.key { d with droop := 0 })

/-- R388: a die steps up for power at `last`, at most once in 10 ms. -/
def powerDue (s : State) (last : Nat) : Bool := last == 0 || decide (last + 10000000 ≤ s.time)

/-- R388: the die `index` of a package steps up for power. -/
def powerStep (s : State) (n : Nat) : State := setStep s (dieKey n s.arg.index) ((s.die (dieKey n s.arg.index)).step + 1)

/-- PACKAGE_POWER_LIMIT (R388): the package has drawn `value` watts on average over 10 ms, its die `index` most. -/
def execPackagePowerLimit (s : State) : Out :=
  let n := s.arg.pkg
  let p := s.pkg n
  if p.limit < s.arg.value ∨ (p.limiting ∧ p.limit < s.arg.value + 100) then
    if powerDue s p.lastPower then .next (powerStep (s.setPkg n { p with limiting := true, lastPower := s.time }) n)
    else .next (s.setPkg n { p with limiting := true })
  else .next (s.setPkg n { p with limiting := false })

/-- MODULE_POWER_LIMIT (R388): the module form has drawn `value` watts on average over 10 ms. -/
def execModulePowerLimit (s : State) : Out :=
  let n := s.arg.pkg
  let p := s.pkg n
  if !p.module then .next s
  else if 3600 < s.arg.value ∨ (p.moduleLimiting ∧ 3500 ≤ s.arg.value) then
    if powerDue s p.lastModulePower then .next (powerStep (s.setPkg n { p with moduleLimiting := true, lastModulePower := s.time }) n)
    else .next (s.setPkg n { p with moduleLimiting := true })
  else .next (s.setPkg n { p with moduleLimiting := false })

/-! Errors in storage (R390 to R392). -/

/-- R393: the log record of an error in a home word. -/
def wordRecord (kind : LogKind) (word : Nat) : LogRecord :=
  let ha := 8 * word
  { time := 0, kind := kind, die := haDie ha, unit := if haIsScratch ha then haCore ha else haChan ha, addr := ha }

/-- R390: a home word becomes poisoned, and the error is logged. -/
def strikeWord (s : State) (word : Nat) : State :=
  pushLog { s with poison := if s.poison.contains word then s.poison else s.poison ++ [word], soft := s.soft.filter (· ≠ word) }
    (haPkg (8 * word)) (wordRecord .poisoned word)

/-- R390: the words that share a code word with a home word: itself in a scratchpad, its 64 bytes in HBM. -/
def sameGroup (word other : Nat) : Bool := if haIsScratch (8 * word) then word == other else word / 8 == other / 8

/-- R390: a correctable error in a home word; a second one in the same code word before the first has been corrected leaves poison. -/
def softWord (s : State) (word : Nat) : State :=
  match s.soft.filter (sameGroup word) with
  | [] => { s with soft := s.soft ++ [word] }
  | old => (word :: old).eraseDups.foldl strikeWord s

/-- R390: an access, or the patrol scrub, corrects a home word's error, writes it back and logs it. -/
def correctWord (s : State) (word : Nat) : State :=
  if s.soft.contains word then pushLog { s with soft := s.soft.filter (· ≠ word) } (haPkg (8 * word)) (wordRecord .corrected word) else s

/-- R393: the log record of an error in a register or tile word of a task, by its on-chip map address. -/
def ownRecord (kind : LogKind) (t : Strand) (key : Nat) : LogRecord :=
  { time := 0, kind := kind, die := t.die, unit := t.core, addr := (keyVa t key).toNat, vi := some t.vi }

/-- R391: a register or tile word of a task becomes poisoned in place, and the error is logged. -/
def strikeRegister (s : State) (tid key : Nat) : State :=
  match s.task? tid with
  | none => s
  | some t =>
    pushLog (s.onTask tid (fun u => { u with poison := if u.poison.contains key then u.poison else u.poison ++ [key], soft := u.soft.filter (· ≠ key) }))
      t.pkg (ownRecord .poisoned t key)

/-- R390: a correctable error in a register or tile word of a task; a second one leaves poison. -/
def softRegister (s : State) (tid key : Nat) : State :=
  if (s.task? tid).any (fun t => t.soft.contains key) then strikeRegister s tid key
  else s.onTask tid (fun u => { u with soft := u.soft ++ [key] })

/-- R390: an access corrects it. -/
def correctRegister (s : State) (tid key : Nat) : State :=
  match s.task? tid with
  | none => s
  | some t => if t.soft.contains key then pushLog (s.onTask tid (fun u => { u with soft := u.soft.filter (· ≠ key) })) t.pkg (ownRecord .corrected t key) else s

/-- PATROL_SCRUB (R390): every word of the package's HBM is read, and corrected where it has a correctable error; an uncorrectable one keeps its mark. -/
def execPatrolScrub (s : State) : Out :=
  .next ((s.soft.filter (fun w => haPkg (8 * w) = s.arg.pkg && !haIsScratch (8 * w))).foldl correctWord s)

/-- R337: a parity error in the L1 instruction cache of a core: the line goes, and is fetched from its home again; the error is logged. -/
def parityError (s : State) (core ha : Nat) : State :=
  let c := s.core core
  pushLog (s.setCore core { c with icache := c.icache.filter (fun l => l.ha ≠ ha) }) (core / 1024)
    { time := 0, kind := .corrected, die := core / 128 % 8, unit := core % 128, addr := ha }

/-- R392: H firmware notes an error in a word of a physical lane group's slice of the vector register file. -/
def noteLaneError (s : State) (core group word : Nat) (uncorrectable : Bool) : State :=
  let c := s.core core
  s.setCore core { c with laneErrors := c.laneErrors ++ [(group, word, s.time, uncorrectable)] }

/-- R392: `n` of some errors fall within 24 hours. -/
def withinDay (n : Nat) (l : List (Nat × Nat × Nat × Bool)) : Bool :=
  l.any (fun x => decide (n ≤ (l.filter (fun y => decide (x.2.2.1 ≤ y.2.2.1) && decide (y.2.2.1 < x.2.2.1 + 86400000000000))).length))

/-- R392: a lane group is to be retired: 8 corrected errors of one word, or 32 of the group, within 24 hours, or a second uncorrectable one of a word. -/
def groupWorn (c : CoreSt) (group : Nat) : Bool :=
  let mine := c.laneErrors.filter (fun x => x.1 == group)
  let corrected := mine.filter (fun x => !x.2.2.2)
  let hard := mine.filter (·.2.2.2)
  withinDay 32 corrected || (mine.map (·.2.1)).any (fun w => withinDay 8 (corrected.filter (fun x => x.2.1 == w)))
  || (hard.map (·.2.1)).any (fun w => decide (2 ≤ (hard.filter (fun x => x.2.1 == w)).length))

/-- R392, R55: H firmware retires a worn lane group: RETIRED gains its bit once the core is empty, and so does the retirement map. -/
def retireGroup (s : State) (core group : Nat) : State :=
  let c := s.core core
  if 17 ≤ group ∨ groupWorn c group = false then s
  else
    let p := s.pkg (core / 1024)
    let q := physicalCore p (core % 1024)
    (s.setCore core { c with pend := some (c.pend.getD c.retired ||| 2 ^ group) }).setPkg (core / 1024)
      { p with retirementMap := cellPut p.retirementMap q (cellGet 0 p.retirementMap q ||| 2 ^ group) }

/-- R392: H firmware marks a core as failed in the retirement map. -/
def markFailed (s : State) (core : Nat) : State :=
  let p := s.pkg (core / 1024)
  let q := physicalCore p (core % 1024)
  s.setPkg (core / 1024) { p with retirementMap := cellPut p.retirementMap q (cellGet 0 p.retirementMap q ||| 2 ^ 17) }

end Sys2Proof.Machine
end

