-- ==== Sys2Proof/Machine/Dispatch.lean ====
section
/-! DEFINITION. The meaning of every instruction and event: one arm per constructor of Instr. -/

namespace Sys2Proof.Machine

def exec (i : Instr) (s : State) : Host.Outcome State Fault Refusal :=
  match i with
  | .add o => Sys2Proof.Machine.execAdd o s
  | .sub o => Sys2Proof.Machine.execSub o s
  | .mul o => Sys2Proof.Machine.execMul o s
  | .mulh o => Sys2Proof.Machine.execMulh o s
  | .div o => Sys2Proof.Machine.execDiv o s
  | .rem o => Sys2Proof.Machine.execRem o s
  | .and o => Sys2Proof.Machine.execAnd o s
  | .or o => Sys2Proof.Machine.execOr o s
  | .xor o => Sys2Proof.Machine.execXor o s
  | .andn o => Sys2Proof.Machine.execAndn o s
  | .shl o => Sys2Proof.Machine.execShl o s
  | .shr o => Sys2Proof.Machine.execShr o s
  | .sar o => Sys2Proof.Machine.execSar o s
  | .rol o => Sys2Proof.Machine.execRol o s
  | .min o => Sys2Proof.Machine.execMin o s
  | .max o => Sys2Proof.Machine.execMax o s
  | .cmp o => Sys2Proof.Machine.execCmp o s
  | .sel o => Sys2Proof.Machine.execSel o s
  | .clz o => Sys2Proof.Machine.execClz o s
  | .ctz o => Sys2Proof.Machine.execCtz o s
  | .popc o => Sys2Proof.Machine.execPopc o s
  | .ext o => Sys2Proof.Machine.execExt o s
  | .addsh o => Sys2Proof.Machine.execAddsh o s
  | .bfx o => Sys2Proof.Machine.execBfx o s
  | .bfi o => Sys2Proof.Machine.execBfi o s
  | .li o => Sys2Proof.Machine.execLi o s
  | .lih o => Sys2Proof.Machine.execLih o s
  | .mov o => Sys2Proof.Machine.execMov o s
  | .abs o => Sys2Proof.Machine.execAbs o s
  | .madd o => Sys2Proof.Machine.execMadd o s
  | .fadd o => Sys2Proof.Machine.execFadd o s
  | .fsub o => Sys2Proof.Machine.execFsub o s
  | .fmul o => Sys2Proof.Machine.execFmul o s
  | .ffma o => Sys2Proof.Machine.execFfma o s
  | .fdiv o => Sys2Proof.Machine.execFdiv o s
  | .fsqrt o => Sys2Proof.Machine.execFsqrt o s
  | .fmin o => Sys2Proof.Machine.execFmin o s
  | .fmax o => Sys2Proof.Machine.execFmax o s
  | .fcmp o => Sys2Proof.Machine.execFcmp o s
  | .fcvt o => Sys2Proof.Machine.execFcvt o s
  | .fcvti o => Sys2Proof.Machine.execFcvti o s
  | .icvtf o => Sys2Proof.Machine.execIcvtf o s
  | .fabs o => Sys2Proof.Machine.execFabs o s
  | .fneg o => Sys2Proof.Machine.execFneg o s
  | .fclass o => Sys2Proof.Machine.execFclass o s
  | .fabn o => Sys2Proof.Machine.execFabn o s
  | .br o => Sys2Proof.Machine.execBr o s
  | .bcc o => Sys2Proof.Machine.execBcc o s
  | .bz o => Sys2Proof.Machine.execBz o s
  | .bnz o => Sys2Proof.Machine.execBnz o s
  | .bmany o => Sys2Proof.Machine.execBmany o s
  | .bmall o => Sys2Proof.Machine.execBmall o s
  | .bmnone o => Sys2Proof.Machine.execBmnone o s
  | .call o => Sys2Proof.Machine.execCall o s
  | .callr o => Sys2Proof.Machine.execCallr o s
  | .jr o => Sys2Proof.Machine.execJr o s
  | .gate o => Sys2Proof.Machine.execGate o s
  | .loopd o => Sys2Proof.Machine.execLoopd o s
  | .ld o => Sys2Proof.Machine.execLd o s
  | .st o => Sys2Proof.Machine.execSt o s
  | .ldx o => Sys2Proof.Machine.execLdx o s
  | .stx o => Sys2Proof.Machine.execStx o s
  | .ldk o => Sys2Proof.Machine.execLdk o s
  | .pref o => Sys2Proof.Machine.execPref o s
  | .amo o => Sys2Proof.Machine.execAmo o s
  | .cas o => Sys2Proof.Machine.execCas o s
  | .cas2 o => Sys2Proof.Machine.execCas2 o s
  | .ldacq o => Sys2Proof.Machine.execLdacq o s
  | .strel o => Sys2Proof.Machine.execStrel o s
  | .acq o => Sys2Proof.Machine.execAcq o s
  | .rel o => Sys2Proof.Machine.execRel o s
  | .bind o => Sys2Proof.Machine.execBind o s
  | .unbind o => Sys2Proof.Machine.execUnbind o s
  | .fence o => Sys2Proof.Machine.execFence o s
  | .mfsr o => Sys2Proof.Machine.execMfsr o s
  | .mtsr o => Sys2Proof.Machine.execMtsr o s
  | .mtsrVl o => Sys2Proof.Machine.execMtsrVl o s
  | .mtsrVstart o => Sys2Proof.Machine.execMtsrVstart o s
  | .mtsrVfs o => Sys2Proof.Machine.execMtsrVfs o s
  | .mtsrLanemap o => Sys2Proof.Machine.execMtsrLanemap o s
  | .mtsrTm o => Sys2Proof.Machine.execMtsrTm o s
  | .mtsrTn o => Sys2Proof.Machine.execMtsrTn o s
  | .mtsrTk o => Sys2Proof.Machine.execMtsrTk o s
  | .mtsrTrow o => Sys2Proof.Machine.execMtsrTrow o s
  | .mtsrTstat o => Sys2Proof.Machine.execMtsrTstat o s
  | .mtsrTtype o => Sys2Proof.Machine.execMtsrTtype o s
  | .mtsrFpflags o => Sys2Proof.Machine.execMtsrFpflags o s
  | .mtsrCc o => Sys2Proof.Machine.execMtsrCc o s
  | .mtsrMmode o => Sys2Proof.Machine.execMtsrMmode o s
  | .mtsrTimer o => Sys2Proof.Machine.execMtsrTimer o s
  | .mtsrTstatus o => Sys2Proof.Machine.execMtsrTstatus o s
  | .mtsrTvecGtbGtn o => Sys2Proof.Machine.execMtsrTvecGtbGtn o s
  | .trap o => Sys2Proof.Machine.execTrap o s
  | .brk o => Sys2Proof.Machine.execBrk o s
  | .tlbinv o => Sys2Proof.Machine.execTlbinv o s
  | .tlbinvDie o => Sys2Proof.Machine.execTlbinvDie o s
  | .flushr o => Sys2Proof.Machine.execFlushr o s
  | .cinv o => Sys2Proof.Machine.execCinv o s
  | .tclaim o => Sys2Proof.Machine.execTclaim o s
  | .waitev o => Sys2Proof.Machine.execWaitev o s
  | .waitevArm o => Sys2Proof.Machine.execWaitevArm o s
  | .launch o => Sys2Proof.Machine.execLaunch o s
  | .ctxsave o => Sys2Proof.Machine.execCtxsave o s
  | .ctxload o => Sys2Proof.Machine.execCtxload o s
  | .vconfig o => Sys2Proof.Machine.execVconfig o s
  | .setvl o => Sys2Proof.Machine.execSetvl o s
  | .setvli o => Sys2Proof.Machine.execSetvli o s
  | .mset o => Sys2Proof.Machine.execMset o s
  | .mclr o => Sys2Proof.Machine.execMclr o s
  | .mand o => Sys2Proof.Machine.execMand o s
  | .mor o => Sys2Proof.Machine.execMor o s
  | .mxor o => Sys2Proof.Machine.execMxor o s
  | .mnot o => Sys2Proof.Machine.execMnot o s
  | .mandn o => Sys2Proof.Machine.execMandn o s
  | .mpop o => Sys2Proof.Machine.execMpop o s
  | .mfirst o => Sys2Proof.Machine.execMfirst o s
  | .mbefore o => Sys2Proof.Machine.execMbefore o s
  | .mincl o => Sys2Proof.Machine.execMincl o s
  | .monly o => Sys2Proof.Machine.execMonly o s
  | .mval o => Sys2Proof.Machine.execMval o s
  | .vadd o => Sys2Proof.Machine.execVadd o s
  | .vsub o => Sys2Proof.Machine.execVsub o s
  | .vmul o => Sys2Proof.Machine.execVmul o s
  | .vmulh o => Sys2Proof.Machine.execVmulh o s
  | .vdiv o => Sys2Proof.Machine.execVdiv o s
  | .vrem o => Sys2Proof.Machine.execVrem o s
  | .vmadd o => Sys2Proof.Machine.execVmadd o s
  | .vand o => Sys2Proof.Machine.execVand o s
  | .vor o => Sys2Proof.Machine.execVor o s
  | .vxor o => Sys2Proof.Machine.execVxor o s
  | .vshl o => Sys2Proof.Machine.execVshl o s
  | .vshr o => Sys2Proof.Machine.execVshr o s
  | .vsar o => Sys2Proof.Machine.execVsar o s
  | .vmin o => Sys2Proof.Machine.execVmin o s
  | .vmax o => Sys2Proof.Machine.execVmax o s
  | .vadds o => Sys2Proof.Machine.execVadds o s
  | .vsubs o => Sys2Proof.Machine.execVsubs o s
  | .vcmp o => Sys2Proof.Machine.execVcmp o s
  | .vsel o => Sys2Proof.Machine.execVsel o s
  | .vmov o => Sys2Proof.Machine.execVmov o s
  | .vsplat o => Sys2Proof.Machine.execVsplat o s
  | .viota o => Sys2Proof.Machine.execViota o s
  | .vext o => Sys2Proof.Machine.execVext o s
  | .vpopc o => Sys2Proof.Machine.execVpopc o s
  | .vclz o => Sys2Proof.Machine.execVclz o s
  | .vmvxs o => Sys2Proof.Machine.execVmvxs o s
  | .vmvsx o => Sys2Proof.Machine.execVmvsx o s
  | .vabs o => Sys2Proof.Machine.execVabs o s
  | .vfadd o => Sys2Proof.Machine.execVfadd o s
  | .vfsub o => Sys2Proof.Machine.execVfsub o s
  | .vfmul o => Sys2Proof.Machine.execVfmul o s
  | .vfma o => Sys2Proof.Machine.execVfma o s
  | .vfnma o => Sys2Proof.Machine.execVfnma o s
  | .vfdiv o => Sys2Proof.Machine.execVfdiv o s
  | .vfsqrt o => Sys2Proof.Machine.execVfsqrt o s
  | .vfmin o => Sys2Proof.Machine.execVfmin o s
  | .vfmax o => Sys2Proof.Machine.execVfmax o s
  | .vfcmp o => Sys2Proof.Machine.execVfcmp o s
  | .vfcvt o => Sys2Proof.Machine.execVfcvt o s
  | .vfcvti o => Sys2Proof.Machine.execVfcvti o s
  | .vicvtf o => Sys2Proof.Machine.execVicvtf o s
  | .vfabs o => Sys2Proof.Machine.execVfabs o s
  | .vfneg o => Sys2Proof.Machine.execVfneg o s
  | .vfrece o => Sys2Proof.Machine.execVfrece o s
  | .vfrsqe o => Sys2Proof.Machine.execVfrsqe o s
  | .vredsum o => Sys2Proof.Machine.execVredsum o s
  | .vredmin o => Sys2Proof.Machine.execVredmin o s
  | .vredmax o => Sys2Proof.Machine.execVredmax o s
  | .vredbit o => Sys2Proof.Machine.execVredbit o s
  | .vdot o => Sys2Proof.Machine.execVdot o s
  | .vlmul o => Sys2Proof.Machine.execVlmul o s
  | .vladd o => Sys2Proof.Machine.execVladd o s
  | .vtstabn o => Sys2Proof.Machine.execVtstabn o s
  | .vperm o => Sys2Proof.Machine.execVperm o s
  | .vslideup o => Sys2Proof.Machine.execVslideup o s
  | .vslidedn o => Sys2Proof.Machine.execVslidedn o s
  | .vcompress o => Sys2Proof.Machine.execVcompress o s
  | .vexpand o => Sys2Proof.Machine.execVexpand o s
  | .vzip o => Sys2Proof.Machine.execVzip o s
  | .vunzip o => Sys2Proof.Machine.execVunzip o s
  | .vrev o => Sys2Proof.Machine.execVrev o s
  | .vscan o => Sys2Proof.Machine.execVscan o s
  | .vsortk o => Sys2Proof.Machine.execVsortk o s
  | .vld o => Sys2Proof.Machine.execVld o s
  | .vlds o => Sys2Proof.Machine.execVlds o s
  | .vldx o => Sys2Proof.Machine.execVldx o s
  | .vldff o => Sys2Proof.Machine.execVldff o s
  | .vldxff o => Sys2Proof.Machine.execVldxff o s
  | .vst o => Sys2Proof.Machine.execVst o s
  | .vsts o => Sys2Proof.Machine.execVsts o s
  | .vstx o => Sys2Proof.Machine.execVstx o s
  | .vpref o => Sys2Proof.Machine.execVpref o s
  | .vamo o => Sys2Proof.Machine.execVamo o s
  | .vcas o => Sys2Proof.Machine.execVcas o s
  | .vwait o => Sys2Proof.Machine.execVwait o s
  | .ccwait o => Sys2Proof.Machine.execCcwait o s
  | .ccset o => Sys2Proof.Machine.execCcset o s
  | .bytewait o => Sys2Proof.Machine.execBytewait o s
  | .bytesub o => Sys2Proof.Machine.execBytesub o s
  | .wmpub o => Sys2Proof.Machine.execWmpub o s
  | .wmwait o => Sys2Proof.Machine.execWmwait o s
  | .barrier o => Sys2Proof.Machine.execBarrier o s
  | .tshape o => Sys2Proof.Machine.execTshape o s
  | .tzero o => Sys2Proof.Machine.execTzero o s
  | .tmac o => Sys2Proof.Machine.execTmac o s
  | .tldacc o => Sys2Proof.Machine.execTldacc o s
  | .tstacc o => Sys2Proof.Machine.execTstacc o s
  | .trd o => Sys2Proof.Machine.execTrd o s
  | .twr o => Sys2Proof.Machine.execTwr o s
  | .vdotv o => Sys2Proof.Machine.execVdotv o s
  | .topkinit o => Sys2Proof.Machine.execTopkinit o s
  | .topki o => Sys2Proof.Machine.execTopki o s
  | .topkr o => Sys2Proof.Machine.execTopkr o s
  | .sinter o => Sys2Proof.Machine.execSinter o s
  | .smerge o => Sys2Proof.Machine.execSmerge o s
  | .hinit o => Sys2Proof.Machine.execHinit o s
  | .hacc o => Sys2Proof.Machine.execHacc o s
  | .hdrain o => Sys2Proof.Machine.execHdrain o s
  | .copy o => Sys2Proof.Machine.execCopy o s
  | .cbcopy o => Sys2Proof.Machine.execCbcopy o s
  | .cbwaitf o => Sys2Proof.Machine.execCbwaitf o s
  | .cbfree o => Sys2Proof.Machine.execCbfree o s
  | .publish o => Sys2Proof.Machine.execPublish o s
  | .shadow o => Sys2Proof.Machine.execShadow o s
  | .rsend o => Sys2Proof.Machine.execRsend o s
  | .rfetch o => Sys2Proof.Machine.execRfetch o s
  | .xsend o => Sys2Proof.Machine.execXsend o s
  | .csend o => Sys2Proof.Machine.execCsend o s
  | .colldef o => Sys2Proof.Machine.execColldef o s
  | .collrun o => Sys2Proof.Machine.execCollrun o s
  | .collwait o => Sys2Proof.Machine.execCollwait o s
  | .wopen o => Sys2Proof.Machine.execWopen o s
  | .wrevoke o => Sys2Proof.Machine.execWrevoke o s
  | .grant o => Sys2Proof.Machine.execGrant o s
  | .revoke o => Sys2Proof.Machine.execRevoke o s
  | .pFormPair a b => Sys2Proof.Machine.execPFormPair a b s
  | .literalWordExecute w => Sys2Proof.Machine.execLiteralWordExecute w s
  | .illegalOpcodeWord w => Sys2Proof.Machine.execIllegalOpcodeWord w s
  | .gret => Sys2Proof.Machine.execGret s
  | .exit => Sys2Proof.Machine.execExit s
  | .exitRelease => Sys2Proof.Machine.execExitRelease s
  | .yield => Sys2Proof.Machine.execYield s
  | .nop => Sys2Proof.Machine.execNop s
  | .regionSet => Sys2Proof.Machine.execRegionSet s
  | .regionClear => Sys2Proof.Machine.execRegionClear s
  | .throttle => Sys2Proof.Machine.execThrottle s
  | .lanes => Sys2Proof.Machine.execLanes s
  | .eret => Sys2Proof.Machine.execEret s
  | .trels => Sys2Proof.Machine.execTrels s
  | .ifence => Sys2Proof.Machine.execIfence s
  | .deferredStoreTrap => Sys2Proof.Machine.execDeferredStoreTrap s
  | .stepTrap => Sys2Proof.Machine.execStepTrap s
  | .eventTrap => Sys2Proof.Machine.execEventTrap s
  | .timerDeadline => Sys2Proof.Machine.execTimerDeadline s
  | .doorbellWrite => Sys2Proof.Machine.execDoorbellWrite s
  | .tail => Sys2Proof.Machine.execTail s
  | .ringSize => Sys2Proof.Machine.execRingSize s
  | .ringBase => Sys2Proof.Machine.execRingBase s
  | .irq => Sys2Proof.Machine.execIrq s
  | .apbase => Sys2Proof.Machine.execApbase s
  | .launchAccept => Sys2Proof.Machine.execLaunchAccept s
  | .afterCellsReady => Sys2Proof.Machine.execAfterCellsReady s
  | .taskStart => Sys2Proof.Machine.execTaskStart s
  | .agingPromotion => Sys2Proof.Machine.execAgingPromotion s
  | .budgetExpiry => Sys2Proof.Machine.execBudgetExpiry s
  | .quantumExpiry => Sys2Proof.Machine.execQuantumExpiry s
  | .preemptDeferralExpiry => Sys2Proof.Machine.execPreemptDeferralExpiry s
  | .preemptionSave => Sys2Proof.Machine.execPreemptionSave s
  | .contextRestore => Sys2Proof.Machine.execContextRestore s
  | .lostContextResume => Sys2Proof.Machine.execLostContextResume s
  | .launchCompletion => Sys2Proof.Machine.execLaunchCompletion s
  | .ccPieceEnd => Sys2Proof.Machine.execCcPieceEnd s
  | .watchWake => Sys2Proof.Machine.execWatchWake s
  | .watchPoll => Sys2Proof.Machine.execWatchPoll s
  | .watermarkPush => Sys2Proof.Machine.execWatermarkPush s
  | .tlbEntryExpiry => Sys2Proof.Machine.execTlbEntryExpiry s
  | .pageInComplete => Sys2Proof.Machine.execPageInComplete s
  | .pageSettledExpiry => Sys2Proof.Machine.execPageSettledExpiry s
  | .lanemapApply => Sys2Proof.Machine.execLanemapApply s
  | .formatRegionEnable => Sys2Proof.Machine.execFormatRegionEnable s
  | .formatRegionDisable => Sys2Proof.Machine.execFormatRegionDisable s
  | .readRequest => Sys2Proof.Machine.execReadRequest s
  | .write => Sys2Proof.Machine.execWrite s
  | .atomic => Sys2Proof.Machine.execAtomic s
  | .fabricData => Sys2Proof.Machine.execFabricData s
  | .orderedFlag => Sys2Proof.Machine.execOrderedFlag s
  | .orderedFlagCommit => Sys2Proof.Machine.execOrderedFlagCommit s
  | .collectiveContribution => Sys2Proof.Machine.execCollectiveContribution s
  | .collectiveStep => Sys2Proof.Machine.execCollectiveStep s
  | .combineSlotExpiry => Sys2Proof.Machine.execCombineSlotExpiry s
  | .readReply => Sys2Proof.Machine.execReadReply s
  | .acknowledgement => Sys2Proof.Machine.execAcknowledgement s
  | .nackBusy => Sys2Proof.Machine.execNackBusy s
  | .nackRetry => Sys2Proof.Machine.execNackRetry s
  | .nackBusyTimeout => Sys2Proof.Machine.execNackBusyTimeout s
  | .retryTimeout => Sys2Proof.Machine.execRetryTimeout s
  | .xsendRetry => Sys2Proof.Machine.execXsendRetry s
  | .gangReservationMessage => Sys2Proof.Machine.execGangReservationMessage s
  | .preemptionMessage => Sys2Proof.Machine.execPreemptionMessage s
  | .completionReport => Sys2Proof.Machine.execCompletionReport s
  | .windowShootdown => Sys2Proof.Machine.execWindowShootdown s
  | .railFailure => Sys2Proof.Machine.execRailFailure s
  | .railFailover => Sys2Proof.Machine.execRailFailover s
  | .hostRead => Sys2Proof.Machine.execHostRead s
  | .hostWrite => Sys2Proof.Machine.execHostWrite s
  | .packageReset => Sys2Proof.Machine.execPackageReset s
  | .rootOfTrustBoot => Sys2Proof.Machine.execRootOfTrustBoot s
  | .fullServiceTransition => Sys2Proof.Machine.execFullServiceTransition s
  | .spdmGetVersion => Sys2Proof.Machine.execSpdmGetVersion s
  | .spdmGetCapabilities => Sys2Proof.Machine.execSpdmGetCapabilities s
  | .spdmNegotiateAlgorithms => Sys2Proof.Machine.execSpdmNegotiateAlgorithms s
  | .spdmGetCertificate => Sys2Proof.Machine.execSpdmGetCertificate s
  | .spdmChallenge => Sys2Proof.Machine.execSpdmChallenge s
  | .spdmGetMeasurements => Sys2Proof.Machine.execSpdmGetMeasurements s
  | .spdmKeyExchange => Sys2Proof.Machine.execSpdmKeyExchange s
  | .thermalStepUp => Sys2Proof.Machine.execThermalStepUp s
  | .thermalStepDown => Sys2Proof.Machine.execThermalStepDown s
  | .thermalClamp => Sys2Proof.Machine.execThermalClamp s
  | .thermalTrip => Sys2Proof.Machine.execThermalTrip s
  | .voltageDroop => Sys2Proof.Machine.execVoltageDroop s
  | .voltageDroopExpiry => Sys2Proof.Machine.execVoltageDroopExpiry s
  | .packagePowerLimit => Sys2Proof.Machine.execPackagePowerLimit s
  | .modulePowerLimit => Sys2Proof.Machine.execModulePowerLimit s
  | .patrolScrub => Sys2Proof.Machine.execPatrolScrub s
  | .reservedKindPacket => Sys2Proof.Machine.execReservedKindPacket s
  | .linkLevelRetry => Sys2Proof.Machine.execLinkLevelRetry s
  | .gatewayForward => Sys2Proof.Machine.execGatewayForward s
  | .firmwareImageUpdate => Sys2Proof.Machine.execFirmwareImageUpdate s
  | .ideKeyManagement => Sys2Proof.Machine.execIdeKeyManagement s

end Sys2Proof.Machine
end

