-- ==== Sys2Proof/Machine/Cycle.lean ====
section
/-! DEFINITION. How the machine moves (spec/03_execution.md R57 to R64; spec/11_encoding.md R194): what the agenda orders, the traps of a commit
boundary, the vector queue, fetching, decoding and committing, and the work in progress that a parked strand leaves room for. Every move performs one
operation of the table through exec. -/

namespace Sys2Proof.Machine

/-! Who moves. -/

/-- The strand of a task becomes the current one; the strand that was keeps its place among the others. -/
def selectTask (s : State) (tid : Nat) : State :=
  match s.others.find? (fun t => t.tid = tid) with
  | none => s
  | some t => { s with cpu := t, others := s.others.filter (fun u => u.tid ≠ tid) ++ (if s.cpu.tid = 0 then [] else [s.cpu]) }

/-- The next strand in turn becomes the current one (R63). -/
def rotate (s : State) : State :=
  match s.others with
  | [] => s
  | t :: rest => { s with cpu := t, others := rest ++ (if s.cpu.tid = 0 then [] else [s.cpu]) }

/-! The agenda. -/

/-- A firmware service by its number (R381). -/
def serviceOf (n : Nat) : Option Instr :=
  if n = 0xF001 then some .regionSet else if n = 0xF002 then some .regionClear else if n = 0xF003 then some .throttle
  else if n = 0xF004 then some .lanes else none

/-- An event of the table: it has no instruction word. -/
def isEvent (i : Instr) : Bool := (encode i).isEmpty

/-- What an entry of the agenda does. -/
def act (a : Action) (s : State) : Out :=
  match a with
  | .event i arg => if isEvent i then exec i { s with arg := arg } else .next s
  | .select tid => .next (selectTask s tid)
  | .tick ns => .next { s with time := s.time + ns }
  | .lose index => .next { s with wire := s.wire.eraseIdx index }
  | .dropLine core ha =>
    (let c := s.core core
     .next (s.setCore core { c with l1 := c.l1.filter (fun l => l.ha ≠ ha), icache := c.icache.filter (fun l => l.ha ≠ ha) }))
  | .service =>
    (match serviceOf s.cpu.trapH.tval.toNat with
     | some i => exec i s
     | none => unassignedService s)
  | .evict chan sector => .next (writeBackSector s chan sector false)
  | .parity core ha => .next (parityError s core ha)
  | .strike word => .next (strikeWord s word)
  | .strikeOwn tid key => .next (strikeRegister s tid key)
  | .setQuota pkg vi bytes => .next (setQuota s pkg vi bytes)
  | .setRoot chan vi pa => .next (setRoot s chan vi pa)
  | .endLaunch id_ => .next (endLaunch s id_)
  | .setShares pkg vi budgets weight quantum => .next (setShares s pkg vi budgets weight quantum)
  | .setLimit pkg watts => .next (setLimit s pkg watts)
  | .thermal die monitor degrees => .next (readThermal s die monitor degrees)
  | .voltage die monitor permille => .next (readVoltage s die monitor permille)
  | .soft word => .next (softWord s word)
  | .softOwn tid key => .next (softRegister s tid key)
  | .correct word => .next (correctWord s word)
  | .correctOwn tid key => .next (correctRegister s tid key)
  | .laneError core group word uncorrectable => .next (noteLaneError s core group word uncorrectable)
  | .retireGroup core group => .next (retireGroup s core group)
  | .markFailed core => .next (markFailed s core)

/-! What a tripped package no longer does (R389). -/

/-- The packages of the tasks, saved or running, with a number. -/
def taskPkgs (s : State) (tid : Nat) : List Nat := ((s.strands ++ s.saved.map (·.strand)).filter (fun t => t.tid = tid)).map (·.pkg)

/-- The packages of a saved task's whole group, which resumes together. -/
def groupPkgs (s : State) (tid : Nat) : List Nat :=
  (s.saved.filter (fun x => x.strand.tid = tid)).flatMap (fun x => (savedGroup s x.strand).map (·.pkg))

/-- The packages that accept a launch and write its record. -/
def launchPkgs (s : State) (id_ : Nat) : List Nat := (s.launches.filter (fun (l : Launch) => l.id = id_)).flatMap (fun l => [l.pkg, homeOfLaunch s l])

/-- R389: the packages that have to run for an event of the table to happen. An event that only makes a strand look again, or that its own condition holds back,
names none. -/
def eventPkgs (s : State) (i : Instr) (a : EventArg) : List Nat :=
  let piece := s.pieces.filter (fun p => p.id = a.key)
  let source := piece.map (·.srcPkg)
  match i with
  | .exitRelease | .timerDeadline | .watermarkPush | .collectiveStep | .preemptDeferralExpiry | .preemptionSave => taskPkgs s a.key
  | .contextRestore | .lostContextResume => groupPkgs s a.key
  | .doorbellWrite | .tail | .ringSize | .ringBase | .irq | .apbase | .hostRead | .hostWrite | .pageInComplete | .firmwareImageUpdate | .ideKeyManagement
  | .packagePowerLimit | .modulePowerLimit | .patrolScrub => [a.pkg]
  | .afterCellsReady | .agingPromotion | .launchCompletion => launchPkgs s a.key
  | .ccPieceEnd | .nackRetry | .nackBusyTimeout | .retryTimeout | .xsendRetry => source
  | .orderedFlagCommit => source ++ piece.map (fun p => placeDie s p.place / 8)
  | .tlbEntryExpiry | .lanemapApply => [a.key / 1024]
  | .pageSettledExpiry | .formatRegionEnable | .formatRegionDisable => [a.key / 128]
  | .combineSlotExpiry | .railFailure | .railFailover | .thermalStepUp | .thermalStepDown | .thermalClamp | .thermalTrip | .voltageDroop
  | .voltageDroopExpiry => [a.key / 8]
  | .readRequest | .write | .atomic | .fabricData | .orderedFlag | .collectiveContribution | .readReply | .acknowledgement | .nackBusy
  | .gangReservationMessage | .preemptionMessage | .completionReport | .windowShootdown | .reservedKindPacket => (s.wire[a.index]?).toList.map (·.dstPkg)
  | .deferredStoreTrap | .stepTrap | .eventTrap | .regionSet | .regionClear | .throttle | .lanes => [s.cpu.pkg]
  | _ => []

/-- R389: the packages that have to run for an entry of the agenda: firmware and caches of a tripped package do nothing. Time, lost packets and errors in storage
need none. -/
def actPkgs (s : State) (a : Action) : List Nat :=
  match a with
  | .event i arg => eventPkgs s i arg
  | .service => [s.cpu.pkg]
  | .evict chan _ => [chan / 128]
  | .parity core _ => [core / 1024]
  | .setQuota pkg _ _ => [pkg]
  | .setRoot chan _ _ => [chan / 128]
  | .endLaunch id_ => launchPkgs s id_
  | .setShares pkg _ _ _ _ => [pkg]
  | .setLimit pkg _ => [pkg]
  | .thermal die _ _ => [die / 8]
  | .voltage die _ _ => [die / 8]
  | .correct word => [haPkg (8 * word)]
  | .correctOwn tid _ => taskPkgs s tid
  | .laneError core _ _ _ => [core / 1024]
  | .retireGroup core _ => [core / 1024]
  | .markFailed core => [core / 1024]
  | .select _ => []
  | .tick _ => []
  | .lose _ => []
  | .dropLine _ _ => []
  | .strike _ => []
  | .strikeOwn _ _ => []
  | .soft _ => []
  | .softOwn _ _ => []

/-- R389: none of some packages has tripped. -/
def allRun (s : State) (l : List Nat) : Bool := !l.any (haltedPkg s)

/-! Fetching and decoding (R177, R178, R194). -/

/-- What stands at the pc. -/
inductive Fetched where
  /-- An instruction, its first word, and how many words it takes. -/
  | instr (i : Instr) (w : Word) (words : Nat) (s : State)
  /-- A word that is no instruction: the cause and TVAL of its trap. -/
  | illegal (cause : Nat) (w : Word) (s : State)
  /-- A fault of the fetch (R337). -/
  | fault (cause : Nat) (tval : Word) (s : State)
  /-- The fetch stalls on a page (R122). -/
  | wait (s : State)

/-- The instruction at the pc of the current strand. -/
def fetchInstr (s : State) : Fetched :=
  match fetch s with
  | .fault c t s1 => .fault c t s1
  | .wait s1 => .wait s1
  | .ok (w, f) s1 =>
    match decode w f with
    | .illFld x => .illegal causeIllFld x s1
    | .illPair x => .illegal causeIllPair x s1
    | .instr i n => .instr i w n s1

/-- R386: in reduced service the matrix unit has the types `.bf16` and `.l8` only. -/
def shapeNotServed (s : State) (i : Instr) : Bool :=
  match i with
  | .tshape o => (s.pkg s.cpu.pkg).stage == 3 && o.T != 9 && o.T != 12
  | _ => false

/-- What a queued instruction traps on as it commits (R57, R193, R194, R197, R386). -/
def enqueueFault (s : State) (i : Instr) (w : Word) : Option (Nat × Word) :=
  if shapeNotServed s i then some (causeIllFld, w)
  else
    match commitFault s.cpu i w with
    | some x => some x
    | none => pairFault s.cpu i

/-- A scalar instruction that accesses memory (R155): OP 0x080 to 0x08D but PREF. -/
def scalarAccess (i : Instr) : Bool :=
  match i.form with
  | some f => decide (0x080 ≤ f.op) && decide (f.op ≤ 0x08D) && f.op != 0x085
  | none => false

/-- R155: an access of acquire order that comes before has not been performed: an entry of `earlier`, or a piece on its way. -/
def heldByAcquire (s : State) (earlier : List QEntry) : Bool :=
  earlier.any QEntry.acquires || s.pieces.any (fun p => p.tid = s.cpu.tid && p.acquire && p.performed.isNone)

/-- The head of the queue is performed, unless it accesses memory behind an acquire that is on its way. An entry that was held begins at the start it
recorded (R333). -/
def runHead (s : State) (e : QEntry) : Out :=
  if e.accesses && heldByAcquire s [] then .next s.park else exec e.instr (s.onCpu Strand.beginHead)

/-- An instruction commits. R194: its fields and its privilege are judged before its operands are read, so a poisoned g register (UE_DATA with TVAL 0,
R391) comes after them; the meaning of a scalar instruction raises its own PRIV. R398: a release-ordered access does not commit before every earlier blocking
scalar store has been answered. -/
def commitInstr (i : Instr) (w : Word) (words : Nat) (s : State) : Out :=
  if isQueued i then
    match enqueueFault s i w with
    | some (c, x) => .next (scalarTrap s c x)
    | none =>
      if releasesOf i && postsOut s then .next s.park else runHead (enqueue s i w words) (entryOf s.cpu i w)
  else if privFault s.cpu i then exec i s
  else if readsPoison s.cpu i then .next (scalarTrap s causeUeData 0)
  else if scalarAccess i && heldByAcquire s [] then .next s.park
  else exec i (s.onCpu (fun t => { t with entering := false }))

/-- With an empty queue the strand fetches and commits its next instruction; a queued one is performed at once. -/
def runScalar (s : State) : Out :=
  match fetchInstr s with
  | .instr i w n s1 => commitInstr i w n s1
  | .illegal c w s1 => .next (scalarTrap s1 c w)
  | .fault c t s1 => .next (fetchTrap s1 c t)
  | .wait s1 => .next s1.park

/-! Running ahead of a queue whose head waits (R57, R58). -/

/-- The g registers that the queue has still to write. -/
def queueWrites (s : State) : List Nat := (s.cpu.queue.flatMap (fun e => gWrites e.instr)).filter (· ≠ 0)

/-- R58: an instruction reads or writes none of the registers that the queue has still to write. -/
def independent (s : State) (i : Instr) : Bool :=
  let p := queueWrites s
  !(gReads i).any (fun n => p.contains n) && (isQueued i || !(gWrites i).any (fun n => p.contains n))

/-- The next instruction commits while the head of the queue waits; none where it must wait itself, or would trap. -/
def runAhead (s : State) : Option State :=
  if s.cpu.stepArm.isSome then none
  else
    match fetchInstr s with
    | .illegal _ _ _ => none
    | .fault _ _ _ => none
    | .wait _ => none
    | .instr i w n s1 =>
      if !independent s1 i || readsPoison s1.cpu i || (scalarAccess i && heldByAcquire s1 s1.cpu.queue) then none
      else if isQueued i then
        if s1.cpu.queue.length < Config.queueDepth && (enqueueFault s1 i w).isNone && !(releasesOf i && postsOut s1) then some (enqueue s1 i w n) else none
      else
        match exec i (s1.onCpu (fun t => { t with entering := false })) with
        | .next s2 => if s2.cpu.parked && s2.cpu.trip.isNone then none else some s2
        | .fault _ => none
        | .refused _ => none

/-! Work in progress. -/

/-- The event of a packet's arrival. -/
def arrivalOf (k : Packet) : Instr :=
  match k.kind with
  | .readRequest => .readRequest
  | .write => .write
  | .atomic => .atomic
  | .data => .fabricData
  | .orderedFlag => .orderedFlag
  | .contribution => .collectiveContribution
  | .readReply => .readReply
  | .acknowledgement => .acknowledgement
  | .nackBusy => .nackBusy
  | .gang => .gangReservationMessage
  | .preempt => .preemptionMessage
  | .report => .completionReport
  | .shootdown => .windowShootdown
  | .reserved _ => .reservedKindPacket

/-- An event with its argument. -/
abbrev Occurrence := Instr × EventArg

/-- What stands ready to happen, in the order in which it is tried: packets, pieces, page-ins, watermarks, collective steps, ends of tasks. A piece
that was refused waits 1 microsecond for its retry (R319, R370). -/
def occurrences (s : State) : List Occurrence :=
  s.wire.zipIdx.map (fun x => (if x.1.here then arrivalOf x.1 else .gatewayForward, { index := x.2, packet := x.1 }))
  ++ (s.pieces.filter (fun p => !p.remote && p.busyAt.isNone)).map (fun p => (.ccPieceEnd, { key := p.id }))
  ++ (s.pieces.filter (fun p => p.busyAt.isSome && p.rested s.time)).map (fun p => (.nackRetry, { key := p.id }))
  ++ s.hostWaits.map (fun x => (if x.2 then .hostWrite else .hostRead, x.1))
  ++ s.pieces.map (fun p => (.orderedFlagCommit, { key := p.id }))
  ++ s.pageIns.zipIdx.map (fun x => (.pageInComplete, { index := x.2, pkg := s.cpu.pkg }))
  ++ s.strands.flatMap (fun t => t.links.zipIdx.map (fun x => (.watermarkPush, { key := t.tid, index := x.2 })))
  ++ s.strands.flatMap (fun t => t.runs.map (fun r => (.collectiveStep, { key := t.tid, index := r.id })))
  ++ (s.strands.filter (exitReady s)).map (fun t => (.exitRelease, { key := t.tid }))

/-- The first of some events that changes anything, performed; those of a tripped package do not happen (R389). -/
def firstChange (s : State) : List Occurrence → Option State
  | [] => none
  | (i, a) :: rest =>
    if !allRun s (eventPkgs s i a) then firstChange s rest
    else
      match exec i { s with arg := a } with
      | .next s1 => if { s1 with arg := s.arg } = s then firstChange s rest else some { s1 with arg := s.arg }
      | .fault _ => firstChange s rest
      | .refused _ => firstChange s rest

/-- The turn of the work in progress: one thing that stands ready happens, and the next strand has its turn. Decoded sectors that the caches have put out are
written back before and after (R96). -/
def workTurn (s : State) : State :=
  let s1 := writeEvicted s
  rotate (writeEvicted ((firstChange s1 (occurrences s1)).getD s1))

/-- An outcome's next state changed. -/
def mapNext (f : State → State) (x : Out) : Out :=
  match x with
  | .next s => .next (f s)
  | .fault e => .fault e
  | .refused r => .refused r

/-- A trap of a commit boundary stands before the next instruction (R398, R336, R339). -/
def trapsNext (t : Strand) : Bool := !t.deferred.isEmpty || (t.stepArm.isSome && t.stepDone) || (pendingEvent t).isSome

/-- The current strand is parked: it may run one instruction ahead of its queue; on its next turn it looks again at what it waits for (R62). -/
def idleMove (s : State) : State :=
  let awake := s.onCpu (fun t => { t with parked := false })
  if s.cpu.queue.isEmpty || s.cpu.exiting || trapsNext s.cpu then awake else (runAhead awake).getD awake

/-- An exiting strand that has nothing left to do leaves; otherwise its queue goes on. -/
def runExiting (s : State) : Out :=
  if exitReady s s.cpu then exec .exitRelease { s with arg := { key := s.cpu.tid } }
  else if s.cpu.queue.isEmpty || s.cpu.parked then .next (idleMove s)
  else
    match s.cpu.queue with
    | [] => .next s
    | e :: _ => runHead s e

/-- The strand waits for the packets of a scalar access: when they have ended, the instruction commits. -/
def runTrip (s : State) : Out :=
  match s.cpu.trip with
  | none => .next s
  | some x => exec x.instr (s.onCpu (fun t => { t with parked := false }))

/-- One move of the current strand. -/
def runStrand (s : State) : Out :=
  if tripping s.cpu then runTrip s
  else if trapsNext s.cpu && !headBusy s.cpu then
    if !s.cpu.deferred.isEmpty then exec .deferredStoreTrap s
    else if s.cpu.stepArm.isSome && s.cpu.stepDone then exec .stepTrap s
    else exec .eventTrap s
  else if s.cpu.exiting then runExiting s
  else if s.cpu.parked then .next (idleMove s)
  else
    match s.cpu.queue with
    | e :: _ => runHead s e
    | [] => runScalar s

/-- No package that runs a strand can move. -/
def allHalted (s : State) : Bool := haltedPkg s s.cpu.pkg && s.others.all (fun t => haltedPkg s t.pkg)

/-- One move of the machine: what the agenda orders, else the turn of the work in progress, else the turn of the current strand. Turns alternate, so that
every ready strand issues again after every other one has (R63). -/
def move (s : State) : Out :=
  match s.agenda with
  | a :: rest =>
    let s1 := writeEvicted { s with agenda := rest }
    if allRun s1 (actPkgs s1 a) then mapNext writeEvicted (act a s1) else .next s1
  | [] =>
    if s.background then .next (workTurn { s with background := false })
    else if s.cpu.tid = 0 then .next { s with background := true }
    else if haltedPkg s s.cpu.pkg then (if allHalted s then .fault .halted else .next { s with background := true })
    else runStrand { s with background := true }

/-! Placing an instruction (the host's check). -/

/-- The 8-byte words of an instruction whose table row has `nbits` bits: at least the two that a literal form takes. -/
def wordsOfBits (nbits w : Nat) : List Byte := leBytes 16 (w % 2 ^ nbits)

/-- A task at level H of package 0, whose pc is the physical address 0x1000; at H fetches need no translation (R330). -/
def probeStrand (t : Strand) : Strand :=
  { t with tid := 1, pkg := 0, die := 0, core := 0, slot := 0, level := .h, pc := 0x1000, parked := false, exiting := false, queue := [], deferred := [],
           stepArm := none, poison := [], trip := none, trapS := { t.trapS with ie := false } }

/-- The state with the words at the place from which its current strand, at level H, fetches next. -/
def placeWords (s : State) (nbits w : Nat) : State :=
  { s with cpu := probeStrand s.cpu, agenda := [], background := false, mem := memWrite s.mem 0x1000 (wordsOfBits nbits w), poison := [],
           cores := cellPut s.cores 0 { s.core 0 with icache := [] }, pkgs := cellPut s.pkgs 0 { s.pkg 0 with stage := 4 } }

end Sys2Proof.Machine
end

