-- ==== Sys2Proof/Safety.lean ====
section
/-! DEFINITION. What counts as a safe run: the invariant of the machine's plain data, and runs of steps that all answer a next state. -/

namespace Sys2Proof.Safety

open Sys2Proof.Machine

/-- The invariant that every step keeps: the machine's memory and the host's memory of spilled pages stand in the canonical form, so that equal
memories are equal data. -/
def Inv (s : State) : Prop := Memory.wf s.mem = true ∧ Memory.wf s.hostMem = true

/-- The state after `n` steps, if every one of them answers a next state. -/
def after : Nat → State → Option State
  | 0, s => some s
  | n + 1, s =>
    match step s with
    | .next s1 => after n s1
    | .fault _ => none
    | .refused _ => none

/-- A run of `n` steps is safe: no step of it faults or is refused. -/
def Runs (n : Nat) (s : State) : Prop := (after n s).isSome = true

/-- One state follows another by some number of steps. -/
def Reaches (s t : State) : Prop := ∃ n, after n s = some t

/-- The strand's next turn fetches and commits an instruction (R57): it runs a task in a package that is not halted, its queue is empty, it is not
parked or ending, it waits for no packet of a scalar access (R254), and no stored failure, STEP or event stands at its commit boundary (R398, R336, R339). -/
structure ReadyToFetch (s : State) : Prop where
  agenda     : s.agenda = []
  background : s.background = false
  task       : s.cpu.tid ≠ 0
  running    : (s.pkg s.cpu.pkg).stage ≠ 15
  deferred   : s.cpu.deferred = []
  step       : (s.cpu.stepArm.isSome && s.cpu.stepDone) = false
  event      : pendingEvent s.cpu = none
  exiting    : s.cpu.exiting = false
  parked     : s.cpu.parked = false
  queue      : s.cpu.queue = []
  trip       : tripping s.cpu = false

/-- An instruction at the head of the vector queue passes the checks made there: its v registers exist (R232), its types fit EW (R231), and none of
its source words is poisoned (R391). -/
structure HeadReady (i : Instr) (types : List Nat) (t : Strand) : Prop where
  registers : badVreg t i = none
  types     : types.any (fun ty => decide (ty < 13) && decide (t.ew < typeWidth ty)) = false
  sources   : poisonedSource t i = none

end Sys2Proof.Safety
end

