-- ==== Sys2Proof/Certificates/Slice0/Obligations.lean ====
section
/-! DEFINITION. The statements for the provers, with the helpers in whose terms they are made. -/

/-! Values as the spec words them, written without the model's arithmetic. -/

namespace Sys2Proof.Claims

open Sys2Proof.Machine Sys2Proof.Safety

/-- The width of an integer type code (R186). -/
def intWidth (t : Nat) : Nat := 8 * 2 ^ (t % 4)

/-- The value that an integer type reads from a register's low bits (R216). -/
def intValue (t : Nat) (x : Word) : Int :=
  if t < 4 then (x.setWidth (intWidth t)).toInt else ((x.setWidth (intWidth t)).toNat : Int)

/-- A result of an integer type's width in a g register: sign-extended for `.s`, zero-extended for `.n` (R216). -/
def intBits (t : Nat) (x : BitVec (intWidth t)) : Word := if t < 4 then x.signExtend 64 else x.setWidth 64

/-- An integer wrapped to the type's width, in a g register (R77, R216). -/
def intResult (t : Nat) (x : Int) : Word := intBits t (BitVec.ofInt (intWidth t) x)

/-- R187. -/
def condition (c : Nat) (a b : Int) : Prop :=
  (c = 0 ∧ a = b) ∨ (c = 1 ∧ a ≠ b) ∨ (c = 2 ∧ a < b) ∨ (c = 3 ∧ a ≤ b) ∨ (c = 4 ∧ a > b) ∨ (c = 5 ∧ a ≥ b)

/-- A scalar instruction has committed with `x` in D: the pc is past its words, and nothing else has changed but what a commit of any scalar
instruction changes (the strand is not parked; STEP's mark, R336). -/
def wrote (s : State) (o : Ops) (x : Word) : State := s.commit o.bytes (fun t => t.writeG o.D x)

/-- The same with flags added to FPFLAGS (R217). -/
def wroteFlags (s : State) (o : Ops) (x : Word) (fl : Flags) : State := s.commit o.bytes (fun t => (t.writeG o.D x).orFlags fl)

end Sys2Proof.Claims

open Sys2Proof Sys2Proof.Machine Sys2Proof.Safety Sys2Proof.Claims

/-! The machine as a whole. -/

/-- What reset leaves: no task on the current strand and no other strand, MMODE = 1 (R229), TTYPE = 15, TM, TN and TK = 1, TROW = 0 (R277), FPMODE and
FPFLAGS 0 (R85), the trap registers 0 (R330), no doorbell tail or drops, memory with nothing listed. Zeros of registers and
memory for which the spec gives no reset value are the model's choice (log entries 1, 2), and so are the empty lists of the model's own fields (log entry 3). -/
def Obligations.ResetState : Prop :=
  State.reset.cpu.tid = 0 ∧ State.reset.others = [] ∧ State.reset.cpu.mmode = true ∧ State.reset.cpu.ttype = 15
    ∧ State.reset.cpu.tm = 1 ∧ State.reset.cpu.tn = 1 ∧ State.reset.cpu.tk = 1 ∧ State.reset.cpu.trow = 0
    ∧ State.reset.cpu.fpmode = 0 ∧ State.reset.cpu.fpflags = 0 ∧ State.reset.cpu.vstart = 0
    ∧ State.reset.cpu.trapS = {} ∧ State.reset.cpu.trapH = {} ∧ State.reset.cpu.queue = []
    ∧ State.reset.mem = [] ∧ State.reset.launches = [] ∧ State.reset.pieces = [] ∧ State.reset.wire = []
    ∧ (∀ n, State.reset.cpu.readG n = 0) ∧ (∀ n, State.reset.cpu.readCC n = {}) ∧ (∀ n, State.reset.cpu.readBnd n = none)
    ∧ (∀ p v, (State.reset.viPkg p v).tvec = 0) ∧ (∀ p, (State.reset.pkg p).stage = 0) ∧ (∀ v, (State.reset.vi v).mscways = 0xFFFF)

/-- A strand that is ready to fetch, and at whose pc the words `w` and `f` stand, runs the scalar instruction that they decode to: the step is that
instruction's meaning, applied after the fetch. The model gives the work in progress the next turn (`background`, its own choice: log entry 54), and the handler-fetch mark of R329
is cleared. An instruction below its least level meets its own PRIV trap before its operands are read (R194). At level H a fetch is physical: the word at the pc is the eight bytes of the strand's package at that address, least significant first, where the
instruction cache holds no line for them and no word is poisoned (R3, R177, R330). -/
def Obligations.StepRunsScalar : Prop :=
  (∀ (s s1 : State) (w f : Word) (i : Instr) (n : Nat), ReadyToFetch s → fetch { s with background := true } = .ok (w, f) s1 →
      decode w f = .instr i n → isQueued i = false →
      (privFault s1.cpu i = true → step s = exec i s1)
        ∧ (privFault s1.cpu i = false → readsPoison s1.cpu i = true → step s = .next (scalarTrap s1 0x30 0))
        ∧ (privFault s1.cpu i = false → readsPoison s1.cpu i = false → (scalarAccess i && heldByAcquire s1 []) = false →
            step s = exec i { s1 with cpu := { s1.cpu with entering := false } }))
  ∧ (∀ (s : State) (pc : Word), s.cpu.level = .h →
      ((s.core s.myCore).icache.find? (fun (l : Line) => l.ha = haPhys s.cpu.pkg pc.toNat / 64 * 64)) = none →
      homePoisoned s (haPhys s.cpu.pkg pc.toNat) 8 = false →
      ∃ s1, fetchWord s pc = .ok (BitVec.ofNat 64 (leNat (homeBytes s (haPhys s.cpu.pkg pc.toNat) 8))) s1 ∧ s1.cpu = s.cpu ∧ s1.mem = s.mem)

/-- A queued instruction enters the vector queue with its captured operands, and the pc moves past its words (R57). What it meets as it commits (R193, R194) it
traps with, and does not enter the queue; one of release order does not commit while an earlier blocking scalar store is on its way to another die (R398,
R155). That with an empty queue before it the same step performs it, unless an acquire on its way holds it, and that work in progress has the next turn, is the
model's turn order (log entry 54). -/
def Obligations.StepRunsQueued : Prop :=
  ∀ (s s1 : State) (w f : Word) (i : Instr) (n : Nat), ReadyToFetch s → fetch { s with background := true } = .ok (w, f) s1 →
    decode w f = .instr i n → isQueued i = true →
    (∀ c x, enqueueFault s1 i w = some (c, x) → step s = .next (scalarTrap s1 c x))
      ∧ (enqueueFault s1 i w = none → (releasesOf i && postsOut s1) = true → step s = .next s1.park)
      ∧ (enqueueFault s1 i w = none → (releasesOf i && postsOut s1) = false → ((entryOf s1.cpu i w).accesses && heldByAcquire (enqueue s1 i w n) []) = false →
          step s = exec i ((enqueue s1 i w n).onCpu Strand.beginHead))
      ∧ (s1.cpu.queue = [] → (enqueue s1 i w n).onCpu Strand.beginHead = enqueue s1 i w n)
      ∧ (enqueue s1 i w n).cpu.pc = s1.cpu.pc + 8 * BitVec.ofNat 64 n
      ∧ (enqueue s1 i w n).cpu.queue = s1.cpu.queue ++ [{ entryOf s1.cpu i w with after := s1.next }]
      ∧ (∀ r, r ∈ gReads i → r ≠ 0 → s1.cpu.queue = [] → (enqueue s1 i w n).srcG r = s1.cpu.readG r)

/-- The instruction at the head of the queue runs when it is the strand's turn (R57), from the start that it recorded where it was held behind another (R333); a
strand that waits for a scalar access to another die does nothing else (R254). An event that the agenda names runs with its argument, unless a package that it
needs has tripped (R389); what the caches have put out of a format region's window is written back before and after it (R96), which changes nothing where no
channel holds decoded sectors. The agenda, the turn order and that a strand does nothing else while it waits are the model's own (log entries 3, 54, 72). -/
def Obligations.StepRunsHeadAndEvents : Prop :=
  (∀ (s : State) (e : QEntry) (rest : List QEntry), ReadyToFetch { s with cpu := { s.cpu with queue := [] } } → s.cpu.queue = e :: rest →
    (e.accesses && heldByAcquire { s with background := true } []) = false →
      (e.start = none → step s = exec e.instr { s with background := true })
        ∧ (∀ k, e.start = some k → step s = exec e.instr { s with background := true, cpu := { s.cpu with vstart := k, queue := { e with start := none } :: rest } }))
  ∧ (∀ (s : State) (x : Trip), s.agenda = [] → s.background = false → s.cpu.tid ≠ 0 → (s.pkg s.cpu.pkg).stage ≠ 15 → s.cpu.trip = some x → x.fail = none →
      x.pc = s.cpu.pc → step s = exec x.instr { s with background := true, cpu := { s.cpu with parked := false } })
  ∧ (∀ (s : State) (i : Instr) (a : EventArg) (rest : List Action), s.agenda = .event i a :: rest → isEvent i = true →
    let s1 := writeEvicted { s with agenda := rest }
    ((∀ p ∈ eventPkgs s1 i a, (s1.pkg p).stage ≠ 15) → step s = mapNext writeEvicted (exec i { s1 with arg := a }))
      ∧ ((∃ p ∈ eventPkgs s1 i a, (s1.pkg p).stage = 15) → step s = .next s1))
  ∧ (∀ s : State, (∀ c ∈ s.chans, c.2.sectors = []) → writeEvicted s = s)

/-! Encodings. -/

/-- Words that spec/11_encoding.md, spec/13_scalar.md and spec/15_vector.md assemble, and the instructions they stand for. -/
def Obligations.DecodedWords : Prop :=
  decode 0x0C00C10090100000 0 = .instr (.vadd ⟨3, 1, 0, 2, 2, .reg 2 0⟩) 1
    ∧ decode 0x0401460286000000 0xE00000003DCCCCCD = .instr (.fadd ⟨5, 6, 0, 10, 0, .lit 0x3DCCCCCD⟩) 2
    ∧ decode 0x04014602827B9980 0 = .instr (.fadd ⟨5, 6, 0, 10, 0, .imm 0x7B9980⟩) 1
    ∧ decode 0x440146A03DCCCCCD 0 = .instr (.fadd ⟨5, 6, 0, 10, 0, .limm 0x3DCCCCCD⟩) 1
    ∧ decode 0x2011048010060200 0 = .instr (.pFormPair ⟨.add, 4, .reg 9⟩ ⟨.vaddS32, 6, .reg 1⟩) 1
    ∧ decode 0x01A28003C20003E8 0 = .instr (.li ⟨10, 0, 0, 15, 0, .imm 1000⟩) 1
    ∧ decode 0x06C28003C3FFFFFF 0 = .instr (.loopd ⟨10, 0, 0, 15, 0, .imm 0x1FFFFFF⟩) 1
    ∧ decode 0x0610C408C3FFFFFE 0 = .instr (.bcc ⟨3, 4, 2, 3, 0, .imm 0x1FFFFFE⟩) 1
    ∧ decode 0x06A00003C2000005 0 = .instr (.gate ⟨0, 0, 0, 15, 0, .imm 5⟩) 1
    ∧ decode 0x06D00003C0000000 0 = .instr .exit 1 ∧ decode 0x06E00003C0000000 0 = .instr .yield 1
    ∧ decode 0x06F00003C0000000 0 = .instr .nop 1
    ∧ decode 0 0 = .instr (.illegalOpcodeWord 0) 1
    ∧ decode 0xE000000000000000 0 = .instr (.literalWordExecute 0xE000000000000000) 1

/-- Decoding the words of a well-formed instruction gives it back, and counts its words, whatever word follows. -/
def Obligations.DecodeOfEncode : Prop :=
  ∀ (i : Instr) (w following : Word) (rest : List Word), i.wf = true → encode i = w :: rest →
    decode w (rest.headD following) = .instr i (rest.length + 1)

/-- Whatever the two words are, an instruction that decoding answers is well formed, stands for a word, and its words are the ones read. -/
def Obligations.DecodedInstrWellFormed : Prop :=
  ∀ (w f : Word) (i : Instr) (n : Nat), decode w f = .instr i n →
    i.wf = true ∧ i.isWord = true ∧ (encode i = [w] ∧ n = 1 ∨ encode i = [w, f] ∧ n = 2)

/-! The invariant. -/

/-- The state after reset meets the invariant. -/
def Obligations.InvAtReset : Prop := Inv State.reset

/-- Every step keeps both memories in canonical form (addresses strictly rising, no byte equal to what an unlisted address reads as): equal memories stay
equal data. That an unlisted byte reads 0 is the model's choice (log entry 1). -/
def Obligations.StepKeepsInv : Prop := ∀ s t : State, Inv s → step s = .next t → Inv t

/-! Scalar integers. -/

/-- The typed arithmetic of R218: each instruction completes with the exact result on the operands' values at the type, wrapped to the type's width and
extended (R77 to R79, R216, R219). -/
def Obligations.ScalarArithmetic : Prop :=
  ∀ (s : State) (o : Ops), o.T < 8 →
    let a := intValue o.T (s.cpu.readG o.A)
    let b := intValue o.T (s.opB o.b)
    let c := intValue o.T (s.cpu.readG o.C)
    exec (.add o) s = .next (wrote s o (intResult o.T (a + b)))
      ∧ exec (.sub o) s = .next (wrote s o (intResult o.T (a - b)))
      ∧ exec (.mul o) s = .next (wrote s o (intResult o.T (a * b)))
      ∧ exec (.mulh o) s = .next (wrote s o (intResult o.T (a * b / 2 ^ intWidth o.T)))
      ∧ exec (.madd o) s = .next (wrote s o (intResult o.T (a * b + c)))
      ∧ exec (.div o) s = .next (wrote s o (intResult o.T (if b = 0 then -1 else a.tdiv b)))
      ∧ exec (.rem o) s = .next (wrote s o (intResult o.T (if b = 0 then a else a.tmod b)))
      ∧ exec (.min o) s = .next (wrote s o (intResult o.T (min a b)))
      ∧ exec (.max o) s = .next (wrote s o (intResult o.T (max a b)))
      ∧ exec (.ext o) s = .next (wrote s o (intResult o.T a))
      ∧ (o.T < 4 → exec (.abs o) s = .next (wrote s o (intResult o.T (a.natAbs : Int))))
      ∧ (o.C ≤ 5 → (condition o.C a b → exec (.cmp o) s = .next (wrote s o 1)) ∧ (¬ condition o.C a b → exec (.cmp o) s = .next (wrote s o 0)))

/-- Shifts, rotation and bit counts of R218, on the bits of the type's width; the amount is taken modulo the width (R79). -/
def Obligations.ScalarShiftsAndCounts : Prop :=
  ∀ (s : State) (o : Ops), o.T < 8 →
    let w := intWidth o.T
    let a : BitVec w := (s.cpu.readG o.A).setWidth w
    let n := (s.opB o.b).toNat % w
    exec (.shl o) s = .next (wrote s o (intBits o.T (a <<< n)))
      ∧ exec (.shr o) s = .next (wrote s o (intBits o.T (a >>> n)))
      ∧ exec (.sar o) s = .next (wrote s o (intBits o.T (a.sshiftRight n)))
      ∧ exec (.rol o) s = .next (wrote s o (intBits o.T (a.rotateLeft n)))
      ∧ exec (.clz o) s = .next (wrote s o (BitVec.ofNat 64 ((List.range w).takeWhile (fun i => !a.getMsbD i)).length))
      ∧ exec (.ctz o) s = .next (wrote s o (BitVec.ofNat 64 ((List.range w).takeWhile (fun i => !a.getLsbD i)).length))
      ∧ exec (.popc o) s = .next (wrote s o (BitVec.ofNat 64 ((List.range w).countP (fun i => a.getLsbD i))))

/-- The untyped instructions of R218 and R219 on all 64 bits; bit by bit for the bit-field instructions. -/
def Obligations.ScalarWords : Prop :=
  ∀ (s : State) (o : Ops),
    let a := s.cpu.readG o.A
    let b := s.opB o.b
    let old := s.cpu.readG o.D
    exec (.and o) s = .next (wrote s o (a &&& b))
      ∧ exec (.or o) s = .next (wrote s o (a ||| b))
      ∧ exec (.xor o) s = .next (wrote s o (a ^^^ b))
      ∧ exec (.andn o) s = .next (wrote s o (a &&& ~~~b))
      ∧ exec (.addsh o) s = .next (wrote s o (a + b <<< o.C))
      ∧ (s.cpu.readG o.C ≠ 0 → exec (.sel o) s = .next (wrote s o a)) ∧ (s.cpu.readG o.C = 0 → exec (.sel o) s = .next (wrote s o b))
      ∧ exec (.li o) s = .next (wrote s o b) ∧ exec (.mov o) s = .next (wrote s o b)
      ∧ exec (.lih o) s = .next (wrote s o ((b.setWidth 32 : BitVec 32) ++ (old.setWidth 32 : BitVec 32)))
      ∧ (∃ x : Word, exec (.bfi o) s = .next (wrote s o x)
          ∧ ∀ j, j < 64 → x.getLsbD j = if b.toNat % 64 ≤ j ∧ j ≤ b.toNat % 64 + o.C then a.getLsbD (j - b.toNat % 64) else old.getLsbD j)
      ∧ (∃ x : Word, exec (.bfx o) s = .next (wrote s o x)
          ∧ ∀ j, j < 64 → x.getLsbD j = if j ≤ o.C then a.getLsbD (b.toNat % 64 + j) else (decide (o.T < 4) && a.getLsbD (b.toNat % 64 + o.C)))

/-- R180, R182, R185: how operand B of a scalar instruction is read. -/
def Obligations.OperandKinds : Prop :=
  ∀ s : State,
    (∀ (r : BitVec 6) (x : BitVec 19), s.opB (.reg r x) = s.cpu.readG r.toNat) ∧ (∀ x : BitVec 19, s.opB (.reg 0 x) = 0)
      ∧ (∀ x : BitVec 25, (s.opB (.imm x)).toInt = x.toInt) ∧ (∀ n : BitVec 8, s.opB (.kbank n) = s.cpu.readK n.toNat)
      ∧ (∀ x : BitVec 32, (s.opB (.lit x)).toInt = x.toInt ∧ s.opB (.limm x) = s.opB (.lit x))
      ∧ (∀ o : Ops, o.b.isReg = false → o.scope = 5 ∧ o.order = 0 ∧ o.hint = 0 ∧ o.nb = false ∧ o.ccNo = 0 ∧ o.orderedFlag = false)

/-! Scalar floating point. -/

namespace Sys2Proof.Claims

open Sys2Proof.Machine Sys2Proof.Safety

/-- Operand A of a scalar floating instruction: the low bits of its register at the type's width (R217). -/
def fpA (s : State) (o : Ops) : Nat := (s.cpu.readG o.A).toNat % 2 ^ typeWidth o.T

/-- No operand of a two-operand floating instruction is an ABN (R105, R106): a `.f32` register pattern in the ABN range, or an F20 or a literal with
such a pattern. -/
def noAbn (s : State) (o : Ops) : Prop :=
  (o.T = 10 → isAbn (fpA s o) = false) ∧ (operandFp s.cpu.readG s.cpu.readK o.T o.b).2 = none

/-- Operand B's pattern at the type (R180 to R182). -/
def fpB (s : State) (o : Ops) : Nat := (operandFp s.cpu.readG s.cpu.readK o.T o.b).1

/-- A scalar floating result in D, zero-extended, with its flags (R217). -/
def wroteFp (s : State) (o : Ops) (r : Nat × Flags) : State := wroteFlags s o (BitVec.ofNat 64 r.1) r.2

/-- The four IEEE formats (R80). -/
def ieee (f : Fmt) : Prop := f = fmt16 ∨ f = fmtB16 ∨ f = fmt32 ∨ f = fmt64

/-- The canonical NaN of each IEEE type as R83's table gives it. -/
def canonicalNaN (t : Nat) : Nat := if t = 8 then 0x7E00 else if t = 9 then 0x7FC0 else if t = 10 then 0x7FC00000 else 0x7FF8000000000000

/-- The value of a finite floating operand. -/
def exactOf (a : FVal) : ℚ := a.signif * (2 : ℚ) ^ a.exp

/-- Neither a NaN nor an infinity. -/
def finite (a : FVal) : Prop := a.isNan = false ∧ a.isInf = false

/-- `m` is the magnitude `x` rounded to an integer: 0 to the nearest, ties to even; 1 towards zero; 2 up and 3 down, for a number of the sign `neg`
(R81, R85). -/
def RoundsTo (rm : Nat) (neg : Bool) (x : ℝ) (m : ℤ) : Prop :=
  let below := (m : ℝ) ≤ x ∧ x < m + 1
  let above := (m : ℝ) - 1 < x ∧ x ≤ m
  (rm = 0 → |x - m| ≤ 1 / 2 ∧ (|x - m| = 1 / 2 → Even m)) ∧ (rm = 1 → below)
    ∧ (rm = 2 → (neg = true → below) ∧ (neg = false → above)) ∧ (rm = 3 → (neg = true → above) ∧ (neg = false → below))

/-- R80, R81, R82: the pattern and the flags `r` are the real number of sign `neg` and magnitude `v` rounded once to the format. `ulp` is the place of the last
digit that the format keeps at `v`, `wide` that of a format of the same precision without a least exponent. Within the range the value is the rounded one, NX says
that it differs from `v`, and UF that it differs and is tiny after rounding; beyond the range OF and NX are set, and the result is infinity or the largest finite
number as the direction of rounding says. -/
def Rounded (f : Fmt) (rm : Nat) (neg : Bool) (v : ℝ) (r : Nat × Flags) : Prop :=
  ∀ e : ℤ, (2 : ℝ) ^ e ≤ v → v < (2 : ℝ) ^ (e + 1) →
    let ulp : ℝ := 2 ^ (max e f.emin - (f.fracBits : ℤ))
    let wide : ℝ := 2 ^ (e - (f.fracBits : ℤ))
    let largest : ℝ := (2 ^ f.prec - 1) * 2 ^ (f.emax - (f.fracBits : ℤ))
    ∃ m u : ℤ, RoundsTo rm neg (v / ulp) m ∧ RoundsTo rm neg (v / wide) u
      ∧ (m * ulp ≤ largest →
          finite (fdecode f r.1) ∧ (fdecode f r.1).neg = neg ∧ r.1 < 2 ^ f.width ∧ |((exactOf (fdecode f r.1) : ℚ) : ℝ)| = m * ulp
            ∧ r.2.toNat < 4 ∧ (r.2.getLsbD 0 = true ↔ m * ulp ≠ v) ∧ (r.2.getLsbD 1 = true ↔ m * ulp ≠ v ∧ u * wide < 2 ^ f.emin))
      ∧ (largest < m * ulp →
          r = (if rm = 0 ∨ (rm = 2 ∧ neg = false) ∨ (rm = 3 ∧ neg = true) then f.inf neg else f.maxFinite neg, flagOF ||| flagNX))

/-- A branch, call or return has committed: the pc is the target. -/
def jumped (s : State) (target : Word) (f : Strand → Strand) : State :=
  s.onCpu (fun t => { f t with pc := target, parked := false, stepDone := t.stepped })

end Sys2Proof.Claims

/-- The two-operand, multiply-add, sign and comparison instructions of R220 on operands that are no ABN: one rounding of the exact result under FPMODE to
the type's own format, written zero-extended, and the flags ORed into FPFLAGS (R217, R81). -/
def Obligations.ScalarFloatArithmetic : Prop :=
  ∀ (s : State) (o : Ops), 8 ≤ o.T → o.T ≤ 11 → noAbn s o →
    let f := fmtOf o.T
    let a := fdecode f (fpA s o)
    let b := fdecode f (fpB s o)
    let c := fdecode f ((s.cpu.readG o.C).toNat % 2 ^ typeWidth o.T)
    let rm := s.cpu.fpmode
    exec (.fadd o) s = .next (wroteFp s o (addVal f rm a b))
      ∧ exec (.fsub o) s = .next (wroteFp s o (addVal f rm a b.flip))
      ∧ exec (.fmul o) s = .next (wroteFp s o (mulVal f rm a b))
      ∧ exec (.fdiv o) s = .next (wroteFp s o (divVal f rm a b))
      ∧ exec (.fsqrt o) s = .next (wroteFp s o (sqrtVal f rm a))
      ∧ exec (.fmin o) s = .next (wroteFp s o (minMaxVal f false (fpA s o) (fpB s o)))
      ∧ exec (.fmax o) s = .next (wroteFp s o (minMaxVal f true (fpA s o) (fpB s o)))
      ∧ exec (.fabs o) s = .next (wroteFp s o (signOp f false (fpA s o)))
      ∧ exec (.fneg o) s = .next (wroteFp s o (signOp f true (fpA s o)))
      ∧ exec (.fcmp o) s = .next (wroteFp s o (if (condFp o.C a b).1 then 1 else 0, (condFp o.C a b).2))
      ∧ ((o.T = 10 → isAbn ((s.cpu.readG o.C).toNat % 2 ^ typeWidth o.T) = false) → exec (.ffma o) s = .next (wroteFp s o (fmaVal f rm a b c)))

/-- The conversions of R221 from a source type in C to a destination type in T, and the classifications of R222, which read an ABN without trapping. -/
def Obligations.ScalarFloatConversions : Prop :=
  ∀ (s : State) (o : Ops),
    let x := (s.cpu.readG o.A).toNat % 2 ^ typeWidth o.C
    let rm := if o.rmScalar = 0 then s.cpu.fpmode else o.rmScalar - 1
    ((o.C = 10 → isAbn x = false) →
      exec (.fcvt o) s = .next (wroteFp s o (fcvtOp o.C o.T rm x))
        ∧ (o.T < 8 → exec (.fcvti o) s =
            .next (wroteFlags s o (intBits o.T (BitVec.ofNat _ (fcvtiOp o.C o.T rm x).1)) (fcvtiOp o.C o.T rm x).2)))
      ∧ exec (.icvtf o) s = .next (wroteFp s o (icvtfOp o.C o.T rm x))
      ∧ exec (.fclass o) s = .next (wrote s o (BitVec.ofNat 64 (2 ^ fclassBit o.T ((s.cpu.readG o.A).toNat % 2 ^ typeWidth o.T))))
      ∧ (0xFFA00000 ≤ (s.cpu.readG o.A).toNat % 2 ^ 32 ∧ (s.cpu.readG o.A).toNat % 2 ^ 32 ≤ 0xFFA000FF →
          exec (.fabn o) s = .next (wrote s o (0x100 ||| (s.cpu.readG o.A &&& 0xFF))))
      ∧ (¬ (0xFFA00000 ≤ (s.cpu.readG o.A).toNat % 2 ^ 32 ∧ (s.cpu.readG o.A).toNat % 2 ^ 32 ≤ 0xFFA000FF) → exec (.fabn o) s = .next (wrote s o 0))

/-- A `.f32` operand that is an ABN traps ABN_OPERAND with the pattern in TVAL and element index 0, and nothing is written (R217, R106): in register A, in the
one operand of a square root, an absolute value, a negation or a conversion from `.f32`, in the addend of FFMA, or as an F20 or literal, which R181 and R182 make
an ABN under every IEEE type. -/
def Obligations.ScalarAbnTraps : Prop :=
  ∀ (s : State) (o : Ops) (i : Instr),
    (i = .fadd o ∨ i = .fsub o ∨ i = .fmul o ∨ i = .fdiv o ∨ i = .fmin o ∨ i = .fmax o ∨ i = .fcmp o ∨ i = .ffma o) →
    (o.T = 10 → isAbn (fpA s o) = true → exec i s = .next (scalarTrap s 0x20 (BitVec.ofNat 64 (fpA s o))))
      ∧ (∀ p, (o.T = 10 → isAbn (fpA s o) = false) → 8 ≤ o.T → o.T ≤ 11 → o.b.f32Pattern = some p → isAbn p = true →
          exec i s = .next (scalarTrap s 0x20 (BitVec.ofNat 64 p)))
      ∧ (o.T = 10 → isAbn (fpA s o) = false → o.b.f32Pattern = none → isAbn (fpB s o) = true →
          exec i s = .next (scalarTrap s 0x20 (BitVec.ofNat 64 (fpB s o))))
      ∧ (o.T = 10 → isAbn (fpA s o) = true → ∀ j ∈ [(.fsqrt o : Instr), .fabs o, .fneg o], exec j s = .next (scalarTrap s 0x20 (BitVec.ofNat 64 (fpA s o))))
      ∧ (let x := (s.cpu.readG o.A).toNat % 2 ^ 32
         o.C = 10 → isAbn x = true → ∀ j ∈ [(.fcvt o : Instr), .fcvti o], exec j s = .next (scalarTrap s 0x20 (BitVec.ofNat 64 x)))
      ∧ (let c := (s.cpu.readG o.C).toNat % 2 ^ 32
         o.T = 10 → noAbn s o → isAbn c = true → exec (.ffma o) s = .next (scalarTrap s 0x20 (BitVec.ofNat 64 c)))

/-- R82, R83: whatever NaN enters an addition, multiplication, multiply-add, division, square root, sign operation or conversion, the result is the canonical
NaN of the format; NV is set exactly when an operand is signalling, or the operation is invalid: infinity minus infinity, zero times infinity (whatever
the addend), zero over zero, infinity over infinity, the root of a negative number or of minus infinity. A finite non-zero number over zero sets DZ and gives
infinity. R81, R82, R12: every other sum, product, multiply-add, quotient, root and conversion of finite operands whose exact value is not 0 is that value rounded
once, with NX, UF and OF as R82 sets them. R84: a conversion to an integer type rounds to an integer; beyond the type's range, or from an infinity, it gives the
nearest bound with NV, and from a NaN 0 with NV. -/
def Obligations.FloatResults : Prop :=
  ∀ (f : Fmt) (rm : Nat) (a b c : FVal), ieee f →
    (rm < 4 → finite a → finite b → finite c →
        let x := exactOf a
        let y := exactOf b
        let z := exactOf c
        (x + y ≠ 0 → Rounded f rm (decide (x + y < 0)) |((x + y : ℚ) : ℝ)| (addVal f rm a b))
          ∧ (x * y ≠ 0 → Rounded f rm (a.neg != b.neg) |((x * y : ℚ) : ℝ)| (mulVal f rm a b) ∧ Rounded f rm (a.neg != b.neg) |((x / y : ℚ) : ℝ)| (divVal f rm a b))
          ∧ (x * y + z ≠ 0 → Rounded f rm (decide (x * y + z < 0)) |((x * y + z : ℚ) : ℝ)| (fmaVal f rm a b c))
          ∧ (0 < x → Rounded f rm false (Real.sqrt ((x : ℚ) : ℝ)) (sqrtVal f rm a))
          ∧ (x ≠ 0 → Rounded f rm a.neg |((x : ℚ) : ℝ)| (convVal f rm a))
          ∧ (∀ (t : Nat) (k : ℤ), t < 8 → RoundsTo rm a.neg |((x : ℚ) : ℝ)| k →
              let i := if a.neg then -k else k
              let lo : ℤ := if t < 4 then -2 ^ (intWidth t - 1) else 0
              let hi : ℤ := if t < 4 then 2 ^ (intWidth t - 1) - 1 else 2 ^ intWidth t - 1
              (i < lo → toIntVal t rm a = (wrapInt (intWidth t) lo, flagNV)) ∧ (hi < i → toIntVal t rm a = (wrapInt (intWidth t) hi, flagNV))
                ∧ (lo ≤ i → i ≤ hi → (toIntVal t rm a).1 = wrapInt (intWidth t) i ∧ ((k : ℝ) = |((x : ℚ) : ℝ)| → (toIntVal t rm a).2 = flagNone)
                    ∧ ((k : ℝ) ≠ |((x : ℚ) : ℝ)| → (toIntVal t rm a).2 = flagNX))
                ∧ toIntVal t rm (.inf false) = (wrapInt (intWidth t) hi, flagNV) ∧ toIntVal t rm (.inf true) = (wrapInt (intWidth t) lo, flagNV)
                ∧ ∀ g, toIntVal t rm (.nan g) = (0, flagNV)))
      ∧ ((a.isNan || b.isNan || c.isNan) = true →
        fmaVal f rm a b c = (f.nan, flagIf (a.isSignalling || b.isSignalling || c.isSignalling || (a.isInf && b.isZero) || (a.isZero && b.isInf)) flagNV))
      ∧ (∀ n x, x.isNan = false → x.isZero = false →
        fmaVal f rm (.inf n) x (.inf (n == x.neg)) = (f.nan, flagNV) ∧ fmaVal f rm x (.inf n) (.inf (n == x.neg)) = (f.nan, flagNV)
          ∧ fmaVal f rm (.inf n) x (.inf (n != x.neg)) = (f.inf (n != x.neg), flagNone))
      ∧ (∀ g, sqrtVal f rm (.nan g) = (f.nan, flagIf g flagNV) ∧ convVal f rm (.nan g) = (f.nan, flagIf g flagNV) ∧ convVal f rm (.inf g) = (f.inf g, flagNone))
      ∧ sqrtVal f rm (.inf true) = (f.nan, flagNV) ∧ sqrtVal f rm (.inf false) = (f.inf false, flagNone)
      ∧ (∀ x, x < 2 ^ f.width →
        ((fdecode f x).isNan = true → ∀ g, signOp f g x = (f.nan, flagIf (fdecode f x).isSignalling flagNV))
          ∧ ((fdecode f x).isNan = false → signOp f false x = (x % 2 ^ (f.width - 1), flagNone)
              ∧ signOp f true x = (if x < 2 ^ (f.width - 1) then x + 2 ^ (f.width - 1) else x - 2 ^ (f.width - 1), flagNone)))
      ∧ ((a.isNan || b.isNan) = true →
        addVal f rm a b = (f.nan, flagIf (a.isSignalling || b.isSignalling) flagNV)
          ∧ mulVal f rm a b = (f.nan, flagIf (a.isSignalling || b.isSignalling) flagNV)
          ∧ divVal f rm a b = (f.nan, flagIf (a.isSignalling || b.isSignalling) flagNV))
      ∧ (∀ n, addVal f rm (.inf n) (.inf (!n)) = (f.nan, flagNV) ∧ addVal f rm (.inf n) (.inf n) = (f.inf n, flagNone))
      ∧ (∀ n m e, mulVal f rm (.inf n) (.fin m 0 e) = (f.nan, flagNV) ∧ mulVal f rm (.fin m 0 e) (.inf n) = (f.nan, flagNV)
          ∧ fmaVal f rm (.inf n) (.fin m 0 e) c = (f.nan, flagNV) ∧ fmaVal f rm (.fin m 0 e) (.inf n) c = (f.nan, flagNV))
      ∧ (∀ n m e d, divVal f rm (.fin n 0 e) (.fin m 0 d) = (f.nan, flagNV) ∧ divVal f rm (.inf n) (.inf m) = (f.nan, flagNV))
      ∧ (∀ n m k e d, k ≠ 0 → divVal f rm (.fin n k e) (.fin m 0 d) = (f.inf (n != m), flagDZ) ∧ sqrtVal f rm (.fin true k e) = (f.nan, flagNV))
      ∧ (∀ n e, sqrtVal f rm (.fin n 0 e) = (f.zero n, flagNone))
      ∧ fmt16.nan = canonicalNaN 8 ∧ fmtB16.nan = canonicalNaN 9 ∧ fmt32.nan = canonicalNaN 10 ∧ fmt64.nan = canonicalNaN 11

/-- A value that the format can hold is not changed by rounding: converting any pattern of an IEEE format, subnormals, zeros and infinities among them, to
its own format gives the pattern back under every rounding, with no flag (R80, R82). -/
def Obligations.RoundingIsExactOnFormat : Prop :=
  ∀ (f : Fmt) (rm x : Nat), ieee f → x < 2 ^ f.width → (fdecode f x).isNan = false → convVal f rm (fdecode f x) = (x, flagNone)

/-! Control. -/

/-- R223, R225, R230: branches, calls and jumps complete with the pc at their target or past their words; the target is PC + 8 × off from the branch's own
first word. R224: once no earlier queue entry writes masks or VL, a branch on a mask tests bits 0 to VL - 1 of it, whatever VSTART and MMODE hold; while one does,
the branch waits (R58). -/
def Obligations.ControlTransfers : Prop :=
  (∀ (s : State) (o : Ops),
      let target := s.cpu.pc + 8 * s.opB o.b
      let past := s.commit o.bytes id
      let n := s.cpu.readG o.D - 1
      exec (.br o) s = .next (jumped s target id)
        ∧ (s.cpu.readG o.A = 0 → exec (.bz o) s = .next (jumped s target id) ∧ exec (.bnz o) s = .next past)
        ∧ (s.cpu.readG o.A ≠ 0 → exec (.bz o) s = .next past ∧ exec (.bnz o) s = .next (jumped s target id))
        ∧ (o.T < 8 → o.C ≤ 5 → (condition o.C (intValue o.T (s.cpu.readG o.D)) (intValue o.T (s.cpu.readG o.A)) → exec (.bcc o) s = .next (jumped s target id))
            ∧ (¬ condition o.C (intValue o.T (s.cpu.readG o.D)) (intValue o.T (s.cpu.readG o.A)) → exec (.bcc o) s = .next past))
        ∧ (n ≠ 0 → exec (.loopd o) s = .next (jumped s target (fun t => t.writeG o.D n)))
        ∧ (n = 0 → exec (.loopd o) s = .next (s.commit o.bytes (fun t => t.writeG o.D n)))
        ∧ exec (.call o) s = .next (jumped s target (fun t => t.writeG 63 (s.cpu.pc + o.bytes)))
        ∧ ((s.cpu.readG o.A).toNat % 8 = 0 → exec (.jr o) s = .next (jumped s (s.cpu.readG o.A) id)
            ∧ exec (.callr o) s = .next (jumped s (s.cpu.readG o.A) (fun t => t.writeG 63 (s.cpu.pc + 8))))
        ∧ ((s.cpu.readG o.A).toNat % 8 ≠ 0 → exec (.jr o) s = .next (scalarTrap s 0x10 (s.cpu.readG o.A))
            ∧ exec (.callr o) s = .next (scalarTrap s 0x10 (s.cpu.readG o.A)))
        ∧ exec .nop s = .next (s.commit 8 id) ∧ exec .yield s = .next (s.commit 8 id)
        ∧ exec .exit s = .next { s with cpu := { s.cpu with exiting := true, parked := true } })
  ∧ (∀ (s : State) (o : Ops),
      (s.cpu.queue.any QEntry.writesMasks = false →
        ((∃ i, i < s.cpu.vl ∧ s.cpu.readM o.A i = true) →
            exec (.bmany o) s = .next (jumped s (s.cpu.pc + 8 * s.opB o.b) id) ∧ exec (.bmnone o) s = .next (s.commit o.bytes id))
          ∧ ((∀ i, i < s.cpu.vl → s.cpu.readM o.A i = false) →
            exec (.bmany o) s = .next (s.commit o.bytes id) ∧ exec (.bmnone o) s = .next (jumped s (s.cpu.pc + 8 * s.opB o.b) id))
          ∧ ((∀ i, i < s.cpu.vl → s.cpu.readM o.A i = true) → exec (.bmall o) s = .next (jumped s (s.cpu.pc + 8 * s.opB o.b) id))
          ∧ ((∃ i, i < s.cpu.vl ∧ s.cpu.readM o.A i = false) → exec (.bmall o) s = .next (s.commit o.bytes id)))
      ∧ (s.cpu.queue.any QEntry.writesMasks = true →
        exec (.bmany o) s = .next s.park ∧ exec (.bmall o) s = .next s.park ∧ exec (.bmnone o) s = .next s.park))

/-- R228: a gate through a legal entry, with nothing of the strand outstanding (no queue entry, no piece, no collective run), writes the frame of R227 below the entry's stack (or the caller's), never
lowers the level, and enters the gate's target with sp at the frame. R229: a return through a frame that names itself, whose zero fields are zero and
whose privilege is not above the current level restores the masks, sp, MMODE and level of the call, and the pc. The translation by which `gateEntry` reads the
table, and that bits 2:0 of the frame's return address are dropped, are the model's reading (log entry 14). -/
def Obligations.GateCalls : Prop :=
  (∀ (s s1 s2 : State) (o : Ops) (bytes : List Byte), drained s = true → o.bImm < gateCount s → gateEntry s o.bImm = .ok bytes s1 →
    let word := fun (i : Nat) => leNat ((bytes.drop (8 * i)).take 8)
    let lvl := maxLevel (levelOf (word 2 % 4)) s1.cpu.level
    let base : Word := if word 1 = 0 then s1.cpu.readG 62 else BitVec.ofNat 64 (word 1)
    let f := base - BitVec.ofNat 64 (64 + 64 * ((s1.cpu.mvl + 63) / 64))
    word 0 % 8 = 0 → word 1 % 16 = 0 → word 2 < 16 → 8 ≤ word 2 → word 2 % 4 ≠ 3 → word 3 = 0 →
    (s1.cpu.level.rank < lvl.rank → word 1 ≠ 0) → (word 1 ≠ 0 → ¬ (f.toNat ≤ (s1.cpu.readG 62).toNat ∧ (s1.cpu.readG 62).toNat < word 1)) →
    writeMem s1 { s1.who .scalar with level := lvl } .store f (gateFrame s1.cpu (s1.cpu.pc + o.bytes) f) false = .ok () s2 →
    exec (.gate o) s = .next (jumped s2 (BitVec.ofNat 64 (word 0)) (fun t => { t.writeG 62 f with level := lvl, mmode := bitsOf (word 2) 2 2 == 1 })))
  ∧ (∀ (s s1 s2 : State) (head masks : Got), drained s = true → readMem s (s.who .scalar) (s.cpu.readG 62) 64 0 .read = .ok head s1 →
    let word := fun (i : Nat) => leNat ((head.bytes.drop (8 * i)).take 8)
    word 3 = (s.cpu.readG 62).toNat → bitsOf (word 2) 15 3 = 0 → bitsOf (word 2) 63 32 = 0 → word 4 = 0 → word 5 = 0 → word 6 = 0 → word 7 = 0 →
    word 2 % 4 ≤ s.cpu.level.rank →
    readMem s1 (s1.who .scalar) (s.cpu.readG 62 + 64) (64 * ((bitsOf (word 2) 31 16 + 63) / 64)) 0 .read = .ok masks s2 →
    exec .gret s = .next (jumped s2 (BitVec.ofNat 64 (word 0 / 8 * 8)) (fun t =>
      { (frameMasks t (bitsOf (word 2) 31 16) masks.bytes).writeG 62 (BitVec.ofNat 64 (word 1)) with
          level := levelOf (word 2 % 4), mmode := bitsOf (word 2) 2 2 == 1 })))

/-- R8, R216, R217, R57, R235: the frame of completion. A scalar instruction that writes one result changes D (g0 discards it), adds its flags to FPFLAGS, and
moves the pc; every other g register, every k, v and m register, VL, VSTART, VFS, FPMODE, the counters, bindings, tiles, trap registers, level and MMODE
of the strand are as before, and so is all memory and the rest of the machine. A jump changes the pc and what its call writes. An instruction that
leaves the vector queue changes its place there and, as a vector instruction, VSTART. -/
def Obligations.CompletionFrame : Prop :=
  ∀ (s : State) (o : Ops) (x : Word) (fl : Flags) (f : Strand → Strand),
    let t := wroteFlags s o x fl
    ({ t with cpu := s.cpu } = s)
      ∧ ({ t.cpu with g := s.cpu.g, poison := s.cpu.poison, fpflags := s.cpu.fpflags, pc := s.cpu.pc, parked := s.cpu.parked, stepDone := s.cpu.stepDone } = s.cpu)
      ∧ (∀ n, n ≠ o.D → t.cpu.readG n = s.cpu.readG n) ∧ (o.D ≠ 0 → t.cpu.readG o.D = x) ∧ t.cpu.readG 0 = 0
      ∧ t.cpu.fpflags = s.cpu.fpflags ||| fl ∧ t.cpu.pc = s.cpu.pc + o.bytes ∧ (∀ n ∈ t.cpu.poison, n ∈ s.cpu.poison)
      ∧ (wrote s o x).cpu.fpflags = s.cpu.fpflags
      ∧ (let j := jumped s x f
         { j with cpu := s.cpu } = s ∧ j.cpu.pc = x ∧ (f = id → { j.cpu with pc := s.cpu.pc, parked := s.cpu.parked, stepDone := s.cpu.stepDone } = s.cpu))
      ∧ (let q := s.retire id
         { q with cpu := s.cpu } = s ∧ q.cpu.vstart = 0 ∧ q.cpu.queue = s.cpu.queue.drop 1 ∧ q.cpu.pc = s.cpu.pc ∧ q.cpu.g = s.cpu.g ∧ q.cpu.v = s.cpu.v
          ∧ q.cpu.m = s.cpu.m ∧ q.cpu.vl = s.cpu.vl ∧ q.cpu.fpflags = s.cpu.fpflags ∧ q.cpu.trapS = s.cpu.trapS ∧ q.cpu.trapH = s.cpu.trapH)
      ∧ (s.retireKeep f).cpu.vstart = (f s.cpu).vstart

/-! Traps. -/

namespace Sys2Proof.Claims

open Sys2Proof.Machine Sys2Proof.Safety

/-- The trap state after entry into level `x`, as R331 lists it. -/
structure Entered (s t : State) (x : Level) (cause : Nat) (tval epc : Word) : Prop where
  cause : ((t.cpu.traps x).cause.toNat : Nat) = cause % 256
  tval  : (t.cpu.traps x).tval = tval
  epc   : (t.cpu.traps x).epc = epc &&& ~~~7
  plvl  : (t.cpu.traps x).plvl.toNat = s.cpu.level.rank
  pmm   : (t.cpu.traps x).pmm = s.cpu.mmode
  pie   : (t.cpu.traps x).pie = (s.cpu.traps x).ie
  ie    : (t.cpu.traps x).ie = false
  mmode : t.cpu.mmode = false
  td    : s.cpu.held ≠ 0 → t.cpu.td = true
  level : t.cpu.level = x
  pc    : t.cpu.pc = s.tvec x

/-- What entry leaves alone: the g, v, m, k and cc registers, VL, VSTART, FPMODE, FPFLAGS (R331), all memory, and the other level's trap registers. -/
structure EntryFrame (s t : State) (x : Level) : Prop where
  g    : t.cpu.g = s.cpu.g
  v    : t.cpu.v = s.cpu.v
  m    : t.cpu.m = s.cpu.m ∧ t.cpu.mqOff = s.cpu.mqOff
  k    : t.cpu.k = s.cpu.k
  cc   : t.cpu.cc = s.cpu.cc
  vl   : t.cpu.vl = s.cpu.vl ∧ t.cpu.vstart = s.cpu.vstart
  fp   : t.cpu.fpmode = s.cpu.fpmode ∧ t.cpu.fpflags = s.cpu.fpflags
  mem  : t.mem = s.mem ∧ t.hostMem = s.hostMem ∧ t.poison = s.poison
  traps : (x = .h → t.cpu.trapS = s.cpu.trapS) ∧ (x ≠ .h → t.cpu.trapH = s.cpu.trapH)
  rest : t.others = s.others ∧ t.pieces = s.pieces ∧ t.wire = s.wire ∧ t.saved = s.saved ∧ t.time = s.time

end Sys2Proof.Claims

/-- R331, entry into a level as one step, and what it saves nothing of. -/
def Obligations.TrapEntry : Prop :=
  ∀ (s : State) (x : Level) (cause : Nat) (tval epc : Word), Entered s (enterTrap s x cause tval epc) x cause tval epc ∧ EntryFrame s (enterTrap s x cause tval epc) x

/-- R328: the level each synchronous cause enters, by the level at which it is raised. STEP (0x42), whose target at U and S
is the level of the ERET that armed it, is stated with the events of a strand (StrandEvents). -/
def Obligations.TrapTargets : Prop :=
  (∀ c, c ≠ 0x42 → trapTarget c .u = .s) ∧ (∀ c, trapTarget c .h = .h) ∧ trapTarget 0x06 .s = .h ∧ trapTarget 0x40 .s = .h ∧ trapTarget 0x41 .s = .h
    ∧ (∀ c, c ≠ 0x06 → c ≠ 0x40 → c ≠ 0x41 → c ≠ 0x42 → trapTarget c .s = .s)

/-- R59, R331: a scalar trap is taken once the queue is empty, with TEPC at the instruction; behind an older entry it waits and nothing happens. R59: the trap of a queued instruction moves the faulting entry and every younger one to the hold bank of its target level, empties the queue, and
enters the handler with TEPC at the scalar resume point. R333: the bank keeps each entry's word, captured operands and performed elements, and the start of
each younger entry. R329: where that bank already holds entries the trap is a double trap: it enters H with its own
cause and dbl set, or, with H's bank occupied too, the strand stops and is saved lost. -/
def Obligations.TrapsAreTaken : Prop :=
  (∀ (s : State) (cause : Nat) (tval : Word),
      (s.cpu.queue = [] → Entered s (scalarTrap s cause tval) (trapTarget cause s.cpu.level) cause tval s.cpu.pc
          ∧ EntryFrame s (scalarTrap s cause tval) (trapTarget cause s.cpu.level))
        ∧ (s.cpu.queue ≠ [] → scalarTrap s cause tval = s.park))
  ∧ (∀ (s : State) (cause : Nat) (tval : Word), s.cpu.queue ≠ [] →
      let x := trapTarget cause s.cpu.level
      let kept := fun (e : QEntry) => (e.pc, e.word, e.instr, e.caps, e.rm, e.bitmap, e.claim, e.begun, e.wrote)
      let held := heldEntries s.cpu.beginHead
      held.map kept = s.cpu.queue.map kept
        ∧ held.tail.map (·.start) = s.cpu.queue.tail.map (fun e => some (e.start.getD 0))
        ∧ (s.cpu.hold x = [] → (queuedTrap s cause tval).cpu.hold x = held ∧ (queuedTrap s cause tval).cpu.queue = []
          ∧ Entered s (queuedTrap s cause tval) x cause tval s.cpu.pc ∧ EntryFrame (s.onCpu Strand.beginHead) (queuedTrap s cause tval) x)
        ∧ (s.cpu.hold x ≠ [] → x ≠ .h → s.cpu.holdH = [] →
            (queuedTrap s cause tval).cpu.holdH = held ∧ (queuedTrap s cause tval).cpu.hold x = s.cpu.hold x
              ∧ (queuedTrap s cause tval).cpu.queue = [] ∧ (queuedTrap s cause tval).cpu.trapH.dbl = true
              ∧ Entered s (queuedTrap s cause tval) .h cause tval s.cpu.pc)
        ∧ (s.cpu.hold x ≠ [] → (x = .h ∨ s.cpu.holdH ≠ []) →
            (queuedTrap s cause tval).cpu.tid = 0 ∧ ∃ y : Saved, (queuedTrap s cause tval).saved = s.saved ++ [y] ∧ y.strand = s.cpu ∧ y.lost = true ∧ y.stopped = true))

/-- R332, R350: ERET with an empty queue and no tile claim outstanding restores MMODE, ie, the level and the pc that entry saved, puts the entries of the
level's hold bank back at the head of the queue, clears td on a return to U, and arms STEP where TSTATUS.step is set; R336: the ERET itself may be the instruction that an earlier one armed STEP for. -/
def Obligations.EretReturns : Prop :=
  ∀ s : State, s.cpu.level ≠ .u → s.cpu.queue = [] → s.cpu.claims = [] → (s.cpu.traps s.cpu.level).plvl ≠ 3 →
    ∃ t, exec .eret s = .next t
      ∧ t.cpu.mmode = (s.cpu.traps s.cpu.level).pmm ∧ t.cpu.level.rank = (s.cpu.traps s.cpu.level).plvl.toNat
      ∧ t.cpu.pc = (s.cpu.traps s.cpu.level).epc ∧ (t.cpu.traps s.cpu.level).ie = (s.cpu.traps s.cpu.level).pie
      ∧ t.cpu.queue = s.cpu.hold s.cpu.level ∧ t.cpu.hold s.cpu.level = []
      ∧ t.cpu.td = (s.cpu.td && decide (t.cpu.level ≠ .u))
      ∧ ((s.cpu.traps s.cpu.level).step = true → t.cpu.stepArm = some s.cpu.level ∧ t.cpu.stepAt = t.cpu.level ∧ t.cpu.stepDone = false)
      ∧ ((s.cpu.traps s.cpu.level).step = false → t.cpu.stepArm = s.cpu.stepArm ∧ t.cpu.stepDone = (s.cpu.stepDone || s.cpu.level == s.cpu.stepAt))
      ∧ t.cpu.g = s.cpu.g ∧ t.cpu.v = s.cpu.v ∧ t.cpu.m = s.cpu.m ∧ t.cpu.vl = s.cpu.vl ∧ t.cpu.vstart = s.cpu.vstart
      ∧ t.cpu.fpflags = s.cpu.fpflags ∧ t.mem = s.mem

/-- R349: TRAP enters S when it is raised at U and H when it is raised above (R328), with TVAL = imm and TEPC at the next instruction; BREAK the same with TEPC at
the BREAK itself; both once every older queue entry has completed, and until then they wait. R177, R196: a word of a reserved form, or with an unassigned
operation code, traps ILL_OPC, and a literal word that no instruction consumed traps LITEXEC; TVAL is the word. -/
def Obligations.TrappingInstructions : Prop :=
  (∀ (s : State) (o : Ops) (x : Level), o.bImm < 2 ^ 16 → (s.cpu.level = .u → x = .s) → (s.cpu.level ≠ .u → x = .h) →
    (s.cpu.queue = [] →
      (∃ t, exec (.trap o) s = .next t ∧ Entered s t x 0x40 (BitVec.ofNat 64 o.bImm) (s.cpu.pc + o.bytes) ∧ EntryFrame s t x)
        ∧ (∃ t, exec (.brk o) s = .next t ∧ Entered s t x 0x41 (BitVec.ofNat 64 o.bImm) s.cpu.pc ∧ EntryFrame s t x))
      ∧ (s.cpu.queue ≠ [] → exec (.trap o) s = .next s.park ∧ exec (.brk o) s = .next s.park))
  ∧ (∀ (s : State) (w : Word), s.cpu.queue = [] →
      (∃ t, exec (.illegalOpcodeWord w) s = .next t ∧ Entered s t (trapTarget 0x01 s.cpu.level) 0x01 w s.cpu.pc
          ∧ EntryFrame s t (trapTarget 0x01 s.cpu.level))
      ∧ (∃ t, exec (.literalWordExecute w) s = .next t ∧ Entered s t (trapTarget 0x04 s.cpu.level) 0x04 w s.cpu.pc
          ∧ EntryFrame s t (trapTarget 0x04 s.cpu.level)))
/-! Scalar memory. -/

namespace Sys2Proof.Claims

open Sys2Proof.Machine Sys2Proof.Safety

/-- The bytes of an access of type `t` (R186, R251). -/
def byteSize (t : Nat) : Nat := typeWidth t / 8

/-- A loaded or returned value of type `t` as D receives it: `.s` types sign-extended, the others zero-extended (R254, R256). -/
def loaded (t : Nat) (bytes : List Byte) : Word :=
  if t < 8 then intBits t (BitVec.ofNat (intWidth t) (leNat bytes)) else BitVec.ofNat 64 (leNat bytes % 2 ^ typeWidth t)

/-- Base + offset and scaled index (R251). -/
def baseOffset (s : State) (o : Ops) : Word := s.cpu.readG o.A + s.opB o.b
def scaledIndex (s : State) (o : Ops) : Word := s.cpu.readG o.A + s.cpu.readG o.B <<< Nat.log2 (byteSize o.T)

/-- Bytes at a home that is plain: a scratchpad, or a channel with no format region; none of its words is poisoned. -/
def PlainHome (s : State) (ha n : Nat) : Prop :=
  (haIsScratch ha = true ∨ (s.chan (haChanKey ha)).regs = []) ∧ homePoisoned s ha n = false

/-- A blocking scalar store of the current strand, with its extent hint (R130). -/
def storer (s : State) (o : Ops) : Who := { s.who .scalar with hint := hintWords o.hint }

/-- The failure of a blocking store of `ea`, kept for the trap that R398 raises at a later commit boundary. -/
def deferred (s : State) (cause : Nat) (ea : Word) : State :=
  { s with cpu := { s.cpu with deferred := s.cpu.deferred ++ [(BitVec.ofNat 8 cause, ea)] } }

/-- A STREL whose write is answered `st`: it completes, or traps with the status's cause (R253, R166). -/
def strelDone (s : State) (o : Ops) (st : Status) (ps : List (Place × Nat)) (ea : Word) : State :=
  if st = .ok then s.commit o.bytes id else scalarTrap s st.cause (writeTval s st ps ea)

/-- R256's table: the new value `y` of a word that holds `x`, for operation `op` of type `t` with operand `b`. -/
def AmoResult (op t x b y : Nat) : Prop :=
  let f := fmtOf t
  (op = 0 → y = b) ∧ (op = 1 → y = (x + b) % 2 ^ typeWidth t) ∧ (op = 2 → y = x &&& b) ∧ (op = 3 → y = x ||| b) ∧ (op = 4 → y = x ^^^ b)
    ∧ (op = 5 → intOf t y = min (intOf t x) (intOf t b)) ∧ (op = 6 → intOf t y = max (intOf t x) (intOf t b))
    ∧ ((op = 7 ∨ op = 8 ∨ op = 9) → (fdecode f x).isNan = true → y = f.nan)
    ∧ (op = 7 → (fdecode f x).isNan = false → y = (addVal f 0 (fdecode f x) (fdecode f b)).1)
    ∧ ((op = 8 ∨ op = 9) → (fdecode f x).isNan = false → (fdecode f b).isNan = true → y = x)
    ∧ (finite (fdecode f x) → finite (fdecode f b) →
        (op = 8 → (y = x ∨ y = b) ∧ exactOf (fdecode f y) = min (exactOf (fdecode f x)) (exactOf (fdecode f b)))
          ∧ (op = 9 → (y = x ∨ y = b) ∧ exactOf (fdecode f y) = max (exactOf (fdecode f x)) (exactOf (fdecode f b))))

/-- A scalar access to another die has come back: the strand waits for it no longer. -/
def landed (s : State) : State := { s with cpu := { s.cpu with trip := none } }

/-- Byte `a` of memory is not among the bytes of some places of memory. -/
def outside (ps : List (Place × Nat)) (a : Nat) : Prop :=
  ∀ x ∈ ps, (x.1.kind = .pg ∨ x.1.kind = .scratch) → a < x.1.ha ∨ x.1.ha + x.2 ≤ a

end Sys2Proof.Claims

/-- R254, R256, R257, R258, R259: the loads and blocking atomics complete when their bytes can be read (and, for an atomic, written) at their address: D
receives the bytes, least significant first, extended by the type; LDK writes entry 4 D + C of the constant bank; an atomic writes its new bytes, those of
R256's table or of R257's comparison, and returns the old; BIND reads a legal descriptor of 32 bytes into binding register D. An access whose bytes packets must reach (R327, R362) leaves as packets and
waits: once all have been answered it completes with the bytes that they brought, and a failure among them traps it precisely. That an access of the
strand's own die is performed in the same step, and that an access waits for a store of the strand to its words that is still on its way, is the model's
choice (log entries 11 and 81). -/
def Obligations.LoadsAndAtomics : Prop :=
  ∀ (s s1 : State) (o : Ops) (bytes : List Byte),
    let w := s.who .scalar
    let va := s.cpu.readG o.A
    let near := fun (ea : Word) (n : Nat) (k : AccKind) => s.cpu.trip = none ∧ awaySpan s ea n k = none
    (near (baseOffset s o) (byteSize o.T) .read → loadMem s w (baseOffset s o) (byteSize o.T) (hintWords o.hint) = .ok bytes s1 →
        exec (.ld o) s = .next (wrote s1 o (loaded o.T bytes)) ∧ exec (.ldacq o) s = .next (wrote s1 o (loaded o.T bytes)))
      ∧ (near (scaledIndex s o) (byteSize o.T) .read → loadMem s w (scaledIndex s o) (byteSize o.T) (hintWords o.hint) = .ok bytes s1 →
          exec (.ldx o) s = .next (wrote s1 o (loaded o.T bytes)))
      ∧ (near (baseOffset s o) 8 .read → loadMem s w (baseOffset s o) 8 (hintWords o.hint) = .ok bytes s1 →
          exec (.ldk o) s = .next (s1.commit o.bytes (fun t => t.writeK (4 * o.D + o.C) (BitVec.ofNat 64 (leNat bytes)))))
      ∧ ((baseOffset s o).toNat % 8 = 0 → near (baseOffset s o) 32 .read → loadMem s w (baseOffset s o) 32 (hintWords o.hint) = .ok bytes s1 → bindingOk (bindingOf bytes) = true →
          exec (.bind o) s = .next (s1.commit o.bytes (fun t => t.writeBnd o.D (some (bindingOf bytes)))))
      ∧ exec (.unbind o) s = .next (s.commit o.bytes (fun t => t.writeBnd o.D none))
      ∧ (o.nb = false → (o.C < 7 ∨ (atomicB s.cpu.readG s.cpu.readK o).2 = none) → va.toNat % byteSize o.T = 0 → (o.releases && accessQueued s) = false →
          near va (byteSize o.T) .atomic → atomicMem s w va (byteSize o.T) (amoBytes o.C o.T (atomicB s.cpu.readG s.cpu.readK o).1) = .ok bytes s1 →
          exec (.amo o) s = .next (wrote s1 o (loaded o.T bytes)))
      ∧ (va.toNat % byteSize o.T = 0 → (o.releases && accessQueued s) = false → near va (byteSize o.T) .atomic →
          atomicMem s w va (byteSize o.T) (casBytes (byteSize o.T) (atomicB s.cpu.readG s.cpu.readK o).1 (s.cpu.readG o.C).toNat) = .ok bytes s1 →
          exec (.cas o) s = .next (wrote s1 o (loaded o.T bytes)))
      ∧ (va.toNat % 8 = 0 → va.toNat % 256 ≤ 240 → (o.releases && accessQueued s) = false → near va 16 .atomic →
          atomicMem s w va 16 (casBytes 16 ((s.cpu.readG o.B).toNat + (s.cpu.readG (o.B + 1)).toNat * 2 ^ 64)
            ((s.cpu.readG o.C).toNat + (s.cpu.readG (o.C + 1)).toNat * 2 ^ 64)) = .ok bytes s1 →
          exec (.cas2 o) s = .next (s1.commit o.bytes (fun t => (t.writeG o.D (BitVec.ofNat 64 (leNat (bytes.take 8)))).writeG (o.D + 1)
            (BitVec.ofNat 64 (leNat (bytes.drop 8))))))
      ∧ (∀ x : Trip, s.cpu.trip = some x → x.pc = s.cpu.pc →
          (x.fail = none → (∃ p ∈ s.pieces, p.op = x.op) → exec (.ld o) s = .next s.park ∧ exec (.ldx o) s = .next s.park ∧ exec (.ldk o) s = .next s.park)
          ∧ (x.fail = none → (∀ p ∈ s.pieces, p.op ≠ x.op) →
              exec (.ld o) s = .next (wrote (landed s) o (loaded o.T x.bytes)) ∧ exec (.ldx o) s = .next (wrote (landed s) o (loaded o.T x.bytes))
                ∧ exec (.ldacq o) s = .next (wrote (landed s) o (loaded o.T x.bytes))
                ∧ exec (.ldk o) s = .next ((landed s).commit o.bytes (fun t => t.writeK (4 * o.D + o.C) (BitVec.ofNat 64 (leNat x.bytes))))
                ∧ (va.toNat % byteSize o.T = 0 → (o.releases && accessQueued s) = false →
                    exec (.cas o) s = .next (wrote (landed s) o (loaded o.T x.bytes))
                      ∧ (o.nb = false → o.C < 7 → exec (.amo o) s = .next (wrote (landed s) o (loaded o.T x.bytes)))))
          ∧ (∀ c v, x.fail = some (c, v) → exec (.ld o) s = .next (scalarTrap (landed s) c v) ∧ exec (.ldx o) s = .next (scalarTrap (landed s) c v)
              ∧ exec (.ldk o) s = .next (scalarTrap (landed s) c v)))
      ∧ (∀ ps s2, s.cpu.trip = none → placesOf s w (baseOffset s o) (byteSize o.T) .read = .ok ps s2 → postPending s2 ps = true → exec (.ld o) s = .next s2.park)
      ∧ (∀ ps s2, s.cpu.trip = none → placesOf s w (baseOffset s o) (byteSize o.T) .read = .ok ps s2 → postPending s2 ps = false → anyAway s2 w ps = true →
          ∃ t, exec (.ld o) s = .next t ∧ t.mem = s.mem ∧ t.cpu.g = s2.cpu.g ∧ t.cpu.pc = s2.cpu.pc ∧ t.cpu.parked = true
            ∧ (∃ x, t.cpu.trip = some x ∧ x.pc = s2.cpu.pc ∧ x.va = baseOffset s o ∧ x.got = [] ∧ x.fail = none)
            ∧ t.pieces.length = s2.pieces.length + ps.length)
      ∧ (∀ op b, b < 2 ^ typeWidth o.T → bytes.length = byteSize o.T → (0 < op → op < 7 → o.T < 8) → (7 ≤ op → op < 10 ∧ (o.T = 10 ∨ o.T = 11)) →
          ∃ y, amoBytes op o.T b bytes = some (leBytes (byteSize o.T) y) ∧ y < 2 ^ typeWidth o.T ∧ AmoResult op o.T (leNat bytes) b y)
      ∧ (∀ n expect new, casBytes n expect new bytes = if leNat bytes = expect % 2 ^ (8 * n) then some (leBytes n new) else none)

/-- R254, R253, R398: a blocking store whose pages translate writes the low bytes of G[D] at its homes and completes; one that a home refuses writes none of
them, commits, and leaves the failure to be raised at a later commit boundary, and so does one that was translated before and whose retranslation faults;
another whose translation faults traps precisely. One whose bytes packets must reach commits as they leave, in one piece that is written whole or not at all
(R327, R362); STREL commits when its write has been performed, and its failure traps precisely (R253). One of release order waits for every blocking access before
it (R155), and one that meets an earlier store of the strand still on its way waits for that (log entry 81). A non-blocking one at the head of the queue
is counted in its completion counter and leaves the queue with its pieces on their way, once no earlier non-blocking write of the strand to its words is still to be
performed (log entry 65). -/
def Obligations.StoresComplete : Prop :=
  ∀ (s s1 s2 : State) (o : Ops) (ps : List (Place × Nat)) (st : Status),
    let bytes := leBytes (byteSize o.T) (s.cpu.readG o.D).toNat
    let w := storer s o
    let done := (if st = .ok then s2 else deferred s2 st.cause (baseOffset s o)).commit o.bytes id
    let doneX := (if st = .ok then s2 else deferred s2 st.cause (scaledIndex s o)).commit o.bytes id
    (o.nb = false → (o.releases && accessQueued s) = false → placesOf s w (baseOffset s o) (byteSize o.T) .write = .ok ps s1 → postPending s1 ps = false →
        anyAway s1 w ps = false → writeWhole w .store false s1 ps bytes = (s2, st) → exec (.st o) s = .next done)
      ∧ (o.nb = false → (o.releases && accessQueued s) = false → placesOf s w (scaledIndex s o) (byteSize o.T) .write = .ok ps s1 → postPending s1 ps = false →
        anyAway s1 w ps = false → writeWhole w .store false s1 ps bytes = (s2, st) → exec (.stx o) s = .next doneX)
      ∧ (s.cpu.trip = none → accessQueued s = false → placesOf s w (baseOffset s o) (byteSize o.T) .write = .ok ps s1 →
        (anyAway s1 w ps = false → writeWhole w .store false s1 ps bytes = (s2, st) → exec (.strel o) s = .next (strelDone s2 o st ps (baseOffset s o)))
          ∧ (anyAway s1 w ps = true → ∃ t, exec (.strel o) s = .next t ∧ t.cpu.parked = true ∧ t.cpu.pc = s1.cpu.pc ∧ t.mem = s.mem ∧ t.cpu.g = s1.cpu.g
              ∧ (∃ x, t.cpu.trip = some x ∧ x.pc = s1.cpu.pc ∧ x.va = baseOffset s o ∧ x.got = [] ∧ x.fail = none)
              ∧ t.pieces.length = s1.pieces.length + 1))
      ∧ (∀ x : Trip, s.cpu.trip = some x → x.pc = s.cpu.pc →
          (x.fail = none → (∃ p ∈ s.pieces, p.op = x.op) → exec (.strel o) s = .next s.park)
            ∧ (x.fail = none → (∀ p ∈ s.pieces, p.op ≠ x.op) → exec (.strel o) s = .next ((landed s).commit o.bytes id))
            ∧ (∀ c v, x.fail = some (c, v) → exec (.strel o) s = .next (scalarTrap (landed s) c v)))
      ∧ (accessQueued s = true → (s.cpu.trip = none → exec (.strel o) s = .next s.park)
          ∧ (o.nb = false → o.releases = true → exec (.st o) s = .next s.park ∧ exec (.stx o) s = .next s.park))
      ∧ (o.nb = false → (o.releases && accessQueued s) = false → placesOf s w (baseOffset s o) (byteSize o.T) .write = .ok ps s1 → postPending s1 ps = true →
          exec (.st o) s = .next s1.park)
      ∧ (st ≠ .ok → writeWhole w .store false s1 ps bytes = (s2, st) → (ps.map (fun x => placeRefusal s1 w x.1 x.2)).any (· ≠ .ok) = true → s2 = s1)
      ∧ (o.nb = false → (o.releases && accessQueued s) = false → placesOf s w (baseOffset s o) (byteSize o.T) .write = .ok ps s1 → postPending s1 ps = false →
          anyAway s1 w ps = true →
          ∃ t, exec (.st o) s = .next t ∧ t.cpu.pc = s1.cpu.pc + o.bytes ∧ t.mem = s.mem ∧ t.cpu.g = s1.cpu.g ∧ t.cpu.deferred = s1.cpu.deferred
            ∧ t.pieces.length = s1.pieces.length + 1 ∧ ∀ q ∈ t.pieces.drop s1.pieces.length, q.tid = s1.cpu.tid
              ∧ ∃ p more, ps = p :: more ∧ q.place = p.1 ∧ q.what = .post bytes (baseOffset s o) more)
      ∧ (∀ c v, o.nb = false → (o.releases && accessQueued s) = false → placesOf s w (baseOffset s o) (byteSize o.T) .write = .fault c v s1 →
          (faultsStale s (baseOffset s o) (byteSize o.T) = false → exec (.st o) s = .next (scalarTrap s1 c v))
            ∧ (faultsStale s (baseOffset s o) (byteSize o.T) = true → exec (.st o) s = .next ((deferred s1 c (baseOffset s o)).commit o.bytes id)))
      ∧ (o.nb = true → o.releases = true → earlierPosts s = true → exec (.st o) s = .next s.park ∧ exec (.stx o) s = .next s.park)
      ∧ (o.nb = true → (o.releases && earlierPosts s) = false → ccFull s o.ccNo = false →
        placesOf s (s.who .scalar) (s.srcG o.A + s.srcB o.b) (byteSize o.T) .write = .ok ps s1 → wordPending s1 true ps = false →
        exec (.st o) s = .next ((issueNb s1 o.ccNo (anyHs ps) none (writePieces false ps (leBytes (byteSize o.T) (s.srcG o.D).toNat))).retireKeep id))
      ∧ (o.nb = true → (o.releases && earlierPosts s) = false → ccFull s o.ccNo = false →
        placesOf s (s.who .scalar) (s.srcG o.A + s.srcG o.B <<< Nat.log2 (byteSize o.T)) (byteSize o.T) .write = .ok ps s1 → wordPending s1 true ps = false →
        exec (.stx o) s = .next ((issueNb s1 o.ccNo (anyHs ps) none (writePieces false ps (leBytes (byteSize o.T) (s.srcG o.D).toNat))).retireKeep id))

/-- The frame of the blocking stores: where ST or STREL completes or waits, and for STREL where its write is not refused, every byte of memory outside the places of its own bytes (the places that the store
itself computes from base + offset) reads as before, no g or v register, mask, flag or special register has changed, and the pc is past its words. -/
def Obligations.StoreFrame : Prop :=
  ∀ (s s1 t : State) (o : Ops) (ps : List (Place × Nat)) (i : Instr),
    (i = .st o ∧ o.nb = false) ∨ (i = .strel o ∧ (∀ x, s.cpu.trip = some x → x.fail = none)
      ∧ (writeWhole (storer s o) .store false s1 ps (leBytes (byteSize o.T) (s.cpu.readG o.D).toNat)).2 = .ok) →
    placesOf s (storer s o) (baseOffset s o) (byteSize o.T) .write = .ok ps s1 → (∀ x ∈ ps, x.1.kind = .pg ∨ x.1.kind = .scratch) → exec i s = .next t →
    (∀ a, outside ps a → memGet t.mem a = memGet s.mem a)
      ∧ t.hostMem = s.hostMem ∧ t.cpu.g = s.cpu.g ∧ t.cpu.k = s.cpu.k ∧ t.cpu.v = s.cpu.v ∧ t.cpu.m = s.cpu.m ∧ t.cpu.mqOff = s.cpu.mqOff ∧ t.cpu.cc = s.cpu.cc
      ∧ t.cpu.bnd = s.cpu.bnd ∧ t.cpu.vl = s.cpu.vl ∧ t.cpu.vstart = s.cpu.vstart ∧ t.cpu.fpmode = s.cpu.fpmode ∧ t.cpu.fpflags = s.cpu.fpflags
      ∧ t.cpu.mmode = s.cpu.mmode ∧ t.cpu.level = s.cpu.level ∧ t.cpu.trapH = s.cpu.trapH ∧ t.cpu.trapS.epc = s.cpu.trapS.epc
      ∧ t.cpu.trapS.tval = s.cpu.trapS.tval ∧ t.cpu.trapS.cause = s.cpu.trapS.cause ∧ t.cpu.tiles = s.cpu.tiles
      ∧ (t.cpu.parked = false → t.cpu.pc = s.cpu.pc + o.bytes)

/-- R3: what a plain home reads after a write to it: the bytes written; every byte outside them reads as before. The write is accepted where no open window
covers the frame (R137) and it meets no packed data (R96). A scalar load of bytes in one scratchpad place reads that place's memory (R254), and a store to it then a load from it returns what was stored. -/
def Obligations.MemoryReadsWhatWasWritten : Prop :=
  (∀ (s : State) (vi rc ha : Nat) (bytes : List Byte) (inv : Bool), bytes ≠ [] → PlainHome s ha bytes.length → frameRefused s ha = false →
      let r := homeWrite s vi rc ha bytes inv
      r.2 = .ok ∧ homeBytes r.1 ha bytes.length = bytes ∧ (∀ a, a < ha ∨ ha + bytes.length ≤ a → memGet r.1.mem a = memGet s.mem a)
        ∧ leNat (leBytes bytes.length (leNat bytes)) = leNat bytes)
  ∧ (∀ (s : State) (w : Who) (p : Place) (bytes : List Byte), p.kind = .scratch → p.window = none → 2 ^ 63 ≤ p.ha → bytes ≠ [] → homePoisoned s p.ha bytes.length = false →
      cutOff s w p bytes.length = false →
      (∃ s1, loadPlaces w 0 p.va s [(p, bytes.length)] = .ok (memRead s.mem p.ha bytes.length) s1 ∧ s1.mem = s.mem)
        ∧ ∃ s1 s2, writePlaces w .store false s [(p, bytes.length)] bytes = (s1, .ok) ∧ loadPlaces w 0 p.va s1 [(p, bytes.length)] = .ok bytes s2)

/-- R161, R160: ACQ acts on the sync word of a bound region (load, add, or compare-and-swap; that a load needs write permission is log entry 21) once no blocking
store of the strand is on its way (R398), and discards the local copies that the region's scope has it discard: the model's choice is those of the region's whole
channel, where R161 names the region's bytes (log entry 8). REL stores or adds once every earlier blocking access of the strand, and every earlier write of it
into the region, is complete. On an unbound register both trap ILL_FLD. R261, R156: FENCE waits while the accesses of its kind are unfinished, and completes when
none is: SV, scalar stores; VS, vector memory accesses; ENG, engine operations, non-blocking instructions and collective runs; REMOTE and HOST, writes
homed off the die, and on host-shared pages, while a target that cannot be read yet may lie anywhere; FULL, everything. Kind FULL discards local copies. R255:
PREF always completes and writes no register and no memory. -/
def Obligations.SynchronisationCompletes : Prop :=
  ∀ (s s1 : State) (o : Ops) (b : Binding) (old : List Byte),
    let w := s.who .scalar
    let x := (s.opB o.b).toNat
    (s.cpu.readBnd o.A = some b →
      (postsOut s = false → s.cpu.trip = none → awaySpan s b.sync 8 .atomic = none →
          atomicMem s w b.sync 8 (fun v => if o.C = 0 then none else if o.C = 1 then some (leBytes 8 (leNat v + x))
            else casBytes 8 x (s.cpu.readG o.D).toNat v) = .ok old s1 →
          exec (.acq o) s = .next (wrote (discardRegion s1 o.scope b) o (BitVec.ofNat 64 (leNat old))))
        ∧ (regionBusy s b = false → s.cpu.trip = none → awaySpan s b.sync 8 .atomic = none → o.C = 0 → atomicMem s w b.sync 8 (fun _ => some (leBytes 8 x)) = .ok old s1 →
          exec (.rel o) s = .next (s1.commit o.bytes id))
        ∧ (regionBusy s b = false → s.cpu.trip = none → awaySpan s b.sync 8 .atomic = none → o.C ≠ 0 → atomicMem s w b.sync 8 (fun v => some (leBytes 8 (leNat v + x))) = .ok old s1 →
          exec (.rel o) s = .next (s1.commit o.bytes id))
        ∧ (regionBusy s b = true → exec (.rel o) s = .next s.park)
        ∧ (postsOut s = true → exec (.acq o) s = .next s.park ∧ exec (.rel o) s = .next s.park)
        ∧ (regionBusy s b = false → accessQueued s = false ∧ (∀ e ∈ s.cpu.queue, e.writes = false)
            ∧ ∀ y ∈ pendingWrites s (s.pieces.filter (fun p => p.tid = s.cpu.tid)), regionMeets b y.1.toNat y.2 = false))
      ∧ (s.cpu.readBnd o.A = none → exec (.acq o) s = .next (scalarTrap s 0x02 (BitVec.ofNat 64 o.A))
          ∧ exec (.rel o) s = .next (scalarTrap s 0x02 (BitVec.ofNat 64 o.A)))
      ∧ (fenceBusy s o.T = true → exec (.fence o) s = .next s.park)
      ∧ (fenceBusy s o.T = false → o.T ≠ 7 → exec (.fence o) s = .next (s.commit o.bytes id))
      ∧ (fenceBusy s 7 = false → o.T = 7 → exec (.fence o) s = .next ((discardAll s o.scope).commit o.bytes id))
      ∧ (fenceBusy s 1 = false ↔ ∀ p ∈ s.pieces, p.tid = s.cpu.tid → p.isPost = false)
      ∧ (fenceBusy s 2 = false ↔ (∀ e ∈ s.cpu.queue, e.isVector = false) ∧ ∀ p ∈ s.pieces, p.tid = s.cpu.tid → p.what.isVector = false)
      ∧ (fenceBusy s 3 = false ↔ fenceBusy s 1 = false ∧ fenceBusy s 2 = false)
      ∧ (fenceBusy s 4 = false ↔ (∀ e ∈ s.cpu.queue, e.isEngine = false ∧ e.nonBlocking = false) ∧ liveRuns s s.cpu = []
          ∧ ∀ p ∈ s.pieces, p.tid = s.cpu.tid → p.cc = none ∧ p.run = none)
      ∧ (fenceBusy s 5 = false ↔ (∀ e ∈ s.cpu.queue, e.writes = false) ∧ (∀ p ∈ s.pieces, p.tid = s.cpu.tid → p.what.writes = true → p.remote = false)
          ∧ ∀ y ∈ pendingWrites s (s.pieces.filter (fun p => p.tid = s.cpu.tid)), leavesDie s y = false)
      ∧ (fenceBusy s 6 = false ↔ (∀ e ∈ s.cpu.queue, e.writes = false) ∧ (∀ p ∈ s.pieces, p.tid = s.cpu.tid → p.what.writes = true → p.place.hs = false)
          ∧ ∀ y ∈ pendingWrites s (s.pieces.filter (fun p => p.tid = s.cpu.tid)), touchesHs s y = false)
      ∧ (fenceBusy s 7 = false ↔ s.cpu.queue = [] ∧ liveRuns s s.cpu = [] ∧ ∀ p ∈ s.pieces, p.tid ≠ s.cpu.tid)
      ∧ ∃ t, exec (.pref o) s = .next t ∧ t.mem = s.mem ∧ t.cpu = s.cpu.advance o.bytes

/-! System registers and instructions. -/

/-- R348, R58: at a level that may read it, and with no queue entry before it that writes it, MFSR writes the register's value to D; the values of a
number of registers (R198) are the fields of the state, and reserved bits read 0 (R6). -/
def Obligations.SystemRegisterReads : Prop :=
  ∀ (s : State) (o : Ops), (srReadLevel o.bImm).rank ≤ s.cpu.level.rank → s.cpu.queue.any (writesSr o.bImm) = false →
    exec (.mfsr o) s = .next (wrote s o (BitVec.ofNat 64 (readSr s o.bImm)))
      ∧ (∀ n b, (srMask n).testBit b = false → (readSr s n).testBit b = false)
      ∧ readSr s 0x000 = s.cpu.slot % 2 ^ 2 ∧ readSr s 0x001 = s.cpu.core % 2 ^ 7 ∧ readSr s 0x002 = s.cpu.die % 2 ^ 3 ∧ readSr s 0x003 = s.cpu.vpkg % 2 ^ 22
      ∧ readSr s 0x004 = s.cpu.vi % 2 ^ 10
      ∧ readSr s 0x020 = s.cpu.vl % 2 ^ 64 ∧ readSr s 0x021 = s.cpu.groups * (131072 / (s.cpu.nv * s.cpu.ew)) % 2 ^ 16 ∧ readSr s 0x022 = s.cpu.vstart % 2 ^ 16
      ∧ readSr s 0x024 = s.cpu.nv % 2 ^ 7 ∧ readSr s 0x025 = s.cpu.ew % 2 ^ 7 ∧ readSr s 0x030 = s.cpu.tm % 2 ^ 64 ∧ readSr s 0x031 = s.cpu.tn % 2 ^ 64
      ∧ readSr s 0x032 = s.cpu.tk % 2 ^ 64 ∧ readSr s 0x035 = s.cpu.ttype % 2 ^ 4 ∧ readSr s 0x040 = s.cpu.fpmode % 4 ∧ readSr s 0x041 = s.cpu.fpflags.toNat
      ∧ (∀ n, n < 16 → (s.cpu.readCC n).count < 2 ^ 20 → readSr s (0x050 + n) % 2 ^ 32 = (s.cpu.readCC n).count
          ∧ (readSr s (0x050 + n)).testBit 32 = (s.cpu.readCC n).timeout ∧ (readSr s (0x050 + n)).testBit 33 = (s.cpu.readCC n).revoked
          ∧ (readSr s (0x050 + n)).testBit 34 = (s.cpu.readCC n).ue)
      ∧ readSr s 0x070 = (if s.cpu.mmode then 1 else 0) ∧ readSr s 0x101 = s.cpu.trapS.cause.toNat ∧ readSr s 0x102 = s.cpu.trapS.epc.toNat / 8 * 8
      ∧ readSr s 0x103 = s.cpu.trapS.tval.toNat ∧ readSr s 0x104 = (s.viPkg s.cpu.pkg s.cpu.vi).tvec.toNat / 8 * 8
      ∧ readSr s 0x212 = s.cpu.trapH.epc.toNat / 8 * 8 ∧ readSr s 0x214 = (s.pkg s.cpu.pkg).tvecH.toNat / 8 * 8
      ∧ readSr s 0x201 = (s.vi s.cpu.vi).mscways.toNat % 2 ^ 16

/-- R348, R5, R6, R54, R57, R85, R165, R199, R236, R277, R330, R339, R396: each MTSR, at a level that may write its register, with no reserved bit set and
(where the register's rule says so) with an empty queue, writes its register and completes. VL takes the lesser of the value and MVL; VFS, TSTAT.sat,
the error bits of a counter and the pending events clear by a 1. -/
def Obligations.SystemRegisterWrites : Prop :=
  ∀ (s : State) (o : Ops),
    let x := s.cpu.readG o.A
    let y := s.srcG o.A
    let n := o.bImm
    exec (.mtsrVl o) s = .next (s.retireKeep (fun t => { t with vl := min y.toNat t.mvl }))
      ∧ exec (.mtsrVstart o) s = .next (s.retireKeep (fun t => { t with vstart := y.toNat % 2 ^ 16 }))
      ∧ exec (.mtsrMmode o) s = .next (s.retireKeep (fun t => { t with mmode := y.getLsbD 0 }))
      ∧ exec (.mtsrTm o) s = .next (s.retireKeep (fun t => { t with tm := max 1 (min y.toNat 64) }))
      ∧ exec (.mtsrTn o) s = .next (s.retireKeep (fun t => { t with tn := max 1 (min y.toNat 256) }))
      ∧ exec (.mtsrTk o) s = .next (s.retireKeep (fun t => { t with tk := max 1 (min y.toNat 16777215) }))
      ∧ ((8 ≤ y.toNat ∧ y.toNat ≤ 12) ∨ y.toNat = 15 → exec (.mtsrTtype o) s = .next (s.retireKeep (fun t => { t with ttype := y.toNat })))
      ∧ (¬ ((8 ≤ y.toNat ∧ y.toNat ≤ 12) ∨ y.toNat = 15) → exec (.mtsrTtype o) s = .next (s.retireKeep id))
      ∧ ((srWriteLevel n).rank ≤ s.cpu.level.rank → srWriteOk n x = true →
        (s.cpu.queue = [] →
          exec (.mtsrVfs o) s = .next (s.commit o.bytes (fun t => { t with vfs := t.vfs &&& ~~~(x.setWidth 5) }))
            ∧ exec (.mtsrTrow o) s = .next (s.commit o.bytes (fun t => { t with trow := x.toNat % 2 ^ 24 }))
            ∧ exec (.mtsrTstat o) s = .next (s.commit o.bytes (fun t => { t with sat := t.sat && !x.getLsbD 2 }))
            ∧ exec (.mtsrFpflags o) s = .next (s.commit o.bytes (fun t => { t with fpflags := x.setWidth 6 })))
          ∧ exec (.mtsrTimer o) s = .next (s.commit o.bytes (fun t => { t with deadline := x }))
          ∧ exec (.mtsrLanemap o) s = .next ((s.setCore s.myCore { s.core s.myCore with pend := some (x.toNat % 2 ^ 17) }).commit o.bytes id)
          ∧ (∃ t, exec (.mtsrCc o) s = .next t ∧ (t.cpu.readCC (n - 0x050)).count = (s.cpu.readCC (n - 0x050)).count
              ∧ (t.cpu.readCC (n - 0x050)).ue = ((s.cpu.readCC (n - 0x050)).ue && !x.getLsbD 34)
              ∧ (t.cpu.readCC (n - 0x050)).revoked = ((s.cpu.readCC (n - 0x050)).revoked && !x.getLsbD 33)
              ∧ (t.cpu.readCC (n - 0x050)).timeout = ((s.cpu.readCC (n - 0x050)).timeout && !x.getLsbD 32)
              ∧ t.cpu.g = s.cpu.g ∧ t.mem = s.mem ∧ t.cpu.pc = s.cpu.pc + o.bytes)
          ∧ (n = 0x040 → exec (.mtsr o) s = .next (s.commit o.bytes (fun t => { t with fpmode := x.toNat % 4 })))
          ∧ (n = 0x101 → exec (.mtsr o) s = .next (s.commit o.bytes (fun t => { t with trapS := { t.trapS with cause := x.setWidth 8 } })))
          ∧ (n = 0x102 → exec (.mtsr o) s = .next (s.commit o.bytes (fun t => { t with trapS := { t.trapS with epc := x } })))
          ∧ (n = 0x103 → exec (.mtsr o) s = .next (s.commit o.bytes (fun t => { t with trapS := { t.trapS with tval := x } })))
          ∧ (n = 0x212 → exec (.mtsr o) s = .next (s.commit o.bytes (fun t => { t with trapH := { t.trapH with epc := x } })))
          ∧ (n = 0x104 → ∃ t, exec (.mtsrTvecGtbGtn o) s = .next t ∧ (t.viPkg s.cpu.pkg s.cpu.vi).tvec = x ∧ (∀ c, t.pkg c = s.pkg c)
              ∧ (∀ p v, p * 1024 + v ≠ s.cpu.pkg * 1024 + s.cpu.vi → t.viPkg p v = s.viPkg p v) ∧ t.cpu = s.cpu.advance o.bytes)
          ∧ (n = 0x214 → ∃ t, exec (.mtsrTvecGtbGtn o) s = .next t ∧ (t.pkg s.cpu.pkg).tvecH = x ∧ t.viPkgs = s.viPkgs ∧ t.cpu = s.cpu.advance o.bytes)
          ∧ (n = 0x100 → ∃ t, exec (.mtsrTstatus o) s = .next t ∧ t.cpu.trapS.ie = x.getLsbD 5 ∧ t.cpu.trapS.pie = x.getLsbD 6
              ∧ t.cpu.trapS.step = x.getLsbD 7 ∧ t.cpu.trapS.pmm = x.getLsbD 4 ∧ t.cpu.trapS.pn = x.getLsbD 8
              ∧ t.cpu.trapS.evm = BitVec.ofNat 4 (x.toNat / 2 ^ 9) ∧ t.cpu.trapS.evp = s.cpu.trapS.evp &&& ~~~(BitVec.ofNat 4 (x.toNat / 2 ^ 13))
              ∧ (x.toNat / 4 % 4 = 2 ∨ x.toNat / 4 % 4 = 3 → t.cpu.trapS.plvl = s.cpu.trapS.plvl) ∧ t.cpu.trapH = s.cpu.trapH ∧ t.cpu.level = s.cpu.level))

/-- R256 to R259, R225: an atomic whose address is not aligned to its access, CAS2 off an 8-byte boundary or across 256 bytes, and BIND off an 8-byte
boundary trap ALIGN with TVAL = the address, and nothing is accessed. R197, R199: below its least level an instruction traps PRIV with TVAL = its word. A queued one traps so as it commits, and does not enter the queue. -/
def Obligations.AccessChecksTrap : Prop :=
  (∀ (s : State) (o : Ops),
      let va := s.cpu.readG o.A
      (va.toNat % byteSize o.T ≠ 0 → exec (.cas o) s = .next (scalarTrap s 0x10 va)
          ∧ (o.nb = false → o.C < 7 → exec (.amo o) s = .next (scalarTrap s 0x10 va))
          ∧ (o.nb = true → o.C < 7 → (s.srcG o.A) = va → exec (.amo o) s = .next (queuedTrap s 0x10 va)))
        ∧ (va.toNat % 8 ≠ 0 ∨ 240 < va.toNat % 256 → exec (.cas2 o) s = .next (scalarTrap s 0x10 va))
        ∧ ((baseOffset s o).toNat % 8 ≠ 0 → exec (.bind o) s = .next (scalarTrap s 0x10 (baseOffset s o))))
  ∧ (∀ (s : State) (o : Ops),
      (s.cpu.level = .u →
        exec .eret s = .next (scalarTrap s 0x06 ((encode .eret).headD 0)) ∧ exec (.tlbinv o) s = .next (scalarTrap s 0x06 ((encode (.tlbinv o)).headD 0)))
        ∧ (s.cpu.level ≠ .h →
          exec (.tlbinvDie o) s = .next (scalarTrap s 0x06 ((encode (.tlbinvDie o)).headD 0))
            ∧ exec (.ctxsave o) s = .next (scalarTrap s 0x06 ((encode (.ctxsave o)).headD 0))
            ∧ exec (.ctxload o) s = .next (scalarTrap s 0x06 ((encode (.ctxload o)).headD 0)))
        ∧ (s.cpu.level.rank < (srReadLevel o.bImm).rank → exec (.mfsr o) s = .next (scalarTrap s 0x06 ((encode (.mfsr o)).headD 0)))
        ∧ (s.cpu.level.rank < (srWriteLevel o.bImm).rank →
          exec (.mtsr o) s = .next (scalarTrap s 0x06 ((encode (.mtsr o)).headD 0))
            ∧ exec (.mtsrTvecGtbGtn o) s = .next (scalarTrap s 0x06 ((encode (.mtsrTvecGtbGtn o)).headD 0))
            ∧ exec (.mtsrTstatus o) s = .next (scalarTrap s 0x06 ((encode (.mtsrTstatus o)).headD 0))
            ∧ exec (.mtsrLanemap o) s = .next (scalarTrap s 0x06 ((encode (.mtsrLanemap o)).headD 0))
            ∧ exec (.mtsrTimer o) s = .next (scalarTrap s 0x06 ((encode (.mtsrTimer o)).headD 0)))
        ∧ (∀ (i : Instr) (w : Word), (i = .grant o ∨ i = .revoke o ∨ i = .wopen o ∨ i = .wrevoke o) → s.cpu.level = .u →
          enqueueFault s i w = some (0x06, w)))

/-- R351, R116, R352, R133, R357: TLBINV advances the generations of the pages that hold a byte of its range, and of the 32 MiB leaves under which they lie,
and drops the core's translations of them; a range beyond the address space traps ALIGN or SPACE with the first address outside (log entry 23), and a page
whose package the node map does not give traps NODE, which R351 does not say (log entry 51); an entry that has advanced 255 times within 1 ms makes it wait.
TLBINV.DIE drops every translation of the die; FLUSHR and CINV act at the homes of a range once no earlier write of the strand into it is unfinished; IFENCE empties
the core's instruction cache once no earlier write of the strand, a collective run's among them, is unfinished. An empty range does nothing. -/
def Obligations.CacheAndTlbInstructions : Prop :=
  ∀ (s : State) (o : Ops),
    let a := (s.cpu.readG o.A).toNat
    let n := (s.cpu.readG o.B).toNat
    let pages := pagesOf a n
    let tags := tagsOf s s.cpu.vi (pages.filterMap (homePage s))
    (s.cpu.level ≠ .u → n = 0 → exec (.tlbinv o) s = .next (s.commit o.bytes id))
      ∧ (s.cpu.level ≠ .u → 0 < n → 2 ^ 64 < a + n → exec (.tlbinv o) s = .next (scalarTrap s 0x10 (s.cpu.readG o.A)))
      ∧ (s.cpu.level ≠ .u → 0 < n → a + n ≤ 2 ^ 64 → 2 ^ 62 < a + n → exec (.tlbinv o) s = .next (scalarTrap s 0x14 (BitVec.ofNat 64 (max a (2 ^ 62)))))
      ∧ (∀ p, s.cpu.level ≠ .u → 0 < n → a + n ≤ 2 ^ 62 → noNode s pages = some p → exec (.tlbinv o) s = .next (scalarTrap s 0x15 (BitVec.ofNat 64 (max a p))))
      ∧ (s.cpu.level ≠ .u → 0 < n → a + n ≤ 2 ^ 62 → noNode s pages = none → tags.any (advanceWaits s) = true → exec (.tlbinv o) s = .next s.park)
      ∧ (s.cpu.level ≠ .u → 0 < n → a + n ≤ 2 ^ 62 → noNode s pages = none → tags.any (advanceWaits s) = false →
          ∃ t, exec (.tlbinv o) s = .next t ∧ t.cpu.pc = s.cpu.pc + o.bytes
            ∧ (∀ e, e ∈ (t.core s.myCore).tlbs → ¬ (e.vi = s.cpu.vi ∧ ∃ p ∈ pages, if e.leaf.big then e.page / 512 = p / 65536 / 512 else e.page = p / 65536))
            ∧ t.chans = (advanceTags s tags).chans)
      ∧ (s.cpu.level = .h → ∃ t, exec (.tlbinvDie o) s = .next t ∧ (∀ k, k / 128 = s.myDie → (t.core k).tlbs = []) ∧ t.chans = s.chans ∧ t.mem = s.mem)
      ∧ ((s.opB o.b) = 0 → exec (.flushr o) s = .next (s.commit o.bytes id) ∧ exec (.cinv o) s = .next (s.commit o.bytes id))
      ∧ (∀ (p : Place) (s1 : State), let m := (s.opB o.b).toNat
          0 < m → m ≤ 65536 - a % 65536 → a + m ≤ 2 ^ 62 → rangeBusy s a m = false → placeOf s (s.who .scalar) (s.cpu.readG o.A) m .read = .ok p s1 →
          exec (.flushr o) s = .next ((cleanHomes .flush s1 [(p, m)]).commit o.bytes id)
            ∧ exec (.cinv o) s = .next ((dropLines (cleanHomes .invalidate s1 [(p, m)]) [(p, m)]).commit o.bytes id))
      ∧ (s.cpu.queue.any QEntry.writes = false → pendingWrites s (myPieces s) = [] →
          ∃ t, exec .ifence s = .next t ∧ (t.core s.myCore).icache = [] ∧ t.cpu = s.cpu.advance 8 ∧ t.mem = s.mem)

/-- R338, R353: TCLAIM with td set, a free parking slot and no poisoned tile word writes the tiles and their registers to the slot and claims the tiles (D = 0,
the registers as after reset, td = 0); with td clear it answers 2, with no slot 1, and changes nothing else; TRELS brings back what the slot of the last
claim holds, each field at its own width (R6), frees it and sets td; without a claim it does nothing. How a slot holds them is the model's choice (log entry 50). R354: WAITEV takes pending events it asks for, clears them, and otherwise parks; WAITEV.ARM reports them and arms its watch. R355: LAUNCH submits
its record's address. -/
def Obligations.ClaimsWaitsAndLaunch : Prop :=
  ∀ (s s1 : State) (o : Ops) (p : Place),
    let va := s.cpu.readG o.A
    (s.cpu.td = false → exec (.tclaim o) s = .next (s.retireKeep (fun t => t.writeG o.D 2)))
      ∧ (s.cpu.td = true → freeSlot s s.myDie s.cpu.vi = none → exec (.tclaim o) s = .next (s.retireKeep (fun t => t.writeG o.D 1)))
      ∧ (∀ n, s.cpu.td = true → freeSlot s s.myDie s.cpu.vi = some n → s.cpu.poison.any isTilePoison = false →
          ∃ t, exec (.tclaim o) s = .next t ∧ t.cpu.tiles = [] ∧ t.cpu.tm = 1 ∧ t.cpu.tn = 1 ∧ t.cpu.tk = 1 ∧ t.cpu.trow = 0 ∧ t.cpu.ttype = 15 ∧ t.cpu.td = false
            ∧ (o.D ≠ 0 → t.cpu.readG o.D = 0) ∧ (s.cpu.vi * 256 + n) ∈ (t.die s.myDie).slots
            ∧ t.cpu.claims = { slot := n, tiles := s.cpu.held } :: s.cpu.claims
            ∧ (let at_ := slotHa s s.cpu.pkg s.cpu.die s.cpu.vi n
               let image := claimImage s.cpu
               PlainHome s at_ image.length → frameRefused s at_ = false → homeBytes t at_ image.length = image))
      ∧ (s.cpu.claims = [] → exec .trels s = .next (s.retireKeep id))
      ∧ (∀ c rest, s.cpu.claims = c :: rest →
          let at_ := slotHa s s.cpu.pkg s.cpu.die s.cpu.vi c.slot
          let word := fun (i : Nat) => leNat (homeBytes s (at_ + 65536 * c.list.length + 8 * i) 8)
          ∃ t, exec .trels s = .next t ∧ t.cpu.tm = min 64 (word 0) ∧ t.cpu.tn = min 256 (word 1) ∧ t.cpu.tk = word 2 % 2 ^ 24
          ∧ t.cpu.trow = word 3 % 2 ^ 24 ∧ t.cpu.ttype = word 4 % 2 ^ 4 ∧ t.cpu.sat = (word 5 == 1) ∧ t.cpu.td = true ∧ t.cpu.claims = rest
          ∧ (∀ n j b, c.list[j]? = some n → b < 65536 → tileByte t.cpu (n * 65536 + b) = (homeBytes s (at_ + 65536 * j) 65536).getD b 0)
          ∧ (t.die s.myDie).slots = (s.die s.myDie).slots.erase (s.cpu.vi * 256 + c.slot))
      ∧ (o.A = 0 → (s.opB o.b).toNat < 16 →
          let e := s.cpu.trapS.evp &&& (s.opB o.b).setWidth 4
          exec (.waitevArm o) s = .next (wrote s o (e.setWidth 64)) ∧ (e = 0 → exec (.waitev o) s = .next s.park)
            ∧ (e ≠ 0 → ∃ t, exec (.waitev o) s = .next t ∧ t.cpu.trapS.evp = s.cpu.trapS.evp &&& ~~~e ∧ (o.D ≠ 0 → t.cpu.readG o.D = e.setWidth 64)
                ∧ t.cpu.pc = s.cpu.pc + o.bytes ∧ t.mem = s.mem))
      ∧ (o.A ≠ 0 → (s.opB o.b).toNat < 16 → va.toNat % 8 = 0 → placeOf s (s.who .scalar) va 8 .read = .ok p s1 → (p.kind = .pg ∨ p.kind = .scratch) →
          ∃ t, exec (.waitevArm o) s = .next t ∧ t.cpu.watch = some (p.ha / 8) ∧ t.cpu.watchVa = va)
      ∧ (va.toNat % 64 = 0 → placeOf s (s.who .scalar) va 64 .read = .ok p s1 → accessQueued s1 = false → submissions s1 s1.cpu.vi < 256 →
          ∃ t, exec (.launch o) s = .next t ∧ (o.D ≠ 0 → t.cpu.readG o.D = 0) ∧ t.cpu.pc = s1.cpu.pc + o.bytes
            ∧ (t.viPkg s1.cpu.pkg s1.cpu.vi).submitted = (s1.viPkg s1.cpu.pkg s1.cpu.vi).submitted ++ [(va, launchClass s1)])
      ∧ (va.toNat % 64 ≠ 0 → exec (.launch o) s = .next (scalarTrap s 0x10 va))

/-- R356, R343: at H, CTXSAVE of another strand's slot that holds a task writes its image at G[A], frees the slot, and answers 0; it answers 1 for a slot
without a task and 2 for the issuing strand. CTXLOAD answers 1 for a slot with a task, 3 where no image that is valid and not lost stands at the address, 2
where the core has no room, 4 where it runs strands of another VI, and 0 when it has restored the strand that the image holds: the strand is on the slot
named. A status other than 0 changes nothing else. That the status codes are tried in the order 1, 3, 2, 4 is the model's choice (log entry 49), and the layout
of an image behind its header is so in part (log entry 9). -/
def Obligations.ContextInstructions : Prop :=
  ∀ (s : State) (o : Ops),
    let b := (s.cpu.readG o.B).toNat
    let a := s.cpu.readG o.A
    let at_ := haPhys s.cpu.pkg a.toNat
    let ck := coreKey s.cpu.pkg s.cpu.die (b / 4)
    let seat : Seat := { pkg := s.cpu.pkg, die := s.cpu.die, core := b / 4, slot := b % 4 }
    s.cpu.level = .h → b < 512 → b / 4 < 80 → a.toNat % 64 = 0 →
    (namedStrand s b = none → exec (.ctxsave o) s = .next (wrote s o 1))
      ∧ (∀ t, namedStrand s b = some t → t.tid = s.cpu.tid → exec (.ctxsave o) s = .next (wrote s o 2))
      ∧ (∀ t, namedStrand s b = some t → t.tid ≠ s.cpu.tid → o.C = 0 → s.task? t.tid = some t →
          ∃ u, exec (.ctxsave o) s = .next u ∧ (o.D ≠ 0 → u.cpu.readG o.D = 0) ∧ u.task? t.tid = none
            ∧ ∃ x ∈ u.saved, x.strand.tid = t.tid ∧ x.at_ = at_ ∧ x.slot = none
              ∧ ((∀ e ∈ t.queue, e.pass = none) →
                  x.strand.g = t.g ∧ x.strand.v = t.v ∧ x.strand.m = t.m ∧ x.strand.pc = t.pc ∧ x.strand.holdS = t.holdS ∧ x.strand.holdH = t.holdH
                    ∧ (let image := imageOf x.strand (liveRuns s x.strand) x.number x.lost none
                       PlainHome s at_ image.length → frameRefused s at_ = false → x.lost = !t.poison.isEmpty ∧ homeBytes u at_ image.length = image)))
      ∧ (∀ t, namedStrand s b = some t → exec (.ctxload o) s = .next (wrote s o 1))
      ∧ (namedStrand s b = none → imageAt s at_ = none → exec (.ctxload o) s = .next (wrote s o 3))
      ∧ (∀ x, namedStrand s b = none → imageAt s at_ = some x →
          let u := readImage s x.at_ x.strand
          (freeGroups s ck < u.groups ∨ freeTiles s ck < (heldTiles u).length → exec (.ctxload o) s = .next (wrote s o 2))
            ∧ (u.groups ≤ freeGroups s ck → (heldTiles u).length ≤ freeTiles s ck → (∃ t ∈ s.strands, onCore ck t = true ∧ t.vi ≠ u.vi) →
                exec (.ctxload o) s = .next (wrote s o 4))
            ∧ (u.groups ≤ freeGroups s ck → (heldTiles u).length ≤ freeTiles s ck → (∀ t ∈ s.strands, onCore ck t = true → t.vi = u.vi) →
                (restoreStrand (loadAs s x).2 (loadAs s x).1 seat = none → exec (.ctxload o) s = .next (wrote s o 2))
                  ∧ (∀ s2, restoreStrand (loadAs s x).2 (loadAs s x).1 seat = some s2 →
                      exec (.ctxload o) s = .next (wrote s2 o 0)
                        ∧ (s.cpu.tid ≠ 0 → ∃ v ∈ s2.others, v.pkg = s.cpu.pkg ∧ v.die = s.cpu.die ∧ v.core = b / 4 ∧ v.slot = b % 4 ∧ v.g = u.g ∧ v.k = u.k
                            ∧ v.v = u.v ∧ v.m = u.m ∧ v.pc = u.pc ∧ v.level = u.level ∧ v.vi = u.vi))))

/-! Vector instructions. -/

namespace Sys2Proof.Claims

open Sys2Proof.Machine Sys2Proof.Safety

/-- R9, R183, R234: element `k` is active: from VSTART to VL - 1, under the mask (which MMODE = 0 or M = 0 lets pass, and `neg` negates), and valid under
`.q`. -/
def Active (s : State) (o : Ops) (neg : Bool) (k : Nat) : Prop :=
  s.cpu.vstart ≤ k ∧ k < s.cpu.vl ∧ (o.M = 0 ∨ s.cpu.mmode = false ∨ s.cpu.readM o.M k = !neg) ∧ (o.q = true → s.cpu.readM 8 k = true)

/-- The FPFLAGS bits after an instruction: the old ones and those of the active elements (R85, R235). -/
def FlagsAre (s : State) (o : Ops) (neg : Bool) (fl : Nat → Flags) (new : Flags) : Prop :=
  ∀ b, b < 6 → (new.getLsbD b = true ↔ s.cpu.fpflags.getLsbD b = true ∨ ∃ k, Active s o neg k ∧ (fl k).getLsbD b = true)

/-- The effect of R235 on a v register: the instruction completes, each active element of vD holds its result at the type, extended to the slot (R231),
every other element of every v register is unchanged, VSTART is 0, and nothing else of the strand or the machine has changed but the flags, poison marks
of elements overwritten, and what leaving the queue changes. -/
def Elementwise (i : Instr) (s : State) (o : Ops) (neg : Bool) (val : Nat → Nat) (fl : Nat → Flags) : Prop :=
  ∃ (v : Cells Nat) (p : List Nat) (flags : Flags),
    exec i s = .next (s.retire (fun t => { t with v := v, poison := p, fpflags := flags }))
      ∧ (∀ x ∈ p, x ∈ s.cpu.poison) ∧ FlagsAre s o neg fl flags
      ∧ ∀ n k, k < 65536 →
        ((n = o.D ∧ Active s o neg k) → cellGet 0 v (Strand.elemKey n k) = extendV s.cpu.ew o.T (val k) % 2 ^ s.cpu.ew)
          ∧ (¬ (n = o.D ∧ Active s o neg k) → cellGet 0 v (Strand.elemKey n k) = s.cpu.readV n k)

/-- The same for a mask destination. -/
def ElementwiseMask (i : Instr) (s : State) (o : Ops) (neg : Bool) (val : Nat → Bool) (fl : Nat → Flags) : Prop :=
  ∃ (m mq : Cells Bool) (flags : Flags),
    exec i s = .next (s.retire (fun t => { t with m := m, mqOff := mq, fpflags := flags }))
      ∧ FlagsAre s o neg fl flags
      ∧ ∀ n k, k < 65536 →
        ((n = o.D ∧ Active s o neg k) → ({ s.cpu with m := m, mqOff := mq } : Strand).readM n k = val k)
          ∧ (¬ (n = o.D ∧ Active s o neg k) → ({ s.cpu with m := m, mqOff := mq } : Strand).readM n k = s.cpu.readM n k)

/-- An integer element's value at a type. -/
def elemInt (s : State) (t n k : Nat) : Int := intValue t (BitVec.ofNat 64 (s.cpu.readV n k))

/-- Operand b of element `k` as an integer at a type (R233). -/
def bInt (s : State) (o : Ops) (k : Nat) : Int := intValue o.T (BitVec.ofNat 64 (bElem s o o.T k))

/-- The pattern of an integer at a type's width. -/
def intPattern (t : Nat) (x : Int) : Nat := (BitVec.ofInt (intWidth t) x).toNat

/-- The least and greatest values of an integer type, and clamping to them (R77). -/
def clampTo (t : Nat) (x : Int) : Int :=
  if t < 4 then max (-(2 ^ (intWidth t - 1) : Int)) (min x (2 ^ (intWidth t - 1) - 1)) else max 0 (min x (2 ^ intWidth t - 1))

/-- R240: the integer instructions on values, with the type. -/
def vectorIntTable : List ((Ops → Instr) × (Nat → Int → Int → Int)) :=
  [(.vadd, fun _ a b => a + b), (.vsub, fun _ a b => a - b), (.vmul, fun _ a b => a * b), (.vmulh, fun t a b => a * b / 2 ^ intWidth t),
   (.vdiv, fun _ a b => if b = 0 then -1 else a.tdiv b), (.vrem, fun _ a b => if b = 0 then a else a.tmod b),
   (.vmin, fun _ a b => min a b), (.vmax, fun _ a b => max a b), (.vadds, fun t a b => clampTo t (a + b)), (.vsubs, fun t a b => clampTo t (a - b)),
   (.vabs, fun _ a _ => (a.natAbs : Int))]

/-- R240: the instructions on bits of the type's width. -/
def vectorBitTable : List ((Ops → Instr) × ((w : Nat) → BitVec w → BitVec w → BitVec w)) :=
  [(.vand, fun _ a b => a &&& b), (.vor, fun _ a b => a ||| b), (.vxor, fun _ a b => a ^^^ b), (.vshl, fun w a b => a <<< (b.toNat % w)),
   (.vshr, fun w a b => a >>> (b.toNat % w)), (.vsar, fun w a b => a.sshiftRight (b.toNat % w)),
   (.vpopc, fun w a _ => BitVec.ofNat w ((List.range w).countP (fun j => a.getLsbD j))),
   (.vclz, fun w a _ => BitVec.ofNat w ((List.range w).takeWhile (fun j => !a.getMsbD j)).length)]

/-- R242: the floating instructions on two values, one rounding under the FPMODE of commit. -/
def vectorFloatTable : List ((Ops → Instr) × (Fmt → Nat → FVal → FVal → Nat × Flags)) :=
  [(.vfadd, addVal), (.vfsub, fun f rm a b => addVal f rm a b.flip), (.vfmul, mulVal), (.vfdiv, divVal),
   (.vfsqrt, fun f rm a _ => sqrtVal f rm a), (.vfrece, fun f _ a _ => vfreceOp f a), (.vfrsqe, fun f _ a _ => vfrsqeOp f a)]

/-- R239: the mask instructions on one bit of A and of B. -/
def maskTable : List ((Ops → Instr) × (Bool → Bool → Bool)) :=
  [(.mset, fun _ _ => true), (.mclr, fun _ _ => false), (.mand, fun a b => a && b), (.mor, fun a b => a || b), (.mxor, fun a b => a != b),
   (.mnot, fun a _ => !a), (.mandn, fun a b => a && !b)]

/-- R106: an instruction traps ABN_OPERAND at the lowest active element `k` at which `abn` gives a pattern: TVAL is the pattern with the element index above it,
VSTART is `k`, and no element or mask bit at or above it, and no other register, has been written. -/
def TrapsAbn (i : Instr) (s : State) (o : Ops) (neg : Bool) (abn : Nat → Option Nat) : Prop :=
  ∀ k x, Active s o neg k → abn k = some x → (∀ j, j < k → Active s o neg j → abn j = none) →
    ∃ s1, exec i s = .next (queuedTrap s1 0x20 (BitVec.ofNat 64 (x + k * 2 ^ 32))) ∧ s1.cpu.vstart = k ∧ s1.mem = s.mem ∧ s1.cpu.queue = s.cpu.queue ∧ s1.cpu.g = s.cpu.g
      ∧ ∀ n j, j < 65536 → (n ≠ o.D ∨ k ≤ j) → s1.cpu.readV n j = s.cpu.readV n j ∧ s1.cpu.readM n j = s.cpu.readM n j

/-- Element `q` is the nearest below VSTART that the instruction's masks make active; none where there is none (R249). -/
def NearestBelow (s : State) (o : Ops) (neg : Bool) (q : Option Nat) : Prop :=
  let act := fun (j : Nat) => j < s.cpu.vstart ∧ Active { s with cpu := { s.cpu with vstart := 0 } } o neg j
  (q = none → ∀ j, ¬ act j) ∧ ∀ k, q = some k → act k ∧ ∀ j, k < j → ¬ act j

/-- A mask instruction completes: bits 0 to VL - 1 of mask D are `f`, every other mask bit is unchanged, VSTART is 0 (R239). -/
def MaskSet (i : Instr) (s : State) (o : Ops) (f : Nat → Bool) : Prop :=
  ∃ (m mq : Cells Bool), exec i s = .next (s.retire (fun t => { t with m := m, mqOff := mq }))
    ∧ ∀ n k, k < 65536 → ({ s.cpu with m := m, mqOff := mq } : Strand).readM n k = if n = o.D ∧ k < s.cpu.vl then f k else s.cpu.readM n k

end Sys2Proof.Claims

/-- R237, R51: VCONFIG sets NV and EW by its codes, clears the vector state, sets VL and VSTART to 0 and writes the new MVL to D. R238, R53: the keep form of
SETVL and SETVLI sets VL to the lesser of avl and MVL and writes it; the renegotiating form asks for ceil(avl / E) groups, clamped to 1 to 16, receives
at most what it holds and the core has free, and clears the vector state exactly when the grant changes. -/
def Obligations.VectorConfiguration : Prop :=
  ∀ (s : State) (o : Ops),
    (∃ t, exec (.vconfig o) s = .next t ∧ t.cpu.nv = 8 * 2 ^ (o.bImm % 4) ∧ t.cpu.ew = 8 * 2 ^ (o.bImm / 4 % 4) ∧ t.cpu.vl = 0 ∧ t.cpu.vstart = 0
        ∧ (∀ n k, t.cpu.readV n k = 0) ∧ (∀ n k, n < 8 → t.cpu.readM n k = false) ∧ (∀ k, t.cpu.readM 8 k = true) ∧ t.cpu.groups = s.cpu.groups
        ∧ t.cpu.mvl = s.cpu.groups * (131072 / (t.cpu.nv * t.cpu.ew))
        ∧ (o.D ≠ 0 → t.cpu.readG o.D = BitVec.ofNat 64 (s.cpu.groups * (131072 / (8 * 2 ^ (o.bImm % 4) * (8 * 2 ^ (o.bImm / 4 % 4)))))))
      ∧ ∀ (i : Instr) (avl : Nat), (i = .setvl o ∧ avl = (s.srcG o.A).toNat) ∨ (i = .setvli o ∧ avl = (s.srcB o.b).toNat) →
        (o.C = 1 → ∃ t, exec i s = .next t ∧ t.cpu.vl = min avl s.cpu.mvl ∧ t.cpu.vstart = 0 ∧ t.cpu.v = s.cpu.v ∧ t.cpu.m = s.cpu.m ∧ t.cpu.mqOff = s.cpu.mqOff
            ∧ t.cpu.groups = s.cpu.groups ∧ (o.D ≠ 0 → t.cpu.readG o.D = BitVec.ofNat 64 (min avl s.cpu.mvl)))
          ∧ (o.C ≠ 1 →
            let e := s.cpu.groupElems
            let h := min (max 1 (min ((avl + e - 1) / e) 16)) (s.cpu.groups + freeGroups s s.myCore)
            ∃ t, exec i s = .next t ∧ t.cpu.groups = h ∧ t.cpu.vl = min avl (h * e) ∧ t.cpu.vstart = 0
              ∧ (o.D ≠ 0 → t.cpu.readG o.D = BitVec.ofNat 64 (min avl (h * e)))
              ∧ (h = s.cpu.groups → t.cpu.v = s.cpu.v ∧ t.cpu.m = s.cpu.m ∧ t.cpu.mqOff = s.cpu.mqOff)
              ∧ (h ≠ s.cpu.groups → t.cpu.v = [] ∧ t.cpu.m = [] ∧ t.cpu.mqOff = []))

/-- R239: the mask instructions act on bits 0 to VL - 1, whatever VSTART and MMODE hold, and leave every other mask bit. -/
def Obligations.MaskInstructions : Prop :=
  ∀ (s : State) (o : Ops), s.cpu.vl ≤ 65536 →
    let set := fun (f k : Nat) => s.cpu.readM o.A f = true ∧ f < s.cpu.vl ∧ (∀ j, j < f → s.cpu.readM o.A j = false) ∧ k < s.cpu.vl
    (∀ x ∈ maskTable, MaskSet (x.1 o) s o (fun k => x.2 (s.cpu.readM o.A k) (s.cpu.readM o.B k)))
      ∧ MaskSet (.mval o) s o (fun k => s.cpu.readM 8 k)
      ∧ (∃ b, MaskSet (.mbefore o) s o b ∧ (∀ f k, set f k → b k = decide (k < f)) ∧ ((∀ j, j < s.cpu.vl → s.cpu.readM o.A j = false) → ∀ k, k < s.cpu.vl → b k = true))
      ∧ (∃ b, MaskSet (.mincl o) s o b ∧ (∀ f k, set f k → b k = decide (k ≤ f)) ∧ ((∀ j, j < s.cpu.vl → s.cpu.readM o.A j = false) → ∀ k, k < s.cpu.vl → b k = true))
      ∧ (∃ b, MaskSet (.monly o) s o b ∧ (∀ f k, set f k → b k = decide (k = f)) ∧ ((∀ j, j < s.cpu.vl → s.cpu.readM o.A j = false) → ∀ k, k < s.cpu.vl → b k = false))
      ∧ exec (.mpop o) s = .next (s.retire (fun t => t.writeG o.D (BitVec.ofNat 64 ((List.range s.cpu.vl).countP (fun k => s.cpu.readM o.A k)))))
      ∧ (∀ f, set f f → exec (.mfirst o) s = .next (s.retire (fun t => t.writeG o.D (BitVec.ofNat 64 f))))
      ∧ ((∀ j, j < s.cpu.vl → s.cpu.readM o.A j = false) → exec (.mfirst o) s = .next (s.retire (fun t => t.writeG o.D (BitVec.allOnes 64))))

/-- R240, R241, R235, R77 to R79: the vector integer instructions whose registers exist, whose types fit EW and whose sources are not poisoned complete with the
exact result of each active element, wrapped (or clamped) to the type. With VL = 0 none is active. -/
def Obligations.VectorIntegerElements : Prop :=
  ∀ (s : State) (o : Ops), o.T < 8 → s.cpu.vl ≤ 65536 →
    let a := fun (k : Nat) => elemInt s o.T o.A k
    let b := fun (k : Nat) => bInt s o k
    (∀ x ∈ vectorIntTable, HeadReady (x.1 o) [o.T] s.cpu → Elementwise (x.1 o) s o (o.C == 1) (fun k => intPattern o.T (x.2 o.T (a k) (b k))) (fun _ => 0))
      ∧ (∀ x ∈ vectorBitTable, HeadReady (x.1 o) [o.T] s.cpu →
          Elementwise (x.1 o) s o (o.C == 1)
            (fun k => (x.2 (intWidth o.T) (BitVec.ofNat _ (s.cpu.readV o.A k)) (BitVec.ofNat _ (bElem s o o.T k))).toNat) (fun _ => 0))
      ∧ (HeadReady (.vmadd o) [o.T] s.cpu →
          Elementwise (.vmadd o) s o false (fun k => intPattern o.T (a k * b k + elemInt s o.T o.C k)) (fun _ => 0))
      ∧ (HeadReady (.viota o) [o.T] s.cpu → Elementwise (.viota o) s o (o.C == 1) (fun k => intPattern o.T (b k + k)) (fun _ => 0))
      ∧ (o.C < 8 → HeadReady (.vext o) [o.C, o.T] s.cpu →
          Elementwise (.vext o) s o false (fun k => intPattern o.T (elemInt s o.C o.A k)) (fun _ => 0))
      ∧ (o.C ≤ 5 → HeadReady (.vcmp o) [o.T] s.cpu →
          ∃ r : Nat → Bool, ElementwiseMask (.vcmp o) s o false r (fun _ => 0) ∧ ∀ k, r k = true ↔ condition o.C (a k) (b k))

/-- R240, R241: selects, moves and splats carry bit patterns of any type; VMVXS and VMVSX move one element whatever VL, VSTART, MMODE and the masks hold, and
beyond MVL they write 0 or nothing, and their M field is zero. VMVXS reads no element but the one it moves, so no other poisoned element stops it (R391). -/
def Obligations.VectorMoves : Prop :=
  ∀ (s : State) (o : Ops), o.T ≤ 12 → s.cpu.vl ≤ 65536 →
    let w := typeWidth o.T
    let x := (s.srcB o.b).toNat
    ((.vmvxs o : Instr).wf = true ∨ (.vmvsx o : Instr).wf = true → o.M = 0) ∧ (HeadReady (.vmov o) [o.T] s.cpu → Elementwise (.vmov o) s o (o.C == 1) (fun k => s.cpu.readV o.A k % 2 ^ w) (fun _ => 0))
      ∧ (HeadReady (.vsplat o) [o.T] s.cpu → Elementwise (.vsplat o) s o (o.C == 1) (fun k => bElem s o o.T k) (fun _ => 0))
      ∧ (HeadReady (.vsel o) [o.T] s.cpu →
          Elementwise (.vsel o) s o false (fun k => if s.cpu.readM o.C k then s.cpu.readV o.A k % 2 ^ w else bElem s o o.T k) (fun _ => 0))
      ∧ (badVreg s.cpu (.vmvxs o) = none → w ≤ s.cpu.ew →
          (s.cpu.mvl ≤ x → exec (.vmvxs o) s = .next (s.retire (fun t => t.writeG o.D 0)))
            ∧ (x < s.cpu.mvl → s.cpu.vPoisonKey o.A x ∉ s.cpu.poison →
              exec (.vmvxs o) s = .next (s.retire (fun t => t.writeG o.D (loaded o.T (leBytes (w / 8) (s.cpu.readV o.A x)))))))
      ∧ (HeadReady (.vmvsx o) [o.T] s.cpu →
          (s.cpu.mvl ≤ x → exec (.vmvsx o) s = .next (s.retire id))
            ∧ (x < s.cpu.mvl → exec (.vmvsx o) s =
                .next (s.retire (fun t => t.writeV o.D x (extendV t.ew o.T ((s.srcG o.A).toNat % 2 ^ w))))))

/-- R242 to R244, R235, R106: the floating element-wise instructions complete where no active element reads an ABN: one rounding per element under the FPMODE of
commit, and the flags of the active elements ORed into FPFLAGS. VTSTABN, VLMUL and VLADD read an ABN without trapping. -/
def Obligations.VectorFloatElements : Prop :=
  ∀ (s : State) (o : Ops), s.cpu.vl ≤ 65536 →
    let f := fmtOf o.T
    let a := fun (k : Nat) => s.cpu.readV o.A k % 2 ^ typeWidth o.T
    let b := fun (k : Nat) => bElem s o o.T k
    let c := fun (k : Nat) => s.cpu.readV o.C k % 2 ^ typeWidth o.T
    let x := fun (k : Nat) => s.cpu.readV o.A k % 2 ^ typeWidth o.C
    let rm := s.srcRm
    let crm := if o.rmVector = 0 then rm else o.rmVector - 1
    (8 ≤ o.T → o.T ≤ 11 →
      (∀ neg, (neg = false ∨ neg = (o.C == 1)) → (∀ k, Active s o neg k → elemAbn s.cpu o.T o.A k = none ∧ bAbn s o k = none) →
        (neg = (o.C == 1) →
          (∀ y ∈ vectorFloatTable, HeadReady (y.1 o) [o.T] s.cpu →
            Elementwise (y.1 o) s o neg (fun k => (y.2 f rm (fdecode f (a k)) (fdecode f (b k))).1) (fun k => (y.2 f rm (fdecode f (a k)) (fdecode f (b k))).2))
          ∧ (HeadReady (.vfmin o) [o.T] s.cpu →
            Elementwise (.vfmin o) s o neg (fun k => (minMaxVal f false (a k) (b k)).1) (fun k => (minMaxVal f false (a k) (b k)).2))
          ∧ (HeadReady (.vfmax o) [o.T] s.cpu →
            Elementwise (.vfmax o) s o neg (fun k => (minMaxVal f true (a k) (b k)).1) (fun k => (minMaxVal f true (a k) (b k)).2))
          ∧ (HeadReady (.vfabs o) [o.T] s.cpu →
            Elementwise (.vfabs o) s o neg (fun k => (signOp f false (a k)).1) (fun k => (signOp f false (a k)).2))
          ∧ (HeadReady (.vfneg o) [o.T] s.cpu →
            Elementwise (.vfneg o) s o neg (fun k => (signOp f true (a k)).1) (fun k => (signOp f true (a k)).2)))
        ∧ (neg = false →
          ((∀ k, Active s o false k → elemAbn s.cpu o.T o.C k = none) →
            (HeadReady (.vfma o) [o.T] s.cpu →
              Elementwise (.vfma o) s o false (fun k => (fmaVal f rm (fdecode f (a k)) (fdecode f (b k)) (fdecode f (c k))).1)
                (fun k => (fmaVal f rm (fdecode f (a k)) (fdecode f (b k)) (fdecode f (c k))).2))
            ∧ (HeadReady (.vfnma o) [o.T] s.cpu →
              Elementwise (.vfnma o) s o false (fun k => (fmaVal f rm (fdecode f (a k)).flip (fdecode f (b k)) (fdecode f (c k))).1)
                (fun k => (fmaVal f rm (fdecode f (a k)).flip (fdecode f (b k)) (fdecode f (c k))).2)))
          ∧ (HeadReady (.vfcmp o) [o.T] s.cpu →
            ElementwiseMask (.vfcmp o) s o false (fun k => (condFp o.C (fdecode f (a k)) (fdecode f (b k))).1)
              (fun k => (condFp o.C (fdecode f (a k)) (fdecode f (b k))).2)))))
    ∧ ((∀ k, Active s o false k → elemAbn s.cpu o.C o.A k = none) →
        (HeadReady (.vfcvt o) [o.C, o.T] s.cpu → Elementwise (.vfcvt o) s o false (fun k => (fcvtOp o.C o.T crm (x k)).1) (fun k => (fcvtOp o.C o.T crm (x k)).2))
          ∧ (HeadReady (.vfcvti o) [o.C, o.T] s.cpu →
            Elementwise (.vfcvti o) s o false (fun k => (fcvtiOp o.C o.T crm (x k)).1) (fun k => (fcvtiOp o.C o.T crm (x k)).2))
          ∧ (o.C < 8 → HeadReady (.vicvtf o) [o.C, o.T] s.cpu →
            Elementwise (.vicvtf o) s o false (fun k => (icvtfOp o.C o.T crm (x k)).1) (fun k => (icvtfOp o.C o.T crm (x k)).2)))
    ∧ (o.T = 12 →
        (HeadReady (.vlmul o) [o.T] s.cpu → Elementwise (.vlmul o) s o (o.C == 1) (fun k => (l8Mul (a k) (b k)).1) (fun k => (l8Mul (a k) (b k)).2))
          ∧ (HeadReady (.vladd o) [o.T] s.cpu →
            Elementwise (.vladd o) s o (o.C == 1) (fun k => (toL8Dyadic (eaOf (a k) + eaOf (b k)) (-40)).1)
              (fun k => (toL8Dyadic (eaOf (a k) + eaOf (b k)) (-40)).2)))
    ∧ (o.T = 10 → HeadReady (.vtstabn o) [o.T] s.cpu → ElementwiseMask (.vtstabn o) s o (o.C == 1)
        (fun k => decide (0xFFA00000 ≤ a k) && decide (a k ≤ 0xFFA000FF)) (fun _ => 0))

/-- R106, R181, R182: an element-wise floating instruction traps ABN_OPERAND at the lowest active element with an ABN among its operands a, b and c, in this order:
under `.f32` an element of a v register in the ABN range, and under every IEEE type an F20 or a literal b with such a pattern; a conversion checks
its source under the source type. TVAL is the pattern with the element index above it, VSTART is that element, and nothing at or above it is written. -/
def Obligations.VectorAbnTraps : Prop :=
  ∀ (s : State) (o : Ops), s.cpu.vl ≤ 65536 →
    let pat := fun (t n k : Nat) => if t = 10 ∧ 0xFFA00000 ≤ s.cpu.readV n k % 2 ^ 32 ∧ s.cpu.readV n k % 2 ^ 32 ≤ 0xFFA000FF then some (s.cpu.readV n k % 2 ^ 32) else none
    let a := pat o.T o.A
    let b := bAbn s o
    let ab := fun (k : Nat) => (a k).or (b k)
    (8 ≤ o.T → o.T ≤ 11 →
        (∀ i ∈ [(.vfadd o : Instr), .vfsub o, .vfmul o, .vfdiv o, .vfmin o, .vfmax o], HeadReady i [o.T] s.cpu → TrapsAbn i s o (o.C == 1) ab)
          ∧ (∀ i ∈ [(.vfsqrt o : Instr), .vfrece o, .vfrsqe o, .vfabs o, .vfneg o], HeadReady i [o.T] s.cpu → TrapsAbn i s o (o.C == 1) a)
          ∧ (∀ i ∈ [(.vfma o : Instr), .vfnma o], HeadReady i [o.T] s.cpu → TrapsAbn i s o false (fun k => (ab k).or (pat o.T o.C k)))
          ∧ (HeadReady (.vfcmp o) [o.T] s.cpu → TrapsAbn (.vfcmp o) s o false ab)
          ∧ (∀ k p, o.bIsVector = false → o.b.f32Pattern = some p → b k = if 0xFFA00000 ≤ p ∧ p ≤ 0xFFA000FF then some p else none)
          ∧ (∀ k, o.bIsVector = true → b k = pat o.T o.B k))
      ∧ (∀ i ∈ [(.vfcvt o : Instr), .vfcvti o], HeadReady i [o.C, o.T] s.cpu → TrapsAbn i s o false (pat o.C o.A))

/-- R245 to R247, R102, R99: reductions and dot products write one result to D, combined from the start value and the active elements, whatever the number of
groups; with VL = 0 the start value combined with an empty set, and no flag. Floating sums are the pairwise tree over exact terms, and under `.bf16` and
`.f16` VREDSUM and VDOT read the start value, sum and answer in binary32. Where an operand is an ABN they trap instead, so the floating forms are stated where none
is. -/
def Obligations.ReductionsComplete : Prop :=
  ∀ (s : State) (o : Ops),
    let act := activeList s.cpu o false
    let a := fun (k : Nat) => elemInt s o.T o.A k
    let b := intValue o.T (s.srcB o.b)
    let done := fun (x : Word) (fl : Flags) => s.retire (fun t => (t.writeG o.D x).orFlags (if s.cpu.vl = 0 then 0 else fl))
    (o.T < 8 →
      (HeadReady (.vredsum o) [o.T] s.cpu → exec (.vredsum o) s = .next (done (intResult o.T (b + (act.map a).sum)) 0))
        ∧ (HeadReady (.vredmin o) [o.T] s.cpu → exec (.vredmin o) s = .next (done (intResult o.T ((act.map a).foldl min b)) 0))
        ∧ (HeadReady (.vredmax o) [o.T] s.cpu → exec (.vredmax o) s = .next (done (intResult o.T ((act.map a).foldl max b)) 0))
        ∧ (HeadReady (.vredbit o) [o.T] s.cpu → o.C = 1 →
          ∃ x : BitVec (intWidth o.T), exec (.vredbit o) s = .next (done (intBits o.T x) 0)
            ∧ ∀ j, j < intWidth o.T → (x.getLsbD j = true ↔ (s.srcB o.b).getLsbD j = true ∨ ∃ k ∈ act, (s.cpu.readV o.A k).testBit j = true))
        ∧ (HeadReady (.vredbit o) [o.T] s.cpu → o.C = 0 →
          ∃ x : BitVec (intWidth o.T), exec (.vredbit o) s = .next (done (intBits o.T x) 0)
            ∧ ∀ j, j < intWidth o.T → (x.getLsbD j = true ↔ (s.srcB o.b).getLsbD j = true ∧ ∀ k ∈ act, (s.cpu.readV o.A k).testBit j = true))
        ∧ (HeadReady (.vredbit o) [o.T] s.cpu → o.C = 2 →
          ∃ x : BitVec (intWidth o.T), exec (.vredbit o) s = .next (done (intBits o.T x) 0)
            ∧ ∀ j, j < intWidth o.T → x.getLsbD j = ((s.srcB o.b).getLsbD j != decide (act.countP (fun k => (s.cpu.readV o.A k).testBit j) % 2 = 1)))
        ∧ (HeadReady (.vdot o) [o.T] s.cpu →
          exec (.vdot o) s = .next (done (intResult o.T (intValue o.T (s.srcG o.C) + (act.map (fun k => a k * elemInt s o.T o.B k)).sum)) 0)))
      ∧ (8 ≤ o.T → o.T ≤ 11 →
        let f := fmtOf o.T
        let c := operandFp s.srcG s.srcK o.T o.b
        let v := fun (k : Nat) => s.cpu.readV o.A k % 2 ^ typeWidth o.T
        let y := fun (k : Nat) => s.cpu.readV o.B k % 2 ^ typeWidth o.T
        let tw := if o.T = 11 then 11 else 10
        let wide := fmtOf tw
        let cw := operandFp s.srcG s.srcK tw o.b
        let g := (s.srcG o.C).toNat % 2 ^ typeWidth tw
        let sum := sumFrom wide s.srcRm (positions s o (fun k => fdecode f (v k))) (fdecode wide cw.1)
        let dot := sumFrom wide s.srcRm (positions s o (fun k => (exactProduct f (v k) (y k)).1)) (fdecode wide g)
        (startAbn o cw = none → (∀ k ∈ act, elemAbn s.cpu o.T o.A k = none) → HeadReady (.vredsum o) [o.T] s.cpu →
          exec (.vredsum o) s = .next (done (BitVec.ofNat 64 sum.1) sum.2))
        ∧ ((o.T = 10 → isAbn g = false) → (∀ k ∈ act, elemAbn s.cpu o.T o.A k = none ∧ elemAbn s.cpu o.T o.B k = none) → HeadReady (.vdot o) [o.T] s.cpu →
          exec (.vdot o) s = .next (done (BitVec.ofNat 64 dot.1) (act.foldl (fun fl k => fl ||| (exactProduct f (v k) (y k)).2) dot.2)))
        ∧ (∀ p q, finite (fdecode f p) → finite (fdecode f q) →
          (exactProduct f p q).2 = flagNone ∧ finite (exactProduct f p q).1 ∧ exactOf (exactProduct f p q).1 = exactOf (fdecode f p) * exactOf (fdecode f q))
        ∧ (startAbn o c = none → (∀ k ∈ act, elemAbn s.cpu o.T o.A k = none) →
          (HeadReady (.vredmin o) [o.T] s.cpu → ∃ fl, exec (.vredmin o) s = .next (done (BitVec.ofNat 64
                (let r := act.foldl (fun x k => (minMaxVal f false x (v k)).1) c.1
                 if (fdecode f r).isNan then canonicalNaN o.T else r)) fl))
            ∧ (HeadReady (.vredmax o) [o.T] s.cpu → ∃ fl, exec (.vredmax o) s = .next (done (BitVec.ofNat 64
                (let r := act.foldl (fun x k => (minMaxVal f true x (v k)).1) c.1
                 if (fdecode f r).isNan then canonicalNaN o.T else r)) fl))))
      ∧ (o.T = 12 → HeadReady (.vdot o) [o.T] s.cpu →
        (∀ l, l <+: act → -(2 ^ 95 : Int) ≤ (l.map (fun k => eaProd (s.cpu.readV o.A k % 256) (s.cpu.readV o.B k % 256))).sum
            ∧ (l.map (fun k => eaProd (s.cpu.readV o.A k % 256) (s.cpu.readV o.B k % 256))).sum < 2 ^ 95) →
        exec (.vdot o) s = .next (done
          (BitVec.ofNat 64 (roundDyadic fmt32 0 false (act.map (fun k => eaProd (s.cpu.readV o.A k % 256) (s.cpu.readV o.B k % 256))).sum (-40)).1)
          (roundDyadic fmt32 0 false (act.map (fun k => eaProd (s.cpu.readV o.A k % 256) (s.cpu.readV o.B k % 256))).sum (-40)).2))

/-- R248 to R250, R103: each permutation moves elements as its row says, from sources read before any write; VCOMPRESS packs the active elements from position 0
on, VEXPAND spreads the first ones over the active positions. VSCAN writes running sums of the active elements, exact and wrapped under an integer type, one
rounding for each under a floating type, from the first active element or, where it resumes at a VSTART other than 0, from D at the nearest active
element below it. That VSORTK extends the indices it writes by the keys' type is the model's choice (log entry 57). -/
def Obligations.PermutationsComplete : Prop :=
  ∀ (s : State) (o : Ops), o.T ≤ 12 → s.cpu.vl ≤ 65536 →
    let w := typeWidth o.T
    let vl := s.cpu.vl
    let a := fun (k : Nat) => s.cpu.readV o.A k % 2 ^ w
    let v := fun (k : Nat) => s.cpu.readV o.B k % 2 ^ w
    let b := (s.srcB o.b).toNat
    let neg := (o.C == 1)
    let act := activeList s.cpu o neg
    (HeadReady (.vperm o) [o.T] s.cpu → Elementwise (.vperm o) s o neg (fun k => if v k < vl then a (v k) else 0) (fun _ => 0))
      ∧ (HeadReady (.vslidedn o) [o.T] s.cpu → Elementwise (.vslidedn o) s o neg (fun k => if k + b < vl then a (k + b) else 0) (fun _ => 0))
      ∧ (HeadReady (.vrev o) [o.T] s.cpu → Elementwise (.vrev o) s o neg (fun k => a (vl - 1 - k)) (fun _ => 0))
      ∧ (HeadReady (.vzip o) [o.T] s.cpu →
          Elementwise (.vzip o) s o false (fun k => if (k + o.C * vl) % 2 = 0 then a ((k + o.C * vl) / 2) else v ((k + o.C * vl) / 2)) (fun _ => 0))
      ∧ (HeadReady (.vunzip o) [o.T] s.cpu →
          Elementwise (.vunzip o) s o false (fun k => if 2 * k + o.C < vl then a (2 * k + o.C) else v (2 * k + o.C - vl)) (fun _ => 0))
      ∧ (HeadReady (.vslideup o) [o.T] s.cpu → ∃ t, exec (.vslideup o) s = .next t ∧ t.mem = s.mem ∧ t.cpu.g = s.cpu.g ∧ t.cpu.vstart = 0
          ∧ ∀ n k, k < 65536 →
            ((n = o.D ∧ Active s o neg k ∧ b ≤ k) → t.cpu.readV n k = extendV s.cpu.ew o.T (a (k - b)) % 2 ^ s.cpu.ew)
              ∧ (¬ (n = o.D ∧ Active s o neg k ∧ b ≤ k) → t.cpu.readV n k = s.cpu.readV n k))
      ∧ (HeadReady (.vcompress o) [o.T] s.cpu → ∃ t, exec (.vcompress o) s = .next t ∧ t.mem = s.mem ∧ t.cpu.g = s.cpu.g ∧ t.cpu.vstart = 0
          ∧ ∀ n j, j < 65536 → (∀ k, n = o.D → act[j]? = some k → t.cpu.readV n j = extendV s.cpu.ew o.T (a k) % 2 ^ s.cpu.ew)
              ∧ ((n ≠ o.D ∨ act.length ≤ j) → t.cpu.readV n j = s.cpu.readV n j))
      ∧ (HeadReady (.vexpand o) [o.T] s.cpu → ∃ t, exec (.vexpand o) s = .next t ∧ t.mem = s.mem ∧ t.cpu.g = s.cpu.g ∧ t.cpu.vstart = 0
          ∧ ∀ n k, k < 65536 → (∀ j, n = o.D → act[j]? = some k → t.cpu.readV n k = extendV s.cpu.ew o.T (a j) % 2 ^ s.cpu.ew)
              ∧ ((n ≠ o.D ∨ ¬ Active s o neg k) → t.cpu.readV n k = s.cpu.readV n k))
      ∧ (∀ q, NearestBelow s o neg q → (∀ k, q = some k → s.cpu.vPoisonKey o.D k ∉ s.cpu.poison) → HeadReady (.vscan o) [o.T] s.cpu →
          (o.T < 8 →
            let start := (q.map (elemInt s o.T o.D)).getD 0
            Elementwise (.vscan o) s o neg (fun k => intPattern o.T (start + ((act.filter (fun j => decide (j ≤ k))).map (fun j => elemInt s o.T o.A j)).sum)) (fun _ => 0))
          ∧ (8 ≤ o.T → o.T ≤ 11 → (∀ k ∈ act, elemAbn s.cpu o.T o.A k = none) → (∀ k, q = some k → elemAbn s.cpu o.T o.D k = none) →
            ∃ (r : Nat → Nat) (fl : Nat → Flags), Elementwise (.vscan o) s o neg r fl
              ∧ ∀ j k, act[j]? = some k →
                let before := if j = 0 then q.map (fun n => s.cpu.readV o.D n % 2 ^ w) else (act[j - 1]?).map r
                (before = none → r k = a k ∧ fl k = 0) ∧ ∀ p, before = some p → (r k, fl k) = addVal (fmtOf o.T) s.srcRm (fdecode (fmtOf o.T) p) (fdecode (fmtOf o.T) (a k))))
      ∧ (vl ≠ 0 → o.D ≠ o.C → HeadReady (.vsortk o) [o.T] s.cpu →
          ∃ (t : State) (l : List (Nat × Nat)), exec (.vsortk o) s = .next t ∧ t.mem = s.mem ∧ t.cpu.g = s.cpu.g ∧ t.cpu.vstart = 0
            ∧ l.Perm ((activeList s.cpu o false).map (fun k => (a k, k)))
            ∧ l.Pairwise (fun x y => sortKey o.T x.1 < sortKey o.T y.1 ∨ sortKey o.T x.1 = sortKey o.T y.1 ∧ x.2 < y.2)
            ∧ ∀ j x, j < 65536 → l[j]? = some x → t.cpu.readV o.D j = extendV s.cpu.ew o.T x.1 % 2 ^ s.cpu.ew
                ∧ t.cpu.readV o.C j = extendV s.cpu.ew o.T (x.2 % 2 ^ w) % 2 ^ s.cpu.ew)

/-- R190 to R193: a pair reads all operands of both slots before either writes. Two scalar slots write both results; a scalar and a vector slot in one entry write
the g register when the elements complete. -/
def Obligations.PairsComplete : Prop :=
  ∀ (s : State) (x y : Slot), x.op.isVector = false → slotAbn s.cpu.readG x = none →
    let rx := slotValue x.op s.cpu.fpmode (s.cpu.readG x.d.toNat) (slotSource s.cpu.readG x)
    (y.op.isVector = false → slotAbn s.cpu.readG y = none → x.d ≠ y.d →
      let ry := slotValue y.op s.cpu.fpmode (s.cpu.readG y.d.toNat) (slotSource s.cpu.readG y)
      ∃ t, exec (.pFormPair x y) s = .next t ∧ (x.d ≠ 0 → t.cpu.readG x.d.toNat = rx.1) ∧ (y.d ≠ 0 → t.cpu.readG y.d.toNat = ry.1)
        ∧ (∀ n, n ≠ x.d.toNat → n ≠ y.d.toNat → t.cpu.readG n = s.cpu.readG n) ∧ t.cpu.fpflags = s.cpu.fpflags ||| rx.2 ||| ry.2
        ∧ t.cpu.pc = s.cpu.pc + 8 ∧ t.mem = s.mem ∧ t.cpu.v = s.cpu.v ∧ t.cpu.queue = s.cpu.queue)
      ∧ (y.op = .vaddS32 → s.cpu.vl ≤ 65536 → HeadReady (.pFormPair x y) [2] s.cpu →
        ∃ t, exec (.pFormPair x y) s = .next t ∧ t.cpu.vstart = 0 ∧ t.cpu.queue = s.cpu.queue.drop 1
          ∧ (x.d ≠ 0 → t.cpu.readG x.d.toNat = (slotValue x.op s.srcRm (s.srcG x.d.toNat) (slotSource s.srcG x)).1) ∧ (∀ n, n ≠ x.d.toNat → t.cpu.readG n = s.cpu.readG n)
          ∧ ∀ k, s.cpu.vstart ≤ k → k < s.cpu.vl → ∀ r, y.src = .reg r →
            t.cpu.readV y.d.toNat k % 2 ^ 32 = (s.cpu.readV y.d.toNat k % 2 ^ 32 + s.cpu.readV r.toNat k % 2 ^ 32) % 2 ^ 32)

/-! Vector memory, waits, tiles, verdicts. -/

namespace Sys2Proof.Claims

open Sys2Proof.Machine Sys2Proof.Safety

/-- The vector loads and their address forms (R262, R267), and the stores. -/
def vectorLoads (o : Ops) : List (Instr × VForm) :=
  [(.vld o, .unit), (.vlds o, .strided), (.vldx o, .indexed), (.vldff o, .unit), (.vldxff o, .indexed)]
def vectorStores (o : Ops) : List (Instr × VForm) := [(.vst o, .unit), (.vsts o, .strided), (.vstx o, .indexed)]

/-- Byte `a` of memory lies outside every element. -/
def outsideAll (els : List VElem) (a : Nat) : Prop := ∀ e ∈ els, outside e.places a

/-- The instruction at the head of the queue waits for no pieces of its own: its turn starts it. -/
def Starts (s : State) : Prop := ∀ e, s.cpu.queue.head? = some e → e.awaits = false

/-- The instruction at the head of the queue waits for pieces that it has issued (R120, R362). -/
def Waits (s : State) (e : QEntry) (rest : List QEntry) : Prop := s.cpu.queue = e :: rest ∧ e.awaits = true

/-- The last of those pieces has ended. -/
def Answered (s : State) (e : QEntry) : Prop := ∀ p ∈ s.pieces, p.op ≠ e.op

/-- A matrix instruction passes the checks at the head of the queue (R278): its v registers exist, no tile is disabled, the tile that it names is held, the
shape is of the type `typed` and fits it, and no source word is poisoned. -/
structure TileReady (i : Instr) (tile typed : Option Nat) (t : Strand) : Prop where
  registers : badVreg t i = none
  enabled   : t.td = false
  held      : ∀ n, tile = some n → t.held.getLsbD n = true
  shape     : ∀ ty, typed = some ty → t.ttype = ty ∧ ty ≠ 15 ∧ t.tn ≤ tileColumns ty
  sources   : poisonedSource t i = none

/-- A store, scatter or atomic that its pieces have left with a lowest failure at `k` traps there, and the held entry's bitmap names the elements above it
that were performed (R120, R264): those sent, but for the failing ones. -/
def TrapsWithBitmap (i : Instr) (s : State) (e : QEntry) (k c : Nat) (tv : Word) : Prop :=
  ∃ u, exec i s = .next (queuedTrap u c tv) ∧ u.cpu.vstart = k ∧ u.mem = s.mem
    ∧ (e.lost = [] → ∃ f rest, u.cpu.queue = f :: rest ∧ ∀ j, j ∈ f.bitmap ↔ k < j ∧ (j ∈ e.bitmap ∨ j ∈ e.issued ∧ ∀ x ∈ e.fails, x.1 ≠ j))

/-- R286: `n` steps of a TMAC from step `k` on, each reading its operands and accumulating them, lead from one state to another. -/
inductive Accumulates (o : Ops) (x y : Lines) : Nat → Nat → State → State → Prop where
  | done (k : Nat) (s : State) : Accumulates o x y 0 k s s
  | step (n k : Nat) (s s1 t : State) (got : List Got) :
      pipeRead s (hintWords o.hint) x.size (x.step k ++ y.step k) = .ok got s1 →
      tmacAbn s1.cpu (o.D % 4) o.T ((got.map (fun g => leNat g.bytes)).take x.lines) ((got.map (fun g => leNat g.bytes)).drop x.lines) = none →
      Accumulates o x y n (k + 1) (s1.onCpu (tmacApply (o.D % 4) o.T s1.srcRm ((got.map (fun g => leNat g.bytes)).take x.lines)
        ((got.map (fun g => leNat g.bytes)).drop x.lines))) t →
      Accumulates o x y (n + 1) k s t

/-- R282: `n` rows of a TLDACC from row `r` on. -/
inductive RowsLoad (o : Ops) (x : Lines) : Nat → Nat → State → State → Prop where
  | done (r : Nat) (s : State) : RowsLoad o x 0 r s s
  | row (n r : Nat) (s s1 t : State) (got : List Got) :
      pipeRead s (hintWords o.hint) x.size (x.step r) = .ok got s1 →
      RowsLoad o x n (r + 1) (s1.onCpu (loadRow o.D o.T r (got.map (fun g => leNat g.bytes)))) t → RowsLoad o x (n + 1) r s t

/-- R282, R283, R391: `n` rows of a TSTACC from row `r` on, none of them poisoned: the accumulators converted, and written in element order. -/
inductive RowsStore (o : Ops) (x : Lines) : Nat → Nat → State → State → Prop where
  | done (r : Nat) (s : State) : RowsStore o x 0 r s s
  | row (n r : Nat) (s s1 s2 t : State) (ps : List (List (Place × Nat))) (vals : List (Nat × Flags)) :
      placesAll (storeWho o s) .write x.size s (x.step r) = .ok ps s1 →
      ps.any (wordPending s1 true) = false → rowPoisoned s1.cpu o.D r (x.lines * accBytes o.T) = none →
      (List.range x.lines).map (fun c => storedAcc o.T o.C s1.srcRm (accGet s1.cpu o.D o.T r c)) = vals.map some →
      storeCells (storeWho o s) s1 ((x.step r).zip (ps.zip (vals.map (fun v => leBytes x.size v.1)))) = .ok () s2 →
      RowsStore o x n (r + 1) (s2.onCpu (fun u => u.orFlags (vals.foldl (fun f v => f ||| v.2) 0))) t → RowsStore o x (n + 1) r s t

/-- R290: Bnd of the directory entry `ent` against the bounds `bq` of the query's chunks. -/
def entryBnd (bq : List (Option Int)) (ent : Nat) : Int :=
  let bk : Int := if ent / 2 ^ 16 % 128 < 64 then (ent / 2 ^ 16 % 128 : Nat) else (ent / 2 ^ 16 % 128 : Nat) - 128
  match bq.getD (ent % 2 ^ 16) none with
  | none => 0
  | some m => if bk = -64 then 0 else 64 * (([256, 304, 362, 431] : List Int).getD ((bk + m) % 4).toNat 0) * 2 ^ ((bk + m) / 4 + 32).toNat

/-- R292: Sample() reads the cell and keeps the largest threshold read so far; a NaN or an ABN is ignored. -/
def Sampled (s : State) (cell : Word) (tau tau1 : Nat) (s1 : State) : Prop :=
  ∃ x : Got, readMem s (s.who .matrix) cell 8 0 .read = .ok x s1
    ∧ let y := leNat x.bytes % 2 ^ 32
      ((fdecode fmt32 y).isNan = true → tau1 = tau)
        ∧ ((fdecode fmt32 y).isNan = false → tau1 = if ltVal (fdecode fmt32 tau) (fdecode fmt32 y) then y else tau)

/-- R291: the verdict `v` at a checkpoint with sum `sum` and remaining bound `b`; none where the row goes on. -/
def Verdict (p : Nat) (sum b : Int) (tau : Nat) (v : Option Nat) : Prop :=
  (p = 1 → v = if b < sum then some 0xFFA00003 else if sum < -b then some 0xFFA00002 else none)
    ∧ (p = 2 → v = if ltVal (fdecode fmt32 (roundDyadic fmt32 0 false (sum + b) (-40)).1) (fdecode fmt32 tau) then some 0xFFA00001 else none)
    ∧ (p ≠ 1 → p ≠ 2 → v = none)

/-- R291: a row from directory entry `e` on, with the sum, the bound and `live` there, gives a result, its flags, its VFS bits and the threshold sampled. -/
inductive RowRuns (p : Nat) (q : Query) (cell data : Word) :
    Nat → List Nat → Int → Int → Bool → BitVec 5 → Nat → State → Nat → Flags → BitVec 5 → Nat → State → Prop where
  | finish (e : Nat) (sum b : Int) (live : Bool) (vfs : BitVec 5) (tau : Nat) (s : State) :
      RowRuns p q cell data e [] sum b live vfs tau s (roundDyadic fmt32 0 false sum (-40)).1 ((roundDyadic fmt32 0 false sum (-40)).2 &&& 3) vfs tau s
  | verdict (e ent : Nat) (rest : List Nat) (sum b : Int) (vfs : BitVec 5) (tau tau1 v : Nat) (s s1 : State) :
      (p = 2 → Sampled s cell tau tau1 s1) → (p ≠ 2 → tau1 = tau ∧ s1 = s) → Verdict p sum b tau1 (some v) →
      RowRuns p q cell data e (ent :: rest) sum b true vfs tau s v 0 vfs tau1 s1
  | skip (e ent : Nat) (rest : List Nat) (sum b : Int) (live : Bool) (vfs vfs' : BitVec 5) (tau tau1 tau2 x : Nat) (fl : Flags) (s s1 t : State) :
      (live = true ∧ p = 2 → Sampled s cell tau tau1 s1) → (¬ (live = true ∧ p = 2) → tau1 = tau ∧ s1 = s) → (live = true → Verdict p sum b tau1 none) →
      entryBnd q.bq ent = 0 → RowRuns p q cell data (e + 1) rest sum b live vfs tau1 s1 x fl vfs' tau2 t →
      RowRuns p q cell data e (ent :: rest) sum b live vfs tau s x fl vfs' tau2 t
  | invalid (e ent : Nat) (rest : List Nat) (sum b : Int) (live : Bool) (vfs : BitVec 5) (tau tau1 : Nat) (s s1 s2 : State) (y : Got) :
      (live = true ∧ p = 2 → Sampled s cell tau tau1 s1) → (¬ (live = true ∧ p = 2) → tau1 = tau ∧ s1 = s) → (live = true → Verdict p sum b tau1 none) →
      entryBnd q.bq ent ≠ 0 → readMem s1 (s1.who .matrix) (data + BitVec.ofNat 64 (64 * e)) 64 0 .read = .ok y s2 → y.inv = true →
      RowRuns p q cell data e (ent :: rest) sum b live vfs tau s 0x7FC00000 0 (vfs ||| 16) tau1 s2
  | chunk (e ent : Nat) (rest : List Nat) (sum b : Int) (live broken : Bool) (vfs vfs' : BitVec 5) (tau tau1 tau2 x : Nat) (fl : Flags) (s s1 s2 t : State) (y : Got) :
      (live = true ∧ p = 2 → Sampled s cell tau tau1 s1) → (¬ (live = true ∧ p = 2) → tau1 = tau ∧ s1 = s) → (live = true → Verdict p sum b tau1 none) →
      entryBnd q.bq ent ≠ 0 → readMem s1 (s1.who .matrix) (data + BitVec.ofNat 64 (64 * e)) 64 0 .read = .ok y s2 → y.inv = false →
      (broken = true ↔ ∃ c ∈ y.bytes, l8Zero c.toNat = false ∧ entryBk ent < l8Log c.toNat) →
      RowRuns p q cell data (e + 1) rest (sum + ((y.bytes.zip ((q.bytes.drop (64 * (ent % 2 ^ 16))).take 64)).map (fun z => eaProd z.1.toNat z.2)).sum)
        (b - entryBnd q.bq ent) (live && !broken) (if broken then vfs ||| 8 else vfs) tau1 s2 x fl vfs' tau2 t →
      RowRuns p q cell data e (ent :: rest) sum b live vfs tau s x fl vfs' tau2 t

/-- R289, R291: the row whose record of `n` chunks stands at `rec`: a directory that touches an INV block, or in which some id below `n` does not appear, gives the
canonical NaN and VFS.INV; another runs from its first entry, with the sum of the bounds. No watermark link holds the record back (R68). -/
inductive RowGives (n p : Nat) (q : Query) (cell rec : Word) (tau : Nat) (s : State) : Nat → Flags → BitVec 5 → Nat → State → Prop where
  | malformed (s1 s2 : State) (d : Got) : wmCheck s .matrix rec = .pass s1 → readMem s1 (s1.who .matrix) rec (4 * n) 0 .read = .ok d s2 →
      (d.inv = true ∨ ∃ id, id < n ∧ ∀ e, e < n → leNat ((d.bytes.drop (4 * e)).take 4) % 2 ^ 16 ≠ id) → RowGives n p q cell rec tau s 0x7FC00000 0 16 tau s2
  | judged (s1 s2 t : State) (d : Got) (ents : List Nat) (x tau1 : Nat) (fl : Flags) (vfs : BitVec 5) :
      wmCheck s .matrix rec = .pass s1 → readMem s1 (s1.who .matrix) rec (4 * n) 0 .read = .ok d s2 → d.inv = false →
      ents = (List.range n).map (fun e => leNat ((d.bytes.drop (4 * e)).take 4)) → (∀ id, id < n → ∃ y ∈ ents, y % 2 ^ 16 = id) →
      RowRuns p q cell (rec + BitVec.ofNat 64 (64 * ((4 * n + 63) / 64))) 0 ents 0 (ents.map (entryBnd q.bq)).sum (decide (p ≠ 0)) 0 tau s2 x fl vfs tau1 t →
      RowGives n p q cell rec tau s x fl vfs tau1 t

/-- R291: some rows of a VDOTV, in index order: each in the address space, each evaluated to a value; the threshold sampled goes on from row to row. -/
inductive RowsJudged (o : Ops) (q : Query) (cell : Word) (base : Nat) (stride : Int) : List Nat → Nat → Nat → State → State → Prop where
  | done (tau : Nat) (s : State) : RowsJudged o q cell base stride [] tau tau s s
  | row (k : Nat) (rest : List Nat) (tau tau1 tau2 x : Nat) (fl : Flags) (vfs : BitVec 5) (s s1 t : State) :
      0 ≤ (base : Int) + k * stride → (base : Int) + k * stride < 2 ^ 64 →
      RowGives (vdotvChunks o) (vdotvPred o) q cell (BitVec.ofInt 64 ((base : Int) + k * stride)) tau s x fl vfs tau1 s1 →
      RowsJudged o q cell base stride rest tau1 tau2 (s1.onCpu (fun u => { ((u.writeV o.D k x).orFlags fl) with vfs := u.vfs ||| vfs })) t →
      RowsJudged o q cell base stride (k :: rest) tau tau2 s t

end Sys2Proof.Claims

/-- R251, R262 to R268, R235: the vector loads, stores and the prefetch. The address of element k is as R251 says. With VL = 0 nothing happens; a strided form
that leaves the address space traps STRIDE with TVAL = b. A blocking load whose elements translate and arrive completes; a fault-first one trims VL to
its first faulting element above the lowest active one, and another traps there, behind the elements below. A blocking store that its homes accept
completes, and no byte of memory outside its elements has changed; the lowest element that a home refuses traps, at that VSTART. A blocking access of
which packets must reach an element (R120, R362) leaves as pieces and waits; once the last has ended it completes, a load with what they brought, or it
traps at the lowest failure, a store with the performed elements above it in the bitmap. On the strand's own die the VMU performs 64 elements in a turn (R64, log
entry 71): an access of more goes on from its next element, as this statement says of it again. A store of release order waits for every earlier blocking scalar
store (R155). Non-blocking forms leave the queue with their pieces issued. VPREF always completes, and writes no memory and no register; that its strided form drops
an address outside the space, where R251 names it among the forms that trap STRIDE, is the model's choice (log entry 28). -/
def Obligations.VectorMemoryCompletes : Prop :=
  ∀ (s s1 s2 : State) (o : Ops) (els : List VElem),
    let act := activeMem s.cpu o o.mn
    let todo := act.filter (fun k => !(doneAlready s).contains k)
    let w := s.who .vector
    let n := byteSize o.T
    let rel := o.releases && earlierPosts s
    (∀ k, vEa o s .unit k = s.srcG o.A + s.srcB o.b + BitVec.ofNat 64 (k * n) ∧ vEa o s .strided k = s.srcG o.A + BitVec.ofNat 64 k * s.srcB o.b
        ∧ vEa o s .indexed k = s.srcG o.A + BitVec.ofInt 64 (signedOf s.cpu.ew (s.cpu.readV o.B k)))
    ∧ (∀ x ∈ vectorStores o, Starts s → rel = true → exec x.1 s = .next s.park)
    ∧ (∀ x ∈ vectorLoads o ++ vectorStores o, Starts s → HeadReady x.1 [o.T] s.cpu → (x ∈ vectorStores o → rel = false) →
        (s.cpu.vl = 0 → exec x.1 s = .next (s.retire id))
          ∧ (s.cpu.vl ≠ 0 → strideBad o s x.2 act = true → exec x.1 s = .next (queuedTrap s 0x11 (s.srcB o.b))))
    ∧ (∀ x ∈ vectorLoads o, Starts s → HeadReady x.1 [o.T] s.cpu → s.cpu.vl ≠ 0 → strideBad o s x.2 act = false →
        translateLoad o x.2 s act = .done els s1 →
          (o.nb = false → els.length ≤ 64 → elemsAway s1 w els = false → loadElems o (s1.who .vector) (requestElems o (s1.who .vector) s1 els) els = (s2, .done) →
              exec x.1 s = .next ((dropTouched s2 els).retire id))
            ∧ (o.nb = false → elemsAway s1 w (passElems s1 els).1 = true →
              ∃ t, exec x.1 s = .next t ∧ t.cpu.parked = true ∧ t.mem = s1.mem ∧ ∀ e rest, s.cpu.queue = e :: rest → ∃ f, t.cpu.queue.head? = some f ∧ f.instr = e.instr)
            ∧ (o.nb = true → ccFull s o.ccNo = false → checkAll .vector s1 els = .pass s2 →
              exec x.1 s = .next ((issueNb (dropTouched s2 els) o.ccNo (elemsHs els) none (loadPieces o els)).retire id)))
    ∧ (∀ x ∈ vectorLoads o, ∀ e more, Starts s → HeadReady x.1 [o.T] s.cpu → s.cpu.vl ≠ 0 → strideBad o s x.2 act = false → o.nb = false →
        (translateLoad o x.2 s act = .done els s1 ∨ ∃ k c tv, translateLoad o x.2 s act = .fault els k c tv s1) → els.drop 64 = e :: more → elemsAway s1 w els = false →
        loadElems o (s1.who .vector) (requestElems o (s1.who .vector) s1 (els.take 64)) (els.take 64) = (s2, .done) →
        exec x.1 s = .next (betweenSteps (atElement (keepReads (dropTouched s2 (els.take 64)) (els.take 64)) e.i) accessPass))
    ∧ (∀ x ∈ [((.vldff o : Instr), VForm.unit), (.vldxff o, .indexed)], ∀ (k c : Nat) (tv : Word), Starts s → HeadReady x.1 [o.T] s.cpu → s.cpu.vl ≠ 0 → o.nb = false →
        translateLoad o x.2 s act = .fault els k c tv s1 → els.length ≤ 64 → elemsAway s1 w els = false →
        loadElems o (s1.who .vector) (requestElems o (s1.who .vector) s1 els) els = (s2, .done) →
        (0x11 ≤ c → c ≤ 0x15 → (act.head? ≠ some k ∨ started (dropTouched s2 els) = true) →
            exec x.1 s = .next ((dropTouched s2 els).retire (fun u => { u with vl := k, vfs := u.vfs ||| 1 })))
          ∧ ((c < 0x11 ∨ 0x15 < c ∨ (act.head? = some k ∧ started (dropTouched s2 els) = false)) → exec x.1 s = .next (queuedTrap (atElement (dropTouched s2 els) k) c tv)))
    ∧ (∀ x ∈ [((.vld o : Instr), VForm.unit), (.vlds o, .strided), (.vldx o, .indexed)], ∀ (k c : Nat) (tv : Word), Starts s → HeadReady x.1 [o.T] s.cpu →
        s.cpu.vl ≠ 0 → o.nb = false → strideBad o s x.2 act = false → translateLoad o x.2 s act = .fault els k c tv s1 → els.length ≤ 64 → elemsAway s1 w els = false →
        loadElems o (s1.who .vector) (requestElems o (s1.who .vector) s1 els) els = (s2, .done) →
        exec x.1 s = .next (queuedTrap (atElement (dropTouched s2 els) k) c tv))
    ∧ (∀ x ∈ vectorLoads o, ∀ e rest, Waits s e rest →
        ((∃ p ∈ s.pieces, p.op = e.op) → exec x.1 s = .next s.park)
          ∧ (Answered s e → e.fails = [] → (∀ k ∈ act, k ∈ e.issued) → ∃ t, exec x.1 s = .next t ∧ t.mem = s.mem ∧ t.cpu.g = s.cpu.g ∧ t.cpu.vl = s.cpu.vl
              ∧ t.cpu.vstart = 0 ∧ t.cpu.queue = rest
              ∧ ∀ k bytes, o.T ≤ 12 → (∀ y ∈ e.got, y.1 < 65536) → e.got.filter (fun y => y.1 = k) = [(k, 0, bytes)] → bytes.length = n →
                  t.cpu.readV o.D k = extendV s.cpu.ew o.T (leNat bytes) % 2 ^ s.cpu.ew)
          ∧ (∀ k c tv, Answered s e → lowestFail e.fails = some (k, c, tv) → (o.nb = true ∨ x.1 = .vld o ∨ x.1 = .vlds o ∨ x.1 = .vldx o) →
              ∃ u, exec x.1 s = .next (queuedTrap u c tv) ∧ u.cpu.vstart = k ∧ u.mem = s.mem))
    ∧ (∀ x ∈ vectorStores o, ∀ e rest, Waits s e rest →
        ((∃ p ∈ s.pieces, p.op = e.op) → exec x.1 s = .next s.park)
          ∧ (Answered s e → e.fails = [] → e.wrote = [] → exec x.1 s = .next (s.retire id))
          ∧ (Answered s e → e.fails = [] → ∃ t : State, exec x.1 s = .next (t.retire id) ∧ t.mem = s.mem ∧ t.cpu.g = s.cpu.g ∧ t.cpu.v = s.cpu.v)
          ∧ (∀ k c tv, Answered s e → lowestFail e.fails = some (k, c, tv) → TrapsWithBitmap x.1 s e k c tv))
    ∧ (∀ x ∈ vectorStores o, Starts s → HeadReady x.1 [o.T] s.cpu → s.cpu.vl ≠ 0 → strideBad o s x.2 act = false → rel = false →
        (o.nb = false → vTranslate w .write n x.2 (vEa o s x.2) s todo = .done els s1 →
          let p := performStore o s (els.take 64) s1
          (∀ a, outsideAll els a → memGet p.s.mem a = memGet s1.mem a)
            ∧ (elemsAway s1 w els = false → p.fail = none → els.length ≤ 64 → exec x.1 s = .next (p.s.retire id))
            ∧ (∀ e more, elemsAway s1 w els = false → p.fail = none → els.drop 64 = e :: more → (∀ y ∈ more, e.i ≤ y.i) →
                exec x.1 s = .next (betweenSteps (keepBitmap (atElement p.s e.i) e.i []) accessPass))
            ∧ (elemsAway s1 w els = false → ∀ k st tv, p.fail = some (k, st, tv) →
                exec x.1 s = .next (queuedTrap (keepBitmap (atElement p.s k) k p.done) st.cause tv))
            ∧ (elemsAway s1 w els = true → ∃ t, exec x.1 s = .next t ∧ t.cpu.parked = true ∧ t.mem = s1.mem))
          ∧ (o.nb = true → ccFull s o.ccNo = false → vTranslate w .write n x.2 (vEa o s x.2) s todo = .done els s1 → wroteSoFar s1 = [] →
            ∃ t : State, exec x.1 s = .next (t.retire id) ∧ t.mem = s1.mem))
    ∧ (HeadReady (.vpref o) [o.T] s.cpu → ∃ t, exec (.vpref o) s = .next t ∧ t.mem = s.mem ∧ t.cpu.g = s.cpu.g ∧ t.cpu.v = s.cpu.v ∧ t.cpu.m = s.cpu.m
        ∧ t.cpu.mqOff = s.cpu.mqOff ∧ t.cpu.cc = s.cpu.cc ∧ t.cpu.vl = s.cpu.vl ∧ t.cpu.vstart = 0 ∧ t.cpu.queue = s.cpu.queue.drop 1)

/-- R263, R231: elements loaded from scratchpad places, with no watermark link in the way, arrive in vD as memory holds them, extended to the slot; nothing
else of the registers and no memory changes. -/
def Obligations.LoadedElementsArrive : Prop :=
  ∀ (s : State) (w : Who) (o : Ops) (els : List VElem), s.cpu.links = [] →
    els.Pairwise (fun x y => x.i ≠ y.i) →
    (∀ e ∈ els, e.i < 65536 ∧ ∃ p : Place, e.places = [(p, byteSize o.T)] ∧ p.kind = .scratch ∧ homePoisoned s p.ha (byteSize o.T) = false
      ∧ cutOff s w p (byteSize o.T) = false) →
    ∃ t, loadElems o w s els = (t, .done) ∧ t.mem = s.mem ∧ t.cpu.g = s.cpu.g ∧ t.cpu.m = s.cpu.m ∧ t.cpu.mqOff = s.cpu.mqOff ∧ t.cpu.vl = s.cpu.vl
      ∧ (∀ e ∈ els, ∀ p, e.places = [(p, byteSize o.T)] →
          t.cpu.readV o.D e.i = extendV s.cpu.ew o.T (leNat (memRead s.mem p.ha (byteSize o.T))) % 2 ^ s.cpu.ew)
      ∧ ∀ r k, k < 65536 → (r = o.D → ∀ e ∈ els, e.i ≠ k) → t.cpu.readV r k = s.cpu.readV r k

/-- R269, R270 to R274, R167, R170: the vector atomics apply their elements in an order the model leaves open (log entry 4), 64 in a turn (R64, log entry 71), and
complete when every home accepts them; where packets must reach an element they leave as pieces and wait for the last of them (R120, R362), and so do BYTESUB and
WMPUB. VAMO, VCAS and BYTESUB of release order, WMPUB (R273) and BARRIER (R274) wait for every earlier blocking scalar store on its way (R155, R398). VWAIT
completes when any (or, with C at least 8, every) watched element satisfies its condition, with the elements read in vD and the satisfied ones in m0, and
parks otherwise. CCWAIT, CCSET, BYTEWAIT, BYTESUB, WMPUB, WMWAIT; BARRIER completes when every task of its instance has arrived or exited. -/
def Obligations.VectorAtomicsAndWaits : Prop :=
  ∀ (s s1 s2 : State) (o : Ops) (els : List VElem) (ps : List (Place × Nat)) (x : Got) (old : List Byte),
    let w := s.who .vector
    let n := byteSize o.T
    let ea := vEa o s .indexed
    let act := activeMem s.cpu o false
    let todo := act.filter (fun k => !(doneAlready s).contains k)
    let order := if elemsHs els then els else freeOrderOf els.length s1.free els
    let start : Performance := { s := { s1 with free := s1.free + els.length } }
    let amo := fun k => amoBytes (o.C % 32) o.T (s.cpu.readV o.D k % 2 ^ typeWidth o.T)
    let cas := fun k => casBytes n (s.cpu.readV o.D k % 2 ^ typeWidth o.T) (s.cpu.readV o.C k % 2 ^ typeWidth o.T)
    let va := s.srcG o.A
    let b := (s.srcB o.b).toNat
    let word := leNat x.bytes
    let rel := o.releases && earlierPosts s
    (∀ fuel k l, (freeOrderOf fuel k l).Perm l)
    ∧ (earlierPosts s = true → Starts s → exec (.wmpub o) s = .next s.park ∧ exec (.barrier o) s = .next s.park
        ∧ (o.releases = true → ∀ i ∈ [(.vamo o : Instr), .vcas o, .bytesub o], exec i s = .next s.park))
    ∧ (Starts s → s.cpu.vl ≠ 0 → o.nb = false → rel = false → (∀ k ∈ todo, (ea k).toNat % n = 0) → vTranslate w .atomic n .indexed ea s todo = .done els s1 →
        elemsAway s1 w els = false →
        let todoAmo := performAll (atomicElem o w (decide (32 ≤ o.C)) amo) (elemsHs els) start (order.take 64)
        let todoCas := performAll (atomicElem o w true cas) (elemsHs els) start (order.take 64)
        ∀ y : Instr × Performance, (y = (.vamo o, todoAmo) ∧ (o.C % 32 < 7 ∨ ∀ k ∈ todo, elemAbn s.cpu o.T o.D k = none)) ∨ y = (.vcas o, todoCas) →
          HeadReady y.1 [o.T] s.cpu → y.2.fail = none →
          (els.length ≤ 64 → exec y.1 s = .next (y.2.s.retire id))
            ∧ (64 < els.length → ∃ k ∈ (order.drop 64).map (·.i), (∀ j ∈ (order.drop 64).map (·.i), k ≤ j)
                ∧ exec y.1 s = .next (betweenSteps (keepBitmap (atElement y.2.s k) k y.2.done) accessPass)))
    ∧ (∀ i ∈ [(.vamo o : Instr), .vcas o], ∀ e rest, Waits s e rest →
        ((∃ p ∈ s.pieces, p.op = e.op) → exec i s = .next s.park) ∧ (Answered s e → e.fails = [] → e.wrote = [] → exec i s = .next (s.retire id))
          ∧ (∀ k c tv, Answered s e → lowestFail e.fails = some (k, c, tv) → TrapsWithBitmap i s e k c tv))
    ∧ (Starts s → rel = false → s.cpu.vl = 0 → (HeadReady (.vamo o) [o.T] s.cpu → exec (.vamo o) s = .next (s.retire id))
        ∧ (HeadReady (.vcas o) [o.T] s.cpu → exec (.vcas o) s = .next (s.retire id))
        ∧ (HeadReady (.vwait o) [o.T] s.cpu → exec (.vwait o) s = .next (s.retire id)))
    ∧ (∀ xs : List (Nat × Nat), HeadReady (.vwait o) [o.T] s.cpu → s.cpu.vl ≠ 0 → s.cpu.vl ≤ 65536 → o.T < 8 → o.C % 8 ≤ 5 →
        (∀ k ∈ act, (ea k).toNat % n = 0) → vTranslate w .read n .indexed ea s act = .done els s1 → readWatched w s1 els = .ok xs s2 →
        let sat := fun (y : Nat × Nat) => condition (o.C % 8) (intValue o.T (BitVec.ofNat 64 y.2)) (elemInt s o.T o.D y.1)
        ((xs = [] ∨ (8 ≤ o.C ∧ ∀ y ∈ xs, sat y) ∨ (o.C < 8 ∧ ∃ y ∈ xs, sat y)) →
            ∃ t, exec (.vwait o) s = .next t ∧ t.cpu.vstart = 0 ∧ t.mem = s2.mem ∧ t.cpu.g = s2.cpu.g
              ∧ (∀ y ∈ xs, t.cpu.readV o.D y.1 = extendV s2.cpu.ew o.T y.2 % 2 ^ s2.cpu.ew)
              ∧ ∀ k, k < s2.cpu.vl → (t.cpu.readM 0 k = true ↔ ∃ y ∈ xs, y.1 = k ∧ sat y))
          ∧ (¬ (xs = [] ∨ (8 ≤ o.C ∧ ∀ y ∈ xs, sat y) ∨ (o.C < 8 ∧ ∃ y ∈ xs, sat y)) → ∃ l, exec (.vwait o) s = .next (parkOn s2 l)))
    ∧ ((s.cpu.readCC o.A).count ≤ b → exec (.ccwait o) s = .next (s.retireKeep (fun t => t.writeG o.D
          (if (s.cpu.readCC o.A).ue then 3 else if (s.cpu.readCC o.A).revoked then 2 else if (s.cpu.readCC o.A).timeout then 1 else 0))))
    ∧ (b < (s.cpu.readCC o.A).count → exec (.ccwait o) s = .next s.park)
    ∧ exec (.ccset o) s = .next (s.retireKeep (fun t => t.writeCC o.D
        { count := b % 2 ^ 20, timeout := b.testBit 32, revoked := b.testBit 33, ue := b.testBit 34 }))
    ∧ (va.toNat % 8 = 0 → placesOf s w va 8 .read = .ok ps s1 → readPlaces w 0 va s1 ps = .ok x s2 →
        ((b ≤ word % 2 ^ 40 ∨ word / 2 ^ 63 % 2 = 1) → exec (.bytewait o) s = .next (s2.retireKeep (fun t => { t.writeG o.D (BitVec.ofNat 64 word) with prefetch := [] })))
          ∧ (¬ (b ≤ word % 2 ^ 40 ∨ word / 2 ^ 63 % 2 = 1) → exec (.bytewait o) s = .next (parkOn s2 (watchWords ps)))
          ∧ (b ≤ word → exec (.wmwait o) s = .next (s2.retireKeep (fun t => t.writeG o.D (BitVec.ofNat 64 word))))
          ∧ (word < b → exec (.wmwait o) s = .next (parkOn s2 (watchWords ps))))
    ∧ (∀ p : Place, Starts s → va.toNat % 8 = 0 → heldBack s va = false → placeOf s w va 8 .atomic = .ok p s1 →
        (away s1 w p 8 = false → rel = false → atomicMem s1 w va 8 (fun v => some (leBytes 8 (leNat v / 2 ^ 40 * 2 ^ 40 + (leNat v % 2 ^ 40 - b)))) = .ok old s2 →
            exec (.bytesub o) s = .next (s2.retireKeep (fun t => t.writeG o.D (BitVec.ofNat 64 (leNat old)))))
          ∧ (away s1 w p 8 = false → earlierPosts s = false → atomicMem s1 w va 8 (fun v => some (leBytes 8 (max (leNat v) b))) = .ok old s2 →
            exec (.wmpub o) s = .next (s2.retireKeep id))
          ∧ (away s1 w p 8 = true → (∀ i, (i = .bytesub o ∧ rel = false) ∨ (i = .wmpub o ∧ earlierPosts s = false) →
            ∃ t, exec i s = .next t ∧ t.cpu.parked = true ∧ t.mem = s.mem ∧ t.cpu.g = s.cpu.g ∧ t.pieces.length = s1.pieces.length + 1)))
    ∧ (∀ i ∈ [(.bytesub o : Instr), .wmpub o], ∀ e rest, Waits s e rest →
        ((∃ p ∈ s.pieces, p.op = e.op) → exec i s = .next s.park)
          ∧ (∀ k c tv more, Answered s e → e.fails = (k, c, tv) :: more → ∃ u, exec i s = .next (queuedTrap u c tv) ∧ u.mem = s.mem)
          ∧ (∀ k ha bytes more, Answered s e → e.fails = [] → e.got = (k, ha, bytes) :: more → exec i s = .next (s.retireKeep (fun t =>
              if i = .bytesub o then t.writeG o.D (BitVec.ofNat 64 (leNat bytes)) else t))))
    ∧ (va.toNat % 8 ≠ 0 → (∀ i ∈ [(.bytewait o : Instr), .wmwait o], exec i s = .next (queuedTrap s 0x10 va))
        ∧ (Starts s → rel = false → exec (.bytesub o) s = .next (queuedTrap s 0x10 va))
        ∧ (Starts s → earlierPosts s = false → exec (.wmpub o) s = .next (queuedTrap s 0x10 va)))
    ∧ (∀ (l : LevelPos) (e : QEntry) (rest : List QEntry), s.cpu.levels[o.bImm]? = some l → l.barrier = true → s.cpu.queue = e :: rest → e.instr = .barrier o → earlierPosts s = false →
        let s3 := s.onCpu (fun t => { t with arrived := true })
        let r := cellGet 0 s.cpu.arrivals o.bImm + 1
        (arrivedTasks s3 o.bImm r < instanceSize s.cpu o.bImm → exec (.barrier o) s = .next s3.park)
          ∧ (instanceSize s.cpu o.bImm ≤ arrivedTasks s3 o.bImm r → s.cpu.tid ≠ 0 → (∀ u ∈ s.others, u.tid ≠ s.cpu.tid) →
            ∃ t, exec (.barrier o) s = .next t ∧ t.cpu.queue = rest ∧ t.cpu.parked = false ∧ t.cpu.prefetch = []
              ∧ cellGet 0 t.cpu.arrivals o.bImm = r ∧ t.cpu.g = s.cpu.g ∧ t.cpu.v = s.cpu.v ∧ t.mem = s.mem))

/-- R276 to R287: TSHAPE clamps the shape to the type and writes it to D; TZERO zeroes one tile; TMAC accumulates its remaining steps, 16 of them in a turn (R64),
TLDACC loads and TSTACC stores the remaining rows, and each ends with TROW = 0; a TSTACC of release order waits for every earlier blocking scalar store on
its way (R155). With the pairings of R284, which the model takes in place of R278's check of T against TTYPE (log entry 27), TRD converts a line of a tile into vD and TWR writes one. One accumulation adds the product of
its row's and its column's operand to the accumulator and leaves every other accumulator as it was. -/
def Obligations.MatrixCompletes : Prop :=
  (∀ (s s2 : State) (o : Ops),
    let tile := o.D % 4
    let u := s.cpu
    let ab := tmacLines o s
    let tm := max 1 (min (s.srcG o.A).toNat 64)
    let tn := max 1 (min (s.srcB o.b).toNat (tileColumns o.T))
    let tk := max 1 (min (s.srcG o.C).toNat 16777215)
    (TileReady (.tshape o) none none u →
        exec (.tshape o) s = .next (s.retireKeep (fun t =>
          ({ t with ttype := o.T, tm := tm, tn := tn, tk := tk, trow := 0 } : Strand).writeG o.D (BitVec.ofNat 64 (tm + tn * 2 ^ 16 + tk * 2 ^ 32)))))
    ∧ (TileReady (.tzero o) (some o.D) none u → ∃ t, exec (.tzero o) s = .next t
        ∧ (∀ a, a / 65536 = o.D → tileByte t.cpu a = 0) ∧ (∀ a, a / 65536 ≠ o.D → tileByte t.cpu a = tileByte u a)
        ∧ t.mem = s.mem ∧ t.cpu.g = u.g ∧ t.cpu.v = u.v ∧ t.cpu.trow = u.trow)
    ∧ (TileReady (.tmac o) (some tile) (some o.T) u →
        (u.tk ≤ u.trow → exec (.tmac o) s = .next ((atRow s 0).retireKeep id))
          ∧ (u.trow < u.tk → ab.1.outside u.trow (u.tk - 1) = false → ab.2.outside u.trow (u.tk - 1) = false →
            ab.1.misalignedAt ab.1.size u.trow (u.tk - 1) = none → ab.2.misalignedAt ab.2.size u.trow (u.tk - 1) = none →
            tilePoisoned u tile u.tm (u.tn * accBytes o.T) = none →
            let n := min 16 (u.tk - u.trow)
            Accumulates o ab.1 ab.2 n u.trow s s2 →
            (s2.cpu.tk ≤ u.trow + n → exec (.tmac o) s = .next ((atRow s2 0).retireKeep id))
              ∧ (u.trow + n < s2.cpu.tk → exec (.tmac o) s = .next (betweenSteps (atRow s2 (u.trow + n)) accessPass))))
    ∧ (TileReady (.tldacc o) (some o.D) (some o.T) u →
        let x := tileLines o s (accBytes o.T)
        (u.tm ≤ u.trow → exec (.tldacc o) s = .next ((atRow s 0).retireKeep id))
          ∧ (u.trow < u.tm → x.outside u.trow (u.tm - 1) = false → x.misalignedAt (min (accBytes o.T) 8) u.trow (u.tm - 1) = none →
            RowsLoad o x (u.tm - u.trow) u.trow s s2 → exec (.tldacc o) s = .next ((atRow s2 0).retireKeep id)))
    ∧ (TileReady (.tstacc o) (some o.D) (some o.T) u →
        let x := tileLines o s (storedSize o)
        (u.tm ≤ u.trow → exec (.tstacc o) s = .next ((atRow s 0).retireKeep id))
          ∧ (u.trow < u.tm → x.outside u.trow (u.tm - 1) = false → x.misalignedAt (min (storedSize o) 8) u.trow (u.tm - 1) = none →
            ((o.releases && earlierPosts s) = true → exec (.tstacc o) s = .next s.park) ∧ ((o.releases && earlierPosts s) = false → RowsStore o x (u.tm - u.trow) u.trow s s2 → exec (.tstacc o) s = .next ((atRow s2 0).retireKeep id))))
    ∧ (o.T ≤ 12 → typeWidth o.T ≤ u.ew → u.ttype ≠ 15 → u.tn ≤ tileColumns u.ttype → u.vl ≤ 65536 →
        let line := (s.srcB o.b).toNat
        (TileReady (.trd o) (some o.A) none u → tilePairs true u.ttype o.T = true → linePoison u o o.A line = none →
          let val := fun k => match lineCell o u.ttype line k with
            | some c => trdValue u.ttype o.T s.srcRm (accGet u o.A u.ttype c.1 c.2)
            | none => { val := 0 }
          (∀ k, Active s o false k → (val k).abn = none) → Elementwise (.trd o) s o false (fun k => (val k).val) (fun k => (val k).flags))
        ∧ (TileReady (.twr o) (some o.D) none u → tilePairs false u.ttype o.T = true → 8 ≤ u.ttype → u.ttype ≤ 12 →
          ∃ t, exec (.twr o) s = .next t ∧ t.mem = s.mem ∧ t.cpu.g = u.g ∧ t.cpu.v = u.v ∧ t.cpu.vstart = 0
            ∧ (∀ k c, Active s o false k → lineCell o u.ttype line k = some c →
                accGet t.cpu o.D u.ttype c.1 c.2 = twrValue u.ttype o.T (s.cpu.readV o.A k % 2 ^ typeWidth o.T) % 2 ^ (8 * accBytes u.ttype))
            ∧ ∀ a, a / 65536 ≠ o.D → tileByte t.cpu a = tileByte u a)))
  ∧ ∀ (u : Strand) (tile t rm : Nat) (a b : List Nat), 8 ≤ t → t ≤ 12 → a.length ≤ 64 → b.length ≤ tileColumns t →
      let v := tmacApply tile t rm a b u
      (∀ r c, r < a.length → c < b.length →
          accGet v tile t r c = (accStep t rm (accGet u tile t r c) (a.getD r 0) (b.getD c 0)).1 % 2 ^ (8 * accBytes t))
        ∧ (∀ r c, r < 64 → c < tileColumns t → ¬ (r < a.length ∧ c < b.length) → accGet v tile t r c = accGet u tile t r c)
        ∧ (∀ x, x / 65536 ≠ tile → tileByte v x = tileByte u x) ∧ v.g = u.g ∧ v.v = u.v ∧ v.tm = u.tm ∧ v.trow = u.trow

/-- R288 to R301: VDOTV completes with each row's verdict or sum (R291) once every row has been evaluated, in index order, the rows of one turn those below VSTART +
64 (R64, log entry 71), its threshold starting at minus infinity, or at the one that it sampled before it stalled (R292); it reads its query once, and goes on with the
query it has read (R290). TOPKINIT writes an empty object; TOPKI inserts the active elements' scores and indices: the entries are then the first k
members in R296's order, with duplicates and NaNs dropped, τ rises as R296 says and the candidates not held are counted; TOPKR reads the object into vD and vC, with
minus infinity and all ones beyond its entries. TOPKINIT and TOPKI of release order wait for every earlier blocking scalar store on its way (R155). -/
def Obligations.VerdictsAndTopK : Prop :=
  ∀ (s s0 s1 s2 : State) (o : Ops) (x : Got) (p : Place) (k : TopK) (tau : Nat),
    let act := activeList s.cpu { o with b := .reg 0 0 } false
    let n := vdotvChunks o
    let bytes := x.bytes.map (·.toNat)
    let q : Query := { bytes := bytes, bq := (List.range n).map (fun j => chunkMax ((bytes.drop (64 * j)).take 64)) }
    let va := s.srcG o.A
    let b := (s.srcB o.b).toNat
    let acts := activeMem s.cpu o o.mn
    let score := fun i => s.cpu.readV o.D i % 2 ^ 32
    let rel := o.releases && earlierPosts s
    let cands := (acts.filter (fun i => !isAbn (score i))).map (fun i => (score i, s.cpu.readV o.B i % 2 ^ 32))
    (TileReady (.vdotv o) none none s.cpu → 32 ≤ s.cpu.ew →
        (s.cpu.vl = 0 → exec (.vdotv o) s = .next (s.retire id))
          ∧ ∀ (y : Query) (now later : List Nat), s.cpu.vl ≠ 0 → cellCheck o s = .ok () s0 →
            (headQuery s0 = some y ∧ s1 = s0) ∨ (headQuery s0 = none ∧ y = q ∧ readMem s0 (s0.who .matrix) (s0.srcG o.B) (64 * n) 0 .read = .ok x s1 ∧ x.inv = false) →
            act = now ++ later → (∀ i ∈ now, i < s1.cpu.vstart + 64) →
            RowsJudged o y (s1.srcG o.C) (s1.srcG o.A).toNat (s1.srcG (o.B + 1)).toInt now (headTau s1) tau s1 s2 →
            (later = [] → exec (.vdotv o) s = .next (s2.retire id))
              ∧ (∀ i more, later = i :: more → s1.cpu.vstart + 64 ≤ i → exec (.vdotv o) s = .next (betweenSteps (keepRow (atElement s2 i) y tau) accessPass)))
    ∧ (s.cpu.queue ≠ [] → ∀ (y : Query) (a : EnginePass), headQuery (betweenSteps (keepRow s y tau) a) = some y ∧ headTau (betweenSteps (keepRow s y tau) a) = tau)
    ∧ ((∀ e, s.cpu.queue.head? = some e → e.tau = none) → headTau s = 0xFF800000) ∧ (∀ e t, s.cpu.queue.head? = some e → e.tau = some t → headTau s = t)
    ∧ (rel = true → exec (.topkinit o) s = .next s.park ∧ exec (.topki o) s = .next s.park)
    ∧ (rel = false → TileReady (.topkinit o) none none s.cpu → topkPlace s va .write = .ok p s1 → 1 ≤ b → b ≤ 1024 → topkFits p b = true →
        writePlace s1 (s1.who .vector) .engine p (leBytes 4 b ++ leBytes 4 0 ++ leBytes 8 0xFF800000 ++ leBytes 4 1 ++ leBytes 44 0) false = (s2, .ok) →
        exec (.topkinit o) s = .next (s2.retireKeep id))
    ∧ (rel = false → TileReady (.topki o) none none s.cpu → 32 ≤ s.cpu.ew →
        (s.cpu.vl = 0 → exec (.topki o) s = .next (s.retire id))
          ∧ (s.cpu.vl ≠ 0 → (∀ i ∈ acts, isAbn (score i) = true → score i = 0xFFA00001) → topkPlace s va .atomic = .ok p s1 →
            (o.nb = false → topkAct s1 (s1.who .vector) p cands acts.length = some (s2, .ok) → exec (.topki o) s = .next (s2.retire id))
              ∧ (o.nb = true → ccFull s o.ccNo = false →
                exec (.topki o) s = .next ((issueNb s1 o.ccNo false none [(p, .topk cands acts.length)]).retire id))))
    ∧ (TileReady (.topkr o) none none s.cpu → 32 ≤ s.cpu.ew →
        (s.cpu.vl = 0 → exec (.topkr o) s = .next (s.retire id))
          ∧ (s.cpu.vl ≠ 0 → s.cpu.vl ≤ 65536 → o.D ≠ o.C → topkPlace s va .read = .ok p s1 → topkRead s1 (s1.who .vector) p = .ok k s2 →
            ∃ t, exec (.topkr o) s = .next t ∧ t.mem = s2.mem ∧ t.cpu.vstart = 0
              ∧ ∀ i ∈ activeMem s.cpu o false, t.cpu.readV o.D i = (k.entries.getD i (0xFF800000, 0xFFFFFFFF)).1 % 2 ^ s2.cpu.ew
                  ∧ t.cpu.readV o.C i = (k.entries.getD i (0xFF800000, 0xFFFFFFFF)).2 % 2 ^ s2.cpu.ew))
    ∧ (∀ (y : TopK) (l : List (Nat × Nat)) (m : Nat),
        let z := topkInsert y l m
        let kth := (z.entries.getLast?.map (·.1)).getD 0
        z.entries.length ≤ y.k ∧ z.k = y.k ∧ (∀ e ∈ z.entries, e ∈ y.entries ∨ e ∈ l) ∧ (∀ e ∈ z.entries, (fdecode fmt32 e.1).isNan = false)
          ∧ z.entries.Pairwise (fun d e => ranksBefore d e = true)
          ∧ (∀ d ∈ y.entries ++ l, (fdecode fmt32 d.1).isNan = true ∨ (∃ e ∈ z.entries, duplicates e d = true)
              ∨ (z.entries.length = y.k ∧ ∀ e ∈ z.entries, ranksBefore e d = true))
          ∧ z.cell = (if z.entries.length = y.k ∧ (fdecode fmt32 (y.cell % 2 ^ 32)).isNan = false ∧ ltVal (fdecode fmt32 (y.cell % 2 ^ 32)) (fdecode fmt32 kth) = true
              then kth + (y.cell / 2 ^ 32 + 1) % 2 ^ 32 * 2 ^ 32 else y.cell)
          ∧ z.rejected = min (2 ^ 32 - 1) (y.rejected + m - (z.entries.filter (fun e => !y.entries.any (fun d => !(fdecode fmt32 d.1).isNan && duplicates d e))).length))
    ∧ (∀ (a b : Nat × Nat), (fdecode fmt32 a.1).isNan = false → (fdecode fmt32 b.1).isNan = false →
        let below := fun (x y : Nat) => ltVal (fdecode fmt32 x) (fdecode fmt32 y) = true
        (ranksBefore a b = true ↔ below b.1 a.1 ∨ (¬ below a.1 b.1 ∧ a.2 < b.2)) ∧ (duplicates a b = true ↔ a.2 = b.2 ∧ ¬ below a.1 b.1 ∧ ¬ below b.1 a.1))
    ∧ (∀ (u : State) (w : Who) (y : TopK), topkRead u w p = .ok y s1 → ∀ m,
        topkAct u w p cands m = some (topkWrite s1 w p (topkInsert y cands m)))
    ∧ (∀ (u : State) (w : Who) (y : TopK),
        let h := leBytes 4 y.k ++ leBytes 4 y.entries.length ++ leBytes 8 y.cell ++ leBytes 4 1 ++ leBytes 4 y.rejected
        (y.entries = [] → writePlace u w .engine p h false = (s1, .ok) → topkWrite u w p y = (s1, .ok))
          ∧ (y.entries ≠ [] → writePlace u w .engine p h false = (s1, .ok) →
            topkWrite u w p y = writePlace s1 w .engine (p.add 64) (y.entries.flatMap (fun e => leBytes 4 e.1 ++ leBytes 4 e.2)) false))
/-! Streams, tables, engines. -/

namespace Sys2Proof.Claims

open Sys2Proof.Machine Sys2Proof.Safety

/-- R310: the active elements of a HACC placed in increasing index: none is an ABN, and each finds its slot or a free one. -/
inductive KeysPlaced (o : Ops) (table : Word) (h : HashHeader) (u : Strand) : List Nat → State → State → Prop where
  | done (s : State) : KeysPlaced o table h u [] s s
  | key (k : Nat) (rest : List Nat) (s s1 t : State) :
      elemAbn u o.T o.B k = none → placeKey o table h (u.readV o.D k) (elemOf u o.T o.B k) h.limit 0 s = .ok true s1 →
      KeysPlaced o table h u rest s1 t → KeysPlaced o table h u (k :: rest) s t

/-- R64, R306: one step of a pass of SINTER or SMERGE from a state, with the answer that it gives: at most 64 input elements. At the end of the step the keys are
in vD and the engine keeps its place; where VL or a list is used up, the descriptor is written, and VL trimmed to the keys given. -/
def PassStep (o : Ops) (merge : Bool) (bytes : List Byte) (d : Stream) (first : Nat) (p0 : Pass) (s1 : State) (answer : Out) : Prop :=
  ∀ (s2 s3 : State) (p : Pass) (e : PassEnd), streamLoop o merge d s1.cpu.vl (p0.apos + p0.bpos + 64) 65 s1 p0 = (s2, p, e) →
    (e = .more → answer = .next (betweenSteps (s2.onCpu (putPass o merge p)) (engineOf bytes first p)))
    ∧ ((e = .full ∨ e = .exhausted) →
        let state := d.state ||| (if e = .exhausted then 1 else 0)
        let left : Stream := { d with apos := p.apos, bpos := p.bpos, state := state, emitted := d.emitted + (p.n - first) }
        writeMem s2 (s2.who .vector) .engine (s1.srcG o.A) (streamBytes left) false = .ok () s3 →
        answer = .next (s3.retire (fun t => { putPass o merge p t with vl := min t.vl p.n })))

/-- An operation on a hash table has its header: it reads it as it starts, or has kept it since its first step (R64, R308). -/
def TableRead (o : Ops) (s : State) (bytes : List Byte) (h : HashHeader) (s1 : State) : Prop :=
  ((headPass s = none ∧ ∃ x : Got, readMem s (s.who .vector) (s.srcG o.A) 64 0 .read = .ok x s1 ∧ x.bytes = bytes)
    ∨ (∃ y, headPass s = some y ∧ y.desc = bytes ∧ s1 = s)) ∧ hashHeader bytes = some h ∧ h.vtype = o.T

/-- R323: the run of a task stands at its next step, and its status takes a code. -/
def RunMoved (s : State) (t : Strand) (r : CollRun) (code : Nat) (u : State) : Prop :=
  ∀ v, s.task? t.tid = some v → ∃ z, u.task? t.tid = some z
    ∧ z.runs = v.runs.map (fun y => if y.id = r.id then { y with step := y.step + 1, status := max y.status code } else y)

/-- R321, R323: the pieces of a step are issued for the run's strand with the run's and the step's numbers, and the run stands at its next step. -/
def StepIssued (s : State) (t : Strand) (r : CollRun) (inOrder : Bool) (counter : Option (Place × Nat)) (l : List (Place × PieceOp)) (u : State) : Prop :=
  let new := u.pieces.drop s.pieces.length
  new.map (fun p => (p.place, p.what)) = l
    ∧ (∀ p ∈ new, p.tid = t.tid ∧ p.run = some r.id ∧ p.elem = r.step ∧ p.inOrder = inOrder ∧ p.counter = counter ∧ p.level = r.level ∧ p.vi = t.vi)
    ∧ u.mem = s.mem ∧ RunMoved s t r 0 u

end Sys2Proof.Claims

/-- R305 to R311: SINTER and SMERGE run one pass in steps, write its keys to vD, keep their place in the descriptor, and trim VL to the keys given; HINIT
writes a header and empty slots, 64 of them in a step, and with release order waits for an earlier store on its way; HACC translates its whole table, then
places every active key that is not empty, 64 elements in a step; HDRAIN writes the slots it has read to vD and vC and keeps its place in the header. That VL
becomes the smaller of VL and n where a resumed operation gives fewer keys (log entry 36), and that a turn runs one engine step (log entry 71), are the
model's choices. -/
def Obligations.StreamsAndTablesComplete : Prop :=
  ∀ (s s0 s1 s2 s3 s4 : State) (o : Ops) (x : Got) (d : Stream) (h : HashHeader) (ps hp sp : List (Place × Nat)) (bytes : List Byte),
    let va := s.srcG o.A
    let w := s.who .vector
    let size := byteSize o.T
    let slots := (s.srcB o.b).toNat
    let c := (s.srcG o.C).toNat
    let limit := if c = 0 then slots else min c slots
    (va.toNat % 64 = 0 → s.cpu.vl ≠ 0 → ∀ (i : Instr) (merge : Bool), (i = .sinter o ∧ merge = false) ∨ (i = .smerge o ∧ merge = true) →
        HeadReady i [o.T] s.cpu →
        (headPass s = none → placesOf s w va 64 .write = .ok ps s0 → readMem s0 w va 64 0 .read = .ok x s1 → streamOf size x.bytes = some d →
            PassStep o merge x.bytes d s1.cpu.vstart { n := s1.cpu.vstart, apos := d.apos, bpos := d.bpos } s1 (exec i s))
          ∧ (∀ y, headPass s = some y → streamOf size y.desc = some d → PassStep o merge y.desc d y.from_ (passOf y) s (exec i s)))
    ∧ (s.cpu.vl = 0 → ∀ i ∈ [(.sinter o : Instr), .smerge o, .hacc o, .hdrain o], HeadReady i [o.T] s.cpu → exec i s = .next (s.retire id))
    ∧ (va.toNat % 64 = 0 → hashSlotsOk slots = true → rangeOf s w va 64 .write = .ok hp s1 → rangeOf s1 w (va + 64) (16 * slots) .write = .ok sp s2 →
        (o.releases && earlierPosts s) = false →
        (o.nb = true → ccFull s o.ccNo = false →
            exec (.hinit o) s = .next ((issueNb s2 o.ccNo false none (headerPieces hp (hinitHeader slots limit o.T) ++ slotPieces sp)).retire id))
          ∧ (∀ e, o.nb = false → ((headPass s2 = none ∧ e = 0 ∧ writePlaces w .engine false s2 hp (hinitHeader slots limit o.T) = (s3, .ok))
              ∨ (∃ y, headPass s2 = some y ∧ e = y.n ∧ s3 = s2)) →
            let k := min 64 (slots - e)
            writePlaces w .engine false s3 (slicePlaces sp (16 * e) (16 * k)) ((List.replicate k emptySlot).flatten) = (s4, .ok) →
            (slots ≤ e + k → exec (.hinit o) s = .next (s4.retire id))
              ∧ (e + k < slots → exec (.hinit o) s = .next (betweenSteps s4 { n := e + k }))))
    ∧ (va.toNat % 64 = 0 → hashSlotsOk slots = true → (o.releases && earlierPosts s) = true → exec (.hinit o) s = .next s.park)
    ∧ (HeadReady (.hacc o) [o.T] s.cpu → s.cpu.vl ≠ 0 → va.toNat % 64 = 0 → TableRead o s bytes h s1 →
        let keys := (activeMem s.cpu o false).filter (fun k => s.cpu.readV o.D k != 2 ^ 64 - 1)
        let now := fun (k : Nat) => decide (k < s.cpu.vstart + 64)
        ((headPass s1 = none ∧ rangeOf s1 (s1.who .vector) (s1.srcG o.A) (64 + 16 * h.slots) .atomic = .ok hp s4) ∨ (headPass s1 ≠ none ∧ s4 = s1)) →
        KeysPlaced o va h s.cpu (keys.takeWhile now) s4 s2 →
        (keys.dropWhile now = [] → exec (.hacc o) s = .next (s2.retire id))
          ∧ (∀ k rest, keys.dropWhile now = k :: rest → exec (.hacc o) s = .next (betweenSteps (atElement s2 k) { desc := bytes })))
    ∧ (∀ (e n : Nat) (out : List (Nat × Nat × Nat)) (why : PassEnd),
        HeadReady (.hdrain o) [o.T] s.cpu → s.cpu.vl ≠ 0 → va.toNat % 64 = 0 → TableRead o s bytes h s1 →
        let x := (headPass s1).getD { desc := bytes, from_ := s1.cpu.vstart, n := s1.cpu.vstart, apos := h.drain }
        let put := fun (t : Strand) => out.foldl (fun (u : Strand) y => (u.writeV o.D y.1 y.2.1).writeV o.C y.1 (extendV u.ew o.T y.2.2)) t
        drainLoop o va h.slots s1.cpu.vl 64 s1 x.apos x.n [] = (s2, e, n, out, why) →
        (why = .more → exec (.hdrain o) s = .next (betweenSteps (s2.onCpu put) { x with n := n, apos := e }))
          ∧ ((why = .full ∨ why = .exhausted) → writeMem s2 (s2.who .vector) .engine (va + 16) (leBytes 8 e) false = .ok () s3 →
            exec (.hdrain o) s = .next (s3.retire (fun t => { put t with vl := min t.vl n }))))
    ∧ (∀ (t : Nat) (q : Pass) (a b : Nat), (interStep t q a b).out.length + q.n = (interStep t q a b).n + q.out.length
        ∧ (intOf t a = intOf t b → (interStep t q a b).out = q.out ++ [(q.n, a, false)] ∧ (interStep t q a b).apos = q.apos + 1 ∧ (interStep t q a b).bpos = q.bpos + 1)
        ∧ (intOf t a < intOf t b → (interStep t q a b).out = q.out ∧ (interStep t q a b).apos = q.apos + 1 ∧ (interStep t q a b).bpos = q.bpos)
        ∧ (intOf t b < intOf t a → (interStep t q a b).out = q.out ∧ (interStep t q a b).apos = q.apos ∧ (interStep t q a b).bpos = q.bpos + 1))

/-- R312 to R315, R138 to R141, R155: COPY moves its bytes in steps of 256, nothing for a count of 0, and traps ILL_FLD above 2^24; a blocking one keeps its
place between two steps in VSTART; CBCOPY claims a slot, copies it in steps of 256 bytes and fills it after the last, and waits while no slot is free; CBWAITF
takes the oldest filled slot and answers its address, and waits while none is filled; CBFREE returns slots; COPY with release order and CBFREE wait for an
earlier blocking scalar store on its way; SHADOW answers the alias of a public address; PUBLISH swaps a buffer, or waits. That a turn runs one engine step is
the model's choice (log entry 71). -/
def Obligations.EnginesComplete : Prop :=
  ∀ (s s1 s2 s3 s4 s5 : State) (o : Ops) (src dst : List (Place × Nat)) (p : Place) (d : CircBuf) (e : NamedBuf),
    let w := s.who .vector
    let n := (s.srcB o.b).toNat
    let dva := s.srcG o.D
    let sva := s.srcG o.A
    (2 ^ 24 < n → exec (.copy o) s = .next (queuedTrap s 0x02 s.headWord))
    ∧ (n = 0 → exec (.copy o) s = .next (s.retire id))
    ∧ (0 < n → n ≤ 2 ^ 24 → (o.releases && earlierPosts s) = true → exec (.copy o) s = .next s.park)
    ∧ (0 < n → n ≤ 2 ^ 24 → (o.releases && earlierPosts s) = false → rangeOf s w sva n .read = .ok src s1 → rangeOf s1 w dva n .write = .ok dst s2 →
        (o.nb = true → ccFull s o.ccNo = false → exec (.copy o) s = .next ((issueNb s2 o.ccNo true none (copyPieces src dst s2.cpu.vstart n)).retire id))
          ∧ (o.nb = false → let lo := 256 * s2.cpu.vstart
            (n ≤ lo → exec (.copy o) s = .next (s2.retire id))
              ∧ (lo < n → copyStep s2 w (slicePlaces src lo (min 256 (n - lo))) (slicePlaces dst lo (min 256 (n - lo)))
                  (sva + BitVec.ofNat 64 lo) (dva + BitVec.ofNat 64 lo) = .ok () s3 →
                exec (.copy o) s = .next (if n ≤ lo + 256 then s3.retire id else betweenSteps (atElement s3 (s2.cpu.vstart + 1)) {}))))
    ∧ (readCb s w dva = .ok (p, d) s1 → cbTranslate s1 w sva dva d = .ok () s2 →
        (o.nb = true → ccFull s o.ccNo = false → exec (.cbcopy o) s = .next ((issueNb s2 o.ccNo false none [(p, .cbcopy sva dva)]).retireKeep id))
          ∧ (o.nb = false → headClaim s2 = none → headPass s2 = none → ∀ (q : Place) (b : CircBuf) (k : CbClaim), claimCb s2 w dva = .ok (q, b, some k) s3 →
            headPass s3 = none → cbMove s3 w sva k.buf k.slot 0 = .ok () s4 →
            (256 < k.buf.size → exec (.cbcopy o) s = .next (betweenSteps (onHead s4 (fun x => { x with claim := some (dva, k.slot, k.num) })) { n := 256 }))
              ∧ (k.buf.size ≤ 256 → fillCb s4 w q k.num = (s5, .ok) → exec (.cbcopy o) s = .next (s5.retireKeep id)))
          ∧ (o.nb = false → headClaim s2 = none → ∀ (q : Place) (b : CircBuf), claimCb s2 w dva = .ok (q, b, none) s3 →
            exec (.cbcopy o) s = .next (parkOn s3 [(q.ha + 16) / 8]))
          ∧ (o.nb = false → ∀ (a : Word) (slot num lo : Nat), headClaim s2 = some (a, slot, num) → ((headPass s2).map (·.n)).getD 0 = lo →
            cbMove s2 w sva d slot lo = .ok () s3 →
            (lo + 256 < d.size → exec (.cbcopy o) s = .next (betweenSteps (onHead s3 (fun x => { x with claim := some (dva, slot, num) })) { n := lo + 256 }))
              ∧ (d.size ≤ lo + 256 → fillCb s3 w p num = (s4, .ok) → exec (.cbcopy o) s = .next (s4.retireKeep id))))
    ∧ (earlierPosts s = true → exec (.cbfree o) s = .next s.park)
    ∧ (readCb s w sva = .ok (p, d) s1 →
        (0 < d.filled → putCb s1 w p { d with filled := d.filled - 1, read := (d.read + 1) % d.count } = (s2, .ok) →
            exec (.cbwaitf o) s = .next (s2.retireKeep (fun t => t.writeG o.D (BitVec.ofNat 64 (d.base + d.read * d.size)))))
          ∧ (d.filled = 0 → exec (.cbwaitf o) s = .next (parkOn s1 [(p.ha + 24) / 8]))
          ∧ (earlierPosts s = false → 1 ≤ n → n ≤ d.count → d.free + n ≤ d.count → putCb s1 w p { d with free := d.free + n } = (s2, .ok) →
            exec (.cbfree o) s = .next (s2.retireKeep id))
          ∧ (earlierPosts s = false → n < 1 ∨ d.count < n ∨ d.count < d.free + n → exec (.cbfree o) s = .next (queuedTrap s1 0x10 sva)))
    ∧ (nbFind s s.cpu.pkg s.cpu.vi (fun b => decide (b.pub ≤ sva.toNat) && decide (sva.toNat < b.pub + 65536 * b.pages)) = some e →
        exec (.shadow o) s = .next (s.retireKeep (fun t => t.writeG o.D (BitVec.ofNat 64 (e.alias_ + (sva.toNat - e.pub))))))
    ∧ (nbFind s s.cpu.pkg s.cpu.vi (fun b => b.pub == sva.toNat) = some e →
        (o.nb = true → ccFull s o.ccNo = false → publishPages s s.cpu.pkg s.cpu.vi e = .ok () s1 →
            exec (.publish o) s = .next ((issueNb s1 o.ccNo false none [(homePlace s1 sva, .publish e.index)]).retireKeep id))
          ∧ (o.nb = false → publishNow s s.cpu.pkg s.cpu.vi e (earlierWrites s s.cpu s.next) = .ok () s1 → exec (.publish o) s = .next (s1.retireKeep id))
          ∧ (o.nb = false → publishNow s s.cpu.pkg s.cpu.vi e (earlierWrites s s.cpu s.next) = .wait s1 → exec (.publish o) s = .next s1.park))
    ∧ (∀ x y : Nat, x % 8 = 0 → (x + 8 ≤ y ∨ y + 8 ≤ x) → let t := swapFrames s x y
        memWord t.mem x / 2 ^ 16 % 2 ^ 32 = memWord s.mem y / 2 ^ 16 % 2 ^ 32 ∧ memWord t.mem y / 2 ^ 16 % 2 ^ 32 = memWord s.mem x / 2 ^ 16 % 2 ^ 32
          ∧ memWord t.mem x % 2 ^ 16 = memWord s.mem x % 2 ^ 16 ∧ memWord t.mem y % 2 ^ 16 = memWord s.mem y % 2 ^ 16)

/-- R316 to R320, R325, R326, R155: the transfers, registrations and windows. Blocking RSEND, RFETCH and CSEND send their packets and wait for the last of
them (R362, R368): they then complete, or trap at the first that failed; RSEND with release order waits first for an earlier blocking scalar store on its
way; an ordered flag of no byte still goes to the die that its address names. XSEND claims a slot before its packets leave and fills it after the last has
ended; where every replica refuses it waits 1 microsecond. WREVOKE sends every package of the node map a shoot-down, sends those again that were lost, and
closes the window once all have acknowledged. How a CSEND is split into packets, by block of 64 elements and by page, is the model's choice (log entry
71). -/
def Obligations.FabricComplete : Prop :=
  ∀ (s s1 s2 s3 s4 s5 : State) (o : Ops) (src dst : List (Place × Nat)) (cp : Option Place) (x : Got),
    let w := s.who .vector
    let b := bulkOf o s
    let flag := o.orderedFlag
    (Starts s → (o.releases && earlierPosts s) = true → exec (.rsend o) s = .next s.park)
    ∧ (Starts s → (o.releases && earlierPosts s) = false → b.n ≤ (if flag then 256 else 2 ^ 24) → oneDie s s.cpu b.dst.toNat b.n (b.counter.map (·.toNat)) = true →
        (∀ c, b.counter = some c → c.toNat % 8 = 0) →
        rangeOf s w b.src b.n .read = .ok src s1 → rangeOf s1 w b.dst b.n .write = .ok dst s2 → counterPlace s2 w b.counter = .ok cp s3 →
        let goal := if dst = [] then [(emptyPlace s3 b.dst, 0)] else dst
        let die := destDie s3 goal
        (o.nb = false → readPlaces (s3.who .vector) 0 b.src s3 src = .ok x s4 → exec (.rsend o) s = .next (awaitPieces
              (setFlagNeed s4 die (if flag then 0 else flagNeed s4 die + b.n)) false (cp.map (·, b.n))
              (numbered (bulkPieces flag (flagNeed s4 die) goal (x.bytes.map (·, false))))))
          ∧ (o.nb = true → ccFull s o.ccNo = false → ∃ t : State, exec (.rsend o) s = .next (t.retireKeep id) ∧ t.mem = s3.mem))
    ∧ (Starts s → b.n ≤ 2 ^ 24 → onOwnDie s b.dst.toNat b.n = true → (∀ c, b.counter = some c → onOwnDie s c.toNat 8 = true ∧ c.toNat % 8 = 0) →
        rangeOf s w b.src b.n .read = .ok src s1 → rangeOf s1 w b.dst b.n .write = .ok dst s2 → counterPlace s2 w b.counter = .ok cp s3 →
        (o.nb = true → ccFull s o.ccNo = false →
            exec (.rfetch o) s = .next ((issueNb s3 o.ccNo false (cp.map (·, b.n)) (rfetchPieces src dst)).retireKeep id))
          ∧ (o.nb = false → exec (.rfetch o) s = .next (awaitPieces s3 false (cp.map (·, b.n)) (numbered (rfetchPieces src dst)))))
    ∧ (∀ i ∈ [(.rsend o : Instr), .rfetch o], ∀ e rest, Waits s e rest →
        ((∃ p ∈ s.pieces, p.op = e.op) → exec i s = .next s.park) ∧ (Answered s e → e.fails = [] → exec i s = .next (s.retireKeep id))
          ∧ (∀ k c tv, Answered s e → lowestFail e.fails = some (k, c, tv) → ∃ u, exec i s = .next (queuedTrap u c tv) ∧ u.mem = s.mem))
    ∧ (xsendResting s = true → exec (.xsend o) s = .next s.park)
    ∧ (∀ (l : List (Nat × Word)) (y : Replica), xsendResting s = false → expertReplicas s w (s.srcG o.C) (s.srcG o.B).toNat = .ok l s1 →
        (o.nb = true → ccFull s o.ccNo = false → xsendReady w (s.srcG o.A) s1 l = .ok () s2 →
            exec (.xsend o) s = .next ((issueNb s2 o.ccNo false none [({ kind := .pg, ha := 0, va := s.srcG o.A },
              .xsend (s.srcG o.A) (BitVec.ofNat 64 (s.srcG o.B).toNat) (s.srcG o.C))]).retireKeep id))
          ∧ (o.nb = false → Starts s1 → headClaim s1 = none → claimReplica w (s.srcG o.A) s1 (rankReplicas s1 w l) = .ok none s2 →
            exec (.xsend o) s = .next (onHead s2 (fun e => { e with refused := some s2.time })).park)
          ∧ (o.nb = false → Starts s1 → headClaim s1 = none → claimReplica w (s.srcG o.A) s1 (rankReplicas s1 w l) = .ok (some y) s2 →
            ∀ (sps dps : List (Place × Nat)), rangeOf (keepClaim s2 y) (s2.who .vector) (s.srcG o.A) y.claim.buf.size .read = .ok sps s3 →
            rangeOf s3 (s2.who .vector) (slotAddr y.claim.buf y.claim.slot) y.claim.buf.size .write = .ok dps s4 →
            readPlaces (s2.who .vector) 0 (s.srcG o.A) s4 sps = .ok x s5 →
            exec (.xsend o) s = .next (awaitPieces s5 false none
              (numbered ((soundParts (packetParts dps) (x.bytes.map (·, false))).map (fun z => (z.1, .data z.2.2 false))))))
          ∧ (∀ e rest, o.nb = false → Waits s1 e rest →
            ((∃ p ∈ s1.pieces, p.op = e.op) → exec (.xsend o) s = .next s1.park)
              ∧ (∀ k, Answered s1 e → e.fails = [] → e.claim = some k →
                let u := s1.onCpu (fun t => { t with queue := { e with op := 0, fails := [] } :: rest })
                claimedReplica u (u.who .vector) l k = .ok y s2 → finishXsend s2 (s2.who .vector) y = (s3, .ok) →
                exec (.xsend o) s = .next (s3.retireKeep (fun t => t.writeG o.D (BitVec.ofNat 64 y.r))))))
    ∧ (HeadReady (.csend o) [o.T] s.cpu →
        let val := fun i => s.cpu.readV o.A i % 2 ^ typeWidth o.T
        let act := activeList s.cpu { o with b := .reg 0 0 } false
        let m := min (s.srcB o.b).toNat (if byteSize o.T = 4 then 62 else 31)
        let ea := fun i => s.srcG o.D + BitVec.ofNat 64 (byteSize o.T * i)
        let chosen := ((List.range ((s.cpu.vl + 63) / 64)).map (fun j => csendBlock o.T m j (act.map (fun i => (i, val i))))).flatten.map (·.1)
        let todo := chosen.filter (fun i => !(doneAlready s).contains i)
        (s.cpu.vl = 0 → exec (.csend o) s = .next (s.retire id))
          ∧ (∀ els, s.cpu.vl ≠ 0 → (∀ i ∈ act, elemAbn s.cpu o.T o.A i = none) → (∀ i ∈ todo, (ea i).toNat % byteSize o.T = 0) → Starts s →
            vTranslate w .atomic (byteSize o.T) .engine ea s todo = .done els s1 →
            let pieces := (csendPackets o.T (els.flatMap (fun e => (e.places.take 1).map (fun z => (e.i, z.1, val e.i)))) []).filterMap (csendPiece o.T)
            (o.nb = true → ccFull s o.ccNo = false → exec (.csend o) s = .next ((issueNb s1 o.ccNo false none (pieces.map (·.2))).retire id))
              ∧ (o.nb = false → pieces = [] → exec (.csend o) s = .next (s1.retire id))
              ∧ (o.nb = false → pieces ≠ [] → exec (.csend o) s = .next (awaitPieces s1 false none pieces)))
          ∧ (∀ e rest, s.cpu.vl ≠ 0 → (∀ i ∈ act, elemAbn s.cpu o.T o.A i = none) → (∀ i ∈ todo, (ea i).toNat % byteSize o.T = 0) → o.nb = false →
            Waits s e rest → ((∃ p ∈ s.pieces, p.op = e.op) → exec (.csend o) s = .next s.park)
              ∧ (Answered s e → e.fails = [] → exec (.csend o) s = .next (s.retire id))
              ∧ (∀ k c tv, Answered s e → lowestFail e.fails = some (k, c, tv) → ∃ u, exec (.csend o) s = .next (queuedTrap u c tv) ∧ u.mem = s.mem
                ∧ u.cpu.queue.head?.map (·.bitmap) = some (e.bitmap ++ e.got.map (·.1))))
          ∧ (∀ j i, i ∈ (csendBlock o.T m j (act.map (fun i => (i, val i)))).map (·.1) → i ∈ act ∧ i / 64 = j)
          ∧ (∀ j, (csendBlock o.T m j (act.map (fun i => (i, val i)))).length ≤ m)
          ∧ ∀ (l : List (Nat × Place × Nat)), (∀ y, y ∈ (csendPackets o.T l []).flatten ↔ y ∈ l)
              ∧ ∀ g ∈ csendPackets o.T l [], ∀ y ∈ g, ∀ z ∈ g, y.1 / 64 = z.1 / 64 ∧ y.2.1.va.toNat / 65536 = z.2.1.va.toNat / 65536)
    ∧ (let a := s.srcG o.A
       let n := (s.srcG o.B).toNat
       let scratch := a.toNat / 2 ^ 62 % 4 == 2
       grantRange a.toNat n = true → grantPlaces (if scratch then w else { w with level := .s }) s (if scratch then [(a, n)] else partsOf a n) = .ok dst s1 →
        let die := destDie s1 dst
        (freeRegistration s1 die = none → exec (.grant o) s = .next (s1.retireKeep (fun t => t.writeG o.D (BitVec.allOnes 64))))
          ∧ (∀ e, freeRegistration s1 die = some e → ∃ t, exec (.grant o) s = .next t ∧ t.mem = s1.mem ∧ t.cpu.v = s1.cpu.v
            ∧ cellGet { vi := 0, base := 0, bytes := 0, revoking := true } (t.die die).regs e = { vi := s1.cpu.vi, base := a, bytes := n, revoking := false }
            ∧ (o.D ≠ 0 → t.cpu.readG o.D = BitVec.ofNat 64 (((vaDie a.toNat).getD (0, 0)).1 * 65536 + ((vaDie a.toNat).getD (0, 0)).2 * 4096 + e))))
    ∧ (∀ h, handleOf s s.cpu.pkg s.cpu.vi (s.srcG o.A).toNat = some h →
        (o.nb = false → entryBusy s h = false → ∃ t, exec (.revoke o) s = .next t ∧ (t.die h.1).regs.lookup h.2 = none ∧ t.mem = s.mem ∧ t.cpu.g = s.cpu.g)
          ∧ (o.nb = false → entryBusy s h = true → exec (.revoke o) s = .next (markRevoking s h).park)
          ∧ (o.nb = true → ccFull s o.ccNo = false →
            exec (.revoke o) s = .next ((issueNb (markRevoking s h) o.ccNo false none [({ kind := .pg, ha := 0, va := s.srcG o.A }, .revoke (s.srcG o.A))]).retireKeep id)))
    ∧ (let vi := s.cpu.vi
       let index := (s.srcB o.b).toNat
       let at_ := winEntryAt s s.cpu.pkg vi index
       let target := (s.srcG o.A).toNat
       let length := (s.srcG o.C).toNat
       (windowBeyond s vi index = false → windowRangeOk target length = true → memWord s.mem (at_ + 16) % 4 = 0 →
          ∃ t, exec (.wopen o) s = .next t ∧ memWord t.mem at_ = target ∧ memWord t.mem (at_ + 8) = length ∧ memWord t.mem (at_ + 16) = 1
            ∧ ∀ a, a < at_ ∨ at_ + 24 ≤ a → memGet t.mem a = memGet s.mem a)
        ∧ (windowBeyond s vi index = false → memWord s.mem (at_ + 16) % 2 = 1 → headBegun s = none → s.cpu.queue ≠ [] →
          ∃ t op, exec (.wrevoke o) s = .next t ∧ t.cpu.parked = true ∧ memWord t.mem (at_ + 16) = 3 ∧ headBegun t = some op
            ∧ headAcks t = nodePackages t vi ∧ ∃ l, t.wire = s.wire ++ l ∧ (∀ k ∈ l, k.kind = .shootdown ∧ k.x = index ∧ k.y = op ∧ k.vi = vi)
              ∧ ∀ n < low 23 (s.vi vi).nodecnt.toNat, ∀ p, nodeOf t s.cpu.pkg vi n = some p → ∃ k ∈ l, k.dstPkg = p)
        ∧ (∀ op, headBegun s = some op → headAcks s = [] → memWord s.mem (at_ + 24) + 1 < 2 ^ 64 →
          ∃ t, exec (.wrevoke o) s = .next t ∧ memWord t.mem (at_ + 16) = 0 ∧ memWord t.mem (at_ + 24) = memWord s.mem (at_ + 24) + 1
            ∧ t.cpu.queue = s.cpu.queue.drop 1 ∧ ∀ k f y, f ∈ (t.chan k).refuse → f = (y, windowKey vi index) → False)
        ∧ (∀ op, headBegun s = some op → headAcks s ≠ [] → ∃ t, exec (.wrevoke o) s = .next t ∧ t.cpu.parked = true ∧ t.mem = s.mem ∧ headAcks t = headAcks s
            ∧ ∃ l, t.wire = s.wire ++ l ∧ (∀ p ∈ headAcks s, ∃ k ∈ t.wire, k.kind = .shootdown ∧ k.y = op ∧ k.dstPkg = p)
              ∧ ∀ k ∈ l, k.kind = .shootdown ∧ k.x = index ∧ k.y = op ∧ k.dstPkg ∈ headAcks s))

/-- R321 to R324: COLLDEF reads a legal graph into the die's store; COLLRUN starts a run with 16 base words and answers its number; COLLWAIT answers the status
of an ended run, 0 for a number that is no run, and waits for one that goes on. A COLLECTIVE_STEP issues the next step of a run, or finds its WAIT not
reached; slots of a die that a pre-emption left partly filled 10 ms ago are
discarded, and the runs that wait on them end with status 4. A PUT issues its packets and adds its bytes to the strand's count towards the destination's die; a CONTRIB
issues one contribution under VI, graph, slot and run count; a WAIT whose counter holds its bytes subtracts them; a LOCAL issues a copy. Trap values (log
entry 23), what a step that fails leaves (log entry 39) and when a group's pre-emption is put off (log entry 48) are the model's choices. -/
def Obligations.CollectivesComplete : Prop :=
  ∀ (s s1 s2 s3 s4 : State) (o : Ops) (h b : Got) (g : CollGraph) (steps t op : Nat) (sps dps : List (Place × Nat)) (cp : Option Place)
    (bytes : List (Byte × Bool)),
    let w := s.who .vector
    let va := s.srcG o.A
    let n := (s.srcB o.b).toNat
    (n ≤ 63 → graphBusy s s.myDie s.cpu.vi n = false → readMem s w va 32 0 .read = .ok h s1 → graphHeader h.bytes = some (steps, t, op) →
        readMem s1 w (va + 32) (32 * steps) 0 .read = .ok b s2 → graphOf steps t op b.bytes = some g →
        ∃ u, exec (.colldef o) s = .next u ∧ (u.die s2.myDie).graphs = cellPut (s2.die s2.myDie).graphs (graphKey s2.cpu.vi n) g ∧ u.mem = s2.mem
          ∧ u.cpu = s2.cpu.retireKeep)
    ∧ (63 < n → exec (.colldef o) s = .next (queuedTrap s 0x10 va))
    ∧ (n ≤ 63 → ((s.die s.myDie).graphs.lookup (graphKey s.cpu.vi n)).isSome = true → (s.cpu.runs.filter (fun r => !runEnded s s.cpu r)).length < 4 →
        readMem s w (s.srcG o.C) 128 0 .read = .ok b s1 →
        ∃ u, exec (.collrun o) s = .next u ∧ (o.D ≠ 0 → u.cpu.readG o.D = BitVec.ofNat 64 s1.next) ∧ u.mem = s1.mem ∧ u.cpu.v = s1.cpu.v
          ∧ ∃ r : CollRun, u.cpu.runs = s1.cpu.runs ++ [r] ∧ r.id = s1.next ∧ r.graph = n ∧ r.step = 0 ∧ r.status = 0 ∧ r.level = s1.cpu.level
            ∧ r.base = (List.range 16).map (fun i => BitVec.ofNat 64 (leNat ((b.bytes.drop (8 * i)).take 8))))
    ∧ (s.cpu.runs.find? (fun r => r.id = va.toNat) = none → exec (.collwait o) s = .next (s.retireKeep (fun u => u.writeG o.D 0)))
    ∧ (∀ r, s.cpu.runs.find? (fun r => r.id = va.toNat) = some r →
        (runEnded s s.cpu r = true → ∃ u, exec (.collwait o) s = .next u ∧ (o.D ≠ 0 → u.cpu.readG o.D = BitVec.ofNat 64 r.status)
            ∧ u.cpu.runs = s.cpu.runs.filter (fun x => x.id ≠ va.toNat))
          ∧ (runEnded s s.cpu r = false → exec (.collwait o) s = .next s.park))
    ∧ (∀ (u : Strand) (r : CollRun) (x : CollStep), s.task? s.arg.key = some u → u.deferSince = none → u.runs.find? (fun r => r.id = s.arg.index) = some r →
        runGraph s u r = some g → g.steps[r.step]? = some x →
        let w : Who := { vi := u.vi, pkg := u.pkg, die := u.die, core := u.core, level := r.level, tlb := some .vector, tid := u.tid }
        let src := r.base.getD x.src 0 + x.soff
        let dst := r.base.getD x.dst 0 + x.doff
        let c := if x.cnt = 15 then none else some (r.base.getD x.cnt 0 + BitVec.ofNat 64 x.coff)
        (x.kind = 1 → oneDie s u dst.toNat x.bytes (c.map (·.toNat)) = true → (∀ a, c = some a → a.toNat % 8 = 0) →
            rangeOf s w src x.bytes .read = .ok sps s1 → rangeOf s1 w dst x.bytes .write = .ok dps s2 → counterPlace s2 w c = .ok cp s3 →
            readMarked w s3 sps = (bytes, s4) → (∀ y ∈ bytes, y.2 = false) →
            ∃ e, exec .collectiveStep s = .next e
              ∧ StepIssued s4 u r false (cp.map (·, x.bytes)) ((soundParts (packetParts dps) bytes).map (fun y => (y.1, .data y.2.2 true))) e
              ∧ ∀ v z, s4.task? u.tid = some v → e.task? u.tid = some z →
                  cellGet 0 z.flagBytes (destDie s4 dps) = cellGet 0 v.flagBytes (destDie s4 dps) + x.bytes)
          ∧ (x.kind = 1 → (oneDie s u dst.toNat x.bytes (c.map (·.toNat)) = false ∨ ∃ a, c = some a ∧ a.toNat % 8 ≠ 0) →
            ∃ e, exec .collectiveStep s = .next e ∧ e.mem = s.mem ∧ e.pieces = s.pieces ∧ RunMoved s u r 2 e)
          ∧ (x.kind = 2 → rangeOf s w src x.bytes .read = .ok sps s1 →
            ∀ (p : Place) (n : Nat), rangeOf s1 w dst (if g.ty = 0xC then 4 * x.bytes else x.bytes) .write = .ok ((p, n) :: dps) s2 →
            counterPlace s2 w c = .ok cp s3 → readMarked w s3 sps = (bytes, s4) →
            ∃ e, exec .collectiveStep s = .next e ∧ StepIssued s4 u r false none
              [(p, .contrib (((u.vi * 64 + r.graph) * 4096 + x.slot) * 2 ^ 64 + r.run) x.expected g.ty g.op (bytes.map (·.1)) cp r.id
                ((List.range bytes.length).filter (fun i => (bytes.getD i (0, false)).2)))] e)
          ∧ (x.kind = 3 → c = none → exec .collectiveStep s = .next (onRun s u.tid r.id (fun y => { y with step := y.step + 1 })))
          ∧ (x.kind = 3 → ∀ (a : Word) (p : Place), c = some a → a.toNat % 8 = 0 → placeOf s w a 8 .atomic = .ok p s1 → readPlaces w 0 a s1 [(p, 8)] = .ok b s2 →
            let held := leNat b.bytes
            let met := x.bytes ≤ held % 2 ^ 40 ∨ 2 ^ 63 ≤ held % 2 ^ 64
            (¬ met → exec .collectiveStep s = .next s2)
              ∧ ∀ old, met → atomicPlace s2 w p 8 (fun v => some (leBytes 8 (leNat v / 2 ^ 40 * 2 ^ 40 + (leNat v % 2 ^ 40 - x.bytes)))) = (s3, .ok, old) →
                ∃ e, exec .collectiveStep s = .next e ∧ e.mem = s3.mem ∧ RunMoved s3 u r 0 e)
          ∧ (x.kind = 4 → rangeOf s w src x.bytes .read = .ok sps s1 → rangeOf s1 w dst x.bytes .write = .ok dps s2 →
            ∃ e, exec .collectiveStep s = .next e ∧ StepIssued s2 u r true none (copyPieces sps dps 0 x.bytes) e))
    ∧ (∀ (y : CombineSlot) (now : Nat), y.expired now = true ↔ ∃ a, y.since = some a ∧ a + 10000000 ≤ now)
    ∧ (∃ u, exec .combineSlotExpiry s = .next u ∧ (u.die s.arg.key).combine = (s.die s.arg.key).combine.filter (fun y => !y.expired s.time)
        ∧ u.mem = s.mem ∧ u.pieces = s.pieces
        ∧ (∀ l ∈ u.launches, ∃ k ∈ s.launches, l.id = k.id ∧ (l.codes = k.codes ∨ l.codes = k.codes ++ [8]))
        ∧ (∀ x ∈ (s.die s.arg.key).combine, x.expired s.time = true → x.key ∈ (u.die s.arg.key).aborted)
        ∧ ∀ x ∈ (s.die s.arg.key).combine, x.expired s.time = true → ∀ q ∈ x.runs, ∀ v ∈ u.strands, v.tid = q.1 → ∀ r ∈ v.runs, r.id = q.2 → r.status = 4)
/-! Events. -/

namespace Sys2Proof.Claims

open Sys2Proof.Machine Sys2Proof.Safety

/-- The events of class-0 packets, with the kind each delivers (R364). -/
def deliveries : List (Instr × PacketKind) :=
  [(.readRequest, .readRequest), (.write, .write), (.atomic, .atomic), (.fabricData, .data), (.orderedFlag, .orderedFlag),
   (.collectiveContribution, .contribution)]

/-- The packet at the event's index of the wire has reached its destination's port (R371). -/
def Lands (s : State) (k : Packet) (kind : PacketKind) : Prop := s.wire[s.arg.index]? = some k ∧ k.here = true ∧ k.kind = kind

/-- A packet that a port takes: of an assigned kind and class, with a good CRC (R364). -/
def Arrives (s : State) (k : Packet) (kind : PacketKind) : Prop := Lands s k kind ∧ isReservedPacket k = false ∧ k.crcOk = true

/-- The machine with that packet taken off the wire. -/
def taken (s : State) : State := { s with wire := s.wire.eraseIdx s.arg.index }

/-- The events that perform a piece on its own die (R166, R319, R370, R171). -/
def LocalEvent (s : State) (p : Piece) (i : Instr) : Prop :=
  i = .ccPieceEnd ∨ (i = .nackRetry ∧ p.busyAt ≠ none) ∨ (i = .xsendRetry ∧ ∃ a b c, p.what = .xsend a b c)
    ∨ (i = .orderedFlagCommit ∧ (s.die (placeDie s p.place)).flags.any (fun f => f.packet = p.id && flagReady s (placeDie s p.place) f) = true)

/-- A piece as its source holds it once it has been performed. -/
def performedAs (q : Piece) (st : Status) (x : Piece) : Piece :=
  { x with what := q.what, result := q.result, invs := q.invs, fault := q.fault, elem := q.elem, request := q.request, performed := some st }

/-- R176: a piece of a load whose reply is there waits for the others of its page, and all of them end together. -/
def EndTogether (u : State) (q : Piece) (out : Out) : Prop :=
  let page := u.pieces.filter (fun x => x.op = q.op && x.isLoad && decide (x.place.va.toNat / 65536 = q.place.va.toNat / 65536))
  ((∃ x ∈ page, x.replied = false) → out = .next u)
    ∧ ((∀ x ∈ page, x.replied = true) → ∃ t, out = .next t ∧ ∀ x ∈ t.pieces, ∀ y ∈ page, x.id ≠ y.id)

end Sys2Proof.Claims

/-- R166, R168, R169, R171, R115, R176, R318, R319, R364 to R372, R325: how pieces and packets end. A piece on its own die is performed and ends, waits, or
is answered busy; an XSEND that every replica has refused tries again after 1 microsecond; the pieces of a vector load on one page end together. A packet that
its destination accepts is performed once and answered, a second copy gets the first answer again, one with a bad CRC or of a reserved class is dropped and
logged; an answer ends its piece with its status, once its data are in place; a piece whose timeout has passed has its channel sent again, or ends with
REMOTE_TIMEOUT after the sixth retry. A packet makes its domain hops in dimension order, one at a time, where the next gateway has room. The last piece of a
counted operation takes one from its counter. Which accesses travel as packets (log entry 11), that a timed-out piece is forgotten at once (log entry 18), the
fate of refused pieces and flags (log entries 40 and 41), the log record of consumed poison (log entry 79) and the order in which ready work is tried (log
entry 54) are the model's choices. -/
def Obligations.PiecesAndPacketsEnd : Prop :=
  ∀ (s s1 : State) (p q : Piece) (k : Packet) (st : Status),
    (s.pieces.find? (fun x => x.id = s.arg.key) = some p →
      (∀ i, p.remote = false → p.replied = false → (∀ t, p.busyAt = some t → t + 1000 ≤ s.time) → LocalEvent s p i → (p.isLoad && staleRequest s p) = false →
          (performFull s p = .done s1 st q → st ≠ .busy →
            let u := onPiece (afterPerform s1 q st) q.id (performedAs q st)
            (q.isLoad = false → exec i s = .next (endPiece u q st))
              ∧ (q.isLoad = true → (st = .ok ∨ st = .ue) →
                EndTogether (onPiece u q.id (fun x => { x with replied := true, performed := some st, busyAt := none, busySince := none })) q (exec i s)))
            ∧ (performFull s p = .wait s1 → exec i s = .next (onPiece s1 p.id (fun x => { x with busyAt := none, busySince := none })))
            ∧ (performFull s p = .done s1 .busy q →
              ((∃ a b c, p.what = .xsend a b c) → exec i s = .next (onPiece s1 p.id (fun x => { x with busyAt := some s1.time })))
                ∧ ((∀ a b c, p.what ≠ .xsend a b c) → exec i s = .next (markBusy s1 p.id))))
        ∧ (∀ t, p.busyAt = some t → s.time < t + 1000 → ∀ i ∈ [(.nackRetry : Instr), .xsendRetry, .ccPieceEnd], exec i s = .next s)
        ∧ (∀ x ∈ (markBusy s p.id).pieces, x.id = p.id → x.busyAt = some s.time ∧ x.busySince ≠ none)
        ∧ (p.remote = true → p.unsent = false → p.replied = false → p.busyAt = none → p.sentAt + retryInterval s p ≤ s.time →
          (6 ≤ p.retries → exec .retryTimeout s = .next (timeOut s p))
            ∧ (p.retries < 6 → exec .retryTimeout s = .next ((channelInOrder s p).foldl retransmit
                (onPiece s p.id (fun x => { x with retries := x.retries + 1, busySince := none })))))
        ∧ (∀ t, p.remote = true → p.busyAt = some t → t + 1000 ≤ s.time → exec .nackRetry s = .next (retransmit s p))
        ∧ (∀ t, p.busySince = some t → t + 20000000 ≤ s.time → exec .nackBusyTimeout s = .next (timeOut s p))
        ∧ (∀ x ∈ (timeOut s p).pieces, x.id ≠ p.id))
    ∧ (∀ d ∈ deliveries, Lands s k d.2 →
        ((isReservedPacket k = true ∨ k.crcOk = false) → exec d.1 s = .next (dropPacket (taken s) k))
          ∧ (Arrives s k d.2 → unheard (taken s) k = true → exec d.1 s = .next (taken s))
          ∧ (Arrives s k d.2 → unheard (taken s) k = false → s.pieces.find? (fun x => x.id = k.piece) = some p → k.seq = p.seq →
            (∀ a, s.answered.find? (fun a => a.1 = k.piece) = some a → exec d.1 s = .next ((taken s).send (replyTo (taken s) p k a.2)))
              ∧ (s.answered.find? (fun a => a.1 = k.piece) = none → inSequence (taken s) p k = true → staleRequest (taken s) p = false →
                (performFull (taken s) p = .done s1 st q → st ≠ .busy →
                  exec d.1 s = .next (answer (afterPerform (onPiece s1 q.id (performedAs q st)) q st) q k st))
                  ∧ (performFull (taken s) p = .done s1 .busy q → exec d.1 s = .next (s1.send (answerOf s1 k .nackBusy .busy)))
                  ∧ (performFull (taken s) p = .wait s1 →
                    let u := onPiece s1 p.id (fun x => { x with busyAt := none, busySince := none })
                    let held := (u.die (placeDie u p.place)).flags.any (fun f => f.packet = p.id)
                    (held = true → exec d.1 s = .next u) ∧ (held = false → exec d.1 s = .next (holdPacket u k))))
              ∧ (s.answered.find? (fun a => a.1 = k.piece) = none → inSequence (taken s) p k = false → exec d.1 s = .next (taken s))
              ∧ (s.answered.find? (fun a => a.1 = k.piece) = none → inSequence (taken s) p k = true → staleRequest (taken s) p = true →
                exec d.1 s = .next (answer (taken s) p k .stale))))
    ∧ (Arrives s k .readReply → s.pieces.find? (fun x => x.id = k.piece) = some p → k.seq = p.seq → p.again = false →
        (p.isLoad = false →
          (deliver (taken s) p k.status = .ok (st, q) s1 → exec .readReply s = .next (closePiece (logConsumed (forget s1 p.id) q st) q st))
            ∧ (deliver (taken s) p k.status = .wait s1 → exec .readReply s = .next (holdPacket s1 k)))
          ∧ (p.isLoad = true → (k.status = .ok ∨ k.status = .ue) →
            EndTogether (onPiece (forget (taken s) p.id) p.id (fun x => { x with replied := true, performed := some k.status, busyAt := none, busySince := none }))
              p (exec .readReply s)))
    ∧ (Arrives s k .acknowledgement → s.pieces.find? (fun x => x.id = k.piece) = some p → k.seq = p.seq → k.status ≠ .stale → p.again = false →
        p.isLoad = false → exec .acknowledgement s = .next (endPiece (forget (taken s) p.id) p k.status))
    ∧ (Arrives s k .nackBusy → exec .nackBusy s = .next (markBusy (taken s) k.piece))
    ∧ (Arrives s k .shootdown → ∃ t, exec .windowShootdown s = .next t ∧ t.wire = s.wire.eraseIdx s.arg.index ∧ t.mem = s.mem ∧ t.cpu.g = s.cpu.g
        ∧ (∀ e ∈ t.cpu.queue, e.begun = true → e.op = k.y → k.dstPkg ∉ e.acks)
        ∧ ∀ d c, d / 8 = k.dstPkg → c ∈ (t.die d).winCopies → c.1 ≠ windowKey k.vi k.x)
    ∧ (s.arg.index < 4 → (s.die s.arg.key).failed.contains s.arg.index = false →
        ∃ t, exec .railFailure s = .next t ∧ (t.die s.arg.key).failed = (s.die s.arg.key).failed ++ [s.arg.index] ∧ t.pieces = s.pieces ∧ t.wire = s.wire)
    ∧ ((s.die s.arg.key).failed.contains s.arg.index = true → (∃ n ∈ [0, 1, 2, 3], healthyRail (s.die s.arg.key) n = s.arg.index) →
        (∀ x ∈ s.pieces, ¬ (x.remote = true ∧ dieKey x.srcPkg x.srcDie = s.arg.key ∧ x.rail = s.arg.index ∧ x.unsent = false ∧ x.replied = false)) →
        ∃ t, exec .railFailover s = .next t ∧ (t.die s.arg.key).moved = (moveShares (s.die s.arg.key) s.arg.index).moved ∧ t.mem = s.mem)
    ∧ (∀ (d : DieSt) (r x n : Nat), nextHealthy d r = some x → n < 4 →
        healthyRail (moveShares d r) n = if healthyRail d n = r then x else healthyRail d n)
    ∧ ((isReservedPacket s.arg.packet = true ∨ s.arg.packet.crcOk = false) →
        exec .reservedKindPacket s = .next (dropPacket s s.arg.packet) ∧ (dropPacket s s.arg.packet).wire = s.wire ∧ (dropPacket s s.arg.packet).mem = s.mem)
    ∧ exec .linkLevelRetry s = .next s
    ∧ (∀ x, s.wire[s.arg.index]? = some x →
        (x.here = false → hopFree s x = true → exec .gatewayForward s = .next { s with wire := s.wire.set s.arg.index { x with hops := x.hops + 1 } })
          ∧ ((x.here = true ∨ hopFree s x = false) → exec .gatewayForward s = .next s))
    ∧ (∀ a b, (routeOf a b).length = domainHops a b)
    ∧ (∀ st1, deliver s p st = .ok st1 s1 → ∀ x ∈ (endPiece s p st).pieces, x.id ≠ p.id)
    ∧ (∀ c b v, p.cc = some c → p.what = .write b v → p.tid = s.cpu.tid → (∀ x ∈ s.pieces, x.op = p.op → x.id = p.id) →
        ((endPiece s p .ok).cpu.readCC c).count = (s.cpu.readCC c).count - 1
          ∧ ((endPiece s p .timeout).cpu.readCC c).timeout = true ∧ ((endPiece s p .revoked).cpu.readCC c).revoked = true
          ∧ ((endPiece s p .ue).cpu.readCC c).ue = true ∧ (endPiece s p .ok).cpu.g = s.cpu.g ∧ (endPiece s p .ok).mem = s.mem)

/-- R49, R398, R336, R339, R61, R68: what happens to strands at and between their commit boundaries. A head of the queue that has started, or waits for its own
pieces, completes before a trap there moves it (R59). R381: a firmware service answers in g1 and g2 and returns
behind its TRAP. When such a trap is taken while the strand waits for an access of its own (log entry 72), how long a WAITEV's watch stays (log entry 29),
and the services' handles and status codes (log entry 43) are the model's choices. -/
def Obligations.StrandEvents : Prop :=
  ∀ (s s1 : State) (t : Strand),
    (s.task? s.arg.key = some t →
      (exitReady s t = true → t.deferred = [] → ∃ u, exec .exitRelease s = .next u ∧ u.task? t.tid = none ∧ u.mem = s.mem ∧ u.time = s.time)
        ∧ (t.deadline ≠ 0 → t.deadline.toNat ≤ s.time - (s.pkg t.pkg).resetAt →
          ∃ u v, exec .timerDeadline s = .next u ∧ u.task? t.tid = some v ∧ v.deadline = 0 ∧ v.trapS.evp = t.trapS.evp ||| 2 ∧ v.g = t.g ∧ v.pc = t.pc)
        ∧ (t.watchFull = true → ∃ u v, exec .watchPoll s = .next u ∧ u.task? t.tid = some v ∧ v = { t with parked := false })
        ∧ (∀ (l : WmLink) (x : Got), t.links[s.arg.index]? = some l → l.sub = true →
          readMem s { vi := t.vi, pkg := t.pkg, die := t.die, core := t.core, level := .s, tlb := none } l.cell 8 0 .read = .ok x s1 → l.w < leNat x.bytes →
          exec .watermarkPush s = .next (s1.onTask t.tid (fun u => { u with links := u.links.set s.arg.index { l with w := leNat x.bytes }, parked := false }))))
    ∧ (∀ c va rest, s.cpu.deferred = (c, va) :: rest → s.cpu.queue = [] → tripping s.cpu = false →
        ∃ u, exec .deferredStoreTrap s = .next u ∧ u.cpu.deferred = rest
          ∧ Entered s u (trapTarget c.toNat s.cpu.level) c.toNat va s.cpu.pc ∧ u.cpu.g = s.cpu.g ∧ u.mem = s.mem)
    ∧ (∀ x, s.cpu.stepArm = some x → s.cpu.stepDone = true → s.cpu.queue = [] → tripping s.cpu = false → x ≠ .u →
        ∃ u, exec .stepTrap s = .next u ∧ u.cpu.stepArm = none ∧ Entered s u (if s.cpu.level = .h then .h else x) 0x42 0 s.cpu.pc ∧ u.mem = s.mem)
    ∧ (∀ n, pendingEvent s.cpu = some n → s.cpu.queue = [] → tripping s.cpu = false →
        ∃ u, exec .eventTrap s = .next u ∧ u.cpu.level = .s ∧ u.cpu.trapS.evp = s.cpu.trapS.evp &&& ~~~(1#4 <<< n) ∧ u.cpu.pc = s.tvec .s
          ∧ u.cpu.trapS.epc = s.cpu.pc &&& ~~~7 ∧ u.cpu.trapS.ie = false ∧ u.cpu.trapS.pie = s.cpu.trapS.ie ∧ u.mem = s.mem
          ∧ (n = 0 → u.cpu.trapS.cause = 0x52) ∧ (n = 1 → u.cpu.trapS.cause = 0x51) ∧ (n = 2 → u.cpu.trapS.cause = 0x53) ∧ (n = 3 → u.cpu.trapS.cause = 0x50))
    ∧ (headBusy s.cpu = true → (∀ x rest, s.cpu.deferred = x :: rest → exec .deferredStoreTrap s = .next s) ∧ exec .stepTrap s = .next s ∧ exec .eventTrap s = .next s)
    ∧ (pendingEvent s.cpu ≠ none → s.cpu.level ≠ .h ∧ s.cpu.trapS.ie = true ∧ s.cpu.trapS.evp &&& s.cpu.trapS.evm ≠ 0)
    ∧ (0x100 ≤ s.arg.off → s.arg.off ≤ 0x1F8 → ∃ u, exec .doorbellWrite s = .next u ∧ u.mem = s.mem
        ∧ (s.cpu.tid ≠ 0 → s.cpu.vi = s.arg.vi → s.cpu.pkg = s.arg.pkg → s.cpu.trapS.evm.getLsbD 0 = true →
          u.cpu.trapS.evp = s.cpu.trapS.evp ||| 1 ∧ u.cpu.evDoorbell = BitVec.ofNat 64 s.arg.off)
        ∧ (s.cpu.vi ≠ s.arg.vi ∨ s.cpu.pkg ≠ s.arg.pkg ∨ s.cpu.trapS.evm.getLsbD 0 = false → u.cpu = s.cpu))
    ∧ (∃ u, exec .watchWake s = .next u ∧ u.mem = s.mem ∧ (s.cpu.watched.contains s.arg.key = true → u.cpu = { s.cpu with parked := false })
        ∧ (s.cpu.watched.contains s.arg.key = false → u.cpu = s.cpu))
    ∧ (let back := fun (st : State) (status value : Nat) =>
         st.onCpu (fun u => returnFrom ((u.writeG 1 (BitVec.ofNat 64 status)).writeG 2 (BitVec.ofNat 64 value)))
       let w : Who := { s.who .scalar with level := .s, tlb := none }
       let count := (s.cpu.readG 4).toNat
       (inService s 0xF003 = true → exec .throttle s = .next (back s 0 (stepField s s.cpu.pkg)))
        ∧ (inService s 0xF004 = true →
          ((s.cpu.readG 1).toNat < 8 → (s.cpu.readG 2).toNat < 80 →
            exec .lanes s = .next (back s 0 (usableOf (s.core (coreKey s.cpu.pkg (s.cpu.readG 1).toNat (s.cpu.readG 2).toNat)).retired)))
            ∧ (8 ≤ (s.cpu.readG 1).toNat ∨ 80 ≤ (s.cpu.readG 2).toNat → exec .lanes s = .next (back s 2 0)))
        ∧ (inService s 0xF002 = true →
          let h := (s.cpu.readG 1).toNat
          let r := cellGet {} (s.chan (h / 8)).regs (h % 8)
          (r.en = true → r.vi = s.cpu.vi → exec .regionClear s = .next (back (disableRegion s (h / 8) (h % 8)) 0 0))
            ∧ (r.en = false ∨ r.vi ≠ s.cpu.vi → exec .regionClear s = .next (back s 2 0)))
        ∧ (inService s 0xF001 = true →
          (count = 0 ∨ 2 ^ 24 ≤ count → exec .regionSet s = .next (back s 2 0))
            ∧ (∀ a b c win pk hdr n s2, 0 < count → count < 2 ^ 24 → regionRanges s w count = .ok [a, b, c] s1 → oneRun a = some win → oneRun b = some pk →
              oneRun c = some hdr → haChanKey pk = haChanKey win → haChanKey hdr = haChanKey win →
              (List.range 8).find? (fun n => !(cellGet {} (s1.chan (haChanKey win)).regs n).en) = some n →
              let reg : FormatReg := { count := count, hdrbase := haOff hdr, pkbase := haOff pk, en := false, vi := s1.cpu.vi, winbase := haOff win }
              enableRegion (s1.setChan (haChanKey win) { s1.chan (haChanKey win) with regs := cellPut (s1.chan (haChanKey win)).regs n reg })
                (haChanKey win) n = some s2 →
              exec .regionSet s = .next (back s2 0 (haChanKey win * 8 + n)))))

/-- R69, R70, R355, R380, R36, R394, R65, R71, R73, R175, R47: the doorbell page, and what launches go through. The device reads the oldest ring entry and its
record once every host write of the package has been accepted, drops a launch whose record address is misaligned, and accepts, or refuses with the status
whose check comes first, any other; HEAD moves on. An accepted launch joins the launches in its class; a refused one writes its completion record. The order
of REC_RESOURCE and GANG_FIT, whose TIMER the record takes, where tasks are placed and which victims give way (log entries 45, 47, 68, 69 and 75), the doorbell
page's address registers (log entry 44), how gangs and reports cross packages (log entry 46) and how a launch is ended (log entry 59) are the model's
choices. -/
def Obligations.LaunchEvents : Prop :=
  ∀ (s s1 s2 s3 : State) (l : Launch) (k : Packet) (e b kb cells : List Byte) (cls : Nat) (direct : Bool),
    let pkg := s.arg.pkg
    let vi := s.arg.vi
    let v := s.viPkg pkg vi
    let x := s.arg.value % 2 ^ 32
    ((x + 2 ^ 32 - v.head) % 2 ^ 32 ≤ 2 ^ v.ringSize → ∃ t, exec .tail s = .next t ∧ t.viPkg pkg vi = { v with tail := x } ∧ t.launches = s.launches)
    ∧ (2 ^ v.ringSize < (x + 2 ^ 32 - v.head) % 2 ^ 32 → ∃ t, exec .tail s = .next t ∧ (t.viPkg pkg vi).tail = v.tail)
    ∧ (6 ≤ s.arg.value → s.arg.value ≤ 16 → ∃ t, exec .ringSize s = .next t ∧ t.viPkg pkg vi = { v with ringSize := s.arg.value })
    ∧ (s.arg.value < 6 ∨ 16 < s.arg.value → ∃ t, exec .ringSize s = .next t ∧ (t.viPkg pkg vi).ringSize = v.ringSize)
    ∧ (s.arg.value % 64 = 0 → ∃ t, exec .ringBase s = .next t ∧ t.viPkg pkg vi = { v with ringBase := BitVec.ofNat 64 s.arg.value })
    ∧ (s.arg.value % 64 ≠ 0 → ∃ t, exec .ringBase s = .next t ∧ (t.viPkg pkg vi).ringBase = v.ringBase)
    ∧ (∃ t, exec .irq s = .next t ∧ t.viPkg pkg vi = { v with irq := v.irq &&& ~~~(BitVec.ofNat 2 s.arg.value) })
    ∧ (∃ t, exec .apbase s = .next t ∧ t.viPkg pkg vi = { v with apbase := BitVec.ofNat 64 (s.arg.value / 2 ^ 40 * 2 ^ 40) })
    ∧ (((s.pkg pkg).stage = 4 ∨ ((s.pkg pkg).stage = 3 ∧ vi = 0)) →
        let at_ : Word := v.ringBase + BitVec.ofNat 64 (8 * (v.head % 2 ^ v.ringSize))
        let a : Word := BitVec.ofNat 64 (leNat e)
        (s.arg.submitted = true →
            (v.submitted = [] → exec .launchAccept s = .next s)
              ∧ ∀ x n rest, v.submitted = (x, n) :: rest → deviceRead s pkg vi x 512 = .ok b s1 → acceptRecord s1 pkg vi b n true = .ok () s2 →
                exec .launchAccept s = .next (s2.setViPkg pkg vi { s2.viPkg pkg vi with submitted := rest }))
          ∧ (s.arg.submitted = false → v.head ≠ v.tail → (∀ y ∈ s.hostWaits, ¬ (y.2 = true ∧ y.1.pkg = pkg)) →
            deviceRead s pkg vi at_ 8 = .ok e s1 →
            (a.toNat % 64 = 0 → deviceRead s1 pkg vi a 512 = .ok b s2 → acceptRecord s2 pkg vi b 0 false = .ok () s3 →
              exec .launchAccept s = .next (s3.setViPkg pkg vi { s3.viPkg pkg vi with head := ((s3.viPkg pkg vi).head + 1) % 2 ^ 32 }))
              ∧ (a.toNat % 64 ≠ 0 → ∃ t, exec .launchAccept s = .next t ∧ t.mem = s1.mem ∧ t.launches = s1.launches
                ∧ (t.viPkg pkg vi).head = ((s1.viPkg pkg vi).head + 1) % 2 ^ 32 ∧ (t.viPkg pkg vi).drops = (s1.viPkg pkg vi).drops + 1))
          ∧ (s.arg.submitted = false → (v.head = v.tail ∨ ∃ y ∈ s.hostWaits, y.2 = true ∧ y.1.pkg = pkg) → exec .launchAccept s = .next s))
    ∧ (∀ r, recordOf b = r →
       (formatOk r = false → acceptRecord s pkg vi b cls direct = refuseLaunch s pkg vi r 2)
        ∧ (formatOk r = true → (levelsLegal r && homesOk s pkg vi r) = false → acceptRecord s pkg vi b cls direct = refuseLaunch s pkg vi r 3)
        ∧ (formatOk r = true → (levelsLegal r && homesOk s pkg vi r) = true →
          (∀ c x, deviceRead s pkg vi r.kaddr (8 * r.kcount) = .fault c x s1 →
            acceptRecord s pkg vi b cls direct = refuseLaunch (pushLog s1 pkg { time := 0, kind := .launch, addr := r.kaddr.toNat, vi := some vi }) pkg vi r 10)
          ∧ (deviceRead s pkg vi r.kaddr (8 * r.kcount) = .ok kb s1 → deviceRead s1 pkg vi r.pub (if r.pub = 0 then 0 else 64) = .ok cells s2 →
            (resourcesOk s2 pkg vi r = false → acceptRecord s pkg vi b cls direct = refuseLaunch s2 pkg vi r 4)
              ∧ (resourcesOk s2 pkg vi r = true → gangsFit s2 pkg vi r = false → acceptRecord s pkg vi b cls direct = refuseLaunch s2 pkg vi r 1)
              ∧ (resourcesOk s2 pkg vi r = true → gangsFit s2 pkg vi r = true → ∃ (t : State) (y : Launch), acceptRecord s pkg vi b cls direct = .ok () t
                ∧ t.launches = s2.launches ++ [y] ∧ t.mem = s2.mem ∧ t.cpu = s2.cpu ∧ y.record = r ∧ y.vi = vi ∧ y.pkg = pkg ∧ y.cls = max r.prio cls
                ∧ y.tasks = r.levels.foldl (fun n z => n * z.extent) 1 ∧ y.started = [] ∧ y.since = s2.time ∧ y.direct = direct
                ∧ (y.cells = [] → y.state = .ready) ∧ (y.cells ≠ [] → y.state = .waitCells))))
        ∧ (∀ n, r.done.toNat % 8 = 0 → writeMem s (deviceWho pkg vi) .outside r.done
              (leBytes 4 n ++ leBytes 4 0 ++ leBytes 8 0 ++ leBytes 8 0 ++ leBytes 8 (s.time - (s.pkg pkg).resetAt)) false = .ok () s1 →
            refuseLaunch s pkg vi r n = .ok () (if r.flags % 2 = 1 then raiseIrq s1 pkg vi 0 else s1))
        ∧ (∀ n, r.done.toNat % 8 ≠ 0 → ∃ t, refuseLaunch s pkg vi r n = .ok () t ∧ t.mem = s.mem ∧ (t.viPkg pkg vi).drops = v.drops + 1))
    ∧ (s.launches.find? (fun (y : Launch) => y.id = s.arg.key) = some l →
      (l.state = .waitCells → cellsReady l.pkg l.vi s l.cells = .ok true s1 →
          ∃ t, exec .afterCellsReady s = .next t ∧ t.mem = s1.mem ∧ t.launches = s1.launches.map (fun (y : Launch) =>
            if y.id = l.id then { y with state := .ready, since := s1.time, readyOrder := s1.next } else y))
        ∧ (l.state = .waitCells → cellsReady l.pkg l.vi s l.cells = .ok false s1 → exec .afterCellsReady s = .next s1)
        ∧ (launchWaits s l = true → 1 ≤ l.cls → l.since + 4 * budgetOf s l.vi l.cls < s.time →
          exec .agingPromotion s = .next { s with launches := s.launches.map (fun (y : Launch) => if y.id = l.id then { y with cls := y.cls - 1, since := s.time } else y) })
        ∧ (launchWaits s l = true → l.since + budgetOf s l.vi l.cls < s.time →
          exec .budgetExpiry s = .next (preemptFor (fun u => holdsNeeded u (fun t => decide (l.cls < classOf u t)) l) s.strands.length s))
        ∧ (startable l = true → s.arg.index < l.tasks → l.started.contains s.arg.index = false → gangOf l.record s.arg.index = none →
          ∀ p, taskPlace s l s.arg.index = some p → firstOnCore s l [s.arg.index] s.arg.index = true → servesNow s l p.core_ = true →
            startTask s l.id s.arg.index = some s1 → exec .taskStart s = .next (countTurn s1 p.core_ l.cls l.vi 1))
        ∧ (launchDone s l = true → reporters s l = [] → l.record.npub ≤ l.published →
          ∀ written, writeRecord s (homeOfLaunch s l) l.vi l.record.done (statusOf l) l.exited l.first = .ok written s1 →
          ∃ t, exec .launchCompletion s = .next t ∧ t.mem = s1.mem ∧ t.launches = s1.launches.filter (fun (y : Launch) => y.id ≠ l.id)
            ∧ (written = true → l.record.flags % 2 = 1 → (t.viPkg l.pkg l.vi).irq.getLsbD 0 = true)
            ∧ (written = false ∨ l.record.flags % 2 = 0 → t.viPkg l.pkg l.vi = s1.viPkg l.pkg l.vi)))
    ∧ (Arrives s k .gang → ∀ y, s.launches.find? (fun (y : Launch) => y.id = k.x) = some y → (taken s).wire.any (fun (m : Packet) => m.kind = .gang && m.x = k.x && m.y = k.y) = false →
        exec .gangReservationMessage s = .next { taken s with launches := s.launches.map (fun (z : Launch) => if z.id = k.x then { z with gangs := z.gangs ++ [k.y] } else z) })
    ∧ (Arrives s k .report → exec .completionReport s = .next { taken s with launches := s.launches.map (fun (z : Launch) =>
        if z.id = k.x then { z with reports := z.reports ++ [(k.srcPkg, k.y)] } else z) })
    ∧ (let held := fun (u : Strand) => onCore s.arg.key u && decide (cellGet 0 (s.core s.arg.key).viSince u.vi + (s.vi u.vi).quantum ≤ s.time)
       exec .quantumExpiry s = .next (preemptFor (fun st u => s.launches.any (fun (y : Launch) => (launchWaits s y || startable y)
         && holdsNeeded st (fun t => held t && decide (y.vi ≠ t.vi) && decide (y.cls ≤ classOf st t)) y u)) s.strands.length s))
    ∧ (∀ (gives : Strand → Bool) (u : Strand), holdsNeeded s gives l u = true → gives u = true)
    ∧ (∀ (f : State → Strand → Bool) (n : Nat),
        (firstVictim s (s.strands.filter (fun t => t.tid ≠ 0 && f s t)) = none → preemptFor f (n + 1) s = s)
          ∧ ∀ t, firstVictim s (s.strands.filter (fun t => t.tid ≠ 0 && f s t)) = some t →
            t ∈ s.strands ∧ f s t = true ∧ (∀ u ∈ s.strands, u.tid ≠ 0 → f s u = true → (freeSlot s (dieKey u.pkg u.die) u.vi).isSome →
                haltedPkg s u.pkg = false → classOf s u ≤ classOf s t)
              ∧ (((requestPreempt s t).task? t.tid).isSome → preemptFor f (n + 1) s = requestPreempt s t)
              ∧ (((requestPreempt s t).task? t.tid).isNone → preemptFor f (n + 1) s = preemptFor f n (requestPreempt s t)))

/-- R73 to R75, R342, R345, R346, R397: pre-emption saves the group of a task, at once where the group is on one package and no member stands inside a
collective step: each member leaves its core for the lowest free slot of its die, its launch waits from then on, and its combine slots start their 10 ms; a
saved group resumes as a whole, where its class and turn let it; a lost image resumes in S with every register zero but its identity. R114, R122, R124, R95,
R55: page-ins, expiries, format regions, lane retirement. What R343 leaves open of an image (log entry 9), page-ins without a free frame (log entry 10), how
pre-emptions cross packages and which task gives way (log entries 46 and 47), when they are put off (log entry 48), what a restore reads and a lost context
keeps (log entry 49), and what resuming chooses (log entries 69 and 75) are the model's choices. -/
def Obligations.SaveAndPagingEvents : Prop :=
  ∀ (s s1 : State) (t : Strand) (k : Packet) (x : Saved),
    (s.task? s.arg.key = some t →
      (groupPackages s t = [] → exec .preemptionSave s = .next (preemptGroup s t false))
        ∧ (∀ p ps, groupPackages s t = p :: ps → s.wire.any (fun (m : Packet) => m.kind = .preempt && m.x = t.tid) = false →
          exec .preemptionSave s = .next { s with wire := s.wire ++ (p :: ps).map (preemptMessage t) })
        ∧ (∀ since, t.deferSince = some since → since + 50000 ≤ s.time → exec .preemptDeferralExpiry s = .next (preemptGroup s t true))
        ∧ (∀ force, let g := residentGroup s t
          ((∃ u ∈ g, (s.pkg u.pkg).stage = 15) → preemptGroup s t force = s)
            ∧ ((∀ u ∈ g, (s.pkg u.pkg).stage ≠ 15) →
              (slotsFor s g = false → preemptGroup s t force = { s with outputs := s.outputs ++ [.report 1] })
              ∧ (slotsFor s g = true → g.any (insideStep s) = true → force = false → preemptGroup s t force
                  = s.onStrands (fun u => if g.any (fun y => y.tid = u.tid) && u.deferSince.isNone then { u with deferSince := some s.time } else u))
              ∧ (slotsFor s g = true → (g.any (insideStep s) = false ∨ force = true) →
                let u := saveGroup s g []
                let r := preemptGroup s t force
                r.mem = u.mem ∧ r.strands = u.strands ∧ r.saved = u.saved
                  ∧ r.launches = u.launches.map (fun (y : Launch) => if g.any (fun z => z.lid = y.id) then { y with since := u.time } else y)
                  ∧ ∀ d, (r.die d).combine = (u.die d).combine.map (fun y =>
                      if (g.flatMap graphsOf).contains (slotGraph y.key) then { y with since := some u.time } else y)))))
    ∧ (∀ (u : Strand) (rest : List Strand) (seen : List Nat) (n : Nat), freeSlot s (dieKey u.pkg u.die) u.vi = some n →
        saveGroup s [] seen = s ∧ ∃ s2 more, saveGroup s (u :: rest) seen = saveGroup s2 rest more ∧ s2.task? u.tid = none
          ∧ ∃ y ∈ s2.saved, y.strand.tid = u.tid ∧ y.slot = some n ∧ y.at_ = slotHa s u.pkg u.die u.vi n)
    ∧ (s.task? s.arg.key = none → s.saved.find? (fun y => y.stopped && y.strand.tid = s.arg.key) = some x →
        exec .preemptionSave s = .next (saveStopped s x))
    ∧ (Arrives s k .preempt → (taken s).wire.any (fun (m : Packet) => m.kind = .preempt && m.x = k.x) = false → (taken s).task? k.x = some t →
        exec .preemptionMessage s = .next (preemptGroup (taken s) t false))
    ∧ (∀ i, (i = .contextRestore ∧ s.saved.find? (fun y => y.strand.tid = s.arg.key && y.slot.isSome) = some x)
          ∨ (i = .lostContextResume ∧ s.saved.find? (fun y => y.strand.tid = s.arg.key && isLost s y && waitsResume y) = some x) →
        let g := savedGroup s x.strand
        let images := s.saved.filter (fun y => waitsResume y && g.any (fun u => u.tid = y.strand.tid))
        let r := resumeGroup images.length s images
        (∀ u ∈ g, s.task? u.tid = none) →
        ((∀ y ∈ images, y.stopped = false) → (∀ y ∈ r.saved, ∀ z ∈ images, z.number ≠ y.number) → resumesNow s r x = true →
            exec i s = .next ((resumedOn s r x).foldl (fun st y => countTurn st y.2 y.1.cls y.1.vi 1) r))
          ∧ (((∃ y ∈ images, y.stopped = true) ∨ (∃ y ∈ r.saved, ∃ z ∈ images, z.number = y.number) ∨ resumesNow s r x = false) →
            exec i s = .next s))
    ∧ (∀ seat off, let u := lostStrand s t seat off
        u.level = .s ∧ u.mmode = false ∧ u.pc = (s.viPkg seat.pkg t.vi).tvec ∧ u.trapS.cause = 0x32 ∧ u.g = [] ∧ u.v = [] ∧ u.tiles = [] ∧ u.queue = []
          ∧ (∀ i, i < u.mvl → u.readM 8 i = false) ∧ u.tid = t.tid ∧ u.vi = t.vi ∧ u.index = t.index ∧ u.core = seat.core ∧ u.slot = seat.slot)
    ∧ (∀ vi va p a l, s.pageIns[s.arg.index]? = some (vi, va) → nodeOf s s.arg.pkg vi (va.toNat / 2 ^ 40 % 2 ^ 22) = some p →
        walk s p (va.toNat / 2 ^ 37 % 8) (va.toNat / 2 ^ 33 % 16) vi (va.toNat % 2 ^ 33) = some (a, l) → l.sp = true →
        pageInWaits s p (va.toNat / 2 ^ 37 % 8) (va.toNat / 2 ^ 33 % 16) vi (va.toNat % 2 ^ 33) = false →
        (if l.big then bigPageIn else pageIn) s p (va.toNat / 2 ^ 37 % 8) (va.toNat / 2 ^ 33 % 16) vi (va.toNat % 2 ^ 33) a l.frame = some s1 →
        exec .pageInComplete s = .next (donePageIn s1 s.arg.index))
    ∧ (∀ at_, (cellGet {} (s.chan s.arg.key).pages (s.arg.vi * 131072 + s.arg.index)).settledAt = some at_ → at_ + 256000000 ≤ s.time →
        ∃ u, exec .pageSettledExpiry s = .next u ∧ u.mem = s.mem
          ∧ (cellGet {} (u.chan s.arg.key).pages (s.arg.vi * 131072 + s.arg.index)).settledAt = none)
    ∧ (∃ u, exec .tlbEntryExpiry s = .next u ∧ u.mem = s.mem ∧ ∀ e, e ∈ (u.core s.arg.key).tlbs ↔ e ∈ (s.core s.arg.key).tlbs ∧ s.time < e.since + 1000000)
    ∧ (s.arg.index < 8 → (cellGet {} (s.chan s.arg.key).regs s.arg.index).en = false →
        regionOk (s.chan s.arg.key) s.arg.index (cellGet {} (s.chan s.arg.key).regs s.arg.index) = true →
        ∃ u, exec .formatRegionEnable s = .next u ∧ u.mem = s.mem
          ∧ cellGet {} (u.chan s.arg.key).regs s.arg.index = { cellGet {} (s.chan s.arg.key).regs s.arg.index with en := true })
    ∧ ((cellGet {} (s.chan s.arg.key).regs s.arg.index).en = true →
        let r := cellGet {} (s.chan s.arg.key).regs s.arg.index
        let first := chanHa s.arg.key r.winbase
        ∃ u, exec .formatRegionDisable s = .next u ∧ (cellGet {} (u.chan s.arg.key).regs s.arg.index).en = false
          ∧ ∀ n f, first ≤ 256 * f → 256 * f < first + 64 * r.count →
            (∀ b ∈ cellGet [] (u.die (haDieKey first)).l2 n, b.frame ≠ f) ∧ ∀ b ∈ cellGet [] (u.die (haDieKey first)).msc n, b.frame ≠ f)
    ∧ (∀ r, (s.core s.arg.key).pend = some r → (∀ u ∈ s.strands, u.tid = 0 ∨ coreKey u.pkg u.die u.core ≠ s.arg.key) →
        ∃ u, exec .lanemapApply s = .next u ∧ (u.core s.arg.key).retired = r ∧ (u.core s.arg.key).pend = none ∧ u.mem = s.mem ∧ u.cpu = s.cpu)

/-- R376 to R393: the host's accesses through the aperture, reset, boot, service stages, attestation, monitors and throttling, scrubbing. The digests,
signatures and secrets are free values (log entry 20), and the SPDM response codes are the model's (log entry 53). That memory holds 0 after a reset (log entry
1), what a reset keeps (log entry 52), the log record of consumed poison (log entry 79), which spare replaces a failed core (log entry 80), how monitors take
readings (log entry 82) and where corrected errors are kept (log entry 83) are the model's choices. -/
def Obligations.PlatformEvents : Prop :=
  ∀ (s s1 : State) (x : Got),
    let n := s.arg.pkg
    let p := s.pkg n
    let die := s.arg.key
    let d := s.die die
    let va := if s.arg.submitted then BitVec.ofNat 64 s.arg.key else (s.viPkg n s.arg.vi).apbase + BitVec.ofNat 64 (s.arg.off % 2 ^ 40)
    let answers := 1 ≤ p.stage ∧ p.stage ≠ 15
    (va.toNat < 2 ^ 62 →
        (readMem s (hostWho s) va s.arg.value 0 .read = .ok x s1 → exec .hostRead s = .next (hostDone s1 false (.readData x.bytes)))
          ∧ (readMem s (hostWho s) va s.arg.value 0 .read = .wait s1 → exec .hostRead s = .next (hostWaits s1 false))
          ∧ (∀ c a, readMem s (hostWho s) va s.arg.value 0 .read = .fault c a s1 →
            exec .hostRead s = .next (hostDone (if c = causeUeData then logHostPoison s1 a else refuseHost s1 va) false .poisoned))
          ∧ (∀ ps, placesOf s (hostWho s) va s.arg.bytes.length .write = .ok ps s1 →
            (∀ s2, writeWhole (hostWho s) .outside false s1 ps s.arg.bytes = (s2, .ok) → exec .hostWrite s = .next (hostDone s2 true .writeAck))
              ∧ ((∃ y ∈ ps, placeRefusal s1 (hostWho s) y.1 y.2 ≠ .ok) → exec .hostWrite s = .next (hostDone (refuseHost s1 va) true .writeError)))
          ∧ (placesOf s (hostWho s) va s.arg.bytes.length .write = .wait s1 → exec .hostWrite s = .next (hostWaits s1 true)))
    ∧ (2 ^ 62 ≤ va.toNat → exec .hostRead s = .next (hostDone (refuseHost s va) false .poisoned)
        ∧ exec .hostWrite s = .next (hostDone (refuseHost s va) true .writeError))
    ∧ (∀ (u : State) (b : Bool) (y : Output), u.arg.submitted = false → hostDone u b y = { u with outputs := u.outputs ++ [y] }
        ∧ (let at_ := ((u.viPkg u.arg.pkg u.arg.vi).apbase + BitVec.ofNat 64 (u.arg.off % 2 ^ 40)).toNat
           hostWaits u b = { u with hostWaits := u.hostWaits ++ [({ u.arg with submitted := true, key := at_ }, b)] }))
    ∧ (∃ t, exec .packageReset s = .next t ∧ (∀ u ∈ t.strands, u.tid ≠ 0 → u.pkg ≠ n) ∧ (∀ l ∈ t.launches, l.pkg ≠ n) ∧ (t.pkg n).stage = 0
        ∧ (t.pkg n).resetAt = s.time ∧ (t.pkg n).rollback = p.rollback ∧ (t.pkg n).keyDigest = p.keyDigest ∧ (t.pkg n).retirementMap = p.retirementMap
        ∧ ((∀ y ∈ p.retirementMap, y.2.testBit 17 = false) → (t.pkg n).spareMap = p.spareMap)
        ∧ (∀ a, haPkg a = n → memGet t.mem a = 0) ∧ (∀ a, haPkg a ≠ n → memGet t.mem a = memGet s.mem a) ∧ ∀ m, m ≠ n → t.pkg m = s.pkg m)
    ∧ (∀ c m, c % 128 < 80 → (cellGet 0 p.retirementMap c).testBit 17 = true → (∀ y ∈ p.spareMap, y.1 ≠ c ∧ y.2 ≠ c) →
        (spareCores (c / 128)).find? (fun y => !p.spareMap.any (fun z => z.2 = y) && !(cellGet 0 p.retirementMap y).testBit 17) = some m →
        replaceFailed p c = { p with spareMap := cellPut p.spareMap c m } ∧ m / 128 = c / 128 ∧ 80 ≤ m % 128 ∧ m % 128 < 84)
    ∧ (p.stage = 0 → exec .rootOfTrustBoot s = .next (s.setPkg n { p with stage := 1 }))
    ∧ (p.stage = 1 → p.pending = [] →
        ((∀ i ∈ [2, 3, 4], imageOk p i (cellGet {} p.boot i) = true) → ∃ t, exec .rootOfTrustBoot s = .next t ∧ (t.pkg n).stage = 2
            ∧ cellGet [] (t.pkg n).measured 2 = Config.shake256 (cellGet {} p.boot 2).bytes ∧ cellGet [] (t.pkg n).measured 1 = Config.shake256 Config.rom)
          ∧ ((∃ i ∈ [2, 3, 4], imageOk p i (cellGet {} p.boot i) = false) → ∃ t, exec .rootOfTrustBoot s = .next t ∧ (t.pkg n).stage = 1))
    ∧ (∀ i y, imageOk p i y = true ↔ Config.shake256 y.key = p.keyDigest ∧ Config.signatureValid y.key (Config.shake256 y.bytes) y.signature = true
        ∧ cellGet 0 p.rollback i ≤ y.version)
    ∧ (p.stage = 2 → exec .rootOfTrustBoot s = .next (s.setPkg n { p with stage := 3 }))
    ∧ (p.stage = 3 → (∀ u ∈ s.strands, u.tid = 0 ∨ u.pkg ≠ n) → (∀ k ∈ s.wire, k.srcPkg ≠ n ∧ k.dstPkg ≠ n) →
        (∀ q ∈ s.pieces, q.srcPkg ≠ n ∧ placeDie s q.place / 8 ≠ n) → exec .fullServiceTransition s = .next (s.setPkg n { p with draining := false, stage := 4 }))
    ∧ (p.stage = 3 → ((∃ u ∈ s.strands, u.tid ≠ 0 ∧ u.pkg = n) ∨ (∃ k ∈ s.wire, k.srcPkg = n ∨ k.dstPkg = n)
          ∨ (∃ q ∈ s.pieces, q.srcPkg = n ∨ placeDie s q.place / 8 = n)) → exec .fullServiceTransition s = .next (s.setPkg n { p with draining := true }))
    ∧ (2 ≤ s.arg.index → s.arg.index ≤ 4 → exec .firmwareImageUpdate s = .next (s.setPkg n { p with pending := cellPut p.pending s.arg.index s.arg.image }))
    ∧ (answers →
        let reply := fun (f : Spdm → Spdm) (code : Nat) (bytes : List Byte) =>
          ({ s.setPkg n { p with spdm := f p.spdm } with outputs := s.outputs ++ [.spdm n code bytes] } : State)
        exec .spdmGetVersion s = .next (reply (fun y => { y with version := true }) 0x04 [0x14])
          ∧ exec .spdmGetCapabilities s = .next (reply (fun y => { y with caps := true }) 0x61 [])
          ∧ (.mlDsa65 ∈ s.arg.offer → .shake256 ∈ s.arg.offer → .mlKem768 ∈ s.arg.offer →
            exec .spdmNegotiateAlgorithms s = .next (reply (fun y => { y with algs := true }) 0x63 []))
          ∧ ((.mlDsa65 ∉ s.arg.offer ∨ .shake256 ∉ s.arg.offer ∨ .mlKem768 ∉ s.arg.offer) →
            exec .spdmNegotiateAlgorithms s = .next { s with outputs := s.outputs ++ [.spdmError n] })
          ∧ exec .spdmGetCertificate s = .next (reply id 0x02 (Config.certificate (Config.fusedSecret n)))
          ∧ exec .spdmChallenge s = .next (reply id 0x03 (Config.sign (Config.fusedSecret n) s.arg.bytes))
          ∧ exec .spdmGetMeasurements s = .next (reply id 0x60 (measurementBytes p ++ Config.sign (Config.fusedSecret n) (measurementBytes p ++ s.arg.bytes)))
          ∧ exec .spdmKeyExchange s = .next { reply (fun y => { y with session := some (Config.sharedSecret s.free s.arg.bytes) }) 0x64
              (Config.encapsulate s.free s.arg.bytes) with free := s.free + 1 })
    ∧ (p.spdm.session.isSome = true → s.arg.index ≤ 1024 → exec .ideKeyManagement s = .next (s.setPkg n { p with ideKeys := cellPut p.ideKeys s.arg.index s.arg.bytes }))
    ∧ (∀ m c, m < 16 → let u := (readThermal s die m c).die die
        cellGet 0 u.thermal m = c ∧ (100 ≤ c → (∀ y ∈ d.thermal, y.2 < 100) → u.hotSince = some s.time)
          ∧ ((∀ y ∈ u.thermal, y.2 < 100) → u.hotSince = none) ∧ u.step = d.step)
    ∧ (∀ since, d.hotSince = some since → since + 100000 ≤ s.time → (d.lastStep = 0 ∨ d.lastStep + 100000 ≤ s.time) → ∃ t, exec .thermalStepUp s = .next t ∧ (t.die die).step = min 5 (d.step + 1) ∧ (t.die die).lastStep = s.time)
    ∧ ((∀ since, d.hotSince = some since → s.time < since + 100000) → exec .thermalStepUp s = .next s)
    ∧ ((∀ y ∈ d.thermal, y.2 < 92) → d.coolSince.getD (s.pkg (die / 8)).resetAt + 10000000 ≤ s.time →
        ∃ t, exec .thermalStepDown s = .next t ∧ (t.die die).step = min 5 (d.step - 1))
    ∧ ((∃ y ∈ d.thermal, 92 ≤ y.2) → exec .thermalStepDown s = .next s)
    ∧ ((∃ y ∈ d.thermal, 110 ≤ y.2) → ∃ t, exec .thermalClamp s = .next t ∧ (t.die die).step = 5)
    ∧ ((∃ y ∈ d.thermal, 120 ≤ y.2) → ∃ t, exec .thermalTrip s = .next t ∧ (t.pkg (die / 8)).stage = 15 ∧ t.mem = s.mem ∧ t.cpu = s.cpu ∧ .errorVector (die / 8) ∈ t.outputs)
    ∧ ((∃ y ∈ d.volts, y.2 < 950) → ∃ t, exec .voltageDroop s = .next t ∧ (t.die die).step = d.step ∧ dieStep (t.die die) = min 5 (d.step + 1)
        ∧ (t.die die).droopSince = s.time)
    ∧ ((∀ y ∈ d.volts, 950 ≤ y.2) → exec .voltageDroop s = .next s)
    ∧ (d.droop ≠ 0 → d.droopSince + 1000000 ≤ s.time → ∃ t, exec .voltageDroopExpiry s = .next t ∧ (t.die die).step = d.step ∧ dieStep (t.die die) = min 5 d.step)
    ∧ (p.limit < s.arg.value → (p.lastPower = 0 ∨ p.lastPower + 10000000 ≤ s.time) →
        ∃ t, exec .packagePowerLimit s = .next t ∧ (t.die (dieKey n s.arg.index)).step = min 5 ((s.die (dieKey n s.arg.index)).step + 1) ∧ (t.pkg n).limiting = true)
    ∧ (s.arg.value < p.limit - 100 → exec .packagePowerLimit s = .next (s.setPkg n { p with limiting := false }))
    ∧ (p.module = true → 3600 < s.arg.value → (p.lastModulePower = 0 ∨ p.lastModulePower + 10000000 ≤ s.time) →
        ∃ t, exec .modulePowerLimit s = .next t ∧ (t.die (dieKey n s.arg.index)).step = min 5 ((s.die (dieKey n s.arg.index)).step + 1) ∧ (t.pkg n).moduleLimiting = true)
    ∧ (∀ watts, (setLimit s n watts).pkg n = { p with limit := if 1500 ≤ watts ∧ watts ≤ 3400 then watts else p.limit })
    ∧ (∃ t, exec .patrolScrub s = .next t ∧ t.mem = s.mem ∧ t.cpu = s.cpu ∧ t.poison = s.poison
        ∧ ∀ w, w ∈ t.soft ↔ w ∈ s.soft ∧ ¬ (haPkg (8 * w) = n ∧ haIsScratch (8 * w) = false))
end

