-- ==== Sys2Proof/Laws/Cells.lean ====
section
/-! SUPPORT. The laws of tables, of memory bytes and of little-endian values: what a read gives after a write, and that writes keep the canonical form. -/

namespace Sys2Proof.Laws

open Sys2Proof.Machine

/-! Tables. -/

theorem cellGet_cellPut_same {α : Type} (d : α) (c : Cells α) (n : Nat) (v : α) : cellGet d (cellPut c n v) n = v := by
  induction c with
  | nil => simp [cellPut, cellGet]
  | cons x rest ih =>
    obtain ⟨k, w⟩ := x
    by_cases h1 : n < k
    · simp [cellPut, cellGet, h1]
    · by_cases h2 : k = n
      · simp [cellPut, cellGet, h2]
      · simp [cellPut, cellGet, h1, h2, ih]

theorem cellGet_cellPut_other {α : Type} (d : α) (c : Cells α) (n m : Nat) (v : α) (h : m ≠ n) :
    cellGet d (cellPut c n v) m = cellGet d c m := by
  induction c with
  | nil => simp [cellPut, cellGet, Ne.symm h]
  | cons x rest ih =>
    obtain ⟨k, w⟩ := x
    by_cases h1 : n < k
    · simp [cellPut, cellGet, h1, Ne.symm h]
    · by_cases h2 : k = n
      · subst h2; simp [cellPut, cellGet, Ne.symm h]
      · simp [cellPut, cellGet, h1, h2, ih]

theorem cellGet_cellDrop_same {α : Type} (d : α) (c : Cells α) (n : Nat) : cellGet d (cellDrop c n) n = d := by
  induction c with
  | nil => rfl
  | cons x rest ih =>
    obtain ⟨k, w⟩ := x
    unfold cellDrop at ih ⊢
    by_cases h : k = n
    · simpa [h] using ih
    · simpa [h, cellGet] using ih

theorem cellGet_cellDrop_other {α : Type} (d : α) (c : Cells α) (n m : Nat) (h : m ≠ n) : cellGet d (cellDrop c n) m = cellGet d c m := by
  induction c with
  | nil => rfl
  | cons x rest ih =>
    obtain ⟨k, w⟩ := x
    unfold cellDrop at ih ⊢
    by_cases h2 : k = n
    · subst h2; simpa [cellGet, Ne.symm h] using ih
    · by_cases h3 : k = m
      · simp [h3, h, cellGet]
      · simpa [h2, h3, cellGet] using ih

/-- A table reads the value last written at a number. -/
@[simp] theorem cellGet_cellSet_same {α : Type} [DecidableEq α] (d : α) (c : Cells α) (n : Nat) (v : α) : cellGet d (cellSet d c n v) n = v := by
  unfold cellSet
  split
  · next h => rw [cellGet_cellDrop_same, h]
  · exact cellGet_cellPut_same d c n v

/-- A write leaves every other number alone. -/
theorem cellGet_cellSet_other {α : Type} [DecidableEq α] (d : α) (c : Cells α) (n m : Nat) (v : α) (h : m ≠ n) :
    cellGet d (cellSet d c n v) m = cellGet d c m := by
  unfold cellSet
  split
  · exact cellGet_cellDrop_other d c n m h
  · exact cellGet_cellPut_other d c n m v h

/-- What a table reads after one write. -/
theorem cellGet_cellSet {α : Type} [DecidableEq α] (d : α) (c : Cells α) (n m : Nat) (v : α) :
    cellGet d (cellSet d c n v) m = if m = n then v else cellGet d c m := by
  by_cases h : m = n
  · simp [h]
  · simp [h, cellGet_cellSet_other d c n m v h]

/-! Memory bytes. -/

@[simp] theorem memGet_memSet_same (m : Memory) (a : Nat) (b : Byte) : memGet (memSet m a b) a = b := cellGet_cellSet_same 0 m a b

theorem memGet_memSet_other (m : Memory) (a x : Nat) (b : Byte) (h : x ≠ a) : memGet (memSet m a b) x = memGet m x :=
  cellGet_cellSet_other 0 m a x b h

/-- What memory reads after bytes have been written from address `a` up. -/
theorem memGet_memWrite (bs : List Byte) : ∀ (m : Memory) (a x : Nat),
    memGet (memWrite m a bs) x = if a ≤ x ∧ x < a + bs.length then bs.getD (x - a) 0 else memGet m x := by
  induction bs with
  | nil => intro m a x; simp [memWrite] <;> omega
  | cons b bs ih =>
    intro m a x
    simp only [memWrite, ih, List.length_cons]
    by_cases h : x = a
    · subst h
      have : ¬ (x + 1 ≤ x ∧ x < x + 1 + bs.length) := by omega
      simp [this]
    · by_cases h2 : a + 1 ≤ x ∧ x < a + 1 + bs.length
      · have h3 : a ≤ x ∧ x < a + (bs.length + 1) := by omega
        obtain ⟨k, hk⟩ : ∃ k, x - a = k + 1 := ⟨x - a - 1, by omega⟩
        have hk2 : x - (a + 1) = k := by omega
        simp [h2, h3, hk, hk2]
      · have h3 : ¬ (a ≤ x ∧ x < a + (bs.length + 1)) := by omega
        simp only [h2, h3, if_false]
        exact memGet_memSet_other m a x b h

@[simp] theorem memRead_length (m : Memory) (n : Nat) : ∀ a, (memRead m a n).length = n := by
  induction n with
  | zero => intro a; rfl
  | succ n ih => intro a; simp [memRead, ih]

/-- Two memories that agree on a range read the same bytes there. -/
theorem memRead_congr (m m' : Memory) (n : Nat) : ∀ a, (∀ x, a ≤ x → x < a + n → memGet m x = memGet m' x) → memRead m a n = memRead m' a n := by
  induction n with
  | zero => intro a _; rfl
  | succ n ih =>
    intro a h
    simp only [memRead]
    rw [h a (Nat.le_refl a) (by omega), ih (a + 1) (fun x h1 h2 => h x (by omega) (by omega))]

/-! Little-endian values (R3). -/

@[simp] theorem leBytes_length (n : Nat) : ∀ x, (leBytes n x).length = n := by
  induction n with
  | zero => intro x; rfl
  | succ n ih => intro x; simp [leBytes, ih]

/-- The value of the low `n` bytes of a value. -/
theorem leNat_leBytes (n : Nat) : ∀ x, leNat (leBytes n x) = x % 256 ^ n := by
  induction n with
  | zero => intro x; simp [leBytes, leNat, Nat.mod_one]
  | succ n ih =>
    intro x
    simp only [leBytes, leNat, ih, BitVec.toNat_ofNat]
    rw [show 256 ^ (n + 1) = 256 * 256 ^ n by rw [Nat.pow_succ, Nat.mul_comm], Nat.mod_mul]

/-! The canonical form. -/

/-- The canonical form, as a statement on the head and the rest. -/
theorem wf_cons (c : Host.Cell) (rest : Memory) :
    Memory.wf (c :: rest) = true ↔ c.2 ≠ 0 ∧ (∀ d ∈ rest, c.1 < d.1) ∧ Memory.wf rest = true := by
  induction rest generalizing c with
  | nil => simp [Memory.wf]
  | cons d rest ih =>
    simp only [Memory.wf, Bool.and_eq_true, bne_iff_ne, decide_eq_true_eq, List.mem_cons, forall_eq_or_imp]
    constructor
    · rintro ⟨⟨h1, h2⟩, h3⟩
      exact ⟨h1, ⟨h2, fun e he => Nat.lt_trans h2 (((ih d).mp h3).2.1 e he)⟩, h3⟩
    · rintro ⟨h1, ⟨h2, _⟩, h3⟩
      exact ⟨⟨h1, h2⟩, h3⟩

/-- Taking entries away keeps the form. -/
theorem wf_filter (p : Host.Cell → Bool) (m : Memory) (h : Memory.wf m = true) : Memory.wf (m.filter p) = true := by
  induction m with
  | nil => rfl
  | cons c rest ih =>
    obtain ⟨h1, h2, h3⟩ := (wf_cons c rest).mp h
    by_cases hp : p c = true
    · rw [List.filter_cons_of_pos hp, wf_cons]
      exact ⟨h1, fun d hd => h2 d (List.mem_filter.mp hd).1, ih h3⟩
    · rw [List.filter_cons_of_neg hp]
      exact ih h3

theorem cellPut_keys (m : Memory) (a : Nat) (b : Byte) (c : Host.Cell) (h : c ∈ cellPut m a b) : c = (a, b) ∨ c ∈ m := by
  induction m with
  | nil => simpa [cellPut] using h
  | cons x rest ih =>
    obtain ⟨k, w⟩ := x
    simp only [cellPut] at h
    split at h
    · simpa using h
    · split at h
      · rcases List.mem_cons.mp h with h | h
        · exact Or.inl h
        · exact Or.inr (List.mem_cons_of_mem _ h)
      · rcases List.mem_cons.mp h with h | h
        · exact Or.inr (by simp [h])
        · rcases ih h with h | h
          · exact Or.inl h
          · exact Or.inr (List.mem_cons_of_mem _ h)

theorem wf_cellPut (m : Memory) (a : Nat) (b : Byte) (hb : b ≠ 0) (h : Memory.wf m = true) : Memory.wf (cellPut m a b) = true := by
  induction m with
  | nil => simpa [cellPut, Memory.wf] using hb
  | cons x rest ih =>
    obtain ⟨k, w⟩ := x
    obtain ⟨h1, h2, h3⟩ := (wf_cons _ _).mp h
    simp only [cellPut]
    split
    · next hlt =>
      rw [wf_cons]
      refine ⟨hb, fun d hd => ?_, h⟩
      rcases List.mem_cons.mp hd with hd | hd
      · simpa [hd] using hlt
      · exact Nat.lt_trans hlt (h2 d hd)
    · split
      · next heq =>
        rw [wf_cons]
        exact ⟨hb, fun d hd => heq ▸ h2 d hd, h3⟩
      · next hlt hne =>
        rw [wf_cons]
        refine ⟨h1, fun d hd => ?_, ih h3⟩
        rcases cellPut_keys rest a b d hd with hd | hd
        · subst hd; show k < a; omega
        · exact h2 d hd

/-- A byte write keeps the canonical form. -/
theorem wf_memSet (m : Memory) (a : Nat) (b : Byte) (h : Memory.wf m = true) : Memory.wf (memSet m a b) = true := by
  unfold memSet cellSet
  split
  · exact wf_filter _ m h
  · next hb => exact wf_cellPut m a b hb h

/-- A write of bytes keeps the canonical form. -/
theorem wf_memWrite (bs : List Byte) : ∀ (m : Memory) (a : Nat), Memory.wf m = true → Memory.wf (memWrite m a bs) = true := by
  induction bs with
  | nil => intro m a h; exact h
  | cons b bs ih => intro m a h; exact ih _ _ (wf_memSet m a b h)

end Sys2Proof.Laws
end

