-- ==== Sys2Proof/Laws/State.lean ====
section
/-! SUPPORT. What each named update of the state and of a strand leaves in each field: one lemma per field per update. -/

namespace Sys2Proof.Laws

open Sys2Proof.Machine

/-! Updates of the state. -/

@[simp] theorem setCore_cpu (s : State) (k : Nat) (x : CoreSt) : (s.setCore k x).cpu = s.cpu := rfl
@[simp] theorem setCore_others (s : State) (k : Nat) (x : CoreSt) : (s.setCore k x).others = s.others := rfl
@[simp] theorem setCore_agenda (s : State) (k : Nat) (x : CoreSt) : (s.setCore k x).agenda = s.agenda := rfl
@[simp] theorem setCore_background (s : State) (k : Nat) (x : CoreSt) : (s.setCore k x).background = s.background := rfl
@[simp] theorem setCore_arg (s : State) (k : Nat) (x : CoreSt) : (s.setCore k x).arg = s.arg := rfl
@[simp] theorem setCore_mem (s : State) (k : Nat) (x : CoreSt) : (s.setCore k x).mem = s.mem := rfl
@[simp] theorem setCore_poison (s : State) (k : Nat) (x : CoreSt) : (s.setCore k x).poison = s.poison := rfl
@[simp] theorem setCore_soft (s : State) (k : Nat) (x : CoreSt) : (s.setCore k x).soft = s.soft := rfl
@[simp] theorem setCore_hostMem (s : State) (k : Nat) (x : CoreSt) : (s.setCore k x).hostMem = s.hostMem := rfl
@[simp] theorem setCore_hostInv (s : State) (k : Nat) (x : CoreSt) : (s.setCore k x).hostInv = s.hostInv := rfl
@[simp] theorem setCore_cores (s : State) (k : Nat) (x : CoreSt) : (s.setCore k x).cores = cellPut s.cores k x := rfl
@[simp] theorem setCore_dies (s : State) (k : Nat) (x : CoreSt) : (s.setCore k x).dies = s.dies := rfl
@[simp] theorem setCore_chans (s : State) (k : Nat) (x : CoreSt) : (s.setCore k x).chans = s.chans := rfl
@[simp] theorem setCore_pkgs (s : State) (k : Nat) (x : CoreSt) : (s.setCore k x).pkgs = s.pkgs := rfl
@[simp] theorem setCore_vis (s : State) (k : Nat) (x : CoreSt) : (s.setCore k x).vis = s.vis := rfl
@[simp] theorem setCore_viPkgs (s : State) (k : Nat) (x : CoreSt) : (s.setCore k x).viPkgs = s.viPkgs := rfl
@[simp] theorem setCore_launches (s : State) (k : Nat) (x : CoreSt) : (s.setCore k x).launches = s.launches := rfl
@[simp] theorem setCore_pieces (s : State) (k : Nat) (x : CoreSt) : (s.setCore k x).pieces = s.pieces := rfl
@[simp] theorem setCore_wire (s : State) (k : Nat) (x : CoreSt) : (s.setCore k x).wire = s.wire := rfl
@[simp] theorem setCore_saved (s : State) (k : Nat) (x : CoreSt) : (s.setCore k x).saved = s.saved := rfl
@[simp] theorem setCore_loaded (s : State) (k : Nat) (x : CoreSt) : (s.setCore k x).loaded = s.loaded := rfl
@[simp] theorem setCore_pageIns (s : State) (k : Nat) (x : CoreSt) : (s.setCore k x).pageIns = s.pageIns := rfl
@[simp] theorem setCore_hostWaits (s : State) (k : Nat) (x : CoreSt) : (s.setCore k x).hostWaits = s.hostWaits := rfl
@[simp] theorem setCore_answered (s : State) (k : Nat) (x : CoreSt) : (s.setCore k x).answered = s.answered := rfl
@[simp] theorem setCore_time (s : State) (k : Nat) (x : CoreSt) : (s.setCore k x).time = s.time := rfl
@[simp] theorem setCore_free (s : State) (k : Nat) (x : CoreSt) : (s.setCore k x).free = s.free := rfl
@[simp] theorem setCore_next (s : State) (k : Nat) (x : CoreSt) : (s.setCore k x).next = s.next := rfl
@[simp] theorem setCore_outputs (s : State) (k : Nat) (x : CoreSt) : (s.setCore k x).outputs = s.outputs := rfl

@[simp] theorem setDie_cpu (s : State) (k : Nat) (x : DieSt) : (s.setDie k x).cpu = s.cpu := rfl
@[simp] theorem setDie_others (s : State) (k : Nat) (x : DieSt) : (s.setDie k x).others = s.others := rfl
@[simp] theorem setDie_agenda (s : State) (k : Nat) (x : DieSt) : (s.setDie k x).agenda = s.agenda := rfl
@[simp] theorem setDie_background (s : State) (k : Nat) (x : DieSt) : (s.setDie k x).background = s.background := rfl
@[simp] theorem setDie_arg (s : State) (k : Nat) (x : DieSt) : (s.setDie k x).arg = s.arg := rfl
@[simp] theorem setDie_mem (s : State) (k : Nat) (x : DieSt) : (s.setDie k x).mem = s.mem := rfl
@[simp] theorem setDie_poison (s : State) (k : Nat) (x : DieSt) : (s.setDie k x).poison = s.poison := rfl
@[simp] theorem setDie_soft (s : State) (k : Nat) (x : DieSt) : (s.setDie k x).soft = s.soft := rfl
@[simp] theorem setDie_hostMem (s : State) (k : Nat) (x : DieSt) : (s.setDie k x).hostMem = s.hostMem := rfl
@[simp] theorem setDie_hostInv (s : State) (k : Nat) (x : DieSt) : (s.setDie k x).hostInv = s.hostInv := rfl
@[simp] theorem setDie_cores (s : State) (k : Nat) (x : DieSt) : (s.setDie k x).cores = s.cores := rfl
@[simp] theorem setDie_dies (s : State) (k : Nat) (x : DieSt) : (s.setDie k x).dies = cellPut s.dies k x := rfl
@[simp] theorem setDie_chans (s : State) (k : Nat) (x : DieSt) : (s.setDie k x).chans = s.chans := rfl
@[simp] theorem setDie_pkgs (s : State) (k : Nat) (x : DieSt) : (s.setDie k x).pkgs = s.pkgs := rfl
@[simp] theorem setDie_vis (s : State) (k : Nat) (x : DieSt) : (s.setDie k x).vis = s.vis := rfl
@[simp] theorem setDie_viPkgs (s : State) (k : Nat) (x : DieSt) : (s.setDie k x).viPkgs = s.viPkgs := rfl
@[simp] theorem setDie_launches (s : State) (k : Nat) (x : DieSt) : (s.setDie k x).launches = s.launches := rfl
@[simp] theorem setDie_pieces (s : State) (k : Nat) (x : DieSt) : (s.setDie k x).pieces = s.pieces := rfl
@[simp] theorem setDie_wire (s : State) (k : Nat) (x : DieSt) : (s.setDie k x).wire = s.wire := rfl
@[simp] theorem setDie_saved (s : State) (k : Nat) (x : DieSt) : (s.setDie k x).saved = s.saved := rfl
@[simp] theorem setDie_loaded (s : State) (k : Nat) (x : DieSt) : (s.setDie k x).loaded = s.loaded := rfl
@[simp] theorem setDie_pageIns (s : State) (k : Nat) (x : DieSt) : (s.setDie k x).pageIns = s.pageIns := rfl
@[simp] theorem setDie_hostWaits (s : State) (k : Nat) (x : DieSt) : (s.setDie k x).hostWaits = s.hostWaits := rfl
@[simp] theorem setDie_answered (s : State) (k : Nat) (x : DieSt) : (s.setDie k x).answered = s.answered := rfl
@[simp] theorem setDie_time (s : State) (k : Nat) (x : DieSt) : (s.setDie k x).time = s.time := rfl
@[simp] theorem setDie_free (s : State) (k : Nat) (x : DieSt) : (s.setDie k x).free = s.free := rfl
@[simp] theorem setDie_next (s : State) (k : Nat) (x : DieSt) : (s.setDie k x).next = s.next := rfl
@[simp] theorem setDie_outputs (s : State) (k : Nat) (x : DieSt) : (s.setDie k x).outputs = s.outputs := rfl

@[simp] theorem setChan_cpu (s : State) (k : Nat) (x : ChanSt) : (s.setChan k x).cpu = s.cpu := rfl
@[simp] theorem setChan_others (s : State) (k : Nat) (x : ChanSt) : (s.setChan k x).others = s.others := rfl
@[simp] theorem setChan_agenda (s : State) (k : Nat) (x : ChanSt) : (s.setChan k x).agenda = s.agenda := rfl
@[simp] theorem setChan_background (s : State) (k : Nat) (x : ChanSt) : (s.setChan k x).background = s.background := rfl
@[simp] theorem setChan_arg (s : State) (k : Nat) (x : ChanSt) : (s.setChan k x).arg = s.arg := rfl
@[simp] theorem setChan_mem (s : State) (k : Nat) (x : ChanSt) : (s.setChan k x).mem = s.mem := rfl
@[simp] theorem setChan_poison (s : State) (k : Nat) (x : ChanSt) : (s.setChan k x).poison = s.poison := rfl
@[simp] theorem setChan_soft (s : State) (k : Nat) (x : ChanSt) : (s.setChan k x).soft = s.soft := rfl
@[simp] theorem setChan_hostMem (s : State) (k : Nat) (x : ChanSt) : (s.setChan k x).hostMem = s.hostMem := rfl
@[simp] theorem setChan_hostInv (s : State) (k : Nat) (x : ChanSt) : (s.setChan k x).hostInv = s.hostInv := rfl
@[simp] theorem setChan_cores (s : State) (k : Nat) (x : ChanSt) : (s.setChan k x).cores = s.cores := rfl
@[simp] theorem setChan_dies (s : State) (k : Nat) (x : ChanSt) : (s.setChan k x).dies = s.dies := rfl
@[simp] theorem setChan_chans (s : State) (k : Nat) (x : ChanSt) : (s.setChan k x).chans = cellPut s.chans k x := rfl
@[simp] theorem setChan_pkgs (s : State) (k : Nat) (x : ChanSt) : (s.setChan k x).pkgs = s.pkgs := rfl
@[simp] theorem setChan_vis (s : State) (k : Nat) (x : ChanSt) : (s.setChan k x).vis = s.vis := rfl
@[simp] theorem setChan_viPkgs (s : State) (k : Nat) (x : ChanSt) : (s.setChan k x).viPkgs = s.viPkgs := rfl
@[simp] theorem setChan_launches (s : State) (k : Nat) (x : ChanSt) : (s.setChan k x).launches = s.launches := rfl
@[simp] theorem setChan_pieces (s : State) (k : Nat) (x : ChanSt) : (s.setChan k x).pieces = s.pieces := rfl
@[simp] theorem setChan_wire (s : State) (k : Nat) (x : ChanSt) : (s.setChan k x).wire = s.wire := rfl
@[simp] theorem setChan_saved (s : State) (k : Nat) (x : ChanSt) : (s.setChan k x).saved = s.saved := rfl
@[simp] theorem setChan_loaded (s : State) (k : Nat) (x : ChanSt) : (s.setChan k x).loaded = s.loaded := rfl
@[simp] theorem setChan_pageIns (s : State) (k : Nat) (x : ChanSt) : (s.setChan k x).pageIns = s.pageIns := rfl
@[simp] theorem setChan_hostWaits (s : State) (k : Nat) (x : ChanSt) : (s.setChan k x).hostWaits = s.hostWaits := rfl
@[simp] theorem setChan_answered (s : State) (k : Nat) (x : ChanSt) : (s.setChan k x).answered = s.answered := rfl
@[simp] theorem setChan_time (s : State) (k : Nat) (x : ChanSt) : (s.setChan k x).time = s.time := rfl
@[simp] theorem setChan_free (s : State) (k : Nat) (x : ChanSt) : (s.setChan k x).free = s.free := rfl
@[simp] theorem setChan_next (s : State) (k : Nat) (x : ChanSt) : (s.setChan k x).next = s.next := rfl
@[simp] theorem setChan_outputs (s : State) (k : Nat) (x : ChanSt) : (s.setChan k x).outputs = s.outputs := rfl

@[simp] theorem setPkg_cpu (s : State) (k : Nat) (x : PkgSt) : (s.setPkg k x).cpu = s.cpu := rfl
@[simp] theorem setPkg_others (s : State) (k : Nat) (x : PkgSt) : (s.setPkg k x).others = s.others := rfl
@[simp] theorem setPkg_agenda (s : State) (k : Nat) (x : PkgSt) : (s.setPkg k x).agenda = s.agenda := rfl
@[simp] theorem setPkg_background (s : State) (k : Nat) (x : PkgSt) : (s.setPkg k x).background = s.background := rfl
@[simp] theorem setPkg_arg (s : State) (k : Nat) (x : PkgSt) : (s.setPkg k x).arg = s.arg := rfl
@[simp] theorem setPkg_mem (s : State) (k : Nat) (x : PkgSt) : (s.setPkg k x).mem = s.mem := rfl
@[simp] theorem setPkg_poison (s : State) (k : Nat) (x : PkgSt) : (s.setPkg k x).poison = s.poison := rfl
@[simp] theorem setPkg_soft (s : State) (k : Nat) (x : PkgSt) : (s.setPkg k x).soft = s.soft := rfl
@[simp] theorem setPkg_hostMem (s : State) (k : Nat) (x : PkgSt) : (s.setPkg k x).hostMem = s.hostMem := rfl
@[simp] theorem setPkg_hostInv (s : State) (k : Nat) (x : PkgSt) : (s.setPkg k x).hostInv = s.hostInv := rfl
@[simp] theorem setPkg_cores (s : State) (k : Nat) (x : PkgSt) : (s.setPkg k x).cores = s.cores := rfl
@[simp] theorem setPkg_dies (s : State) (k : Nat) (x : PkgSt) : (s.setPkg k x).dies = s.dies := rfl
@[simp] theorem setPkg_chans (s : State) (k : Nat) (x : PkgSt) : (s.setPkg k x).chans = s.chans := rfl
@[simp] theorem setPkg_pkgs (s : State) (k : Nat) (x : PkgSt) : (s.setPkg k x).pkgs = cellPut s.pkgs k x := rfl
@[simp] theorem setPkg_vis (s : State) (k : Nat) (x : PkgSt) : (s.setPkg k x).vis = s.vis := rfl
@[simp] theorem setPkg_viPkgs (s : State) (k : Nat) (x : PkgSt) : (s.setPkg k x).viPkgs = s.viPkgs := rfl
@[simp] theorem setPkg_launches (s : State) (k : Nat) (x : PkgSt) : (s.setPkg k x).launches = s.launches := rfl
@[simp] theorem setPkg_pieces (s : State) (k : Nat) (x : PkgSt) : (s.setPkg k x).pieces = s.pieces := rfl
@[simp] theorem setPkg_wire (s : State) (k : Nat) (x : PkgSt) : (s.setPkg k x).wire = s.wire := rfl
@[simp] theorem setPkg_saved (s : State) (k : Nat) (x : PkgSt) : (s.setPkg k x).saved = s.saved := rfl
@[simp] theorem setPkg_loaded (s : State) (k : Nat) (x : PkgSt) : (s.setPkg k x).loaded = s.loaded := rfl
@[simp] theorem setPkg_pageIns (s : State) (k : Nat) (x : PkgSt) : (s.setPkg k x).pageIns = s.pageIns := rfl
@[simp] theorem setPkg_hostWaits (s : State) (k : Nat) (x : PkgSt) : (s.setPkg k x).hostWaits = s.hostWaits := rfl
@[simp] theorem setPkg_answered (s : State) (k : Nat) (x : PkgSt) : (s.setPkg k x).answered = s.answered := rfl
@[simp] theorem setPkg_time (s : State) (k : Nat) (x : PkgSt) : (s.setPkg k x).time = s.time := rfl
@[simp] theorem setPkg_free (s : State) (k : Nat) (x : PkgSt) : (s.setPkg k x).free = s.free := rfl
@[simp] theorem setPkg_next (s : State) (k : Nat) (x : PkgSt) : (s.setPkg k x).next = s.next := rfl
@[simp] theorem setPkg_outputs (s : State) (k : Nat) (x : PkgSt) : (s.setPkg k x).outputs = s.outputs := rfl

@[simp] theorem setVi_cpu (s : State) (k : Nat) (x : ViSt) : (s.setVi k x).cpu = s.cpu := rfl
@[simp] theorem setVi_others (s : State) (k : Nat) (x : ViSt) : (s.setVi k x).others = s.others := rfl
@[simp] theorem setVi_agenda (s : State) (k : Nat) (x : ViSt) : (s.setVi k x).agenda = s.agenda := rfl
@[simp] theorem setVi_background (s : State) (k : Nat) (x : ViSt) : (s.setVi k x).background = s.background := rfl
@[simp] theorem setVi_arg (s : State) (k : Nat) (x : ViSt) : (s.setVi k x).arg = s.arg := rfl
@[simp] theorem setVi_mem (s : State) (k : Nat) (x : ViSt) : (s.setVi k x).mem = s.mem := rfl
@[simp] theorem setVi_poison (s : State) (k : Nat) (x : ViSt) : (s.setVi k x).poison = s.poison := rfl
@[simp] theorem setVi_soft (s : State) (k : Nat) (x : ViSt) : (s.setVi k x).soft = s.soft := rfl
@[simp] theorem setVi_hostMem (s : State) (k : Nat) (x : ViSt) : (s.setVi k x).hostMem = s.hostMem := rfl
@[simp] theorem setVi_hostInv (s : State) (k : Nat) (x : ViSt) : (s.setVi k x).hostInv = s.hostInv := rfl
@[simp] theorem setVi_cores (s : State) (k : Nat) (x : ViSt) : (s.setVi k x).cores = s.cores := rfl
@[simp] theorem setVi_dies (s : State) (k : Nat) (x : ViSt) : (s.setVi k x).dies = s.dies := rfl
@[simp] theorem setVi_chans (s : State) (k : Nat) (x : ViSt) : (s.setVi k x).chans = s.chans := rfl
@[simp] theorem setVi_pkgs (s : State) (k : Nat) (x : ViSt) : (s.setVi k x).pkgs = s.pkgs := rfl
@[simp] theorem setVi_vis (s : State) (k : Nat) (x : ViSt) : (s.setVi k x).vis = cellPut s.vis k x := rfl
@[simp] theorem setVi_viPkgs (s : State) (k : Nat) (x : ViSt) : (s.setVi k x).viPkgs = s.viPkgs := rfl
@[simp] theorem setVi_launches (s : State) (k : Nat) (x : ViSt) : (s.setVi k x).launches = s.launches := rfl
@[simp] theorem setVi_pieces (s : State) (k : Nat) (x : ViSt) : (s.setVi k x).pieces = s.pieces := rfl
@[simp] theorem setVi_wire (s : State) (k : Nat) (x : ViSt) : (s.setVi k x).wire = s.wire := rfl
@[simp] theorem setVi_saved (s : State) (k : Nat) (x : ViSt) : (s.setVi k x).saved = s.saved := rfl
@[simp] theorem setVi_loaded (s : State) (k : Nat) (x : ViSt) : (s.setVi k x).loaded = s.loaded := rfl
@[simp] theorem setVi_pageIns (s : State) (k : Nat) (x : ViSt) : (s.setVi k x).pageIns = s.pageIns := rfl
@[simp] theorem setVi_hostWaits (s : State) (k : Nat) (x : ViSt) : (s.setVi k x).hostWaits = s.hostWaits := rfl
@[simp] theorem setVi_answered (s : State) (k : Nat) (x : ViSt) : (s.setVi k x).answered = s.answered := rfl
@[simp] theorem setVi_time (s : State) (k : Nat) (x : ViSt) : (s.setVi k x).time = s.time := rfl
@[simp] theorem setVi_free (s : State) (k : Nat) (x : ViSt) : (s.setVi k x).free = s.free := rfl
@[simp] theorem setVi_next (s : State) (k : Nat) (x : ViSt) : (s.setVi k x).next = s.next := rfl
@[simp] theorem setVi_outputs (s : State) (k : Nat) (x : ViSt) : (s.setVi k x).outputs = s.outputs := rfl

@[simp] theorem setViPkg_cpu (s : State) (k v : Nat) (x : ViPkgSt) : (s.setViPkg k v x).cpu = s.cpu := rfl
@[simp] theorem setViPkg_others (s : State) (k v : Nat) (x : ViPkgSt) : (s.setViPkg k v x).others = s.others := rfl
@[simp] theorem setViPkg_agenda (s : State) (k v : Nat) (x : ViPkgSt) : (s.setViPkg k v x).agenda = s.agenda := rfl
@[simp] theorem setViPkg_background (s : State) (k v : Nat) (x : ViPkgSt) : (s.setViPkg k v x).background = s.background := rfl
@[simp] theorem setViPkg_arg (s : State) (k v : Nat) (x : ViPkgSt) : (s.setViPkg k v x).arg = s.arg := rfl
@[simp] theorem setViPkg_mem (s : State) (k v : Nat) (x : ViPkgSt) : (s.setViPkg k v x).mem = s.mem := rfl
@[simp] theorem setViPkg_poison (s : State) (k v : Nat) (x : ViPkgSt) : (s.setViPkg k v x).poison = s.poison := rfl
@[simp] theorem setViPkg_soft (s : State) (k v : Nat) (x : ViPkgSt) : (s.setViPkg k v x).soft = s.soft := rfl
@[simp] theorem setViPkg_hostMem (s : State) (k v : Nat) (x : ViPkgSt) : (s.setViPkg k v x).hostMem = s.hostMem := rfl
@[simp] theorem setViPkg_hostInv (s : State) (k v : Nat) (x : ViPkgSt) : (s.setViPkg k v x).hostInv = s.hostInv := rfl
@[simp] theorem setViPkg_cores (s : State) (k v : Nat) (x : ViPkgSt) : (s.setViPkg k v x).cores = s.cores := rfl
@[simp] theorem setViPkg_dies (s : State) (k v : Nat) (x : ViPkgSt) : (s.setViPkg k v x).dies = s.dies := rfl
@[simp] theorem setViPkg_chans (s : State) (k v : Nat) (x : ViPkgSt) : (s.setViPkg k v x).chans = s.chans := rfl
@[simp] theorem setViPkg_pkgs (s : State) (k v : Nat) (x : ViPkgSt) : (s.setViPkg k v x).pkgs = s.pkgs := rfl
@[simp] theorem setViPkg_vis (s : State) (k v : Nat) (x : ViPkgSt) : (s.setViPkg k v x).vis = s.vis := rfl
@[simp] theorem setViPkg_viPkgs (s : State) (k v : Nat) (x : ViPkgSt) : (s.setViPkg k v x).viPkgs = cellPut s.viPkgs (k * 1024 + v) x := rfl
@[simp] theorem setViPkg_launches (s : State) (k v : Nat) (x : ViPkgSt) : (s.setViPkg k v x).launches = s.launches := rfl
@[simp] theorem setViPkg_pieces (s : State) (k v : Nat) (x : ViPkgSt) : (s.setViPkg k v x).pieces = s.pieces := rfl
@[simp] theorem setViPkg_wire (s : State) (k v : Nat) (x : ViPkgSt) : (s.setViPkg k v x).wire = s.wire := rfl
@[simp] theorem setViPkg_saved (s : State) (k v : Nat) (x : ViPkgSt) : (s.setViPkg k v x).saved = s.saved := rfl
@[simp] theorem setViPkg_loaded (s : State) (k v : Nat) (x : ViPkgSt) : (s.setViPkg k v x).loaded = s.loaded := rfl
@[simp] theorem setViPkg_pageIns (s : State) (k v : Nat) (x : ViPkgSt) : (s.setViPkg k v x).pageIns = s.pageIns := rfl
@[simp] theorem setViPkg_hostWaits (s : State) (k v : Nat) (x : ViPkgSt) : (s.setViPkg k v x).hostWaits = s.hostWaits := rfl
@[simp] theorem setViPkg_answered (s : State) (k v : Nat) (x : ViPkgSt) : (s.setViPkg k v x).answered = s.answered := rfl
@[simp] theorem setViPkg_time (s : State) (k v : Nat) (x : ViPkgSt) : (s.setViPkg k v x).time = s.time := rfl
@[simp] theorem setViPkg_free (s : State) (k v : Nat) (x : ViPkgSt) : (s.setViPkg k v x).free = s.free := rfl
@[simp] theorem setViPkg_next (s : State) (k v : Nat) (x : ViPkgSt) : (s.setViPkg k v x).next = s.next := rfl
@[simp] theorem setViPkg_outputs (s : State) (k v : Nat) (x : ViPkgSt) : (s.setViPkg k v x).outputs = s.outputs := rfl

@[simp] theorem onCpu_cpu (s : State) (f : Strand → Strand) : (s.onCpu f).cpu = f s.cpu := rfl
@[simp] theorem onCpu_others (s : State) (f : Strand → Strand) : (s.onCpu f).others = s.others := rfl
@[simp] theorem onCpu_agenda (s : State) (f : Strand → Strand) : (s.onCpu f).agenda = s.agenda := rfl
@[simp] theorem onCpu_background (s : State) (f : Strand → Strand) : (s.onCpu f).background = s.background := rfl
@[simp] theorem onCpu_arg (s : State) (f : Strand → Strand) : (s.onCpu f).arg = s.arg := rfl
@[simp] theorem onCpu_mem (s : State) (f : Strand → Strand) : (s.onCpu f).mem = s.mem := rfl
@[simp] theorem onCpu_poison (s : State) (f : Strand → Strand) : (s.onCpu f).poison = s.poison := rfl
@[simp] theorem onCpu_soft (s : State) (f : Strand → Strand) : (s.onCpu f).soft = s.soft := rfl
@[simp] theorem onCpu_hostMem (s : State) (f : Strand → Strand) : (s.onCpu f).hostMem = s.hostMem := rfl
@[simp] theorem onCpu_hostInv (s : State) (f : Strand → Strand) : (s.onCpu f).hostInv = s.hostInv := rfl
@[simp] theorem onCpu_cores (s : State) (f : Strand → Strand) : (s.onCpu f).cores = s.cores := rfl
@[simp] theorem onCpu_dies (s : State) (f : Strand → Strand) : (s.onCpu f).dies = s.dies := rfl
@[simp] theorem onCpu_chans (s : State) (f : Strand → Strand) : (s.onCpu f).chans = s.chans := rfl
@[simp] theorem onCpu_pkgs (s : State) (f : Strand → Strand) : (s.onCpu f).pkgs = s.pkgs := rfl
@[simp] theorem onCpu_vis (s : State) (f : Strand → Strand) : (s.onCpu f).vis = s.vis := rfl
@[simp] theorem onCpu_viPkgs (s : State) (f : Strand → Strand) : (s.onCpu f).viPkgs = s.viPkgs := rfl
@[simp] theorem onCpu_launches (s : State) (f : Strand → Strand) : (s.onCpu f).launches = s.launches := rfl
@[simp] theorem onCpu_pieces (s : State) (f : Strand → Strand) : (s.onCpu f).pieces = s.pieces := rfl
@[simp] theorem onCpu_wire (s : State) (f : Strand → Strand) : (s.onCpu f).wire = s.wire := rfl
@[simp] theorem onCpu_saved (s : State) (f : Strand → Strand) : (s.onCpu f).saved = s.saved := rfl
@[simp] theorem onCpu_loaded (s : State) (f : Strand → Strand) : (s.onCpu f).loaded = s.loaded := rfl
@[simp] theorem onCpu_pageIns (s : State) (f : Strand → Strand) : (s.onCpu f).pageIns = s.pageIns := rfl
@[simp] theorem onCpu_hostWaits (s : State) (f : Strand → Strand) : (s.onCpu f).hostWaits = s.hostWaits := rfl
@[simp] theorem onCpu_answered (s : State) (f : Strand → Strand) : (s.onCpu f).answered = s.answered := rfl
@[simp] theorem onCpu_time (s : State) (f : Strand → Strand) : (s.onCpu f).time = s.time := rfl
@[simp] theorem onCpu_free (s : State) (f : Strand → Strand) : (s.onCpu f).free = s.free := rfl
@[simp] theorem onCpu_next (s : State) (f : Strand → Strand) : (s.onCpu f).next = s.next := rfl
@[simp] theorem onCpu_outputs (s : State) (f : Strand → Strand) : (s.onCpu f).outputs = s.outputs := rfl

@[simp] theorem onStrands_cpu (s : State) (f : Strand → Strand) : (s.onStrands f).cpu = f s.cpu := rfl
@[simp] theorem onStrands_others (s : State) (f : Strand → Strand) : (s.onStrands f).others = s.others.map f := rfl
@[simp] theorem onStrands_agenda (s : State) (f : Strand → Strand) : (s.onStrands f).agenda = s.agenda := rfl
@[simp] theorem onStrands_background (s : State) (f : Strand → Strand) : (s.onStrands f).background = s.background := rfl
@[simp] theorem onStrands_arg (s : State) (f : Strand → Strand) : (s.onStrands f).arg = s.arg := rfl
@[simp] theorem onStrands_mem (s : State) (f : Strand → Strand) : (s.onStrands f).mem = s.mem := rfl
@[simp] theorem onStrands_poison (s : State) (f : Strand → Strand) : (s.onStrands f).poison = s.poison := rfl
@[simp] theorem onStrands_soft (s : State) (f : Strand → Strand) : (s.onStrands f).soft = s.soft := rfl
@[simp] theorem onStrands_hostMem (s : State) (f : Strand → Strand) : (s.onStrands f).hostMem = s.hostMem := rfl
@[simp] theorem onStrands_hostInv (s : State) (f : Strand → Strand) : (s.onStrands f).hostInv = s.hostInv := rfl
@[simp] theorem onStrands_cores (s : State) (f : Strand → Strand) : (s.onStrands f).cores = s.cores := rfl
@[simp] theorem onStrands_dies (s : State) (f : Strand → Strand) : (s.onStrands f).dies = s.dies := rfl
@[simp] theorem onStrands_chans (s : State) (f : Strand → Strand) : (s.onStrands f).chans = s.chans := rfl
@[simp] theorem onStrands_pkgs (s : State) (f : Strand → Strand) : (s.onStrands f).pkgs = s.pkgs := rfl
@[simp] theorem onStrands_vis (s : State) (f : Strand → Strand) : (s.onStrands f).vis = s.vis := rfl
@[simp] theorem onStrands_viPkgs (s : State) (f : Strand → Strand) : (s.onStrands f).viPkgs = s.viPkgs := rfl
@[simp] theorem onStrands_launches (s : State) (f : Strand → Strand) : (s.onStrands f).launches = s.launches := rfl
@[simp] theorem onStrands_pieces (s : State) (f : Strand → Strand) : (s.onStrands f).pieces = s.pieces := rfl
@[simp] theorem onStrands_wire (s : State) (f : Strand → Strand) : (s.onStrands f).wire = s.wire := rfl
@[simp] theorem onStrands_saved (s : State) (f : Strand → Strand) : (s.onStrands f).saved = s.saved := rfl
@[simp] theorem onStrands_loaded (s : State) (f : Strand → Strand) : (s.onStrands f).loaded = s.loaded := rfl
@[simp] theorem onStrands_pageIns (s : State) (f : Strand → Strand) : (s.onStrands f).pageIns = s.pageIns := rfl
@[simp] theorem onStrands_hostWaits (s : State) (f : Strand → Strand) : (s.onStrands f).hostWaits = s.hostWaits := rfl
@[simp] theorem onStrands_answered (s : State) (f : Strand → Strand) : (s.onStrands f).answered = s.answered := rfl
@[simp] theorem onStrands_time (s : State) (f : Strand → Strand) : (s.onStrands f).time = s.time := rfl
@[simp] theorem onStrands_free (s : State) (f : Strand → Strand) : (s.onStrands f).free = s.free := rfl
@[simp] theorem onStrands_next (s : State) (f : Strand → Strand) : (s.onStrands f).next = s.next := rfl
@[simp] theorem onStrands_outputs (s : State) (f : Strand → Strand) : (s.onStrands f).outputs = s.outputs := rfl

@[simp] theorem park_cpu (s : State) : (s.park).cpu = { s.cpu with parked := true } := rfl
@[simp] theorem park_others (s : State) : (s.park).others = s.others := rfl
@[simp] theorem park_agenda (s : State) : (s.park).agenda = s.agenda := rfl
@[simp] theorem park_background (s : State) : (s.park).background = s.background := rfl
@[simp] theorem park_arg (s : State) : (s.park).arg = s.arg := rfl
@[simp] theorem park_mem (s : State) : (s.park).mem = s.mem := rfl
@[simp] theorem park_poison (s : State) : (s.park).poison = s.poison := rfl
@[simp] theorem park_soft (s : State) : (s.park).soft = s.soft := rfl
@[simp] theorem park_hostMem (s : State) : (s.park).hostMem = s.hostMem := rfl
@[simp] theorem park_hostInv (s : State) : (s.park).hostInv = s.hostInv := rfl
@[simp] theorem park_cores (s : State) : (s.park).cores = s.cores := rfl
@[simp] theorem park_dies (s : State) : (s.park).dies = s.dies := rfl
@[simp] theorem park_chans (s : State) : (s.park).chans = s.chans := rfl
@[simp] theorem park_pkgs (s : State) : (s.park).pkgs = s.pkgs := rfl
@[simp] theorem park_vis (s : State) : (s.park).vis = s.vis := rfl
@[simp] theorem park_viPkgs (s : State) : (s.park).viPkgs = s.viPkgs := rfl
@[simp] theorem park_launches (s : State) : (s.park).launches = s.launches := rfl
@[simp] theorem park_pieces (s : State) : (s.park).pieces = s.pieces := rfl
@[simp] theorem park_wire (s : State) : (s.park).wire = s.wire := rfl
@[simp] theorem park_saved (s : State) : (s.park).saved = s.saved := rfl
@[simp] theorem park_loaded (s : State) : (s.park).loaded = s.loaded := rfl
@[simp] theorem park_pageIns (s : State) : (s.park).pageIns = s.pageIns := rfl
@[simp] theorem park_hostWaits (s : State) : (s.park).hostWaits = s.hostWaits := rfl
@[simp] theorem park_answered (s : State) : (s.park).answered = s.answered := rfl
@[simp] theorem park_time (s : State) : (s.park).time = s.time := rfl
@[simp] theorem park_free (s : State) : (s.park).free = s.free := rfl
@[simp] theorem park_next (s : State) : (s.park).next = s.next := rfl
@[simp] theorem park_outputs (s : State) : (s.park).outputs = s.outputs := rfl

@[simp] theorem commit_cpu (s : State) (n : Word) (f : Strand → Strand) : (s.commit n f).cpu = (f s.cpu).advance n := rfl
@[simp] theorem commit_others (s : State) (n : Word) (f : Strand → Strand) : (s.commit n f).others = s.others := rfl
@[simp] theorem commit_agenda (s : State) (n : Word) (f : Strand → Strand) : (s.commit n f).agenda = s.agenda := rfl
@[simp] theorem commit_background (s : State) (n : Word) (f : Strand → Strand) : (s.commit n f).background = s.background := rfl
@[simp] theorem commit_arg (s : State) (n : Word) (f : Strand → Strand) : (s.commit n f).arg = s.arg := rfl
@[simp] theorem commit_mem (s : State) (n : Word) (f : Strand → Strand) : (s.commit n f).mem = s.mem := rfl
@[simp] theorem commit_poison (s : State) (n : Word) (f : Strand → Strand) : (s.commit n f).poison = s.poison := rfl
@[simp] theorem commit_soft (s : State) (n : Word) (f : Strand → Strand) : (s.commit n f).soft = s.soft := rfl
@[simp] theorem commit_hostMem (s : State) (n : Word) (f : Strand → Strand) : (s.commit n f).hostMem = s.hostMem := rfl
@[simp] theorem commit_hostInv (s : State) (n : Word) (f : Strand → Strand) : (s.commit n f).hostInv = s.hostInv := rfl
@[simp] theorem commit_cores (s : State) (n : Word) (f : Strand → Strand) : (s.commit n f).cores = s.cores := rfl
@[simp] theorem commit_dies (s : State) (n : Word) (f : Strand → Strand) : (s.commit n f).dies = s.dies := rfl
@[simp] theorem commit_chans (s : State) (n : Word) (f : Strand → Strand) : (s.commit n f).chans = s.chans := rfl
@[simp] theorem commit_pkgs (s : State) (n : Word) (f : Strand → Strand) : (s.commit n f).pkgs = s.pkgs := rfl
@[simp] theorem commit_vis (s : State) (n : Word) (f : Strand → Strand) : (s.commit n f).vis = s.vis := rfl
@[simp] theorem commit_viPkgs (s : State) (n : Word) (f : Strand → Strand) : (s.commit n f).viPkgs = s.viPkgs := rfl
@[simp] theorem commit_launches (s : State) (n : Word) (f : Strand → Strand) : (s.commit n f).launches = s.launches := rfl
@[simp] theorem commit_pieces (s : State) (n : Word) (f : Strand → Strand) : (s.commit n f).pieces = s.pieces := rfl
@[simp] theorem commit_wire (s : State) (n : Word) (f : Strand → Strand) : (s.commit n f).wire = s.wire := rfl
@[simp] theorem commit_saved (s : State) (n : Word) (f : Strand → Strand) : (s.commit n f).saved = s.saved := rfl
@[simp] theorem commit_loaded (s : State) (n : Word) (f : Strand → Strand) : (s.commit n f).loaded = s.loaded := rfl
@[simp] theorem commit_pageIns (s : State) (n : Word) (f : Strand → Strand) : (s.commit n f).pageIns = s.pageIns := rfl
@[simp] theorem commit_hostWaits (s : State) (n : Word) (f : Strand → Strand) : (s.commit n f).hostWaits = s.hostWaits := rfl
@[simp] theorem commit_answered (s : State) (n : Word) (f : Strand → Strand) : (s.commit n f).answered = s.answered := rfl
@[simp] theorem commit_time (s : State) (n : Word) (f : Strand → Strand) : (s.commit n f).time = s.time := rfl
@[simp] theorem commit_free (s : State) (n : Word) (f : Strand → Strand) : (s.commit n f).free = s.free := rfl
@[simp] theorem commit_next (s : State) (n : Word) (f : Strand → Strand) : (s.commit n f).next = s.next := rfl
@[simp] theorem commit_outputs (s : State) (n : Word) (f : Strand → Strand) : (s.commit n f).outputs = s.outputs := rfl

@[simp] theorem retire_cpu (s : State) (f : Strand → Strand) : (s.retire f).cpu = (f s.cpu).retire := rfl
@[simp] theorem retire_others (s : State) (f : Strand → Strand) : (s.retire f).others = s.others := rfl
@[simp] theorem retire_agenda (s : State) (f : Strand → Strand) : (s.retire f).agenda = s.agenda := rfl
@[simp] theorem retire_background (s : State) (f : Strand → Strand) : (s.retire f).background = s.background := rfl
@[simp] theorem retire_arg (s : State) (f : Strand → Strand) : (s.retire f).arg = s.arg := rfl
@[simp] theorem retire_mem (s : State) (f : Strand → Strand) : (s.retire f).mem = s.mem := rfl
@[simp] theorem retire_poison (s : State) (f : Strand → Strand) : (s.retire f).poison = s.poison := rfl
@[simp] theorem retire_soft (s : State) (f : Strand → Strand) : (s.retire f).soft = s.soft := rfl
@[simp] theorem retire_hostMem (s : State) (f : Strand → Strand) : (s.retire f).hostMem = s.hostMem := rfl
@[simp] theorem retire_hostInv (s : State) (f : Strand → Strand) : (s.retire f).hostInv = s.hostInv := rfl
@[simp] theorem retire_cores (s : State) (f : Strand → Strand) : (s.retire f).cores = s.cores := rfl
@[simp] theorem retire_dies (s : State) (f : Strand → Strand) : (s.retire f).dies = s.dies := rfl
@[simp] theorem retire_chans (s : State) (f : Strand → Strand) : (s.retire f).chans = s.chans := rfl
@[simp] theorem retire_pkgs (s : State) (f : Strand → Strand) : (s.retire f).pkgs = s.pkgs := rfl
@[simp] theorem retire_vis (s : State) (f : Strand → Strand) : (s.retire f).vis = s.vis := rfl
@[simp] theorem retire_viPkgs (s : State) (f : Strand → Strand) : (s.retire f).viPkgs = s.viPkgs := rfl
@[simp] theorem retire_launches (s : State) (f : Strand → Strand) : (s.retire f).launches = s.launches := rfl
@[simp] theorem retire_pieces (s : State) (f : Strand → Strand) : (s.retire f).pieces = s.pieces := rfl
@[simp] theorem retire_wire (s : State) (f : Strand → Strand) : (s.retire f).wire = s.wire := rfl
@[simp] theorem retire_saved (s : State) (f : Strand → Strand) : (s.retire f).saved = s.saved := rfl
@[simp] theorem retire_loaded (s : State) (f : Strand → Strand) : (s.retire f).loaded = s.loaded := rfl
@[simp] theorem retire_pageIns (s : State) (f : Strand → Strand) : (s.retire f).pageIns = s.pageIns := rfl
@[simp] theorem retire_hostWaits (s : State) (f : Strand → Strand) : (s.retire f).hostWaits = s.hostWaits := rfl
@[simp] theorem retire_answered (s : State) (f : Strand → Strand) : (s.retire f).answered = s.answered := rfl
@[simp] theorem retire_time (s : State) (f : Strand → Strand) : (s.retire f).time = s.time := rfl
@[simp] theorem retire_free (s : State) (f : Strand → Strand) : (s.retire f).free = s.free := rfl
@[simp] theorem retire_next (s : State) (f : Strand → Strand) : (s.retire f).next = s.next := rfl
@[simp] theorem retire_outputs (s : State) (f : Strand → Strand) : (s.retire f).outputs = s.outputs := rfl

@[simp] theorem retireKeep_cpu (s : State) (f : Strand → Strand) : (s.retireKeep f).cpu = (f s.cpu).retireKeep := rfl
@[simp] theorem retireKeep_others (s : State) (f : Strand → Strand) : (s.retireKeep f).others = s.others := rfl
@[simp] theorem retireKeep_agenda (s : State) (f : Strand → Strand) : (s.retireKeep f).agenda = s.agenda := rfl
@[simp] theorem retireKeep_background (s : State) (f : Strand → Strand) : (s.retireKeep f).background = s.background := rfl
@[simp] theorem retireKeep_arg (s : State) (f : Strand → Strand) : (s.retireKeep f).arg = s.arg := rfl
@[simp] theorem retireKeep_mem (s : State) (f : Strand → Strand) : (s.retireKeep f).mem = s.mem := rfl
@[simp] theorem retireKeep_poison (s : State) (f : Strand → Strand) : (s.retireKeep f).poison = s.poison := rfl
@[simp] theorem retireKeep_soft (s : State) (f : Strand → Strand) : (s.retireKeep f).soft = s.soft := rfl
@[simp] theorem retireKeep_hostMem (s : State) (f : Strand → Strand) : (s.retireKeep f).hostMem = s.hostMem := rfl
@[simp] theorem retireKeep_hostInv (s : State) (f : Strand → Strand) : (s.retireKeep f).hostInv = s.hostInv := rfl
@[simp] theorem retireKeep_cores (s : State) (f : Strand → Strand) : (s.retireKeep f).cores = s.cores := rfl
@[simp] theorem retireKeep_dies (s : State) (f : Strand → Strand) : (s.retireKeep f).dies = s.dies := rfl
@[simp] theorem retireKeep_chans (s : State) (f : Strand → Strand) : (s.retireKeep f).chans = s.chans := rfl
@[simp] theorem retireKeep_pkgs (s : State) (f : Strand → Strand) : (s.retireKeep f).pkgs = s.pkgs := rfl
@[simp] theorem retireKeep_vis (s : State) (f : Strand → Strand) : (s.retireKeep f).vis = s.vis := rfl
@[simp] theorem retireKeep_viPkgs (s : State) (f : Strand → Strand) : (s.retireKeep f).viPkgs = s.viPkgs := rfl
@[simp] theorem retireKeep_launches (s : State) (f : Strand → Strand) : (s.retireKeep f).launches = s.launches := rfl
@[simp] theorem retireKeep_pieces (s : State) (f : Strand → Strand) : (s.retireKeep f).pieces = s.pieces := rfl
@[simp] theorem retireKeep_wire (s : State) (f : Strand → Strand) : (s.retireKeep f).wire = s.wire := rfl
@[simp] theorem retireKeep_saved (s : State) (f : Strand → Strand) : (s.retireKeep f).saved = s.saved := rfl
@[simp] theorem retireKeep_loaded (s : State) (f : Strand → Strand) : (s.retireKeep f).loaded = s.loaded := rfl
@[simp] theorem retireKeep_pageIns (s : State) (f : Strand → Strand) : (s.retireKeep f).pageIns = s.pageIns := rfl
@[simp] theorem retireKeep_hostWaits (s : State) (f : Strand → Strand) : (s.retireKeep f).hostWaits = s.hostWaits := rfl
@[simp] theorem retireKeep_answered (s : State) (f : Strand → Strand) : (s.retireKeep f).answered = s.answered := rfl
@[simp] theorem retireKeep_time (s : State) (f : Strand → Strand) : (s.retireKeep f).time = s.time := rfl
@[simp] theorem retireKeep_free (s : State) (f : Strand → Strand) : (s.retireKeep f).free = s.free := rfl
@[simp] theorem retireKeep_next (s : State) (f : Strand → Strand) : (s.retireKeep f).next = s.next := rfl
@[simp] theorem retireKeep_outputs (s : State) (f : Strand → Strand) : (s.retireKeep f).outputs = s.outputs := rfl

@[simp] theorem enterTrap_others (s : State) (x : Level) (c : Nat) (v e : Word) : (enterTrap s x c v e).others = s.others := rfl
@[simp] theorem enterTrap_agenda (s : State) (x : Level) (c : Nat) (v e : Word) : (enterTrap s x c v e).agenda = s.agenda := rfl
@[simp] theorem enterTrap_background (s : State) (x : Level) (c : Nat) (v e : Word) : (enterTrap s x c v e).background = s.background := rfl
@[simp] theorem enterTrap_arg (s : State) (x : Level) (c : Nat) (v e : Word) : (enterTrap s x c v e).arg = s.arg := rfl
@[simp] theorem enterTrap_mem (s : State) (x : Level) (c : Nat) (v e : Word) : (enterTrap s x c v e).mem = s.mem := rfl
@[simp] theorem enterTrap_poison (s : State) (x : Level) (c : Nat) (v e : Word) : (enterTrap s x c v e).poison = s.poison := rfl
@[simp] theorem enterTrap_soft (s : State) (x : Level) (c : Nat) (v e : Word) : (enterTrap s x c v e).soft = s.soft := rfl
@[simp] theorem enterTrap_hostMem (s : State) (x : Level) (c : Nat) (v e : Word) : (enterTrap s x c v e).hostMem = s.hostMem := rfl
@[simp] theorem enterTrap_hostInv (s : State) (x : Level) (c : Nat) (v e : Word) : (enterTrap s x c v e).hostInv = s.hostInv := rfl
@[simp] theorem enterTrap_cores (s : State) (x : Level) (c : Nat) (v e : Word) : (enterTrap s x c v e).cores = s.cores := rfl
@[simp] theorem enterTrap_dies (s : State) (x : Level) (c : Nat) (v e : Word) : (enterTrap s x c v e).dies = s.dies := rfl
@[simp] theorem enterTrap_chans (s : State) (x : Level) (c : Nat) (v e : Word) : (enterTrap s x c v e).chans = s.chans := rfl
@[simp] theorem enterTrap_pkgs (s : State) (x : Level) (c : Nat) (v e : Word) : (enterTrap s x c v e).pkgs = s.pkgs := rfl
@[simp] theorem enterTrap_vis (s : State) (x : Level) (c : Nat) (v e : Word) : (enterTrap s x c v e).vis = s.vis := rfl
@[simp] theorem enterTrap_viPkgs (s : State) (x : Level) (c : Nat) (v e : Word) : (enterTrap s x c v e).viPkgs = s.viPkgs := rfl
@[simp] theorem enterTrap_launches (s : State) (x : Level) (c : Nat) (v e : Word) : (enterTrap s x c v e).launches = s.launches := rfl
@[simp] theorem enterTrap_pieces (s : State) (x : Level) (c : Nat) (v e : Word) : (enterTrap s x c v e).pieces = s.pieces := rfl
@[simp] theorem enterTrap_wire (s : State) (x : Level) (c : Nat) (v e : Word) : (enterTrap s x c v e).wire = s.wire := rfl
@[simp] theorem enterTrap_saved (s : State) (x : Level) (c : Nat) (v e : Word) : (enterTrap s x c v e).saved = s.saved := rfl
@[simp] theorem enterTrap_loaded (s : State) (x : Level) (c : Nat) (v e : Word) : (enterTrap s x c v e).loaded = s.loaded := rfl
@[simp] theorem enterTrap_pageIns (s : State) (x : Level) (c : Nat) (v e : Word) : (enterTrap s x c v e).pageIns = s.pageIns := rfl
@[simp] theorem enterTrap_hostWaits (s : State) (x : Level) (c : Nat) (v e : Word) : (enterTrap s x c v e).hostWaits = s.hostWaits := rfl
@[simp] theorem enterTrap_answered (s : State) (x : Level) (c : Nat) (v e : Word) : (enterTrap s x c v e).answered = s.answered := rfl
@[simp] theorem enterTrap_time (s : State) (x : Level) (c : Nat) (v e : Word) : (enterTrap s x c v e).time = s.time := rfl
@[simp] theorem enterTrap_free (s : State) (x : Level) (c : Nat) (v e : Word) : (enterTrap s x c v e).free = s.free := rfl
@[simp] theorem enterTrap_next (s : State) (x : Level) (c : Nat) (v e : Word) : (enterTrap s x c v e).next = s.next := rfl
@[simp] theorem enterTrap_outputs (s : State) (x : Level) (c : Nat) (v e : Word) : (enterTrap s x c v e).outputs = s.outputs := rfl

/-! Updates of a strand. -/

@[simp] theorem advance_tid (t : Strand) (n : Word) : (t.advance n).tid = t.tid := rfl
@[simp] theorem advance_pkg (t : Strand) (n : Word) : (t.advance n).pkg = t.pkg := rfl
@[simp] theorem advance_die (t : Strand) (n : Word) : (t.advance n).die = t.die := rfl
@[simp] theorem advance_core (t : Strand) (n : Word) : (t.advance n).core = t.core := rfl
@[simp] theorem advance_slot (t : Strand) (n : Word) : (t.advance n).slot = t.slot := rfl
@[simp] theorem advance_vpkg (t : Strand) (n : Word) : (t.advance n).vpkg = t.vpkg := rfl
@[simp] theorem advance_vi (t : Strand) (n : Word) : (t.advance n).vi = t.vi := rfl
@[simp] theorem advance_lid (t : Strand) (n : Word) : (t.advance n).lid = t.lid := rfl
@[simp] theorem advance_index (t : Strand) (n : Word) : (t.advance n).index = t.index := rfl
@[simp] theorem advance_levels (t : Strand) (n : Word) : (t.advance n).levels = t.levels := rfl
@[simp] theorem advance_g (t : Strand) (n : Word) : (t.advance n).g = t.g := rfl
@[simp] theorem advance_k (t : Strand) (n : Word) : (t.advance n).k = t.k := rfl
@[simp] theorem advance_pc (t : Strand) (n : Word) : (t.advance n).pc = t.pc + n := rfl
@[simp] theorem advance_level (t : Strand) (n : Word) : (t.advance n).level = t.level := rfl
@[simp] theorem advance_mmode (t : Strand) (n : Word) : (t.advance n).mmode = t.mmode := rfl
@[simp] theorem advance_nv (t : Strand) (n : Word) : (t.advance n).nv = t.nv := rfl
@[simp] theorem advance_ew (t : Strand) (n : Word) : (t.advance n).ew = t.ew := rfl
@[simp] theorem advance_groups (t : Strand) (n : Word) : (t.advance n).groups = t.groups := rfl
@[simp] theorem advance_vl (t : Strand) (n : Word) : (t.advance n).vl = t.vl := rfl
@[simp] theorem advance_vstart (t : Strand) (n : Word) : (t.advance n).vstart = t.vstart := rfl
@[simp] theorem advance_v (t : Strand) (n : Word) : (t.advance n).v = t.v := rfl
@[simp] theorem advance_m (t : Strand) (n : Word) : (t.advance n).m = t.m := rfl
@[simp] theorem advance_mqOff (t : Strand) (n : Word) : (t.advance n).mqOff = t.mqOff := rfl
@[simp] theorem advance_vfs (t : Strand) (n : Word) : (t.advance n).vfs = t.vfs := rfl
@[simp] theorem advance_fpmode (t : Strand) (n : Word) : (t.advance n).fpmode = t.fpmode := rfl
@[simp] theorem advance_fpflags (t : Strand) (n : Word) : (t.advance n).fpflags = t.fpflags := rfl
@[simp] theorem advance_tiles (t : Strand) (n : Word) : (t.advance n).tiles = t.tiles := rfl
@[simp] theorem advance_held (t : Strand) (n : Word) : (t.advance n).held = t.held := rfl
@[simp] theorem advance_tm (t : Strand) (n : Word) : (t.advance n).tm = t.tm := rfl
@[simp] theorem advance_tn (t : Strand) (n : Word) : (t.advance n).tn = t.tn := rfl
@[simp] theorem advance_tk (t : Strand) (n : Word) : (t.advance n).tk = t.tk := rfl
@[simp] theorem advance_trow (t : Strand) (n : Word) : (t.advance n).trow = t.trow := rfl
@[simp] theorem advance_ttype (t : Strand) (n : Word) : (t.advance n).ttype = t.ttype := rfl
@[simp] theorem advance_sat (t : Strand) (n : Word) : (t.advance n).sat = t.sat := rfl
@[simp] theorem advance_td (t : Strand) (n : Word) : (t.advance n).td = t.td := rfl
@[simp] theorem advance_claims (t : Strand) (n : Word) : (t.advance n).claims = t.claims := rfl
@[simp] theorem advance_cc (t : Strand) (n : Word) : (t.advance n).cc = t.cc := rfl
@[simp] theorem advance_bnd (t : Strand) (n : Word) : (t.advance n).bnd = t.bnd := rfl
@[simp] theorem advance_deadline (t : Strand) (n : Word) : (t.advance n).deadline = t.deadline := rfl
@[simp] theorem advance_trapS (t : Strand) (n : Word) : (t.advance n).trapS = t.trapS := rfl
@[simp] theorem advance_trapH (t : Strand) (n : Word) : (t.advance n).trapH = t.trapH := rfl
@[simp] theorem advance_evDoorbell (t : Strand) (n : Word) : (t.advance n).evDoorbell = t.evDoorbell := rfl
@[simp] theorem advance_evWatch (t : Strand) (n : Word) : (t.advance n).evWatch = t.evWatch := rfl
@[simp] theorem advance_kbase (t : Strand) (n : Word) : (t.advance n).kbase = t.kbase := rfl
@[simp] theorem advance_kbaseH (t : Strand) (n : Word) : (t.advance n).kbaseH = t.kbaseH := rfl
@[simp] theorem advance_scratchbase (t : Strand) (n : Word) : (t.advance n).scratchbase = t.scratchbase := rfl
@[simp] theorem advance_stepArm (t : Strand) (n : Word) : (t.advance n).stepArm = t.stepArm := rfl
@[simp] theorem advance_stepAt (t : Strand) (n : Word) : (t.advance n).stepAt = t.stepAt := rfl
@[simp] theorem advance_stepDone (t : Strand) (n : Word) : (t.advance n).stepDone = t.stepped := rfl
@[simp] theorem advance_queue (t : Strand) (n : Word) : (t.advance n).queue = t.queue := rfl
@[simp] theorem advance_holdS (t : Strand) (n : Word) : (t.advance n).holdS = t.holdS := rfl
@[simp] theorem advance_holdH (t : Strand) (n : Word) : (t.advance n).holdH = t.holdH := rfl
@[simp] theorem advance_trip (t : Strand) (n : Word) : (t.advance n).trip = t.trip := rfl
@[simp] theorem advance_deferred (t : Strand) (n : Word) : (t.advance n).deferred = t.deferred := rfl
@[simp] theorem advance_parked (t : Strand) (n : Word) : (t.advance n).parked = false := rfl
@[simp] theorem advance_exiting (t : Strand) (n : Word) : (t.advance n).exiting = t.exiting := rfl
@[simp] theorem advance_watch (t : Strand) (n : Word) : (t.advance n).watch = t.watch := rfl
@[simp] theorem advance_watchVa (t : Strand) (n : Word) : (t.advance n).watchVa = t.watchVa := rfl
@[simp] theorem advance_watchSlow (t : Strand) (n : Word) : (t.advance n).watchSlow = t.watchSlow := rfl
@[simp] theorem advance_watched (t : Strand) (n : Word) : (t.advance n).watched = t.watched := rfl
@[simp] theorem advance_watchFull (t : Strand) (n : Word) : (t.advance n).watchFull = t.watchFull := rfl
@[simp] theorem advance_links (t : Strand) (n : Word) : (t.advance n).links = t.links := rfl
@[simp] theorem advance_prefetch (t : Strand) (n : Word) : (t.advance n).prefetch = t.prefetch := rfl
@[simp] theorem advance_poison (t : Strand) (n : Word) : (t.advance n).poison = t.poison := rfl
@[simp] theorem advance_healed (t : Strand) (n : Word) : (t.advance n).healed = t.healed := rfl
@[simp] theorem advance_soft (t : Strand) (n : Word) : (t.advance n).soft = t.soft := rfl
@[simp] theorem advance_runs (t : Strand) (n : Word) : (t.advance n).runs = t.runs := rfl
@[simp] theorem advance_runCounts (t : Strand) (n : Word) : (t.advance n).runCounts = t.runCounts := rfl
@[simp] theorem advance_flagBytes (t : Strand) (n : Word) : (t.advance n).flagBytes = t.flagBytes := rfl
@[simp] theorem advance_arrivals (t : Strand) (n : Word) : (t.advance n).arrivals = t.arrivals := rfl
@[simp] theorem advance_arrived (t : Strand) (n : Word) : (t.advance n).arrived = t.arrived := rfl
@[simp] theorem advance_entering (t : Strand) (n : Word) : (t.advance n).entering = t.entering := rfl
@[simp] theorem advance_order (t : Strand) (n : Word) : (t.advance n).order = t.order := rfl
@[simp] theorem advance_deferSince (t : Strand) (n : Word) : (t.advance n).deferSince = t.deferSince := rfl

@[simp] theorem strand_retireKeep_tid (t : Strand) : (t.retireKeep).tid = t.tid := rfl
@[simp] theorem strand_retireKeep_pkg (t : Strand) : (t.retireKeep).pkg = t.pkg := rfl
@[simp] theorem strand_retireKeep_die (t : Strand) : (t.retireKeep).die = t.die := rfl
@[simp] theorem strand_retireKeep_core (t : Strand) : (t.retireKeep).core = t.core := rfl
@[simp] theorem strand_retireKeep_slot (t : Strand) : (t.retireKeep).slot = t.slot := rfl
@[simp] theorem strand_retireKeep_vpkg (t : Strand) : (t.retireKeep).vpkg = t.vpkg := rfl
@[simp] theorem strand_retireKeep_vi (t : Strand) : (t.retireKeep).vi = t.vi := rfl
@[simp] theorem strand_retireKeep_lid (t : Strand) : (t.retireKeep).lid = t.lid := rfl
@[simp] theorem strand_retireKeep_index (t : Strand) : (t.retireKeep).index = t.index := rfl
@[simp] theorem strand_retireKeep_levels (t : Strand) : (t.retireKeep).levels = t.levels := rfl
@[simp] theorem strand_retireKeep_g (t : Strand) : (t.retireKeep).g = t.g := rfl
@[simp] theorem strand_retireKeep_k (t : Strand) : (t.retireKeep).k = t.k := rfl
@[simp] theorem strand_retireKeep_pc (t : Strand) : (t.retireKeep).pc = t.pc := rfl
@[simp] theorem strand_retireKeep_level (t : Strand) : (t.retireKeep).level = t.level := rfl
@[simp] theorem strand_retireKeep_mmode (t : Strand) : (t.retireKeep).mmode = t.mmode := rfl
@[simp] theorem strand_retireKeep_nv (t : Strand) : (t.retireKeep).nv = t.nv := rfl
@[simp] theorem strand_retireKeep_ew (t : Strand) : (t.retireKeep).ew = t.ew := rfl
@[simp] theorem strand_retireKeep_groups (t : Strand) : (t.retireKeep).groups = t.groups := rfl
@[simp] theorem strand_retireKeep_vl (t : Strand) : (t.retireKeep).vl = t.vl := rfl
@[simp] theorem strand_retireKeep_vstart (t : Strand) : (t.retireKeep).vstart = t.vstart := rfl
@[simp] theorem strand_retireKeep_v (t : Strand) : (t.retireKeep).v = t.v := rfl
@[simp] theorem strand_retireKeep_m (t : Strand) : (t.retireKeep).m = t.m := rfl
@[simp] theorem strand_retireKeep_mqOff (t : Strand) : (t.retireKeep).mqOff = t.mqOff := rfl
@[simp] theorem strand_retireKeep_vfs (t : Strand) : (t.retireKeep).vfs = t.vfs := rfl
@[simp] theorem strand_retireKeep_fpmode (t : Strand) : (t.retireKeep).fpmode = t.fpmode := rfl
@[simp] theorem strand_retireKeep_fpflags (t : Strand) : (t.retireKeep).fpflags = t.fpflags := rfl
@[simp] theorem strand_retireKeep_tiles (t : Strand) : (t.retireKeep).tiles = t.tiles := rfl
@[simp] theorem strand_retireKeep_held (t : Strand) : (t.retireKeep).held = t.held := rfl
@[simp] theorem strand_retireKeep_tm (t : Strand) : (t.retireKeep).tm = t.tm := rfl
@[simp] theorem strand_retireKeep_tn (t : Strand) : (t.retireKeep).tn = t.tn := rfl
@[simp] theorem strand_retireKeep_tk (t : Strand) : (t.retireKeep).tk = t.tk := rfl
@[simp] theorem strand_retireKeep_trow (t : Strand) : (t.retireKeep).trow = t.trow := rfl
@[simp] theorem strand_retireKeep_ttype (t : Strand) : (t.retireKeep).ttype = t.ttype := rfl
@[simp] theorem strand_retireKeep_sat (t : Strand) : (t.retireKeep).sat = t.sat := rfl
@[simp] theorem strand_retireKeep_td (t : Strand) : (t.retireKeep).td = t.td := rfl
@[simp] theorem strand_retireKeep_claims (t : Strand) : (t.retireKeep).claims = t.claims := rfl
@[simp] theorem strand_retireKeep_cc (t : Strand) : (t.retireKeep).cc = t.cc := rfl
@[simp] theorem strand_retireKeep_bnd (t : Strand) : (t.retireKeep).bnd = t.bnd := rfl
@[simp] theorem strand_retireKeep_deadline (t : Strand) : (t.retireKeep).deadline = t.deadline := rfl
@[simp] theorem strand_retireKeep_trapS (t : Strand) : (t.retireKeep).trapS = t.trapS := rfl
@[simp] theorem strand_retireKeep_trapH (t : Strand) : (t.retireKeep).trapH = t.trapH := rfl
@[simp] theorem strand_retireKeep_evDoorbell (t : Strand) : (t.retireKeep).evDoorbell = t.evDoorbell := rfl
@[simp] theorem strand_retireKeep_evWatch (t : Strand) : (t.retireKeep).evWatch = t.evWatch := rfl
@[simp] theorem strand_retireKeep_kbase (t : Strand) : (t.retireKeep).kbase = t.kbase := rfl
@[simp] theorem strand_retireKeep_kbaseH (t : Strand) : (t.retireKeep).kbaseH = t.kbaseH := rfl
@[simp] theorem strand_retireKeep_scratchbase (t : Strand) : (t.retireKeep).scratchbase = t.scratchbase := rfl
@[simp] theorem strand_retireKeep_stepArm (t : Strand) : (t.retireKeep).stepArm = t.stepArm := rfl
@[simp] theorem strand_retireKeep_stepAt (t : Strand) : (t.retireKeep).stepAt = t.stepAt := rfl
@[simp] theorem strand_retireKeep_stepDone (t : Strand) : (t.retireKeep).stepDone = t.stepped := rfl
@[simp] theorem strand_retireKeep_queue (t : Strand) : (t.retireKeep).queue = t.queue.drop 1 := rfl
@[simp] theorem strand_retireKeep_holdS (t : Strand) : (t.retireKeep).holdS = t.holdS := rfl
@[simp] theorem strand_retireKeep_holdH (t : Strand) : (t.retireKeep).holdH = t.holdH := rfl
@[simp] theorem strand_retireKeep_trip (t : Strand) : (t.retireKeep).trip = t.trip := rfl
@[simp] theorem strand_retireKeep_deferred (t : Strand) : (t.retireKeep).deferred = t.deferred := rfl
@[simp] theorem strand_retireKeep_parked (t : Strand) : (t.retireKeep).parked = false := rfl
@[simp] theorem strand_retireKeep_exiting (t : Strand) : (t.retireKeep).exiting = t.exiting := rfl
@[simp] theorem strand_retireKeep_watch (t : Strand) : (t.retireKeep).watch = t.watch := rfl
@[simp] theorem strand_retireKeep_watchVa (t : Strand) : (t.retireKeep).watchVa = t.watchVa := rfl
@[simp] theorem strand_retireKeep_watchSlow (t : Strand) : (t.retireKeep).watchSlow = t.watchSlow := rfl
@[simp] theorem strand_retireKeep_watched (t : Strand) : (t.retireKeep).watched = [] := rfl
@[simp] theorem strand_retireKeep_watchFull (t : Strand) : (t.retireKeep).watchFull = false := rfl
@[simp] theorem strand_retireKeep_links (t : Strand) : (t.retireKeep).links = t.links := rfl
@[simp] theorem strand_retireKeep_prefetch (t : Strand) : (t.retireKeep).prefetch = t.prefetch := rfl
@[simp] theorem strand_retireKeep_poison (t : Strand) : (t.retireKeep).poison = t.poison := rfl
@[simp] theorem strand_retireKeep_healed (t : Strand) : (t.retireKeep).healed = [] := rfl
@[simp] theorem strand_retireKeep_soft (t : Strand) : (t.retireKeep).soft = t.soft := rfl
@[simp] theorem strand_retireKeep_runs (t : Strand) : (t.retireKeep).runs = t.runs := rfl
@[simp] theorem strand_retireKeep_runCounts (t : Strand) : (t.retireKeep).runCounts = t.runCounts := rfl
@[simp] theorem strand_retireKeep_flagBytes (t : Strand) : (t.retireKeep).flagBytes = t.flagBytes := rfl
@[simp] theorem strand_retireKeep_arrivals (t : Strand) : (t.retireKeep).arrivals = t.arrivals := rfl
@[simp] theorem strand_retireKeep_arrived (t : Strand) : (t.retireKeep).arrived = false := rfl
@[simp] theorem strand_retireKeep_entering (t : Strand) : (t.retireKeep).entering = t.entering := rfl
@[simp] theorem strand_retireKeep_order (t : Strand) : (t.retireKeep).order = t.order := rfl
@[simp] theorem strand_retireKeep_deferSince (t : Strand) : (t.retireKeep).deferSince = t.deferSince := rfl

@[simp] theorem strand_retire_tid (t : Strand) : (t.retire).tid = t.tid := rfl
@[simp] theorem strand_retire_pkg (t : Strand) : (t.retire).pkg = t.pkg := rfl
@[simp] theorem strand_retire_die (t : Strand) : (t.retire).die = t.die := rfl
@[simp] theorem strand_retire_core (t : Strand) : (t.retire).core = t.core := rfl
@[simp] theorem strand_retire_slot (t : Strand) : (t.retire).slot = t.slot := rfl
@[simp] theorem strand_retire_vpkg (t : Strand) : (t.retire).vpkg = t.vpkg := rfl
@[simp] theorem strand_retire_vi (t : Strand) : (t.retire).vi = t.vi := rfl
@[simp] theorem strand_retire_lid (t : Strand) : (t.retire).lid = t.lid := rfl
@[simp] theorem strand_retire_index (t : Strand) : (t.retire).index = t.index := rfl
@[simp] theorem strand_retire_levels (t : Strand) : (t.retire).levels = t.levels := rfl
@[simp] theorem strand_retire_g (t : Strand) : (t.retire).g = t.g := rfl
@[simp] theorem strand_retire_k (t : Strand) : (t.retire).k = t.k := rfl
@[simp] theorem strand_retire_pc (t : Strand) : (t.retire).pc = t.pc := rfl
@[simp] theorem strand_retire_level (t : Strand) : (t.retire).level = t.level := rfl
@[simp] theorem strand_retire_mmode (t : Strand) : (t.retire).mmode = t.mmode := rfl
@[simp] theorem strand_retire_nv (t : Strand) : (t.retire).nv = t.nv := rfl
@[simp] theorem strand_retire_ew (t : Strand) : (t.retire).ew = t.ew := rfl
@[simp] theorem strand_retire_groups (t : Strand) : (t.retire).groups = t.groups := rfl
@[simp] theorem strand_retire_vl (t : Strand) : (t.retire).vl = t.vl := rfl
@[simp] theorem strand_retire_vstart (t : Strand) : (t.retire).vstart = 0 := rfl
@[simp] theorem strand_retire_v (t : Strand) : (t.retire).v = t.v := rfl
@[simp] theorem strand_retire_m (t : Strand) : (t.retire).m = t.m := rfl
@[simp] theorem strand_retire_mqOff (t : Strand) : (t.retire).mqOff = t.mqOff := rfl
@[simp] theorem strand_retire_vfs (t : Strand) : (t.retire).vfs = t.vfs := rfl
@[simp] theorem strand_retire_fpmode (t : Strand) : (t.retire).fpmode = t.fpmode := rfl
@[simp] theorem strand_retire_fpflags (t : Strand) : (t.retire).fpflags = t.fpflags := rfl
@[simp] theorem strand_retire_tiles (t : Strand) : (t.retire).tiles = t.tiles := rfl
@[simp] theorem strand_retire_held (t : Strand) : (t.retire).held = t.held := rfl
@[simp] theorem strand_retire_tm (t : Strand) : (t.retire).tm = t.tm := rfl
@[simp] theorem strand_retire_tn (t : Strand) : (t.retire).tn = t.tn := rfl
@[simp] theorem strand_retire_tk (t : Strand) : (t.retire).tk = t.tk := rfl
@[simp] theorem strand_retire_trow (t : Strand) : (t.retire).trow = t.trow := rfl
@[simp] theorem strand_retire_ttype (t : Strand) : (t.retire).ttype = t.ttype := rfl
@[simp] theorem strand_retire_sat (t : Strand) : (t.retire).sat = t.sat := rfl
@[simp] theorem strand_retire_td (t : Strand) : (t.retire).td = t.td := rfl
@[simp] theorem strand_retire_claims (t : Strand) : (t.retire).claims = t.claims := rfl
@[simp] theorem strand_retire_cc (t : Strand) : (t.retire).cc = t.cc := rfl
@[simp] theorem strand_retire_bnd (t : Strand) : (t.retire).bnd = t.bnd := rfl
@[simp] theorem strand_retire_deadline (t : Strand) : (t.retire).deadline = t.deadline := rfl
@[simp] theorem strand_retire_trapS (t : Strand) : (t.retire).trapS = t.trapS := rfl
@[simp] theorem strand_retire_trapH (t : Strand) : (t.retire).trapH = t.trapH := rfl
@[simp] theorem strand_retire_evDoorbell (t : Strand) : (t.retire).evDoorbell = t.evDoorbell := rfl
@[simp] theorem strand_retire_evWatch (t : Strand) : (t.retire).evWatch = t.evWatch := rfl
@[simp] theorem strand_retire_kbase (t : Strand) : (t.retire).kbase = t.kbase := rfl
@[simp] theorem strand_retire_kbaseH (t : Strand) : (t.retire).kbaseH = t.kbaseH := rfl
@[simp] theorem strand_retire_scratchbase (t : Strand) : (t.retire).scratchbase = t.scratchbase := rfl
@[simp] theorem strand_retire_stepArm (t : Strand) : (t.retire).stepArm = t.stepArm := rfl
@[simp] theorem strand_retire_stepAt (t : Strand) : (t.retire).stepAt = t.stepAt := rfl
@[simp] theorem strand_retire_stepDone (t : Strand) : (t.retire).stepDone = t.stepped := rfl
@[simp] theorem strand_retire_queue (t : Strand) : (t.retire).queue = t.queue.drop 1 := rfl
@[simp] theorem strand_retire_holdS (t : Strand) : (t.retire).holdS = t.holdS := rfl
@[simp] theorem strand_retire_holdH (t : Strand) : (t.retire).holdH = t.holdH := rfl
@[simp] theorem strand_retire_trip (t : Strand) : (t.retire).trip = t.trip := rfl
@[simp] theorem strand_retire_deferred (t : Strand) : (t.retire).deferred = t.deferred := rfl
@[simp] theorem strand_retire_parked (t : Strand) : (t.retire).parked = false := rfl
@[simp] theorem strand_retire_exiting (t : Strand) : (t.retire).exiting = t.exiting := rfl
@[simp] theorem strand_retire_watch (t : Strand) : (t.retire).watch = t.watch := rfl
@[simp] theorem strand_retire_watchVa (t : Strand) : (t.retire).watchVa = t.watchVa := rfl
@[simp] theorem strand_retire_watchSlow (t : Strand) : (t.retire).watchSlow = t.watchSlow := rfl
@[simp] theorem strand_retire_watched (t : Strand) : (t.retire).watched = [] := rfl
@[simp] theorem strand_retire_watchFull (t : Strand) : (t.retire).watchFull = false := rfl
@[simp] theorem strand_retire_links (t : Strand) : (t.retire).links = t.links := rfl
@[simp] theorem strand_retire_prefetch (t : Strand) : (t.retire).prefetch = t.prefetch := rfl
@[simp] theorem strand_retire_poison (t : Strand) : (t.retire).poison = t.poison := rfl
@[simp] theorem strand_retire_healed (t : Strand) : (t.retire).healed = [] := rfl
@[simp] theorem strand_retire_soft (t : Strand) : (t.retire).soft = t.soft := rfl
@[simp] theorem strand_retire_runs (t : Strand) : (t.retire).runs = t.runs := rfl
@[simp] theorem strand_retire_runCounts (t : Strand) : (t.retire).runCounts = t.runCounts := rfl
@[simp] theorem strand_retire_flagBytes (t : Strand) : (t.retire).flagBytes = t.flagBytes := rfl
@[simp] theorem strand_retire_arrivals (t : Strand) : (t.retire).arrivals = t.arrivals := rfl
@[simp] theorem strand_retire_arrived (t : Strand) : (t.retire).arrived = false := rfl
@[simp] theorem strand_retire_entering (t : Strand) : (t.retire).entering = t.entering := rfl
@[simp] theorem strand_retire_order (t : Strand) : (t.retire).order = t.order := rfl
@[simp] theorem strand_retire_deferSince (t : Strand) : (t.retire).deferSince = t.deferSince := rfl

@[simp] theorem orFlags_tid (t : Strand) (f : Flags) : (t.orFlags f).tid = t.tid := rfl
@[simp] theorem orFlags_pkg (t : Strand) (f : Flags) : (t.orFlags f).pkg = t.pkg := rfl
@[simp] theorem orFlags_die (t : Strand) (f : Flags) : (t.orFlags f).die = t.die := rfl
@[simp] theorem orFlags_core (t : Strand) (f : Flags) : (t.orFlags f).core = t.core := rfl
@[simp] theorem orFlags_slot (t : Strand) (f : Flags) : (t.orFlags f).slot = t.slot := rfl
@[simp] theorem orFlags_vpkg (t : Strand) (f : Flags) : (t.orFlags f).vpkg = t.vpkg := rfl
@[simp] theorem orFlags_vi (t : Strand) (f : Flags) : (t.orFlags f).vi = t.vi := rfl
@[simp] theorem orFlags_lid (t : Strand) (f : Flags) : (t.orFlags f).lid = t.lid := rfl
@[simp] theorem orFlags_index (t : Strand) (f : Flags) : (t.orFlags f).index = t.index := rfl
@[simp] theorem orFlags_levels (t : Strand) (f : Flags) : (t.orFlags f).levels = t.levels := rfl
@[simp] theorem orFlags_g (t : Strand) (f : Flags) : (t.orFlags f).g = t.g := rfl
@[simp] theorem orFlags_k (t : Strand) (f : Flags) : (t.orFlags f).k = t.k := rfl
@[simp] theorem orFlags_pc (t : Strand) (f : Flags) : (t.orFlags f).pc = t.pc := rfl
@[simp] theorem orFlags_level (t : Strand) (f : Flags) : (t.orFlags f).level = t.level := rfl
@[simp] theorem orFlags_mmode (t : Strand) (f : Flags) : (t.orFlags f).mmode = t.mmode := rfl
@[simp] theorem orFlags_nv (t : Strand) (f : Flags) : (t.orFlags f).nv = t.nv := rfl
@[simp] theorem orFlags_ew (t : Strand) (f : Flags) : (t.orFlags f).ew = t.ew := rfl
@[simp] theorem orFlags_groups (t : Strand) (f : Flags) : (t.orFlags f).groups = t.groups := rfl
@[simp] theorem orFlags_vl (t : Strand) (f : Flags) : (t.orFlags f).vl = t.vl := rfl
@[simp] theorem orFlags_vstart (t : Strand) (f : Flags) : (t.orFlags f).vstart = t.vstart := rfl
@[simp] theorem orFlags_v (t : Strand) (f : Flags) : (t.orFlags f).v = t.v := rfl
@[simp] theorem orFlags_m (t : Strand) (f : Flags) : (t.orFlags f).m = t.m := rfl
@[simp] theorem orFlags_mqOff (t : Strand) (f : Flags) : (t.orFlags f).mqOff = t.mqOff := rfl
@[simp] theorem orFlags_vfs (t : Strand) (f : Flags) : (t.orFlags f).vfs = t.vfs := rfl
@[simp] theorem orFlags_fpmode (t : Strand) (f : Flags) : (t.orFlags f).fpmode = t.fpmode := rfl
@[simp] theorem orFlags_fpflags (t : Strand) (f : Flags) : (t.orFlags f).fpflags = t.fpflags ||| f := rfl
@[simp] theorem orFlags_tiles (t : Strand) (f : Flags) : (t.orFlags f).tiles = t.tiles := rfl
@[simp] theorem orFlags_held (t : Strand) (f : Flags) : (t.orFlags f).held = t.held := rfl
@[simp] theorem orFlags_tm (t : Strand) (f : Flags) : (t.orFlags f).tm = t.tm := rfl
@[simp] theorem orFlags_tn (t : Strand) (f : Flags) : (t.orFlags f).tn = t.tn := rfl
@[simp] theorem orFlags_tk (t : Strand) (f : Flags) : (t.orFlags f).tk = t.tk := rfl
@[simp] theorem orFlags_trow (t : Strand) (f : Flags) : (t.orFlags f).trow = t.trow := rfl
@[simp] theorem orFlags_ttype (t : Strand) (f : Flags) : (t.orFlags f).ttype = t.ttype := rfl
@[simp] theorem orFlags_sat (t : Strand) (f : Flags) : (t.orFlags f).sat = t.sat := rfl
@[simp] theorem orFlags_td (t : Strand) (f : Flags) : (t.orFlags f).td = t.td := rfl
@[simp] theorem orFlags_claims (t : Strand) (f : Flags) : (t.orFlags f).claims = t.claims := rfl
@[simp] theorem orFlags_cc (t : Strand) (f : Flags) : (t.orFlags f).cc = t.cc := rfl
@[simp] theorem orFlags_bnd (t : Strand) (f : Flags) : (t.orFlags f).bnd = t.bnd := rfl
@[simp] theorem orFlags_deadline (t : Strand) (f : Flags) : (t.orFlags f).deadline = t.deadline := rfl
@[simp] theorem orFlags_trapS (t : Strand) (f : Flags) : (t.orFlags f).trapS = t.trapS := rfl
@[simp] theorem orFlags_trapH (t : Strand) (f : Flags) : (t.orFlags f).trapH = t.trapH := rfl
@[simp] theorem orFlags_evDoorbell (t : Strand) (f : Flags) : (t.orFlags f).evDoorbell = t.evDoorbell := rfl
@[simp] theorem orFlags_evWatch (t : Strand) (f : Flags) : (t.orFlags f).evWatch = t.evWatch := rfl
@[simp] theorem orFlags_kbase (t : Strand) (f : Flags) : (t.orFlags f).kbase = t.kbase := rfl
@[simp] theorem orFlags_kbaseH (t : Strand) (f : Flags) : (t.orFlags f).kbaseH = t.kbaseH := rfl
@[simp] theorem orFlags_scratchbase (t : Strand) (f : Flags) : (t.orFlags f).scratchbase = t.scratchbase := rfl
@[simp] theorem orFlags_stepArm (t : Strand) (f : Flags) : (t.orFlags f).stepArm = t.stepArm := rfl
@[simp] theorem orFlags_stepAt (t : Strand) (f : Flags) : (t.orFlags f).stepAt = t.stepAt := rfl
@[simp] theorem orFlags_stepDone (t : Strand) (f : Flags) : (t.orFlags f).stepDone = t.stepDone := rfl
@[simp] theorem orFlags_queue (t : Strand) (f : Flags) : (t.orFlags f).queue = t.queue := rfl
@[simp] theorem orFlags_holdS (t : Strand) (f : Flags) : (t.orFlags f).holdS = t.holdS := rfl
@[simp] theorem orFlags_holdH (t : Strand) (f : Flags) : (t.orFlags f).holdH = t.holdH := rfl
@[simp] theorem orFlags_trip (t : Strand) (f : Flags) : (t.orFlags f).trip = t.trip := rfl
@[simp] theorem orFlags_deferred (t : Strand) (f : Flags) : (t.orFlags f).deferred = t.deferred := rfl
@[simp] theorem orFlags_parked (t : Strand) (f : Flags) : (t.orFlags f).parked = t.parked := rfl
@[simp] theorem orFlags_exiting (t : Strand) (f : Flags) : (t.orFlags f).exiting = t.exiting := rfl
@[simp] theorem orFlags_watch (t : Strand) (f : Flags) : (t.orFlags f).watch = t.watch := rfl
@[simp] theorem orFlags_watchVa (t : Strand) (f : Flags) : (t.orFlags f).watchVa = t.watchVa := rfl
@[simp] theorem orFlags_watchSlow (t : Strand) (f : Flags) : (t.orFlags f).watchSlow = t.watchSlow := rfl
@[simp] theorem orFlags_watched (t : Strand) (f : Flags) : (t.orFlags f).watched = t.watched := rfl
@[simp] theorem orFlags_watchFull (t : Strand) (f : Flags) : (t.orFlags f).watchFull = t.watchFull := rfl
@[simp] theorem orFlags_links (t : Strand) (f : Flags) : (t.orFlags f).links = t.links := rfl
@[simp] theorem orFlags_prefetch (t : Strand) (f : Flags) : (t.orFlags f).prefetch = t.prefetch := rfl
@[simp] theorem orFlags_poison (t : Strand) (f : Flags) : (t.orFlags f).poison = t.poison := rfl
@[simp] theorem orFlags_healed (t : Strand) (f : Flags) : (t.orFlags f).healed = t.healed := rfl
@[simp] theorem orFlags_soft (t : Strand) (f : Flags) : (t.orFlags f).soft = t.soft := rfl
@[simp] theorem orFlags_runs (t : Strand) (f : Flags) : (t.orFlags f).runs = t.runs := rfl
@[simp] theorem orFlags_runCounts (t : Strand) (f : Flags) : (t.orFlags f).runCounts = t.runCounts := rfl
@[simp] theorem orFlags_flagBytes (t : Strand) (f : Flags) : (t.orFlags f).flagBytes = t.flagBytes := rfl
@[simp] theorem orFlags_arrivals (t : Strand) (f : Flags) : (t.orFlags f).arrivals = t.arrivals := rfl
@[simp] theorem orFlags_arrived (t : Strand) (f : Flags) : (t.orFlags f).arrived = t.arrived := rfl
@[simp] theorem orFlags_entering (t : Strand) (f : Flags) : (t.orFlags f).entering = t.entering := rfl
@[simp] theorem orFlags_order (t : Strand) (f : Flags) : (t.orFlags f).order = t.order := rfl
@[simp] theorem orFlags_deferSince (t : Strand) (f : Flags) : (t.orFlags f).deferSince = t.deferSince := rfl

@[simp] theorem writeK_tid (t : Strand) (n : Nat) (x : Word) : (t.writeK n x).tid = t.tid := rfl
@[simp] theorem writeK_pkg (t : Strand) (n : Nat) (x : Word) : (t.writeK n x).pkg = t.pkg := rfl
@[simp] theorem writeK_die (t : Strand) (n : Nat) (x : Word) : (t.writeK n x).die = t.die := rfl
@[simp] theorem writeK_core (t : Strand) (n : Nat) (x : Word) : (t.writeK n x).core = t.core := rfl
@[simp] theorem writeK_slot (t : Strand) (n : Nat) (x : Word) : (t.writeK n x).slot = t.slot := rfl
@[simp] theorem writeK_vpkg (t : Strand) (n : Nat) (x : Word) : (t.writeK n x).vpkg = t.vpkg := rfl
@[simp] theorem writeK_vi (t : Strand) (n : Nat) (x : Word) : (t.writeK n x).vi = t.vi := rfl
@[simp] theorem writeK_lid (t : Strand) (n : Nat) (x : Word) : (t.writeK n x).lid = t.lid := rfl
@[simp] theorem writeK_index (t : Strand) (n : Nat) (x : Word) : (t.writeK n x).index = t.index := rfl
@[simp] theorem writeK_levels (t : Strand) (n : Nat) (x : Word) : (t.writeK n x).levels = t.levels := rfl
@[simp] theorem writeK_g (t : Strand) (n : Nat) (x : Word) : (t.writeK n x).g = t.g := rfl
@[simp] theorem writeK_k (t : Strand) (n : Nat) (x : Word) : (t.writeK n x).k = cellSet 0 t.k n x := rfl
@[simp] theorem writeK_pc (t : Strand) (n : Nat) (x : Word) : (t.writeK n x).pc = t.pc := rfl
@[simp] theorem writeK_level (t : Strand) (n : Nat) (x : Word) : (t.writeK n x).level = t.level := rfl
@[simp] theorem writeK_mmode (t : Strand) (n : Nat) (x : Word) : (t.writeK n x).mmode = t.mmode := rfl
@[simp] theorem writeK_nv (t : Strand) (n : Nat) (x : Word) : (t.writeK n x).nv = t.nv := rfl
@[simp] theorem writeK_ew (t : Strand) (n : Nat) (x : Word) : (t.writeK n x).ew = t.ew := rfl
@[simp] theorem writeK_groups (t : Strand) (n : Nat) (x : Word) : (t.writeK n x).groups = t.groups := rfl
@[simp] theorem writeK_vl (t : Strand) (n : Nat) (x : Word) : (t.writeK n x).vl = t.vl := rfl
@[simp] theorem writeK_vstart (t : Strand) (n : Nat) (x : Word) : (t.writeK n x).vstart = t.vstart := rfl
@[simp] theorem writeK_v (t : Strand) (n : Nat) (x : Word) : (t.writeK n x).v = t.v := rfl
@[simp] theorem writeK_m (t : Strand) (n : Nat) (x : Word) : (t.writeK n x).m = t.m := rfl
@[simp] theorem writeK_mqOff (t : Strand) (n : Nat) (x : Word) : (t.writeK n x).mqOff = t.mqOff := rfl
@[simp] theorem writeK_vfs (t : Strand) (n : Nat) (x : Word) : (t.writeK n x).vfs = t.vfs := rfl
@[simp] theorem writeK_fpmode (t : Strand) (n : Nat) (x : Word) : (t.writeK n x).fpmode = t.fpmode := rfl
@[simp] theorem writeK_fpflags (t : Strand) (n : Nat) (x : Word) : (t.writeK n x).fpflags = t.fpflags := rfl
@[simp] theorem writeK_tiles (t : Strand) (n : Nat) (x : Word) : (t.writeK n x).tiles = t.tiles := rfl
@[simp] theorem writeK_held (t : Strand) (n : Nat) (x : Word) : (t.writeK n x).held = t.held := rfl
@[simp] theorem writeK_tm (t : Strand) (n : Nat) (x : Word) : (t.writeK n x).tm = t.tm := rfl
@[simp] theorem writeK_tn (t : Strand) (n : Nat) (x : Word) : (t.writeK n x).tn = t.tn := rfl
@[simp] theorem writeK_tk (t : Strand) (n : Nat) (x : Word) : (t.writeK n x).tk = t.tk := rfl
@[simp] theorem writeK_trow (t : Strand) (n : Nat) (x : Word) : (t.writeK n x).trow = t.trow := rfl
@[simp] theorem writeK_ttype (t : Strand) (n : Nat) (x : Word) : (t.writeK n x).ttype = t.ttype := rfl
@[simp] theorem writeK_sat (t : Strand) (n : Nat) (x : Word) : (t.writeK n x).sat = t.sat := rfl
@[simp] theorem writeK_td (t : Strand) (n : Nat) (x : Word) : (t.writeK n x).td = t.td := rfl
@[simp] theorem writeK_claims (t : Strand) (n : Nat) (x : Word) : (t.writeK n x).claims = t.claims := rfl
@[simp] theorem writeK_cc (t : Strand) (n : Nat) (x : Word) : (t.writeK n x).cc = t.cc := rfl
@[simp] theorem writeK_bnd (t : Strand) (n : Nat) (x : Word) : (t.writeK n x).bnd = t.bnd := rfl
@[simp] theorem writeK_deadline (t : Strand) (n : Nat) (x : Word) : (t.writeK n x).deadline = t.deadline := rfl
@[simp] theorem writeK_trapS (t : Strand) (n : Nat) (x : Word) : (t.writeK n x).trapS = t.trapS := rfl
@[simp] theorem writeK_trapH (t : Strand) (n : Nat) (x : Word) : (t.writeK n x).trapH = t.trapH := rfl
@[simp] theorem writeK_evDoorbell (t : Strand) (n : Nat) (x : Word) : (t.writeK n x).evDoorbell = t.evDoorbell := rfl
@[simp] theorem writeK_evWatch (t : Strand) (n : Nat) (x : Word) : (t.writeK n x).evWatch = t.evWatch := rfl
@[simp] theorem writeK_kbase (t : Strand) (n : Nat) (x : Word) : (t.writeK n x).kbase = t.kbase := rfl
@[simp] theorem writeK_kbaseH (t : Strand) (n : Nat) (x : Word) : (t.writeK n x).kbaseH = t.kbaseH := rfl
@[simp] theorem writeK_scratchbase (t : Strand) (n : Nat) (x : Word) : (t.writeK n x).scratchbase = t.scratchbase := rfl
@[simp] theorem writeK_stepArm (t : Strand) (n : Nat) (x : Word) : (t.writeK n x).stepArm = t.stepArm := rfl
@[simp] theorem writeK_stepAt (t : Strand) (n : Nat) (x : Word) : (t.writeK n x).stepAt = t.stepAt := rfl
@[simp] theorem writeK_stepDone (t : Strand) (n : Nat) (x : Word) : (t.writeK n x).stepDone = t.stepDone := rfl
@[simp] theorem writeK_queue (t : Strand) (n : Nat) (x : Word) : (t.writeK n x).queue = t.queue := rfl
@[simp] theorem writeK_holdS (t : Strand) (n : Nat) (x : Word) : (t.writeK n x).holdS = t.holdS := rfl
@[simp] theorem writeK_holdH (t : Strand) (n : Nat) (x : Word) : (t.writeK n x).holdH = t.holdH := rfl
@[simp] theorem writeK_trip (t : Strand) (n : Nat) (x : Word) : (t.writeK n x).trip = t.trip := rfl
@[simp] theorem writeK_deferred (t : Strand) (n : Nat) (x : Word) : (t.writeK n x).deferred = t.deferred := rfl
@[simp] theorem writeK_parked (t : Strand) (n : Nat) (x : Word) : (t.writeK n x).parked = t.parked := rfl
@[simp] theorem writeK_exiting (t : Strand) (n : Nat) (x : Word) : (t.writeK n x).exiting = t.exiting := rfl
@[simp] theorem writeK_watch (t : Strand) (n : Nat) (x : Word) : (t.writeK n x).watch = t.watch := rfl
@[simp] theorem writeK_watchVa (t : Strand) (n : Nat) (x : Word) : (t.writeK n x).watchVa = t.watchVa := rfl
@[simp] theorem writeK_watchSlow (t : Strand) (n : Nat) (x : Word) : (t.writeK n x).watchSlow = t.watchSlow := rfl
@[simp] theorem writeK_watched (t : Strand) (n : Nat) (x : Word) : (t.writeK n x).watched = t.watched := rfl
@[simp] theorem writeK_watchFull (t : Strand) (n : Nat) (x : Word) : (t.writeK n x).watchFull = t.watchFull := rfl
@[simp] theorem writeK_links (t : Strand) (n : Nat) (x : Word) : (t.writeK n x).links = t.links := rfl
@[simp] theorem writeK_prefetch (t : Strand) (n : Nat) (x : Word) : (t.writeK n x).prefetch = t.prefetch := rfl
@[simp] theorem writeK_poison (t : Strand) (n : Nat) (x : Word) : (t.writeK n x).poison = t.poison := rfl
@[simp] theorem writeK_healed (t : Strand) (n : Nat) (x : Word) : (t.writeK n x).healed = t.healed := rfl
@[simp] theorem writeK_soft (t : Strand) (n : Nat) (x : Word) : (t.writeK n x).soft = t.soft := rfl
@[simp] theorem writeK_runs (t : Strand) (n : Nat) (x : Word) : (t.writeK n x).runs = t.runs := rfl
@[simp] theorem writeK_runCounts (t : Strand) (n : Nat) (x : Word) : (t.writeK n x).runCounts = t.runCounts := rfl
@[simp] theorem writeK_flagBytes (t : Strand) (n : Nat) (x : Word) : (t.writeK n x).flagBytes = t.flagBytes := rfl
@[simp] theorem writeK_arrivals (t : Strand) (n : Nat) (x : Word) : (t.writeK n x).arrivals = t.arrivals := rfl
@[simp] theorem writeK_arrived (t : Strand) (n : Nat) (x : Word) : (t.writeK n x).arrived = t.arrived := rfl
@[simp] theorem writeK_entering (t : Strand) (n : Nat) (x : Word) : (t.writeK n x).entering = t.entering := rfl
@[simp] theorem writeK_order (t : Strand) (n : Nat) (x : Word) : (t.writeK n x).order = t.order := rfl
@[simp] theorem writeK_deferSince (t : Strand) (n : Nat) (x : Word) : (t.writeK n x).deferSince = t.deferSince := rfl

@[simp] theorem writeV_tid (t : Strand) (n i x : Nat) : (t.writeV n i x).tid = t.tid := rfl
@[simp] theorem writeV_pkg (t : Strand) (n i x : Nat) : (t.writeV n i x).pkg = t.pkg := rfl
@[simp] theorem writeV_die (t : Strand) (n i x : Nat) : (t.writeV n i x).die = t.die := rfl
@[simp] theorem writeV_core (t : Strand) (n i x : Nat) : (t.writeV n i x).core = t.core := rfl
@[simp] theorem writeV_slot (t : Strand) (n i x : Nat) : (t.writeV n i x).slot = t.slot := rfl
@[simp] theorem writeV_vpkg (t : Strand) (n i x : Nat) : (t.writeV n i x).vpkg = t.vpkg := rfl
@[simp] theorem writeV_vi (t : Strand) (n i x : Nat) : (t.writeV n i x).vi = t.vi := rfl
@[simp] theorem writeV_lid (t : Strand) (n i x : Nat) : (t.writeV n i x).lid = t.lid := rfl
@[simp] theorem writeV_index (t : Strand) (n i x : Nat) : (t.writeV n i x).index = t.index := rfl
@[simp] theorem writeV_levels (t : Strand) (n i x : Nat) : (t.writeV n i x).levels = t.levels := rfl
@[simp] theorem writeV_g (t : Strand) (n i x : Nat) : (t.writeV n i x).g = t.g := rfl
@[simp] theorem writeV_k (t : Strand) (n i x : Nat) : (t.writeV n i x).k = t.k := rfl
@[simp] theorem writeV_pc (t : Strand) (n i x : Nat) : (t.writeV n i x).pc = t.pc := rfl
@[simp] theorem writeV_level (t : Strand) (n i x : Nat) : (t.writeV n i x).level = t.level := rfl
@[simp] theorem writeV_mmode (t : Strand) (n i x : Nat) : (t.writeV n i x).mmode = t.mmode := rfl
@[simp] theorem writeV_nv (t : Strand) (n i x : Nat) : (t.writeV n i x).nv = t.nv := rfl
@[simp] theorem writeV_ew (t : Strand) (n i x : Nat) : (t.writeV n i x).ew = t.ew := rfl
@[simp] theorem writeV_groups (t : Strand) (n i x : Nat) : (t.writeV n i x).groups = t.groups := rfl
@[simp] theorem writeV_vl (t : Strand) (n i x : Nat) : (t.writeV n i x).vl = t.vl := rfl
@[simp] theorem writeV_vstart (t : Strand) (n i x : Nat) : (t.writeV n i x).vstart = t.vstart := rfl
@[simp] theorem writeV_v (t : Strand) (n i x : Nat) : (t.writeV n i x).v = cellSet 0 t.v (Strand.elemKey n i) (low t.ew x) := rfl
@[simp] theorem writeV_m (t : Strand) (n i x : Nat) : (t.writeV n i x).m = t.m := rfl
@[simp] theorem writeV_mqOff (t : Strand) (n i x : Nat) : (t.writeV n i x).mqOff = t.mqOff := rfl
@[simp] theorem writeV_vfs (t : Strand) (n i x : Nat) : (t.writeV n i x).vfs = t.vfs := rfl
@[simp] theorem writeV_fpmode (t : Strand) (n i x : Nat) : (t.writeV n i x).fpmode = t.fpmode := rfl
@[simp] theorem writeV_fpflags (t : Strand) (n i x : Nat) : (t.writeV n i x).fpflags = t.fpflags := rfl
@[simp] theorem writeV_tiles (t : Strand) (n i x : Nat) : (t.writeV n i x).tiles = t.tiles := rfl
@[simp] theorem writeV_held (t : Strand) (n i x : Nat) : (t.writeV n i x).held = t.held := rfl
@[simp] theorem writeV_tm (t : Strand) (n i x : Nat) : (t.writeV n i x).tm = t.tm := rfl
@[simp] theorem writeV_tn (t : Strand) (n i x : Nat) : (t.writeV n i x).tn = t.tn := rfl
@[simp] theorem writeV_tk (t : Strand) (n i x : Nat) : (t.writeV n i x).tk = t.tk := rfl
@[simp] theorem writeV_trow (t : Strand) (n i x : Nat) : (t.writeV n i x).trow = t.trow := rfl
@[simp] theorem writeV_ttype (t : Strand) (n i x : Nat) : (t.writeV n i x).ttype = t.ttype := rfl
@[simp] theorem writeV_sat (t : Strand) (n i x : Nat) : (t.writeV n i x).sat = t.sat := rfl
@[simp] theorem writeV_td (t : Strand) (n i x : Nat) : (t.writeV n i x).td = t.td := rfl
@[simp] theorem writeV_claims (t : Strand) (n i x : Nat) : (t.writeV n i x).claims = t.claims := rfl
@[simp] theorem writeV_cc (t : Strand) (n i x : Nat) : (t.writeV n i x).cc = t.cc := rfl
@[simp] theorem writeV_bnd (t : Strand) (n i x : Nat) : (t.writeV n i x).bnd = t.bnd := rfl
@[simp] theorem writeV_deadline (t : Strand) (n i x : Nat) : (t.writeV n i x).deadline = t.deadline := rfl
@[simp] theorem writeV_trapS (t : Strand) (n i x : Nat) : (t.writeV n i x).trapS = t.trapS := rfl
@[simp] theorem writeV_trapH (t : Strand) (n i x : Nat) : (t.writeV n i x).trapH = t.trapH := rfl
@[simp] theorem writeV_evDoorbell (t : Strand) (n i x : Nat) : (t.writeV n i x).evDoorbell = t.evDoorbell := rfl
@[simp] theorem writeV_evWatch (t : Strand) (n i x : Nat) : (t.writeV n i x).evWatch = t.evWatch := rfl
@[simp] theorem writeV_kbase (t : Strand) (n i x : Nat) : (t.writeV n i x).kbase = t.kbase := rfl
@[simp] theorem writeV_kbaseH (t : Strand) (n i x : Nat) : (t.writeV n i x).kbaseH = t.kbaseH := rfl
@[simp] theorem writeV_scratchbase (t : Strand) (n i x : Nat) : (t.writeV n i x).scratchbase = t.scratchbase := rfl
@[simp] theorem writeV_stepArm (t : Strand) (n i x : Nat) : (t.writeV n i x).stepArm = t.stepArm := rfl
@[simp] theorem writeV_stepAt (t : Strand) (n i x : Nat) : (t.writeV n i x).stepAt = t.stepAt := rfl
@[simp] theorem writeV_stepDone (t : Strand) (n i x : Nat) : (t.writeV n i x).stepDone = t.stepDone := rfl
@[simp] theorem writeV_queue (t : Strand) (n i x : Nat) : (t.writeV n i x).queue = t.queue := rfl
@[simp] theorem writeV_holdS (t : Strand) (n i x : Nat) : (t.writeV n i x).holdS = t.holdS := rfl
@[simp] theorem writeV_holdH (t : Strand) (n i x : Nat) : (t.writeV n i x).holdH = t.holdH := rfl
@[simp] theorem writeV_trip (t : Strand) (n i x : Nat) : (t.writeV n i x).trip = t.trip := rfl
@[simp] theorem writeV_deferred (t : Strand) (n i x : Nat) : (t.writeV n i x).deferred = t.deferred := rfl
@[simp] theorem writeV_parked (t : Strand) (n i x : Nat) : (t.writeV n i x).parked = t.parked := rfl
@[simp] theorem writeV_exiting (t : Strand) (n i x : Nat) : (t.writeV n i x).exiting = t.exiting := rfl
@[simp] theorem writeV_watch (t : Strand) (n i x : Nat) : (t.writeV n i x).watch = t.watch := rfl
@[simp] theorem writeV_watchVa (t : Strand) (n i x : Nat) : (t.writeV n i x).watchVa = t.watchVa := rfl
@[simp] theorem writeV_watchSlow (t : Strand) (n i x : Nat) : (t.writeV n i x).watchSlow = t.watchSlow := rfl
@[simp] theorem writeV_watched (t : Strand) (n i x : Nat) : (t.writeV n i x).watched = t.watched := rfl
@[simp] theorem writeV_watchFull (t : Strand) (n i x : Nat) : (t.writeV n i x).watchFull = t.watchFull := rfl
@[simp] theorem writeV_links (t : Strand) (n i x : Nat) : (t.writeV n i x).links = t.links := rfl
@[simp] theorem writeV_prefetch (t : Strand) (n i x : Nat) : (t.writeV n i x).prefetch = t.prefetch := rfl
@[simp] theorem writeV_soft (t : Strand) (n i x : Nat) : (t.writeV n i x).soft = t.soft := rfl
@[simp] theorem writeV_runs (t : Strand) (n i x : Nat) : (t.writeV n i x).runs = t.runs := rfl
@[simp] theorem writeV_runCounts (t : Strand) (n i x : Nat) : (t.writeV n i x).runCounts = t.runCounts := rfl
@[simp] theorem writeV_flagBytes (t : Strand) (n i x : Nat) : (t.writeV n i x).flagBytes = t.flagBytes := rfl
@[simp] theorem writeV_arrivals (t : Strand) (n i x : Nat) : (t.writeV n i x).arrivals = t.arrivals := rfl
@[simp] theorem writeV_arrived (t : Strand) (n i x : Nat) : (t.writeV n i x).arrived = t.arrived := rfl
@[simp] theorem writeV_entering (t : Strand) (n i x : Nat) : (t.writeV n i x).entering = t.entering := rfl
@[simp] theorem writeV_order (t : Strand) (n i x : Nat) : (t.writeV n i x).order = t.order := rfl
@[simp] theorem writeV_deferSince (t : Strand) (n i x : Nat) : (t.writeV n i x).deferSince = t.deferSince := rfl

@[simp] theorem writeCC_tid (t : Strand) (n : Nat) (x : CC) : (t.writeCC n x).tid = t.tid := rfl
@[simp] theorem writeCC_pkg (t : Strand) (n : Nat) (x : CC) : (t.writeCC n x).pkg = t.pkg := rfl
@[simp] theorem writeCC_die (t : Strand) (n : Nat) (x : CC) : (t.writeCC n x).die = t.die := rfl
@[simp] theorem writeCC_core (t : Strand) (n : Nat) (x : CC) : (t.writeCC n x).core = t.core := rfl
@[simp] theorem writeCC_slot (t : Strand) (n : Nat) (x : CC) : (t.writeCC n x).slot = t.slot := rfl
@[simp] theorem writeCC_vpkg (t : Strand) (n : Nat) (x : CC) : (t.writeCC n x).vpkg = t.vpkg := rfl
@[simp] theorem writeCC_vi (t : Strand) (n : Nat) (x : CC) : (t.writeCC n x).vi = t.vi := rfl
@[simp] theorem writeCC_lid (t : Strand) (n : Nat) (x : CC) : (t.writeCC n x).lid = t.lid := rfl
@[simp] theorem writeCC_index (t : Strand) (n : Nat) (x : CC) : (t.writeCC n x).index = t.index := rfl
@[simp] theorem writeCC_levels (t : Strand) (n : Nat) (x : CC) : (t.writeCC n x).levels = t.levels := rfl
@[simp] theorem writeCC_g (t : Strand) (n : Nat) (x : CC) : (t.writeCC n x).g = t.g := rfl
@[simp] theorem writeCC_k (t : Strand) (n : Nat) (x : CC) : (t.writeCC n x).k = t.k := rfl
@[simp] theorem writeCC_pc (t : Strand) (n : Nat) (x : CC) : (t.writeCC n x).pc = t.pc := rfl
@[simp] theorem writeCC_level (t : Strand) (n : Nat) (x : CC) : (t.writeCC n x).level = t.level := rfl
@[simp] theorem writeCC_mmode (t : Strand) (n : Nat) (x : CC) : (t.writeCC n x).mmode = t.mmode := rfl
@[simp] theorem writeCC_nv (t : Strand) (n : Nat) (x : CC) : (t.writeCC n x).nv = t.nv := rfl
@[simp] theorem writeCC_ew (t : Strand) (n : Nat) (x : CC) : (t.writeCC n x).ew = t.ew := rfl
@[simp] theorem writeCC_groups (t : Strand) (n : Nat) (x : CC) : (t.writeCC n x).groups = t.groups := rfl
@[simp] theorem writeCC_vl (t : Strand) (n : Nat) (x : CC) : (t.writeCC n x).vl = t.vl := rfl
@[simp] theorem writeCC_vstart (t : Strand) (n : Nat) (x : CC) : (t.writeCC n x).vstart = t.vstart := rfl
@[simp] theorem writeCC_v (t : Strand) (n : Nat) (x : CC) : (t.writeCC n x).v = t.v := rfl
@[simp] theorem writeCC_m (t : Strand) (n : Nat) (x : CC) : (t.writeCC n x).m = t.m := rfl
@[simp] theorem writeCC_mqOff (t : Strand) (n : Nat) (x : CC) : (t.writeCC n x).mqOff = t.mqOff := rfl
@[simp] theorem writeCC_vfs (t : Strand) (n : Nat) (x : CC) : (t.writeCC n x).vfs = t.vfs := rfl
@[simp] theorem writeCC_fpmode (t : Strand) (n : Nat) (x : CC) : (t.writeCC n x).fpmode = t.fpmode := rfl
@[simp] theorem writeCC_fpflags (t : Strand) (n : Nat) (x : CC) : (t.writeCC n x).fpflags = t.fpflags := rfl
@[simp] theorem writeCC_tiles (t : Strand) (n : Nat) (x : CC) : (t.writeCC n x).tiles = t.tiles := rfl
@[simp] theorem writeCC_held (t : Strand) (n : Nat) (x : CC) : (t.writeCC n x).held = t.held := rfl
@[simp] theorem writeCC_tm (t : Strand) (n : Nat) (x : CC) : (t.writeCC n x).tm = t.tm := rfl
@[simp] theorem writeCC_tn (t : Strand) (n : Nat) (x : CC) : (t.writeCC n x).tn = t.tn := rfl
@[simp] theorem writeCC_tk (t : Strand) (n : Nat) (x : CC) : (t.writeCC n x).tk = t.tk := rfl
@[simp] theorem writeCC_trow (t : Strand) (n : Nat) (x : CC) : (t.writeCC n x).trow = t.trow := rfl
@[simp] theorem writeCC_ttype (t : Strand) (n : Nat) (x : CC) : (t.writeCC n x).ttype = t.ttype := rfl
@[simp] theorem writeCC_sat (t : Strand) (n : Nat) (x : CC) : (t.writeCC n x).sat = t.sat := rfl
@[simp] theorem writeCC_td (t : Strand) (n : Nat) (x : CC) : (t.writeCC n x).td = t.td := rfl
@[simp] theorem writeCC_claims (t : Strand) (n : Nat) (x : CC) : (t.writeCC n x).claims = t.claims := rfl
@[simp] theorem writeCC_cc (t : Strand) (n : Nat) (x : CC) : (t.writeCC n x).cc = cellSet {} t.cc n x := rfl
@[simp] theorem writeCC_bnd (t : Strand) (n : Nat) (x : CC) : (t.writeCC n x).bnd = t.bnd := rfl
@[simp] theorem writeCC_deadline (t : Strand) (n : Nat) (x : CC) : (t.writeCC n x).deadline = t.deadline := rfl
@[simp] theorem writeCC_trapS (t : Strand) (n : Nat) (x : CC) : (t.writeCC n x).trapS = t.trapS := rfl
@[simp] theorem writeCC_trapH (t : Strand) (n : Nat) (x : CC) : (t.writeCC n x).trapH = t.trapH := rfl
@[simp] theorem writeCC_evDoorbell (t : Strand) (n : Nat) (x : CC) : (t.writeCC n x).evDoorbell = t.evDoorbell := rfl
@[simp] theorem writeCC_evWatch (t : Strand) (n : Nat) (x : CC) : (t.writeCC n x).evWatch = t.evWatch := rfl
@[simp] theorem writeCC_kbase (t : Strand) (n : Nat) (x : CC) : (t.writeCC n x).kbase = t.kbase := rfl
@[simp] theorem writeCC_kbaseH (t : Strand) (n : Nat) (x : CC) : (t.writeCC n x).kbaseH = t.kbaseH := rfl
@[simp] theorem writeCC_scratchbase (t : Strand) (n : Nat) (x : CC) : (t.writeCC n x).scratchbase = t.scratchbase := rfl
@[simp] theorem writeCC_stepArm (t : Strand) (n : Nat) (x : CC) : (t.writeCC n x).stepArm = t.stepArm := rfl
@[simp] theorem writeCC_stepAt (t : Strand) (n : Nat) (x : CC) : (t.writeCC n x).stepAt = t.stepAt := rfl
@[simp] theorem writeCC_stepDone (t : Strand) (n : Nat) (x : CC) : (t.writeCC n x).stepDone = t.stepDone := rfl
@[simp] theorem writeCC_queue (t : Strand) (n : Nat) (x : CC) : (t.writeCC n x).queue = t.queue := rfl
@[simp] theorem writeCC_holdS (t : Strand) (n : Nat) (x : CC) : (t.writeCC n x).holdS = t.holdS := rfl
@[simp] theorem writeCC_holdH (t : Strand) (n : Nat) (x : CC) : (t.writeCC n x).holdH = t.holdH := rfl
@[simp] theorem writeCC_trip (t : Strand) (n : Nat) (x : CC) : (t.writeCC n x).trip = t.trip := rfl
@[simp] theorem writeCC_deferred (t : Strand) (n : Nat) (x : CC) : (t.writeCC n x).deferred = t.deferred := rfl
@[simp] theorem writeCC_parked (t : Strand) (n : Nat) (x : CC) : (t.writeCC n x).parked = t.parked := rfl
@[simp] theorem writeCC_exiting (t : Strand) (n : Nat) (x : CC) : (t.writeCC n x).exiting = t.exiting := rfl
@[simp] theorem writeCC_watch (t : Strand) (n : Nat) (x : CC) : (t.writeCC n x).watch = t.watch := rfl
@[simp] theorem writeCC_watchVa (t : Strand) (n : Nat) (x : CC) : (t.writeCC n x).watchVa = t.watchVa := rfl
@[simp] theorem writeCC_watchSlow (t : Strand) (n : Nat) (x : CC) : (t.writeCC n x).watchSlow = t.watchSlow := rfl
@[simp] theorem writeCC_watched (t : Strand) (n : Nat) (x : CC) : (t.writeCC n x).watched = t.watched := rfl
@[simp] theorem writeCC_watchFull (t : Strand) (n : Nat) (x : CC) : (t.writeCC n x).watchFull = t.watchFull := rfl
@[simp] theorem writeCC_links (t : Strand) (n : Nat) (x : CC) : (t.writeCC n x).links = t.links := rfl
@[simp] theorem writeCC_prefetch (t : Strand) (n : Nat) (x : CC) : (t.writeCC n x).prefetch = t.prefetch := rfl
@[simp] theorem writeCC_poison (t : Strand) (n : Nat) (x : CC) : (t.writeCC n x).poison = t.poison := rfl
@[simp] theorem writeCC_healed (t : Strand) (n : Nat) (x : CC) : (t.writeCC n x).healed = t.healed := rfl
@[simp] theorem writeCC_soft (t : Strand) (n : Nat) (x : CC) : (t.writeCC n x).soft = t.soft := rfl
@[simp] theorem writeCC_runs (t : Strand) (n : Nat) (x : CC) : (t.writeCC n x).runs = t.runs := rfl
@[simp] theorem writeCC_runCounts (t : Strand) (n : Nat) (x : CC) : (t.writeCC n x).runCounts = t.runCounts := rfl
@[simp] theorem writeCC_flagBytes (t : Strand) (n : Nat) (x : CC) : (t.writeCC n x).flagBytes = t.flagBytes := rfl
@[simp] theorem writeCC_arrivals (t : Strand) (n : Nat) (x : CC) : (t.writeCC n x).arrivals = t.arrivals := rfl
@[simp] theorem writeCC_arrived (t : Strand) (n : Nat) (x : CC) : (t.writeCC n x).arrived = t.arrived := rfl
@[simp] theorem writeCC_entering (t : Strand) (n : Nat) (x : CC) : (t.writeCC n x).entering = t.entering := rfl
@[simp] theorem writeCC_order (t : Strand) (n : Nat) (x : CC) : (t.writeCC n x).order = t.order := rfl
@[simp] theorem writeCC_deferSince (t : Strand) (n : Nat) (x : CC) : (t.writeCC n x).deferSince = t.deferSince := rfl

@[simp] theorem writeBnd_tid (t : Strand) (n : Nat) (x : Option Binding) : (t.writeBnd n x).tid = t.tid := rfl
@[simp] theorem writeBnd_pkg (t : Strand) (n : Nat) (x : Option Binding) : (t.writeBnd n x).pkg = t.pkg := rfl
@[simp] theorem writeBnd_die (t : Strand) (n : Nat) (x : Option Binding) : (t.writeBnd n x).die = t.die := rfl
@[simp] theorem writeBnd_core (t : Strand) (n : Nat) (x : Option Binding) : (t.writeBnd n x).core = t.core := rfl
@[simp] theorem writeBnd_slot (t : Strand) (n : Nat) (x : Option Binding) : (t.writeBnd n x).slot = t.slot := rfl
@[simp] theorem writeBnd_vpkg (t : Strand) (n : Nat) (x : Option Binding) : (t.writeBnd n x).vpkg = t.vpkg := rfl
@[simp] theorem writeBnd_vi (t : Strand) (n : Nat) (x : Option Binding) : (t.writeBnd n x).vi = t.vi := rfl
@[simp] theorem writeBnd_lid (t : Strand) (n : Nat) (x : Option Binding) : (t.writeBnd n x).lid = t.lid := rfl
@[simp] theorem writeBnd_index (t : Strand) (n : Nat) (x : Option Binding) : (t.writeBnd n x).index = t.index := rfl
@[simp] theorem writeBnd_levels (t : Strand) (n : Nat) (x : Option Binding) : (t.writeBnd n x).levels = t.levels := rfl
@[simp] theorem writeBnd_g (t : Strand) (n : Nat) (x : Option Binding) : (t.writeBnd n x).g = t.g := rfl
@[simp] theorem writeBnd_k (t : Strand) (n : Nat) (x : Option Binding) : (t.writeBnd n x).k = t.k := rfl
@[simp] theorem writeBnd_pc (t : Strand) (n : Nat) (x : Option Binding) : (t.writeBnd n x).pc = t.pc := rfl
@[simp] theorem writeBnd_level (t : Strand) (n : Nat) (x : Option Binding) : (t.writeBnd n x).level = t.level := rfl
@[simp] theorem writeBnd_mmode (t : Strand) (n : Nat) (x : Option Binding) : (t.writeBnd n x).mmode = t.mmode := rfl
@[simp] theorem writeBnd_nv (t : Strand) (n : Nat) (x : Option Binding) : (t.writeBnd n x).nv = t.nv := rfl
@[simp] theorem writeBnd_ew (t : Strand) (n : Nat) (x : Option Binding) : (t.writeBnd n x).ew = t.ew := rfl
@[simp] theorem writeBnd_groups (t : Strand) (n : Nat) (x : Option Binding) : (t.writeBnd n x).groups = t.groups := rfl
@[simp] theorem writeBnd_vl (t : Strand) (n : Nat) (x : Option Binding) : (t.writeBnd n x).vl = t.vl := rfl
@[simp] theorem writeBnd_vstart (t : Strand) (n : Nat) (x : Option Binding) : (t.writeBnd n x).vstart = t.vstart := rfl
@[simp] theorem writeBnd_v (t : Strand) (n : Nat) (x : Option Binding) : (t.writeBnd n x).v = t.v := rfl
@[simp] theorem writeBnd_m (t : Strand) (n : Nat) (x : Option Binding) : (t.writeBnd n x).m = t.m := rfl
@[simp] theorem writeBnd_mqOff (t : Strand) (n : Nat) (x : Option Binding) : (t.writeBnd n x).mqOff = t.mqOff := rfl
@[simp] theorem writeBnd_vfs (t : Strand) (n : Nat) (x : Option Binding) : (t.writeBnd n x).vfs = t.vfs := rfl
@[simp] theorem writeBnd_fpmode (t : Strand) (n : Nat) (x : Option Binding) : (t.writeBnd n x).fpmode = t.fpmode := rfl
@[simp] theorem writeBnd_fpflags (t : Strand) (n : Nat) (x : Option Binding) : (t.writeBnd n x).fpflags = t.fpflags := rfl
@[simp] theorem writeBnd_tiles (t : Strand) (n : Nat) (x : Option Binding) : (t.writeBnd n x).tiles = t.tiles := rfl
@[simp] theorem writeBnd_held (t : Strand) (n : Nat) (x : Option Binding) : (t.writeBnd n x).held = t.held := rfl
@[simp] theorem writeBnd_tm (t : Strand) (n : Nat) (x : Option Binding) : (t.writeBnd n x).tm = t.tm := rfl
@[simp] theorem writeBnd_tn (t : Strand) (n : Nat) (x : Option Binding) : (t.writeBnd n x).tn = t.tn := rfl
@[simp] theorem writeBnd_tk (t : Strand) (n : Nat) (x : Option Binding) : (t.writeBnd n x).tk = t.tk := rfl
@[simp] theorem writeBnd_trow (t : Strand) (n : Nat) (x : Option Binding) : (t.writeBnd n x).trow = t.trow := rfl
@[simp] theorem writeBnd_ttype (t : Strand) (n : Nat) (x : Option Binding) : (t.writeBnd n x).ttype = t.ttype := rfl
@[simp] theorem writeBnd_sat (t : Strand) (n : Nat) (x : Option Binding) : (t.writeBnd n x).sat = t.sat := rfl
@[simp] theorem writeBnd_td (t : Strand) (n : Nat) (x : Option Binding) : (t.writeBnd n x).td = t.td := rfl
@[simp] theorem writeBnd_claims (t : Strand) (n : Nat) (x : Option Binding) : (t.writeBnd n x).claims = t.claims := rfl
@[simp] theorem writeBnd_cc (t : Strand) (n : Nat) (x : Option Binding) : (t.writeBnd n x).cc = t.cc := rfl
@[simp] theorem writeBnd_bnd (t : Strand) (n : Nat) (x : Option Binding) : (t.writeBnd n x).bnd = cellSet none t.bnd n x := rfl
@[simp] theorem writeBnd_deadline (t : Strand) (n : Nat) (x : Option Binding) : (t.writeBnd n x).deadline = t.deadline := rfl
@[simp] theorem writeBnd_trapS (t : Strand) (n : Nat) (x : Option Binding) : (t.writeBnd n x).trapS = t.trapS := rfl
@[simp] theorem writeBnd_trapH (t : Strand) (n : Nat) (x : Option Binding) : (t.writeBnd n x).trapH = t.trapH := rfl
@[simp] theorem writeBnd_evDoorbell (t : Strand) (n : Nat) (x : Option Binding) : (t.writeBnd n x).evDoorbell = t.evDoorbell := rfl
@[simp] theorem writeBnd_evWatch (t : Strand) (n : Nat) (x : Option Binding) : (t.writeBnd n x).evWatch = t.evWatch := rfl
@[simp] theorem writeBnd_kbase (t : Strand) (n : Nat) (x : Option Binding) : (t.writeBnd n x).kbase = t.kbase := rfl
@[simp] theorem writeBnd_kbaseH (t : Strand) (n : Nat) (x : Option Binding) : (t.writeBnd n x).kbaseH = t.kbaseH := rfl
@[simp] theorem writeBnd_scratchbase (t : Strand) (n : Nat) (x : Option Binding) : (t.writeBnd n x).scratchbase = t.scratchbase := rfl
@[simp] theorem writeBnd_stepArm (t : Strand) (n : Nat) (x : Option Binding) : (t.writeBnd n x).stepArm = t.stepArm := rfl
@[simp] theorem writeBnd_stepAt (t : Strand) (n : Nat) (x : Option Binding) : (t.writeBnd n x).stepAt = t.stepAt := rfl
@[simp] theorem writeBnd_stepDone (t : Strand) (n : Nat) (x : Option Binding) : (t.writeBnd n x).stepDone = t.stepDone := rfl
@[simp] theorem writeBnd_queue (t : Strand) (n : Nat) (x : Option Binding) : (t.writeBnd n x).queue = t.queue := rfl
@[simp] theorem writeBnd_holdS (t : Strand) (n : Nat) (x : Option Binding) : (t.writeBnd n x).holdS = t.holdS := rfl
@[simp] theorem writeBnd_holdH (t : Strand) (n : Nat) (x : Option Binding) : (t.writeBnd n x).holdH = t.holdH := rfl
@[simp] theorem writeBnd_trip (t : Strand) (n : Nat) (x : Option Binding) : (t.writeBnd n x).trip = t.trip := rfl
@[simp] theorem writeBnd_deferred (t : Strand) (n : Nat) (x : Option Binding) : (t.writeBnd n x).deferred = t.deferred := rfl
@[simp] theorem writeBnd_parked (t : Strand) (n : Nat) (x : Option Binding) : (t.writeBnd n x).parked = t.parked := rfl
@[simp] theorem writeBnd_exiting (t : Strand) (n : Nat) (x : Option Binding) : (t.writeBnd n x).exiting = t.exiting := rfl
@[simp] theorem writeBnd_watch (t : Strand) (n : Nat) (x : Option Binding) : (t.writeBnd n x).watch = t.watch := rfl
@[simp] theorem writeBnd_watchVa (t : Strand) (n : Nat) (x : Option Binding) : (t.writeBnd n x).watchVa = t.watchVa := rfl
@[simp] theorem writeBnd_watchSlow (t : Strand) (n : Nat) (x : Option Binding) : (t.writeBnd n x).watchSlow = t.watchSlow := rfl
@[simp] theorem writeBnd_watched (t : Strand) (n : Nat) (x : Option Binding) : (t.writeBnd n x).watched = t.watched := rfl
@[simp] theorem writeBnd_watchFull (t : Strand) (n : Nat) (x : Option Binding) : (t.writeBnd n x).watchFull = t.watchFull := rfl
@[simp] theorem writeBnd_links (t : Strand) (n : Nat) (x : Option Binding) : (t.writeBnd n x).links = t.links := rfl
@[simp] theorem writeBnd_prefetch (t : Strand) (n : Nat) (x : Option Binding) : (t.writeBnd n x).prefetch = t.prefetch := rfl
@[simp] theorem writeBnd_poison (t : Strand) (n : Nat) (x : Option Binding) : (t.writeBnd n x).poison = t.poison := rfl
@[simp] theorem writeBnd_healed (t : Strand) (n : Nat) (x : Option Binding) : (t.writeBnd n x).healed = t.healed := rfl
@[simp] theorem writeBnd_soft (t : Strand) (n : Nat) (x : Option Binding) : (t.writeBnd n x).soft = t.soft := rfl
@[simp] theorem writeBnd_runs (t : Strand) (n : Nat) (x : Option Binding) : (t.writeBnd n x).runs = t.runs := rfl
@[simp] theorem writeBnd_runCounts (t : Strand) (n : Nat) (x : Option Binding) : (t.writeBnd n x).runCounts = t.runCounts := rfl
@[simp] theorem writeBnd_flagBytes (t : Strand) (n : Nat) (x : Option Binding) : (t.writeBnd n x).flagBytes = t.flagBytes := rfl
@[simp] theorem writeBnd_arrivals (t : Strand) (n : Nat) (x : Option Binding) : (t.writeBnd n x).arrivals = t.arrivals := rfl
@[simp] theorem writeBnd_arrived (t : Strand) (n : Nat) (x : Option Binding) : (t.writeBnd n x).arrived = t.arrived := rfl
@[simp] theorem writeBnd_entering (t : Strand) (n : Nat) (x : Option Binding) : (t.writeBnd n x).entering = t.entering := rfl
@[simp] theorem writeBnd_order (t : Strand) (n : Nat) (x : Option Binding) : (t.writeBnd n x).order = t.order := rfl
@[simp] theorem writeBnd_deferSince (t : Strand) (n : Nat) (x : Option Binding) : (t.writeBnd n x).deferSince = t.deferSince := rfl

@[simp] theorem clearVector_tid (t : Strand) : (t.clearVector).tid = t.tid := rfl
@[simp] theorem clearVector_pkg (t : Strand) : (t.clearVector).pkg = t.pkg := rfl
@[simp] theorem clearVector_die (t : Strand) : (t.clearVector).die = t.die := rfl
@[simp] theorem clearVector_core (t : Strand) : (t.clearVector).core = t.core := rfl
@[simp] theorem clearVector_slot (t : Strand) : (t.clearVector).slot = t.slot := rfl
@[simp] theorem clearVector_vpkg (t : Strand) : (t.clearVector).vpkg = t.vpkg := rfl
@[simp] theorem clearVector_vi (t : Strand) : (t.clearVector).vi = t.vi := rfl
@[simp] theorem clearVector_lid (t : Strand) : (t.clearVector).lid = t.lid := rfl
@[simp] theorem clearVector_index (t : Strand) : (t.clearVector).index = t.index := rfl
@[simp] theorem clearVector_levels (t : Strand) : (t.clearVector).levels = t.levels := rfl
@[simp] theorem clearVector_g (t : Strand) : (t.clearVector).g = t.g := rfl
@[simp] theorem clearVector_k (t : Strand) : (t.clearVector).k = t.k := rfl
@[simp] theorem clearVector_pc (t : Strand) : (t.clearVector).pc = t.pc := rfl
@[simp] theorem clearVector_level (t : Strand) : (t.clearVector).level = t.level := rfl
@[simp] theorem clearVector_mmode (t : Strand) : (t.clearVector).mmode = t.mmode := rfl
@[simp] theorem clearVector_nv (t : Strand) : (t.clearVector).nv = t.nv := rfl
@[simp] theorem clearVector_ew (t : Strand) : (t.clearVector).ew = t.ew := rfl
@[simp] theorem clearVector_groups (t : Strand) : (t.clearVector).groups = t.groups := rfl
@[simp] theorem clearVector_vl (t : Strand) : (t.clearVector).vl = t.vl := rfl
@[simp] theorem clearVector_vstart (t : Strand) : (t.clearVector).vstart = 0 := rfl
@[simp] theorem clearVector_v (t : Strand) : (t.clearVector).v = [] := rfl
@[simp] theorem clearVector_m (t : Strand) : (t.clearVector).m = [] := rfl
@[simp] theorem clearVector_mqOff (t : Strand) : (t.clearVector).mqOff = [] := rfl
@[simp] theorem clearVector_vfs (t : Strand) : (t.clearVector).vfs = t.vfs := rfl
@[simp] theorem clearVector_fpmode (t : Strand) : (t.clearVector).fpmode = t.fpmode := rfl
@[simp] theorem clearVector_fpflags (t : Strand) : (t.clearVector).fpflags = t.fpflags := rfl
@[simp] theorem clearVector_tiles (t : Strand) : (t.clearVector).tiles = t.tiles := rfl
@[simp] theorem clearVector_held (t : Strand) : (t.clearVector).held = t.held := rfl
@[simp] theorem clearVector_tm (t : Strand) : (t.clearVector).tm = t.tm := rfl
@[simp] theorem clearVector_tn (t : Strand) : (t.clearVector).tn = t.tn := rfl
@[simp] theorem clearVector_tk (t : Strand) : (t.clearVector).tk = t.tk := rfl
@[simp] theorem clearVector_trow (t : Strand) : (t.clearVector).trow = t.trow := rfl
@[simp] theorem clearVector_ttype (t : Strand) : (t.clearVector).ttype = t.ttype := rfl
@[simp] theorem clearVector_sat (t : Strand) : (t.clearVector).sat = t.sat := rfl
@[simp] theorem clearVector_td (t : Strand) : (t.clearVector).td = t.td := rfl
@[simp] theorem clearVector_claims (t : Strand) : (t.clearVector).claims = t.claims := rfl
@[simp] theorem clearVector_cc (t : Strand) : (t.clearVector).cc = t.cc := rfl
@[simp] theorem clearVector_bnd (t : Strand) : (t.clearVector).bnd = t.bnd := rfl
@[simp] theorem clearVector_deadline (t : Strand) : (t.clearVector).deadline = t.deadline := rfl
@[simp] theorem clearVector_trapS (t : Strand) : (t.clearVector).trapS = t.trapS := rfl
@[simp] theorem clearVector_trapH (t : Strand) : (t.clearVector).trapH = t.trapH := rfl
@[simp] theorem clearVector_evDoorbell (t : Strand) : (t.clearVector).evDoorbell = t.evDoorbell := rfl
@[simp] theorem clearVector_evWatch (t : Strand) : (t.clearVector).evWatch = t.evWatch := rfl
@[simp] theorem clearVector_kbase (t : Strand) : (t.clearVector).kbase = t.kbase := rfl
@[simp] theorem clearVector_kbaseH (t : Strand) : (t.clearVector).kbaseH = t.kbaseH := rfl
@[simp] theorem clearVector_scratchbase (t : Strand) : (t.clearVector).scratchbase = t.scratchbase := rfl
@[simp] theorem clearVector_stepArm (t : Strand) : (t.clearVector).stepArm = t.stepArm := rfl
@[simp] theorem clearVector_stepAt (t : Strand) : (t.clearVector).stepAt = t.stepAt := rfl
@[simp] theorem clearVector_stepDone (t : Strand) : (t.clearVector).stepDone = t.stepDone := rfl
@[simp] theorem clearVector_queue (t : Strand) : (t.clearVector).queue = t.queue := rfl
@[simp] theorem clearVector_holdS (t : Strand) : (t.clearVector).holdS = t.holdS := rfl
@[simp] theorem clearVector_holdH (t : Strand) : (t.clearVector).holdH = t.holdH := rfl
@[simp] theorem clearVector_trip (t : Strand) : (t.clearVector).trip = t.trip := rfl
@[simp] theorem clearVector_deferred (t : Strand) : (t.clearVector).deferred = t.deferred := rfl
@[simp] theorem clearVector_parked (t : Strand) : (t.clearVector).parked = t.parked := rfl
@[simp] theorem clearVector_exiting (t : Strand) : (t.clearVector).exiting = t.exiting := rfl
@[simp] theorem clearVector_watch (t : Strand) : (t.clearVector).watch = t.watch := rfl
@[simp] theorem clearVector_watchVa (t : Strand) : (t.clearVector).watchVa = t.watchVa := rfl
@[simp] theorem clearVector_watchSlow (t : Strand) : (t.clearVector).watchSlow = t.watchSlow := rfl
@[simp] theorem clearVector_watched (t : Strand) : (t.clearVector).watched = t.watched := rfl
@[simp] theorem clearVector_watchFull (t : Strand) : (t.clearVector).watchFull = t.watchFull := rfl
@[simp] theorem clearVector_links (t : Strand) : (t.clearVector).links = t.links := rfl
@[simp] theorem clearVector_prefetch (t : Strand) : (t.clearVector).prefetch = t.prefetch := rfl
@[simp] theorem clearVector_poison (t : Strand) : (t.clearVector).poison = t.poison.filter (fun p => p < 64 || (2 ^ 32 ≤ p && p < 2 ^ 40)) := rfl
@[simp] theorem clearVector_healed (t : Strand) : (t.clearVector).healed = [] := rfl
@[simp] theorem clearVector_soft (t : Strand) : (t.clearVector).soft = t.soft := rfl
@[simp] theorem clearVector_runs (t : Strand) : (t.clearVector).runs = t.runs := rfl
@[simp] theorem clearVector_runCounts (t : Strand) : (t.clearVector).runCounts = t.runCounts := rfl
@[simp] theorem clearVector_flagBytes (t : Strand) : (t.clearVector).flagBytes = t.flagBytes := rfl
@[simp] theorem clearVector_arrivals (t : Strand) : (t.clearVector).arrivals = t.arrivals := rfl
@[simp] theorem clearVector_arrived (t : Strand) : (t.clearVector).arrived = t.arrived := rfl
@[simp] theorem clearVector_entering (t : Strand) : (t.clearVector).entering = t.entering := rfl
@[simp] theorem clearVector_order (t : Strand) : (t.clearVector).order = t.order := rfl
@[simp] theorem clearVector_deferSince (t : Strand) : (t.clearVector).deferSince = t.deferSince := rfl

@[simp] theorem writeG_tid (t : Strand) (n : Nat) (x : Word) : (t.writeG n x).tid = t.tid := by unfold Strand.writeG; split <;> rfl
@[simp] theorem writeG_pkg (t : Strand) (n : Nat) (x : Word) : (t.writeG n x).pkg = t.pkg := by unfold Strand.writeG; split <;> rfl
@[simp] theorem writeG_die (t : Strand) (n : Nat) (x : Word) : (t.writeG n x).die = t.die := by unfold Strand.writeG; split <;> rfl
@[simp] theorem writeG_core (t : Strand) (n : Nat) (x : Word) : (t.writeG n x).core = t.core := by unfold Strand.writeG; split <;> rfl
@[simp] theorem writeG_slot (t : Strand) (n : Nat) (x : Word) : (t.writeG n x).slot = t.slot := by unfold Strand.writeG; split <;> rfl
@[simp] theorem writeG_vpkg (t : Strand) (n : Nat) (x : Word) : (t.writeG n x).vpkg = t.vpkg := by unfold Strand.writeG; split <;> rfl
@[simp] theorem writeG_vi (t : Strand) (n : Nat) (x : Word) : (t.writeG n x).vi = t.vi := by unfold Strand.writeG; split <;> rfl
@[simp] theorem writeG_lid (t : Strand) (n : Nat) (x : Word) : (t.writeG n x).lid = t.lid := by unfold Strand.writeG; split <;> rfl
@[simp] theorem writeG_index (t : Strand) (n : Nat) (x : Word) : (t.writeG n x).index = t.index := by unfold Strand.writeG; split <;> rfl
@[simp] theorem writeG_levels (t : Strand) (n : Nat) (x : Word) : (t.writeG n x).levels = t.levels := by unfold Strand.writeG; split <;> rfl
@[simp] theorem writeG_k (t : Strand) (n : Nat) (x : Word) : (t.writeG n x).k = t.k := by unfold Strand.writeG; split <;> rfl
@[simp] theorem writeG_pc (t : Strand) (n : Nat) (x : Word) : (t.writeG n x).pc = t.pc := by unfold Strand.writeG; split <;> rfl
@[simp] theorem writeG_level (t : Strand) (n : Nat) (x : Word) : (t.writeG n x).level = t.level := by unfold Strand.writeG; split <;> rfl
@[simp] theorem writeG_mmode (t : Strand) (n : Nat) (x : Word) : (t.writeG n x).mmode = t.mmode := by unfold Strand.writeG; split <;> rfl
@[simp] theorem writeG_nv (t : Strand) (n : Nat) (x : Word) : (t.writeG n x).nv = t.nv := by unfold Strand.writeG; split <;> rfl
@[simp] theorem writeG_ew (t : Strand) (n : Nat) (x : Word) : (t.writeG n x).ew = t.ew := by unfold Strand.writeG; split <;> rfl
@[simp] theorem writeG_groups (t : Strand) (n : Nat) (x : Word) : (t.writeG n x).groups = t.groups := by unfold Strand.writeG; split <;> rfl
@[simp] theorem writeG_vl (t : Strand) (n : Nat) (x : Word) : (t.writeG n x).vl = t.vl := by unfold Strand.writeG; split <;> rfl
@[simp] theorem writeG_vstart (t : Strand) (n : Nat) (x : Word) : (t.writeG n x).vstart = t.vstart := by unfold Strand.writeG; split <;> rfl
@[simp] theorem writeG_v (t : Strand) (n : Nat) (x : Word) : (t.writeG n x).v = t.v := by unfold Strand.writeG; split <;> rfl
@[simp] theorem writeG_m (t : Strand) (n : Nat) (x : Word) : (t.writeG n x).m = t.m := by unfold Strand.writeG; split <;> rfl
@[simp] theorem writeG_mqOff (t : Strand) (n : Nat) (x : Word) : (t.writeG n x).mqOff = t.mqOff := by unfold Strand.writeG; split <;> rfl
@[simp] theorem writeG_vfs (t : Strand) (n : Nat) (x : Word) : (t.writeG n x).vfs = t.vfs := by unfold Strand.writeG; split <;> rfl
@[simp] theorem writeG_fpmode (t : Strand) (n : Nat) (x : Word) : (t.writeG n x).fpmode = t.fpmode := by unfold Strand.writeG; split <;> rfl
@[simp] theorem writeG_fpflags (t : Strand) (n : Nat) (x : Word) : (t.writeG n x).fpflags = t.fpflags := by unfold Strand.writeG; split <;> rfl
@[simp] theorem writeG_tiles (t : Strand) (n : Nat) (x : Word) : (t.writeG n x).tiles = t.tiles := by unfold Strand.writeG; split <;> rfl
@[simp] theorem writeG_held (t : Strand) (n : Nat) (x : Word) : (t.writeG n x).held = t.held := by unfold Strand.writeG; split <;> rfl
@[simp] theorem writeG_tm (t : Strand) (n : Nat) (x : Word) : (t.writeG n x).tm = t.tm := by unfold Strand.writeG; split <;> rfl
@[simp] theorem writeG_tn (t : Strand) (n : Nat) (x : Word) : (t.writeG n x).tn = t.tn := by unfold Strand.writeG; split <;> rfl
@[simp] theorem writeG_tk (t : Strand) (n : Nat) (x : Word) : (t.writeG n x).tk = t.tk := by unfold Strand.writeG; split <;> rfl
@[simp] theorem writeG_trow (t : Strand) (n : Nat) (x : Word) : (t.writeG n x).trow = t.trow := by unfold Strand.writeG; split <;> rfl
@[simp] theorem writeG_ttype (t : Strand) (n : Nat) (x : Word) : (t.writeG n x).ttype = t.ttype := by unfold Strand.writeG; split <;> rfl
@[simp] theorem writeG_sat (t : Strand) (n : Nat) (x : Word) : (t.writeG n x).sat = t.sat := by unfold Strand.writeG; split <;> rfl
@[simp] theorem writeG_td (t : Strand) (n : Nat) (x : Word) : (t.writeG n x).td = t.td := by unfold Strand.writeG; split <;> rfl
@[simp] theorem writeG_claims (t : Strand) (n : Nat) (x : Word) : (t.writeG n x).claims = t.claims := by unfold Strand.writeG; split <;> rfl
@[simp] theorem writeG_cc (t : Strand) (n : Nat) (x : Word) : (t.writeG n x).cc = t.cc := by unfold Strand.writeG; split <;> rfl
@[simp] theorem writeG_bnd (t : Strand) (n : Nat) (x : Word) : (t.writeG n x).bnd = t.bnd := by unfold Strand.writeG; split <;> rfl
@[simp] theorem writeG_deadline (t : Strand) (n : Nat) (x : Word) : (t.writeG n x).deadline = t.deadline := by unfold Strand.writeG; split <;> rfl
@[simp] theorem writeG_trapS (t : Strand) (n : Nat) (x : Word) : (t.writeG n x).trapS = t.trapS := by unfold Strand.writeG; split <;> rfl
@[simp] theorem writeG_trapH (t : Strand) (n : Nat) (x : Word) : (t.writeG n x).trapH = t.trapH := by unfold Strand.writeG; split <;> rfl
@[simp] theorem writeG_evDoorbell (t : Strand) (n : Nat) (x : Word) : (t.writeG n x).evDoorbell = t.evDoorbell := by unfold Strand.writeG; split <;> rfl
@[simp] theorem writeG_evWatch (t : Strand) (n : Nat) (x : Word) : (t.writeG n x).evWatch = t.evWatch := by unfold Strand.writeG; split <;> rfl
@[simp] theorem writeG_kbase (t : Strand) (n : Nat) (x : Word) : (t.writeG n x).kbase = t.kbase := by unfold Strand.writeG; split <;> rfl
@[simp] theorem writeG_kbaseH (t : Strand) (n : Nat) (x : Word) : (t.writeG n x).kbaseH = t.kbaseH := by unfold Strand.writeG; split <;> rfl
@[simp] theorem writeG_scratchbase (t : Strand) (n : Nat) (x : Word) : (t.writeG n x).scratchbase = t.scratchbase := by unfold Strand.writeG; split <;> rfl
@[simp] theorem writeG_stepArm (t : Strand) (n : Nat) (x : Word) : (t.writeG n x).stepArm = t.stepArm := by unfold Strand.writeG; split <;> rfl
@[simp] theorem writeG_stepAt (t : Strand) (n : Nat) (x : Word) : (t.writeG n x).stepAt = t.stepAt := by unfold Strand.writeG; split <;> rfl
@[simp] theorem writeG_stepDone (t : Strand) (n : Nat) (x : Word) : (t.writeG n x).stepDone = t.stepDone := by unfold Strand.writeG; split <;> rfl
@[simp] theorem writeG_queue (t : Strand) (n : Nat) (x : Word) : (t.writeG n x).queue = t.queue := by unfold Strand.writeG; split <;> rfl
@[simp] theorem writeG_holdS (t : Strand) (n : Nat) (x : Word) : (t.writeG n x).holdS = t.holdS := by unfold Strand.writeG; split <;> rfl
@[simp] theorem writeG_holdH (t : Strand) (n : Nat) (x : Word) : (t.writeG n x).holdH = t.holdH := by unfold Strand.writeG; split <;> rfl
@[simp] theorem writeG_trip (t : Strand) (n : Nat) (x : Word) : (t.writeG n x).trip = t.trip := by unfold Strand.writeG; split <;> rfl
@[simp] theorem writeG_deferred (t : Strand) (n : Nat) (x : Word) : (t.writeG n x).deferred = t.deferred := by unfold Strand.writeG; split <;> rfl
@[simp] theorem writeG_parked (t : Strand) (n : Nat) (x : Word) : (t.writeG n x).parked = t.parked := by unfold Strand.writeG; split <;> rfl
@[simp] theorem writeG_exiting (t : Strand) (n : Nat) (x : Word) : (t.writeG n x).exiting = t.exiting := by unfold Strand.writeG; split <;> rfl
@[simp] theorem writeG_watch (t : Strand) (n : Nat) (x : Word) : (t.writeG n x).watch = t.watch := by unfold Strand.writeG; split <;> rfl
@[simp] theorem writeG_watchVa (t : Strand) (n : Nat) (x : Word) : (t.writeG n x).watchVa = t.watchVa := by unfold Strand.writeG; split <;> rfl
@[simp] theorem writeG_watchSlow (t : Strand) (n : Nat) (x : Word) : (t.writeG n x).watchSlow = t.watchSlow := by unfold Strand.writeG; split <;> rfl
@[simp] theorem writeG_watched (t : Strand) (n : Nat) (x : Word) : (t.writeG n x).watched = t.watched := by unfold Strand.writeG; split <;> rfl
@[simp] theorem writeG_watchFull (t : Strand) (n : Nat) (x : Word) : (t.writeG n x).watchFull = t.watchFull := by unfold Strand.writeG; split <;> rfl
@[simp] theorem writeG_links (t : Strand) (n : Nat) (x : Word) : (t.writeG n x).links = t.links := by unfold Strand.writeG; split <;> rfl
@[simp] theorem writeG_prefetch (t : Strand) (n : Nat) (x : Word) : (t.writeG n x).prefetch = t.prefetch := by unfold Strand.writeG; split <;> rfl
@[simp] theorem writeG_healed (t : Strand) (n : Nat) (x : Word) : (t.writeG n x).healed = t.healed := by unfold Strand.writeG; split <;> rfl
@[simp] theorem writeG_soft (t : Strand) (n : Nat) (x : Word) : (t.writeG n x).soft = t.soft := by unfold Strand.writeG; split <;> rfl
@[simp] theorem writeG_runs (t : Strand) (n : Nat) (x : Word) : (t.writeG n x).runs = t.runs := by unfold Strand.writeG; split <;> rfl
@[simp] theorem writeG_runCounts (t : Strand) (n : Nat) (x : Word) : (t.writeG n x).runCounts = t.runCounts := by unfold Strand.writeG; split <;> rfl
@[simp] theorem writeG_flagBytes (t : Strand) (n : Nat) (x : Word) : (t.writeG n x).flagBytes = t.flagBytes := by unfold Strand.writeG; split <;> rfl
@[simp] theorem writeG_arrivals (t : Strand) (n : Nat) (x : Word) : (t.writeG n x).arrivals = t.arrivals := by unfold Strand.writeG; split <;> rfl
@[simp] theorem writeG_arrived (t : Strand) (n : Nat) (x : Word) : (t.writeG n x).arrived = t.arrived := by unfold Strand.writeG; split <;> rfl
@[simp] theorem writeG_entering (t : Strand) (n : Nat) (x : Word) : (t.writeG n x).entering = t.entering := by unfold Strand.writeG; split <;> rfl
@[simp] theorem writeG_order (t : Strand) (n : Nat) (x : Word) : (t.writeG n x).order = t.order := by unfold Strand.writeG; split <;> rfl
@[simp] theorem writeG_deferSince (t : Strand) (n : Nat) (x : Word) : (t.writeG n x).deferSince = t.deferSince := by unfold Strand.writeG; split <;> rfl

@[simp] theorem writeM_tid (t : Strand) (n i : Nat) (b : Bool) : (t.writeM n i b).tid = t.tid := by unfold Strand.writeM; split <;> rfl
@[simp] theorem writeM_pkg (t : Strand) (n i : Nat) (b : Bool) : (t.writeM n i b).pkg = t.pkg := by unfold Strand.writeM; split <;> rfl
@[simp] theorem writeM_die (t : Strand) (n i : Nat) (b : Bool) : (t.writeM n i b).die = t.die := by unfold Strand.writeM; split <;> rfl
@[simp] theorem writeM_core (t : Strand) (n i : Nat) (b : Bool) : (t.writeM n i b).core = t.core := by unfold Strand.writeM; split <;> rfl
@[simp] theorem writeM_slot (t : Strand) (n i : Nat) (b : Bool) : (t.writeM n i b).slot = t.slot := by unfold Strand.writeM; split <;> rfl
@[simp] theorem writeM_vpkg (t : Strand) (n i : Nat) (b : Bool) : (t.writeM n i b).vpkg = t.vpkg := by unfold Strand.writeM; split <;> rfl
@[simp] theorem writeM_vi (t : Strand) (n i : Nat) (b : Bool) : (t.writeM n i b).vi = t.vi := by unfold Strand.writeM; split <;> rfl
@[simp] theorem writeM_lid (t : Strand) (n i : Nat) (b : Bool) : (t.writeM n i b).lid = t.lid := by unfold Strand.writeM; split <;> rfl
@[simp] theorem writeM_index (t : Strand) (n i : Nat) (b : Bool) : (t.writeM n i b).index = t.index := by unfold Strand.writeM; split <;> rfl
@[simp] theorem writeM_levels (t : Strand) (n i : Nat) (b : Bool) : (t.writeM n i b).levels = t.levels := by unfold Strand.writeM; split <;> rfl
@[simp] theorem writeM_g (t : Strand) (n i : Nat) (b : Bool) : (t.writeM n i b).g = t.g := by unfold Strand.writeM; split <;> rfl
@[simp] theorem writeM_k (t : Strand) (n i : Nat) (b : Bool) : (t.writeM n i b).k = t.k := by unfold Strand.writeM; split <;> rfl
@[simp] theorem writeM_pc (t : Strand) (n i : Nat) (b : Bool) : (t.writeM n i b).pc = t.pc := by unfold Strand.writeM; split <;> rfl
@[simp] theorem writeM_level (t : Strand) (n i : Nat) (b : Bool) : (t.writeM n i b).level = t.level := by unfold Strand.writeM; split <;> rfl
@[simp] theorem writeM_mmode (t : Strand) (n i : Nat) (b : Bool) : (t.writeM n i b).mmode = t.mmode := by unfold Strand.writeM; split <;> rfl
@[simp] theorem writeM_nv (t : Strand) (n i : Nat) (b : Bool) : (t.writeM n i b).nv = t.nv := by unfold Strand.writeM; split <;> rfl
@[simp] theorem writeM_ew (t : Strand) (n i : Nat) (b : Bool) : (t.writeM n i b).ew = t.ew := by unfold Strand.writeM; split <;> rfl
@[simp] theorem writeM_groups (t : Strand) (n i : Nat) (b : Bool) : (t.writeM n i b).groups = t.groups := by unfold Strand.writeM; split <;> rfl
@[simp] theorem writeM_vl (t : Strand) (n i : Nat) (b : Bool) : (t.writeM n i b).vl = t.vl := by unfold Strand.writeM; split <;> rfl
@[simp] theorem writeM_vstart (t : Strand) (n i : Nat) (b : Bool) : (t.writeM n i b).vstart = t.vstart := by unfold Strand.writeM; split <;> rfl
@[simp] theorem writeM_v (t : Strand) (n i : Nat) (b : Bool) : (t.writeM n i b).v = t.v := by unfold Strand.writeM; split <;> rfl
@[simp] theorem writeM_vfs (t : Strand) (n i : Nat) (b : Bool) : (t.writeM n i b).vfs = t.vfs := by unfold Strand.writeM; split <;> rfl
@[simp] theorem writeM_fpmode (t : Strand) (n i : Nat) (b : Bool) : (t.writeM n i b).fpmode = t.fpmode := by unfold Strand.writeM; split <;> rfl
@[simp] theorem writeM_fpflags (t : Strand) (n i : Nat) (b : Bool) : (t.writeM n i b).fpflags = t.fpflags := by unfold Strand.writeM; split <;> rfl
@[simp] theorem writeM_tiles (t : Strand) (n i : Nat) (b : Bool) : (t.writeM n i b).tiles = t.tiles := by unfold Strand.writeM; split <;> rfl
@[simp] theorem writeM_held (t : Strand) (n i : Nat) (b : Bool) : (t.writeM n i b).held = t.held := by unfold Strand.writeM; split <;> rfl
@[simp] theorem writeM_tm (t : Strand) (n i : Nat) (b : Bool) : (t.writeM n i b).tm = t.tm := by unfold Strand.writeM; split <;> rfl
@[simp] theorem writeM_tn (t : Strand) (n i : Nat) (b : Bool) : (t.writeM n i b).tn = t.tn := by unfold Strand.writeM; split <;> rfl
@[simp] theorem writeM_tk (t : Strand) (n i : Nat) (b : Bool) : (t.writeM n i b).tk = t.tk := by unfold Strand.writeM; split <;> rfl
@[simp] theorem writeM_trow (t : Strand) (n i : Nat) (b : Bool) : (t.writeM n i b).trow = t.trow := by unfold Strand.writeM; split <;> rfl
@[simp] theorem writeM_ttype (t : Strand) (n i : Nat) (b : Bool) : (t.writeM n i b).ttype = t.ttype := by unfold Strand.writeM; split <;> rfl
@[simp] theorem writeM_sat (t : Strand) (n i : Nat) (b : Bool) : (t.writeM n i b).sat = t.sat := by unfold Strand.writeM; split <;> rfl
@[simp] theorem writeM_td (t : Strand) (n i : Nat) (b : Bool) : (t.writeM n i b).td = t.td := by unfold Strand.writeM; split <;> rfl
@[simp] theorem writeM_claims (t : Strand) (n i : Nat) (b : Bool) : (t.writeM n i b).claims = t.claims := by unfold Strand.writeM; split <;> rfl
@[simp] theorem writeM_cc (t : Strand) (n i : Nat) (b : Bool) : (t.writeM n i b).cc = t.cc := by unfold Strand.writeM; split <;> rfl
@[simp] theorem writeM_bnd (t : Strand) (n i : Nat) (b : Bool) : (t.writeM n i b).bnd = t.bnd := by unfold Strand.writeM; split <;> rfl
@[simp] theorem writeM_deadline (t : Strand) (n i : Nat) (b : Bool) : (t.writeM n i b).deadline = t.deadline := by unfold Strand.writeM; split <;> rfl
@[simp] theorem writeM_trapS (t : Strand) (n i : Nat) (b : Bool) : (t.writeM n i b).trapS = t.trapS := by unfold Strand.writeM; split <;> rfl
@[simp] theorem writeM_trapH (t : Strand) (n i : Nat) (b : Bool) : (t.writeM n i b).trapH = t.trapH := by unfold Strand.writeM; split <;> rfl
@[simp] theorem writeM_evDoorbell (t : Strand) (n i : Nat) (b : Bool) : (t.writeM n i b).evDoorbell = t.evDoorbell := by unfold Strand.writeM; split <;> rfl
@[simp] theorem writeM_evWatch (t : Strand) (n i : Nat) (b : Bool) : (t.writeM n i b).evWatch = t.evWatch := by unfold Strand.writeM; split <;> rfl
@[simp] theorem writeM_kbase (t : Strand) (n i : Nat) (b : Bool) : (t.writeM n i b).kbase = t.kbase := by unfold Strand.writeM; split <;> rfl
@[simp] theorem writeM_kbaseH (t : Strand) (n i : Nat) (b : Bool) : (t.writeM n i b).kbaseH = t.kbaseH := by unfold Strand.writeM; split <;> rfl
@[simp] theorem writeM_scratchbase (t : Strand) (n i : Nat) (b : Bool) : (t.writeM n i b).scratchbase = t.scratchbase := by unfold Strand.writeM; split <;> rfl
@[simp] theorem writeM_stepArm (t : Strand) (n i : Nat) (b : Bool) : (t.writeM n i b).stepArm = t.stepArm := by unfold Strand.writeM; split <;> rfl
@[simp] theorem writeM_stepAt (t : Strand) (n i : Nat) (b : Bool) : (t.writeM n i b).stepAt = t.stepAt := by unfold Strand.writeM; split <;> rfl
@[simp] theorem writeM_stepDone (t : Strand) (n i : Nat) (b : Bool) : (t.writeM n i b).stepDone = t.stepDone := by unfold Strand.writeM; split <;> rfl
@[simp] theorem writeM_queue (t : Strand) (n i : Nat) (b : Bool) : (t.writeM n i b).queue = t.queue := by unfold Strand.writeM; split <;> rfl
@[simp] theorem writeM_holdS (t : Strand) (n i : Nat) (b : Bool) : (t.writeM n i b).holdS = t.holdS := by unfold Strand.writeM; split <;> rfl
@[simp] theorem writeM_holdH (t : Strand) (n i : Nat) (b : Bool) : (t.writeM n i b).holdH = t.holdH := by unfold Strand.writeM; split <;> rfl
@[simp] theorem writeM_trip (t : Strand) (n i : Nat) (b : Bool) : (t.writeM n i b).trip = t.trip := by unfold Strand.writeM; split <;> rfl
@[simp] theorem writeM_deferred (t : Strand) (n i : Nat) (b : Bool) : (t.writeM n i b).deferred = t.deferred := by unfold Strand.writeM; split <;> rfl
@[simp] theorem writeM_parked (t : Strand) (n i : Nat) (b : Bool) : (t.writeM n i b).parked = t.parked := by unfold Strand.writeM; split <;> rfl
@[simp] theorem writeM_exiting (t : Strand) (n i : Nat) (b : Bool) : (t.writeM n i b).exiting = t.exiting := by unfold Strand.writeM; split <;> rfl
@[simp] theorem writeM_watch (t : Strand) (n i : Nat) (b : Bool) : (t.writeM n i b).watch = t.watch := by unfold Strand.writeM; split <;> rfl
@[simp] theorem writeM_watchVa (t : Strand) (n i : Nat) (b : Bool) : (t.writeM n i b).watchVa = t.watchVa := by unfold Strand.writeM; split <;> rfl
@[simp] theorem writeM_watchSlow (t : Strand) (n i : Nat) (b : Bool) : (t.writeM n i b).watchSlow = t.watchSlow := by unfold Strand.writeM; split <;> rfl
@[simp] theorem writeM_watched (t : Strand) (n i : Nat) (b : Bool) : (t.writeM n i b).watched = t.watched := by unfold Strand.writeM; split <;> rfl
@[simp] theorem writeM_watchFull (t : Strand) (n i : Nat) (b : Bool) : (t.writeM n i b).watchFull = t.watchFull := by unfold Strand.writeM; split <;> rfl
@[simp] theorem writeM_links (t : Strand) (n i : Nat) (b : Bool) : (t.writeM n i b).links = t.links := by unfold Strand.writeM; split <;> rfl
@[simp] theorem writeM_prefetch (t : Strand) (n i : Nat) (b : Bool) : (t.writeM n i b).prefetch = t.prefetch := by unfold Strand.writeM; split <;> rfl
@[simp] theorem writeM_poison (t : Strand) (n i : Nat) (b : Bool) : (t.writeM n i b).poison = t.poison := by unfold Strand.writeM; split <;> rfl
@[simp] theorem writeM_healed (t : Strand) (n i : Nat) (b : Bool) : (t.writeM n i b).healed = t.healed := by unfold Strand.writeM; split <;> rfl
@[simp] theorem writeM_soft (t : Strand) (n i : Nat) (b : Bool) : (t.writeM n i b).soft = t.soft := by unfold Strand.writeM; split <;> rfl
@[simp] theorem writeM_runs (t : Strand) (n i : Nat) (b : Bool) : (t.writeM n i b).runs = t.runs := by unfold Strand.writeM; split <;> rfl
@[simp] theorem writeM_runCounts (t : Strand) (n i : Nat) (b : Bool) : (t.writeM n i b).runCounts = t.runCounts := by unfold Strand.writeM; split <;> rfl
@[simp] theorem writeM_flagBytes (t : Strand) (n i : Nat) (b : Bool) : (t.writeM n i b).flagBytes = t.flagBytes := by unfold Strand.writeM; split <;> rfl
@[simp] theorem writeM_arrivals (t : Strand) (n i : Nat) (b : Bool) : (t.writeM n i b).arrivals = t.arrivals := by unfold Strand.writeM; split <;> rfl
@[simp] theorem writeM_arrived (t : Strand) (n i : Nat) (b : Bool) : (t.writeM n i b).arrived = t.arrived := by unfold Strand.writeM; split <;> rfl
@[simp] theorem writeM_entering (t : Strand) (n i : Nat) (b : Bool) : (t.writeM n i b).entering = t.entering := by unfold Strand.writeM; split <;> rfl
@[simp] theorem writeM_order (t : Strand) (n i : Nat) (b : Bool) : (t.writeM n i b).order = t.order := by unfold Strand.writeM; split <;> rfl
@[simp] theorem writeM_deferSince (t : Strand) (n i : Nat) (b : Bool) : (t.writeM n i b).deferSince = t.deferSince := by unfold Strand.writeM; split <;> rfl

@[simp] theorem setHold_tid (t : Strand) (x : Level) (q : List QEntry) : (t.setHold x q).tid = t.tid := by cases x <;> rfl
@[simp] theorem setHold_pkg (t : Strand) (x : Level) (q : List QEntry) : (t.setHold x q).pkg = t.pkg := by cases x <;> rfl
@[simp] theorem setHold_die (t : Strand) (x : Level) (q : List QEntry) : (t.setHold x q).die = t.die := by cases x <;> rfl
@[simp] theorem setHold_core (t : Strand) (x : Level) (q : List QEntry) : (t.setHold x q).core = t.core := by cases x <;> rfl
@[simp] theorem setHold_slot (t : Strand) (x : Level) (q : List QEntry) : (t.setHold x q).slot = t.slot := by cases x <;> rfl
@[simp] theorem setHold_vpkg (t : Strand) (x : Level) (q : List QEntry) : (t.setHold x q).vpkg = t.vpkg := by cases x <;> rfl
@[simp] theorem setHold_vi (t : Strand) (x : Level) (q : List QEntry) : (t.setHold x q).vi = t.vi := by cases x <;> rfl
@[simp] theorem setHold_lid (t : Strand) (x : Level) (q : List QEntry) : (t.setHold x q).lid = t.lid := by cases x <;> rfl
@[simp] theorem setHold_index (t : Strand) (x : Level) (q : List QEntry) : (t.setHold x q).index = t.index := by cases x <;> rfl
@[simp] theorem setHold_levels (t : Strand) (x : Level) (q : List QEntry) : (t.setHold x q).levels = t.levels := by cases x <;> rfl
@[simp] theorem setHold_g (t : Strand) (x : Level) (q : List QEntry) : (t.setHold x q).g = t.g := by cases x <;> rfl
@[simp] theorem setHold_k (t : Strand) (x : Level) (q : List QEntry) : (t.setHold x q).k = t.k := by cases x <;> rfl
@[simp] theorem setHold_pc (t : Strand) (x : Level) (q : List QEntry) : (t.setHold x q).pc = t.pc := by cases x <;> rfl
@[simp] theorem setHold_level (t : Strand) (x : Level) (q : List QEntry) : (t.setHold x q).level = t.level := by cases x <;> rfl
@[simp] theorem setHold_mmode (t : Strand) (x : Level) (q : List QEntry) : (t.setHold x q).mmode = t.mmode := by cases x <;> rfl
@[simp] theorem setHold_nv (t : Strand) (x : Level) (q : List QEntry) : (t.setHold x q).nv = t.nv := by cases x <;> rfl
@[simp] theorem setHold_ew (t : Strand) (x : Level) (q : List QEntry) : (t.setHold x q).ew = t.ew := by cases x <;> rfl
@[simp] theorem setHold_groups (t : Strand) (x : Level) (q : List QEntry) : (t.setHold x q).groups = t.groups := by cases x <;> rfl
@[simp] theorem setHold_vl (t : Strand) (x : Level) (q : List QEntry) : (t.setHold x q).vl = t.vl := by cases x <;> rfl
@[simp] theorem setHold_vstart (t : Strand) (x : Level) (q : List QEntry) : (t.setHold x q).vstart = t.vstart := by cases x <;> rfl
@[simp] theorem setHold_v (t : Strand) (x : Level) (q : List QEntry) : (t.setHold x q).v = t.v := by cases x <;> rfl
@[simp] theorem setHold_m (t : Strand) (x : Level) (q : List QEntry) : (t.setHold x q).m = t.m := by cases x <;> rfl
@[simp] theorem setHold_mqOff (t : Strand) (x : Level) (q : List QEntry) : (t.setHold x q).mqOff = t.mqOff := by cases x <;> rfl
@[simp] theorem setHold_vfs (t : Strand) (x : Level) (q : List QEntry) : (t.setHold x q).vfs = t.vfs := by cases x <;> rfl
@[simp] theorem setHold_fpmode (t : Strand) (x : Level) (q : List QEntry) : (t.setHold x q).fpmode = t.fpmode := by cases x <;> rfl
@[simp] theorem setHold_fpflags (t : Strand) (x : Level) (q : List QEntry) : (t.setHold x q).fpflags = t.fpflags := by cases x <;> rfl
@[simp] theorem setHold_tiles (t : Strand) (x : Level) (q : List QEntry) : (t.setHold x q).tiles = t.tiles := by cases x <;> rfl
@[simp] theorem setHold_held (t : Strand) (x : Level) (q : List QEntry) : (t.setHold x q).held = t.held := by cases x <;> rfl
@[simp] theorem setHold_tm (t : Strand) (x : Level) (q : List QEntry) : (t.setHold x q).tm = t.tm := by cases x <;> rfl
@[simp] theorem setHold_tn (t : Strand) (x : Level) (q : List QEntry) : (t.setHold x q).tn = t.tn := by cases x <;> rfl
@[simp] theorem setHold_tk (t : Strand) (x : Level) (q : List QEntry) : (t.setHold x q).tk = t.tk := by cases x <;> rfl
@[simp] theorem setHold_trow (t : Strand) (x : Level) (q : List QEntry) : (t.setHold x q).trow = t.trow := by cases x <;> rfl
@[simp] theorem setHold_ttype (t : Strand) (x : Level) (q : List QEntry) : (t.setHold x q).ttype = t.ttype := by cases x <;> rfl
@[simp] theorem setHold_sat (t : Strand) (x : Level) (q : List QEntry) : (t.setHold x q).sat = t.sat := by cases x <;> rfl
@[simp] theorem setHold_td (t : Strand) (x : Level) (q : List QEntry) : (t.setHold x q).td = t.td := by cases x <;> rfl
@[simp] theorem setHold_claims (t : Strand) (x : Level) (q : List QEntry) : (t.setHold x q).claims = t.claims := by cases x <;> rfl
@[simp] theorem setHold_cc (t : Strand) (x : Level) (q : List QEntry) : (t.setHold x q).cc = t.cc := by cases x <;> rfl
@[simp] theorem setHold_bnd (t : Strand) (x : Level) (q : List QEntry) : (t.setHold x q).bnd = t.bnd := by cases x <;> rfl
@[simp] theorem setHold_deadline (t : Strand) (x : Level) (q : List QEntry) : (t.setHold x q).deadline = t.deadline := by cases x <;> rfl
@[simp] theorem setHold_trapS (t : Strand) (x : Level) (q : List QEntry) : (t.setHold x q).trapS = t.trapS := by cases x <;> rfl
@[simp] theorem setHold_trapH (t : Strand) (x : Level) (q : List QEntry) : (t.setHold x q).trapH = t.trapH := by cases x <;> rfl
@[simp] theorem setHold_evDoorbell (t : Strand) (x : Level) (q : List QEntry) : (t.setHold x q).evDoorbell = t.evDoorbell := by cases x <;> rfl
@[simp] theorem setHold_evWatch (t : Strand) (x : Level) (q : List QEntry) : (t.setHold x q).evWatch = t.evWatch := by cases x <;> rfl
@[simp] theorem setHold_kbase (t : Strand) (x : Level) (q : List QEntry) : (t.setHold x q).kbase = t.kbase := by cases x <;> rfl
@[simp] theorem setHold_kbaseH (t : Strand) (x : Level) (q : List QEntry) : (t.setHold x q).kbaseH = t.kbaseH := by cases x <;> rfl
@[simp] theorem setHold_scratchbase (t : Strand) (x : Level) (q : List QEntry) : (t.setHold x q).scratchbase = t.scratchbase := by cases x <;> rfl
@[simp] theorem setHold_stepArm (t : Strand) (x : Level) (q : List QEntry) : (t.setHold x q).stepArm = t.stepArm := by cases x <;> rfl
@[simp] theorem setHold_stepAt (t : Strand) (x : Level) (q : List QEntry) : (t.setHold x q).stepAt = t.stepAt := by cases x <;> rfl
@[simp] theorem setHold_stepDone (t : Strand) (x : Level) (q : List QEntry) : (t.setHold x q).stepDone = t.stepDone := by cases x <;> rfl
@[simp] theorem setHold_queue (t : Strand) (x : Level) (q : List QEntry) : (t.setHold x q).queue = t.queue := by cases x <;> rfl
@[simp] theorem setHold_trip (t : Strand) (x : Level) (q : List QEntry) : (t.setHold x q).trip = t.trip := by cases x <;> rfl
@[simp] theorem setHold_deferred (t : Strand) (x : Level) (q : List QEntry) : (t.setHold x q).deferred = t.deferred := by cases x <;> rfl
@[simp] theorem setHold_parked (t : Strand) (x : Level) (q : List QEntry) : (t.setHold x q).parked = t.parked := by cases x <;> rfl
@[simp] theorem setHold_exiting (t : Strand) (x : Level) (q : List QEntry) : (t.setHold x q).exiting = t.exiting := by cases x <;> rfl
@[simp] theorem setHold_watch (t : Strand) (x : Level) (q : List QEntry) : (t.setHold x q).watch = t.watch := by cases x <;> rfl
@[simp] theorem setHold_watchVa (t : Strand) (x : Level) (q : List QEntry) : (t.setHold x q).watchVa = t.watchVa := by cases x <;> rfl
@[simp] theorem setHold_watchSlow (t : Strand) (x : Level) (q : List QEntry) : (t.setHold x q).watchSlow = t.watchSlow := by cases x <;> rfl
@[simp] theorem setHold_watched (t : Strand) (x : Level) (q : List QEntry) : (t.setHold x q).watched = t.watched := by cases x <;> rfl
@[simp] theorem setHold_watchFull (t : Strand) (x : Level) (q : List QEntry) : (t.setHold x q).watchFull = t.watchFull := by cases x <;> rfl
@[simp] theorem setHold_links (t : Strand) (x : Level) (q : List QEntry) : (t.setHold x q).links = t.links := by cases x <;> rfl
@[simp] theorem setHold_prefetch (t : Strand) (x : Level) (q : List QEntry) : (t.setHold x q).prefetch = t.prefetch := by cases x <;> rfl
@[simp] theorem setHold_poison (t : Strand) (x : Level) (q : List QEntry) : (t.setHold x q).poison = t.poison := by cases x <;> rfl
@[simp] theorem setHold_healed (t : Strand) (x : Level) (q : List QEntry) : (t.setHold x q).healed = t.healed := by cases x <;> rfl
@[simp] theorem setHold_soft (t : Strand) (x : Level) (q : List QEntry) : (t.setHold x q).soft = t.soft := by cases x <;> rfl
@[simp] theorem setHold_runs (t : Strand) (x : Level) (q : List QEntry) : (t.setHold x q).runs = t.runs := by cases x <;> rfl
@[simp] theorem setHold_runCounts (t : Strand) (x : Level) (q : List QEntry) : (t.setHold x q).runCounts = t.runCounts := by cases x <;> rfl
@[simp] theorem setHold_flagBytes (t : Strand) (x : Level) (q : List QEntry) : (t.setHold x q).flagBytes = t.flagBytes := by cases x <;> rfl
@[simp] theorem setHold_arrivals (t : Strand) (x : Level) (q : List QEntry) : (t.setHold x q).arrivals = t.arrivals := by cases x <;> rfl
@[simp] theorem setHold_arrived (t : Strand) (x : Level) (q : List QEntry) : (t.setHold x q).arrived = t.arrived := by cases x <;> rfl
@[simp] theorem setHold_entering (t : Strand) (x : Level) (q : List QEntry) : (t.setHold x q).entering = t.entering := by cases x <;> rfl
@[simp] theorem setHold_order (t : Strand) (x : Level) (q : List QEntry) : (t.setHold x q).order = t.order := by cases x <;> rfl
@[simp] theorem setHold_deferSince (t : Strand) (x : Level) (q : List QEntry) : (t.setHold x q).deferSince = t.deferSince := by cases x <;> rfl

@[simp] theorem setTraps_tid (t : Strand) (x : Level) (r : TrapRegs) : (t.setTraps x r).tid = t.tid := by cases x <;> rfl
@[simp] theorem setTraps_pkg (t : Strand) (x : Level) (r : TrapRegs) : (t.setTraps x r).pkg = t.pkg := by cases x <;> rfl
@[simp] theorem setTraps_die (t : Strand) (x : Level) (r : TrapRegs) : (t.setTraps x r).die = t.die := by cases x <;> rfl
@[simp] theorem setTraps_core (t : Strand) (x : Level) (r : TrapRegs) : (t.setTraps x r).core = t.core := by cases x <;> rfl
@[simp] theorem setTraps_slot (t : Strand) (x : Level) (r : TrapRegs) : (t.setTraps x r).slot = t.slot := by cases x <;> rfl
@[simp] theorem setTraps_vpkg (t : Strand) (x : Level) (r : TrapRegs) : (t.setTraps x r).vpkg = t.vpkg := by cases x <;> rfl
@[simp] theorem setTraps_vi (t : Strand) (x : Level) (r : TrapRegs) : (t.setTraps x r).vi = t.vi := by cases x <;> rfl
@[simp] theorem setTraps_lid (t : Strand) (x : Level) (r : TrapRegs) : (t.setTraps x r).lid = t.lid := by cases x <;> rfl
@[simp] theorem setTraps_index (t : Strand) (x : Level) (r : TrapRegs) : (t.setTraps x r).index = t.index := by cases x <;> rfl
@[simp] theorem setTraps_levels (t : Strand) (x : Level) (r : TrapRegs) : (t.setTraps x r).levels = t.levels := by cases x <;> rfl
@[simp] theorem setTraps_g (t : Strand) (x : Level) (r : TrapRegs) : (t.setTraps x r).g = t.g := by cases x <;> rfl
@[simp] theorem setTraps_k (t : Strand) (x : Level) (r : TrapRegs) : (t.setTraps x r).k = t.k := by cases x <;> rfl
@[simp] theorem setTraps_pc (t : Strand) (x : Level) (r : TrapRegs) : (t.setTraps x r).pc = t.pc := by cases x <;> rfl
@[simp] theorem setTraps_level (t : Strand) (x : Level) (r : TrapRegs) : (t.setTraps x r).level = t.level := by cases x <;> rfl
@[simp] theorem setTraps_mmode (t : Strand) (x : Level) (r : TrapRegs) : (t.setTraps x r).mmode = t.mmode := by cases x <;> rfl
@[simp] theorem setTraps_nv (t : Strand) (x : Level) (r : TrapRegs) : (t.setTraps x r).nv = t.nv := by cases x <;> rfl
@[simp] theorem setTraps_ew (t : Strand) (x : Level) (r : TrapRegs) : (t.setTraps x r).ew = t.ew := by cases x <;> rfl
@[simp] theorem setTraps_groups (t : Strand) (x : Level) (r : TrapRegs) : (t.setTraps x r).groups = t.groups := by cases x <;> rfl
@[simp] theorem setTraps_vl (t : Strand) (x : Level) (r : TrapRegs) : (t.setTraps x r).vl = t.vl := by cases x <;> rfl
@[simp] theorem setTraps_vstart (t : Strand) (x : Level) (r : TrapRegs) : (t.setTraps x r).vstart = t.vstart := by cases x <;> rfl
@[simp] theorem setTraps_v (t : Strand) (x : Level) (r : TrapRegs) : (t.setTraps x r).v = t.v := by cases x <;> rfl
@[simp] theorem setTraps_m (t : Strand) (x : Level) (r : TrapRegs) : (t.setTraps x r).m = t.m := by cases x <;> rfl
@[simp] theorem setTraps_mqOff (t : Strand) (x : Level) (r : TrapRegs) : (t.setTraps x r).mqOff = t.mqOff := by cases x <;> rfl
@[simp] theorem setTraps_vfs (t : Strand) (x : Level) (r : TrapRegs) : (t.setTraps x r).vfs = t.vfs := by cases x <;> rfl
@[simp] theorem setTraps_fpmode (t : Strand) (x : Level) (r : TrapRegs) : (t.setTraps x r).fpmode = t.fpmode := by cases x <;> rfl
@[simp] theorem setTraps_fpflags (t : Strand) (x : Level) (r : TrapRegs) : (t.setTraps x r).fpflags = t.fpflags := by cases x <;> rfl
@[simp] theorem setTraps_tiles (t : Strand) (x : Level) (r : TrapRegs) : (t.setTraps x r).tiles = t.tiles := by cases x <;> rfl
@[simp] theorem setTraps_held (t : Strand) (x : Level) (r : TrapRegs) : (t.setTraps x r).held = t.held := by cases x <;> rfl
@[simp] theorem setTraps_tm (t : Strand) (x : Level) (r : TrapRegs) : (t.setTraps x r).tm = t.tm := by cases x <;> rfl
@[simp] theorem setTraps_tn (t : Strand) (x : Level) (r : TrapRegs) : (t.setTraps x r).tn = t.tn := by cases x <;> rfl
@[simp] theorem setTraps_tk (t : Strand) (x : Level) (r : TrapRegs) : (t.setTraps x r).tk = t.tk := by cases x <;> rfl
@[simp] theorem setTraps_trow (t : Strand) (x : Level) (r : TrapRegs) : (t.setTraps x r).trow = t.trow := by cases x <;> rfl
@[simp] theorem setTraps_ttype (t : Strand) (x : Level) (r : TrapRegs) : (t.setTraps x r).ttype = t.ttype := by cases x <;> rfl
@[simp] theorem setTraps_sat (t : Strand) (x : Level) (r : TrapRegs) : (t.setTraps x r).sat = t.sat := by cases x <;> rfl
@[simp] theorem setTraps_td (t : Strand) (x : Level) (r : TrapRegs) : (t.setTraps x r).td = t.td := by cases x <;> rfl
@[simp] theorem setTraps_claims (t : Strand) (x : Level) (r : TrapRegs) : (t.setTraps x r).claims = t.claims := by cases x <;> rfl
@[simp] theorem setTraps_cc (t : Strand) (x : Level) (r : TrapRegs) : (t.setTraps x r).cc = t.cc := by cases x <;> rfl
@[simp] theorem setTraps_bnd (t : Strand) (x : Level) (r : TrapRegs) : (t.setTraps x r).bnd = t.bnd := by cases x <;> rfl
@[simp] theorem setTraps_deadline (t : Strand) (x : Level) (r : TrapRegs) : (t.setTraps x r).deadline = t.deadline := by cases x <;> rfl
@[simp] theorem setTraps_evDoorbell (t : Strand) (x : Level) (r : TrapRegs) : (t.setTraps x r).evDoorbell = t.evDoorbell := by cases x <;> rfl
@[simp] theorem setTraps_evWatch (t : Strand) (x : Level) (r : TrapRegs) : (t.setTraps x r).evWatch = t.evWatch := by cases x <;> rfl
@[simp] theorem setTraps_kbase (t : Strand) (x : Level) (r : TrapRegs) : (t.setTraps x r).kbase = t.kbase := by cases x <;> rfl
@[simp] theorem setTraps_kbaseH (t : Strand) (x : Level) (r : TrapRegs) : (t.setTraps x r).kbaseH = t.kbaseH := by cases x <;> rfl
@[simp] theorem setTraps_scratchbase (t : Strand) (x : Level) (r : TrapRegs) : (t.setTraps x r).scratchbase = t.scratchbase := by cases x <;> rfl
@[simp] theorem setTraps_stepArm (t : Strand) (x : Level) (r : TrapRegs) : (t.setTraps x r).stepArm = t.stepArm := by cases x <;> rfl
@[simp] theorem setTraps_stepAt (t : Strand) (x : Level) (r : TrapRegs) : (t.setTraps x r).stepAt = t.stepAt := by cases x <;> rfl
@[simp] theorem setTraps_stepDone (t : Strand) (x : Level) (r : TrapRegs) : (t.setTraps x r).stepDone = t.stepDone := by cases x <;> rfl
@[simp] theorem setTraps_queue (t : Strand) (x : Level) (r : TrapRegs) : (t.setTraps x r).queue = t.queue := by cases x <;> rfl
@[simp] theorem setTraps_holdS (t : Strand) (x : Level) (r : TrapRegs) : (t.setTraps x r).holdS = t.holdS := by cases x <;> rfl
@[simp] theorem setTraps_holdH (t : Strand) (x : Level) (r : TrapRegs) : (t.setTraps x r).holdH = t.holdH := by cases x <;> rfl
@[simp] theorem setTraps_trip (t : Strand) (x : Level) (r : TrapRegs) : (t.setTraps x r).trip = t.trip := by cases x <;> rfl
@[simp] theorem setTraps_deferred (t : Strand) (x : Level) (r : TrapRegs) : (t.setTraps x r).deferred = t.deferred := by cases x <;> rfl
@[simp] theorem setTraps_parked (t : Strand) (x : Level) (r : TrapRegs) : (t.setTraps x r).parked = t.parked := by cases x <;> rfl
@[simp] theorem setTraps_exiting (t : Strand) (x : Level) (r : TrapRegs) : (t.setTraps x r).exiting = t.exiting := by cases x <;> rfl
@[simp] theorem setTraps_watch (t : Strand) (x : Level) (r : TrapRegs) : (t.setTraps x r).watch = t.watch := by cases x <;> rfl
@[simp] theorem setTraps_watchVa (t : Strand) (x : Level) (r : TrapRegs) : (t.setTraps x r).watchVa = t.watchVa := by cases x <;> rfl
@[simp] theorem setTraps_watchSlow (t : Strand) (x : Level) (r : TrapRegs) : (t.setTraps x r).watchSlow = t.watchSlow := by cases x <;> rfl
@[simp] theorem setTraps_watched (t : Strand) (x : Level) (r : TrapRegs) : (t.setTraps x r).watched = t.watched := by cases x <;> rfl
@[simp] theorem setTraps_watchFull (t : Strand) (x : Level) (r : TrapRegs) : (t.setTraps x r).watchFull = t.watchFull := by cases x <;> rfl
@[simp] theorem setTraps_links (t : Strand) (x : Level) (r : TrapRegs) : (t.setTraps x r).links = t.links := by cases x <;> rfl
@[simp] theorem setTraps_prefetch (t : Strand) (x : Level) (r : TrapRegs) : (t.setTraps x r).prefetch = t.prefetch := by cases x <;> rfl
@[simp] theorem setTraps_poison (t : Strand) (x : Level) (r : TrapRegs) : (t.setTraps x r).poison = t.poison := by cases x <;> rfl
@[simp] theorem setTraps_healed (t : Strand) (x : Level) (r : TrapRegs) : (t.setTraps x r).healed = t.healed := by cases x <;> rfl
@[simp] theorem setTraps_soft (t : Strand) (x : Level) (r : TrapRegs) : (t.setTraps x r).soft = t.soft := by cases x <;> rfl
@[simp] theorem setTraps_runs (t : Strand) (x : Level) (r : TrapRegs) : (t.setTraps x r).runs = t.runs := by cases x <;> rfl
@[simp] theorem setTraps_runCounts (t : Strand) (x : Level) (r : TrapRegs) : (t.setTraps x r).runCounts = t.runCounts := by cases x <;> rfl
@[simp] theorem setTraps_flagBytes (t : Strand) (x : Level) (r : TrapRegs) : (t.setTraps x r).flagBytes = t.flagBytes := by cases x <;> rfl
@[simp] theorem setTraps_arrivals (t : Strand) (x : Level) (r : TrapRegs) : (t.setTraps x r).arrivals = t.arrivals := by cases x <;> rfl
@[simp] theorem setTraps_arrived (t : Strand) (x : Level) (r : TrapRegs) : (t.setTraps x r).arrived = t.arrived := by cases x <;> rfl
@[simp] theorem setTraps_entering (t : Strand) (x : Level) (r : TrapRegs) : (t.setTraps x r).entering = t.entering := by cases x <;> rfl
@[simp] theorem setTraps_order (t : Strand) (x : Level) (r : TrapRegs) : (t.setTraps x r).order = t.order := by cases x <;> rfl
@[simp] theorem setTraps_deferSince (t : Strand) (x : Level) (r : TrapRegs) : (t.setTraps x r).deferSince = t.deferSince := by cases x <;> rfl

end Sys2Proof.Laws
end

