-- ==== Sys2Proof/Laws/Ops.lean ====
section
/-! SUPPORT. What the shared operations do, said once: registers read after written, taking and leaving a trap, the shapes of scalar and vector
instructions. -/

namespace Sys2Proof.Laws

open Sys2Proof.Machine Sys2Proof.Safety

/-! Registers. -/

/-- R8: g0 reads zero. -/
@[simp] theorem readG_zero (t : Strand) : t.readG 0 = 0 := rfl

/-- R8: what a g register reads after a write; a write of g0 is discarded. -/
theorem readG_writeG (t : Strand) (n m : Nat) (x : Word) : (t.writeG n x).readG m = if m = n ∧ n ≠ 0 then x else t.readG m := by
  unfold Strand.writeG Strand.readG
  by_cases hn : n = 0
  · simp [hn]
  · by_cases hm : m = 0
    · simp [hm, Ne.symm hn]
    · by_cases h : m = n
      · simp [h, hn]
      · simp [h, hn, hm, cellGet_cellSet_other _ _ _ _ _ h]

@[simp] theorem readG_writeG_same (t : Strand) (n : Nat) (x : Word) (h : n ≠ 0) : (t.writeG n x).readG n = x := by simp [readG_writeG, h]

theorem readG_writeG_other (t : Strand) (n m : Nat) (x : Word) (h : m ≠ n) : (t.writeG n x).readG m = t.readG m := by simp [readG_writeG, h]

theorem readK_writeK (t : Strand) (n m : Nat) (x : Word) : (t.writeK n x).readK m = if m = n then x else t.readK m := cellGet_cellSet 0 t.k n m x

theorem elemKey_inj (n m i j : Nat) (hi : i < 65536) (hj : j < 65536) : Strand.elemKey m j = Strand.elemKey n i ↔ m = n ∧ j = i := by
  unfold Strand.elemKey; omega

/-- R231: what an element reads after a write of one. -/
theorem readV_writeV (t : Strand) (n m i j x : Nat) (hi : i < 65536) (hj : j < 65536) :
    (t.writeV n i x).readV m j = if m = n ∧ j = i then low t.ew x else t.readV m j := by
  unfold Strand.readV
  simp only [writeV_v, cellGet_cellSet, elemKey_inj n m i j hi hj]

/-- R232: what a mask bit reads after a write of one. -/
theorem readM_writeM (t : Strand) (n m i j : Nat) (b : Bool) (hi : i < 65536) (hj : j < 65536) :
    (t.writeM n i b).readM m j = if m = n ∧ j = i then b else t.readM m j := by
  unfold Strand.readM Strand.writeM
  by_cases hm : m = 8 <;> by_cases hn : n = 8
  · subst hm hn
    by_cases h : j = i <;> simp [h, cellGet_cellSet]
  · subst hm; simp [hn, Ne.symm hn]
  · subst hn; simp [hm]
  · simp only [hm, hn, if_false, cellGet_cellSet, elemKey_inj n m i j hi hj]

theorem readCC_writeCC (t : Strand) (n m : Nat) (x : CC) : (t.writeCC n x).readCC m = if m = n then x else t.readCC m :=
  cellGet_cellSet ({} : CC) t.cc n m x

theorem readBnd_writeBnd (t : Strand) (n m : Nat) (x : Option Binding) : (t.writeBnd n x).readBnd m = if m = n then x else t.readBnd m :=
  cellGet_cellSet none t.bnd n m x

/-! Scalar completion. -/

/-- What a scalar instruction with one result leaves. -/
theorem scalarDone_eq (o : Ops) (s : State) (x : Word) (fl : Flags) :
    scalarDone o s x fl = .next { s with cpu := ((s.cpu.writeG o.D x).orFlags fl).advance o.bytes } := rfl

/-- R197: at a level that suffices an instruction goes on. -/
theorem atLevel_pass (l : Level) (i : Instr) (s : State) (k : Out) (h : ¬ s.cpu.level.rank < l.rank) : atLevel l i s k = k := if_neg h

/-- R197: below its level an instruction traps PRIV. -/
theorem atLevel_trap (l : Level) (i : Instr) (s : State) (k : Out) (h : s.cpu.level.rank < l.rank) :
    atLevel l i s k = .next (scalarTrap s causePriv (instrWord i)) := if_pos h

/-! Traps. -/

/-- With an empty queue a scalar trap is entered at once. -/
theorem scalarTrapAt_empty (s : State) (c : Nat) (v e : Word) (h : s.cpu.queue = []) :
    scalarTrapAt s c v e = enterTrap s (trapTarget c s.cpu.level) c v e := by unfold scalarTrapAt; rw [h]

/-- R59: behind an older queue entry a scalar trap waits. -/
theorem scalarTrapAt_waits (s : State) (c : Nat) (v e : Word) (h : s.cpu.queue ≠ []) : scalarTrapAt s c v e = s.park := by
  unfold scalarTrapAt
  cases hq : s.cpu.queue with
  | nil => exact absurd hq h
  | cons x rest => rfl

@[simp] theorem enterTrap_level (s : State) (x : Level) (c : Nat) (v e : Word) : (enterTrap s x c v e).cpu.level = x := by
  cases x <;> rfl
@[simp] theorem enterTrap_pc (s : State) (x : Level) (c : Nat) (v e : Word) : (enterTrap s x c v e).cpu.pc = s.tvec x := by
  cases x <;> rfl
@[simp] theorem enterTrap_mmode (s : State) (x : Level) (c : Nat) (v e : Word) : (enterTrap s x c v e).cpu.mmode = false := by
  cases x <;> rfl
@[simp] theorem enterTrap_g (s : State) (x : Level) (c : Nat) (v e : Word) : (enterTrap s x c v e).cpu.g = s.cpu.g := by
  cases x <;> rfl
@[simp] theorem enterTrap_queue (s : State) (x : Level) (c : Nat) (v e : Word) : (enterTrap s x c v e).cpu.queue = s.cpu.queue := by
  cases x <;> rfl
@[simp] theorem enterTrap_td (s : State) (x : Level) (c : Nat) (v e : Word) :
    (enterTrap s x c v e).cpu.td = (s.cpu.td || decide (s.cpu.held ≠ 0)) := by
  cases x <;> rfl

/-- R331: the trap registers of the level that is entered. -/
theorem enterTrap_traps (s : State) (x : Level) (c : Nat) (v e : Word) :
    (enterTrap s x c v e).cpu.traps x =
      { s.cpu.traps x with cause := BitVec.ofNat 8 c, tval := v, epc := e &&& ~~~7, plvl := BitVec.ofNat 2 s.cpu.level.rank,
                           pmm := s.cpu.mmode, pie := (s.cpu.traps x).ie, ie := false } := by
  cases x <;> rfl

/-! The head of the vector queue. -/

theorem headChecks_pass (i : Instr) (types : List Nat) (s : State) (k : Out) (h : badVreg s.cpu i = none)
    (ht : types.any (fun t => decide (t < 13) && decide (s.cpu.ew < typeWidth t)) = false) : headChecks i types none s k = k := by
  simp [headChecks, h, ht]

theorem atHead_pass (i : Instr) (types : List Nat) (s : State) (k : Out) (h : HeadReady i types s.cpu) : atHead i types s k = k := by
  simp only [atHead, h.sources]
  exact headChecks_pass i types s k h.registers h.types

theorem unlessVl0_pass (s : State) (k : Out) (h : s.cpu.vl ≠ 0) : unlessVl0 s k = k := if_neg h
theorem unlessVl0_none (s : State) (k : Out) (h : s.cpu.vl = 0) : unlessVl0 s k = .next (s.retire id) := if_pos h

/-- R235: where no active element traps, an element-wise instruction completes. -/
theorem runElems_done (s : State) (act : List Nat) (f : Nat → Elem) (w : Strand → Nat → Nat → Strand) (fin : Strand → Strand)
    (h : ∀ i ∈ act, (f i).abn = none) : runElems s act f w fin = .next (s.retire (fun t => fin ((putAll w f t act).orFlags (flagsOf f act)))) := by
  have : act.find? (fun i => (f i).abn.isSome) = none := by
    rw [List.find?_eq_none]; intro i hi; simp [h i hi]
  unfold runElems; rw [this]

/-- R231, R235: an element-wise instruction that no check stops. -/
theorem vectorOp_done (i : Instr) (o : Ops) (types : List Nat) (neg : Bool) (s : State) (f : Nat → Elem) (w : Strand → Nat → Nat → Strand)
    (hd : HeadReady i types s.cpu) (hvl : s.cpu.vl ≠ 0) (h : ∀ k ∈ activeList s.cpu o neg, (f k).abn = none) :
    vectorOp i o types neg s f w =
      .next (s.retire (fun t => (putAll w f t (activeList s.cpu o neg)).orFlags (flagsOf f (activeList s.cpu o neg)))) := by
  unfold vectorOp
  rw [atHead_pass _ _ _ _ hd, unlessVl0_pass _ _ hvl, runElems_done _ _ _ _ _ h]
  rfl

/-- The elements of the destination after the results of some elements have been written. -/
theorem readV_putAll (o : Ops) (f : Nat → Elem) (l : List Nat) : ∀ (t : Strand) (m j : Nat), (∀ i ∈ l, i < 65536) → j < 65536 →
    (putAll (putV o) f t l).readV m j = if m = o.D ∧ j ∈ l then low t.ew (extendV t.ew o.T (f j).val) else t.readV m j := by
  induction l with
  | nil => intro t m j _ _; simp [putAll]
  | cons i rest ih =>
    intro t m j hl hj
    have hr : ∀ k ∈ rest, k < 65536 := fun k hk => hl k (List.mem_cons_of_mem _ hk)
    have hstep : putAll (putV o) f t (i :: rest) = putAll (putV o) f (putV o t i (f i).val) rest := rfl
    rw [hstep, ih _ m j hr hj]
    have hew : (putV o t i (f i).val).ew = t.ew := rfl
    rw [hew]
    by_cases hm : m = o.D
    · by_cases hin : j ∈ rest
      · simp [hm, hin]
      · by_cases hji : j = i
        · subst hji
          simp only [hm, hin, and_false, if_false, List.mem_cons, true_or, and_true, if_true]
          unfold putV
          rw [readV_writeV _ _ _ _ _ _ (hl j (List.mem_cons_self ..)) hj]; simp
        · simp only [hm, hin, and_false, if_false, List.mem_cons, hji, or_self]
          unfold putV
          rw [readV_writeV _ _ _ _ _ _ (hl i (List.mem_cons_self ..)) hj]; simp [hji]
    · simp only [hm, false_and, if_false]
      unfold putV
      rw [readV_writeV _ _ _ _ _ _ (hl i (List.mem_cons_self ..)) hj]; simp [hm]

/-- Writing results into a v register touches nothing of the strand but the v registers and their poison marks. -/
theorem putAll_frame {β : Type} (o : Ops) (f : Nat → Elem) (fld : Strand → β) (hf : ∀ t n i x, fld (Strand.writeV t n i x) = fld t) (l : List Nat) :
    ∀ t : Strand, fld (putAll (putV o) f t l) = fld t := by
  induction l with
  | nil => intro t; rfl
  | cons i rest ih => intro t; exact (ih _).trans (hf _ _ _ _)

end Sys2Proof.Laws
end

