-- ==== Sys2Proof/Laws/Memory.lean ====
section
/-! SUPPORT. Translations and reads leave the bytes of memory alone, and every write of memory keeps the canonical form. -/

namespace Sys2Proof.Laws

open Sys2Proof.Machine

/-- No byte of memory, and none of a spilled page, has changed. -/
def MemSame (s t : State) : Prop := t.mem = s.mem ∧ t.hostMem = s.hostMem

/-- The canonical form has been kept. -/
def WfKept (s t : State) : Prop := (Memory.wf s.mem = true → Memory.wf t.mem = true) ∧ t.hostMem = s.hostMem

theorem MemSame.refl (s : State) : MemSame s s := ⟨rfl, rfl⟩
theorem MemSame.trans {a b c : State} (h : MemSame a b) (k : MemSame b c) : MemSame a c := ⟨k.1.trans h.1, k.2.trans h.2⟩
theorem WfKept.refl (s : State) : WfKept s s := ⟨id, rfl⟩
theorem WfKept.trans {a b c : State} (h : WfKept a b) (k : WfKept b c) : WfKept a c := ⟨fun x => k.1 (h.1 x), k.2.trans h.2⟩
theorem MemSame.wf {a b : State} (h : MemSame a b) : WfKept a b := ⟨fun x => h.1 ▸ x, h.2⟩

/-- The state that a memory operation answers with. -/
def accState {α : Type} : Acc α → State
  | .ok _ s => s
  | .fault _ _ s => s
  | .wait s => s

theorem andThen_same {α β : Type} (s : State) (x : Acc α) (f : α → State → Acc β) (hx : MemSame s (accState x))
    (hf : ∀ a t, MemSame t (accState (f a t))) : MemSame s (accState (x.andThen f)) := by
  cases x with
  | ok a t => exact MemSame.trans hx (hf a t)
  | fault c v t => exact hx
  | wait t => exact hx

theorem same_of {α : Type} {s : State} {x y : Acc α} (h : x = y) (hx : MemSame s (accState x)) : MemSame s (accState y) := h ▸ hx

/-! Translation. -/

theorem tlbFill_same (s : State) (w : Who) (page pkg : Nat) (l : Leaf) (g : BitVec 8) : MemSame s (tlbFill s w page pkg l g) := by
  unfold tlbFill; split <;> exact ⟨rfl, rfl⟩

theorem useLeaf_same (s : State) (w : Who) (l : Leaf) (k : AccKind) (pkg : Nat) (va : Word) (g : BitVec 8) :
    MemSame s (accState (useLeaf s w l k pkg va g)) := by
  unfold useLeaf; simp only; repeat' split
  all_goals exact ⟨rfl, rfl⟩

theorem useHome_same (s : State) (vi rc ha n hint : Nat) (u : FrameUse) (host : Bool) : MemSame s (useHome s vi rc ha n hint u host) := by
  unfold useHome; split <;> exact ⟨rfl, rfl⟩

/-- A walk's reads change caches alone. -/
theorem noteWalk_same (s : State) (pkg die chan vi a : Nat) : MemSame s (noteWalk s pkg die chan vi a) := by
  unfold noteWalk
  generalize walkReads s pkg die chan vi a = l
  induction l generalizing s with
  | nil => exact MemSame.refl s
  | cons x rest ih => exact MemSame.trans (useHome_same s vi 0 x 8 0 .read false) (ih _)

theorem placePg_same (s : State) (w : Who) (va : Word) (k : AccKind) : MemSame s (accState (placePg s w va k)) := by
  unfold placePg; simp only
  repeat' split
  all_goals first
    | exact MemSame.refl s
    | exact noteWalk_same ..
    | (rename_i heq; exact same_of heq (useLeaf_same s ..))
    | (rename_i heq; exact MemSame.trans (same_of heq (useLeaf_same s ..)) ⟨rfl, rfl⟩)
    | (rename_i heq; exact MemSame.trans (noteWalk_same ..) (same_of heq (useLeaf_same ..)))
    | (rename_i heq; exact MemSame.trans (noteWalk_same ..) (MemSame.trans (same_of heq (useLeaf_same ..)) (MemSame.trans (tlbFill_same ..) ⟨rfl, rfl⟩)))

theorem placeWindow_same (s : State) (w : Who) (va : Word) (k : AccKind) : MemSame s (accState (placeWindow s w va k)) := by
  have h := fun a => placePg_same s { w with tlb := none } a k
  unfold placeWindow; simp only
  split
  · exact MemSame.refl s
  · split
    · exact MemSame.refl s
    · split
      · exact MemSame.refl s
      · split <;> (rename_i heq; have := congrArg accState heq; simp only [accState] at this ⊢; rw [← this]; exact h _)

theorem placeOnChip_same (s : State) (w : Who) (va : Word) (n : Nat) (k : AccKind) : MemSame s (accState (placeOnChip s w va n k)) := by
  unfold placeOnChip; simp only
  repeat' split
  all_goals exact MemSame.refl s

/-- A translation changes no byte of memory. -/
theorem placeOf_same (s : State) (w : Who) (va : Word) (n : Nat) (k : AccKind) : MemSame s (accState (placeOf s w va n k)) := by
  unfold placeOf; split
  · exact placePg_same ..
  · exact placeWindow_same ..
  · exact placeOnChip_same ..
  · exact MemSame.refl s

theorem placesIn_same (w : Who) (k : AccKind) (l : List (Word × Nat)) : ∀ s, MemSame s (accState (placesIn w k s l)) := by
  induction l with
  | nil => intro s; exact MemSame.refl s
  | cons x rest ih =>
    intro s
    obtain ⟨va, n⟩ := x
    have h := placeOf_same s w va n k
    unfold placesIn
    cases hx : placeOf s w va n k with
    | fault c v s1 => rw [hx] at h; exact h
    | wait s1 => rw [hx] at h; exact h
    | ok p s1 =>
      rw [hx] at h
      have h2 := ih s1
      simp only
      cases hy : placesIn w k s1 rest <;> (rw [hy] at h2; exact MemSame.trans h h2)

theorem placesOf_same (s : State) (w : Who) (va : Word) (n : Nat) (k : AccKind) : MemSame s (accState (placesOf s w va n k)) := by
  have h := placesIn_same w k (partsOf va n) s
  unfold placesOf rangeOf
  cases hx : placesIn w k s (partsOf va n) <;> (rw [hx] at h; exact h)

/-! Reads. -/

theorem windowPart_same (s : State) (w : Who) (rc key off ha n hint : Nat) : MemSame s (windowPart s w rc key off ha n hint).2 := ⟨rfl, rfl⟩

theorem windowRead_same (w : Who) (rc key hint : Nat) (l : List (Nat × Nat)) : ∀ s off, MemSame s (windowRead s w rc key hint off l).2 := by
  induction l with
  | nil => intro s off; exact MemSame.refl s
  | cons x rest ih =>
    intro s off
    obtain ⟨ha, n⟩ := x
    exact MemSame.trans (windowPart_same s w rc key off ha n hint) (ih _ _)

theorem readPlace_same (s : State) (w : Who) (hint : Nat) (p : Place) (n : Nat) : MemSame s (readPlace s w hint p n).2 := by
  unfold readPlace
  split
  · exact MemSame.refl s
  · split
    · exact MemSame.refl s
    · split
      · exact windowRead_same w _ _ _ _ s _
      · exact useHome_same ..
  · split <;> exact MemSame.refl s
  · split <;> exact MemSame.refl s

theorem readPlaces_same (w : Who) (hint : Nat) (v : Word) (l : List (Place × Nat)) : ∀ s, MemSame s (accState (readPlaces w hint v s l)) := by
  induction l with
  | nil => intro s; exact MemSame.refl s
  | cons x rest ih =>
    intro s
    obtain ⟨p, n⟩ := x
    unfold readPlaces
    split
    · exact MemSame.refl s
    · have h := readPlace_same s w hint p n
      simp only
      split
      · exact h
      · exact MemSame.trans h (andThen_same _ _ _ (ih _) (fun _ t => MemSame.refl t))

/-- A blocking read changes no byte of memory. -/
theorem readMem_same (s : State) (w : Who) (va : Word) (n hint : Nat) (k : AccKind) : MemSame s (accState (readMem s w va n hint k)) :=
  andThen_same _ _ _ (placesOf_same ..) (fun ps t => readPlaces_same w hint va ps t)

theorem l1Line_same (s : State) (w : Who) (p : Place) (ha n hint : Nat) : MemSame s (l1Line s w p ha n hint).2 := by
  unfold l1Line; simp only
  split
  · exact MemSame.refl s
  · split
    · exact MemSame.refl s
    · split
      · exact useHome_same ..
      · exact MemSame.trans (useHome_same ..) ⟨rfl, rfl⟩

theorem l1Parts_same (w : Who) (p : Place) (hint : Nat) (v : Word) (l : List (Nat × Nat)) : ∀ s, MemSame s (accState (l1Parts w p hint v s l)) := by
  induction l with
  | nil => intro s; exact MemSame.refl s
  | cons x rest ih =>
    intro s
    obtain ⟨ha, n⟩ := x
    unfold l1Parts
    have h := l1Line_same s w p ha n hint
    split
    · next hx => rw [hx] at h; exact h
    · next hx =>
      rw [hx] at h
      exact MemSame.trans h (andThen_same _ _ _ (ih _) (fun _ t => MemSame.refl t))

theorem loadPlaces_same (w : Who) (hint : Nat) (v : Word) (l : List (Place × Nat)) : ∀ s, MemSame s (accState (loadPlaces w hint v s l)) := by
  induction l with
  | nil => intro s; exact MemSame.refl s
  | cons x rest ih =>
    intro s
    obtain ⟨p, n⟩ := x
    unfold loadPlaces
    refine andThen_same _ _ _ ?_ (fun b t => andThen_same _ _ _ (ih t) (fun _ u => MemSame.refl u))
    split
    · exact l1Parts_same ..
    · exact andThen_same _ _ _ (readPlaces_same ..) (fun _ t => MemSame.refl t)

/-- A scalar load changes no byte of memory. -/
theorem loadMem_same (s : State) (w : Who) (va : Word) (n hint : Nat) : MemSame s (accState (loadMem s w va n hint)) :=
  andThen_same _ _ _ (placesOf_same ..) (fun ps t => loadPlaces_same w hint va ps t)

/-! Writes keep the canonical form. -/

theorem putHomeByte_wf (s : State) (ck off : Nat) (b : Byte) (inv : Bool) : WfKept s (putHomeByte s ck off b inv) := by
  unfold putHomeByte
  split
  · exact ⟨fun h => wf_memSet _ _ _ h, rfl⟩
  · exact WfKept.refl s

theorem putHomeBytes_wf (ck : Nat) (inv : Bool) (l : List Byte) : ∀ s off, WfKept s (putHomeBytes s ck off inv l) := by
  induction l with
  | nil => intro s off; exact WfKept.refl s
  | cons b rest ih => intro s off; exact WfKept.trans (putHomeByte_wf s ck off b inv) (ih _ _)

theorem storeBytes_wf (s : State) (ha : Nat) (l : List Byte) (inv : Bool) : WfKept s (storeBytes s ha l inv) := by
  unfold storeBytes
  simp only
  split
  · exact ⟨fun h => wf_memWrite l _ _ h, rfl⟩
  · have h := putHomeBytes_wf (haChanKey ha) inv l s (haOff ha)
    exact ⟨h.1, h.2⟩

theorem storePieces_wf (n : Nat) : ∀ s ha l inv st, WfKept s (storePieces n s ha l inv st).1 := by
  induction n with
  | zero => intro s _ _ _ _; exact WfKept.refl s
  | succ n ih =>
    intro s ha l inv st
    unfold storePieces
    split
    · exact WfKept.refl s
    · simp only
      split
      · exact ih ..
      · exact WfKept.trans (storeBytes_wf ..) (ih ..)

theorem noteWrite_same (s : State) (ha n : Nat) : MemSame s (noteWrite s ha n) := ⟨rfl, rfl⟩

/-- A write at a home keeps the canonical form. -/
theorem homeWrite_wf (s : State) (vi rc ha : Nat) (l : List Byte) (inv : Bool) (hint : Nat := 0) (host : Bool := false) :
    WfKept s (homeWrite s vi rc ha l inv hint host).1 := by
  have h1 := storePieces_wf (l.length + 1) s ha l inv .ok
  have h2 := storeBytes_wf s ha l inv
  have h3 : ∀ t : State, WfKept t (noteWrite (useHome t vi rc ha l.length hint .write host) ha l.length) :=
    fun t => WfKept.trans (useHome_same ..).wf (noteWrite_same ..).wf
  unfold homeWrite
  by_cases c1 : l.length = 0
  · simp only [c1, if_true]; exact WfKept.refl s
  by_cases c2 : frameRefused s ha = true
  · simp only [c1, c2, if_false, if_true]; exact WfKept.refl s
  by_cases c3 : (!haIsScratch ha && meetsPacked (s.chan (haChanKey ha)) (haOff ha) l.length) = true
  · simp only [c1, c2, c3, if_false, if_true]; exact WfKept.refl s
  by_cases c4 : homePoisoned s ha l.length = true
  · simp only [c1, c2, c3, c4, if_false, if_true]; exact WfKept.trans h1 (h3 _)
  · simp only [c1, c2, c3, c4, if_false]; exact WfKept.trans h2 (h3 _)

theorem l1Note_same (s : State) (w : Who) (k : WriteKind) (ha : Nat) (l : List Byte) : MemSame s (l1Note s w k ha l) := by
  unfold l1Note l1Store l1Invalidate l1Drop
  split
  · simp only; split <;> exact ⟨rfl, rfl⟩
  · split <;> exact ⟨rfl, rfl⟩
  · exact MemSame.refl s

theorem onTask_same (s : State) (tid : Nat) (f : Strand → Strand) : MemSame s (s.onTask tid f) := ⟨rfl, rfl⟩

/-- A write at a place keeps the canonical form. -/
theorem writePlace_wf (s : State) (w : Who) (k : WriteKind) (p : Place) (l : List Byte) (inv : Bool) : WfKept s (writePlace s w k p l inv).1 := by
  have h2 : ∀ t k2 f, WfKept t ((l1Note t w k2 p.ha l).onTask w.tid f) := fun t k2 f => ⟨fun x => (l1Note_same t w k2 p.ha l).wf.1 x, (l1Note_same t w k2 p.ha l).2⟩
  unfold writePlace
  split
  · exact WfKept.refl s
  · split
    · exact homeWrite_wf ..
    · have hw := homeWrite_wf s w.vi p.rc p.ha l inv w.hint w.host
      revert hw
      generalize homeWrite s w.vi p.rc p.ha l inv w.hint w.host = r
      intro hw
      obtain ⟨s1, st⟩ := r
      simp only
      repeat' split
      all_goals first
        | exact WfKept.trans hw (h2 s1 _ _)
        | exact hw
    · exact (onTask_same ..).wf
    · exact (onTask_same ..).wf

theorem writePlaces_wf (w : Who) (k : WriteKind) (inv : Bool) (ps : List (Place × Nat)) : ∀ s l, WfKept s (writePlaces w k inv s ps l).1 := by
  induction ps with
  | nil => intro s l; exact WfKept.refl s
  | cons x rest ih =>
    intro s l
    obtain ⟨p, n⟩ := x
    exact WfKept.trans (writePlace_wf s w k p (l.take n) inv) (ih _ _)

/-- A blocking write keeps the canonical form. -/
theorem writeMem_wf (s : State) (w : Who) (k : WriteKind) (va : Word) (l : List Byte) (inv : Bool) :
    WfKept s (accState (writeMem s w k va l inv)) := by
  unfold writeMem
  have h := placesOf_same s w va l.length .write
  cases hp : placesOf s w va l.length .write with
  | ok ps s1 =>
    rw [hp] at h
    have h2 := writePlaces_wf w k inv ps s1 l
    simp only [Acc.andThen]
    split <;> next hx => rw [hx] at h2; exact WfKept.trans (MemSame.wf h) h2
  | fault c v s1 => rw [hp] at h; exact h.wf
  | wait s1 => rw [hp] at h; exact h.wf

/-- An atomic at its home keeps the canonical form. -/
theorem atomicPlace_wf (s : State) (w : Who) (p : Place) (n : Nat) (f : List Byte → Option (List Byte)) : WfKept s (atomicPlace s w p n f).1 := by
  unfold atomicPlace
  have h := (readPlace_same s w 0 p n).wf
  split
  · exact WfKept.refl s
  · simp only
    repeat' split
    all_goals first
      | exact h
      | exact WfKept.trans h (writePlace_wf ..)

/-- A blocking atomic keeps the canonical form. -/
theorem atomicMem_wf (s : State) (w : Who) (va : Word) (n : Nat) (f : List Byte → Option (List Byte)) :
    WfKept s (accState (atomicMem s w va n f)) := by
  unfold atomicMem
  have h := placeOf_same s w va n .atomic
  cases hp : placeOf s w va n .atomic with
  | ok p s1 =>
    rw [hp] at h
    have h2 := atomicPlace_wf s1 w p n f
    simp only [Acc.andThen]
    split <;> next hx => rw [hx] at h2; exact WfKept.trans (MemSame.wf h) h2
  | fault c v s1 => rw [hp] at h; exact h.wf
  | wait s1 => rw [hp] at h; exact h.wf

theorem encodeBlock_wf (s : State) (ck : Nat) (r : FormatReg) (b : Nat) (l : List Byte) (inv : Bool) : WfKept s (encodeBlock s ck r b l inv) :=
  ⟨fun h => wf_memWrite _ _ _ (wf_memWrite _ _ _ h), rfl⟩

theorem encodeBlocks_wf (ck : Nat) (r : FormatReg) (first : Nat) (x : Sector) (n : Nat) : ∀ s, WfKept s (encodeBlocks ck r first x n s) := by
  induction n with
  | zero => intro s; exact WfKept.refl s
  | succ n ih =>
    intro s
    unfold encodeBlocks
    simp only
    split
    · exact WfKept.trans (encodeBlock_wf ..) (ih _)
    · exact ih s

/-- Writing a decoded sector back keeps the canonical form. -/
theorem writeBackSector_wf (s : State) (ck q : Nat) (keep : Bool) : WfKept s (writeBackSector s ck q keep) := by
  unfold writeBackSector
  split
  · exact WfKept.refl s
  · simp only
    repeat' split
    all_goals first
      | exact WfKept.refl s
      | exact WfKept.trans (encodeBlocks_wf ..) ⟨id, rfl⟩
      | exact ⟨id, rfl⟩

theorem writeBackSectors_wf (ck : Nat) (keep : Bool) (l : List Nat) : ∀ s, WfKept s (writeBackSectors s ck keep l) := by
  induction l with
  | nil => intro s; exact WfKept.refl s
  | cons q rest ih => intro s; exact WfKept.trans (writeBackSector_wf s ck q keep) (ih _)

theorem copyGens_wf (tag : Nat) (l : List (Nat × Nat)) : ∀ s, WfKept s (copyGens s tag l) := by
  induction l with
  | nil => intro s; exact WfKept.refl s
  | cons x rest ih =>
    intro s
    simp only [copyGens]
    refine WfKept.trans ?_ (ih _)
    repeat' split
    all_goals first
      | exact WfKept.refl s
      | exact ⟨fun h => wf_memSet _ _ _ h, rfl⟩

theorem advanceGen_wf (s : State) (tag : Nat) : WfKept s (advanceGen s tag) := by
  show WfKept s (copyGens _ tag _)
  refine WfKept.trans ?_ (copyGens_wf tag _ _)
  exact ⟨id, rfl⟩

/-- Writing back what the caches have put out keeps the canonical form. -/
theorem writeEvicted_wf (s : State) : WfKept s (writeEvicted s) := by
  unfold writeEvicted
  generalize s.chans.map (·.1) = l
  induction l generalizing s with
  | nil => exact WfKept.refl s
  | cons ck rest ih => exact WfKept.trans (writeBackSectors_wf ck false _ s) (ih _)

/-- Advancing a page's generation keeps the canonical form. -/
theorem advancePage_wf (s : State) (pkg die chan vi a : Nat) : WfKept s (advancePage s pkg die chan vi a) := advanceGen_wf ..

/-- Zeroing a range keeps the canonical form. -/
theorem zeroHome_wf (s : State) (ha n : Nat) : WfKept s (zeroHome s ha n) := ⟨fun h => wf_filter _ _ h, rfl⟩

/-! What a home reads after a store. -/

/-- In a channel without format regions a store writes its bytes and no other byte of memory. -/
theorem storeBytes_mem (s : State) (ha : Nat) (l : List Byte) (inv : Bool) (h : haIsScratch ha = true ∨ (s.chan (haChanKey ha)).regs = []) :
    (storeBytes s ha l inv).mem = memWrite s.mem ha l := by
  unfold storeBytes
  have : (haIsScratch ha || (s.chan (haChanKey ha)).regs.isEmpty) = true := by rcases h with h | h <;> simp [h]
  simp [this]

end Sys2Proof.Laws
end

