-- ==== Sys2Proof/Tests/Slice0.lean ====
section
/-! SUPPORT. Tests: words and values of the spec, ill-formed terms that the checks refuse, and states that meet the hypotheses of the statements. -/

namespace Sys2Proof.Tests

set_option Elab.async false

open Sys2Proof Sys2Proof.Machine Sys2Proof.Safety Sys2Proof.Claims

/-! Decoding: one word of every instruction, its fields shifted into place by hand as R179 says (OP << 52, D << 46, A << 40, C << 34, T << 30, M << 27, BK << 25,
BX), with the operation codes of R195's map. -/

/-- A word, and the instruction that it stands for. -/
def decodes (l : List (Word × Instr)) : Bool := l.all (fun x => decide (decode x.1 0 = .instr x.2 1))

theorem test_decode_scalar_integer : decodes
  [(0x0011060080600000, .add ⟨4, 6, 0, 2, 0, .reg 12 0x0⟩),
   (0x0021060080600000, .sub ⟨4, 6, 0, 2, 0, .reg 12 0x0⟩),
   (0x0031060080600000, .mul ⟨4, 6, 0, 2, 0, .reg 12 0x0⟩),
   (0x0041060080600000, .mulh ⟨4, 6, 0, 2, 0, .reg 12 0x0⟩),
   (0x0051060080600000, .div ⟨4, 6, 0, 2, 0, .reg 12 0x0⟩),
   (0x0061060080600000, .rem ⟨4, 6, 0, 2, 0, .reg 12 0x0⟩),
   (0x00710603C0600000, .and ⟨4, 6, 0, 15, 0, .reg 12 0x0⟩),
   (0x00810603C0600000, .or ⟨4, 6, 0, 15, 0, .reg 12 0x0⟩),
   (0x00910603C0600000, .xor ⟨4, 6, 0, 15, 0, .reg 12 0x0⟩),
   (0x00A10603C0600000, .andn ⟨4, 6, 0, 15, 0, .reg 12 0x0⟩),
   (0x00B1060080600000, .shl ⟨4, 6, 0, 2, 0, .reg 12 0x0⟩),
   (0x00C1060080600000, .shr ⟨4, 6, 0, 2, 0, .reg 12 0x0⟩),
   (0x00D1060080600000, .sar ⟨4, 6, 0, 2, 0, .reg 12 0x0⟩),
   (0x00E1060080600000, .rol ⟨4, 6, 0, 2, 0, .reg 12 0x0⟩),
   (0x00F1060080600000, .min ⟨4, 6, 0, 2, 0, .reg 12 0x0⟩),
   (0x0101060080600000, .max ⟨4, 6, 0, 2, 0, .reg 12 0x0⟩),
   (0x0111060880600000, .cmp ⟨4, 6, 2, 2, 0, .reg 12 0x0⟩),
   (0x0121062BC0600000, .sel ⟨4, 6, 10, 15, 0, .reg 12 0x0⟩),
   (0x0131060080000000, .clz ⟨4, 6, 0, 2, 0, .reg 0 0x0⟩),
   (0x0141060080000000, .ctz ⟨4, 6, 0, 2, 0, .reg 0 0x0⟩),
   (0x0151060080000000, .popc ⟨4, 6, 0, 2, 0, .reg 0 0x0⟩),
   (0x0161060080000000, .ext ⟨4, 6, 0, 2, 0, .reg 0 0x0⟩),
   (0x01710627C0600000, .addsh ⟨4, 6, 9, 15, 0, .reg 12 0x0⟩),
   (0x01810624C0600000, .bfx ⟨4, 6, 9, 3, 0, .reg 12 0x0⟩),
   (0x01910627C0600000, .bfi ⟨4, 6, 9, 15, 0, .reg 12 0x0⟩),
   (0x01A10003C4000007, .li ⟨4, 0, 0, 15, 0, .kbank 7⟩),
   (0x01B10003C4000007, .lih ⟨4, 0, 0, 15, 0, .kbank 7⟩),
   (0x01C10003C0600000, .mov ⟨4, 0, 0, 15, 0, .reg 12 0x0⟩),
   (0x01D1060080000000, .abs ⟨4, 6, 0, 2, 0, .reg 0 0x0⟩),
   (0x01E1062880600000, .madd ⟨4, 6, 10, 2, 0, .reg 12 0x0⟩)] = true := by decide +kernel

theorem test_decode_scalar_float : decodes
  [(0x0401060280600000, .fadd ⟨4, 6, 0, 10, 0, .reg 12 0x0⟩),
   (0x0411060280600000, .fsub ⟨4, 6, 0, 10, 0, .reg 12 0x0⟩),
   (0x0421060280600000, .fmul ⟨4, 6, 0, 10, 0, .reg 12 0x0⟩),
   (0x0431062A80600000, .ffma ⟨4, 6, 10, 10, 0, .reg 12 0x0⟩),
   (0x0441060280600000, .fdiv ⟨4, 6, 0, 10, 0, .reg 12 0x0⟩),
   (0x0451060280000000, .fsqrt ⟨4, 6, 0, 10, 0, .reg 0 0x0⟩),
   (0x0461060280600000, .fmin ⟨4, 6, 0, 10, 0, .reg 12 0x0⟩),
   (0x0471060280600000, .fmax ⟨4, 6, 0, 10, 0, .reg 12 0x0⟩),
   (0x0481060A80600000, .fcmp ⟨4, 6, 2, 10, 0, .reg 12 0x0⟩),
   (0x0491062E80000002, .fcvt ⟨4, 6, 11, 10, 0, .reg 0 0x2⟩),
   (0x04A1062C80000002, .fcvti ⟨4, 6, 11, 2, 0, .reg 0 0x2⟩),
   (0x04B1060A80000002, .icvtf ⟨4, 6, 2, 10, 0, .reg 0 0x2⟩),
   (0x04C1060280000000, .fabs ⟨4, 6, 0, 10, 0, .reg 0 0x0⟩),
   (0x04D1060280000000, .fneg ⟨4, 6, 0, 10, 0, .reg 0 0x0⟩),
   (0x04E1060280000000, .fclass ⟨4, 6, 0, 10, 0, .reg 0 0x0⟩),
   (0x04F1060280000000, .fabn ⟨4, 6, 0, 10, 0, .reg 0 0x0⟩)] = true := by decide +kernel

theorem test_decode_control : decodes
  [(0x06000003C3FFFFFE, .br ⟨0, 0, 0, 15, 0, .imm 0x1fffffe⟩),
   (0x0611060883FFFFFE, .bcc ⟨4, 6, 2, 2, 0, .imm 0x1fffffe⟩),
   (0x06200603C3FFFFFE, .bz ⟨0, 6, 0, 15, 0, .imm 0x1fffffe⟩),
   (0x06300603C3FFFFFE, .bnz ⟨0, 6, 0, 15, 0, .imm 0x1fffffe⟩),
   (0x06400703C3FFFFFE, .bmany ⟨0, 7, 0, 15, 0, .imm 0x1fffffe⟩),
   (0x06500703C3FFFFFE, .bmall ⟨0, 7, 0, 15, 0, .imm 0x1fffffe⟩),
   (0x06600703C3FFFFFE, .bmnone ⟨0, 7, 0, 15, 0, .imm 0x1fffffe⟩),
   (0x06700003C3FFFFFE, .call ⟨0, 0, 0, 15, 0, .imm 0x1fffffe⟩),
   (0x06800603C0000000, .callr ⟨0, 6, 0, 15, 0, .reg 0 0x0⟩),
   (0x06900603C0000000, .jr ⟨0, 6, 0, 15, 0, .reg 0 0x0⟩),
   (0x06A00003C2000005, .gate ⟨0, 0, 0, 15, 0, .imm 0x5⟩),
   (0x06B00003C0000000, .gret),
   (0x06C10003C3FFFFFE, .loopd ⟨4, 0, 0, 15, 0, .imm 0x1fffffe⟩),
   (0x06D00003C0000000, .exit),
   (0x06E00003C0000000, .yield),
   (0x06F00003C0000000, .nop)] = true := by decide +kernel

theorem test_decode_scalar_memory : decodes
  [(0x0801060080600D20, .ld ⟨4, 6, 0, 2, 0, .reg 12 0xd20⟩),
   (0x0811060080600E39, .st ⟨4, 6, 0, 2, 0, .reg 12 0xe39⟩),
   (0x0821060080600D20, .ldx ⟨4, 6, 0, 2, 0, .reg 12 0xd20⟩),
   (0x0831060080600E39, .stx ⟨4, 6, 0, 2, 0, .reg 12 0xe39⟩),
   (0x0840860BC0600020, .ldk ⟨2, 6, 2, 15, 0, .reg 12 0x20⟩),
   (0x08500603C0600020, .pref ⟨0, 6, 0, 15, 0, .reg 12 0x20⟩),
   (0x0861062680600E00, .amo ⟨4, 6, 9, 10, 0, .reg 12 0xe00⟩),
   (0x0871062A80600E00, .cas ⟨4, 6, 10, 10, 0, .reg 12 0xe00⟩),
   (0x0881062BC0600E00, .cas2 ⟨4, 6, 10, 15, 0, .reg 12 0xe00⟩),
   (0x0891060080600C20, .ldacq ⟨4, 6, 0, 2, 0, .reg 12 0xc20⟩),
   (0x08A1060080600C20, .strel ⟨4, 6, 0, 2, 0, .reg 12 0xc20⟩),
   (0x08B1010BC0600C00, .acq ⟨4, 1, 2, 15, 0, .reg 12 0xc00⟩),
   (0x08C00107C0600C00, .rel ⟨0, 1, 1, 15, 0, .reg 12 0xc00⟩),
   (0x08D08603C0600020, .bind ⟨2, 6, 0, 15, 0, .reg 12 0x20⟩),
   (0x08E08003C0000000, .unbind ⟨2, 0, 0, 15, 0, .reg 0 0x0⟩),
   (0x08F0000080000C00, .fence ⟨0, 0, 0, 2, 0, .reg 0 0xc00⟩)] = true := by decide +kernel

theorem test_decode_system : decodes
  [(0x0A010003C2000041, .mfsr ⟨4, 0, 0, 15, 0, .imm 0x41⟩),
   (0x0A100603C2000040, .mtsr ⟨0, 6, 0, 15, 0, .imm 0x40⟩),
   (0x0A100603C2000020, .mtsrVl ⟨0, 6, 0, 15, 0, .imm 0x20⟩),
   (0x0A100603C2000022, .mtsrVstart ⟨0, 6, 0, 15, 0, .imm 0x22⟩),
   (0x0A100603C2000023, .mtsrVfs ⟨0, 6, 0, 15, 0, .imm 0x23⟩),
   (0x0A100603C2000027, .mtsrLanemap ⟨0, 6, 0, 15, 0, .imm 0x27⟩),
   (0x0A100603C2000030, .mtsrTm ⟨0, 6, 0, 15, 0, .imm 0x30⟩),
   (0x0A100603C2000031, .mtsrTn ⟨0, 6, 0, 15, 0, .imm 0x31⟩),
   (0x0A100603C2000032, .mtsrTk ⟨0, 6, 0, 15, 0, .imm 0x32⟩),
   (0x0A100603C2000033, .mtsrTrow ⟨0, 6, 0, 15, 0, .imm 0x33⟩),
   (0x0A100603C2000034, .mtsrTstat ⟨0, 6, 0, 15, 0, .imm 0x34⟩),
   (0x0A100603C2000035, .mtsrTtype ⟨0, 6, 0, 15, 0, .imm 0x35⟩),
   (0x0A100603C2000041, .mtsrFpflags ⟨0, 6, 0, 15, 0, .imm 0x41⟩),
   (0x0A100603C2000053, .mtsrCc ⟨0, 6, 0, 15, 0, .imm 0x53⟩),
   (0x0A100603C2000070, .mtsrMmode ⟨0, 6, 0, 15, 0, .imm 0x70⟩),
   (0x0A100603C2000071, .mtsrTimer ⟨0, 6, 0, 15, 0, .imm 0x71⟩),
   (0x0A100603C2000100, .mtsrTstatus ⟨0, 6, 0, 15, 0, .imm 0x100⟩),
   (0x0A100603C2000104, .mtsrTvecGtbGtn ⟨0, 6, 0, 15, 0, .imm 0x104⟩),
   (0x0A200003C2000005, .trap ⟨0, 0, 0, 15, 0, .imm 0x5⟩),
   (0x0A300003C2000005, .brk ⟨0, 0, 0, 15, 0, .imm 0x5⟩),
   (0x0A400003C0000000, .eret),
   (0x0A500603C0600000, .tlbinv ⟨0, 6, 0, 15, 0, .reg 12 0x0⟩),
   (0x0A500007C0000000, .tlbinvDie ⟨0, 0, 1, 15, 0, .reg 0 0x0⟩),
   (0x0A600603C0600000, .flushr ⟨0, 6, 0, 15, 0, .reg 12 0x0⟩),
   (0x0A700603C0600000, .cinv ⟨0, 6, 0, 15, 0, .reg 12 0x0⟩),
   (0x0A810003C0000000, .tclaim ⟨4, 0, 0, 15, 0, .reg 0 0x0⟩),
   (0x0A900003C0000000, .trels),
   (0x0AA10603C0600000, .waitev ⟨4, 6, 0, 15, 0, .reg 12 0x0⟩),
   (0x0AA10607C0600000, .waitevArm ⟨4, 6, 1, 15, 0, .reg 12 0x0⟩),
   (0x0AB10603C0000000, .launch ⟨4, 6, 0, 15, 0, .reg 0 0x0⟩),
   (0x0AC10607C0600000, .ctxsave ⟨4, 6, 1, 15, 0, .reg 12 0x0⟩),
   (0x0AD10603C0600000, .ctxload ⟨4, 6, 0, 15, 0, .reg 12 0x0⟩),
   (0x0AE00003C0000000, .ifence)] = true := by decide +kernel

theorem test_decode_vector_configuration : decodes
  [(0x0B010003C2000009, .vconfig ⟨4, 0, 0, 15, 0, .imm 9⟩),
   (0x0B110607C0000000, .setvl ⟨4, 6, 1, 15, 0, .reg 0 0x0⟩),
   (0x0B210007C4000007, .setvli ⟨4, 0, 1, 15, 0, .kbank 7⟩),
   (0x0B314003C0000000, .mset ⟨5, 0, 0, 15, 0, .reg 0 0x0⟩),
   (0x0B414003C0000000, .mclr ⟨5, 0, 0, 15, 0, .reg 0 0x0⟩),
   (0x0B514703C0280000, .mand ⟨5, 7, 0, 15, 0, .reg 5 0x0⟩),
   (0x0B614703C0280000, .mor ⟨5, 7, 0, 15, 0, .reg 5 0x0⟩),
   (0x0B714703C0280000, .mxor ⟨5, 7, 0, 15, 0, .reg 5 0x0⟩),
   (0x0B814703C0000000, .mnot ⟨5, 7, 0, 15, 0, .reg 0 0x0⟩),
   (0x0B914703C0280000, .mandn ⟨5, 7, 0, 15, 0, .reg 5 0x0⟩),
   (0x0BA10703C0000000, .mpop ⟨4, 7, 0, 15, 0, .reg 0 0x0⟩),
   (0x0BB10703C0000000, .mfirst ⟨4, 7, 0, 15, 0, .reg 0 0x0⟩),
   (0x0BC14703C0000000, .mbefore ⟨5, 7, 0, 15, 0, .reg 0 0x0⟩),
   (0x0BD14703C0000000, .mincl ⟨5, 7, 0, 15, 0, .reg 0 0x0⟩),
   (0x0BE14703C0000000, .monly ⟨5, 7, 0, 15, 0, .reg 0 0x0⟩),
   (0x0BF14003C0000000, .mval ⟨5, 0, 0, 15, 0, .reg 0 0x0⟩)] = true := by decide +kernel

theorem test_decode_vector_integer : decodes
  [(0x0C05160498E00002, .vadd ⟨20, 22, 1, 2, 3, .reg 28 0x2⟩),
   (0x0C15160498E00002, .vsub ⟨20, 22, 1, 2, 3, .reg 28 0x2⟩),
   (0x0C25160498E00002, .vmul ⟨20, 22, 1, 2, 3, .reg 28 0x2⟩),
   (0x0C35160498E00002, .vmulh ⟨20, 22, 1, 2, 3, .reg 28 0x2⟩),
   (0x0C45160498E00002, .vdiv ⟨20, 22, 1, 2, 3, .reg 28 0x2⟩),
   (0x0C55160498E00002, .vrem ⟨20, 22, 1, 2, 3, .reg 28 0x2⟩),
   (0x0C65166898E00002, .vmadd ⟨20, 22, 26, 2, 3, .reg 28 0x2⟩),
   (0x0C75160498E00002, .vand ⟨20, 22, 1, 2, 3, .reg 28 0x2⟩),
   (0x0C85160498E00002, .vor ⟨20, 22, 1, 2, 3, .reg 28 0x2⟩),
   (0x0C95160498E00002, .vxor ⟨20, 22, 1, 2, 3, .reg 28 0x2⟩),
   (0x0CA5160498E00002, .vshl ⟨20, 22, 1, 2, 3, .reg 28 0x2⟩),
   (0x0CB5160498E00002, .vshr ⟨20, 22, 1, 2, 3, .reg 28 0x2⟩),
   (0x0CC5160498E00002, .vsar ⟨20, 22, 1, 2, 3, .reg 28 0x2⟩),
   (0x0CD5160498E00002, .vmin ⟨20, 22, 1, 2, 3, .reg 28 0x2⟩),
   (0x0CE5160498E00002, .vmax ⟨20, 22, 1, 2, 3, .reg 28 0x2⟩),
   (0x0CF5160498E00002, .vadds ⟨20, 22, 1, 2, 3, .reg 28 0x2⟩),
   (0x0D05160498E00002, .vsubs ⟨20, 22, 1, 2, 3, .reg 28 0x2⟩),
   (0x0D11560898E00002, .vcmp ⟨5, 22, 2, 2, 3, .reg 28 0x2⟩),
   (0x0D25160C98E00002, .vsel ⟨20, 22, 3, 2, 3, .reg 28 0x2⟩),
   (0x0D35160498000000, .vmov ⟨20, 22, 1, 2, 3, .reg 0 0x0⟩),
   (0x0D45000498600001, .vsplat ⟨20, 0, 1, 2, 3, .reg 12 0x1⟩),
   (0x0D55000498600001, .viota ⟨20, 0, 1, 2, 3, .reg 12 0x1⟩),
   (0x0D65160498000000, .vext ⟨20, 22, 1, 2, 3, .reg 0 0x0⟩),
   (0x0D75160498000000, .vpopc ⟨20, 22, 1, 2, 3, .reg 0 0x0⟩),
   (0x0D85160498000000, .vclz ⟨20, 22, 1, 2, 3, .reg 0 0x0⟩),
   (0x0D91160080600001, .vmvxs ⟨4, 22, 0, 2, 0, .reg 12 0x1⟩),
   (0x0DA5060080600001, .vmvsx ⟨20, 6, 0, 2, 0, .reg 12 0x1⟩),
   (0x0DB5160498000000, .vabs ⟨20, 22, 1, 2, 3, .reg 0 0x0⟩)] = true := by decide +kernel

theorem test_decode_vector_float : decodes
  [(0x1005160698E00002, .vfadd ⟨20, 22, 1, 10, 3, .reg 28 0x2⟩),
   (0x1015160698E00002, .vfsub ⟨20, 22, 1, 10, 3, .reg 28 0x2⟩),
   (0x1025160698E00002, .vfmul ⟨20, 22, 1, 10, 3, .reg 28 0x2⟩),
   (0x1035166A98E00002, .vfma ⟨20, 22, 26, 10, 3, .reg 28 0x2⟩),
   (0x1045166A98E00002, .vfnma ⟨20, 22, 26, 10, 3, .reg 28 0x2⟩),
   (0x1055160698E00002, .vfdiv ⟨20, 22, 1, 10, 3, .reg 28 0x2⟩),
   (0x1065160698000000, .vfsqrt ⟨20, 22, 1, 10, 3, .reg 0 0x0⟩),
   (0x1075160698E00002, .vfmin ⟨20, 22, 1, 10, 3, .reg 28 0x2⟩),
   (0x1085160698E00002, .vfmax ⟨20, 22, 1, 10, 3, .reg 28 0x2⟩),
   (0x1091560A98E00002, .vfcmp ⟨5, 22, 2, 10, 3, .reg 28 0x2⟩),
   (0x10A5162E98000004, .vfcvt ⟨20, 22, 11, 10, 3, .reg 0 0x4⟩),
   (0x10B5162C98000004, .vfcvti ⟨20, 22, 11, 2, 3, .reg 0 0x4⟩),
   (0x10C5160A98000004, .vicvtf ⟨20, 22, 2, 10, 3, .reg 0 0x4⟩),
   (0x10D5160698000000, .vfabs ⟨20, 22, 1, 10, 3, .reg 0 0x0⟩),
   (0x10E5160698000000, .vfneg ⟨20, 22, 1, 10, 3, .reg 0 0x0⟩),
   (0x10F5160698000000, .vfrece ⟨20, 22, 1, 10, 3, .reg 0 0x0⟩),
   (0x1105160698000000, .vfrsqe ⟨20, 22, 1, 10, 3, .reg 0 0x0⟩),
   (0x1111160298600001, .vredsum ⟨4, 22, 0, 10, 3, .reg 12 0x1⟩),
   (0x1121160298600001, .vredmin ⟨4, 22, 0, 10, 3, .reg 12 0x1⟩),
   (0x1131160298600001, .vredmax ⟨4, 22, 0, 10, 3, .reg 12 0x1⟩),
   (0x1141160898600001, .vredbit ⟨4, 22, 2, 2, 3, .reg 12 0x1⟩),
   (0x1151162898E00000, .vdot ⟨4, 22, 10, 2, 3, .reg 28 0x0⟩),
   (0x1165160718E00002, .vlmul ⟨20, 22, 1, 12, 3, .reg 28 0x2⟩),
   (0x1175160718E00002, .vladd ⟨20, 22, 1, 12, 3, .reg 28 0x2⟩),
   (0x1181560698000000, .vtstabn ⟨5, 22, 1, 10, 3, .reg 0 0x0⟩)] = true := by decide +kernel

theorem test_decode_permutation : decodes
  [(0x1405160498E00000, .vperm ⟨20, 22, 1, 2, 3, .reg 28 0x0⟩),
   (0x1415160498600001, .vslideup ⟨20, 22, 1, 2, 3, .reg 12 0x1⟩),
   (0x1425160498600001, .vslidedn ⟨20, 22, 1, 2, 3, .reg 12 0x1⟩),
   (0x1435160498000000, .vcompress ⟨20, 22, 1, 2, 3, .reg 0 0x0⟩),
   (0x1445160498000000, .vexpand ⟨20, 22, 1, 2, 3, .reg 0 0x0⟩),
   (0x1455160498E00000, .vzip ⟨20, 22, 1, 2, 3, .reg 28 0x0⟩),
   (0x1465160498E00000, .vunzip ⟨20, 22, 1, 2, 3, .reg 28 0x0⟩),
   (0x1475160498000000, .vrev ⟨20, 22, 1, 2, 3, .reg 0 0x0⟩),
   (0x1485160698000000, .vscan ⟨20, 22, 1, 10, 3, .reg 0 0x0⟩),
   (0x1495166898000000, .vsortk ⟨20, 22, 26, 2, 3, .reg 0 0x0⟩)] = true := by decide +kernel

theorem test_decode_vector_memory : decodes
  [(0x1605060498600D39, .vld ⟨20, 6, 1, 2, 3, .reg 12 0xd39⟩),
   (0x1615060498600D39, .vlds ⟨20, 6, 1, 2, 3, .reg 12 0xd39⟩),
   (0x1625060498E00D39, .vldx ⟨20, 6, 1, 2, 3, .reg 28 0xd39⟩),
   (0x1635060498600D20, .vldff ⟨20, 6, 1, 2, 3, .reg 12 0xd20⟩),
   (0x1645060498E00D20, .vldxff ⟨20, 6, 1, 2, 3, .reg 28 0xd20⟩),
   (0x1655060498600E39, .vst ⟨20, 6, 1, 2, 3, .reg 12 0xe39⟩),
   (0x1665060498600E39, .vsts ⟨20, 6, 1, 2, 3, .reg 12 0xe39⟩),
   (0x1675060498E00E39, .vstx ⟨20, 6, 1, 2, 3, .reg 28 0xe39⟩),
   (0x1680060898E00020, .vpref ⟨0, 6, 2, 2, 3, .reg 28 0x20⟩)] = true := by decide +kernel

theorem test_decode_vector_atomic : decodes
  [(0x180506A698E00E19, .vamo ⟨20, 6, 41, 10, 3, .reg 28 0xe19⟩),
   (0x1815066A98E00E19, .vcas ⟨20, 6, 26, 10, 3, .reg 28 0xe19⟩),
   (0x1825060898E00C00, .vwait ⟨20, 6, 2, 2, 3, .reg 28 0xc00⟩),
   (0x18310103C0600000, .ccwait ⟨4, 1, 0, 15, 0, .reg 12 0x0⟩),
   (0x18408003C0600000, .ccset ⟨2, 0, 0, 15, 0, .reg 12 0x0⟩),
   (0x18510603C0600C00, .bytewait ⟨4, 6, 0, 15, 0, .reg 12 0xc00⟩),
   (0x18610603C0600E00, .bytesub ⟨4, 6, 0, 15, 0, .reg 12 0xe00⟩),
   (0x18700603C0600C00, .wmpub ⟨0, 6, 0, 15, 0, .reg 12 0xc00⟩),
   (0x18810603C0600C00, .wmwait ⟨4, 6, 0, 15, 0, .reg 12 0xc00⟩),
   (0x18900003C2000005, .barrier ⟨0, 0, 0, 15, 0, .imm 0x5⟩)] = true := by decide +kernel

theorem test_decode_matrix : decodes
  [(0x1A01062A80600000, .tshape ⟨4, 6, 10, 10, 0, .reg 12 0x0⟩),
   (0x1A108003C0000000, .tzero ⟨2, 0, 0, 15, 0, .reg 0 0x0⟩),
   (0x1A20862A80600D20, .tmac ⟨2, 6, 10, 10, 0, .reg 12 0xd20⟩),
   (0x1A30860280600D20, .tldacc ⟨2, 6, 0, 10, 0, .reg 12 0xd20⟩),
   (0x1A40862240600E20, .tstacc ⟨2, 6, 8, 9, 0, .reg 12 0xe20⟩),
   (0x1A55010698600000, .trd ⟨20, 1, 1, 10, 3, .reg 12 0x0⟩),
   (0x1A60960698600000, .twr ⟨2, 22, 1, 10, 3, .reg 12 0x0⟩)] = true := by decide +kernel

theorem test_decode_verdict : decodes
  [(0x1A85060318600E02, .vdotv ⟨20, 6, 0, 12, 3, .reg 12 0xe02⟩),
   (0x1A900603C0600E00, .topkinit ⟨0, 6, 0, 15, 0, .reg 12 0xe00⟩),
   (0x1AA5060698E00E19, .topki ⟨20, 6, 1, 10, 3, .reg 28 0xe19⟩),
   (0x1AB5066A98000D00, .topkr ⟨20, 6, 26, 10, 3, .reg 0 0xd00⟩)] = true := by decide +kernel

theorem test_decode_stream : decodes
  [(0x1C05060480000D20, .sinter ⟨20, 6, 1, 2, 0, .reg 0 0xd20⟩),
   (0x1C15060480000D20, .smerge ⟨20, 6, 1, 2, 0, .reg 0 0xd20⟩),
   (0x1C20062A80600E19, .hinit ⟨0, 6, 10, 10, 0, .reg 12 0xe19⟩),
   (0x1C35060A98E00C00, .hacc ⟨20, 6, 2, 10, 3, .reg 28 0xc00⟩),
   (0x1C45066A80000D00, .hdrain ⟨20, 6, 26, 10, 0, .reg 0 0xd00⟩)] = true := by decide +kernel

theorem test_decode_fabric : decodes
  [(0x1E010603C0600E39, .copy ⟨4, 6, 0, 15, 0, .reg 12 0xe39⟩),
   (0x1E110603C0000C19, .cbcopy ⟨4, 6, 0, 15, 0, .reg 0 0xc19⟩),
   (0x1E210603C0000C00, .cbwaitf ⟨4, 6, 0, 15, 0, .reg 0 0xc00⟩),
   (0x1E300603C0600C00, .cbfree ⟨0, 6, 0, 15, 0, .reg 12 0xc00⟩),
   (0x1E400603C0000C19, .publish ⟨0, 6, 0, 15, 0, .reg 0 0xc19⟩),
   (0x1E510603C0000000, .shadow ⟨4, 6, 0, 15, 0, .reg 0 0x0⟩),
   (0x1E61062BC0602E19, .rsend ⟨4, 6, 10, 15, 0, .reg 12 0x2e19⟩),
   (0x1E71062BC0600D19, .rfetch ⟨4, 6, 10, 15, 0, .reg 12 0xd19⟩),
   (0x1E81062BC0600C00, .xsend ⟨4, 6, 10, 15, 0, .reg 12 0xc00⟩),
   (0x1E91160298600C19, .csend ⟨4, 22, 0, 10, 3, .reg 12 0xc19⟩),
   (0x1EA00603C0600000, .colldef ⟨0, 6, 0, 15, 0, .reg 12 0x0⟩),
   (0x1EB1002BC0600000, .collrun ⟨4, 0, 10, 15, 0, .reg 12 0x0⟩),
   (0x1EC10603C0000000, .collwait ⟨4, 6, 0, 15, 0, .reg 0 0x0⟩),
   (0x1ED0062BC0600000, .wopen ⟨0, 6, 10, 15, 0, .reg 12 0x0⟩),
   (0x1EE00003C0600000, .wrevoke ⟨0, 0, 0, 15, 0, .reg 12 0x0⟩),
   (0x1EF10603C0600000, .grant ⟨4, 6, 0, 15, 0, .reg 12 0x0⟩),
   (0x1F000603C0000019, .revoke ⟨0, 6, 0, 15, 0, .reg 0 0x19⟩)] = true := by decide +kernel

/-! Words that the notes of the spec assemble. -/

/-- Words of spec/12_encoding_notes.md. -/
theorem test_words_encoding_notes :
    decode 0x00114600C3FFFFFD 0 = .instr (.add ⟨5, 6, 0, 3, 0, .imm 0x1FFFFFD⟩) 1
      ∧ decode 0x4011463001000000 0 = .instr (.add ⟨5, 6, 0, 3, 0, .limm 0x1000000⟩) 1
      ∧ decode 0x0110C408C6000000 0xE000000002FAF080 = .instr (.cmp ⟨3, 4, 2, 3, 0, .lit 50000000⟩) 2
      ∧ decode 0x0110C408C4000005 0 = .instr (.cmp ⟨3, 4, 2, 3, 0, .kbank 5⟩) 1
      ∧ decode 0x20114300028A0E00 0 = .instr (.pFormPair ⟨.add, 5, .reg 6⟩ ⟨.mul, 10, .reg 7⟩) 1
      ∧ decode 0x20114300028A8003 0 = .instr (.pFormPair ⟨.add, 5, .reg 6⟩ ⟨.mul, 10, .imm 3⟩) 1 := by decide +kernel

/-- The illegal words of spec/12_encoding_notes.md, and the cause that each gives. -/
theorem test_illegal_words :
    decode 0x1A70000000000000 0 = .instr (.illegalOpcodeWord 0x1A70000000000000) 1
      ∧ decode 0x60114600C3FFFFFD 0 = .instr (.illegalOpcodeWord 0x60114600C3FFFFFD) 1
      ∧ decode 0x30114300028A0E00 0 = .illPair 0x30114300028A0E00 ∧ decode 0x0A404003C0000000 0 = .illFld 0x0A404003C0000000
      ∧ decode 0x0A400003C0000000 0 = .instr .eret 1 ∧ decode 0xE000000002FAF080 0 = .instr (.literalWordExecute 0xE000000002FAF080) 1
      ∧ decode 0x0110C408C6000000 0x0110C408C6000000 = .illFld 0x0110C408C6000000 := by decide +kernel

/-- Words of spec/16_vector_notes.md, spec/18_vecmem_notes.md and spec/20_matrix_notes.md. -/
theorem test_words_vector_notes :
    decode 0x10208102827C0000 0 = .instr (.vfmul ⟨2, 1, 0, 10, 0, .imm 0x7C0000⟩) 1
      ∧ decode 0x1000820286000000 0xE00000003FC00200 = .instr (.vfadd ⟨2, 2, 0, 10, 0, .lit 0x3FC00200⟩) 2
      ∧ decode 0x0CA04100C2000025 0 = .instr (.vshl ⟨1, 1, 0, 3, 0, .imm 37⟩) 1
      ∧ decode 0x0D50800080600001 0 = .instr (.viota ⟨2, 0, 0, 2, 0, .reg 12 1⟩) 1
      ∧ decode 0x08D04403C2000020 0 = .instr (.bind ⟨1, 4, 0, 15, 0, .imm 32⟩) 1
      ∧ decode 0x18318303C2000000 0 = .instr (.ccwait ⟨6, 3, 0, 15, 0, .imm 0⟩) 1
      ∧ decode 0x08C00007C0380C00 0 = .instr (.rel ⟨0, 0, 1, 15, 0, .reg 7 0xC00⟩) 1
      ∧ decode 0x08B18003C0000C00 0 = .instr (.acq ⟨6, 0, 0, 15, 0, .reg 0 0xC00⟩) 1
      ∧ decode 0x1A20135240501400 0 = .instr (.tmac ⟨0, 19, 20, 9, 0, .reg 10 0x1400⟩) 1 := by decide +kernel

/-- Words of spec/22_streams_notes.md and spec/24_traps_notes.md. -/
theorem test_words_streams_notes :
    decode 0x08F0000140001000 0 = .instr (.fence ⟨0, 0, 0, 5, 0, .reg 0 0x1000⟩) 1
      ∧ decode 0x1E60420FC0501011 0 = .instr (.rsend ⟨1, 2, 3, 15, 0, .reg 10 0x1011⟩) 1
      ∧ decode 0x1E610B0FC0603211 0 = .instr (.rsend ⟨4, 11, 3, 15, 0, .reg 12 0x3211⟩) 1
      ∧ decode 0x18208404C0181000 0 = .instr (.vwait ⟨2, 4, 1, 3, 0, .reg 3 0x1000⟩) 1
      ∧ decode 0x18538303C0901000 0 = .instr (.bytewait ⟨14, 3, 0, 15, 0, .reg 18 0x1000⟩) 1
      ∧ decode 0x1E85155FC0B01400 0 = .instr (.xsend ⟨20, 21, 23, 15, 0, .reg 22 0x1400⟩) 1
      ∧ decode 0x1EA00A03C2000003 0 = .instr (.colldef ⟨0, 10, 0, 15, 0, .imm 3⟩) 1
      ∧ decode 0x1C01040080001400 0 = .instr (.sinter ⟨4, 4, 0, 2, 0, .reg 0 0x1400⟩) 1
      ∧ decode 0x1C01040480001400 0 = .instr (.sinter ⟨4, 4, 1, 2, 0, .reg 0 0x1400⟩) 1
      ∧ decode 0x0A030003C2000020 0 = .instr (.mfsr ⟨12, 0, 0, 15, 0, .imm 0x20⟩) 1
      ∧ decode 0x06131300C3FFFFFC 0 = .instr (.bcc ⟨12, 19, 0, 3, 0, .imm 0x1FFFFFC⟩) 1 := by decide +kernel

/-- The branch of test_words_streams_notes at kernel + 0xD0 goes to kernel + 0xB0. -/
theorem test_branch_offset :
    (match exec (.bcc ⟨12, 19, 0, 3, 0, .imm 0x1FFFFFC⟩) { cpu := { tid := 1, pc := 0x10D0 } } with
      | .next t => t.cpu.pc
      | _ => 0) = 0x10B0 := by decide +kernel

/-! Ill-formed terms: each check of WellFormed.lean refuses one. -/

theorem test_illformed_fields :
    Instr.wf (.abs ⟨4, 6, 1, 2, 0, .reg 0 0⟩) = false            -- C is not used (R179)
      ∧ Instr.wf (.cmp ⟨4, 6, 6, 2, 0, .reg 1 0⟩) = false        -- a condition above 5
      ∧ Instr.wf (.add ⟨4, 6, 0, 10, 0, .reg 1 0⟩) = false       -- a floating type of an integer row (R186)
      ∧ Instr.wf (.add ⟨4, 6, 0, 2, 1, .reg 1 0⟩) = false        -- a mask on a scalar row (R183)
      ∧ Instr.wf (.vadd ⟨4, 6, 1, 2, 0, .reg 1 0⟩) = false       -- a polarity without a mask
      ∧ Instr.wf (.mnot ⟨9, 1, 0, 15, 0, .reg 0 0⟩) = false      -- a mask above mq (R232)
      ∧ Instr.wf (.tlbinvDie ⟨0, 0, 0, 15, 0, .reg 0 0⟩) = false -- C of TLBINV.DIE is 1
      ∧ Instr.wf (.add ⟨4, 6, 0, 2, 0, .limm 1⟩) = true ∧ Instr.wf (.cmp ⟨4, 6, 2, 2, 0, .limm 1⟩) = false   -- no L-form with a C (R189)
      ∧ Instr.wf (.literalWordExecute 0) = false ∧ Instr.wf (.illegalOpcodeWord 0x0010000000000000) = false := by decide +kernel

theorem test_illformed_operands :
    Instr.wf (.abs ⟨4, 6, 0, 2, 0, .reg 1 0⟩) = false                    -- no operand B
      ∧ Instr.wf (.add ⟨4, 6, 0, 2, 0, .reg 1 1⟩) = false                -- no modifier field (R180)
      ∧ Instr.wf (.br ⟨0, 0, 0, 15, 0, .reg 1 0⟩) = false                -- an offset is no register
      ∧ Instr.wf (.li ⟨4, 0, 0, 15, 0, .reg 1 0⟩) = false                -- LI takes a constant
      ∧ Instr.wf (.vconfig ⟨4, 0, 0, 15, 0, .kbank 1⟩) = false           -- VCONFIG takes an imm25 (R237)
      ∧ Instr.wf (.fcvt ⟨4, 6, 10, 11, 0, .reg 0 5⟩) = false             -- a rounding above 4 (R221)
      ∧ Instr.wf (.ldx ⟨4, 6, 0, 2, 0, .imm 0⟩) = false                  -- an index is a register
      ∧ Instr.wf (.mand ⟨1, 2, 0, 15, 0, .reg 9 0⟩) = false              -- a mask register
      ∧ Instr.wf (.fence ⟨0, 0, 0, 2, 0, .reg 1 0⟩) = false              -- B = 0 beside the modifier field
      ∧ Instr.wf (.fadd ⟨5, 6, 0, 10, 0, .imm 0x7B9981⟩) = false         -- bits 4:0 of an F20 (R181)
      ∧ Instr.wf (.vsplat ⟨4, 0, 0, 2, 0, .reg 1 0⟩) = false             -- BS = 1 of a scalar operand (R233)
      ∧ Instr.wf (.vmov ⟨4, 6, 0, 2, 0, .reg 1 0⟩) = false ∧ Instr.wf (.vperm ⟨4, 6, 0, 2, 0, .reg 1 1⟩) = false
      ∧ Instr.wf (.vpref ⟨0, 6, 2, 2, 0, .imm 0⟩) = false := by decide +kernel

theorem test_illformed_modifiers :
    Instr.wf (.ld ⟨4, 6, 0, 2, 0, .reg 1 0x4000⟩) = false         -- bits 18:14 (R184)
      ∧ Instr.wf (.ld ⟨4, 6, 0, 2, 0, .reg 1 0x2000⟩) = false     -- OF
      ∧ Instr.wf (.ld ⟨4, 6, 0, 2, 0, .reg 1 0x1800⟩) = false     -- scope 6
      ∧ Instr.wf (.ld ⟨4, 6, 0, 2, 0, .reg 1 0x0200⟩) = false     -- a load with release order (R185)
      ∧ Instr.wf (.st ⟨4, 6, 0, 2, 0, .reg 1 0x0100⟩) = false     -- a store with acquire order
      ∧ Instr.wf (.acq ⟨4, 1, 1, 15, 0, .reg 1 0x0100⟩) = false   -- no order field
      ∧ Instr.wf (.ld ⟨4, 6, 0, 2, 0, .reg 1 0x00C0⟩) = false     -- hint 6
      ∧ Instr.wf (.ld ⟨4, 6, 0, 2, 0, .reg 1 0x0010⟩) = false     -- NB of a scalar load (R252)
      ∧ Instr.wf (.st ⟨4, 6, 0, 2, 0, .reg 1 0x0003⟩) = false     -- a counter without NB
      ∧ Instr.wf (.vdotv ⟨1, 2, 0, 12, 0, .reg 4 0x300⟩) = false ∧ Instr.wf (.vadd ⟨1, 2, 0, 2, 0, .reg 4 4⟩) = false
      ∧ Instr.wf (.vslideup ⟨1, 2, 0, 2, 0, .reg 4 0x21⟩) = false := by decide +kernel

theorem test_illformed_rows :
    Instr.wf (.loopd ⟨0, 0, 0, 15, 0, .imm 1⟩) = false                                                                     -- D = 0 (R223)
      ∧ Instr.wf (.fcvt ⟨4, 6, 10, 10, 0, .reg 0 0⟩) = false ∧ Instr.wf (.fcvti ⟨4, 6, 3, 3, 0, .reg 0 0⟩) = false         -- R221
      ∧ Instr.wf (.amo ⟨4, 6, 7, 2, 0, .reg 1 0⟩) = false ∧ Instr.wf (.amo ⟨4, 6, 0, 2, 0, .reg 1 0x10⟩) = false           -- R256
      ∧ Instr.wf (.vamo ⟨4, 6, 10, 2, 0, .reg 1 0⟩) = false ∧ Instr.wf (.cas2 ⟨3, 6, 2, 15, 0, .reg 2 0⟩) = false          -- R269, R258
      ∧ Instr.wf (.acq ⟨4, 1, 0, 15, 0, .reg 1 0⟩) = false ∧ Instr.wf (.gate ⟨0, 0, 0, 15, 0, .imm 4096⟩) = false          -- R160, R228
      ∧ Instr.wf (.trap ⟨0, 0, 0, 15, 0, .imm 65536⟩) = false ∧ Instr.wf (.barrier ⟨0, 0, 0, 15, 0, .imm 8⟩) = false       -- R349, R274
      ∧ Instr.wf (.mfsr ⟨4, 0, 0, 15, 0, .imm 0x029⟩) = false ∧ Instr.wf (.mtsrVl ⟨0, 4, 0, 15, 0, .imm 0x022⟩) = false    -- R198
      ∧ Instr.wf (.vwait ⟨4, 6, 6, 2, 0, .reg 1 0⟩) = false ∧ Instr.wf (.vdot ⟨4, 6, 1, 12, 0, .reg 1 0⟩) = false          -- R270, R247
      ∧ Instr.wf (.vsortk ⟨4, 6, 4, 2, 0, .reg 0 0⟩) = false ∧ Instr.wf (.tmac ⟨0, 6, 4, 9, 0, .reg 63 0⟩) = false         -- R250, R285
      ∧ Instr.wf (.vdotv ⟨4, 6, 4, 12, 0, .reg 1 0x101⟩) = false ∧ Instr.wf (.tstacc ⟨0, 6, 8, 11, 0, .reg 1 0⟩) = false   -- R288, R283
      ∧ Instr.wf (.xsend ⟨4, 6, 4, 15, 0, .reg 1 0x10⟩) = false := by decide +kernel                                        -- R302

/-- The pairs that spec/12_encoding_notes.md calls illegal, one per rule of R192, and their legal neighbour. -/
theorem test_illformed_pairs :
    Instr.wf (.pFormPair ⟨.add, 5, .reg 6⟩ ⟨.mul, 10, .reg 2⟩) = false ∧ Instr.wf (.pFormPair ⟨.add, 5, .reg 6⟩ ⟨.sub, 9, .reg 7⟩) = false
      ∧ Instr.wf (.pFormPair ⟨.vaddS32, 1, .reg 2⟩ ⟨.vand, 6, .reg 7⟩) = false
      ∧ Instr.wf (.pFormPair ⟨.faddF32, 4, .imm 2⟩ ⟨.add, 5, .reg 6⟩) = false
      ∧ Instr.wf (.pFormPair ⟨.add, 5, .reg 6⟩ ⟨.mul, 10, .imm 3⟩) = true := by decide +kernel

/-! Values that the spec works out. -/

/-- The value in g5 after an instruction whose operands g1, g2 and g3 hold the values given. -/
def result (i : Instr) (a b c : Word) : Option Word :=
  match exec i { cpu := { tid := 1, g := [(1, a), (2, b), (3, c), (5, 0xAAAA)] } } with
  | .next t => some (t.cpu.readG 5)
  | _ => none

/-- spec/14_scalar_notes.md, Division at its edges. -/
theorem test_division_at_its_edges :
    result (.div ⟨5, 1, 0, 3, 0, .reg 2 0⟩) 9 0 0 = some 0xFFFFFFFFFFFFFFFF ∧ result (.rem ⟨5, 1, 0, 3, 0, .reg 2 0⟩) 9 0 0 = some 9
      ∧ result (.div ⟨5, 1, 0, 6, 0, .reg 2 0⟩) 5 0 0 = some 0x00000000FFFFFFFF
      ∧ result (.div ⟨5, 1, 0, 2, 0, .reg 2 0⟩) 0x80000000 0xFFFFFFFF 0 = some 0xFFFFFFFF80000000
      ∧ result (.rem ⟨5, 1, 0, 2, 0, .reg 2 0⟩) 0x80000000 0xFFFFFFFF 0 = some 0
      ∧ result (.div ⟨5, 1, 0, 0, 0, .reg 2 0⟩) 0xF9 2 0 = some 0xFFFFFFFFFFFFFFFD
      ∧ result (.rem ⟨5, 1, 0, 0, 0, .reg 2 0⟩) 0xF9 2 0 = some 0xFFFFFFFFFFFFFFFF := by decide +kernel

/-- Wraps, shift amounts modulo the width, a carry chain's high half, the bit-field rows (R77, R79, R218). -/
theorem test_scalar_integer_values :
    result (.add ⟨5, 1, 0, 0, 0, .reg 2 0⟩) 0x7F 1 0 = some 0xFFFFFFFFFFFFFF80
      ∧ result (.add ⟨5, 1, 0, 4, 0, .reg 2 0⟩) 0xFF 1 0 = some 0
      ∧ result (.sub ⟨5, 1, 0, 6, 0, .reg 2 0⟩) 0 1 0 = some 0xFFFFFFFF
      ∧ result (.mulh ⟨5, 1, 0, 3, 0, .reg 2 0⟩) 0xFFFFFFFFFFFFFFFF 2 0 = some 0xFFFFFFFFFFFFFFFF
      ∧ result (.mulh ⟨5, 1, 0, 7, 0, .reg 2 0⟩) 0xFFFFFFFFFFFFFFFF 2 0 = some 1
      ∧ result (.shl ⟨5, 1, 0, 2, 0, .reg 2 0⟩) 1 33 0 = some 2 ∧ result (.sar ⟨5, 1, 0, 2, 0, .reg 2 0⟩) 0x80000000 4 0 = some 0xFFFFFFFFF8000000
      ∧ result (.rol ⟨5, 1, 0, 4, 0, .reg 2 0⟩) 0x81 1 0 = some 3 ∧ result (.clz ⟨5, 1, 0, 5, 0, .reg 0 0⟩) 0 0 0 = some 16
      ∧ result (.bfx ⟨5, 1, 3, 3, 0, .reg 2 0⟩) 0xF0 4 0 = some 0xFFFFFFFFFFFFFFFF ∧ result (.bfx ⟨5, 1, 3, 7, 0, .reg 2 0⟩) 0xF0 4 0 = some 0xF
      ∧ result (.bfi ⟨5, 1, 3, 15, 0, .reg 2 0⟩) 0x5 4 0 = some 0xAA5A ∧ result (.lih ⟨5, 0, 0, 15, 0, .imm 1⟩) 0 0 0 = some 0x10000AAAA
      ∧ result (.addsh ⟨5, 1, 2, 15, 0, .reg 2 0⟩) 0x100 3 0 = some 0x10C ∧ result (.madd ⟨5, 1, 3, 2, 0, .reg 2 0⟩) 3 4 5 = some 17
      ∧ result (.sel ⟨5, 1, 3, 15, 0, .reg 2 0⟩) 7 8 0 = some 8 := by decide +kernel

/-- One plus one, a tie to even, a signalling NaN, the canonical NaN, saturation of a conversion (R80 to R87, R220, R221). -/
theorem test_scalar_float_values :
    result (.fadd ⟨5, 1, 0, 10, 0, .reg 2 0⟩) 0x3F800000 0x3F800000 0 = some 0x40000000
      ∧ result (.fadd ⟨5, 1, 0, 10, 0, .reg 2 0⟩) 0x3F800000 0x33800000 0 = some 0x3F800000
      ∧ result (.fadd ⟨5, 1, 0, 10, 0, .reg 2 0⟩) 0x3F800001 0x33800000 0 = some 0x3F800002
      ∧ result (.fmul ⟨5, 1, 0, 10, 0, .reg 2 0⟩) 0xFF800001 0x3F800000 0 = some 0x7FC00000
      ∧ result (.fdiv ⟨5, 1, 0, 11, 0, .reg 2 0⟩) 0x3FF0000000000000 0 0 = some 0x7FF0000000000000
      ∧ result (.fsqrt ⟨5, 1, 0, 8, 0, .reg 0 0⟩) 0x4400 0 0 = some 0x4000
      ∧ result (.fmul ⟨5, 1, 0, 10, 0, .imm 0x7F8000⟩) 0x3F800000 0 0 = some 0x3FC00000
      ∧ result (.fcvt ⟨5, 1, 10, 11, 0, .reg 0 0⟩) 0x3FC00000 0 0 = some 0x3FF8000000000000
      ∧ result (.icvtf ⟨5, 1, 2, 10, 0, .reg 0 0⟩) 0xFFFFFFFF 0 0 = some 0xBF800000
      ∧ result (.fabn ⟨5, 1, 0, 10, 0, .reg 0 0⟩) 0xFFA00042 0 0 = some 0x142 := by decide +kernel

/-- spec/06_numbers_notes.md: one L8 product, an order-free sum, a tie of ToL8, and a term that breaks it. -/
theorem test_l8_and_ea96_values :
    eaProd 0x03 0x06 = 304 * 2 ^ 34 ∧ eaProd 0x03 0x06 + eaProd 0x87 0x02 = 0
      ∧ eaProd 0x3F 0x3F = 362 * 2 ^ 63 ∧ eaProd 0x41 0x41 = 362
      ∧ eaToL8 (256 * 2 ^ 32 + 256 * 2 ^ 28 + 256 * 2 ^ 27) = (0x00, flagNX) ∧ (eaToL8 (280 * 2 ^ 32 + 362)).1 = 0x01
      ∧ (eaToL8 (333 * 2 ^ 32)).1 = 0x02 ∧ (eaToL8 (396 * 2 ^ 32 + 2 ^ 31)).1 = 0x02 ∧ (eaToL8 (471 * 2 ^ 32 + 2 ^ 31)).1 = 0x04 := by decide +kernel

/-- spec/06_numbers_notes.md: an L6 block decoded, and encoded again with the scale of R94. -/
theorem test_l6_block :
    ([0x05, 0x3E, 0x10, 0x0F].map (l6Decode (-3)) = [0x79, 0xF2, 0x40, 0x03]) ∧ l6Scale [0x79, 0xF2, 0x40, 0x03] = -3
      ∧ [0x79, 0xF2, 0x40, 0x03].map (l6Encode (-3)) = [0x05, 0x3E, 0x10, 0x0F] := by decide +kernel

/-! A small machine: one strand in U, on the page at 0x10000, which every TLB of its core maps to the frame at 0x10000 of channel 0. -/

def leaf : Leaf :=
  { frame := 1, gen := 0, big := false, uo := false, wc := false, hs := false, rc := 0, x := true, w := true, r := true, so := false, sp := false }

def pageOf (k : TlbKind) : TlbEntry := { kind := k, vi := 0, page := 1, pkg := 0, leaf := leaf, since := 0 }

def machine (t : Strand) (m : Memory) : State :=
  { cpu := t, mem := m, cores := [(0, { tlbs := [pageOf .scalar, pageOf .fetch, pageOf .vector, pageOf .matrix],
                                        regions := [{ lid := 0, vi := 0, off := 0, bytes := 0x1000 }] })],
    pkgs := [(0, { stage := 4 })], next := 2 }

/-- One group of 512 elements of 32 bits; g1 is the page, g2 and g3 small numbers. -/
def user : Strand :=
  { tid := 1, g := [(1, 0x10000), (2, 16), (3, 5)], pc := 0x10100, nv := 8, ew := 32, groups := 1, vl := 4, fpflags := 0, held := 15 }

/-- The bytes of a 64-bit number in memory, none of them zero where it is listed. -/
def cells (l : List (Nat × Nat)) : Memory :=
  l.flatMap (fun x => ((List.range 8).map (fun i => (x.1 + i, BitVec.ofNat 8 (x.2 / 2 ^ (8 * i))))).filter (fun c => c.2 != 0))

/-- What holds of the next state. -/
def next (i : Instr) (s : State) (p : State → Bool) : Bool :=
  match exec i s with
  | .next t => p t
  | _ => false

/-- Elements 0 to 3 of a v register. -/
def vec (t : State) (n : Nat) : List Nat := (List.range 4).map (t.cpu.readV n)

/-- A strand at the head of whose queue an instruction stands, with the operands it captured. -/
def queued (i : Instr) (t : Strand) : Strand := { t with queue := [entryOf t i 0] }

def elems (n : Nat) (l : List Nat) : Cells Nat := (l.zipIdx).map (fun x => (n * 65536 + x.2, x.1))

/-- The first word of spec/12_encoding_notes.md runs from memory: g5 := g6 - 3. -/
theorem test_step_runs_word :
    (match step (machine { user with g := [(6, 10)], pc := 0x10000 } (cells [(0x10000, 0x00114600C3FFFFFD)])) with
      | .next t => (t.cpu.readG 5, t.cpu.pc)
      | _ => (0, 0)) = (7, 0x10008) := by decide +kernel

/-- The host's probe: the word stands where the step fetches. -/
theorem test_step_runs_placed_word :
    (match step (State.reset.withFetchWord 64 0x00114600C3FFFFFD) with
      | .next t => t.cpu.readG 5
      | _ => 0) = 0xFFFFFFFFFFFFFFFD := by decide +kernel

/-- Sign extension of a load, the low bytes of a store, and an atomic's old value. -/
theorem test_scalar_memory_values :
    next (.ld ⟨5, 1, 0, 0, 0, .imm 8⟩) (machine user (cells [(0x10008, 0x80)])) (fun t => t.cpu.readG 5 == 0xFFFFFFFFFFFFFF80) = true
      ∧ next (.ldx ⟨5, 1, 0, 6, 0, .reg 3 0⟩) (machine { user with g := [(1, 0x10000), (3, 2)] } (cells [(0x10008, 0x80000001)]))
          (fun t => t.cpu.readG 5 == 0x80000001) = true
      ∧ next (.st ⟨3, 1, 0, 1, 0, .imm 16⟩) (machine { user with g := [(1, 0x10000), (3, 0x123456)] } [])
          (fun t => t.mem == [(0x10010, 0x56), (0x10011, 0x34)] && t.cpu.pc == 0x10108) = true
      ∧ next (.amo ⟨5, 1, 1, 3, 0, .reg 3 0⟩) (machine user (cells [(0x10000, 7)])) (fun t => t.cpu.readG 5 == 7 && memWord t.mem 0x10000 == 12) = true
      ∧ next (.cas ⟨5, 1, 2, 3, 0, .reg 3 0⟩) (machine user (cells [(0x10000, 5)])) (fun t => t.cpu.readG 5 == 5 && memWord t.mem 0x10000 == 16) = true := by
  decide +kernel

/-- SETVL in its keep form, VCONFIG's MVL, and the masks of a search (spec/16_vector_notes.md). -/
theorem test_vector_configuration_values :
    next (.setvl ⟨5, 2, 1, 15, 0, .reg 0 0⟩) (machine (queued (.setvl ⟨5, 2, 1, 15, 0, .reg 0 0⟩) user) []) (fun t => t.cpu.vl == 16 && t.cpu.readG 5 == 16) = true
      ∧ next (.vconfig ⟨5, 0, 0, 15, 0, .imm 0xE⟩) (machine user []) (fun t => t.cpu.readG 5 == 64 && t.cpu.nv == 32 && t.cpu.ew == 64) = true
      ∧ next (.mbefore ⟨2, 1, 0, 15, 0, .reg 0 0⟩) (machine { user with m := [(65538, true)] } [])
          (fun t => (List.range 4).map (t.cpu.readM 2) == [true, true, false, false]) = true
      ∧ next (.mpop ⟨5, 1, 0, 15, 0, .reg 0 0⟩) (machine { user with m := [(65538, true), (65541, true)] } []) (fun t => t.cpu.readG 5 == 1) = true := by
  decide +kernel

/-- Element-wise values: a wrap, an inactive element, a scalar operand, a fused sum, the sum of a register. -/
theorem test_vector_values :
    next (.vadd ⟨3, 1, 0, 2, 2, .reg 2 0⟩)
        (machine { user with v := elems 1 [1, 2, 0x7FFFFFFF, 4] ++ elems 2 [10, 20, 1, 40] ++ elems 3 [9, 9, 9, 9], m := [(131072, true), (131074, true)] } [])
        (fun t => vec t 3 == [11, 9, 0x80000000, 9] && t.cpu.vstart == 0) = true
      ∧ next (.viota ⟨2, 0, 0, 2, 0, .reg 3 1⟩) (machine user []) (fun t => vec t 2 == [5, 6, 7, 8]) = true
      ∧ next (.vfma ⟨4, 1, 3, 10, 0, .reg 2 0⟩)
          (machine { user with v := elems 1 [0x3F800000, 0x40000000] ++ elems 2 [0x3F800000, 0x40000000] ++ elems 3 [0x3F800000, 0xC0800000] } [])
          (fun t => vec t 4 == [0x40000000, 0, 0, 0]) = true
      ∧ next (.vredsum ⟨5, 1, 0, 2, 0, .imm 100⟩) (machine { user with v := elems 1 [1, 2, 3, 0xFFFFFFFF] } []) (fun t => t.cpu.readG 5 == 105) = true
      ∧ next (.vcmp ⟨1, 1, 2, 2, 0, .reg 2 0⟩) (machine { user with v := elems 1 [1, 5, 3, 0xFFFFFFFF] ++ elems 2 [2, 2, 3, 0] } [])
          (fun t => (List.range 4).map (t.cpu.readM 1) == [true, false, false, true]) = true := by decide +kernel

/-- Permutations: a slide down, a compression, a sort with its positions. -/
theorem test_permutation_values :
    next (.vslidedn ⟨3, 1, 0, 2, 0, .imm 1⟩) (machine { user with v := elems 1 [1, 2, 3, 4] } []) (fun t => vec t 3 == [2, 3, 4, 0]) = true
      ∧ next (.vcompress ⟨3, 1, 0, 2, 1, .reg 0 0⟩) (machine { user with v := elems 1 [1, 2, 3, 4] ++ elems 3 [7, 7, 7, 7], m := [(65537, true), (65539, true)] } [])
          (fun t => vec t 3 == [2, 4, 7, 7]) = true
      ∧ next (.vscan ⟨3, 1, 0, 2, 0, .reg 0 0⟩) (machine { user with v := elems 1 [1, 2, 3, 4] } []) (fun t => vec t 3 == [1, 3, 6, 10]) = true
      ∧ next (.vsortk ⟨3, 1, 4, 2, 0, .reg 0 0⟩) (machine { user with v := elems 1 [3, 0xFFFFFFFF, 3, 0] } [])
          (fun t => vec t 3 == [0xFFFFFFFF, 0, 3, 3] && vec t 4 == [1, 3, 0, 2]) = true := by decide +kernel

/-- spec/16_vector_notes.md: a first-fault load trims VL at the first element of an absent page and sets VFS.FF. -/
theorem test_fault_first_load :
    next (.vldff ⟨1, 1, 0, 2, 0, .imm 0xFFF8⟩) (machine user (cells [(0x1FFF8, 0x0000000200000001)]))
      (fun t => vec t 1 == [1, 2, 0, 0] && t.cpu.vl == 2 && t.cpu.vfs == 1 && t.cpu.level == .u) = true := by decide +kernel

/-- spec/20_matrix_notes.md: the grant of the last strip of a 100 by 300 by 512 product in bf16. -/
theorem test_tshape_grant :
    next (.tshape ⟨5, 1, 3, 9, 0, .reg 2 0⟩) (machine (queued (.tshape ⟨5, 1, 3, 9, 0, .reg 2 0⟩) { user with g := [(1, 36), (2, 44), (3, 512)] }) [])
      (fun t => t.cpu.readG 5 == 0x00000200002C0024 && t.cpu.trow == 0) = true
      ∧ next (.tshape ⟨5, 1, 3, 9, 0, .reg 2 0⟩) (machine (queued (.tshape ⟨5, 1, 3, 9, 0, .reg 2 0⟩) { user with g := [(1, 100), (2, 300), (3, 512)] }) [])
      (fun t => t.cpu.readG 5 == 0x0000020001000040) = true := by decide +kernel

/-- spec/24_traps_notes.md: the triangle count's edge (2, 3), lists 3, 5 and 4, 5: one key, and both positions at the end. -/
theorem test_sinter_edge :
    next (.sinter ⟨4, 1, 0, 2, 0, .reg 0 0x1400⟩)
      (machine { user with vl := 8 } (cells [(0x10000, 0x10040), (0x10008, 2), (0x10010, 0x10048), (0x10018, 2), (0x10040, 0x0000000500000003), (0x10048, 0x0000000500000004)]))
      (fun t => vec t 4 == [5, 0, 0, 0] && t.cpu.vl == 1 && memWord t.mem 0x10008 == 0x0000000200000002 && memWord t.mem 0x10018 == 0x0000000200000002
        && memWord t.mem 0x10028 == 1 && memWord t.mem 0x10020 == 1) = true := by decide +kernel

/-- R170: BYTESUB subtracts and returns the old word; CCWAIT answers the counter's status. -/
theorem test_counter_values :
    next (.bytesub ⟨5, 1, 0, 15, 0, .imm 4104⟩) (machine (queued (.bytesub ⟨5, 1, 0, 15, 0, .imm 4104⟩) user) (cells [(0x10000, 4104)]))
      (fun t => t.cpu.readG 5 == 4104 && t.mem == []) = true
      ∧ next (.ccwait ⟨5, 1, 0, 15, 0, .imm 0⟩) (machine (queued (.ccwait ⟨5, 1, 0, 15, 0, .imm 0⟩) { user with cc := [(1, { timeout := true })] }) [])
        (fun t => t.cpu.readG 5 == 1) = true
      ∧ next (.ccwait ⟨5, 1, 0, 15, 0, .imm 0⟩) (machine (queued (.ccwait ⟨5, 1, 0, 15, 0, .imm 0⟩) { user with cc := [(1, { count := 1 })] }) [])
        (fun t => t.cpu.parked && t.cpu.queue.length == 1) = true := by decide +kernel

/-! Witnesses: concrete states and operands that meet the hypotheses of each statement, with every clause of a statement that has several. -/

/-- An operation answers with a result and a state of which `p` holds. -/
def gives {α : Type} (x : Acc α) (p : α → State → Bool) : Bool :=
  match x with
  | .ok a s => p a s
  | .fault _ _ _ => false
  | .wait _ => false

theorem gives_iff {α : Type} (x : Acc α) (p : α → State → Bool) : gives x p = true ↔ ∃ a s, x = .ok a s ∧ p a s = true := by
  cases x <;> simp [gives, and_assoc]

/-- An operation answers. -/
def answers {α : Type} (x : Acc α) : Bool := gives x (fun _ _ => true)

/-- An access stalls. -/
def waits {α : Type} (x : Acc α) : Bool :=
  match x with
  | .wait _ => true
  | .ok _ _ => false
  | .fault _ _ _ => false

theorem answers_iff {α : Type} (x : Acc α) : answers x = true ↔ ∃ a s, x = .ok a s := by
  cases x <;> simp [answers, gives]

theorem readyToFetch (s : State)
    (h : (s.agenda.isEmpty && !s.background && decide (s.cpu.tid ≠ 0) && decide ((s.pkg s.cpu.pkg).stage ≠ 15) && s.cpu.deferred.isEmpty
      && !(s.cpu.stepArm.isSome && s.cpu.stepDone) && (pendingEvent s.cpu).isNone && !s.cpu.exiting && !s.cpu.parked && s.cpu.queue.isEmpty
      && !tripping s.cpu) = true) :
    ReadyToFetch s := by
  simp only [Bool.and_eq_true, Bool.not_eq_true', List.isEmpty_iff, decide_eq_true_eq, Option.isNone_iff_eq_none] at h
  obtain ⟨⟨⟨⟨⟨⟨⟨⟨⟨⟨h1, h2⟩, h3⟩, h4⟩, h5⟩, h6⟩, h7⟩, h8⟩, h9⟩, h10⟩, h11⟩ := h
  exact ⟨h1, h2, h3, h4, h5, h6, h7, h8, h9, h10, h11⟩

def headB (i : Instr) (types : List Nat) (t : Strand) : Bool :=
  (badVreg t i).isNone && !types.any (fun ty => decide (ty < 13) && decide (t.ew < typeWidth ty)) && (poisonedSource t i).isNone

theorem headReady (i : Instr) (types : List Nat) (t : Strand) (h : headB i types t = true) : HeadReady i types t := by
  simp only [headB, Bool.and_eq_true, Bool.not_eq_true', Option.isNone_iff_eq_none] at h
  exact ⟨h.1.1, h.1.2, h.2⟩

/-- The same for every instruction of a table. -/
theorem headReadyAll {α : Type} (l : List ((Ops → Instr) × α)) (o : Ops) (types : List Nat) (t : Strand)
    (h : l.all (fun x => headB (x.1 o) types t) = true) : ∀ x ∈ l, HeadReady (x.1 o) types t :=
  fun x hx => headReady _ _ _ (List.all_eq_true.1 h x hx)

/-- A word stands at the pc of a strand in U, or of one in H. -/
def fetching (t : Strand) (w : Nat) : State := machine { t with pc := 0x10100 } (cells [(0x10100, w)])
def hyper (t : Strand) : Strand := { t with level := .h }

theorem witness_StepRunsScalar :
    ReadyToFetch (fetching user 0x00114600C3FFFFFD)
      ∧ gives (fetch { fetching user 0x00114600C3FFFFFD with background := true }) (fun x s1 =>
          decide (decode x.1 x.2 = .instr (.add ⟨5, 6, 0, 3, 0, .imm 0x1FFFFFD⟩) 1) && !readsPoison s1.cpu (.add ⟨5, 6, 0, 3, 0, .imm 0x1FFFFFD⟩)
            && !privFault s1.cpu (.add ⟨5, 6, 0, 3, 0, .imm 0x1FFFFFD⟩) && !(scalarAccess (.add ⟨5, 6, 0, 3, 0, .imm 0x1FFFFFD⟩) && heldByAcquire s1 [])) = true
      ∧ (privFault user .eret = true ∧ readsPoison { user with poison := [6] } (.add ⟨5, 6, 0, 3, 0, .imm 0x1FFFFFD⟩) = true)
      ∧ isQueued (.add ⟨5, 6, 0, 3, 0, .imm 0x1FFFFFD⟩) = false
      ∧ (let s := fetching (hyper user) 0x00114600C3FFFFFD
         s.cpu.level = .h ∧ ((s.core s.myCore).icache.find? (fun (l : Line) => l.ha = haPhys s.cpu.pkg (0x10100 : Word).toNat / 64 * 64)) = none
          ∧ homePoisoned s (haPhys s.cpu.pkg (0x10100 : Word).toNat) 8 = false) :=
  ⟨readyToFetch _ (by decide +kernel), by decide +kernel, by decide +kernel, by decide +kernel, by decide +kernel⟩

/-- CCWAIT of spec/18_vecmem_notes.md enters the queue. -/
theorem witness_StepRunsQueued :
    ReadyToFetch (fetching user 0x18318303C2000000)
      ∧ gives (fetch { fetching user 0x18318303C2000000 with background := true }) (fun x s1 =>
          let i : Instr := .ccwait ⟨6, 3, 0, 15, 0, .imm 0⟩
          decide (decode x.1 x.2 = .instr i 1) && (enqueueFault s1 i x.1).isNone
            && !((entryOf s1.cpu i x.1).accesses && heldByAcquire (enqueue s1 i x.1 1) [])) = true
      ∧ isQueued (.ccwait ⟨6, 3, 0, 15, 0, .imm 0⟩) = true
      ∧ enqueueFault (machine user []) (.grant ⟨5, 1, 0, 15, 0, .reg 2 0⟩) 7 = some (6, 7)
      ∧ 2 ∈ gReads (.setvl ⟨5, 2, 1, 15, 0, .reg 0 0⟩) ∧ (enqueue (machine user []) (.setvl ⟨5, 2, 1, 15, 0, .reg 0 0⟩) 0 1).cpu.queue.length = 1 :=
  ⟨readyToFetch _ (by decide +kernel), by decide +kernel, by decide +kernel, by decide +kernel, by decide +kernel, by decide +kernel⟩

theorem witness_StepRunsHeadAndEvents :
    (let s := machine (queued (.vadd ⟨3, 1, 0, 2, 0, .reg 2 0⟩) user) []
     ReadyToFetch { s with cpu := { s.cpu with queue := [] } } ∧ s.cpu.queue = [entryOf user (.vadd ⟨3, 1, 0, 2, 0, .reg 2 0⟩) 0]
      ∧ ((entryOf user (.vadd ⟨3, 1, 0, 2, 0, .reg 2 0⟩) 0).accesses && heldByAcquire { s with background := true } []) = false)
    ∧ (entryOf user (.vadd ⟨3, 1, 0, 2, 0, .reg 2 0⟩) 0).start = none
    ∧ (let x : Trip := { pc := 0x10100, instr := .ld ⟨5, 1, 0, 3, 0, .imm 0⟩, va := 0x10000, op := 9 }
       let s := machine { user with trip := some x, parked := true } []
       s.agenda = [] ∧ s.background = false ∧ s.cpu.tid ≠ 0 ∧ (s.pkg s.cpu.pkg).stage ≠ 15 ∧ s.cpu.trip = some x ∧ x.fail = none ∧ x.pc = s.cpu.pc)
    ∧ isEvent .tail = true
    ∧ ({ machine user [] with agenda := [.event .tail {}] } : State).agenda = [.event .tail {}] :=
  ⟨⟨readyToFetch _ (by decide +kernel), by decide +kernel, by decide +kernel⟩, by decide +kernel, by decide +kernel, by decide +kernel, by decide +kernel⟩

/-- One well-formed instruction of each form, with its words. -/
theorem witness_DecodeOfEncode :
    Instr.wf (.vadd ⟨63, 63, 1, 2, 7, .reg 63 2⟩) = true ∧ (encode (.vadd ⟨63, 63, 1, 2, 7, .reg 63 2⟩)).length = 1
      ∧ Instr.wf (.fadd ⟨5, 6, 0, 10, 0, .lit 0xFFFFFFFF⟩) = true ∧ (encode (.fadd ⟨5, 6, 0, 10, 0, .lit 0xFFFFFFFF⟩)).length = 2
      ∧ Instr.wf (.add ⟨5, 6, 0, 3, 0, .limm 0xFFFFFFFF⟩) = true ∧ (encode (.add ⟨5, 6, 0, 3, 0, .limm 0xFFFFFFFF⟩)).length = 1
      ∧ Instr.wf (.pFormPair ⟨.add, 5, .reg 6⟩ ⟨.mul, 10, .imm 3⟩) = true ∧ (encode (.pFormPair ⟨.add, 5, .reg 6⟩ ⟨.mul, 10, .imm 3⟩)).length = 1
      ∧ Instr.wf (.illegalOpcodeWord 0) = true ∧ encode (.illegalOpcodeWord 0) = [0]
      ∧ Instr.wf (.literalWordExecute 0xFFFFFFFFFFFFFFFF) = true ∧ encode (.literalWordExecute 0xFFFFFFFFFFFFFFFF) = [0xFFFFFFFFFFFFFFFF] := by decide +kernel

theorem witness_DecodedInstrWellFormed :
    decode 0x0401460286000000 0xE00000003DCCCCCD = .instr (.fadd ⟨5, 6, 0, 10, 0, .lit 0x3DCCCCCD⟩) 2
      ∧ decode 0x0401460282000000 0 = .instr (.fadd ⟨5, 6, 0, 10, 0, .imm 0⟩) 1 := by decide +kernel

/-- A state whose memory lists bytes, and a step from it that changes them. -/
theorem witness_StepKeepsInv :
    Inv (machine { user with pc := 0x10008 } (cells [(0x10008, 0x0810C100C2000010)]))
      ∧ (match step (machine { user with pc := 0x10008 } (cells [(0x10008, 0x0810C100C2000010)])) with
          | .next t => memWord t.mem 0x10010
          | _ => 0) = 5 :=
  ⟨⟨by decide +kernel, by decide +kernel⟩, by decide +kernel⟩

/-- The types 0 and 7, conditions that hold and that do not. -/
theorem witness_ScalarArithmetic :
    Ops.T ⟨5, 1, 0, 0, 0, .reg 2 0⟩ < 8 ∧ Ops.T ⟨5, 1, 0, 7, 0, .reg 2 0⟩ < 8 ∧ Ops.T ⟨5, 1, 0, 3, 0, .reg 2 0⟩ < 4 ∧ Ops.C ⟨5, 1, 5, 3, 0, .reg 2 0⟩ ≤ 5
      ∧ condition 5 (intValue 3 ((machine user []).cpu.readG 2)) (intValue 3 ((machine user []).opB (.reg 3 0)))
      ∧ ¬ condition 0 (intValue 3 ((machine user []).cpu.readG 2)) (intValue 3 ((machine user []).opB (.reg 3 0))) := by
  unfold condition
  decide +kernel

theorem witness_ScalarShiftsAndCounts : Ops.T ⟨5, 1, 0, 7, 0, .reg 2 0⟩ < 8 := by decide +kernel

theorem witness_ScalarWords : (machine user []).cpu.readG (Ops.C ⟨5, 1, 3, 15, 0, .reg 2 0⟩) ≠ 0 ∧ (machine user []).cpu.readG (Ops.C ⟨5, 1, 0, 15, 0, .reg 2 0⟩) = 0 := by
  decide +kernel

theorem witness_OperandKinds : (Ops.b ⟨5, 1, 0, 3, 0, .imm 1⟩).isReg = false := by decide +kernel

theorem witness_ScalarFloatArithmetic :
    (let o : Ops := ⟨5, 1, 3, 10, 0, .reg 2 0⟩
     8 ≤ o.T ∧ o.T ≤ 11 ∧ noAbn (machine user []) o ∧ (o.T = 10 → isAbn (((machine user []).cpu.readG o.C).toNat % 2 ^ typeWidth o.T) = false))
    ∧ (let o : Ops := ⟨5, 1, 3, 8, 0, .imm 0x7F8000⟩
     8 ≤ o.T ∧ o.T ≤ 11 ∧ noAbn (machine user []) o) := by
  unfold noAbn
  decide +kernel

/-- At the ends of the ABN range, and beside them. -/
theorem witness_ScalarFloatConversions :
    (Ops.C ⟨5, 1, 10, 11, 0, .reg 0 0⟩ = 10 → isAbn (((machine user []).cpu.readG 1).toNat % 2 ^ typeWidth 10) = false) ∧ Ops.T ⟨5, 1, 10, 7, 0, .reg 0 0⟩ < 8
      ∧ (let x := fun (n : Word) => ((machine { user with g := [(1, n)] } []).cpu.readG 1).toNat % 2 ^ 32
         (0xFFA00000 ≤ x 0xFFA00000 ∧ x 0xFFA00000 ≤ 0xFFA000FF) ∧ (0xFFA00000 ≤ x 0xFFA000FF ∧ x 0xFFA000FF ≤ 0xFFA000FF)
          ∧ ¬ (0xFFA00000 ≤ x 0xFF9FFFFF ∧ x 0xFF9FFFFF ≤ 0xFFA000FF) ∧ ¬ (0xFFA00000 ≤ x 0xFFA00100 ∧ x 0xFFA00100 ≤ 0xFFA000FF)) := by decide +kernel

theorem witness_ScalarAbnTraps :
    (let s := machine { user with g := [(1, 0xFFA00000), (2, 1)] } []
     let o : Ops := ⟨5, 1, 0, 10, 0, .reg 2 0⟩
     o.T = 10 ∧ isAbn (fpA s o) = true)
    ∧ (let s := machine { user with g := [(1, 1)] } []
       let o : Ops := ⟨5, 1, 0, 11, 0, .lit 0xFFA000FF⟩
       (o.T = 10 → isAbn (fpA s o) = false) ∧ 8 ≤ o.T ∧ o.T ≤ 11 ∧ o.b.f32Pattern = some 0xFFA000FF ∧ isAbn 0xFFA000FF = true)
    ∧ (let s := machine { user with g := [(1, 1), (2, 0xFFA00001)] } []
       let o : Ops := ⟨5, 1, 0, 10, 0, .reg 2 0⟩
       o.T = 10 ∧ isAbn (fpA s o) = false ∧ o.b.f32Pattern = none ∧ isAbn (fpB s o) = true) := by decide +kernel

theorem witness_FloatSpecialValues :
    ieee fmt16 ∧ ieee fmt64 ∧ ((fdecode fmt16 0x7D00).isNan || (fdecode fmt16 0).isNan) = true ∧ (fdecode fmt16 0x7D00).isSignalling = true
      ∧ ((fdecode fmt64 0).isNan || (fdecode fmt64 0x7FF8000000000000).isNan) = true ∧ (3 : Nat) ≠ 0 :=
  ⟨.inl rfl, .inr (.inr (.inr rfl)), by decide +kernel, by decide +kernel, by decide +kernel, by decide +kernel⟩

/-- The least subnormal and infinity of binary32. -/
theorem witness_RoundingIsExactOnFormat :
    ieee fmt32 ∧ 1 < 2 ^ fmt32.width ∧ (fdecode fmt32 1).isNan = false ∧ 0xFF800000 < 2 ^ fmt32.width ∧ (fdecode fmt32 0xFF800000).isNan = false :=
  ⟨.inr (.inr (.inl rfl)), by decide +kernel, by decide +kernel, by decide +kernel, by decide +kernel⟩

theorem witness_ControlTransfers :
    (let s := machine { user with g := [(1, 8), (2, 1), (3, 9), (4, 4)] } []
     s.cpu.readG 0 = 0 ∧ s.cpu.readG 1 ≠ 0
      ∧ condition 2 (intValue 3 (s.cpu.readG 1)) (intValue 3 (s.cpu.readG 3)) ∧ ¬ condition 2 (intValue 3 (s.cpu.readG 3)) (intValue 3 (s.cpu.readG 1))
      ∧ s.cpu.readG 1 - 1 ≠ 0 ∧ s.cpu.readG 2 - 1 = 0 ∧ (s.cpu.readG 1).toNat % 8 = 0 ∧ (s.cpu.readG 4).toNat % 8 ≠ 0)
    ∧ (let s := machine { user with m := [(65536 + 3, true)] } []
       s.cpu.queue.any QEntry.writesMasks = false ∧ (∃ i, i < s.cpu.vl ∧ s.cpu.readM 1 i = true) ∧ (∃ i, i < s.cpu.vl ∧ s.cpu.readM 1 i = false)
        ∧ (∀ i, i < s.cpu.vl → s.cpu.readM 2 i = false) ∧ (∀ i, i < s.cpu.vl → s.cpu.readM 8 i = true))
    ∧ (machine (queued (.vcmp ⟨1, 1, 2, 2, 0, .reg 2 0⟩) user) []).cpu.queue.any QEntry.writesMasks = true := by
  unfold condition
  exact ⟨by decide +kernel, ⟨by decide +kernel, ⟨3, by decide +kernel⟩, ⟨0, by decide +kernel⟩, by decide +kernel, by decide +kernel⟩, by decide +kernel⟩

/-- A gate from U to S on the gate's own stack, and the return through the frame that it writes. -/
def gated : State :=
  { machine { user with g := [(1, 0x10000), (62, 0x10800)] } (cells [(0x10000, 0x10040), (0x10008, 0x10FF0), (0x10010, 9)]) with viPkgs := [(0, { gtb := 0x10000, gtn := 1 })] }

/-- The checks on an entry and the write of the frame. -/
def gateOk (s : State) : Bool :=
  gives (gateEntry s 0) (fun bytes s1 =>
    let word := fun (i : Nat) => leNat ((bytes.drop (8 * i)).take 8)
    let lvl := maxLevel (levelOf (word 2 % 4)) s1.cpu.level
    let base : Word := if word 1 = 0 then s1.cpu.readG 62 else BitVec.ofNat 64 (word 1)
    let f := base - BitVec.ofNat 64 (64 + 64 * ((s1.cpu.mvl + 63) / 64))
    word 0 % 8 == 0 && word 1 % 16 == 0 && decide (word 2 < 16) && decide (8 ≤ word 2) && word 2 % 4 != 3 && word 3 == 0
      && (decide (lvl.rank ≤ s1.cpu.level.rank) || word 1 != 0)
      && (word 1 == 0 || !(decide (f.toNat ≤ (s1.cpu.readG 62).toNat) && decide ((s1.cpu.readG 62).toNat < word 1)))
      && answers (writeMem s1 { s1.who .scalar with level := lvl } .store f (gateFrame s1.cpu (s1.cpu.pc + 8) f) false))

theorem witness_GateCalls :
    drained gated = true ∧ (Ops.bImm ⟨0, 0, 0, 15, 0, .imm 0⟩) < gateCount gated ∧ gateOk gated = true
      ∧ gateOk { gated with mem := cells [(0x10000, 0x10040), (0x10010, 8)] } = true
      ∧ (let s := machine { user with g := [(62, 0x10200)] } (cells [(0x10200, 0x10108), (0x10208, 0x10800), (0x10210, 0x2000004), (0x10218, 0x10200)])
         drained s = true ∧ gives (readMem s (s.who .scalar) (s.cpu.readG 62) 64 0 .read) (fun head s1 =>
          let word := fun (i : Nat) => leNat ((head.bytes.drop (8 * i)).take 8)
          decide (word 3 = (s.cpu.readG 62).toNat) && bitsOf (word 2) 15 3 == 0 && bitsOf (word 2) 63 32 == 0 && word 4 == 0 && word 5 == 0 && word 6 == 0 && word 7 == 0
            && decide (word 2 % 4 ≤ s.cpu.level.rank)
            && answers (readMem s1 (s1.who .scalar) (s.cpu.readG 62 + 64) (64 * ((bitsOf (word 2) 31 16 + 63) / 64)) 0 .read)) = true) := by decide +kernel

theorem witness_TrapEntry : (machine user []).cpu.held ≠ 0 := by decide +kernel
theorem witness_TrapTargets : (0x10 : Nat) ≠ 0x06 ∧ (0x10 : Nat) ≠ 0x40 ∧ (0x10 : Nat) ≠ 0x41 := by decide +kernel

theorem witness_TrapsAreTaken :
    (machine user []).cpu.queue = []
      ∧ (let s := machine (queued (.vadd ⟨3, 1, 0, 2, 0, .reg 2 0⟩) user) []
         s.cpu.queue ≠ [] ∧ s.cpu.hold (trapTarget 0x12 s.cpu.level) = [])
      ∧ (let s := machine { queued (.vadd ⟨3, 1, 0, 2, 0, .reg 2 0⟩) user with holdS := [entryOf user (.vadd ⟨3, 1, 0, 2, 0, .reg 2 0⟩) 0] } []
         s.cpu.queue ≠ [] ∧ s.cpu.hold (trapTarget 0x12 s.cpu.level) ≠ [] ∧ trapTarget 0x12 s.cpu.level ≠ .h ∧ s.cpu.holdH = [])
      ∧ (let s := machine { queued (.vadd ⟨3, 1, 0, 2, 0, .reg 2 0⟩) (hyper user) with holdH := [entryOf user (.vadd ⟨3, 1, 0, 2, 0, .reg 2 0⟩) 0] } []
         s.cpu.queue ≠ [] ∧ s.cpu.hold (trapTarget 0x12 s.cpu.level) ≠ [] ∧ trapTarget 0x12 s.cpu.level = .h) := by decide +kernel

theorem witness_EretReturns :
    (let s := machine { user with level := .s, trapS := { epc := 0x10108, pmm := true, step := true } } []
     s.cpu.level ≠ .u ∧ s.cpu.queue = [] ∧ s.cpu.claims = [] ∧ (s.cpu.traps s.cpu.level).plvl ≠ 3 ∧ (s.cpu.traps s.cpu.level).step = true)
    ∧ (let s := machine { hyper user with trapH := { plvl := 1 } } []
       s.cpu.level ≠ .u ∧ s.cpu.queue = [] ∧ s.cpu.claims = [] ∧ (s.cpu.traps s.cpu.level).plvl ≠ 3) := by decide +kernel

theorem witness_TrappingInstructions :
    (machine user []).cpu.queue = [] ∧ Ops.bImm ⟨0, 0, 0, 15, 0, .imm 0xFFFF⟩ < 2 ^ 16 := by decide +kernel

/-- The same machine, but the page at 0x10000 is homed on another package. -/
def awayMachine (t : Strand) : State :=
  let m := machine t []
  { m with cores := m.cores.map (fun c => (c.1, { c.2 with tlbs := c.2.tlbs.map (fun e => { e with pkg := 1 }) })), pkgs := [(0, { stage := 4 }), (1, { stage := 4 })] }

/-- An access of the strand's own die. -/
def near (s : State) (va : Word) (n : Nat) (k : AccKind) : Bool := s.cpu.trip.isNone && (awaySpan s va n k).isNone

theorem witness_LoadsAndAtomics :
    (let s := machine { user with g := [(1, 0x10000), (2, 1), (4, 2), (5, 3)] }
        (cells [(0x10000, 0x10100), (0x10008, 8), (0x10010, 0x800000004), (0x10018, 0x10040)])
     let w := s.who .scalar
     answers (loadMem s w (baseOffset s ⟨6, 1, 0, 0, 0, .imm 0xFFFF⟩) (byteSize 0) 0) = true
      ∧ answers (loadMem s w (scaledIndex s ⟨6, 1, 0, 3, 0, .reg 2 0⟩) (byteSize 3) 0) = true
      ∧ answers (loadMem s w (baseOffset s ⟨63, 1, 3, 15, 0, .imm 8⟩) 8 0) = true
      ∧ (baseOffset s ⟨15, 1, 0, 15, 0, .imm 0⟩).toNat % 8 = 0
      ∧ gives (loadMem s w (baseOffset s ⟨15, 1, 0, 15, 0, .imm 0⟩) 32 0) (fun bytes _ => bindingOk (bindingOf bytes)) = true
      ∧ (let o : Ops := ⟨6, 1, 9, 10, 0, .reg 2 0x200⟩
         o.nb = false ∧ (o.C < 7 ∨ (atomicB s.cpu.readG s.cpu.readK o).2 = none) ∧ (s.cpu.readG o.A).toNat % byteSize o.T = 0 ∧ (o.releases && accessQueued s) = false
          ∧ answers (atomicMem s w (s.cpu.readG o.A) (byteSize o.T) (amoBytes o.C o.T (atomicB s.cpu.readG s.cpu.readK o).1)) = true)
      ∧ (let o : Ops := ⟨6, 1, 4, 3, 0, .reg 2 0x200⟩
         (s.cpu.readG o.A).toNat % byteSize o.T = 0 ∧ (o.releases && accessQueued s) = false
          ∧ answers (atomicMem s w (s.cpu.readG o.A) (byteSize o.T)
              (casBytes (byteSize o.T) (atomicB s.cpu.readG s.cpu.readK o).1 (s.cpu.readG o.C).toNat)) = true)
      ∧ (let o : Ops := ⟨6, 1, 4, 15, 0, .reg 2 0⟩
         (s.cpu.readG o.A).toNat % 8 = 0 ∧ (s.cpu.readG o.A).toNat % 256 ≤ 240 ∧ (o.releases && accessQueued s) = false
          ∧ answers (atomicMem s w (s.cpu.readG o.A) 16 (casBytes 16 ((s.cpu.readG o.B).toNat + (s.cpu.readG (o.B + 1)).toNat * 2 ^ 64)
              ((s.cpu.readG o.C).toNat + (s.cpu.readG (o.C + 1)).toNat * 2 ^ 64))) = true))
    ∧ (0x100F0 : Nat) % 256 ≤ 240
    ∧ (let s := machine user []
       near s (baseOffset s ⟨6, 1, 0, 3, 0, .imm 0⟩) 8 .read = true ∧ near s (s.cpu.readG 1) 16 .atomic = true)
    ∧ (let x : Trip := { pc := 0x10100, instr := .ld ⟨5, 1, 0, 3, 0, .imm 0⟩, va := 0x10000, op := 9 }
       let s := machine { user with trip := some x } []
       s.cpu.trip = some x ∧ x.pc = s.cpu.pc ∧ x.fail = none ∧ (∀ p ∈ s.pieces, p.op ≠ x.op) ∧ { x with fail := some (0x15, 5) }.fail = some (0x15, 5))
    ∧ (let s := awayMachine user
       s.cpu.trip = none ∧ gives (placesOf s (s.who .scalar) (baseOffset s ⟨6, 1, 0, 3, 0, .imm 0⟩) 8 .read) (fun ps s2 => anyAway s2 (s2.who .scalar) ps) = true) := by
  decide +kernel

/-- A node map of one node at 0x12000 and a page table at 0x14000, so that walks have something to find. -/
def mapped (t : Strand) (m : Memory) : State :=
  { machine t m with
      vis := [(0, { nodemap := 0x12000, nodecnt := 1, parkbase := 2 })],
      chans := [(0, { roots := [(0, 0x14000)] })] }

/-- The node map's entry, the level-1 entry and a leaf for page 1 (R109, R112). -/
def tables : List (Nat × Nat) := [(0x12000, 2 ^ 63), (0x14000, 0x15001), (0x15008, 0x1001D)]

/-- Stores that their home accepts, one that it refuses for an open window, and non-blocking ones. -/
theorem witness_StoresComplete :
    (let s := machine user []
     let w := s.who .scalar
     Ops.nb ⟨3, 1, 0, 3, 0, .imm 0xFFFC⟩ = false ∧ ((Ops.releases ⟨3, 1, 0, 3, 0, .reg 2 0x200⟩) && accessQueued s) = false ∧ accessQueued s = false
      ∧ gives (placesOf s w (baseOffset s ⟨3, 1, 0, 3, 0, .imm 0xFFF8⟩) (byteSize 3) .write) (fun ps s1 =>
          !anyAway s1 w ps && (writeWhole w .store false s1 ps (leBytes 8 5)).2 == .ok) = true
      ∧ gives (placesOf s w (scaledIndex s ⟨3, 1, 0, 3, 0, .reg 2 0⟩) (byteSize 3) .write) (fun ps s1 =>
          !anyAway s1 w ps && (writeWhole w .store false s1 ps (leBytes 8 5)).2 == .ok) = true)
    ∧ (let s := { mapped user (cells tables) with chans := [(0, { roots := [(0, 0x14000)], refuse := [(1, 0)] })] }
       gives (placesOf s (s.who .scalar) (baseOffset s ⟨3, 1, 0, 3, 0, .imm 0⟩) (byteSize 3) .write) (fun ps s1 =>
          (ps.map (fun x => placeRefusal s1 (s.who .scalar) x.1 x.2)).any (· ≠ .ok) && (writeWhole (s.who .scalar) .store false s1 ps (leBytes 8 5)).2 == .windowWrite) = true)
    ∧ (let s := awayMachine user
       gives (placesOf s (storer s ⟨3, 1, 0, 3, 0, .imm 0⟩) (baseOffset s ⟨3, 1, 0, 3, 0, .imm 0⟩) 8 .write) (fun ps s1 => anyAway s1 (storer s ⟨3, 1, 0, 3, 0, .imm 0⟩) ps) = true)
    ∧ (let s := machine { user with g := [(1, 0x20000)] } []
       (match placesOf s (storer s ⟨3, 1, 0, 3, 0, .imm 0⟩) (baseOffset s ⟨3, 1, 0, 3, 0, .imm 0⟩) 8 .write with
        | .fault _ _ _ => true
        | _ => false) = true ∧ faultsStale s (baseOffset s ⟨3, 1, 0, 3, 0, .imm 0⟩) 8 = false)
    ∧ (let o : Ops := ⟨3, 1, 0, 3, 0, .reg 2 0x1F⟩
       let s := machine (queued (.st o) user) []
       o.nb = true ∧ ccFull s o.ccNo = false ∧ gives (placesOf s (s.who .scalar) (s.srcG o.A + s.srcB o.b) (byteSize o.T) .write) (fun ps s1 => !wordPending s1 true ps) = true
        ∧ gives (placesOf s (s.who .scalar) (s.srcG o.A + s.srcG o.B <<< Nat.log2 (byteSize o.T)) (byteSize o.T) .write) (fun ps s1 => !wordPending s1 true ps) = true) := by decide +kernel

theorem witness_StoreFrame :
    (let s := machine user []
     Ops.nb ⟨3, 1, 0, 3, 0, .imm 8⟩ = false
      ∧ gives (placesOf s (storer s ⟨3, 1, 0, 3, 0, .imm 8⟩) (baseOffset s ⟨3, 1, 0, 3, 0, .imm 8⟩) (byteSize 3) .write) (fun ps _ =>
          ps.length == 1 && ps.all (fun x => x.1.kind == .pg)) = true
      ∧ next (.st ⟨3, 1, 0, 3, 0, .imm 8⟩) s (fun t => !t.cpu.parked) = true ∧ next (.strel ⟨3, 1, 0, 3, 0, .imm 8⟩) s (fun t => !t.cpu.parked) = true) := by
  decide +kernel

/-- A channel's frame, and a scratchpad. -/
theorem witness_MemoryReadsWhatWasWritten :
    PlainHome (machine user []) 0x10000 1 ∧ frameRefused (machine user []) 0x10000 = false
      ∧ PlainHome (machine user []) (haScratch 0 0 0 0x100) 8 ∧ frameRefused (machine user []) (haScratch 0 0 0 0x100) = false
      ∧ (let s := machine user []
         let p : Place := { kind := .scratch, ha := 2 ^ 63 + 0x100, va := 0x8000000000000100 }
         p.window = none ∧ 2 ^ 63 ≤ p.ha ∧ homePoisoned s p.ha 8 = false ∧ cutOff s (s.who .scalar) p 8 = false) :=
  ⟨⟨.inr (by decide +kernel), by decide +kernel⟩, by decide +kernel, ⟨.inl (by decide +kernel), by decide +kernel⟩, by decide +kernel, by decide +kernel⟩

theorem witness_SynchronisationCompletes :
    (let b : Binding := { base := 0x10000, stride := 8, count := 4, width := 8, sync := 0x10040 }
     let s := machine { user with bnd := [(0, some b)] } []
     s.cpu.readBnd 0 = some b ∧ regionBusy s b = false ∧ s.cpu.readBnd 15 = none
      ∧ (∀ c ∈ [(0 : BitVec 6), 1, 2],
          answers (atomicMem s (s.who .scalar) b.sync 8 (acqAction ⟨5, 0, c.toNat, 15, 0, .reg 2 0⟩ s).new) = true) ∧ near s b.sync 8 .atomic = true
      ∧ answers (atomicMem s (s.who .scalar) b.sync 8 (fun _ => some (leBytes 8 16))) = true
      ∧ answers (atomicMem s (s.who .scalar) b.sync 8 (fun v => some (leBytes 8 (leNat v + 16)))) = true
      ∧ fenceBusy s 2 = false ∧ fenceBusy s 7 = false)
    ∧ (let s := machine (queued (.vst ⟨1, 1, 0, 2, 0, .imm 0⟩) user) []
       regionBusy s { base := 0x10000, stride := 8, count := 4, width := 8, sync := 0x10040 } = true ∧ fenceBusy s 2 = true) := by decide +kernel

theorem witness_SystemRegisterReads :
    (srReadLevel 0x020).rank ≤ (machine user []).cpu.level.rank ∧ (srReadLevel 0x212).rank ≤ (machine (hyper user) []).cpu.level.rank
      ∧ (machine user []).cpu.queue.any (writesSr 0x020) = false ∧ ((machine { user with cc := [(15, { count := 2 ^ 20 - 1 })] } []).cpu.readCC 15).count < 2 ^ 20 := by
  decide +kernel

theorem witness_SystemRegisterWrites :
    (let y := fun (n : Nat) => (machine { user with g := [(1, BitVec.ofNat 64 n)] } []).srcG 1
     (8 ≤ (y 8).toNat ∧ (y 8).toNat ≤ 12) ∧ (8 ≤ (y 12).toNat ∧ (y 12).toNat ≤ 12) ∧ (y 15).toNat = 15 ∧ ¬ ((8 ≤ (y 13).toNat ∧ (y 13).toNat ≤ 12) ∨ (y 13).toNat = 15))
    ∧ (∀ n ∈ [0x023, 0x033, 0x034, 0x041, 0x071, 0x027, 0x053, 0x040, 0x101, 0x102, 0x103, 0x212, 0x104, 0x214, 0x100],
        (srWriteLevel n).rank ≤ (machine (hyper user) []).cpu.level.rank ∧ srWriteOk n 0 = true)
    ∧ (machine (hyper user) []).cpu.queue = [] ∧ srWriteOk 0x100 (3 * 4) = true := by decide +kernel

theorem witness_AccessChecksTrap :
    (let s := machine { user with g := [(1, 0x10001), (2, 0x100F8)] } []
     (s.cpu.readG 1).toNat % byteSize 3 ≠ 0 ∧ Ops.nb ⟨5, 1, 1, 3, 0, .reg 2 0⟩ = false ∧ Ops.C ⟨5, 1, 6, 3, 0, .reg 2 0⟩ < 7
      ∧ Ops.nb ⟨0, 1, 1, 3, 0, .reg 2 0x10⟩ = true ∧ s.srcG 1 = s.cpu.readG 1
      ∧ ((s.cpu.readG 1).toNat % 8 ≠ 0 ∧ 240 < (s.cpu.readG 2).toNat % 256) ∧ (baseOffset s ⟨0, 1, 0, 15, 0, .imm 0⟩).toNat % 8 ≠ 0)
    ∧ (machine user []).cpu.level = .u ∧ (machine { user with level := .s } []).cpu.level ≠ .h
    ∧ (machine user []).cpu.level.rank < (srReadLevel 0x100).rank ∧ (machine user []).cpu.level.rank < (srWriteLevel 0x100).rank := by decide +kernel

theorem witness_CacheAndTlbInstructions :
    (let s := mapped { user with level := .s, g := [(1, 0x10000), (2, 65536)] } (cells tables)
     let a := (s.cpu.readG 1).toNat
     let n := (s.cpu.readG 2).toNat
     s.cpu.level ≠ .u ∧ 0 < n ∧ a + n ≤ 2 ^ 62 ∧ noNode s (pagesOf a n) = none
      ∧ (tagsOf s s.cpu.vi ((pagesOf a n).filterMap (homePage s))).length = 1
      ∧ (tagsOf s s.cpu.vi ((pagesOf a n).filterMap (homePage s))).any (advanceWaits s) = false
      ∧ (s.opB (.imm 0)) = 0 ∧ (s.cpu.readG 0).toNat = 0
      ∧ (let m := (s.opB (.imm 65535)).toNat
         0 < m ∧ m ≤ 65536 - a % 65536 ∧ a + m ≤ 2 ^ 62 ∧ rangeBusy s a m = false ∧ answers (placeOf s (s.who .scalar) (s.cpu.readG 1) m .read) = true)
      ∧ s.cpu.queue.any QEntry.writes = false ∧ pendingWrites s (myPieces s) = [])
    ∧ (machine (hyper user) []).cpu.level = .h := by decide +kernel

theorem witness_ClaimsWaitsAndLaunch :
    (machine user []).cpu.td = false
      ∧ (let s := machine { user with td := true } []
         s.cpu.td = true ∧ freeSlot s s.myDie s.cpu.vi = none)
      ∧ (let s := mapped { user with td := true } []
         freeSlot s s.myDie s.cpu.vi = some 0 ∧ s.cpu.poison.any isTilePoison = false ∧ s.cpu.claims = [])
      ∧ (machine { user with claims := [{ slot := 0, tiles := 15 }] } []).cpu.claims.length = 1
      ∧ (let s := machine { user with trapS := { evp := 8 } } []
         Ops.A ⟨5, 0, 0, 15, 0, .imm 15⟩ = 0 ∧ (s.opB (.imm 15)).toNat < 16 ∧ s.cpu.trapS.evp &&& (s.opB (.imm 15)).setWidth 4 ≠ 0
          ∧ s.cpu.trapS.evp &&& (s.opB (.imm 7)).setWidth 4 = 0)
      ∧ (let s := machine user []
         (s.cpu.readG 1).toNat % 8 = 0 ∧ (s.cpu.readG 1).toNat % 64 = 0 ∧ gives (placeOf s (s.who .scalar) (s.cpu.readG 1) 8 .read) (fun p _ => p.kind == .pg) = true
          ∧ gives (placeOf s (s.who .scalar) (s.cpu.readG 1) 64 .read) (fun _ s1 => !accessQueued s1 && decide (submissions s1 s1.cpu.vi < 256)) = true
          ∧ (s.cpu.readG 2).toNat % 64 ≠ 0) := by decide +kernel

/-- H names slot 1 of core 0: empty, its own, another's; an image that can be loaded, and none. -/
theorem witness_ContextInstructions :
    (let h := { hyper user with g := [(1, 0x10000), (2, 1), (3, 0)], tid := 1 }
     let s := machine h []
     let o : Ops := ⟨5, 1, 0, 15, 0, .reg 2 0⟩
     s.cpu.level = .h ∧ (s.cpu.readG o.B).toNat < 512 ∧ (s.cpu.readG o.B).toNat / 4 < 80 ∧ (s.cpu.readG o.A).toNat % 64 = 0
      ∧ namedStrand s (s.cpu.readG o.B).toNat = none ∧ ((namedStrand s 0).map (·.tid)) = some s.cpu.tid
      ∧ (let s2 := { s with others := [{ user with tid := 2, slot := 1 }] }
         ((namedStrand s2 (s2.cpu.readG o.B).toNat).map (·.tid)) = some 2 ∧ o.C = 0)
      ∧ imageAt s (haPhys s.cpu.pkg (s.cpu.readG o.A).toNat) = none
      ∧ (let x : Saved := { strand := { user with tid := 2, slot := 1, held := 0 }, at_ := 0x10000, slot := none, lost := false, region := none, number := 7 }
         let s3 := { s with saved := [x], mem := cells [(0x10000, 0x000100014E4C4358), (0x10020, 7)] }
         let u := readImage s3 x.at_ x.strand
         imageAt s3 (haPhys s3.cpu.pkg (s3.cpu.readG o.A).toNat) = some x ∧ u.groups ≤ freeGroups s3 0 ∧ (heldTiles u).length ≤ freeTiles s3 0
          ∧ (s3.strands.all (fun t => !onCore 0 t || t.vi == u.vi)) = true
          ∧ (restoreStrand (loadAs s3 x).2 (loadAs s3 x).1 { pkg := 0, die := 0, core := 0, slot := 1 }).isSome = true)) := by decide +kernel

theorem witness_VectorConfiguration :
    (Ops.C ⟨5, 2, 1, 15, 0, .reg 0 0⟩ = 1) ∧ (Ops.C ⟨5, 2, 0, 15, 0, .reg 0 0⟩ ≠ 1)
      ∧ (let h := fun (t : Strand) =>
           min (max 1 (min ((((machine t []).srcG 2).toNat + t.groupElems - 1) / t.groupElems) 16)) (t.groups + freeGroups (machine t []) 0)
         h user = user.groups ∧ h { user with g := [(2, 513)] } ≠ user.groups) := by decide +kernel

theorem witness_MaskInstructions :
    (let s := machine { user with m := [(65536 + 2, true)] } []
     s.cpu.vl ≤ 65536 ∧ (s.cpu.readM 1 2 = true ∧ 2 < s.cpu.vl ∧ (∀ j, j < 2 → s.cpu.readM 1 j = false) ∧ 3 < s.cpu.vl)
      ∧ (∀ j, j < s.cpu.vl → s.cpu.readM 2 j = false)) := by decide +kernel

/-- Masked elements 0 and 2 of four are active. -/
def masked : Strand := { user with m := [(131072, true), (131074, true)], v := elems 1 [1, 2, 3, 4] ++ elems 2 [5, 6, 7, 8] }

theorem witness_VectorIntegerElements :
    (let o : Ops := ⟨3, 1, 1, 2, 2, .reg 2 0⟩
     o.T < 8 ∧ (machine masked []).cpu.vl ≤ 65536
      ∧ (∀ x ∈ vectorIntTable, HeadReady (x.1 o) [o.T] masked) ∧ (∀ x ∈ vectorBitTable, HeadReady (x.1 o) [o.T] masked)
      ∧ HeadReady (.vmadd o) [o.T] masked ∧ HeadReady (.viota o) [o.T] masked ∧ (o.C < 8 ∧ HeadReady (.vext o) [o.C, o.T] masked)
      ∧ (o.C ≤ 5 ∧ HeadReady (.vcmp o) [o.T] masked)
      ∧ Active (machine masked []) o true 1 ∧ ¬ Active (machine masked []) o true 0) := by
  refine ⟨by decide +kernel, by decide +kernel, headReadyAll _ _ _ _ (by decide +kernel),
    headReadyAll _ _ _ _ (by decide +kernel), headReady _ _ _ (by decide +kernel), headReady _ _ _ (by decide +kernel),
    ⟨by decide +kernel, headReady _ _ _ (by decide +kernel)⟩, ⟨by decide +kernel, headReady _ _ _ (by decide +kernel)⟩, ?_, ?_⟩
  · unfold Active; decide +kernel
  · unfold Active; decide +kernel

/-- The last element of a register, and the first beyond it. -/
theorem witness_VectorMoves :
    (let o : Ops := ⟨3, 1, 0, 2, 0, .reg 2 1⟩
     o.T ≤ 12 ∧ HeadReady (.vmov o) [o.T] user ∧ HeadReady (.vsplat o) [o.T] user ∧ HeadReady (.vsel o) [o.T] user
      ∧ HeadReady (.vmvxs o) [o.T] user ∧ HeadReady (.vmvsx o) [o.T] user)
    ∧ (let x := fun (n : BitVec 25) => ((machine user []).srcB (.imm n)).toNat
       user.mvl ≤ x 512 ∧ x 511 < user.mvl ∧ (machine user []).cpu.poison = []) :=
  ⟨⟨by decide +kernel, headReady _ _ _ (by decide +kernel), headReady _ _ _ (by decide +kernel), headReady _ _ _ (by decide +kernel),
    headReady _ _ _ (by decide +kernel), headReady _ _ _ (by decide +kernel)⟩, by decide +kernel⟩

/-- An active element lies below VL. -/
theorem allActive (s : State) (o : Ops) (neg : Bool) (p : Nat → Prop) (h : ∀ k, k < s.cpu.vl → p k) : ∀ k, Active s o neg k → p k :=
  fun k a => h k a.2.1
theorem allBelow (n : Nat) (p q : Nat → Prop) (h : ∀ j, j < n → p j) : ∀ j, j < n → q j → p j := fun j hj _ => h j hj

theorem witness_VectorFloatElements :
    (let s := machine masked []
     let o : Ops := ⟨3, 1, 1, 10, 2, .reg 2 0⟩
     8 ≤ o.T ∧ o.T ≤ 11 ∧ (∀ k, Active s o true k → elemAbn s.cpu o.T o.A k = none ∧ bAbn s o k = none)
      ∧ (∀ k, Active s o false k → elemAbn s.cpu o.T o.C k = none)
      ∧ (∀ y ∈ vectorFloatTable, HeadReady (y.1 o) [o.T] s.cpu) ∧ HeadReady (.vfmin o) [o.T] s.cpu ∧ HeadReady (.vfma o) [o.T] s.cpu ∧ HeadReady (.vfcmp o) [o.T] s.cpu)
    ∧ (let s := machine masked []
       let o : Ops := ⟨3, 1, 2, 10, 0, .reg 0 0⟩
       (∀ k, Active s o false k → elemAbn s.cpu o.C o.A k = none) ∧ HeadReady (.vfcvt ⟨3, 1, 9, 10, 0, .reg 0 0⟩) [9, 10] s.cpu
        ∧ (o.C < 8 ∧ HeadReady (.vicvtf o) [o.C, o.T] s.cpu))
    ∧ (HeadReady (.vlmul ⟨3, 1, 0, 12, 0, .reg 2 0⟩) [12] masked ∧ HeadReady (.vtstabn ⟨3, 1, 0, 10, 0, .reg 0 0⟩) [10] masked) := by
  refine ⟨⟨by decide +kernel, by decide +kernel, allActive _ _ _ _ (by decide +kernel), allActive _ _ _ _ (by decide +kernel),
    headReadyAll _ _ _ _ (by decide +kernel), headReady _ _ _ (by decide +kernel),
    headReady _ _ _ (by decide +kernel), headReady _ _ _ (by decide +kernel)⟩,
    ⟨allActive _ _ _ _ (by decide +kernel), headReady _ _ _ (by decide +kernel), by decide +kernel, headReady _ _ _ (by decide +kernel)⟩,
    headReady _ _ _ (by decide +kernel), headReady _ _ _ (by decide +kernel)⟩

theorem witness_VectorAbnTraps :
    (let s := machine { user with v := elems 1 [1, 0xFFA00007] } []
     let o : Ops := ⟨3, 1, 0, 10, 0, .reg 2 0⟩
     o.T = 10 ∧ s.cpu.vl ≤ 65536 ∧ (∀ x ∈ vectorFloatTable, HeadReady (x.1 o) [o.T] s.cpu) ∧ Active s o (o.C == 1) 1 ∧ isAbn (s.cpu.readV o.A 1 % 2 ^ 32) = true
      ∧ (∀ j, j < 1 → Active s o (o.C == 1) j → isAbn (s.cpu.readV o.A j % 2 ^ 32) = false ∧ bAbn s o j = none)) := by
  refine ⟨by decide +kernel, by decide +kernel, headReadyAll _ _ _ _ (by decide +kernel), ?_, by decide +kernel,
    allBelow _ _ _ (by decide +kernel)⟩
  unfold Active; decide +kernel

theorem witness_ReductionsComplete :
    HeadReady (.vredsum ⟨5, 1, 0, 2, 0, .imm 1⟩) [2] masked ∧ HeadReady (.vredbit ⟨5, 1, 1, 2, 0, .imm 1⟩) [2] masked ∧ HeadReady (.vredbit ⟨5, 1, 0, 2, 0, .imm 1⟩) [2] masked
      ∧ HeadReady (.vdot ⟨5, 1, 3, 2, 0, .reg 2 0⟩) [2] masked
      ∧ (let s := machine masked []
         let o : Ops := ⟨5, 1, 0, 10, 0, .reg 0 1⟩
         startAbn o (operandFp s.srcG s.srcK o.T o.b) = none ∧ (∀ k ∈ activeList s.cpu o false, elemAbn s.cpu o.T o.A k = none)
          ∧ (activeList s.cpu o false).length = 4 ∧ HeadReady (.vredsum o) [o.T] s.cpu ∧ HeadReady (.vredmin o) [o.T] s.cpu)
      ∧ (let s := machine { user with vl := 1, v := elems 1 [0x3F] ++ elems 2 [0x3F] } []
         let o : Ops := ⟨5, 1, 0, 12, 0, .reg 2 0⟩
         HeadReady (.vdot o) [o.T] s.cpu ∧ activeList s.cpu o false = [0]
          ∧ ∀ l ∈ [[], [0]], -(2 ^ 95 : Int) ≤ (l.map (fun k => eaProd (s.cpu.readV o.A k % 256) (s.cpu.readV o.B k % 256))).sum
            ∧ (l.map (fun k => eaProd (s.cpu.readV o.A k % 256) (s.cpu.readV o.B k % 256))).sum < 2 ^ 95) :=
  ⟨headReady _ _ _ (by decide +kernel), headReady _ _ _ (by decide +kernel), headReady _ _ _ (by decide +kernel), headReady _ _ _ (by decide +kernel),
    ⟨by decide +kernel, by decide +kernel, by decide +kernel, headReady _ _ _ (by decide +kernel), headReady _ _ _ (by decide +kernel)⟩,
    ⟨headReady _ _ _ (by decide +kernel), by decide +kernel, by decide +kernel⟩⟩

theorem witness_PermutationsComplete :
    (let o : Ops := ⟨3, 1, 0, 2, 0, .reg 2 0⟩
     o.T ≤ 12 ∧ masked.vl ≤ 65536 ∧ HeadReady (.vperm o) [o.T] masked ∧ HeadReady (.vslidedn o) [o.T] masked ∧ HeadReady (.vzip o) [o.T] masked
      ∧ HeadReady (.vslideup o) [o.T] masked ∧ HeadReady (.vcompress o) [o.T] masked ∧ HeadReady (.vexpand o) [o.T] masked)
    ∧ (masked.vstart = 0 ∧ HeadReady (.vscan ⟨3, 1, 0, 2, 0, .reg 0 0⟩) [2] masked)
    ∧ (masked.vl ≠ 0 ∧ Ops.D ⟨3, 1, 4, 2, 0, .reg 0 0⟩ ≠ Ops.C ⟨3, 1, 4, 2, 0, .reg 0 0⟩ ∧ HeadReady (.vsortk ⟨3, 1, 4, 2, 0, .reg 0 0⟩) [2] masked)
    ∧ Active (machine masked []) ⟨3, 1, 0, 2, 2, .reg 0 0⟩ false 2 := by
  refine ⟨⟨by decide +kernel, by decide +kernel, headReady _ _ _ (by decide +kernel), headReady _ _ _ (by decide +kernel), headReady _ _ _ (by decide +kernel),
    headReady _ _ _ (by decide +kernel), headReady _ _ _ (by decide +kernel), headReady _ _ _ (by decide +kernel)⟩,
    ⟨by decide +kernel, headReady _ _ _ (by decide +kernel)⟩, ⟨by decide +kernel, by decide +kernel, headReady _ _ _ (by decide +kernel)⟩, ?_⟩
  unfold Active
  decide +kernel

theorem witness_PairsComplete :
    (let x : Slot := ⟨.add, 5, .reg 2⟩
     let y : Slot := ⟨.mul, 10, .imm 3⟩
     x.op.isVector = false ∧ slotAbn user.readG x = none ∧ y.op.isVector = false ∧ slotAbn user.readG y = none ∧ x.d ≠ y.d)
    ∧ HeadReady (.pFormPair ⟨.add, 4, .reg 9⟩ ⟨.vaddS32, 6, .reg 1⟩) [2] masked ∧ masked.vl ≤ 65536 :=
  ⟨by decide +kernel, headReady _ _ _ (by decide +kernel), by decide +kernel⟩

/-- The elements of a vector access, translated. -/
def translated (x : VTrans) (p : List VElem → State → Bool) : Bool :=
  match x with
  | .done els s => p els s
  | .fault _ _ _ _ _ => false
  | .wait _ => false


/-! Vector memory, tiles, verdicts. -/

theorem headsReady {α : Type} (l : List (Instr × α)) (types : List Nat) (t : Strand)
    (h : l.all (fun x => headB x.1 types t) = true) : ∀ x ∈ l, HeadReady x.1 types t :=
  fun x hx => headReady _ _ _ (List.all_eq_true.1 h x hx)

/-- The head of the queue, if any, waits for no pieces of its own. -/
theorem starts (s : State) (h : s.cpu.queue.head?.any QEntry.awaits = false) : Starts s := by
  intro e he
  simpa [he] using h

/-- A strand whose head of the queue waits for the pieces of operation 9. -/
def waiting (i : Instr) (t : Strand) (fails : List (Nat × Nat × Word)) (got : List (Nat × Nat × List Byte)) : Strand :=
  { t with queue := [{ entryOf t i 0 with op := 9, fails := fails, got := got, issued := [0, 1, 2, 3] }] }

/-- A piece of operation 9. -/
def aPiece : Piece :=
  { id := 9, op := 9, tid := 1, cc := none, place := { kind := .pg, ha := 0x10000, va := 0x10000 }, what := .write [0] false, vi := 0, level := .u,
    srcPkg := 0, srcDie := 0, srcCore := 0, srcSlot := 0 }

/-- The head waits, its last piece has ended, and `p` holds of it. -/
theorem waitsAnswered (s : State) (p : QEntry → Bool)
    (h : (match s.cpu.queue with
      | e :: _ => e.awaits && s.pieces.all (fun q => decide (q.op ≠ e.op)) && p e
      | [] => false) = true) : ∃ e rest, Waits s e rest ∧ Answered s e ∧ p e = true := by
  cases hq : s.cpu.queue with
  | nil => simp [hq] at h
  | cons e rest =>
    simp only [hq, Bool.and_eq_true, List.all_eq_true, decide_eq_true_eq] at h
    exact ⟨e, rest, ⟨hq, h.1.1⟩, h.1.2, h.2⟩

/-- The head waits, and a piece of its operation is on its way. -/
theorem waitsStill (s : State)
    (h : (match s.cpu.queue with
      | e :: _ => e.awaits && s.pieces.any (fun q => decide (q.op = e.op))
      | [] => false) = true) : ∃ e rest, Waits s e rest ∧ ∃ p ∈ s.pieces, p.op = e.op := by
  cases hq : s.cpu.queue with
  | nil => simp [hq] at h
  | cons e rest =>
    simp only [hq, Bool.and_eq_true, List.any_eq_true, decide_eq_true_eq] at h
    exact ⟨e, rest, ⟨hq, h.1⟩, h.2⟩

/-- An instruction whose head waits: for a piece, answered without a failure, and answered with one. -/
def WaitsAllWays (i : Instr) (t : Strand) : Prop :=
  (∃ e rest, Waits { machine (waiting i t [] []) [] with pieces := [aPiece] } e rest
      ∧ ∃ p ∈ ({ machine (waiting i t [] []) [] with pieces := [aPiece] } : State).pieces, p.op = e.op)
    ∧ (∃ e rest, Waits (machine (waiting i t [] []) []) e rest ∧ Answered (machine (waiting i t [] []) []) e ∧ e.fails.isEmpty = true)
    ∧ ∃ e rest, Waits (machine (waiting i t [(2, 0x31, 5)] []) []) e rest ∧ Answered (machine (waiting i t [(2, 0x31, 5)] []) []) e
        ∧ (lowestFail e.fails == some (2, 0x31, 5)) = true

theorem waitsAllWays (i : Instr) (t : Strand) : WaitsAllWays i t :=
  ⟨waitsStill _ rfl, waitsAnswered _ (fun e => e.fails.isEmpty) rfl, waitsAnswered _ (fun e => lowestFail e.fails == some (2, 0x31, 5)) rfl⟩

/-- Where a translation ends in a fault: the element and the cause. -/
def faulted (x : VTrans) (p : List VElem → Nat → Nat → State → Bool) : Bool :=
  match x with
  | .done _ _ => false
  | .fault els k c _ s => p els k c s
  | .wait _ => false

def passed (x : WmAnswer) : Bool :=
  match x with
  | .pass _ => true
  | _ => false

/-- A strand with indices in v2, and one with the stride 2^64 - 2^16. -/
def striding : Strand := { user with g := [(1, 0x10000), (2, 0xFFFFFFFFFFFF0000)] }
def indexed : Strand := { user with v := elems 2 [0, 4, 8, 12] }

theorem witness_VectorMemoryCompletes :
    (let s := machine indexed (cells [(0x10010, 7)])
     let o : Ops := ⟨3, 1, 0, 2, 0, .reg 2 0⟩
     let w := s.who .vector
     (∀ x ∈ vectorLoads o ++ vectorStores o, HeadReady x.1 [o.T] s.cpu) ∧ HeadReady (.vpref o) [o.T] s.cpu ∧ s.cpu.vl ≠ 0 ∧ o.nb = false
      ∧ (∀ x ∈ vectorLoads o ++ vectorStores o, strideBad o s x.2 (activeMem s.cpu o o.mn) = false)
      ∧ (∀ x ∈ vectorLoads o, translated (translateLoad o x.2 s (activeMem s.cpu o o.mn)) (fun els s1 =>
          !elemsAway s1 w els && decide ((loadElems o (s1.who .vector) (requestElems o (s1.who .vector) s1 els) els).2 = .done)) = true)
      ∧ (∀ x ∈ vectorStores o, translated (vTranslate w .write 4 x.2 (vEa o s x.2) s
          ((activeMem s.cpu o o.mn).filter (fun k => !(doneAlready s).contains k))) (fun els s1 =>
            !elemsAway s1 w els && (performStore o s els s1).fail.isNone) = true))
    ∧ (let s := awayMachine indexed
       let o : Ops := ⟨3, 1, 0, 2, 0, .reg 2 0⟩
       let w := s.who .vector
       (∀ x ∈ vectorLoads o, translated (translateLoad o x.2 s (activeMem s.cpu o o.mn)) (fun els s1 => elemsAway s1 w (passElems s1 els).1) = true)
        ∧ (∀ x ∈ vectorStores o, translated (vTranslate w .write 4 x.2 (vEa o s x.2) s (activeMem s.cpu o o.mn)) (fun els s1 => elemsAway s1 w els) = true))
    ∧ (∀ i, WaitsAllWays i indexed)
    ∧ (∃ e rest, Waits (machine (waiting (.vld ⟨3, 1, 0, 2, 0, .reg 2 0⟩) indexed [] [(0, 0, [1, 2, 3, 4])]) []) e rest
        ∧ Answered (machine (waiting (.vld ⟨3, 1, 0, 2, 0, .reg 2 0⟩) indexed [] [(0, 0, [1, 2, 3, 4])]) []) e
        ∧ (e.fails.isEmpty && decide (e.issued = [0, 1, 2, 3]) && decide (e.got = [(0, 0, [1, 2, 3, 4])])) = true)
    ∧ Starts (machine indexed [])
    ∧ (let s := machine indexed []
       let o : Ops := ⟨3, 1, 0, 2, 0, .reg 2 0x1F⟩
       let w := s.who .vector
       o.nb = true ∧ ccFull s o.ccNo = false
        ∧ (∀ x ∈ vectorLoads o, translated (translateLoad o x.2 s (activeMem s.cpu o o.mn)) (fun els s1 => passed (checkAll .vector s1 els)) = true)
        ∧ (∀ x ∈ vectorStores o, translated (vTranslate w .write 4 x.2 (vEa o s x.2) s (activeMem s.cpu o o.mn)) (fun _ s1 => (wroteSoFar s1).isEmpty) = true))
    ∧ (let s := machine striding []
       let o : Ops := ⟨3, 1, 0, 2, 0, .reg 2 0⟩
       (.vlds o, .strided) ∈ vectorLoads o ∧ HeadReady (.vlds o) [o.T] s.cpu ∧ s.cpu.vl ≠ 0 ∧ strideBad o s .strided (activeMem s.cpu o o.mn) = true)
    ∧ (let s := machine { user with g := [(1, 0x1FFF8)], v := elems 2 [0, 4, 8, 12] } []
       let o : Ops := ⟨3, 1, 0, 2, 0, .reg 2 0⟩
       let w := s.who .vector
       o.nb = false ∧ ∀ x ∈ [((.vldff o : Instr), VForm.unit), (.vldxff o, .indexed)],
        faulted (translateLoad o x.2 s (activeMem s.cpu o o.mn)) (fun els k c s1 =>
          decide (0x11 ≤ c) && decide (c ≤ 0x15) && decide ((activeMem s.cpu o o.mn).head? ≠ some k) && !elemsAway s1 w els
            && decide ((loadElems o (s1.who .vector) (requestElems o (s1.who .vector) s1 els) els).2 = .done)) = true)
    ∧ (let s := { mapped user (cells tables) with chans := [(0, { roots := [(0, 0x14000)], refuse := [(1, 0)] })] }
       let o : Ops := ⟨3, 1, 0, 2, 0, .imm 0⟩
       let w := s.who .vector
       translated (vTranslate w .write 4 .unit (vEa o s .unit) s (activeMem s.cpu o o.mn)) (fun els s1 =>
         (performStore o s els s1).fail.isSome && els.all (fun e => e.places.all (fun p => decide (0x20000 < p.1.ha) || decide (p.1.ha < 0x20000)))) = true)
    ∧ { user with vl := 0 }.vl = 0 := by
  refine ⟨⟨headsReady _ _ _ (by decide +kernel), headReady _ _ _ (by decide +kernel), by decide +kernel⟩, by decide +kernel,
    fun i => waitsAllWays i _, waitsAnswered _ (fun e => e.fails.isEmpty && decide (e.issued = [0, 1, 2, 3]) && decide (e.got = [(0, 0, [1, 2, 3, 4])])) (by decide +kernel),
    starts _ (by decide +kernel), by decide +kernel,
    ⟨by simp [vectorLoads], headReady _ _ _ (by decide +kernel), by decide +kernel⟩, by decide +kernel, by decide +kernel, by decide +kernel⟩

theorem witness_LoadedElementsArrive :
    (let s := machine user []
     let p : Place := { kind := .scratch, ha := 2 ^ 63 + 0x7FFFC, va := 0x800000000007FFFC }
     let q : Place := { kind := .scratch, ha := 2 ^ 63, va := 0x8000000000000000 }
     let els : List VElem := [{ i := 0, va := p.va, places := [(p, byteSize 2)] }, { i := 65535, va := q.va, places := [(q, byteSize 2)] }]
     s.cpu.links = [] ∧ els.Pairwise (fun x y => x.i ≠ y.i)
      ∧ (∀ e ∈ els, e.i < 65536 ∧ ∃ p : Place, e.places = [(p, byteSize 2)] ∧ p.kind = .scratch ∧ homePoisoned s p.ha (byteSize 2) = false
        ∧ cutOff s (s.who .vector) p (byteSize 2) = false)) := by
  refine ⟨rfl, by decide +kernel, ?_⟩
  intro e he
  rcases List.mem_cons.1 he with h | h
  · subst h; exact ⟨by decide +kernel, _, rfl, rfl, by decide +kernel, by decide +kernel⟩
  · rw [List.mem_singleton.1 h]; exact ⟨by decide +kernel, _, rfl, rfl, by decide +kernel, by decide +kernel⟩

/-- A BARRIER of a task whose instance has one task, and of one whose instance has two. -/
def atBarrier (tasks : Nat) : Strand :=
  { queued (.barrier ⟨0, 0, 0, 15, 0, .imm 0⟩) user with lid := 1, levels := [{ index := 0, extent := 1, barrier := true }, { index := 0, extent := tasks }] }

/-- A launch whose tasks share core 0 of die 0. -/
def aRecord (tasks : Nat) : LaunchRec :=
  { magic := 0x4E4C4244, version := 1, flags := 0, entry := 0x10000, kaddr := 0, kcount := 0, nlevels := 3, prio := 0, scratch := 0, nv := 8, ew := 32, groups := 1,
    tiles := 0, reserved := 0, done := 0, pub := 0, npub := 0, nlinks := 0, links := [], args := [],
    levels := [{ extent := 1, domain := 3, scope := 2, flags := 0, policy := 0, argReg := 0, reserved := 0 },
               { extent := 1, domain := 2, scope := 1, flags := 0, policy := 0, argReg := 0, reserved := 0 },
               { extent := tasks, domain := 1, scope := 0, flags := 0, policy := 0, argReg := 0, reserved := 0 }] }

def aLaunch (st : LaunchState) (tasks : Nat) (started : List Nat) : Launch :=
  { id := 1, vi := 0, pkg := 0, kbank := [], cells := [], state := st, cls := 1, since := 0, readyOrder := 0, tasks := tasks, started := started, exited := 0, first := 0,
    codes := [], gangs := [], reports := [], direct := true, record := aRecord tasks }

/-- Its launch, with one task started. -/
def barred (tasks : Nat) : State := { machine (atBarrier tasks) [] with launches := [aLaunch .running tasks [0]] }

/-- The page with HS set: atomics on it are performed in index order. -/
def ordered (t : Strand) (m : Memory) : State :=
  { machine t m with cores := [(0, { tlbs := [{ pageOf .vector with leaf := { leaf with hs := true } }] })] }

/-- A word at or above the count, one closed by bit 63, and one below the count. -/
def waitWord (a : Word) : Bool :=
  let s := machine user (cells [(0x10000, 5), (0x10008, 2 ^ 63), (0x10010, 4)])
  let w := s.who .vector
  decide (a.toNat % 8 = 0) && !heldBack s a && gives (placesOf s w a 8 .read) (fun ps s1 => gives (readPlaces w 0 a s1 ps) (fun x _ =>
      let word := leNat x.bytes
      decide (5 ≤ word % 2 ^ 40 ∨ word / 2 ^ 63 % 2 = 1) == (a != 0x10010) && (decide (5 ≤ word) == (a != 0x10010))))
    && answers (atomicMem s w a 8 (fun v => some (leBytes 8 (leNat v / 2 ^ 40 * 2 ^ 40 + (leNat v % 2 ^ 40 - 5)))))
    && answers (atomicMem s w a 8 (fun v => some (leBytes 8 (max (leNat v) 5))))

def barrierOf (tasks : Nat) : Bool :=
  let s := barred tasks
  let s3 := s.onCpu (fun t => { t with arrived := true })
  let r := cellGet 0 s.cpu.arrivals 0 + 1
  decide (s.cpu.levels[0]? = some { index := 0, extent := 1, barrier := true }) && decide (s.cpu.queue.map (·.instr) = [.barrier ⟨0, 0, 0, 15, 0, .imm 0⟩])
    && (decide (arrivedTasks s3 0 r < instanceSize s.cpu 0) == decide (tasks = 2)) && decide (s.cpu.tid ≠ 0) && s.others.all (fun u => decide (u.tid ≠ s.cpu.tid))

theorem witness_VectorAtomicsAndWaits_atomics :
    (let s := ordered { indexed with v := elems 1 [1, 2, 3, 4] ++ elems 2 [0, 4, 8, 12] } []
     let o : Ops := ⟨1, 1, 9, 10, 0, .reg 2 0⟩
     let w := s.who .vector
     let n := byteSize o.T
     let ea := vEa o s .indexed
     let todo := (activeMem s.cpu o false).filter (fun k => !(doneAlready s).contains k)
     let amo := fun k => amoBytes (o.C % 32) o.T (s.cpu.readV o.D k % 2 ^ typeWidth o.T)
     let cas := fun k => casBytes n (s.cpu.readV o.D k % 2 ^ typeWidth o.T) (s.cpu.readV 3 k % 2 ^ typeWidth o.T)
     s.cpu.vl ≠ 0 ∧ o.nb = false ∧ (∀ k ∈ todo, (ea k).toNat % n = 0) ∧ HeadReady (.vamo o) [o.T] s.cpu ∧ HeadReady (.vcas { o with c := 3 }) [o.T] s.cpu
      ∧ (o.C % 32 < 7 ∨ ∀ k ∈ todo, elemAbn s.cpu o.T o.D k = none)
      ∧ translated (vTranslate w .atomic n .indexed ea s todo) (fun els s1 => elemsHs els && !elemsAway s1 w els && (performAll (atomicElem o w (decide (32 ≤ o.C)) amo) true { s := s1 } els).fail.isNone
          && (performAll (atomicElem o w true cas) true { s := s1 } els).fail.isNone) = true) :=
  ⟨by decide +kernel, by decide +kernel, by decide +kernel, headReady _ _ _ (by decide +kernel), headReady _ _ _ (by decide +kernel), by decide +kernel⟩

theorem witness_VectorAtomicsAndWaits_packets :
    Starts (ordered indexed []) ∧ (∀ i ∈ [(.vamo ⟨1, 1, 9, 10, 0, .reg 2 0⟩ : Instr), .vcas ⟨1, 1, 9, 10, 0, .reg 2 0⟩], WaitsAllWays i indexed) :=
  ⟨starts _ (by decide +kernel), fun i _ => waitsAllWays i _⟩

theorem witness_VectorAtomicsAndWaits_empty :
    (let s := machine { indexed with vl := 0 } []
       let o : Ops := ⟨3, 1, 0, 2, 0, .reg 2 0⟩
       s.cpu.vl = 0 ∧ HeadReady (.vamo o) [o.T] s.cpu ∧ HeadReady (.vcas o) [o.T] s.cpu ∧ HeadReady (.vwait o) [o.T] s.cpu) :=
  ⟨by decide +kernel, headReady _ _ _ (by decide +kernel), headReady _ _ _ (by decide +kernel), headReady _ _ _ (by decide +kernel)⟩

theorem witness_VectorAtomicsAndWaits_vwait :
    (let s := machine indexed (cells [(0x10000, 0x100000001), (0x10008, 0x100000000)])
       let o := fun (c : BitVec 6) => (⟨3, 1, c, 2, 0, .reg 2 0⟩ : Ops)
       let ea := vEa (o 0) s .indexed
       let w := s.who .vector
       let act := activeMem s.cpu (o 0) false
       HeadReady (.vwait (o 0)) [2] s.cpu ∧ HeadReady (.vwait (o 13)) [2] s.cpu ∧ HeadReady (.vwait (o 8)) [2] s.cpu ∧ s.cpu.vl ≠ 0 ∧ s.cpu.vl ≤ 65536
        ∧ (∀ c ∈ [(0 : BitVec 6), 8, 13], (o c).T < 8 ∧ (o c).C % 8 ≤ 5) ∧ (∀ k ∈ act, (ea k).toNat % 4 = 0)
        ∧ translated (vTranslate w .read 4 .indexed ea s act) (fun els s1 => gives (readWatched w s1 els) (fun xs _ =>
            let sat := fun (c : BitVec 6) (y : Nat × Nat) => condInt ((o c).C % 8) (intOf 2 y.2) (intOf 2 (elemOf s.cpu 2 3 y.1))
            xs.any (sat 0) && xs.all (sat 13) && !xs.all (sat 8) && decide (xs.length = 4)
              && decide (xs.map (·.2) = [1, 1, 0, 1]))) = true) :=
  ⟨headReady _ _ _ (by decide +kernel), headReady _ _ _ (by decide +kernel), headReady _ _ _ (by decide +kernel), by decide +kernel⟩

theorem witness_VectorAtomicsAndWaits_ccwait :
    (let s := machine { user with cc := [(1, { count := 5, ue := true }), (2, { count := 6 })] } []
       let o := fun (a : BitVec 6) => (⟨3, a, 0, 15, 0, .imm 5⟩ : Ops)
       (s.cpu.readCC (o 1).A).count ≤ (s.srcB (o 1).b).toNat ∧ (s.srcB (o 2).b).toNat < (s.cpu.readCC (o 2).A).count) :=
  by decide +kernel

theorem witness_VectorAtomicsAndWaits :
    [(0x10000 : Word), 0x10008, 0x10010].all waitWord = true ∧ (0x10004 : Word).toNat % 8 ≠ 0 ∧ barrierOf 1 = true ∧ barrierOf 2 = true :=
  by decide +kernel

def tileB (i : Instr) (tile typed : Option Nat) (t : Strand) : Bool :=
  (badVreg t i).isNone && !t.td && tile.all (fun n => t.held.getLsbD n) && typed.all (fun ty => decide (t.ttype = ty ∧ ty ≠ 15 ∧ t.tn ≤ tileColumns ty))
    && (poisonedSource t i).isNone

theorem tileReady (i : Instr) (tile typed : Option Nat) (t : Strand) (h : tileB i tile typed t = true) : TileReady i tile typed t := by
  simp only [tileB, Bool.and_eq_true, Bool.not_eq_true', Option.isNone_iff_eq_none, Option.all_eq_true, decide_eq_true_eq] at h
  obtain ⟨⟨⟨⟨h1, h2⟩, h3⟩, h4⟩, h5⟩ := h
  exact ⟨h1, h2, h3, h4, h5⟩

/-- A strand with a shape of one row, one column and one step. -/
def tiled : Strand := { user with ttype := 10, tm := 1, tn := 1, tk := 1, v := elems 1 [0x3F800000] }

theorem allSome {α : Type} (l : List (Option α)) (h : l.all (·.isSome) = true) : l = (l.filterMap id).map some := by
  induction l with
  | nil => rfl
  | cons x rest ih =>
    cases x with
    | none => simp at h
    | some y =>
      simp only [List.all_cons, Option.isSome_some, Bool.true_and] at h
      show some y :: rest = some y :: (rest.filterMap id).map some
      rw [← ih h]

theorem witness_MatrixCompletes :
    (let s := machine tiled []
     let o : Ops := ⟨1, 1, 1, 10, 0, .reg 2 0⟩
     let ab := tmacLines o s
     TileReady (.tshape o) none none tiled ∧ TileReady (.tzero o) (some o.D) none tiled ∧ TileReady (.tmac o) (some (o.D % 4)) (some o.T) tiled
      ∧ tiled.trow < tiled.tk ∧ ab.1.outside 0 0 = false ∧ ab.2.outside 0 0 = false
      ∧ ab.1.misalignedAt ab.1.size 0 0 = none ∧ ab.2.misalignedAt ab.2.size 0 0 = none
      ∧ tilePoisoned tiled (o.D % 4) 1 (accBytes o.T) = none ∧ (∃ s2, Accumulates o ab.1 ab.2 1 0 s s2)
      ∧ TileReady (.tldacc o) (some o.D) (some o.T) tiled ∧ tiled.trow < tiled.tm
      ∧ (tileLines o s (accBytes o.T)).outside 0 0 = false ∧ (tileLines o s (accBytes o.T)).misalignedAt 4 0 0 = none ∧ (∃ s2, RowsLoad o (tileLines o s (accBytes o.T)) 1 0 s s2)
      ∧ TileReady (.tstacc ⟨1, 1, 9, 10, 0, .reg 2 0⟩) (some 1) (some 10) tiled
      ∧ (let o : Ops := ⟨1, 1, 9, 10, 0, .reg 2 0⟩
         (tileLines o s (storedSize o)).outside 0 0 = false ∧ (tileLines o s (storedSize o)).misalignedAt (min (storedSize o) 8) 0 0 = none
          ∧ ∃ s2, RowsStore o (tileLines o s (storedSize o)) 1 0 s s2))
    ∧ ({ tiled with trow := 1 }.tk ≤ { tiled with trow := 1 }.trow ∧ { tiled with trow := 1 }.tm ≤ { tiled with trow := 1 }.trow)
    ∧ (let o : Ops := ⟨3, 1, 0, 10, 0, .imm 0⟩
       let s := machine tiled []
       o.T ≤ 12 ∧ typeWidth o.T ≤ tiled.ew ∧ tiled.ttype ≠ 15 ∧ tiled.tn ≤ tileColumns tiled.ttype ∧ tiled.vl ≤ 65536
        ∧ TileReady (.trd o) (some o.A) none tiled ∧ tilePairs true tiled.ttype o.T = true ∧ linePoison tiled o o.A 0 = none
        ∧ (∀ k, Active s o false k → (match lineCell o tiled.ttype 0 k with
            | some c => trdValue tiled.ttype o.T s.srcRm (accGet tiled o.A tiled.ttype c.1 c.2)
            | none => { val := 0 } : Elem).abn = none)
        ∧ TileReady (.twr o) (some o.D) none tiled ∧ tilePairs false tiled.ttype o.T = true ∧ 8 ≤ tiled.ttype ∧ tiled.ttype ≤ 12)
    ∧ ([1, 2] : List Nat).length ≤ 64 ∧ (List.replicate (tileColumns 12) 0).length ≤ tileColumns 12 ∧ (8 : Nat) ≤ 12 := by
  refine ⟨⟨tileReady _ _ _ _ (by decide +kernel), tileReady _ _ _ _ (by decide +kernel), tileReady _ _ _ _ (by decide +kernel), by decide +kernel, by decide +kernel,
    by decide +kernel, by decide +kernel, by decide +kernel, by decide +kernel, ?_, tileReady _ _ _ _ (by decide +kernel), by decide +kernel, by decide +kernel,
    by decide +kernel, ?_, tileReady _ _ _ _ (by decide +kernel), by decide +kernel, by decide +kernel, ?_⟩, by decide +kernel,
    ⟨by decide +kernel, by decide +kernel, by decide +kernel, by decide +kernel, by decide +kernel, tileReady _ _ _ _ (by decide +kernel), by decide +kernel,
      by decide +kernel, allActive _ _ _ _ (by decide +kernel), tileReady _ _ _ _ (by decide +kernel), by decide +kernel⟩, by decide +kernel⟩
  · obtain ⟨got, s1, h, p⟩ := (gives_iff (pipeRead (machine tiled []) (hintWords (Ops.hint ⟨1, 1, 1, 10, 0, .reg 2 0⟩))
      (tmacLines ⟨1, 1, 1, 10, 0, .reg 2 0⟩ (machine tiled [])).1.size
      ((tmacLines ⟨1, 1, 1, 10, 0, .reg 2 0⟩ (machine tiled [])).1.step 0 ++ (tmacLines ⟨1, 1, 1, 10, 0, .reg 2 0⟩ (machine tiled [])).2.step 0))
      (fun got s1 => (tmacAbn s1.cpu 1 10 ((got.map (fun g => leNat g.bytes)).take 1) ((got.map (fun g => leNat g.bytes)).drop 1)).isNone)).1 (by decide +kernel)
    exact ⟨_, .step 0 0 _ s1 _ got h (Option.isNone_iff_eq_none.1 p) (.done _ _)⟩
  · obtain ⟨got, s1, h, -⟩ := (gives_iff (pipeRead (machine tiled []) (hintWords (Ops.hint ⟨1, 1, 1, 10, 0, .reg 2 0⟩))
      (tileLines ⟨1, 1, 1, 10, 0, .reg 2 0⟩ (machine tiled []) (accBytes 10)).size
      ((tileLines ⟨1, 1, 1, 10, 0, .reg 2 0⟩ (machine tiled []) (accBytes 10)).step 0)) (fun _ _ => true)).1 (by decide +kernel)
    exact ⟨_, .row 0 0 _ s1 _ got h (.done _ _)⟩
  · let o : Ops := ⟨1, 1, 9, 10, 0, .reg 2 0⟩
    let x := tileLines o (machine tiled []) (storedSize o)
    let w := storeWho o (machine tiled [])
    obtain ⟨ps, s1, h, p⟩ := (gives_iff (placesAll w .write x.size (machine tiled []) (x.step 0))
      (fun ps s1 =>
        let l := (List.range x.lines).map (fun c => storedAcc o.T o.C s1.srcRm (accGet s1.cpu o.D o.T 0 c))
        !ps.any (wordPending s1 true) && (rowPoisoned s1.cpu o.D 0 (x.lines * accBytes o.T)).isNone
          && (l.all (·.isSome) && answers (storeCells w s1 ((x.step 0).zip (ps.zip ((l.filterMap id).map (fun v => leBytes x.size v.1)))))))).1
      (by decide +kernel)
    simp only [Bool.and_eq_true, answers_iff, Bool.not_eq_true', Option.isNone_iff_eq_none] at p
    obtain ⟨⟨pa, pb⟩, p1, ⟨⟩, s2, p2⟩ := p
    exact ⟨_, .row 0 0 _ s1 s2 _ ps _ h pa pb (allSome _ p1) p2 (.done _ _)⟩

theorem witness_VerdictsAndTopK :
    (let s := machine { user with vl := 1, g := [(1, 0x10000), (2, 0x10000), (3, 256)] } (cells [(0x10040, 0x40)])
     let o : Ops := ⟨3, 1, 1, 10, 0, .reg 2 0x201⟩
     TileReady (.vdotv o) none none s.cpu ∧ 32 ≤ s.cpu.ew ∧ s.cpu.vl ≠ 0
      ∧ ∃ s0 s1 x, cellCheck o s = .ok () s0 ∧ readMem s0 (s0.who .matrix) (s0.srcG o.B) (64 * vdotvChunks o) 0 .read = .ok x s1 ∧ x.inv = false
        ∧ ∃ s2, RowsJudged o { bytes := x.bytes.map (·.toNat), bq := (List.range 1).map (fun j => chunkMax (((x.bytes.map (·.toNat)).drop (64 * j)).take 64)) }
          (s1.srcG o.C) (s1.srcG o.A).toNat (s1.srcG (o.B + 1)).toInt [0] (headTau s1) 0 s1 s2)
    ∧ headTau (machine user []) = 0xFF800000
    ∧ headTau (machine { user with queue := [{ entryOf user (.vdotv ⟨3, 1, 1, 10, 0, .reg 2 0x201⟩) 0 with tau := some 5 }] } []) = 5
    ∧ (let s := machine user []
       let o : Ops := ⟨0, 1, 0, 10, 0, .imm 1024⟩
       TileReady (.topkinit o) none none s.cpu ∧ (s.srcB o.b).toNat = 1024
        ∧ gives (topkPlace s (s.srcG o.A) .write) (fun p s1 => topkFits p 1024 && (writePlace s1 (s1.who .vector) .engine p
            (leBytes 4 1024 ++ leBytes 4 0 ++ leBytes 8 0xFF800000 ++ leBytes 4 1 ++ leBytes 44 0) false).2 == .ok) = true)
    ∧ (let s := machine { user with v := elems 3 [0x40000000, 0x7FC00000, 0xFFA00001, 0x3F800000] ++ elems 2 [1, 2, 3, 4] }
          (cells [(0x10000, 2), (0x10008, 0xFF800000), (0x10010, 1)])
       let o : Ops := ⟨3, 1, 0, 10, 0, .reg 2 0⟩
       let acts := activeMem s.cpu o o.mn
       let score := fun i => s.cpu.readV o.D i % 2 ^ 32
       let cands := (acts.filter (fun i => !isAbn (score i))).map (fun i => (score i, s.cpu.readV o.B i % 2 ^ 32))
       TileReady (.topki o) none none s.cpu ∧ 32 ≤ s.cpu.ew ∧ s.cpu.vl ≠ 0 ∧ (∀ i ∈ acts, isAbn (score i) = true → score i = 0xFFA00001) ∧ o.nb = false
        ∧ gives (topkPlace s (s.srcG o.A) .atomic) (fun p s1 => match topkAct s1 (s1.who .vector) p cands acts.length with
            | some (_, st) => st == .ok
            | none => false) = true
        ∧ TileReady (.topkr ⟨3, 1, 4, 10, 0, .imm 0⟩) none none s.cpu ∧ s.cpu.vl ≤ 65536
        ∧ gives (topkPlace s (s.srcG o.A) .read) (fun p s1 => match topkRead s1 (s1.who .vector) p with
            | .ok k _ => k.k == 2
            | _ => false) = true)
    ∧ (let s := machine user []
       let o : Ops := ⟨3, 1, 0, 10, 0, .reg 2 0x1F⟩
       TileReady (.topki o) none none s.cpu ∧ o.nb = true ∧ ccFull s o.ccNo = false ∧ answers (topkPlace s (s.srcG o.A) .atomic) = true)
    ∧ (let s := machine { user with vl := 0 } []
       s.cpu.vl = 0 ∧ TileReady (.vdotv ⟨3, 1, 1, 10, 0, .reg 2 1⟩) none none s.cpu ∧ TileReady (.topki ⟨3, 1, 1, 10, 0, .reg 2 0⟩) none none s.cpu
        ∧ TileReady (.topkr ⟨3, 1, 4, 10, 0, .imm 0⟩) none none s.cpu) := by
  refine ⟨⟨tileReady _ _ _ _ (by decide +kernel), by decide +kernel, by decide +kernel, ?_⟩, by decide +kernel, by decide +kernel,
    ⟨tileReady _ _ _ _ (by decide +kernel), by decide +kernel⟩,
    ⟨tileReady _ _ _ _ (by decide +kernel), by decide +kernel, by decide +kernel, by decide +kernel, by decide +kernel, by decide +kernel,
      tileReady _ _ _ _ (by decide +kernel), by decide +kernel⟩,
    ⟨tileReady _ _ _ _ (by decide +kernel), by decide +kernel⟩,
    ⟨by decide +kernel, tileReady _ _ _ _ (by decide +kernel), tileReady _ _ _ _ (by decide +kernel), tileReady _ _ _ _ (by decide +kernel)⟩⟩
  let s := machine { user with vl := 1, g := [(1, 0x10000), (2, 0x10000), (3, 256)] } (cells [(0x10040, 0x40)])
  let o : Ops := ⟨3, 1, 1, 10, 0, .reg 2 0x201⟩
  let base := fun (s1 : State) => ((s1.srcG o.A).toNat : Int) + (0 : Nat) * (s1.srcG (o.B + 1)).toInt
  obtain ⟨⟨⟩, s0, h0, p0⟩ := (gives_iff (cellCheck o s) (fun _ s0 => gives (readMem s0 (s0.who .matrix) (s0.srcG o.B) 64 0 .read) (fun x s1 =>
    !x.inv && x.bytes == List.replicate 64 0 && decide (0 ≤ base s1) && decide (base s1 < 2 ^ 64) && decide (headTau s1 = 0xFF800000)
      && (match wmCheck s1 .matrix (BitVec.ofInt 64 (base s1)) with
          | .pass s2 => gives (readMem s2 (s2.who .matrix) (BitVec.ofInt 64 (base s1)) 4 0 .read) (fun d s3 => d.bytes == [0, 0, 0, 0] && !d.inv
              && gives (readMem s3 (s3.who .matrix) (s1.srcG o.C) 8 0 .read) (fun y s4 => decide (leNat y.bytes = 0)
                && gives (readMem s4 (s4.who .matrix) (BitVec.ofInt 64 (base s1) + BitVec.ofNat 64 64 + BitVec.ofNat 64 0) 64 0 .read) (fun z _ =>
                  !z.inv && z.bytes == 0x40 :: List.replicate 63 0)))
          | _ => false)))).1 (by decide +kernel)
  obtain ⟨x, s1, h1, p1⟩ := (gives_iff _ _).1 p0
  simp only [Bool.and_eq_true, Bool.not_eq_true', decide_eq_true_eq, beq_iff_eq] at p1
  obtain ⟨⟨⟨⟨⟨pi, px⟩, pa⟩, pb⟩, pt⟩, p2⟩ := p1
  split at p2
  case h_2 => cases p2
  case h_1 s2 hw =>
  obtain ⟨d, s3, h3, p3⟩ := (gives_iff _ _).1 p2
  simp only [Bool.and_eq_true, Bool.not_eq_true', beq_iff_eq] at p3
  obtain ⟨⟨pd, pv⟩, p4⟩ := p3
  obtain ⟨y, s4, h4, p5⟩ := (gives_iff _ _).1 p4
  simp only [Bool.and_eq_true, decide_eq_true_eq] at p5
  obtain ⟨py, p6⟩ := p5
  obtain ⟨z, s5, h5, p7⟩ := (gives_iff _ _).1 p6
  simp only [Bool.and_eq_true, Bool.not_eq_true', beq_iff_eq] at p7
  refine ⟨s0, s1, x, h0, h1, pi, _, .row 0 [] _ 0 0 _ _ _ s1 _ _ pa pb (.judged s2 s3 _ d [0] _ _ _ _ hw h3 pv (by rw [pd]; decide) (by decide)
    (.chunk 0 0 [] 0 _ true false 0 _ _ 0 0 _ _ s3 s4 s5 _ z (fun _ => ⟨y, h4, ?_⟩) (fun h => absurd ⟨rfl, by decide⟩ h) (fun _ => ?_) ?_ h5 p7.1 ?_ (.finish _ _ _ _ _ _ _))) (.done _ _)⟩
  · rw [py, pt]; decide +kernel
  · rw [px]; unfold Verdict; decide +kernel
  · rw [px]; decide +kernel
  · rw [p7.2]; decide +kernel

/-! Streams, tables, engines, transfers. -/

/-- Two sorted lists of two keys each, 1 2 and 2 3, under one descriptor; and the same strand with room for one key only. -/
def sorted (t : Strand) : State :=
  machine t (cells [(0x10000, 0x10100), (0x10008, 2), (0x10010, 0x10200), (0x10018, 2), (0x10100, 0x200000001), (0x10200, 0x300000002)])

/-- One step of a pass from the descriptor's bytes. -/
def passEnds (s1 : State) (o : Ops) (merge : Bool) (bytes : List Byte) (p0 : Stream → Pass) (f : PassEnd → Bool) : Bool :=
  match streamOf (byteSize o.T) bytes with
  | none => false
  | some d =>
    match streamLoop o merge d s1.cpu.vl ((p0 d).apos + (p0 d).bpos + 64) 65 s1 (p0 d) with
    | (s2, p, e) => f e && answers (writeMem s2 (s2.who .vector) .engine 0x10000
        (streamBytes { d with apos := p.apos, bpos := p.bpos, state := d.state ||| (if e = .exhausted then 1 else 0),
                              emitted := d.emitted + (p.n - s1.cpu.vstart) }) false)

def streamPass (s : State) (o : Ops) (merge : Bool) (f : PassEnd → Bool) : Bool :=
  let w := s.who .vector
  (headPass s).isNone && answers (placesOf s w 0x10000 64 .write) && gives (readMem s w 0x10000 64 0 .read) (fun x s1 =>
    passEnds s1 o merge x.bytes (fun d => { n := s1.cpu.vstart, apos := d.apos, bpos := d.bpos }) f)

/-- The keys 1 to 33 in one list, named twice by a descriptor: the first step of an intersection gives 32 of them. -/
def longList : State :=
  machine { user with vl := 64 } (cells ([(0x10000, 0x10100), (0x10008, 33), (0x10010, 0x10100), (0x10018, 33)]
    ++ (List.range 17).map (fun i => (0x10100 + 8 * i, 2 * i + 1 + (2 * i + 2) * 2 ^ 32))))

/-- The first descriptor's pass, one key of each list behind it. -/
def midPass : EnginePass :=
  { desc := streamBytes { abase := 0x10100, alen := 2, apos := 0, bbase := 0x10200, blen := 2, bpos := 0, emitted := 0, state := 0 }, apos := 1, bpos := 1, n := 0,
    keys := [none, none, none, none] }

/-- A strand at the head of whose queue an operation stands between two steps. -/
def between (i : Instr) (t : Strand) (x : EnginePass) : Strand := { t with queue := [{ entryOf t i 0 with pass := some x }] }

/-- A table of some slots, `drain` of them drained; slot 61 is empty, and every other one has the key 0. -/
def table (slots drain : Nat) (t : Strand) : State :=
  machine t (cells ([(0x10000, slots + slots * 2 ^ 32), (0x10010, drain), (0x10018, 2 + 2 ^ 32)] ++ [(0x10040 + 16 * 61, 2 ^ 64 - 1)]))
def hashed (t : Strand) : State := table 64 61 t

theorem witness_StreamsAndTablesComplete_streams :
    (let o : Ops := ⟨3, 1, 0, 2, 0, .imm 0⟩
     HeadReady (.sinter o) [o.T] user ∧ HeadReady (.smerge o) [o.T] user ∧ (0x10000 : Word).toNat % 64 = 0 ∧ user.vl ≠ 0
      ∧ streamPass (sorted user) o false (fun e => e == .exhausted) = true ∧ streamPass (sorted user) o true (fun e => e == .exhausted) = true
      ∧ streamPass (sorted { user with vl := 1 }) o false (fun e => e == .full) = true ∧ streamPass (sorted { user with vl := 1 }) o true (fun e => e == .full) = true
      ∧ streamPass longList o false (fun e => e == .more) = true
      ∧ (let s := sorted (between (.sinter o) user midPass)
         headPass s = some midPass ∧ passEnds s o false midPass.desc (fun _ => passOf midPass) (fun e => e == .exhausted) = true))
    ∧ (∀ i ∈ [(.sinter ⟨3, 1, 0, 2, 0, .imm 0⟩ : Instr), .smerge ⟨3, 1, 0, 2, 0, .imm 0⟩, .hacc ⟨3, 1, 0, 2, 0, .reg 2 0⟩, .hdrain ⟨3, 1, 4, 2, 0, .imm 0⟩],
        HeadReady i [2] { user with vl := 0 }) := by
  refine ⟨⟨headReady _ _ _ (by decide +kernel), headReady _ _ _ (by decide +kernel), by decide +kernel⟩, ?_⟩
  intro i hi
  exact headReady _ _ _ (List.all_eq_true.1 (by decide +kernel :
    [(.sinter ⟨3, 1, 0, 2, 0, .imm 0⟩ : Instr), .smerge ⟨3, 1, 0, 2, 0, .imm 0⟩, .hacc ⟨3, 1, 0, 2, 0, .reg 2 0⟩, .hdrain ⟨3, 1, 4, 2, 0, .imm 0⟩].all
      (fun i => headB i [2] { user with vl := 0 }) = true) i hi)

/-- A table of 128 slots takes two steps. -/
theorem witness_StreamsAndTablesComplete_hinit :
    hashSlotsOk 128 = true ∧ hashSlotsOk (2 ^ 24) = true ∧ hashSlotsOk 63 = false ∧ Ops.nb ⟨0, 1, 0, 2, 0, .imm 64⟩ = false
    ∧ (let s := machine user []
       let w := s.who .vector
       Ops.nb ⟨0, 1, 0, 2, 0, .reg 2 0x1F⟩ = true ∧ ccFull s (Ops.ccNo ⟨0, 1, 0, 2, 0, .reg 2 0x1F⟩) = false
        ∧ gives (rangeOf s w 0x10000 64 .write) (fun hp s1 => gives (rangeOf s1 w 0x10040 2048 .write) (fun sp s2 => (headPass s2).isNone &&
            (match writePlaces w .engine false s2 hp (hinitHeader 128 128 2) with
            | (s3, st) => st == .ok && (writePlaces w .engine false s3 (slicePlaces sp 0 1024) ((List.replicate 64 emptySlot).flatten)).2 == .ok))) = true)
    ∧ (let s := machine (between (.hinit ⟨0, 1, 0, 2, 0, .imm 128⟩) user { n := 64 }) []
       gives (rangeOf s (s.who .vector) 0x10000 64 .write) (fun _ s1 => gives (rangeOf s1 (s.who .vector) 0x10040 2048 .write) (fun _ s2 =>
         (headPass s2).any (fun y => y.n = 64))) = true) := by decide +kernel

theorem witness_StreamsAndTablesComplete_hacc :
    (let t : Strand := { user with vl := 1, v := elems 3 [0] ++ elems 2 [9] }
     let s := hashed t
     let o : Ops := ⟨3, 1, 0, 2, 0, .reg 2 0⟩
     HeadReady (.hacc o) [o.T] t ∧ t.vl ≠ 0 ∧ (activeMem t o false).filter (fun k => t.readV o.D k != 2 ^ 64 - 1) = [0]
      ∧ ∃ x h s1 s2, TableRead o s x h s1 ∧ KeysPlaced o 0x10000 h t [0] s1 s2)
    ∧ (let t : Strand := { user with vl := 65, m := [(131072 + 64, true)] }
       let o : Ops := ⟨3, 1, 0, 2, 2, .reg 2 0⟩
       let keys := (activeMem t o false).filter (fun k => t.readV o.D k != 2 ^ 64 - 1)
       keys.takeWhile (fun k => decide (k < t.vstart + 64)) = [] ∧ keys.dropWhile (fun k => decide (k < t.vstart + 64)) = [64]) := by
  refine ⟨⟨headReady _ _ _ (by decide +kernel), by decide +kernel, by decide +kernel, ?_⟩, by decide +kernel⟩
  let t : Strand := { user with vl := 1, v := elems 3 [0] ++ elems 2 [9] }
  let o : Ops := ⟨3, 1, 0, 2, 0, .reg 2 0⟩
  obtain ⟨x, s1, h1, p1⟩ := (gives_iff (readMem (hashed t) ((hashed t).who .vector) ((hashed t).srcG o.A) 64 0 .read) (fun x s1 =>
    match hashHeader x.bytes with
    | none => false
    | some h => decide (h.vtype = o.T) && gives (placeKey o 0x10000 h (t.readV o.D 0) (elemOf t o.T o.B 0) h.limit 0 s1) (fun b _ => b))).1 (by decide +kernel)
  cases hh : hashHeader x.bytes with
  | none => simp [hh] at p1
  | some h =>
    simp only [hh, Bool.and_eq_true, decide_eq_true_eq] at p1
    obtain ⟨b, s2, h2, hb⟩ := (gives_iff _ _).1 p1.2
    subst hb
    exact ⟨x.bytes, h, s1, s2, ⟨.inl ⟨rfl, x, h1, rfl⟩, hh, p1.1⟩, .key 0 [] s1 s2 s2 (by decide +kernel) h2 (.done _)⟩

theorem witness_StreamsAndTablesComplete_hdrain :
    (let f := fun (s : State) (want : PassEnd) =>
       let o : Ops := ⟨3, 1, 4, 2, 0, .imm 0⟩
       gives (readMem s (s.who .vector) 0x10000 64 0 .read) (fun x s1 =>
         match hashHeader x.bytes with
         | none => false
         | some h =>
           match drainLoop o 0x10000 h.slots s1.cpu.vl 64 s1 h.drain s1.cpu.vstart [] with
           | (s2, e, _, _, why) => why == want && h.vtype == 2 && answers (writeMem s2 (s2.who .vector) .engine 0x10010 (leBytes 8 e) false))
     HeadReady (.hdrain ⟨3, 1, 4, 2, 0, .imm 0⟩) [2] user ∧ f (hashed user) .exhausted = true ∧ f (hashed { user with vl := 1 }) .full = true
      ∧ f (table 128 0 { user with vl := 128 }) .more = true) :=
  ⟨headReady _ _ _ (by decide +kernel), by decide +kernel⟩

/-- A circular buffer of two slots of 8 bytes, with free and filled slots as said. -/
def circled (free filled : Nat) : State :=
  machine { user with g := [(1, 0x10000), (2, 1), (4, 0x10000), (5, 0x10800)] }
    (cells [(0x10000, 0x11000), (0x10008, 8 + 2 * 2 ^ 32), (0x10010, free), (0x10018, filled)])

/-- One named buffer: pages 1 and 2 of the address space. -/
def named : State :=
  { machine user (cells (tables ++ [(0x15010, 0x2001D), (0x16000, 0x10000), (0x16008, 0x20000), (0x16010, 1 + 2 ^ 32)])) with
      vis := [(0, { nodemap := 0x12000, nodecnt := 1, parkbase := 2, nbtab := 0x16000 })], chans := [(0, { roots := [(0, 0x14000)] })] }

theorem witness_EnginesComplete :
    (2 ^ 24 < ((machine { user with g := [(2, 0x1000001)] } []).srcB (.reg 2 0)).toNat ∧ ((machine user []).srcB (.imm 0)).toNat = 0)
    ∧ (let s := machine { user with g := [(1, 0x10000), (2, 257), (4, 0x10400)] } []
       let w := s.who .vector
       Ops.nb ⟨4, 1, 0, 15, 0, .reg 2 0⟩ = false ∧ Ops.nb ⟨4, 1, 0, 15, 0, .reg 2 0x1F⟩ = true ∧ ccFull s (Ops.ccNo ⟨4, 1, 0, 15, 0, .reg 2 0x1F⟩) = false
        ∧ gives (rangeOf s w 0x10000 257 .read) (fun src s1 => gives (rangeOf s1 w 0x10400 257 .write) (fun dst s2 =>
            decide (s2.cpu.vstart = 0) && answers (copyStep s2 w (slicePlaces src 0 256) (slicePlaces dst 0 256) 0x10000 0x10400)
              && answers (copyStep s2 w (slicePlaces src 256 1) (slicePlaces dst 256 1) 0x10100 0x10500))) = true)
    ∧ (let s := circled 1 0
       let w := s.who .vector
       headClaim s = none ∧ gives (readCb s w 0x10000) (fun x s1 => gives (cbTranslate s1 w 0x10800 0x10000 x.2) (fun _ s2 =>
        (headClaim s2).isNone && gives (claimCb s2 w 0x10000) (fun y s3 =>
          match y with
          | (q, _, some k) => (headPass s2).isNone && (headPass s3).isNone && gives (cbMove s3 w 0x10800 k.buf k.slot 0) (fun _ s4 => (fillCb s4 w q k.num).2 == .ok)
          | _ => false))) = true)
    ∧ (let s := circled 0 1
       let w := s.who .vector
       gives (readCb s w 0x10000) (fun x s1 => gives (cbTranslate s1 w 0x10800 0x10000 x.2) (fun _ s2 => gives (claimCb s2 w 0x10000) (fun y _ => y.2.2.isNone)) &&
        decide (0 < x.2.filled) && (putCb s1 w x.1 { x.2 with filled := x.2.filled - 1, read := (x.2.read + 1) % x.2.count }).2 == .ok
        && decide (x.2.free + 2 ≤ x.2.count) && (putCb s1 w x.1 { x.2 with free := x.2.free + 2 }).2 == .ok) = true)
    ∧ (gives (readCb (circled 1 0) ((circled 1 0).who .vector) 0x10000) (fun x _ => decide (x.2.filled = 0) && decide (x.2.count < x.2.free + 2)) = true)
    ∧ (let s := named
       let e : NamedBuf := { index := 0, pub := 0x10000, alias_ := 0x20000, pages := 1 }
       nbFind s 0 0 (fun b => decide (b.pub ≤ 0x1FFFF) && decide (0x1FFFF < b.pub + 65536 * b.pages)) = some e ∧ nbFind s 0 0 (fun b => b.pub == 0x10000) = some e
        ∧ answers (publishPages s 0 0 e) = true ∧ answers (publishNow s 0 0 e (earlierWrites s s.cpu s.next)) = true
        ∧ (let p : Piece := { id := 1, op := 1, tid := 1, cc := none, place := { kind := .pg, ha := 0x20000, va := 0x20000 }, what := .write [0] false, vi := 0,
                              level := .u, srcPkg := 0, srcDie := 0, srcCore := 0, srcSlot := 0 }
           (match publishNow { s with pieces := [p] } 0 0 e (earlierWrites { s with pieces := [p] } s.cpu s.next) with
            | .wait _ => true
            | _ => false) = true))
    ∧ (0x15008 % 8 = 0 ∧ (0x15008 : Nat) + 8 ≤ 0x15010) := by decide +kernel

/-- A registration of page 1, and the page tables that map it. -/
def opened (t : Strand) (m : List (Nat × Nat)) : State :=
  { mapped t (cells (tables ++ m)) with dies := [(0, { regs := [(0, { vi := 0, base := 0x10000, bytes := 0x10000, revoking := false })] })] }

/-- A transfer of 16 bytes from 0x10000 to 0x10100, its counter at 0x10200. -/
def sender : Strand := { user with g := [(1, 0x10000), (2, 16), (4, 0x10100), (5, 0x10200)] }

/-- The entry of a window, and a WREVOKE of it at the head of the queue. -/
def windowed (flags : Nat) (begun : Bool) : State :=
  let e := entryOf user (.wrevoke ⟨0, 0, 0, 15, 0, .imm 0⟩) 0
  { machine { user with queue := [{ e with begun := begun, op := 9 }] } (cells [(0x13000, 0x10000), (0x13008, 0x10000), (0x13010, flags)]) with
      vis := [(0, { wintab := 0x13000 })] }

theorem lookup_map (l : List Nat) (r : Registration) (n : Nat) (h : n ∈ l) : ((l.map (fun k => (k, r))).lookup n).isSome = true := by
  induction l with
  | nil => simp at h
  | cons x rest ih =>
    by_cases hx : n = x
    · subst hx; simp
    · have : (n == x) = false := by simpa using hx
      simp only [List.map_cons, List.lookup, this]
      exact ih (by simpa [hx] using h)

theorem witness_FabricComplete_transfers :
    (let s := opened sender []
     let w := s.who .vector
     let o : Ops := ⟨4, 1, 5, 15, 0, .reg 2 0⟩
     let flag : Ops := ⟨4, 1, 5, 15, 0, .reg 2 0x2000⟩
     let nb : Ops := ⟨4, 1, 5, 15, 0, .reg 2 0x1F⟩
     Starts s ∧ o.nb = false ∧ o.orderedFlag = false ∧ flag.nb = false ∧ flag.orderedFlag = true ∧ nb.nb = true ∧ ccFull s nb.ccNo = false
      ∧ bulkOf o s = { dst := 0x10100, src := 0x10000, n := 16, counter := some 0x10200 } ∧ oneDie s s.cpu 0x10100 16 (some 0x10200) = true
      ∧ (0x10200 : Word).toNat % 8 = 0 ∧ onOwnDie s 0x10100 16 = true ∧ onOwnDie s 0x10200 8 = true
      ∧ gives (rangeOf s w 0x10000 16 .read) (fun src s1 => gives (rangeOf s1 w 0x10100 16 .write) (fun _ s2 =>
          gives (counterPlace s2 w (some 0x10200)) (fun _ s3 => answers (readPlaces (s3.who .vector) 0 0x10000 s3 src)))) = true
      ∧ oneDie s s.cpu 0x10100 (2 ^ 24) none = true ∧ oneDie s s.cpu 0x10100 256 none = true)
    ∧ (∀ i ∈ [(.rsend ⟨4, 1, 5, 15, 0, .reg 2 0⟩ : Instr), .rfetch ⟨4, 1, 5, 15, 0, .reg 2 0⟩], WaitsAllWays i sender) :=
  ⟨⟨starts _ (by decide +kernel), by decide +kernel⟩, fun i _ => waitsAllWays i _⟩

/-- One expert with one replica, a circular buffer that has a free slot, or none. -/
def experts (free : Nat) : State :=
  opened { user with g := [(1, 0x10800), (2, 0), (4, 0x10400)] }
    [(0x10400, 0x10500), (0x10500, 0x10600), (0x10508, 8 + 2 * 2 ^ 32), (0x10510, free)]

/-- An XSEND at the head that holds slot 0 of its replica, sent as operation 9. -/
def claimed : State :=
  experts 0 |>.onCpu (fun t => { t with queue := [{ entryOf t (.xsend ⟨5, 1, 4, 15, 0, .reg 2 0⟩) 0 with op := 9, claim := some (0x10500, 0, 0) }] })

theorem witness_FabricComplete_dispatch :
    (let s := experts 1
     let w := s.who .vector
     Ops.nb ⟨5, 1, 4, 15, 0, .reg 2 0⟩ = false ∧ Ops.nb ⟨5, 1, 4, 15, 0, .reg 2 0x1F⟩ = true ∧ ccFull s (Ops.ccNo ⟨5, 1, 4, 15, 0, .reg 2 0x1F⟩) = false
      ∧ xsendResting s = false
      ∧ gives (expertReplicas s w 0x10400 0) (fun l s1 => answers (xsendReady w 0x10800 s1 l) && s1.cpu.queue.isEmpty && (headClaim s1).isNone
        && gives (claimReplica w 0x10800 s1 (rankReplicas s1 w l)) (fun y s2 =>
          match y with
          | none => false
          | some y => gives (rangeOf (keepClaim s2 y) (s2.who .vector) 0x10800 y.claim.buf.size .read) (fun sps s3 =>
              gives (rangeOf s3 (s2.who .vector) (slotAddr y.claim.buf y.claim.slot) y.claim.buf.size .write) (fun _ s4 =>
                answers (readPlaces (s2.who .vector) 0 0x10800 s4 sps))))) = true)
    ∧ (let s := experts 0
       let w := s.who .vector
       gives (expertReplicas s w 0x10400 0) (fun l s1 => s1.cpu.queue.isEmpty && (headClaim s1).isNone
         && gives (claimReplica w 0x10800 s1 (rankReplicas s1 w l)) (fun y _ => y.isNone)) = true)
    ∧ xsendResting (machine { user with queue := [{ entryOf user (.xsend ⟨5, 1, 4, 15, 0, .reg 2 0⟩) 0 with refused := some 5 }] } []) = true
    ∧ (let s := claimed
       let w := s.who .vector
       xsendResting s = false ∧ gives (expertReplicas s w 0x10400 0) (fun l s1 => match s1.cpu.queue with
        | [] => false
        | e :: rest => e.awaits && s1.pieces.isEmpty && e.fails.isEmpty && e.claim == some (0x10500, 0, 0) &&
          (let u := s1.onCpu (fun t => { t with queue := { e with op := 0, fails := [] } :: rest })
           gives (claimedReplica u (u.who .vector) l (0x10500, 0, 0)) (fun y s2 => (finishXsend s2 (s2.who .vector) y).2 == .ok))) = true)
    ∧ (let s := { claimed with pieces := [aPiece] }
       gives (expertReplicas s (s.who .vector) 0x10400 0) (fun _ s1 => match s1.cpu.queue with
        | [] => false
        | e :: _ => e.awaits && s1.pieces.any (fun p => p.op = e.op)) = true) := by decide +kernel

theorem witness_FabricComplete_csend :
    (let s := opened { user with v := elems 1 [1, 2, 3, 4], g := [(4, 0x10000)] } []
       let w := s.who .vector
       let o : Ops := ⟨4, 1, 0, 2, 0, .imm 2⟩
       let val := fun i => s.cpu.readV o.A i % 2 ^ typeWidth o.T
       let act := activeList s.cpu { o with b := .reg 0 0 } false
       let ea := fun i => s.srcG o.D + BitVec.ofNat 64 (byteSize o.T * i)
       let chosen := fun (m : Nat) => ((List.range ((s.cpu.vl + 63) / 64)).map (fun j => csendBlock o.T m j (act.map (fun i => (i, val i))))).flatten.map (·.1)
       let todo := fun (m : Nat) => (chosen m).filter (fun i => !(doneAlready s).contains i)
       let packets := fun (els : List VElem) =>
         (csendPackets o.T (els.flatMap (fun e => (e.places.take 1).map (fun z => (e.i, z.1, val e.i)))) []).filterMap (csendPiece o.T)
       HeadReady (.csend o) [o.T] s.cpu ∧ HeadReady (.csend { o with b := .reg 2 0x1F }) [o.T] s.cpu ∧ HeadReady (.csend o) [o.T] { user with vl := 0 }
        ∧ s.cpu.vl ≠ 0 ∧ (∀ i ∈ act, elemAbn s.cpu o.T o.A i = none) ∧ (chosen 2).length = 2 ∧ (∀ i ∈ todo 2, (ea i).toNat % byteSize o.T = 0)
        ∧ s.cpu.queue = []
        ∧ translated (vTranslate w .atomic (byteSize o.T) .engine ea s (todo 2)) (fun els _ => !(packets els).isEmpty) = true
        ∧ translated (vTranslate w .atomic (byteSize o.T) .engine ea s (todo 0)) (fun els _ => (packets els).isEmpty) = true)
    ∧ (∀ i, WaitsAllWays i { user with v := elems 1 [1, 2, 3, 4], g := [(4, 0x10000)] }) :=
  ⟨⟨headReady _ _ _ (by decide +kernel), headReady _ _ _ (by decide +kernel), headReady _ _ _ (by decide +kernel), by decide +kernel⟩, fun i => waitsAllWays i _⟩

theorem witness_FabricComplete_tables :
    (let s := opened { user with g := [(1, 0x10000), (2, 0x1000), (3, 0)] } []
     let w : Who := { s.who .vector with level := .s }
     grantRange 0x10000 0x1000 = true ∧ gives (grantPlaces w s (partsOf 0x10000 0x1000)) (fun dst s1 => (freeRegistration s1 (destDie s1 dst)) == some 1) = true
      ∧ handleOf s 0 0 0 = some (0, 0) ∧ entryBusy s (0, 0) = false ∧ Ops.nb ⟨0, 3, 0, 15, 0, .reg 0 0⟩ = false ∧ Ops.nb ⟨0, 3, 0, 15, 0, .reg 0 0x1F⟩ = true)
    ∧ freeRegistration { machine user [] with
        dies := [(0, { regs := (List.range 4096).map (fun k => (k, ({ vi := 0, base := 0, bytes := 1, revoking := false } : Registration))) })] } 0 = none
    ∧ (let s := { opened user [] with dies := [(0, { regs := [(0, { vi := 0, base := 0x10000, bytes := 0x10000, revoking := false })],
                                                     flags := [{ stream := 0, need := 1, packet := 1, entry := some 0 }] })] }
       handleOf s 0 0 0 = some (0, 0) ∧ entryBusy s (0, 0) = true)
    ∧ (windowBeyond (windowed 0 false) 0 0 = false ∧ windowRangeOk 0x10000 (2 ^ 44) = true ∧ memWord (windowed 0 false).mem (winEntryAt (windowed 0 false) 0 0 0 + 16) % 4 = 0)
    ∧ (memWord (windowed 1 false).mem (winEntryAt (windowed 1 false) 0 0 0 + 16) % 2 = 1 ∧ headBegun (windowed 1 false) = none ∧ (windowed 1 false).cpu.queue ≠ [])
    ∧ (headBegun (windowed 3 true) = some 9 ∧ (windowed 3 true).wire.any (fun (k : Packet) => k.kind = .shootdown && k.y = 9) = false
      ∧ memWord (windowed 3 true).mem (winEntryAt (windowed 3 true) 0 0 0 + 24) + 1 < 2 ^ 64
      ∧ ({ windowed 3 true with wire := [{ kind := .shootdown, y := 9 }] } : State).wire.any (fun (k : Packet) => k.kind = .shootdown && k.y = 9) = true) := by
  refine ⟨by decide +kernel, ?_, by decide +kernel, by decide +kernel, by decide +kernel, by decide +kernel⟩
  simp only [freeRegistration, List.find?_eq_none]
  intro n hn
  have := lookup_map (List.range 4096) { vi := 0, base := 0, bytes := 1, revoking := false } n hn
  simp only [State.die, cellGet, if_true]
  rw [Option.isNone_eq_false_iff.2 this]
  exact Bool.false_ne_true

/-- A run of graph 0, whose steps are one of each kind, at its step `k`. -/
def running (k : Nat) : State :=
  let step := fun (n : Nat) => ({ kind := n, src := 0, dst := 0, cnt := 15, expected := 1, bytes := 0, soff := 0, doff := 0, coff := 0, slot := 0 } : CollStep)
  { opened { user with runs := [{ id := 5, graph := 0, step := k, status := 0, level := .u, base := List.replicate 16 0, run := 0 }] } [] with
      arg := { key := 1, index := 5 }, dies := [(0, { graphs := [(graphKey 0 0, { ty := 10, op := 0, steps := [step 1, step 2, step 3, step 4] })] })] }

theorem witness_CollectivesComplete :
    (let s := machine user (cells [(0x10000, 1 + 10 * 2 ^ 16), (0x10020, 3 + 15 * 2 ^ 16)])
     graphBusy s s.myDie 0 63 = false ∧ gives (readMem s (s.who .vector) 0x10000 32 0 .read) (fun h s1 => graphHeader h.bytes == some (1, 10, 0)
      && gives (readMem s1 (s1.who .vector) 0x10020 32 0 .read) (fun b _ => (graphOf 1 10 0 b.bytes).isSome)) = true)
    ∧ ((63 : Nat) ≤ 63 ∧ 63 < (64 : Nat))
    ∧ (let s := running 0
       ((s.die s.myDie).graphs.lookup (graphKey s.cpu.vi 0)).isSome = true ∧ (s.cpu.runs.filter (fun r => !runEnded s s.cpu r)).length < 4
        ∧ answers (readMem s (s.who .vector) 0x10000 128 0 .read) = true ∧ s.cpu.runs.find? (fun r => r.id = 4) = none
        ∧ (s.cpu.runs.find? (fun r => r.id = 5)).map (fun r => runEnded s s.cpu r) = some false
        ∧ ((running 4).cpu.runs.find? (fun r => r.id = 5)).map (fun r => runEnded (running 4) (running 4).cpu r) = some true)
    ∧ (∀ k ∈ [0, 1, 2, 3], let s := running k
       (match s.task? s.arg.key with
        | none => false
        | some u => decide (u.deferSince = none) && (match u.runs.find? (fun r => r.id = s.arg.index) with
          | none => false
          | some r => ((runGraph s u r).bind (fun g => g.steps[r.step]?)).map (fun x => (x.kind, x.cnt)) == some (k + 1, 15))) = true)
    ∧ (let y : CombineSlot := { key := 0, vi := 0, missing := 1, ty := 10, op := 0, values := [], bytes := 0, dest := { kind := .pg, ha := 0, va := 0 }, counter := none,
                                saturated := false, bad := [], since := some 5, runs := [] }
       let s := { machine user [] with dies := [(0, { combine := [y] })], time := 10000005 }
       y ∈ (s.die s.arg.key).combine ∧ y.expired s.time = true ∧ y.expired 10000004 = false ∧ ({ y with since := none } : CombineSlot).expired s.time = false) := by
  decide +kernel

/-! Events. -/

def performed (x : Performed) (f : Status → Bool) : Bool :=
  match x with
  | .wait _ => false
  | .done _ st _ => f st

def stalled (x : Performed) : Bool :=
  match x with
  | .wait _ => true
  | .done _ _ _ => false

/-- A piece of a non-blocking operation of task 1 that is counted in CC3, and the machine at an event that names it. -/
def piece (what : PieceOp) : Piece :=
  { id := 1, op := 1, tid := 1, cc := some 3, place := { kind := .pg, ha := 0x10000, va := 0x10000 }, what := what, vi := 0, level := .u, srcPkg := 0, srcDie := 0,
    srcCore := 0, srcSlot := 0 }
def pending (p : Piece) (m : Memory) : State := { machine user m with pieces := [p], arg := { key := 1 }, time := 1000000000 }

/-- The packet of a piece at the head of the wire. -/
def packet (kind : PacketKind) : Packet := { kind := kind, piece := 1 }
def arriving (kind : PacketKind) (p : Piece) (s : State) : State := { s with pieces := [p], wire := [packet kind], arg := { index := 0 } }

/-- The piece that each delivery performs, and the packet that carries it. -/
def delivered (x : Instr × PacketKind) (what : PieceOp) : Bool :=
  let p := { piece what with remote := true }
  let s := arriving x.2 p (opened user [])
  let k := packet x.2
  decide (s.wire[s.arg.index]? = some k) && k.here && decide (k.kind = x.2) && !isReservedPacket k && !unheard (taken s) k && k.crcOk && decide (s.pieces.find? (fun y => y.id = k.piece) = some p) && decide (k.seq = p.seq)
    && (s.answered.find? (fun a => a.1 = k.piece)).isNone && inSequence (taken s) p k && !staleRequest (taken s) p && performed (performFull (taken s) p) (fun st => decide (st ≠ .busy))

theorem witness_PiecesAndPacketsEnd :
    (let p := piece (.write [5] false)
     let s := { pending p [] with dies := [(0, { flags := [{ stream := 0, need := 0, packet := 1, entry := none }] })] }
     s.pieces.find? (fun x => x.id = s.arg.key) = some p ∧ p.remote = false ∧ performed (performFull s p) (fun st => decide (st = .ok)) = true
      ∧ (s.die (placeDie s p.place)).flags.any (fun f => f.packet = p.id && flagReady s (placeDie s p.place) f) = true)
    ∧ (let p := { piece (.xsend 0x10800 0 0x10400) with busyAt := some 0 }
       let s := { experts 1 with pieces := [p], arg := { key := 1 }, time := 1000 }
       p.busyAt = some 0 ∧ 0 + 1000 ≤ s.time ∧ performed (performFull s p) (fun st => decide (st = .ok)) = true)
    ∧ (let p := piece (.xsend 0x10800 0 0x10400)
       performed (performFull { experts 0 with pieces := [p], arg := { key := 1 } } p) (fun st => decide (st = .busy)) = true)
    ∧ (let p := piece (.flag [5] 1 [])
       let s := { pending p [] with dies := [(0, { flags := [{ stream := 0, need := 1, packet := 1, entry := some 0 }] })] }
       stalled (performFull s p) = true)
    ∧ (let p := { piece (.write [5] false) with busyAt := some 999999500 }
       (pending p []).time < 999999500 + 1000)
    ∧ (let p := piece (.flag [5] 0 [])
       let s := { pending p [] with dies := [(0, { flags := List.replicate 256 { stream := 0, need := 1, packet := 7, entry := none } })] }
       performed (performFull s p) (fun st => decide (st = .busy)) = true)
    ∧ (∀ n ∈ [5, 6], let p := { piece (.write [5] false) with remote := true, retries := n }
       let s := pending p []
       p.unsent = false ∧ p.busyAt = none ∧ p.sentAt + retryInterval s p ≤ s.time)
    ∧ (let p := { piece (.write [5] false) with remote := true, busyAt := some 999999000, busySince := some 980000000 }
       p.busyAt = some 999999000 ∧ 999999000 + 1000 ≤ (pending p []).time ∧ 980000000 + 20000000 ≤ (pending p []).time)
    ∧ (deliveries.zip [.loads 3 2 [(0, 0, 0, 4)], .write [5] false, .amo 0 3 5 true 3 0, .data [5] true, .flag [5] 0 [], .contrib 0 1 10 0 [0, 0, 0, 0] none 1 []]).all
        (fun x => delivered x.1 x.2) = true
    ∧ (let p := { piece (.write [5] false) with remote := true, place := { kind := .pg, ha := 0x10000, va := 0x10000, gen := 1 } }
       staleRequest (taken (arriving .write p (opened user []))) p = true)
    ∧ (({ machine user [] with answered := [(1, .ok)] } : State).answered.find? (fun a => a.1 = 1) = some (1, .ok)
      ∧ ({ packet .write with crcOk := false } : Packet).crcOk = false
      ∧ (∀ d ∈ deliveries, Lands (arriving d.2 (piece (.write [5] false)) (machine user [])) (packet d.2) d.2)
      ∧ unheard { machine user [] with pkgs := [(0, { unreachable := true })] } (packet .write) = true
      ∧ inSequence (machine user []) { piece (.write [5] false) with seq := 1, inOrder := true } { packet .write with seq := 1 } = false)
    ∧ (gives (deliver (machine user []) (piece (.write [5] false)) .ok) (fun x _ => decide (x.1 = .ok)) = true)
    ∧ (∀ kind ∈ [PacketKind.readReply, .acknowledgement, .nackBusy, .shootdown], Arrives (arriving kind (piece (.write [5] false)) (machine user [])) (packet kind) kind)
    ∧ (let s := { machine user [] with arg := { key := 0, index := 3 } }
       s.arg.index < 4 ∧ (s.die s.arg.key).failed.contains s.arg.index = false)
    ∧ (let s := { machine user [] with arg := { key := 0, index := 3 }, dies := [(0, { failed := [3] })] }
       (s.die s.arg.key).failed.contains s.arg.index = true ∧ (∃ n ∈ [0, 1, 2, 3], healthyRail (s.die s.arg.key) n = s.arg.index) ∧ s.pieces = []
        ∧ nextHealthy (s.die s.arg.key) 3 = some 0)
    ∧ (isReservedPacket { kind := .reserved 15 } = true ∧ ({ packet .write with dstPkg := 2 ^ 16 } : Packet).here = false ∧ (packet .write).here = true)
    ∧ (let p := piece (.write [5] false)
       let s := pending p []
       p.cc = some 3 ∧ p.what = .write [5] false ∧ p.tid = s.cpu.tid ∧ (∀ x ∈ s.pieces, x.op = p.op → x.id = p.id)) := by
  unfold Arrives Lands
  decide +kernel

/-- R371: a packet to a package of the next domain makes its one hop: its gateway is free, whatever buffers it has beyond two. -/
theorem witness_PiecesAndPacketsEnd_hop :
    let k : Packet := { packet .write with dstPkg := 2 ^ 16 }
    let s := { machine user [] with wire := [k] }
    s.wire[s.arg.index]? = some k ∧ k.here = false ∧ hopFree s k = true := by
  refine ⟨by decide +kernel, by decide +kernel, ?_⟩
  let k : Packet := { packet .write with dstPkg := 2 ^ 16 }
  have h : k.gateway (k.hops + 1) = some (2 ^ 16 + 56) := by decide +kernel
  have n : ([k].filter (fun (x : Packet) => x.cls = k.cls && x.gateway x.hops == some (2 ^ 16 + 56))).length = 0 := by decide +kernel
  have q : silent { machine user [] with wire := [k] } (2 ^ 16 + 56) = false := by decide +kernel
  have e : k.enters = true := by decide +kernel
  have f : gatewayFree { machine user [] with wire := [k] } k (2 ^ 16 + 56) = Config.gatewayBuffers := by
    simp only [gatewayFree, n, Nat.sub_zero]
  show hopFree { machine user [] with wire := [k] } k = true
  simp only [hopFree, h, q, e, f, Config.gatewayBuffers, if_true, Bool.not_false, Bool.true_and, decide_eq_true_eq]
  omega

/-- A task in a state of its own, and the machine at an event that names it. -/
def tasked (t : Strand) : State := { machine t [] with arg := { key := 1 }, time := 1000000000 }

/-- A strand in H behind a TRAP of a service call from S. -/
def serving (n : Nat) (g : List (Nat × Word)) : Strand :=
  { user with level := .h, g := g, trapH := { cause := BitVec.ofNat 8 causeTrap, tval := BitVec.ofNat 64 n, plvl := 1 } }

theorem witness_StrandEvents :
    ((tasked { user with exiting := true }).task? 1 = some { user with exiting := true }
      ∧ exitReady (tasked { user with exiting := true }) { user with exiting := true } = true
      ∧ ({ user with exiting := true } : Strand).deferred = [])
    ∧ ((5 : Word) ≠ 0 ∧ (5 : Word).toNat ≤ (tasked { user with deadline := 5 }).time - ((tasked user).pkg 0).resetAt
      ∧ (tasked { user with deadline := 5 }).task? 1 = some { user with deadline := 5 })
    ∧ (tasked { user with watchFull := true }).task? 1 = some { user with watchFull := true }
    ∧ (let l : WmLink := { base := 0x10100, bytes := 64, cell := 0x10000, esize := 8, scope := 0, w := 1, sub := true }
       let t := { user with links := [l] }
       let s := { mapped t (cells (tables ++ [(0x10000, 2)])) with arg := { key := 1, index := 0 } }
       s.task? 1 = some t ∧ t.links[s.arg.index]? = some l
        ∧ gives (readMem s { vi := 0, pkg := 0, die := 0, core := 0, level := .s, tlb := none } l.cell 8 0 .read) (fun x _ => decide (l.w < leNat x.bytes)) = true)
    ∧ (let t : Strand := { user with deferred := [(8, 0x10000)] }
       t.deferred = [(8, 0x10000)] ∧ t.queue = [] ∧ tripping t = false)
    ∧ headBusy (waiting (.vld ⟨3, 1, 0, 2, 0, .reg 2 0⟩) user [] []) = true
    ∧ (let t : Strand := { user with stepArm := some .s, stepDone := true }
       t.stepArm = some .s ∧ t.stepDone = true ∧ t.queue = [] ∧ tripping t = false ∧ Level.s ≠ Level.u)
    ∧ (∀ n ∈ [0, 1, 2, 3], pendingEvent { user with trapS := { ie := true, evp := BitVec.ofNat 4 (2 ^ n), evm := 15 } } = some n)
    ∧ (let s := { machine { user with trapS := { evm := 1 } } [] with arg := { off := 0x1F8 } }
       0x100 ≤ s.arg.off ∧ s.arg.off ≤ 0x1F8 ∧ s.cpu.tid ≠ 0 ∧ s.cpu.vi = s.arg.vi ∧ s.cpu.pkg = s.arg.pkg ∧ s.cpu.trapS.evm.getLsbD 0 = true
        ∧ ({ s with arg := { off := 0x100, vi := 1 } } : State).arg.vi ≠ s.cpu.vi)
    ∧ (let s := { machine { user with watched := [7], parked := true } [] with arg := { key := 7 } }
       s.cpu.watched.contains s.arg.key = true ∧ s.cpu.watchFull = false ∧ (machine user []).cpu.watched.contains 7 = false)
    ∧ (inService (machine (serving 0xF003 []) []) 0xF003 = true ∧ inService (machine (serving 0xF004 [(1, 7), (2, 79)]) []) 0xF004 = true
      ∧ inService (machine (serving 0xF002 [(1, 3)]) []) 0xF002 = true ∧ inService (machine (serving 0xF001 []) []) 0xF001 = true)
    ∧ ((cellGet {} (({ machine user [] with chans := [(0, { regs := [(3, { en := true, vi := 0 })] })] } : State).chan (3 / 8)).regs (3 % 8)).en = true
      ∧ (cellGet {} ((machine user []).chan (3 / 8)).regs (3 % 8)).en = false)
    ∧ (let s := mapped (serving 0xF001 [(1, 0x10000), (2, 0x10400), (3, 0x10800), (4, 4)]) (cells tables)
       let w : Who := { s.who .scalar with level := .s, tlb := none }
       inService s 0xF001 = true ∧ 0 < (s.cpu.readG 4).toNat ∧ (s.cpu.readG 4).toNat < 2 ^ 24
        ∧ gives (regionRanges s w 4) (fun l s1 => match l.map oneRun with
          | [some win, some pk, some hdr] =>
            decide (haChanKey pk = haChanKey win) && decide (haChanKey hdr = haChanKey win)
              && (match (List.range 8).find? (fun n => !(cellGet {} (s1.chan (haChanKey win)).regs n).en) with
                  | none => false
                  | some n =>
                    let reg : FormatReg := { count := 4, hdrbase := haOff hdr, pkbase := haOff pk, en := false, vi := s1.cpu.vi, winbase := haOff win }
                    (enableRegion (s1.setChan (haChanKey win) { s1.chan (haChanKey win) with regs := cellPut (s1.chan (haChanKey win)).regs n reg }) (haChanKey win) n).isSome)
          | _ => false) = true) := by decide +kernel

/-- The machine at an event of a launch. -/
def launching (l : Launch) (s : State) : State := { s with launches := [l], arg := { key := 1 }, time := 1000000000 }

/-- A machine with room for a task, and one whose only strand is in the way of a launch of another VI. -/
def roomy : State := { mapped { user with slot := 3 } (cells tables) with cores := [] }
def contended : State :=
  { launching { aLaunch .ready 1 [] with vi := 1, cls := 0 } (machine { user with lid := 2 } []) with
      arg := { key := 0 }, vis := [(0, { parkbase := 2 })], chans := [], cores := [(0, { viSince := [(0, 0)] })] }

theorem witness_LaunchEvents_doorbells :
    ((64 + 2 ^ 32 - ((machine user []).viPkg 0 0).head) % 2 ^ 32 ≤ 2 ^ ((machine user []).viPkg 0 0).ringSize
      ∧ 2 ^ ((machine user []).viPkg 0 0).ringSize < (0x10001 + 2 ^ 32 - ((machine user []).viPkg 0 0).head) % 2 ^ 32)
    ∧ ((6 : Nat) ≤ 6 ∧ 16 ≤ (16 : Nat) ∧ (5 : Nat) < 6 ∧ 16 < (17 : Nat) ∧ 64 % 64 = 0 ∧ 63 % 64 ≠ 0)
    ∧ (((machine user []).pkg 0).stage = 4 ∧ ((({ machine user [] with pkgs := [(0, { stage := 3 })] } : State).pkg 0).stage = 3))
    ∧ (({ machine user [] with viPkgs := [(0, { tail := 1 })] } : State).viPkg 0 0).head ≠ (({ machine user [] with viPkgs := [(0, { tail := 1 })] } : State).viPkg 0 0).tail := by
  decide +kernel

theorem witness_LaunchEvents_launches :
    (let f := fun (n : Nat) =>
       let l := { aLaunch .waitCells 1 [] with cells := [(0x10000, 1)] }
       let s := launching l (mapped user (cells (tables ++ [(0x10000, n)])))
       decide (s.launches.find? (fun (y : Launch) => y.id = s.arg.key) = some l) && gives (cellsReady l.pkg l.vi s l.cells) (fun b _ => b == decide (n = 1))
     f 1 = true ∧ f 0 = true)
    ∧ (let l := aLaunch .ready 1 []
       let s := launching l (machine user [])
       launchWaits s l = true ∧ 1 ≤ l.cls ∧ l.since + 4 * budgetOf s l.vi l.cls < s.time ∧ l.since + budgetOf s l.vi l.cls < s.time)
    ∧ (let l := aLaunch .ready 1 []
       let s := launching l roomy
       startable l = true ∧ s.arg.index < l.tasks ∧ l.started.contains s.arg.index = false ∧ gangOf l.record s.arg.index = none
        ∧ (taskPlace s l s.arg.index).map (·.core_) = some 0 ∧ firstOnCore s l [s.arg.index] s.arg.index = true ∧ servesNow s l 0 = true
        ∧ (startTask s l.id s.arg.index).isSome = true)
    ∧ (let l := { aLaunch .running 1 [0] with exited := 1, record := { aRecord 1 with done := 0x10000 } }
       let s := launching l (mapped user (cells tables))
       launchDone s l = true ∧ reporters s l = [] ∧ l.record.npub ≤ l.published
        ∧ gives (writeRecord s (homeOfLaunch s l) l.vi l.record.done (statusOf l) l.exited l.first) (fun written _ => written) = true)
    ∧ (let s := { launching (aLaunch .ready 1 []) (machine user []) with wire := [{ kind := .gang, x := 1 }], arg := {} }
       Arrives s { kind := .gang, x := 1 } .gang ∧ (s.launches.find? (fun (y : Launch) => y.id = 1)).isSome = true
        ∧ (taken s).wire.any (fun (m : Packet) => m.kind = .gang && m.x = 1 && m.y = 0) = false)
    ∧ (let s := { launching (aLaunch .ready 1 []) (machine user []) with wire := [{ kind := .report, x := 1 }], arg := {} }
       Arrives s { kind := .report, x := 1 } .report)
    ∧ (let s := contended
       let held := fun (u : Strand) => onCore s.arg.key u && decide (cellGet 0 (s.core s.arg.key).viSince u.vi + (s.vi u.vi).quantum ≤ s.time)
       firstVictim s (s.strands.filter (fun u => u.tid ≠ 0 && s.launches.any (fun (y : Launch) => (launchWaits s y || startable y)
         && holdsNeeded s (fun t => held t && decide (y.vi ≠ t.vi) && decide (y.cls ≤ classOf s t)) y u))) = some s.cpu) := by
  unfold Arrives Lands
  decide +kernel

/-- Two tasks of one gang, on two packages. -/
def ganged (n pkg : Nat) : Strand := { user with tid := n, pkg := pkg, lid := 1, levels := [{ index := 0, extent := 1, gang := true }, { index := n, extent := 2 }] }

/-- A saved task whose image is lost, with some lane groups. -/
def lost (groups : Nat) : Saved := { strand := { user with tid := 9, slot := 1, groups := groups }, at_ := 0x40000, slot := some 0, lost := true, region := none }
def parked (x : Saved) : State := { machine user [] with saved := [x], arg := { key := 9 }, vis := [(0, { parkbase := 2 })] }

/-- Page 1 spilled to host slot 1, and one free frame. -/
def spilled : State :=
  { machine user (cells [(0x12000, 2 ^ 63), (0x14000, 0x15001), (0x15008, 0x1081D)]) with
      vis := [(0, { nodemap := 0x12000, nodecnt := 1 })], chans := [(0, { roots := [(0, 0x14000)], freeFrames := [5] })], pageIns := [(0, 0x10000)] }

theorem witness_SaveAndPagingEvents :
    (let s := { machine user [] with arg := { key := 1 }, vis := [(0, { parkbase := 2 })] }
     s.task? s.arg.key = some user ∧ groupPackages s user = [] ∧ slotsFor s (residentGroup s user) = true ∧ (residentGroup s user).any (insideStep s) = false)
    ∧ (let s := { machine (ganged 1 0) [] with others := [ganged 2 1], arg := { key := 1 } }
       s.task? s.arg.key = some (ganged 1 0) ∧ groupPackages s (ganged 1 0) = [1] ∧ s.wire = [])
    ∧ (({ user with deferSince := some 0 } : Strand).deferSince = some 0 ∧ 0 + 50000 ≤ (tasked { user with deferSince := some 0 }).time)
    ∧ (let k : Packet := { kind := .preempt, x := 1 }
       let s := { machine user [] with wire := [k], arg := {} }
       Arrives s k .preempt ∧ (taken s).wire.any (fun (m : Packet) => m.kind = .preempt && m.x = k.x) = false ∧ (taken s).task? k.x = some user)
    ∧ (∀ n ∈ [1, 100], let s := parked (lost n)
       let x := lost n
       s.saved.find? (fun y => y.strand.tid = s.arg.key && y.slot.isSome) = some x ∧ s.saved.find? (fun y => y.strand.tid = s.arg.key && isLost s y && waitsResume y) = some x
        ∧ (resumeCore s [x]).isSome = decide (n = 1)
        ∧ (let g := savedGroup s x.strand
           let images := s.saved.filter (fun y => waitsResume y && g.any (fun u => u.tid = y.strand.tid))
           let r := resumeGroup images.length s images
           images.all (fun y => !y.stopped) = true ∧ r.saved.any (fun y => images.any (fun z => z.number = y.number)) = decide (n = 100) ∧ resumesNow s r x = true))
    ∧ (let x := { lost 1 with stopped := true }
       (parked x).task? (parked x).arg.key = none ∧ (parked x).saved.find? (fun y => y.stopped && y.strand.tid = (parked x).arg.key) = some x)
    ∧ (let s := spilled
       s.pageIns[s.arg.index]? = some (0, 0x10000) ∧ nodeOf s 0 0 0 = some 0 ∧ pageInWaits s 0 0 0 0 0x10000 = false
        ∧ waits (placesOf s (hostWho s) 0x10000 8 .write) = true ∧ waits (readMem s (hostWho s) 0x10000 8 0 .read) = true
        ∧ waits (deliver s { piece (.fetch { kind := .pg, ha := 0x10000, va := 0x10000, gen := 1 } 8) with performed := some .ok } .ok) = true
        ∧ (walk s 0 0 0 0 0x10000).map (fun x => (x.1, x.2.sp, x.2.frame)) = some (0x15008, true, 1))
    ∧ (let s := { machine user [] with arg := { index := 1 }, time := 256000000, chans := [(0, { pages := [(1, { settledAt := some 0 })] })] }
       (cellGet ({} : PageHist) (s.chan s.arg.key).pages (s.arg.vi * 131072 + s.arg.index)).settledAt = some 0 ∧ 0 + 256000000 ≤ s.time)
    ∧ (let r : FormatReg := { count := 4, hdrbase := 0x10800, pkbase := 0x10400, en := false, vi := 0, winbase := 0x10000 }
       let s := { machine user [] with arg := { index := 7 }, chans := [(0, { regs := [(7, r)] })] }
       s.arg.index < 8 ∧ (cellGet ({} : FormatReg) (s.chan s.arg.key).regs s.arg.index).en = false
        ∧ regionOk (s.chan s.arg.key) s.arg.index (cellGet ({} : FormatReg) (s.chan s.arg.key).regs s.arg.index) = true
        ∧ (cellGet ({} : FormatReg) (({ s with chans := [(0, { regs := [(7, { r with en := true })] })] } : State).chan 0).regs 7).en = true)
    ∧ (let s := { machine user [] with arg := { key := 5 }, cores := [(5, { pend := some 3 })] }
       (s.core s.arg.key).pend = some 3 ∧ (∀ u ∈ s.strands, u.tid = 0 ∨ coreKey u.pkg u.die u.core ≠ s.arg.key)) := by
  unfold Arrives Lands
  decide +kernel

theorem witness_SaveAndPagingEvents_pageIn : (pageIn spilled 0 0 0 0 0x10000 0x15008 1).isSome = true := by
  have h : (needsVictim spilled 0 0 (residentPages spilled 0 0 0 0).length, (spilled.chan 0).freeFrames) = (false, [5]) := by decide +kernel
  simp only [Prod.mk.injEq] at h
  simp only [pageIn, show chanKey 0 0 0 = 0 from rfl, h.1, h.2, Bool.false_eq_true, if_false, Option.isSome_some]

theorem witness_PlatformEvents :
    (let s := mapped user (cells tables)
     (0x10000 : Word).toNat < 2 ^ 62 ∧ answers (readMem s (deviceWho 0 0) 0x10000 8 0 .read) = true
      ∧ answers (readMem s (hostWho s) 0x10000 8 0 .read) = true
      ∧ gives (placesOf s (hostWho s) 0x10000 2 .write) (fun ps s1 => (writeWhole (hostWho s) .outside false s1 ps [1, 2]).2 == .ok) = true)
    ∧ (let s := { mapped user (cells tables) with poison := [0x2000] }
       gives (placesOf s (hostWho s) 0x10000 2 .write) (fun ps s1 => ps.all (fun y => placeRefusal s1 (hostWho s) y.1 y.2 != .ok)) = true)
    ∧ (∀ n ∈ [0, 1, 2, 3], (({ machine user [] with pkgs := [(0, { stage := n })] } : State).pkg 0).stage = n)
    ∧ ((∀ i ∈ [2, 3, 4], imageOk {} i (cellGet {} [] i) = true) ∨ ∃ i ∈ [2, 3, 4], imageOk {} i (cellGet {} [] i) = false)
    ∧ (∀ i ∈ [2, 3, 4], imageOk { rollback := [(2, 1), (3, 1), (4, 1)] } i (cellGet {} [] i) = false)
    ∧ ((∀ u ∈ ({ machine user [] with cpu := {} } : State).strands, u.tid = 0 ∨ u.pkg ≠ 0) ∧ (∃ u ∈ (machine user []).strands, u.tid ≠ 0 ∧ u.pkg = 0))
    ∧ ((1 : Nat) ≤ 1 ∧ (14 : Nat) ≠ 15 ∧ (2 : Nat) ≤ 2 ∧ (4 : Nat) ≤ 4)
    ∧ (.mlDsa65 ∈ [SpdmAlgorithm.mlDsa65, .shake256, .mlKem768] ∧ .shake256 ∈ [SpdmAlgorithm.mlDsa65, .shake256, .mlKem768]
      ∧ .mlKem768 ∈ [SpdmAlgorithm.mlDsa65, .shake256, .mlKem768] ∧ .mlDsa65 ∉ ([] : List SpdmAlgorithm))
    ∧ (({ session := some [] } : Spdm).session.isSome = true)
    ∧ (let d := ({ machine user [] with dies := [(0, { step := 5, droop := 2, lastStep := 1 })], time := 100001 } : State).die 0
       d.step ≤ 5 ∧ d.lastStep + 100000 ≤ 100001 ∧ d.droop ≠ 0 ∧ d.droopSince + 1000000 ≤ 1000000 ∧ ((machine user []).die 0).step < 5 ∧ ((machine user []).die 0).lastStep = 0)
    ∧ (let p : PkgSt := { module := true }
       p.limit < 3401 ∧ p.lastPower = 0 ∧ 3299 < p.limit - 100 ∧ p.module = true ∧ (3600 : Nat) < 3601) := by
  refine ⟨by decide +kernel, by decide +kernel, by decide +kernel, ?_, ?_, by decide +kernel⟩
  · by_cases h : ∃ i ∈ [2, 3, 4], imageOk {} i (cellGet {} [] i) = false
    · exact .inr h
    · exact .inl (fun i hi => by simpa using fun hf => h ⟨i, hi, hf⟩)
  · simp [imageOk, cellGet]

/-! Further clauses of the statements. -/

/-- A blocking scalar store of task 1 on its way to another die, to the first word of the page. -/
def aPost : Piece := { aPiece with id := 1, op := 8, what := .post (leBytes 8 5) 0x10000 [] }
def posted (s : State) : State := { s with pieces := [aPost] }

/-- An instruction at the head of the queue that entered it behind the store. -/
def behind (i : Instr) (t : Strand) : Strand := { t with queue := [{ entryOf t i 0 with after := 2 }] }

/-- A WMPUB, which releases, meets the store as it commits. -/
theorem witness_StepRunsQueued_release :
    (let i : Instr := .wmpub ⟨0, 6, 0, 15, 0, .reg 12 0xC00⟩
     let s := posted (fetching user 0x18700603C0600C00)
     ReadyToFetch s ∧ isQueued i = true
      ∧ gives (fetch { s with background := true }) (fun x s1 => decide (decode x.1 x.2 = .instr i 1) && (enqueueFault s1 i x.1).isNone
          && (releasesOf i && postsOut s1)) = true
      ∧ (releasesOf i && postsOut (machine user [])) = false) :=
  ⟨readyToFetch _ (by decide +kernel), by decide +kernel, by decide +kernel, by decide +kernel⟩

/-- An event of a package in service, and of one that has tripped. -/
theorem witness_StepRunsHeadAndEvents_tripped :
    (∀ p ∈ eventPkgs (machine user []) .tail {}, ((machine user []).pkg p).stage ≠ 15)
      ∧ (let s := { machine user [] with pkgs := [(0, { stage := 15 })] }
         ∃ p ∈ eventPkgs (writeEvicted s) .tail {}, ((writeEvicted s).pkg p).stage = 15)
      ∧ (∀ c ∈ ({ machine user [] with chans := [(0, { sectors := [] })] } : State).chans, c.2.sectors = []) := by decide +kernel

theorem witness_ScalarAbnTraps_operands :
    (let s := machine { user with g := [(1, 0xFFA00000), (2, 1), (3, 0xFFA000FF)] } []
     isAbn (fpA s ⟨5, 1, 0, 10, 0, .reg 0 0⟩) = true ∧ isAbn ((s.cpu.readG 1).toNat % 2 ^ 32) = true ∧ isAbn ((s.cpu.readG 3).toNat % 2 ^ 32) = true
      ∧ noAbn s ⟨5, 2, 3, 10, 0, .reg 2 0⟩) := by
  unfold noAbn
  decide +kernel

/-- Numbers, an exact zero, and an integer between two. -/
theorem witness_FloatResults_finite :
    (let one := fdecode fmt32 0x3F800000
     finite one ∧ exactOf one = 1 ∧ one.isZero = false ∧ finite (fdecode fmt32 0) ∧ exactOf (fdecode fmt32 0) = 0 ∧ (fdecode fmt32 0).isNan = false)
      ∧ (FVal.nan true).isNan = true ∧ (1 : Nat) < 2 ^ fmt32.width ∧ (fdecode fmt32 1).isNan = false ∧ (fdecode fmt32 0x7FC00000).isNan = true
      ∧ RoundsTo 0 false 1 1 ∧ RoundsTo 3 true 1 1 := by
  refine ⟨?_, rfl, by decide +kernel, by decide +kernel, by decide +kernel, ?_, ?_⟩
  · have h : fdecode fmt32 0x3F800000 = .fin false (2 ^ 23) (-23) := by decide +kernel
    have z : fdecode fmt32 0 = .fin false 0 (-149) := by decide +kernel
    simp only [h, z, finite, exactOf, FVal.isNan, FVal.isInf, FVal.isZero, FVal.signif, FVal.exp]
    norm_num
  · simp [RoundsTo]
  · simp [RoundsTo]

theorem witness_TrapTargets_step : (0x10 : Nat) ≠ 0x42 := by decide +kernel

/-- Accesses to the word that the store on its way writes, and to another; a STREL's write on its way, answered, refused. -/
theorem witness_StoresComplete_posts :
    (let s := posted (machine user [])
     accessQueued s = true ∧ s.cpu.trip = none ∧ Ops.nb ⟨3, 1, 0, 3, 0, .imm 0⟩ = false ∧ Ops.releases ⟨3, 1, 0, 3, 0, .reg 2 0x200⟩ = true
      ∧ Ops.nb ⟨3, 1, 0, 3, 0, .reg 2 0x200⟩ = false
      ∧ gives (placesOf s (storer s ⟨3, 1, 0, 3, 0, .imm 0⟩) (baseOffset s ⟨3, 1, 0, 3, 0, .imm 0⟩) 8 .write) (fun ps s1 => postPending s1 ps) = true
      ∧ gives (placesOf s (storer s ⟨3, 1, 0, 3, 0, .imm 8⟩) (baseOffset s ⟨3, 1, 0, 3, 0, .imm 8⟩) 8 .write) (fun ps s1 =>
          !postPending s1 ps && !anyAway s1 (storer s ⟨3, 1, 0, 3, 0, .imm 8⟩) ps) = true
      ∧ gives (placesOf s (s.who .scalar) (baseOffset s ⟨6, 1, 0, 3, 0, .imm 0⟩) 8 .read) (fun ps s1 => postPending s1 ps) = true)
    ∧ (let o : Ops := ⟨3, 1, 0, 3, 0, .imm 0⟩
       let s := awayMachine user
       s.cpu.trip = none ∧ accessQueued s = false ∧ gives (placesOf s (storer s o) (baseOffset s o) 8 .write) (fun ps s1 =>
          !postPending s1 ps && anyAway s1 (storer s o) ps) = true)
    ∧ (let x : Trip := { pc := 0x10100, instr := .strel ⟨3, 1, 0, 3, 0, .imm 0⟩, va := 0x10000, op := 9 }
       let s := { machine { user with trip := some x } [] with pieces := [aPiece] }
       s.cpu.trip = some x ∧ x.pc = s.cpu.pc ∧ x.fail = none ∧ (∃ p ∈ s.pieces, p.op = x.op) ∧ (∀ p ∈ (machine user []).pieces, p.op ≠ x.op)
        ∧ { x with fail := some (0x15, 5) }.fail = some (0x15, 5))
    ∧ (let o : Ops := ⟨3, 1, 0, 3, 0, .reg 2 0x21F⟩
       let s := posted (machine (behind (.st o) user) [])
       o.nb = true ∧ o.releases = true ∧ earlierPosts s = true
        ∧ (o.releases && earlierPosts (machine (behind (.st o) user) [])) = false) := by decide +kernel

theorem witness_StoreFrame_release :
    (let s := machine user []
     let o : Ops := ⟨3, 1, 0, 3, 0, .imm 8⟩
     s.cpu.trip = none ∧ gives (placesOf s (storer s o) (baseOffset s o) 8 .write) (fun ps s1 =>
        (writeWhole (storer s o) .store false s1 ps (leBytes 8 (s.cpu.readG o.D).toNat)).2 == .ok) = true) := by decide +kernel

theorem witness_LoadsAndAtomics_results :
    ((7 : Nat) < 2 ^ typeWidth 3 ∧ (leBytes 8 9).length = byteSize 3 ∧ (3 : Nat) < 8 ∧ (0x3F800000 : Nat) < 2 ^ typeWidth 10 ∧ (leBytes 4 9).length = byteSize 10) := by
  decide +kernel

/-- A store on its way, a vector store queued, an engine operation queued, a piece away from the die, one of a host-shared page. -/
theorem witness_SynchronisationCompletes_waits :
    (let s := posted (machine { user with bnd := [(0, some { base := 0x10000, stride := 8, count := 4, width := 8, sync := 0x10040 })] } [])
     (s.cpu.readBnd 0).isSome = true ∧ postsOut s = true ∧ fenceBusy s 1 = true ∧ fenceBusy s 3 = true ∧ fenceBusy s 2 = false
      ∧ (∀ n ∈ [1, 2, 3, 4, 5, 6, 7], fenceBusy (machine user []) n = false))
    ∧ postsOut (machine user []) = false
    ∧ fenceBusy (machine (queued (.hinit ⟨0, 1, 0, 2, 0, .imm 128⟩) user) []) 4 = true
    ∧ fenceBusy { machine user [] with pieces := [{ aPiece with remote := true }] } 5 = true
    ∧ fenceBusy { machine user [] with pieces := [{ aPiece with place := { aPiece.place with hs := true } }] } 6 = true := by decide +kernel

/-- The element that is not at VSTART is checked behind the ones below. -/
theorem witness_VectorAbnTraps_operands :
    (let t := { user with v := elems 1 [1, 0xFFA00000] ++ elems 2 [1, 1, 0xFFA000FF] ++ elems 4 [1, 1, 1, 0xFFA00001] }
     let s := machine t []
     let o : Ops := ⟨3, 1, 0, 10, 0, .reg 2 0⟩
     8 ≤ o.T ∧ o.T ≤ 11 ∧ s.cpu.vl ≤ 65536
      ∧ (∀ i ∈ [(.vfadd o : Instr), .vfsub o, .vfmul o, .vfdiv o, .vfmin o, .vfmax o, .vfsqrt o, .vfrece o, .vfrsqe o, .vfabs o, .vfneg o, .vfcmp o], HeadReady i [o.T] t)
      ∧ (∀ i ∈ [(.vfma ⟨3, 1, 4, 10, 0, .reg 2 0⟩ : Instr), .vfnma ⟨3, 1, 4, 10, 0, .reg 2 0⟩], HeadReady i [o.T] t)
      ∧ (HeadReady (.vfcvt ⟨3, 1, 10, 8, 0, .reg 0 0⟩) [10, 8] t ∧ HeadReady (.vfcvti ⟨3, 1, 10, 2, 0, .reg 0 0⟩) [10, 2] t)
      ∧ Active s o false 1 ∧ elemAbn s.cpu 10 1 1 = some 0xFFA00000 ∧ elemAbn s.cpu 10 1 0 = none ∧ bAbn s o 2 = some 0xFFA000FF ∧ elemAbn s.cpu 10 4 3 = some 0xFFA00001
      ∧ (Ops.bIsVector ⟨3, 1, 0, 11, 0, .lit 0xFFA00001⟩ = false) ∧ (OperandB.lit 0xFFA00001).f32Pattern = some 0xFFA00001 ∧ o.bIsVector = true) := by
  refine ⟨by decide +kernel, by decide +kernel, by decide +kernel, ?_, ?_, ?_, ?_, by decide +kernel⟩
  · intro i hi
    exact headReady _ _ _ (List.all_eq_true.1 (by decide +kernel : ([(.vfadd _ : Instr), .vfsub _, .vfmul _, .vfdiv _, .vfmin _, .vfmax _, .vfsqrt _, .vfrece _, .vfrsqe _,
      .vfabs _, .vfneg _, .vfcmp _]).all (fun i => headB i [10] _) = true) i hi)
  · intro i hi
    exact headReady _ _ _ (List.all_eq_true.1 (by decide +kernel : ([(.vfma _ : Instr), .vfnma _]).all (fun i => headB i [10] _) = true) i hi)
  · exact ⟨headReady _ _ _ (by decide +kernel), headReady _ _ _ (by decide +kernel)⟩
  · unfold Active; decide +kernel

/-- A conversion from .bf16 and one to binary64: exclusive or, dot products, sums in binary32. -/
theorem witness_ReductionsComplete_types :
    (let s := machine masked []
     HeadReady (.vredbit ⟨5, 1, 2, 2, 0, .imm 1⟩) [2] masked
      ∧ (∀ t ∈ [(8 : BitVec 4), 9, 10], let o : Ops := ⟨5, 1, 0, t, 0, .reg 2 0⟩
          8 ≤ o.T ∧ o.T ≤ 11 ∧ HeadReady (.vredsum o) [o.T] masked ∧ HeadReady (.vdot o) [o.T] masked
            ∧ startAbn o (operandFp s.srcG s.srcK (if o.T = 11 then 11 else 10) o.b) = none
            ∧ isAbn ((s.srcG o.C).toNat % 2 ^ typeWidth 10) = false
            ∧ (∀ k ∈ activeList s.cpu o false, elemAbn s.cpu o.T o.A k = none ∧ elemAbn s.cpu o.T o.B k = none))
      ∧ (fdecode fmt16 0x3C00).isNan = false ∧ (fdecode fmt16 0x3C00).isInf = false) := by
  refine ⟨headReady _ _ _ (by decide +kernel), ?_, by decide +kernel⟩
  intro t ht
  simp only [List.mem_cons, List.not_mem_nil, or_false] at ht
  rcases ht with rfl | rfl | rfl <;>
    exact ⟨by decide +kernel, by decide +kernel, headReady _ _ _ (by decide +kernel), headReady _ _ _ (by decide +kernel), by decide +kernel, by decide +kernel, by decide +kernel⟩

/-- VSCAN from VSTART = 3: element 2 is the nearest active one below; from VSTART = 0 there is none. -/
theorem witness_PermutationsComplete_vscan :
    (let o : Ops := ⟨3, 1, 0, 10, 2, .reg 0 0⟩
     NearestBelow (machine masked []) o false none ∧ NearestBelow (machine { masked with vstart := 3 } []) o false (some 2)
      ∧ (∀ t ∈ [masked, { masked with vstart := 3 }], HeadReady (.vscan o) [o.T] t ∧ HeadReady (.vscan { o with t := 2 }) [2] t ∧ t.vPoisonKey o.D 2 ∉ t.poison
        ∧ (∀ k ∈ activeList t o false, elemAbn t o.T o.A k = none) ∧ elemAbn t o.T o.D 2 = none)) := by
  refine ⟨?_, ?_, ?_⟩
  · refine ⟨fun _ j h => absurd h.1 (by simp [machine, masked, user]), fun k h => by cases h⟩
  · refine ⟨nofun, fun k h => ?_⟩
    obtain rfl : 2 = k := by simpa using h
    refine ⟨⟨by decide +kernel, ?_⟩, fun j hj h => ?_⟩
    · unfold Active; decide +kernel
    · have : j < 3 := h.1
      omega
  · intro t ht
    simp only [List.mem_cons, List.not_mem_nil, or_false] at ht
    rcases ht with rfl | rfl <;>
      exact ⟨headReady _ _ _ (by decide +kernel), headReady _ _ _ (by decide +kernel), by decide +kernel, by decide +kernel, by decide +kernel⟩

/-- 66 elements of a page: 64 of them in the first turn; fault-first loads that have done a turn and that have not; a store behind a posted one. -/
theorem witness_VectorMemoryCompletes_turns :
    (let s := machine { user with vl := 66 } []
     let o : Ops := ⟨3, 1, 0, 2, 0, .imm 0⟩
     let w := s.who .vector
     (∀ i ∈ [(.vld o : Instr), .vst o], HeadReady i [o.T] s.cpu) ∧ Starts s
      ∧ translated (translateLoad o .unit s (activeMem s.cpu o o.mn)) (fun els s1 => (els.drop 64).length == 2 && !elemsAway s1 w els
          && decide ((loadElems o (s1.who .vector) (requestElems o (s1.who .vector) s1 (els.take 64)) (els.take 64)).2 = .done)) = true
      ∧ translated (vTranslate w .write 4 .unit (vEa o s .unit) s (activeMem s.cpu o o.mn)) (fun els s1 => decide ((els.drop 64).map (·.i) = [64, 65])
          && !elemsAway s1 w els && (performStore o s (els.take 64) s1).fail.isNone) = true)
    ∧ (let o : Ops := ⟨3, 1, 0, 2, 0, .reg 2 0x200⟩
       let s := posted (machine (behind (.vst o) user) [])
       (.vst o, VForm.unit) ∈ vectorStores o ∧ Starts s ∧ (o.releases && earlierPosts s) = true ∧ (o.releases && earlierPosts (machine user [])) = false)
    ∧ (let t := { user with g := [(1, 0x1FFF8)], queue := [{ entryOf { user with g := [(1, 0x1FFF8)] } (.vldff ⟨3, 1, 0, 2, 0, .imm 0⟩) 0 with pass := some accessPass }] }
       let o : Ops := ⟨3, 1, 0, 2, 0, .imm 0⟩
       let s := machine t []
       Starts s ∧ faulted (translateLoad o .unit s (activeMem s.cpu o o.mn)) (fun els _ c s1 => decide (0x11 ≤ c) && decide (c ≤ 0x15) && els.length ≤ 64
         && !elemsAway s1 (s.who .vector) els && started (dropTouched (loadElems o (s1.who .vector) (requestElems o (s1.who .vector) s1 els) els).1 els)) = true)
    ∧ (∃ e rest, Waits (machine (waiting (.vst ⟨3, 1, 0, 2, 0, .reg 2 0⟩) indexed [(2, 0x31, 5)] []) []) e rest
        ∧ Answered (machine (waiting (.vst ⟨3, 1, 0, 2, 0, .reg 2 0⟩) indexed [(2, 0x31, 5)] []) []) e ∧ (e.wrote.isEmpty && e.lost.isEmpty) = true) :=
  ⟨⟨by
      intro i hi
      exact headReady _ _ _ (List.all_eq_true.1 (by decide +kernel : ([(.vld _ : Instr), .vst _]).all (fun i => headB i [2] _) = true) i hi), starts _ (by decide +kernel), by decide +kernel⟩,
    ⟨by simp [vectorStores], starts _ (by decide +kernel), by decide +kernel⟩, ⟨starts _ (by decide +kernel), by decide +kernel⟩,
    waitsAnswered _ (fun e => e.wrote.isEmpty && e.lost.isEmpty) (by decide +kernel)⟩

/-- Atomics of 65 elements; words near and away; a release behind a posted store; answers and failures of the words' own pieces. -/
theorem witness_VectorAtomicsAndWaits_turns :
    (let t := { user with vl := 65, v := (List.range 65).map (fun i => (2 * 65536 + i, 4 * i)) }
     let s := ordered t []
     let o : Ops := ⟨1, 1, 0, 2, 0, .reg 2 0⟩
     let amo := fun k => amoBytes 0 2 (s.cpu.readV 1 k % 2 ^ 32)
     HeadReady (.vamo o) [o.T] t ∧ Starts s ∧ translated (vTranslate (s.who .vector) .atomic 4 .indexed (vEa o s .indexed) s (activeMem s.cpu o false)) (fun els s1 =>
        els.length == 65 && elemsHs els && !elemsAway s1 (s.who .vector) els
          && (performAll (atomicElem o (s.who .vector) false amo) true { s := s1 } (els.take 64)).fail.isNone) = true)
    ∧ (let s := machine user []
       let w := s.who .vector
       Starts s ∧ heldBack s 0x10000 = false ∧ gives (placeOf s w 0x10000 8 .atomic) (fun p s1 => !away s1 w p 8
        && answers (atomicMem s1 w 0x10000 8 (fun v => some (leBytes 8 (leNat v / 2 ^ 40 * 2 ^ 40 + (leNat v % 2 ^ 40 - 5)))))
        && answers (atomicMem s1 w 0x10000 8 (fun v => some (leBytes 8 (max (leNat v) 5))))) = true)
    ∧ gives (placeOf (awayMachine user) ((awayMachine user).who .vector) 0x10000 8 .atomic) (fun p s1 => away s1 ((awayMachine user).who .vector) p 8) = true
    ∧ (∀ i ∈ [(.vamo ⟨1, 1, 0, 2, 0, .reg 2 0x200⟩ : Instr), .vcas ⟨1, 1, 0, 2, 0, .reg 2 0x200⟩, .bytesub ⟨1, 1, 0, 15, 0, .reg 2 0x200⟩, .wmpub ⟨0, 1, 0, 15, 0, .reg 2 0⟩,
          .barrier ⟨0, 0, 0, 15, 0, .imm 0⟩], earlierPosts (posted (machine (behind i user) [])) = true)
    ∧ earlierPosts (barred 1) = false
    ∧ (∃ e rest, Waits (machine (waiting (.bytesub ⟨1, 1, 0, 15, 0, .reg 2 0⟩) user [] [(0, 0, [1, 2, 3, 4, 5, 6, 7, 8])]) []) e rest
        ∧ Answered (machine (waiting (.bytesub ⟨1, 1, 0, 15, 0, .reg 2 0⟩) user [] [(0, 0, [1, 2, 3, 4, 5, 6, 7, 8])]) []) e
        ∧ (e.fails.isEmpty && decide (e.got = [(0, 0, [1, 2, 3, 4, 5, 6, 7, 8])])) = true)
    ∧ (∀ i, WaitsAllWays i user) :=
  ⟨⟨headReady _ _ _ (by decide +kernel), starts _ (by decide +kernel), by decide +kernel⟩, ⟨starts _ (by decide +kernel), by decide +kernel⟩, by decide +kernel, by decide +kernel,
    by decide +kernel, waitsAnswered _ (fun e => e.fails.isEmpty && decide (e.got = [(0, 0, [1, 2, 3, 4, 5, 6, 7, 8])])) (by decide +kernel), fun i => waitsAllWays i _⟩

/-- Some steps of a TMAC, one after the other. -/
def accumulated (o : Ops) (x y : Lines) : Nat → Nat → State → (State → Bool) → Bool
  | 0, _, s, p => p s
  | n + 1, k, s, p => gives (pipeRead s (hintWords o.hint) x.size (x.step k ++ y.step k)) (fun got s1 =>
      (tmacAbn s1.cpu (o.D % 4) o.T ((got.map (fun g => leNat g.bytes)).take x.lines) ((got.map (fun g => leNat g.bytes)).drop x.lines)).isNone
        && accumulated o x y n (k + 1) (s1.onCpu (tmacApply (o.D % 4) o.T s1.srcRm ((got.map (fun g => leNat g.bytes)).take x.lines)
          ((got.map (fun g => leNat g.bytes)).drop x.lines))) p)

theorem accumulates (o : Ops) (x y : Lines) (p : State → Bool) : ∀ (n k : Nat) (s : State), accumulated o x y n k s p = true →
    ∃ t, Accumulates o x y n k s t ∧ p t = true
  | 0, k, s, h => ⟨s, .done k s, h⟩
  | n + 1, k, s, h => by
    obtain ⟨got, s1, e, h1⟩ := (gives_iff _ _).1 h
    simp only [Bool.and_eq_true, Option.isNone_iff_eq_none] at h1
    obtain ⟨t, ht, hp⟩ := accumulates o x y p n (k + 1) _ h1.2
    exact ⟨t, .step n k s s1 t got e h1.1 ht, hp⟩

/-- 17 steps of a TMAC: 16 of them in a turn. -/
theorem witness_MatrixCompletes_turns :
    (let s := machine { tiled with tk := 17 } []
     let o : Ops := ⟨1, 1, 1, 10, 0, .reg 2 0⟩
     let ab := tmacLines o s
     ∃ s2, Accumulates o ab.1 ab.2 (min 16 (17 - 0)) 0 s s2 ∧ (decide (0 + min 16 (17 - 0) < s2.cpu.tk)) = true)
    ∧ (let o : Ops := ⟨1, 1, 9, 10, 0, .reg 2 0x200⟩
       (o.releases && earlierPosts (posted (machine (behind (.tstacc o) tiled) []))) = true
        ∧ (o.releases && earlierPosts (machine tiled [])) = false ∧ TileReady (.tstacc o) (some 1) (some 10) tiled) :=
  ⟨accumulates _ _ _ (fun s2 => decide (0 + min 16 (17 - 0) < s2.cpu.tk)) _ _ _ (by decide +kernel),
    ⟨by decide +kernel, by decide +kernel, tileReady _ _ _ _ (by decide +kernel)⟩⟩

/-- A VDOTV whose only row lies beyond the first turn, and one that has its query; TOPKINIT and TOPKI behind a posted store; an object without entries, and one with. -/
theorem witness_VerdictsAndTopK_turns :
    (let o : Ops := ⟨3, 1, 1, 10, 1, .reg 2 0x1⟩
     let t := { user with vl := 65, m := [(65536 + 64, true)], queue := [{ entryOf user (.vdotv ⟨3, 1, 1, 10, 1, .reg 2 0x1⟩) 0 with query := some (List.replicate 64 0, [some 0]) }] }
     let s := machine t []
     activeList s.cpu { o with b := .reg 0 0 } false = [64] ∧ s.cpu.vl ≠ 0 ∧ s.cpu.vstart + 64 ≤ 64 ∧ TileReady (.vdotv o) none none t ∧ 32 ≤ t.ew
      ∧ gives (cellCheck o s) (fun _ s0 => (headQuery s0).isSome) = true ∧ s.cpu.queue ≠ [])
    ∧ (∀ i ∈ [(.topkinit ⟨0, 1, 0, 10, 0, .reg 2 0x200⟩ : Instr), .topki ⟨0, 1, 0, 10, 0, .reg 2 0x200⟩], earlierPosts (posted (machine (behind i user) [])) = true)
    ∧ (Ops.releases ⟨0, 1, 0, 10, 0, .reg 2 0x200⟩ = true ∧ (Ops.releases ⟨0, 1, 0, 10, 0, .imm 1024⟩ && earlierPosts (machine user [])) = false)
    ∧ (let s := machine user (cells [(0x10000, 2), (0x10008, 0xFF800000), (0x10010, 1)])
       gives (topkPlace s 0x10000 .atomic) (fun p s1 => (match topkRead s1 (s1.who .vector) p with
            | .ok k _ => k.entries.isEmpty
            | _ => false)
          && (writePlace s1 (s1.who .vector) .engine p (leBytes 4 2 ++ leBytes 4 0 ++ leBytes 8 0xFF800000 ++ leBytes 4 1 ++ leBytes 4 0) false).2 == .ok) = true)
    ∧ (fdecode fmt32 0x3F800000).isNan = false :=
  ⟨⟨by decide +kernel, by decide +kernel, by decide +kernel, tileReady _ _ _ _ (by decide +kernel), by decide +kernel⟩, by decide +kernel, by decide +kernel, by decide +kernel,
    by decide +kernel⟩

theorem witness_StreamsAndTablesComplete_release :
    (let o : Ops := ⟨0, 1, 0, 2, 0, .reg 2 0x200⟩
     let s := posted (machine (behind (.hinit o) { user with g := [(1, 0x10000), (2, 64)] }) [])
     (o.releases && earlierPosts s) = true ∧ (o.releases && earlierPosts (machine user [])) = false ∧ hashSlotsOk (s.srcB o.b).toNat = true ∧ (s.srcG o.A).toNat % 64 = 0)
    ∧ (let s := hashed user
       (headPass s).isNone = true ∧ gives (rangeOf s (s.who .vector) 0x10000 (64 + 16 * 64) .atomic) (fun ps _ => ps.length == 1) = true)
    ∧ headPass (machine (between (.hacc ⟨3, 1, 0, 2, 0, .reg 2 0⟩) user { desc := [1] }) []) ≠ none := by decide +kernel

/-- A buffer of slots of 512 bytes: a claim's first step, and its second. -/
def wideBuffer (t : Strand) : State :=
  machine { t with g := [(1, 0x10800), (4, 0x10000)] } (cells [(0x10000, 0x11000), (0x10008, 512 + 2 * 2 ^ 32), (0x10010, 1)])

theorem witness_EnginesComplete_steps :
    (let s := wideBuffer user
     let w := s.who .vector
     gives (readCb s w 0x10000) (fun x s1 => gives (cbTranslate s1 w 0x10800 0x10000 x.2) (fun _ s2 =>
        (headClaim s2).isNone && gives (claimCb s2 w 0x10000) (fun y s3 =>
          match y with
          | (_, _, some k) => decide (256 < k.buf.size) && (headPass s2).isNone && (headPass s3).isNone && answers (cbMove s3 w 0x10800 k.buf k.slot 0)
          | _ => false))) = true)
    ∧ (let s := wideBuffer { user with queue := [{ entryOf { user with g := [(1, 0x10800), (4, 0x10000)] } (.cbcopy ⟨4, 1, 0, 15, 0, .imm 0⟩) 0 with
                                                     claim := some (0x10000, 0, 0), pass := some { n := 256 } }] }
       let w := s.who .vector
       gives (readCb s w 0x10000) (fun x s1 => gives (cbTranslate s1 w 0x10800 0x10000 x.2) (fun _ s2 =>
        (headClaim s2 == some (0x10000, 0, 0)) && decide (((headPass s2).map (·.n)).getD 0 = 256) && decide (x.2.size ≤ 256 + 256)
          && gives (cbMove s2 w 0x10800 x.2 0 256) (fun _ s3 => (fillCb s3 w x.1 0).2 == .ok))) = true)
    ∧ earlierPosts (posted (machine (behind (.cbfree ⟨0, 1, 0, 15, 0, .reg 2 0⟩) user) [])) = true
    ∧ earlierPosts (machine user []) = false
    ∧ (let o : Ops := ⟨4, 1, 0, 15, 0, .reg 2 0x200⟩
       let s := posted (machine (behind (.copy o) { user with g := [(1, 0x10000), (2, 257), (4, 0x10400)] }) [])
       (o.releases && earlierPosts s) = true ∧ 0 < (s.srcB o.b).toNat ∧ (s.srcB o.b).toNat ≤ 2 ^ 24) := by decide +kernel

/-- A release behind a posted store; an ordered flag of no byte; a shoot-down still to be acknowledged, and none. -/
theorem witness_FabricComplete_release :
    (let o : Ops := ⟨4, 1, 5, 15, 0, .reg 2 0x200⟩
     let s := posted (machine (behind (.rsend o) sender) [])
     Starts s ∧ (o.releases && earlierPosts s) = true ∧ (o.releases && earlierPosts (opened sender [])) = false)
    ∧ (let s := opened { sender with g := [(1, 0x10000), (2, 0), (4, 0x10100), (5, 0x10200)] } []
       gives (rangeOf s (s.who .vector) 0x10100 0 .write) (fun dst s1 => dst.isEmpty && oneDie s1 s1.cpu 0x10100 0 (some 0x10200)) = true)
    ∧ (let n : Memory := cells [(0x12000, 2 ^ 63), (0x13000, 0x10000), (0x13008, 0x10000), (0x13010, 3)]
       let e := entryOf user (.wrevoke ⟨0, 0, 0, 15, 0, .imm 0⟩) 0
       let s := { machine { user with queue := [{ e with begun := true, op := 9, acks := [0] }] } n with vis := [(0, { wintab := 0x13000, nodemap := 0x12000, nodecnt := 1 })] }
       headBegun s = some 9 ∧ headAcks s ≠ [] ∧ nodePackages s 0 = [0])
    ∧ headAcks (windowed 3 true) = [] := by
  refine ⟨⟨starts _ (by decide +kernel), by decide +kernel⟩, by decide +kernel, by decide +kernel, by decide +kernel⟩

/-- A run whose graph has one step of each kind: a PUT of 16 bytes with a counter, a contribution, a WAIT, a LOCAL copy. -/
def stepping (k : Nat) (counted : Nat) : State :=
  let step := fun (n c : Nat) (b : Nat) => ({ kind := n, src := 0, dst := 0, cnt := c, expected := 1, bytes := b, soff := 0x10000, doff := 0x10100, coff := 0x10200, slot := 0 } : CollStep)
  { opened { user with runs := [{ id := 5, graph := 0, step := k, status := 0, level := .u, base := List.replicate 16 0, run := 0 }] } [(0x10200, counted)] with
      arg := { key := 1, index := 5 },
      dies := [(0, { regs := [(0, { vi := 0, base := 0x10000, bytes := 0x10000, revoking := false })],
                     graphs := [(graphKey 0 0, { ty := 10, op := 0, steps := [step 1 0 16, step 2 15 16, step 3 0 16, step 4 15 256] })] })] }

def stepOf (k counted : Nat) (p : State → Who → CollStep → Bool) : Bool :=
  let s := stepping k counted
  match s.task? s.arg.key with
  | none => false
  | some u => decide (u.deferSince = none) && (match u.runs.find? (fun r => r.id = s.arg.index) with
    | none => false
    | some r => (match (runGraph s u r).bind (fun g => g.steps[r.step]?) with
      | none => false
      | some x => p s { vi := u.vi, pkg := u.pkg, die := u.die, core := u.core, level := r.level, tlb := some .vector, tid := u.tid } x))

theorem witness_CollectivesComplete_steps :
    stepOf 0 0 (fun s w x => x.kind == 1 && oneDie s s.cpu 0x10100 16 (some 0x10200) && gives (rangeOf s w 0x10000 16 .read) (fun sps s1 => gives (rangeOf s1 w 0x10100 16 .write) (fun _ s2 =>
        gives (counterPlace s2 w (some 0x10200)) (fun _ s3 => (readMarked w s3 sps).1.all (fun y => !y.2))))) = true
    ∧ oneDie (stepping 0 0) user (2 ^ 37 - 8) 16 none = false
    ∧ stepOf 1 0 (fun s w x => x.kind == 2 && gives (rangeOf s w 0x10000 16 .read) (fun _ s1 => gives (rangeOf s1 w 0x10100 16 .write) (fun dps s2 => dps.length == 1
        && answers (counterPlace s2 w none)))) = true
    ∧ ([0, 16].all (fun n => stepOf 2 n (fun s w x => x.kind == 3 && gives (placeOf s w 0x10200 8 .atomic) (fun p s1 => gives (readPlaces w 0 0x10200 s1 [(p, 8)]) (fun b s2 =>
        let held := leNat b.bytes
        decide (16 ≤ held % 2 ^ 40 ∨ 2 ^ 63 ≤ held % 2 ^ 64) == (n == 16)
          && (atomicPlace s2 w p 8 (fun v => some (leBytes 8 (leNat v / 2 ^ 40 * 2 ^ 40 + (leNat v % 2 ^ 40 - 16))))).2.1 == .ok))))) = true
    ∧ stepOf 3 0 (fun s w x => x.kind == 4 && gives (rangeOf s w 0x10000 256 .read) (fun _ s1 => answers (rangeOf s1 w 0x10100 256 .write))) = true := by decide +kernel

/-- A piece of a vector load on a page whose other pieces are there, and on one where another is missing; a packet held for a page, and for its flag. -/
theorem witness_PiecesAndPacketsEnd_more :
    (let p := piece (.write [5] false)
     let s := pending p []
     LocalEvent s p .ccPieceEnd ∧ LocalEvent s { p with busyAt := some 0 } .nackRetry ∧ LocalEvent s (piece (.xsend 0x10800 0 0x10400)) .xsendRetry
      ∧ p.replied = false ∧ (p.isLoad && staleRequest s p) = false ∧ p.again = false ∧ (∀ t, p.busyAt = some t → t + 1000 ≤ s.time))
    ∧ (let p := piece (.loads 3 2 [(0, 0, 0, 4)])
       let s := pending p []
       performed (performFull s p) (fun st => st == .ok) = true ∧ p.isLoad = true ∧ (p.isLoad && staleRequest s p) = false
        ∧ (match performFull s p with
           | .done s1 st q =>
             let u := onPiece (onPiece (afterPerform s1 q st) q.id (performedAs q st)) q.id (fun x => { x with replied := true, performed := some st, busyAt := none, busySince := none })
             (u.pieces.filter (fun x => x.op = q.op && x.isLoad)).all (fun x => x.replied)
           | _ => false) = true
        ∧ (let r := { p with id := 2 }
           (({ s with pieces := [p, r] } : State).pieces.filter (fun x => x.op = p.op && x.isLoad && decide (x.place.va.toNat / 65536 = p.place.va.toNat / 65536))).any (fun x => !x.replied) = true))
    ∧ (let p := { piece (.flag [5] 1 []) with remote := true }
       let s := { arriving .orderedFlag p (opened user []) with
                    dies := [(0, { flags := [{ stream := 0, need := 1, packet := 1, entry := some 0 }], regs := [(0, { vi := 0, base := 0x10000, bytes := 0x10000, revoking := false })] })] }
       (match performFull (taken s) p with
        | .wait s1 => (s1.die (placeDie s1 p.place)).flags.any (fun f => f.packet = p.id)
        | _ => false) = true)
    ∧ (let p := { piece (.write [5] false) with remote := true, place := { kind := .pg, ha := 0x10000, va := 0x10000, gen := 1 } }
       let s := arriving .write p { machine user (cells [(0x12000, 2 ^ 63), (0x14000, 0x15001), (0x15008, 0x1081D)]) with
          vis := [(0, { nodemap := 0x12000, nodecnt := 1 })], chans := [(0, { roots := [(0, 0x14000)], freeFrames := [5] })] }
       (match performFull (taken s) p with
        | .wait s1 => !((s1.die (placeDie s1 p.place)).flags.any (fun f => f.packet = p.id))
        | _ => false) = true)
    ∧ (let p := { piece (.loads 3 2 [(0, 0, 0, 4)]) with remote := true }
       let s := arriving .readReply p (machine user [])
       (onPiece (forget (taken s) p.id) p.id (fun x => { x with replied := true })).pieces.all (fun x => x.replied) = true ∧ p.isLoad = true ∧ p.again = false) := by
  refine ⟨⟨.inl rfl, .inr (.inl ⟨rfl, by decide +kernel⟩), .inr (.inr (.inl ⟨rfl, _, _, _, rfl⟩)), by decide +kernel, by decide +kernel, by decide +kernel, ?_⟩,
    by decide +kernel, by decide +kernel, by decide +kernel, by decide +kernel⟩
  intro t h
  cases h

theorem witness_PiecesAndPacketsEnd_deliver :
    (let s := { spilled with pieces := [{ piece (.fetch { kind := .pg, ha := 0x10000, va := 0x10000, gen := 1 } 8) with performed := some .ok }] }
     waits (deliver s { piece (.fetch { kind := .pg, ha := 0x10000, va := 0x10000, gen := 1 } 8) with performed := some .ok } .ok) = true) := by decide +kernel

/-- The bytes of a record of one task on each core of the package, with a done address, a kernel argument bank and a barrier level. -/
def recordBytes (magic extent flags kcount done : Nat) : List Byte :=
  leBytes 4 magic ++ leBytes 2 1 ++ leBytes 2 1 ++ leBytes 8 0x10000 ++ leBytes 8 0x10000 ++ leBytes 2 kcount ++ leBytes 1 3 ++ leBytes 1 0 ++ leBytes 4 0
    ++ leBytes 1 8 ++ leBytes 1 32 ++ leBytes 1 1 ++ leBytes 1 0 ++ leBytes 4 0 ++ leBytes 8 done ++ leBytes 8 0 ++ leBytes 4 0 ++ leBytes 4 0
    ++ (leBytes 4 1 ++ leBytes 1 3 ++ leBytes 1 2 ++ leBytes 10 0) ++ (leBytes 4 1 ++ leBytes 1 2 ++ leBytes 1 1 ++ leBytes 1 flags ++ leBytes 9 0)
    ++ (leBytes 4 extent ++ leBytes 1 1 ++ leBytes 1 0 ++ leBytes 10 0) ++ leBytes (5 * 16 + 128 + 192) 0

/-- The checks of a record of one of those forms, up to the one that refuses it. -/
def judges (b : List Byte) (format levels resources gangs : Bool) : Bool :=
  let s := roomy
  let r := recordOf b
  formatOk r == format && (!format || ((levelsLegal r && homesOk s 0 0 r) == levels && (!levels || gives (deviceRead s 0 0 r.kaddr (8 * r.kcount)) (fun _ s1 =>
    gives (deviceRead s1 0 0 r.pub (if r.pub = 0 then 0 else 64)) (fun _ s2 => resourcesOk s2 0 0 r == resources && (!resources || gangsFit s2 0 0 r == gangs))))))
    && decide (r.done.toNat % 8 = 0) && answers (writeMem s (deviceWho 0 0) .outside r.done (leBytes 4 2 ++ leBytes 4 0 ++ leBytes 8 0 ++ leBytes 8 0 ++ leBytes 8 0) false)

theorem witness_LaunchEvents_records :
    judges (recordBytes 0x4E4C4244 1 0 1 0x10000) true true true true = true
    ∧ judges (recordBytes 0x4E4C4245 1 0 0 0x10000) false false false false = true
    ∧ judges (recordBytes 0x4E4C4244 0 0 0 0x10000) true false false false = true
    ∧ judges (recordBytes 0x4E4C4244 5 1 0 0x10000) true true true false = true
    ∧ (let r := recordOf (recordBytes 0x4E4C4244 1 0 0 4)
       r.done.toNat % 8 ≠ 0 ∧ formatOk r = false)
    ∧ (let s := { roomy with vis := [(0, { nodemap := 0x12000, nodecnt := 1, quota := 0 })] }
       let b := recordBytes 0x4E4C4244 1 0 0 0x10000
       let r := recordOf ((b.take 0x1C) ++ leBytes 4 256 ++ b.drop 0x20)
       formatOk r = true ∧ (levelsLegal r && homesOk s 0 0 r) = true ∧ resourcesOk s 0 0 r = false)
    ∧ (match deviceRead { roomy with chans := [] } 0 0 0x10000 8 with
       | .fault _ _ _ => true
       | _ => false) = true := by decide +kernel

/-- A ring whose oldest entry names a record in the page, one whose entry is misaligned, and a submitted record. -/
def ringed (entry : Nat) : State :=
  { mapped user (cells (tables ++ [(0x10000, entry)])) with viPkgs := [(0, { ringBase := 0x10000, ringSize := 6, tail := 1 })] }

theorem witness_LaunchEvents_accept :
    (let s := ringed 0x10200
     s.arg.submitted = false ∧ (s.viPkg 0 0).head ≠ (s.viPkg 0 0).tail ∧ (∀ y ∈ s.hostWaits, ¬ (y.2 = true ∧ y.1.pkg = 0)) ∧ (s.pkg 0).stage = 4
      ∧ gives (deviceRead s 0 0 0x10000 8) (fun e s1 => decide (leNat e = 0x10200) && gives (deviceRead s1 0 0 0x10200 512) (fun b s2 => answers (acceptRecord s2 0 0 b 0 false))) = true)
    ∧ gives (deviceRead (ringed 0x10201) 0 0 0x10000 8) (fun e _ => decide (leNat e % 64 ≠ 0)) = true
    ∧ (let s := { mapped user (cells tables) with viPkgs := [(0, { submitted := [(0x10000, 1)] })], arg := { submitted := true } }
       s.arg.submitted = true ∧ (s.viPkg 0 0).submitted = [(0x10000, 1)] ∧ gives (deviceRead s 0 0 0x10000 512) (fun b s1 => answers (acceptRecord s1 0 0 b 1 true)) = true)
    ∧ (let a : EventArg := { pkg := 0 }
       let s := { ringed 0x10200 with hostWaits := [(a, true)] }
       ∃ y ∈ s.hostWaits, y.2 = true ∧ y.1.pkg = 0)
    ∧ ((machine user []).viPkg 0 0).submitted = [] := by decide +kernel

/-- A task that has been saved is on no strand. -/
theorem freed (s : State) (n : Nat) : (freeStrand s n).task? n = none := by
  simp only [State.task?, State.strands, freeStrand, List.find?_eq_none, List.mem_cons, List.mem_filter]
  rintro t (rfl | ht)
  · split
    · simp [idleAt]
    · rename_i g
      simp [g]
  · have g : ¬ t.tid = n := by simpa using ht.2
    simp [g]

theorem savedTask (s : State) (t : Strand) (n : Nat) (hn : freeSlot s (dieKey t.pkg t.die) t.vi = some n) : (saveGroup s [t] []).task? t.tid = none := by
  have saves : ∀ (u : State) (a : Nat) (r : Option (List Byte)) (b : Bool), ∃ v, saveStrand u t a (some n) r b = freeStrand v t.tid := fun u a r b => ⟨_, rfl⟩
  have drops : ∀ (u : State) (ck : Nat), (dropRegion u ck t.lid).task? t.tid = u.task? t.tid := by
    intro u ck
    simp only [dropRegion]
    split <;> rfl
  simp only [saveGroup, hn, List.any_nil, Bool.false_eq_true, if_false, drops]
  generalize State.setDie _ _ _ = u
  obtain ⟨v, hv⟩ := saves u (slotHa s t.pkg t.die t.vi n) (if [].contains (coreKey t.pkg t.die t.core * 2 ^ 32 + t.lid) = true then none else
    (regionBytes s (coreKey t.pkg t.die t.core) t.lid).1) (regionBytes s (coreKey t.pkg t.die t.core) t.lid).2
  rw [hv]
  exact freed v t.tid

/-- A victim whose pre-emption is refused, and one whose group is saved at once. -/
theorem witness_LaunchEvents_victims :
    (let s := contended
     let f : State → Strand → Bool := fun _ u => decide (u.lid = 2)
     firstVictim s (s.strands.filter (fun t => t.tid ≠ 0 && f s t)) = some s.cpu ∧ ((requestPreempt s s.cpu).task? s.cpu.tid).isNone = true
      ∧ ((requestPreempt { s with vis := [] } s.cpu).task? s.cpu.tid).isSome = true
      ∧ firstVictim s (s.strands.filter (fun t => t.tid ≠ 0 && decide (t.lid = 9))) = none)
    ∧ holdsNeeded contended (fun t => decide (t.lid = 2)) (contended.launches.headD (aLaunch .ready 1 [])) contended.cpu = true := by
  refine ⟨⟨by decide +kernel, ?_, by decide +kernel, by decide +kernel⟩, by decide +kernel⟩
  have a : residentGroup contended contended.cpu = [contended.cpu] := by decide +kernel
  have b : groupPackages contended contended.cpu = [] := by decide +kernel
  have c : ([contended.cpu].any (fun u => haltedPkg contended u.pkg), slotsFor contended [contended.cpu], [contended.cpu].any (insideStep contended)) = (false, true, false) := by decide +kernel
  simp only [Prod.mk.injEq] at c
  have d : freeSlot contended (dieKey contended.cpu.pkg contended.cpu.die) contended.cpu.vi = some 0 := by decide +kernel
  simp only [requestPreempt, b, preemptGroup, a, c.1, c.2.1, c.2.2, Bool.false_eq_true, if_false, Bool.not_true, false_and, Option.isNone_iff_eq_none]
  have e : ∀ u g, (leaveSlots (waitAgain u g) g).task? contended.cpu.tid = u.task? contended.cpu.tid := fun u g => rfl
  rw [e]
  exact savedTask contended contended.cpu 0 d

theorem witness_SaveAndPagingEvents_groups :
    (let s := { machine user [] with arg := { key := 1 }, vis := [(0, { parkbase := 2 })] }
     let g := residentGroup s user
     (∀ u ∈ g, (s.pkg u.pkg).stage ≠ 15) ∧ slotsFor s g = true ∧ g.any (insideStep s) = false ∧ freeSlot s (dieKey user.pkg user.die) user.vi = some 0
      ∧ slotsFor (machine user []) (residentGroup (machine user []) user) = false
      ∧ (∃ u ∈ residentGroup { s with pkgs := [(0, { stage := 15 })] } user, (({ s with pkgs := [(0, { stage := 15 })] } : State).pkg u.pkg).stage = 15))
    ∧ (let t := { user with runs := [{ id := 5, graph := 0, step := 1, status := 0, level := .u, base := [], run := 0 }] }
       let s := { machine t [] with vis := [(0, { parkbase := 2 })], pieces := [{ aPiece with tid := 1, run := some 5, elem := 0, what := .copy [({ kind := .pg, ha := 0x10000, va := 0x10000 }, 256)] [({ kind := .pg, ha := 0x10100, va := 0x10100 }, 256)] }] }
       insideStep s t = true)
    ∧ (∀ u ∈ savedGroup (parked (lost 1)) (lost 1).strand, (parked (lost 1)).task? u.tid = none)
    ∧ (let s := { spilled with mem := cells [(0x12000, 2 ^ 63), (0x14000, 0x880000000000083F)] }
       (walk s 0 0 0 0 0x10000).map (fun x => (x.2.big, x.2.sp)) = some (true, true)) := by decide +kernel

theorem witness_PlatformEvents_more :
    (let s := { mapped user (cells tables) with arg := { submitted := true, key := 0x10000, value := 8 } }
     s.arg.submitted = true ∧ answers (readMem s (hostWho s) 0x10000 8 0 .read) = true)
    ∧ (let p : PkgSt := { retirementMap := [(3, 2 ^ 17)] }
       3 % 128 < 80 ∧ (cellGet 0 p.retirementMap 3).testBit 17 = true ∧ (∀ y ∈ p.spareMap, y.1 ≠ 3 ∧ y.2 ≠ 3)
        ∧ (spareCores (3 / 128)).find? (fun y => !p.spareMap.any (fun z => z.2 = y) && !(cellGet 0 p.retirementMap y).testBit 17) = some 80)
    ∧ (∀ y ∈ ({ retirementMap := [(3, 1)] } : PkgSt).retirementMap, y.2.testBit 17 = false)
    ∧ ((∀ k ∈ (machine user []).wire, k.srcPkg ≠ 0 ∧ k.dstPkg ≠ 0) ∧ (∀ q ∈ (machine user []).pieces, q.srcPkg ≠ 0 ∧ placeDie (machine user []) q.place / 8 ≠ 0)
      ∧ (∃ q ∈ ({ machine user [] with pieces := [aPiece] } : State).pieces, q.srcPkg = 0))
    ∧ (let d : DieSt := { thermal := [(0, 100), (15, 91)], hotSince := some 0, volts := [(7, 949)] }
       d.hotSince = some 0 ∧ 0 + 100000 ≤ 100000 ∧ d.lastStep = 0 ∧ (∃ y ∈ d.thermal, 92 ≤ y.2) ∧ (∃ y ∈ d.volts, y.2 < 950))
    ∧ (let d : DieSt := { thermal := [(0, 91)], volts := [(0, 950)] }
       (∀ y ∈ d.thermal, y.2 < 92) ∧ d.coolSince.getD 0 + 10000000 ≤ 10000000 ∧ (∀ y ∈ d.volts, 950 ≤ y.2) ∧ (∀ y ∈ d.thermal, y.2 < 100) ∧ (15 : Nat) < 16)
    ∧ (∃ y ∈ ({ thermal := [(3, 110)] } : DieSt).thermal, 110 ≤ y.2) ∧ (∃ y ∈ ({ thermal := [(3, 120)] } : DieSt).thermal, 120 ≤ y.2)
    ∧ (let p : PkgSt := { module := true }
       p.lastModulePower = 0 ∧ p.lastPower = 0) := by decide +kernel

end Sys2Proof.Tests
end

/-! The obligations of spec/00_scope.md: what a completing instruction leaves unchanged (R8), and that memory reads what was written to it (R3). -/

namespace Sys2Proof.Proofs.Scope

open Sys2Proof Sys2Proof.Machine Sys2Proof.Safety Sys2Proof.Claims Sys2Proof.Laws

/-! The frame of a completion. -/

/-- R391: a write of a g register poisons nothing. -/
theorem mem_poison_of_mem_writeG (t : Strand) (n p : Nat) (x : Word) (h : p ∈ (t.writeG n x).poison) : p ∈ t.poison := by
  unfold Strand.writeG at h
  split at h
  · exact h
  · exact List.mem_of_mem_filter h

@[simp] theorem wroteFlags_readG (s : State) (o : Ops) (x : Word) (fl : Flags) (n : Nat) :
    (wroteFlags s o x fl).cpu.readG n = (s.cpu.writeG o.D x).readG n := rfl

/-- Of the strand, a scalar result with flags changes D, the poison marks, FPFLAGS and what every commit changes. -/
theorem wroteFlags_restored (s : State) (o : Ops) (x : Word) (fl : Flags) :
    { (wroteFlags s o x fl).cpu with g := s.cpu.g, poison := s.cpu.poison, fpflags := s.cpu.fpflags, pc := s.cpu.pc, parked := s.cpu.parked,
                                     stepDone := s.cpu.stepDone } = s.cpu := by
  unfold wroteFlags State.commit State.onCpu Strand.advance Strand.orFlags Strand.writeG
  split <;> rfl

/-- A scalar result with flags, field by field (R216, R217). -/
theorem wroteFlags_frame (s : State) (o : Ops) (x : Word) (fl : Flags) :
    let t := wroteFlags s o x fl
    (∀ n, n ≠ o.D → t.cpu.readG n = s.cpu.readG n) ∧ (o.D ≠ 0 → t.cpu.readG o.D = x) ∧ t.cpu.readG 0 = 0
      ∧ t.cpu.fpflags = s.cpu.fpflags ||| fl ∧ t.cpu.pc = s.cpu.pc + o.bytes := by
  refine ⟨fun n hn => ?_, fun hD => ?_, rfl, ?_, ?_⟩
  · simp [readG_writeG_other _ _ _ _ hn]
  · simp [hD]
  · simp [wroteFlags, Strand.orFlags]
  · simp [wroteFlags]

/-- Settles O21: each completion is a record update of the strand; of a g register's write, the one with two cases (g0 discards it), `writeG`'s own
laws say what it changes. -/
theorem completionFrame : Obligations.CompletionFrame := by
  intro s o x fl f t
  obtain ⟨hother, hD, hg0, hflags, hpc⟩ := wroteFlags_frame s o x fl
  refine ⟨rfl, wroteFlags_restored s o x fl, hother, hD, hg0, hflags, hpc, fun n hn => mem_poison_of_mem_writeG s.cpu o.D n x hn, ?_, ?_, ?_, rfl⟩
  · simp [wrote]
  · exact ⟨rfl, rfl, fun hf => hf ▸ rfl⟩
  · exact ⟨rfl, rfl, rfl, rfl, rfl, rfl, rfl, rfl, rfl, rfl, rfl⟩

/-! Bytes and little-endian values. -/

/-- Memory reads the bytes last written to a range. -/
theorem memRead_memWrite (bs : List Byte) : ∀ (m : Memory) (a : Nat), memRead (memWrite m a bs) a bs.length = bs := by
  induction bs with
  | nil => intro m a; rfl
  | cons b bs ih =>
    intro m a
    have hb : memGet (memWrite (memSet m a b) (a + 1) bs) a = b := by simp [memGet_memWrite]
    simp [memRead, memWrite, hb, ih]

/-- The value of `n` bytes is below 256 to the power `n`. -/
theorem leNat_lt (bs : List Byte) : leNat bs < 256 ^ bs.length := by
  induction bs with
  | nil => simp [leNat]
  | cons b bs ih =>
    have hb := b.isLt
    rw [leNat, List.length_cons, Nat.pow_succ]
    omega

/-- R3: the bytes of a value that some bytes have give that value again. -/
theorem leNat_leBytes_leNat (bs : List Byte) : leNat (leBytes bs.length (leNat bs)) = leNat bs := by
  rw [leNat_leBytes, Nat.mod_eq_of_lt (leNat_lt bs)]

/-! A write at a plain home. -/

/-- A use of a home changes the caches of a die alone. -/
@[simp] theorem useHome_chan (s : State) (vi rc ha n hint : Nat) (u : FrameUse) (host : Bool) (k : Nat) :
    (useHome s vi rc ha n hint u host).chan k = s.chan k := by
  unfold useHome; split <;> rfl

@[simp] theorem useHome_pkgs (s : State) (vi rc ha n hint : Nat) (u : FrameUse) (host : Bool) : (useHome s vi rc ha n hint u host).pkgs = s.pkgs := by
  unfold useHome; split <;> rfl

@[simp] theorem useHome_poison (s : State) (vi rc ha n hint : Nat) (u : FrameUse) (host : Bool) :
    (useHome s vi rc ha n hint u host).poison = s.poison := by
  unfold useHome; split <;> rfl

/-- A home where bytes stand as they are: a scratchpad, or a channel with no format region (R96). -/
abbrev Unformatted (s : State) (ha : Nat) : Prop := haIsScratch ha = true ∨ (s.chan (haChanKey ha)).regs = []

theorem unformatted_cond {s : State} {ha : Nat} (h : Unformatted s ha) : (haIsScratch ha || (s.chan (haChanKey ha)).regs.isEmpty) = true := by
  rcases h with h | h <;> simp [h]

/-- A store at an unformatted home changes memory, and clears poison marks. -/
theorem storeBytes_unformatted (s : State) (ha : Nat) (bs : List Byte) (inv : Bool) (h : Unformatted s ha) :
    storeBytes s ha bs inv = { s with mem := memWrite s.mem ha bs,
                                      poison := s.poison.filter (fun w => !(decide (ha ≤ w * 8) && decide (w * 8 + 8 ≤ ha + bs.length))) } := by
  simp [storeBytes, unformatted_cond h]

theorem homeBytes_unformatted (s : State) (ha n : Nat) (h : Unformatted s ha) : homeBytes s ha n = memRead s.mem ha n := by
  simp [homeBytes, unformatted_cond h]

/-- R96: no packed data stand at an unformatted home. -/
theorem not_meetsPacked_of_unformatted (s : State) (ha n : Nat) (h : Unformatted s ha) :
    (!haIsScratch ha && meetsPacked (s.chan (haChanKey ha)) (haOff ha) n) = false := by
  rcases h with h | h <;> simp [h, meetsPacked]

/-- R96, R137: a plain home with no open window over it accepts a write. -/
theorem homeWrite_plain (s : State) (vi rc ha : Nat) (bs : List Byte) (inv : Bool) (hne : bs ≠ []) (hp : PlainHome s ha bs.length)
    (hw : frameRefused s ha = false) :
    homeWrite s vi rc ha bs inv = (noteWrite (useHome (storeBytes s ha bs inv) vi rc ha bs.length 0 .write false) ha bs.length, .ok) := by
  obtain ⟨hu, hpois⟩ := hp
  simp [homeWrite, hne, hw, hpois, not_meetsPacked_of_unformatted s ha bs.length hu]

section PlainWrite

variable (s : State) (vi rc ha : Nat) (bs : List Byte) (inv : Bool) (hne : bs ≠ []) (hp : PlainHome s ha bs.length) (hw : frameRefused s ha = false)
include hne hp hw

theorem homeWrite_plain_mem : (homeWrite s vi rc ha bs inv).1.mem = memWrite s.mem ha bs := by
  rw [homeWrite_plain s vi rc ha bs inv hne hp hw, (noteWrite_same ..).1, (useHome_same ..).1, storeBytes_mem s ha bs inv hp.1]

theorem homeWrite_plain_chan (k : Nat) : (homeWrite s vi rc ha bs inv).1.chan k = s.chan k := by
  rw [homeWrite_plain s vi rc ha bs inv hne hp hw, storeBytes_unformatted s ha bs inv hp.1]
  exact useHome_chan ..

theorem homeWrite_plain_pkgs : (homeWrite s vi rc ha bs inv).1.pkgs = s.pkgs := by
  rw [homeWrite_plain s vi rc ha bs inv hne hp hw, storeBytes_unformatted s ha bs inv hp.1]
  exact useHome_pkgs ..

/-- A write poisons nothing (R391). -/
theorem homeWrite_plain_poison : ∀ w ∈ (homeWrite s vi rc ha bs inv).1.poison, w ∈ s.poison := by
  rw [homeWrite_plain s vi rc ha bs inv hne hp hw, storeBytes_unformatted s ha bs inv hp.1]
  intro w h
  simp only [noteWrite, onStrands_poison, useHome_poison] at h
  exact List.mem_of_mem_filter h

/-- R3: the home reads the bytes written. -/
theorem homeBytes_homeWrite_plain : homeBytes (homeWrite s vi rc ha bs inv).1 ha bs.length = bs := by
  have hu : Unformatted (homeWrite s vi rc ha bs inv).1 ha := by
    unfold Unformatted
    rw [homeWrite_plain_chan s vi rc ha bs inv hne hp hw]
    exact hp.1
  rw [homeBytes_unformatted _ _ _ hu, homeWrite_plain_mem s vi rc ha bs inv hne hp hw, memRead_memWrite]

/-- R3: a byte outside the ones written reads as before. -/
theorem memGet_homeWrite_plain_outside (a : Nat) (h : a < ha ∨ ha + bs.length ≤ a) :
    memGet (homeWrite s vi rc ha bs inv).1.mem a = memGet s.mem a := by
  have hout : ¬ (ha ≤ a ∧ a < ha + bs.length) := by omega
  rw [homeWrite_plain_mem s vi rc ha bs inv hne hp hw, memGet_memWrite, if_neg hout]

end PlainWrite

/-! Accesses to one scratchpad place. -/

/-- A range in which no word is poisoned stays so where no poison mark is new. -/
theorem not_homePoisoned_of_subset (s t : State) (ha n : Nat) (hsub : ∀ w ∈ t.poison, w ∈ s.poison) (h : homePoisoned s ha n = false) :
    homePoisoned t ha n = false := by
  rw [homePoisoned, List.any_eq_false] at h ⊢
  exact fun w hw => h w (hsub w hw)

/-- R368: whether a place outside any window is cut off depends on the packages alone. -/
theorem cutOff_congr (s t : State) (w : Who) (p : Place) (n : Nat) (hp : p.window = none) (h : t.pkgs = s.pkgs) : cutOff t w p n = cutOff s w p n := by
  simp [cutOff, windowHeld, hp, silent, State.pkg, h]

/-- R254: a scalar load of a scratchpad place reads that place's memory. -/
theorem loadPlaces_scratch (s : State) (w : Who) (hint : Nat) (v : Word) (p : Place) (n : Nat) (hk : p.kind = .scratch)
    (hc : cutOff s w p n = false) (hp : homePoisoned s p.ha n = false) :
    loadPlaces w hint v s [(p, n)] = .ok (memRead s.mem p.ha n) s := by
  simp [loadPlaces, readPlaces, readPlace, l1May, Acc.andThen, hk, hc, hp]

/-- A store to a scratchpad place is a write at its home. -/
theorem writePlaces_scratch (s : State) (w : Who) (k : WriteKind) (inv : Bool) (p : Place) (bs : List Byte) (hk : p.kind = .scratch)
    (hc : cutOff s w p bs.length = false) : writePlaces w k inv s [(p, bs.length)] bs = homeWrite s w.vi 0 p.ha bs false := by
  have horElse (st : Status) : st.orElse .ok = st := by cases st <;> rfl
  simp [writePlaces, writePlace, hk, hc, horElse]

theorem frameRefused_scratch (s : State) (ha : Nat) (h : haIsScratch ha = true) : frameRefused s ha = false := by simp [frameRefused, h]

/-- R254: a load of a scratchpad place after a store to it returns what was stored. -/
theorem loadPlaces_writePlaces_scratch (s : State) (w : Who) (p : Place) (bs : List Byte) (hk : p.kind = .scratch) (hwin : p.window = none)
    (hha : haIsScratch p.ha = true) (hne : bs ≠ []) (hpois : homePoisoned s p.ha bs.length = false) (hc : cutOff s w p bs.length = false) :
    ∃ s1 s2, writePlaces w .store false s [(p, bs.length)] bs = (s1, .ok) ∧ loadPlaces w 0 p.va s1 [(p, bs.length)] = .ok bs s2 := by
  have hp : PlainHome s p.ha bs.length := ⟨.inl hha, hpois⟩
  have hw := frameRefused_scratch s p.ha hha
  have hok : (homeWrite s w.vi 0 p.ha bs false).2 = .ok := by rw [homeWrite_plain s w.vi 0 p.ha bs false hne hp hw]
  have hc1 := cutOff_congr s (homeWrite s w.vi 0 p.ha bs false).1 w p bs.length hwin (homeWrite_plain_pkgs s w.vi 0 p.ha bs false hne hp hw)
  have hpois1 := not_homePoisoned_of_subset s _ p.ha bs.length (homeWrite_plain_poison s w.vi 0 p.ha bs false hne hp hw) hpois
  refine ⟨(homeWrite s w.vi 0 p.ha bs false).1, (homeWrite s w.vi 0 p.ha bs false).1, ?_, ?_⟩
  · rw [writePlaces_scratch s w .store false p bs hk hc, ← hok]
  · rw [loadPlaces_scratch _ w 0 p.va p bs.length hk (hc1.trans hc) hpois1, homeWrite_plain_mem s w.vi 0 p.ha bs false hne hp hw, memRead_memWrite]

/-- Settles O30: a plain home stores its bytes with one `memWrite`, and a scratchpad place is such a home, which its package still answers for
after the write. -/
theorem memoryReadsWhatWasWritten : Obligations.MemoryReadsWhatWasWritten := by
  refine ⟨fun s vi rc ha bytes inv hne hp hw => ?_, fun s w p bytes hk hwin hha hne hpois hc => ?_⟩
  · exact ⟨by rw [homeWrite_plain s vi rc ha bytes inv hne hp hw], homeBytes_homeWrite_plain s vi rc ha bytes inv hne hp hw,
      memGet_homeWrite_plain_outside s vi rc ha bytes inv hne hp hw, leNat_leBytes_leNat bytes⟩
  · exact ⟨⟨s, loadPlaces_scratch s w 0 p.va p bytes.length hk hc hpois, rfl⟩,
      loadPlaces_writePlaces_scratch s w p bytes hk hwin (decide_eq_true hha) hne hpois hc⟩

end Sys2Proof.Proofs.Scope

/-! The obligations of spec/01_device.md: both memories stay in canonical form (R27, R107). A state's memories change through `memSet`, `memWrite`
and `List.filter` only, which keep the form. The functions of the model that return a state have a lemma each, named after the function, in the order
of the model's files; a lemma follows the branches of its function and cites the lemmas of the functions called there. -/

namespace Sys2Proof.Proofs.Device

open Sys2Proof Sys2Proof.Machine Sys2Proof.Laws

set_option autoImplicit true

/-! The predicate, and the state in each result. -/

/-- Both memories of a state are in canonical form. -/
def Wf (s : State) : Prop := Safety.Inv s

/-- An outcome's next state, where there is one, is in canonical form. -/
def OutWf : Out → Prop
  | .next s => Wf s
  | .fault _ => True
  | .refused _ => True

/-- The state in an optional result, where there is one, is in canonical form; `g` finds it. -/
def OptWf {α : Type} (g : α → State) (x : Option α) : Prop := ∀ a, x = some a → Wf (g a)

def perfState : Performed → State
  | .wait s => s
  | .done s _ _ => s

def transState : VTrans → State
  | .done _ s => s
  | .fault _ _ _ _ s => s
  | .wait s => s

def wmState : WmAnswer → State
  | .pass s => s
  | .stall s => s
  | .fault _ _ s => s

def rowState : RowEnd → State
  | .val _ _ _ _ s => s
  | .stall _ s => s
  | .fault _ _ s => s

def topkState : TopKRead → State
  | .bad s => s
  | .fail _ s => s
  | .ok _ s => s

def probeState : Probe → State
  | .claimed s => s
  | .combined _ s => s
  | .other s => s
  | .fault _ _ s => s
  | .wait s => s

def fetchedState : Fetched → State
  | .instr _ _ _ s => s
  | .illegal _ _ s => s
  | .fault _ _ s => s
  | .wait s => s

/-! From one state to another. -/

theorem Wf.same {s t : State} (h : Wf s) (e : MemSame s t) : Wf t := ⟨e.1 ▸ h.1, e.2 ▸ h.2⟩

theorem Wf.kept {s t : State} (h : Wf s) (e : WfKept s t) : Wf t := ⟨e.1 h.1, e.2 ▸ h.2⟩

/-- In a branch of a `match`, the result that the branch names carries the form over. -/
theorem Wf.of {α : Type} {g : α → State} {x y : α} (hx : Wf (g x)) (e : x = y) : Wf (g y) := e ▸ hx

theorem OptWf.of {α : Type} {g : α → State} {x : Option α} {a : α} (hx : OptWf g x) (e : x = some a) : Wf (g a) := hx a e

theorem OutWf.of {x : Out} (hx : OutWf x) (e : x = .next t) : Wf t := by
  subst e
  exact hx

/-- A record update that leaves both memories. -/
theorem wf_with {s : State} (h : Wf s) : Wf ⟨a1, a2, a3, a4, a5, s.mem, a6, a7, s.hostMem, a8, a9, a10, a11, a12, a13, a14, a15, a16, a17, a18, a19,
    a20, a21, a22, a23, a24, a25, a26⟩ := h

/-- A record update that leaves the host's memory. -/
theorem wf_withMem {s : State} (hm : Memory.wf m = true) (h : Wf s) : Wf ⟨a1, a2, a3, a4, a5, m, a6, a7, s.hostMem, a8, a9, a10, a11, a12, a13, a14,
    a15, a16, a17, a18, a19, a20, a21, a22, a23, a24, a25, a26⟩ := ⟨hm, h.2⟩

/-! Conditionals, options and folds. -/

theorem wf_ite {s t : State} {c : Prop} [Decidable c] (hs : Wf s) (ht : Wf t) : Wf (if c then s else t) := by
  split <;> assumption

theorem outWf_ite {x y : Out} {c : Prop} [Decidable c] (hx : OutWf x) (hy : OutWf y) : OutWf (if c then x else y) := by
  split <;> assumption

theorem wf_fst_ite {α : Type} {x y : State × α} {c : Prop} [Decidable c] (hx : Wf x.1) (hy : Wf y.1) : Wf (if c then x else y).1 := by
  split <;> assumption

theorem accWf_ite {α : Type} {x y : Acc α} {c : Prop} [Decidable c] (hx : Wf (accState x)) (hy : Wf (accState y)) :
    Wf (accState (if c then x else y)) := by
  split <;> assumption

theorem wf_foldl {β : Type} {f : State → β → State} {l : List β} (hf : ∀ s, Wf s → ∀ b, Wf (f s b)) (h : Wf s) : Wf (l.foldl f s) := by
  induction l generalizing s with
  | nil => exact h
  | cons b l ih => exact ih (hf s h b)

theorem optWf_none {α : Type} {g : α → State} : OptWf g none := fun _ e => nomatch e

theorem optWf_some {α : Type} {g : α → State} {a : α} (h : Wf (g a)) : OptWf g (some a) := fun _ e => Option.some.inj e ▸ h

theorem optWf_ite {α : Type} {g : α → State} {x y : Option α} {c : Prop} [Decidable c] (hx : OptWf g x) (hy : OptWf g y) :
    OptWf g (if c then x else y) := by
  split <;> assumption

theorem optWf_map {α β : Type} {g : α → State} {k : β → State} {x : Option α} {f : α → β} (hx : OptWf g x)
    (hf : ∀ a, Wf (g a) → Wf (k (f a))) : OptWf k (x.map f) := by
  cases x with
  | none => exact optWf_none
  | some a => exact optWf_some (hf a (hx a rfl))

theorem optWf_bind {α β : Type} {k : β → State} {x : Option α} {f : α → Option β} (hf : ∀ a, OptWf k (f a)) : OptWf k (x.bind f) := by
  cases x with
  | none => exact optWf_none
  | some a => exact hf a

theorem optWf_triv {α : Type} {x : Option α} (h : Wf s) : OptWf (fun _ => s) x := fun _ _ => h

theorem wf_getD {x : Option State} (hx : OptWf id x) (h : Wf s) : Wf (x.getD s) := by
  cases x with
  | none => exact h
  | some t => exact hx t rfl

/-! Parts of the state, advancing, traps. -/

theorem wf_setCore (h : Wf s) : Wf (s.setCore k x) := h.same ⟨rfl, rfl⟩

theorem wf_setDie (h : Wf s) : Wf (s.setDie k x) := h.same ⟨rfl, rfl⟩

theorem wf_setChan (h : Wf s) : Wf (s.setChan k x) := h.same ⟨rfl, rfl⟩

theorem wf_setPkg (h : Wf s) : Wf (s.setPkg k x) := h.same ⟨rfl, rfl⟩

theorem wf_setVi (h : Wf s) : Wf (s.setVi k x) := h.same ⟨rfl, rfl⟩

theorem wf_setViPkg (h : Wf s) : Wf (s.setViPkg pkg vi x) := h.same ⟨rfl, rfl⟩

theorem wf_onCpu {f : Strand → Strand} (h : Wf s) : Wf (s.onCpu f) := h.same ⟨rfl, rfl⟩

theorem wf_onStrands {f : Strand → Strand} (h : Wf s) : Wf (s.onStrands f) := h.same ⟨rfl, rfl⟩

theorem wf_onTask {f : Strand → Strand} (h : Wf s) : Wf (s.onTask tid f) := h.same (onTask_same ..)

theorem wf_fresh (h : Wf s) : Wf s.fresh.2 := h.same ⟨rfl, rfl⟩

theorem wf_commit {f : Strand → Strand} (h : Wf s) : Wf (s.commit n f) := h.same ⟨rfl, rfl⟩

theorem wf_retire {f : Strand → Strand} (h : Wf s) : Wf (s.retire f) := h.same ⟨rfl, rfl⟩

theorem wf_retireKeep {f : Strand → Strand} (h : Wf s) : Wf (s.retireKeep f) := h.same ⟨rfl, rfl⟩

theorem wf_park (h : Wf s) : Wf s.park := h.same ⟨rfl, rfl⟩

theorem wf_raiseIrq (h : Wf s) : Wf (raiseIrq s pkg vi bit) := wf_ite h (wf_with (wf_setViPkg h))

theorem wf_pushLog (h : Wf s) : Wf (pushLog s pkg r) := by
  unfold pushLog
  dsimp only
  split
  · exact wf_setPkg h
  · exact wf_raiseIrq (wf_setPkg h)

theorem wf_enterTrap (h : Wf s) : Wf (enterTrap s x cause tval epc) := h.same ⟨rfl, rfl⟩

theorem wf_stopStrand (h : Wf s) : Wf (stopStrand s) := h.same ⟨rfl, rfl⟩

theorem wf_scalarTrapAt (h : Wf s) : Wf (scalarTrapAt s cause tval epc) := by
  unfold scalarTrapAt
  split
  · exact wf_enterTrap h
  · exact wf_park h

theorem wf_scalarTrap (h : Wf s) : Wf (scalarTrap s cause tval) := wf_scalarTrapAt h

theorem wf_queueTrapTo (h : Wf s) : Wf (queueTrapTo s x cause tval epc) := by
  unfold queueTrapTo
  dsimp only
  split
  · exact wf_enterTrap h
  · exact wf_ite (wf_enterTrap (wf_onCpu h)) (wf_ite (wf_stopStrand h) (wf_ite (wf_stopStrand h) (wf_enterTrap (wf_onCpu h))))

theorem wf_queuedTrap (h : Wf s) : Wf (queuedTrap s cause tval) := wf_queueTrapTo h

/-! The caches of a home. -/

theorem wf_useHome (h : Wf s) : Wf (useHome s vi rc ha n hint use host) := h.same (useHome_same ..)

theorem wf_requestWords (h : Wf s) : Wf (requestWords s vi rc frame named hint) := h.same ⟨rfl, rfl⟩

/-! From an address to its place. -/

theorem wf_andThen {α β : Type} {x : Acc α} {f : α → State → Acc β} (hx : Wf (accState x)) (hf : ∀ a t, Wf t → Wf (accState (f a t))) :
    Wf (accState (x.andThen f)) := by
  unfold Acc.andThen
  split
  · exact hf _ _ hx
  · exact hx
  · exact hx

theorem wf_placeOf (h : Wf s) : Wf (accState (placeOf s w va n k)) := h.same (placeOf_same ..)

theorem wf_placesIn (h : Wf s) : Wf (accState (placesIn w k s l)) := h.same (placesIn_same ..)

theorem wf_rangeOf (h : Wf s) : Wf (accState (rangeOf s w va n k)) := wf_placesIn h

theorem wf_placesOf (h : Wf s) : Wf (accState (placesOf s w va n k)) := h.same (placesOf_same ..)

/-! Reads and writes of a place. -/

theorem wf_validateBlock (h : Wf s) : Wf (validateBlock s ha) := by
  unfold validateBlock
  dsimp only
  split
  · exact h
  · exact wf_setChan h

theorem wf_writeBackSector (h : Wf s) : Wf (writeBackSector s ck q keep) := h.kept (writeBackSector_wf ..)

theorem wf_writeBackSectors (h : Wf s) : Wf (writeBackSectors s ck keep l) := h.kept (writeBackSectors_wf ..)

theorem wf_writeEvicted (h : Wf s) : Wf (writeEvicted s) := h.kept (writeEvicted_wf ..)

theorem wf_noteWrite (h : Wf s) : Wf (noteWrite s ha n) := h.same (noteWrite_same ..)

theorem wf_homeWrite (h : Wf s) : Wf (homeWrite s vi rc ha bytes inv hint host).1 := h.kept (homeWrite_wf s vi rc ha bytes inv hint host)

theorem wf_l1Drop {p : Line → Bool} (h : Wf s) : Wf (l1Drop s ck p) := h.same ⟨rfl, rfl⟩

theorem wf_l1Invalidate (h : Wf s) : Wf (l1Invalidate s ck ha n) := wf_ite h (wf_l1Drop h)

theorem wf_l1Line (h : Wf s) : Wf (l1Line s w p ha n hint).2 := h.same (l1Line_same ..)

theorem wf_windowRequest (h : Wf s) : Wf (windowRequest s w rc key off ha named hint).2 := h.same ⟨rfl, rfl⟩

theorem wf_readPlace (h : Wf s) : Wf (readPlace s w hint p n).2 := h.same (readPlace_same ..)

theorem wf_requestFrames (h : Wf s) : Wf (requestFrames s w hint ps) := by
  unfold requestFrames
  dsimp only
  refine wf_foldl (fun _ h1 _ => ?_) h
  split
  · exact h1
  · exact h1
  · split
    · exact wf_requestWords h1
    · exact wf_windowRequest h1

theorem wf_readPlaces (h : Wf s) : Wf (accState (readPlaces w hint tval s l)) := h.same (readPlaces_same ..)

theorem wf_readMem (h : Wf s) : Wf (accState (readMem s w va n hint k)) := h.same (readMem_same ..)

theorem wf_loadMem (h : Wf s) : Wf (accState (loadMem s w va n hint)) := h.same (loadMem_same ..)

theorem wf_forgetRead (h : Wf s) : Wf (forgetRead s tid ps) := h.same ⟨rfl, rfl⟩

theorem wf_writePlace (h : Wf s) : Wf (writePlace s w k p bytes inv).1 := h.kept (writePlace_wf ..)

theorem wf_writePlaces (h : Wf s) : Wf (writePlaces w k inv s l l1).1 := h.kept (writePlaces_wf ..)

theorem wf_writeWhole (h : Wf s) : Wf (writeWhole w k inv s ps bytes).1 := by
  unfold writeWhole
  split
  · exact h
  · exact wf_writePlaces h

theorem wf_writeMem (h : Wf s) : Wf (accState (writeMem s w k va bytes inv)) := h.kept (writeMem_wf ..)

theorem wf_atomicPlace {f : List Byte → Option (List Byte)} (h : Wf s) : Wf (atomicPlace s w p n f).1 := h.kept (atomicPlace_wf ..)

theorem wf_atomicMem {f : List Byte → Option (List Byte)} (h : Wf s) : Wf (accState (atomicMem s w va n f)) := h.kept (atomicMem_wf ..)

theorem wf_advanceGen (h : Wf s) : Wf (advanceGen s tag) := h.kept (advanceGen_wf ..)

theorem wf_advancePage (h : Wf s) : Wf (advancePage s pkg die chan vi a) := h.kept (advancePage_wf ..)

/-! Fetching. -/

theorem wf_icacheWord (h : Wf s) : Wf (icacheWord s ck vi rc ha tag never).2 := by
  unfold icacheWord
  dsimp only
  split
  · exact h
  · split
    · exact h
    · split
      · exact wf_useHome h
      · exact wf_setCore (wf_useHome h)

theorem wf_fetchWord (h : Wf s) : Wf (accState (fetchWord s pc)) := by
  unfold fetchWord
  dsimp only
  split
  · split
    · next e => exact (wf_icacheWord h).of e
    · next e => exact (wf_icacheWord h).of e
  · split
    · exact h
    · refine wf_andThen (wf_placeOf h) (fun _ _ h1 => ?_)
      split
      · next e => exact (wf_icacheWord h1).of e
      · next e => exact (wf_icacheWord h1).of e

theorem wf_fetch (h : Wf s) : Wf (accState (fetch s)) := by
  unfold fetch
  refine wf_andThen (wf_fetchWord h) (fun _ _ h1 => ?_)
  split
  · exact wf_andThen (wf_fetchWord h1) (fun _ _ h2 => h2)
  · exact h1

theorem wf_fetchTrap (h : Wf s) : Wf (fetchTrap s cause tval) := wf_ite (wf_enterTrap h) (wf_scalarTrap h)

/-! Context images. -/

theorem wf_writeImage (h : Wf s) : Wf (writeImage s x).1 := wf_homeWrite h

theorem wf_onImage {f : Strand → Strand} (h : Wf s) : Wf (onImage s x f) := wf_ite h (wf_ite h (wf_homeWrite (wf_with h)))

theorem wf_onSaved {f : Strand → Strand} (h : Wf s) : Wf (onSaved s tid f) := wf_foldl (fun _ h1 _ => wf_onImage h1) h

/-! The shapes that the meanings share. -/

theorem wf_scalarDone (h : Wf s) : OutWf (scalarDone o s x fl) := h.same ⟨rfl, rfl⟩

theorem wf_atLevel {k : Out} (h : Wf s) (hk : OutWf k) : OutWf (atLevel l i s k) := outWf_ite (wf_scalarTrap h) hk

theorem wf_scalarAcc {α : Type} {x : Acc α} {f : α → State → State} (hx : Wf (accState x)) (hf : ∀ a t, Wf t → Wf (f a t)) :
    OutWf (scalarAcc x f) := by
  unfold scalarAcc
  split
  · exact hf _ _ hx
  · exact wf_scalarTrap hx
  · exact wf_park hx

theorem wf_queuedAcc {α : Type} {x : Acc α} {f : α → State → State} (hx : Wf (accState x)) (hf : ∀ a t, Wf t → Wf (f a t)) :
    OutWf (queuedAcc x f) := by
  unfold queuedAcc
  split
  · exact hf _ _ hx
  · exact wf_queuedTrap hx
  · exact wf_park hx

theorem wf_queuedAccOut {α : Type} {x : Acc α} {f : α → State → Out} (hx : Wf (accState x)) (hf : ∀ a t, Wf t → OutWf (f a t)) :
    OutWf (queuedAccOut x f) := by
  unfold queuedAccOut
  split
  · exact hf _ _ hx
  · exact wf_queuedTrap hx
  · exact wf_park hx

theorem wf_headChecks {k : Out} (h : Wf s) (hk : OutWf k) : OutWf (headChecks i types poison s k) := by
  unfold headChecks
  split
  · exact wf_queuedTrap h
  · split
    · exact wf_queuedTrap h
    · split
      · exact wf_queuedTrap h
      · exact hk

theorem wf_atHead {k : Out} (h : Wf s) (hk : OutWf k) : OutWf (atHead i types s k) := wf_headChecks h hk

theorem wf_unlessVl0 {k : Out} (h : Wf s) (hk : OutWf k) : OutWf (unlessVl0 s k) := outWf_ite (wf_retire h) hk

theorem wf_afterPosts {k : Out} (h : Wf s) (hk : OutWf k) : OutWf (afterPosts release s k) := outWf_ite (wf_park h) hk

theorem wf_afterQueue {k : Out} (h : Wf s) (hk : OutWf k) : OutWf (afterQueue release s k) := outWf_ite (wf_park h) hk

theorem wf_parkOn (h : Wf s) : Wf (parkOn s words) := h.same ⟨rfl, rfl⟩

theorem wf_enqueue (h : Wf s) : Wf (enqueue s i w words) := h.same ⟨rfl, rfl⟩

/-! Pieces of non-blocking instructions. -/

theorem wf_send (h : Wf s) : Wf (s.send k) := h.same ⟨rfl, rfl⟩

theorem wf_onPiece {f : Piece → Piece} (h : Wf s) : Wf (onPiece s id' f) := h.same ⟨rfl, rfl⟩

theorem wf_transmit (h : Wf s) : Wf (transmit s p) := wf_ite (wf_onPiece h) (wf_send (wf_onPiece (wf_ite (wf_setCore h) (wf_with h))))

theorem wf_startPiece (h : Wf s) : Wf (startPiece s p0) := by
  unfold startPiece
  dsimp only
  exact wf_ite (wf_transmit (wf_with (wf_fresh h))) (wf_with (wf_fresh h))

theorem wf_issueOne (h : Wf s) : Wf (issueOne s strand op cc inOrder counter x run elem) := wf_startPiece h

theorem wf_issueScalar (h : Wf s) : Wf (issueScalar s op hint l) := wf_foldl (fun _ h1 _ => wf_startPiece h1) h

theorem wf_followOn (h : Wf s) : Wf (followOn s p x) := wf_startPiece h

theorem wf_issueAll (h : Wf s) : Wf (issueAll op cc inOrder counter s l) := by
  induction l generalizing s with
  | nil => exact h
  | cons x rest ih =>
    unfold issueAll
    exact ih (wf_issueOne h)

theorem wf_issueNb (h : Wf s) : Wf (issueNb s c inOrder counter l) := by
  unfold issueNb
  dsimp only
  exact wf_ite (wf_fresh h) (wf_issueAll (wf_onCpu (wf_fresh h)))

theorem wf_awaitPieces (h : Wf s) : Wf (awaitPieces s inOrder counter l) := by
  unfold awaitPieces
  split
  · next e => exact wf_park (wf_foldl (fun _ h1 _ => wf_issueOne h1) (wf_onCpu ((wf_fresh h).of e)))

theorem wf_awaited {start : State → Out} {done : List (ℕ × ℕ × Word) → State → Out} (h : Wf s) (hstart : ∀ t, Wf t → OutWf (start t))
    (hdone : ∀ a t, Wf t → OutWf (done a t)) : OutWf (awaited s start done) := by
  unfold awaited
  split
  · exact hstart _ h
  · exact outWf_ite (hstart _ h) (outWf_ite (wf_park h) (hdone _ _ (wf_onCpu h)))

theorem wf_startTrip (h : Wf s) : Wf (startTrip s i va hint l) := by
  unfold startTrip
  split
  · next e => exact wf_park (wf_issueScalar (wf_onCpu ((wf_fresh h).of e)))

theorem wf_postStore (h : Wf s) : Wf (postStore s ea hint ps bytes) := by
  unfold postStore
  split
  · exact h
  · split
    · next e => exact wf_issueScalar ((wf_fresh h).of e)

theorem wf_onTrip {start : State → Out} {k : List Byte → State → State} (h : Wf s) (hstart : ∀ t, Wf t → OutWf (start t))
    (hk : ∀ a t, Wf t → Wf (k a t)) : OutWf (onTrip s start k) := by
  unfold onTrip
  dsimp only
  split
  · exact hstart _ h
  · split
    · exact wf_scalarTrap (wf_onCpu h)
    · exact outWf_ite (wf_park h) (hk _ _ (wf_onCpu h))

theorem wf_arrive (h : Wf s) : Wf (accState (arrive s w p n k)) := by
  unfold arrive
  split
  · exact h
  · exact wf_placeOf h

theorem wf_arriveAll (h : Wf s) : Wf (accState (arriveAll w k s l)) := by
  induction l generalizing s with
  | nil => exact h
  | cons x rest ih =>
    unfold arriveAll
    exact wf_andThen (wf_arrive h) (fun _ _ h1 => wf_andThen (ih h1) (fun _ _ h2 => h2))

theorem wf_streamAdd (h : Wf s) : Wf (streamAdd s die key lid n) := h.same ⟨rfl, rfl⟩

theorem wf_streamTake (h : Wf s) : Wf (streamTake s die key n) := h.same ⟨rfl, rfl⟩

theorem wf_addCounter (h : Wf s) : Wf (addCounter s w p n) := by
  unfold addCounter
  split
  · next e => exact wf_atomicPlace ((wf_arrive h).of e)
  · next e => exact (wf_arrive h).of e
  · next e => exact wf_startPiece ((wf_arrive h).of e)

theorem wf_readElems (h : Wf s) : Wf (readElems w p s l).2.2.2.2 := by
  induction l generalizing s with
  | nil => exact h
  | cons x rest ih =>
    unfold readElems
    dsimp only
    split <;> exact ih (wf_readPlace h)

theorem wf_addBlock (h : Wf s) : Wf (addBlock w t q s l).1 := by
  induction l generalizing s with
  | nil => exact h
  | cons x rest ih =>
    unfold addBlock
    dsimp only
    exact ih (wf_atomicPlace h)

theorem wf_countData (h : Wf s) : Wf (countData s p) := by
  unfold countData
  split
  · exact wf_streamAdd h
  · exact h

theorem wf_storeWhole (h : Wf s) : Wf (perfState (storeWhole s p q bytes more)) := by
  unfold storeWhole
  dsimp only
  split
  · next e => exact (wf_arriveAll h).of e
  · next e => exact (wf_arriveAll h).of e
  · next e => exact wf_writeWhole ((wf_arriveAll h).of e)

theorem wf_performAt (h : Wf s) : Wf (perfState (performAt s p q)) := by
  unfold performAt
  dsimp only
  split
  · exact wf_ite (wf_validateBlock (wf_writePlace h)) (wf_writePlace h)
  · split <;> exact wf_forgetRead (wf_readElems (wf_requestFrames h))
  · exact wf_atomicPlace h
  · exact wf_atomicPlace h
  · split
    · next e => exact (wf_arriveAll h).of e
    · next e => exact (wf_arriveAll h).of e
    · next e =>
        have h1 := (wf_arriveAll h).of e
        split
        · next e1 => exact (wf_arriveAll h1).of e1
        · next e1 => exact (wf_arriveAll h1).of e1
        · next e1 =>
            have h2 := (wf_arriveAll h1).of e1
            split
            · next e2 => exact (wf_readPlaces h2).of e2
            · next e2 => exact (wf_readPlaces h2).of e2
            · next e2 => exact wf_writePlaces ((wf_readPlaces h2).of e2)
  · split
    · exact wf_writePlace (wf_countData h)
    · exact wf_countData h
  · split
    · next e => exact (wf_arriveAll h).of e
    · next e => exact (wf_arriveAll h).of e
    · next e => exact wf_writePlaces ((wf_arriveAll h).of e)
  · split
    · exact wf_addBlock h
    · exact h
  · exact wf_writePlace h
  · exact wf_writePlace h
  · split <;> exact wf_readPlace h
  · exact h
  · exact h
  · exact h
  · exact h
  · exact h
  · exact h
  · exact h
  · split
    · exact wf_readPlace h
    · exact wf_storeWhole h
    · exact wf_atomicPlace h
  · exact wf_storeWhole h
  · exact wf_atomicPlace h

theorem wf_performPiece (h : Wf s) : Wf (perfState (performPiece s p)) := by
  unfold performPiece
  split
  · exact h
  · split
    · exact h
    · split
      · next e => exact (wf_arrive h).of e
      · next e => exact wf_countData ((wf_arrive h).of e)
      · next e => exact wf_performAt ((wf_arrive h).of e)

theorem wf_endAtTask (h : Wf s) : Wf (endAtTask s p st last) := wf_ite (wf_onTask h) (wf_onSaved h)

theorem wf_deliver (h : Wf s) : Wf (accState (deliver s p st)) := by
  unfold deliver
  split
  · split
    · exact h
    · split
      · next e => exact (wf_arrive h).of e
      · next e => exact (wf_arrive h).of e
      · next e =>
          split
          · next e1 => exact (wf_writePlace ((wf_arrive h).of e)).of e1
  · exact h

theorem wf_logConsumed (h : Wf s) : Wf (logConsumed s p st) := wf_ite (wf_pushLog h) h

theorem wf_fetchCounted (h : Wf s) : Wf (fetchCounted s p st last) := by
  unfold fetchCounted
  split
  · exact wf_ite (wf_addCounter h) h
  · exact h

theorem wf_closePiece (h : Wf s) : Wf (closePiece s q st) := wf_fetchCounted (wf_endAtTask (wf_with h))

theorem wf_endPiece (h : Wf s) : Wf (endPiece s p st) := by
  unfold endPiece
  split
  · next e => exact wf_closePiece (wf_logConsumed ((wf_deliver h).of e))
  · next e => exact (wf_deliver h).of e
  · next e => exact (wf_deliver h).of e

theorem wf_afterPerform (h : Wf s) : Wf (afterPerform s p st) := by
  unfold afterPerform
  dsimp only
  split
  · exact wf_with h
  · split
    · exact h
    · exact h
    · exact wf_ite (wf_addCounter h) h

/-! Scalar memory. -/

theorem wf_awaySpan (h : Wf s) : OptWf Prod.snd (awaySpan s va n k) := by
  unfold awaySpan
  split
  · next e => exact optWf_ite (optWf_some ((wf_placesOf h).of e)) optWf_none
  · exact optWf_none
  · exact optWf_none

theorem wf_loadFrom {k : List Byte → State → State} (h : Wf s) (hk : ∀ a t, Wf t → Wf (k a t)) : OutWf (loadFrom i s ea n hint k) := by
  unfold loadFrom
  refine wf_onTrip h (fun _ h1 => ?_) hk
  split
  · next e =>
      have h2 := (wf_awaySpan h1).of e
      exact outWf_ite (wf_park h2) (wf_startTrip h2)
  · exact wf_scalarAcc (wf_loadMem h1) hk

theorem wf_atomicFrom {k : List Byte → State → State} (h : Wf s) (hk : ∀ a t, Wf t → Wf (k a t)) : OutWf (atomicFrom i s va n act' k) := by
  unfold atomicFrom
  refine wf_onTrip h (fun _ h1 => ?_) hk
  split
  · next e =>
      have h2 := (wf_awaySpan h1).of e
      exact outWf_ite (wf_park h2) (wf_startTrip h2)
  · exact wf_scalarAcc (wf_atomicMem h1) hk

theorem wf_loadScalar (h : Wf s) : OutWf (loadScalar i o s ea) := wf_loadFrom h (fun _ _ h1 => wf_commit h1)

theorem wf_deferFailure (h : Wf s) : Wf (deferFailure ea cause s) := h.same ⟨rfl, rfl⟩

theorem wf_noteFailure (h : Wf x.1) : Wf (noteFailure ea x) := by
  unfold noteFailure
  split
  · exact h
  · exact wf_deferFailure h

theorem wf_storeScalar (h : Wf s) : OutWf (storeScalar o s ea release) := by
  unfold storeScalar
  dsimp only
  refine wf_afterQueue h ?_
  split
  · next e =>
      have h1 := (wf_placesOf h).of e
      exact outWf_ite (wf_commit (wf_deferFailure h1)) (wf_scalarTrap h1)
  · next e => exact wf_park ((wf_placesOf h).of e)
  · next e =>
      have h1 := (wf_placesOf h).of e
      exact outWf_ite (wf_park h1) (outWf_ite (wf_commit (wf_postStore h1)) (wf_commit (wf_noteFailure (wf_writeWhole h1))))

theorem wf_storeRelease (h : Wf s) : OutWf (storeRelease i o s ea) := by
  unfold storeRelease
  dsimp only
  refine wf_onTrip h (fun _ h1 => ?_) (fun _ _ h2 => wf_commit h2)
  refine wf_afterQueue h1 ?_
  split
  · next e => exact wf_scalarTrap ((wf_placesOf h1).of e)
  · next e => exact wf_park ((wf_placesOf h1).of e)
  · next e =>
      have h2 := (wf_placesOf h1).of e
      split
      · split
        · exact wf_commit h2
        · exact wf_startTrip h2
      · split
        · next e1 => exact wf_commit ((wf_writeWhole h2).of e1)
        · next e1 => exact wf_scalarTrap ((wf_writeWhole h2).of e1)

theorem wf_storeNb (h : Wf s) : OutWf (storeNb o s ea) :=
  wf_afterPosts h (outWf_ite (wf_park h) (wf_queuedAcc (wf_placesOf h) (fun _ _ h1 => wf_ite (wf_park h1) (wf_retireKeep (wf_issueNb h1)))))

theorem wf_prefetchLines (h : Wf s) : Wf (prefetchLines w p s l) := by
  induction l generalizing s with
  | nil => exact h
  | cons x rest ih =>
    unfold prefetchLines
    exact ih (wf_l1Line h)

theorem wf_execPref (h : Wf s) : OutWf (execPref o s) := by
  unfold execPref
  dsimp only
  split
  · next e =>
      have h1 := (wf_placeOf h).of e
      exact outWf_ite (wf_commit (wf_prefetchLines h1)) (wf_commit h1)
  · exact wf_commit h
  · exact wf_commit h

theorem wf_execAmo (h : Wf s) : OutWf (execAmo o s) := by
  unfold execAmo
  dsimp only
  split
  · split
    · exact wf_queuedTrap h
    · exact outWf_ite (wf_queuedTrap h)
        (wf_afterPosts h (outWf_ite (wf_park h) (wf_queuedAcc (wf_placeOf h) (fun _ _ h1 => wf_ite (wf_park h1) (wf_retireKeep (wf_issueNb h1))))))
  · split
    · exact wf_scalarTrap h
    · exact outWf_ite (wf_scalarTrap h) (wf_afterQueue h (wf_atomicFrom h (fun _ _ h1 => wf_commit h1)))

theorem wf_discardRegion (h : Wf s) : Wf (discardRegion s scope b) := by
  unfold discardRegion
  dsimp only
  split
  · exact h
  · split
    · exact h
    · exact wf_ite (wf_onCpu h) (wf_l1Drop (wf_onCpu h))

theorem wf_execAcq (h : Wf s) : OutWf (execAcq o s) := by
  unfold execAcq
  split
  · exact wf_scalarTrap h
  · exact outWf_ite (wf_park h) (wf_atomicFrom h (fun _ _ h1 => wf_commit (wf_discardRegion h1)))

theorem wf_execRel (h : Wf s) : OutWf (execRel o s) := by
  unfold execRel
  split
  · exact wf_scalarTrap h
  · exact outWf_ite (wf_park h) (wf_atomicFrom h (fun _ _ h1 => wf_commit h1))

theorem wf_discardAll (h : Wf s) : Wf (discardAll s scope) := wf_ite (wf_onCpu h) (wf_l1Drop (wf_onCpu h))

/-! System instructions. -/

theorem wf_mtsrScalar {k : Word → Out} (h : Wf s) (hk : ∀ a, OutWf (k a)) : OutWf (mtsrScalar o i s k) :=
  wf_atLevel h (outWf_ite (hk _) (wf_scalarTrap h))

theorem wf_afterEmptyQueue {k : Out} (h : Wf s) (hk : OutWf k) : OutWf (afterEmptyQueue s k) := outWf_ite hk (wf_park h)

theorem wf_writeTrapReg (h : Wf s) : Wf (writeTrapReg s x i v) := by
  unfold writeTrapReg
  dsimp only
  split
  · exact wf_onCpu h
  · exact wf_onCpu h
  · exact wf_onCpu h
  · exact wf_ite (wf_setPkg h) (wf_setViPkg h)
  · exact wf_ite (wf_setPkg h) (wf_setViPkg h)
  · exact wf_ite (wf_setPkg h) (wf_setViPkg h)
  · exact wf_ite (wf_onCpu h) (wf_onCpu h)
  · exact h

theorem wf_writeViReg (h : Wf s) : Wf (writeViReg s i x) := by
  unfold writeViReg
  dsimp only
  split
  · exact wf_setVi h
  · exact wf_with (wf_setVi h)
  · exact wf_setVi h
  · exact wf_setDie h
  · exact wf_setVi h
  · exact wf_setVi h
  · exact wf_setVi h
  · exact wf_setVi h
  · exact wf_setVi h

theorem wf_measureConfig (h : Wf s) : Wf (measureConfig s pkg vi) := wf_ite h (wf_setPkg h)

theorem wf_execMtsr (h : Wf s) : OutWf (execMtsr o s) :=
  wf_mtsrScalar h
    (fun _ =>
      wf_commit (wf_ite (wf_onCpu h) (wf_ite (wf_writeTrapReg h) (wf_ite (wf_measureConfig (wf_writeViReg h)) (wf_ite (wf_writeTrapReg h) h)))))

theorem wf_releaseTiles (h : Wf s) : Wf (releaseTiles s) := by
  unfold releaseTiles
  dsimp only
  split
  · exact h
  · exact wf_onCpu (wf_setDie h)

theorem wf_claimTiles (h : Wf s) : Wf (claimTiles s slot) := wf_onCpu (wf_homeWrite (wf_setDie h))

theorem wf_execTclaim (h : Wf s) : OutWf (execTclaim o s) := by
  unfold execTclaim
  split
  · exact wf_retireKeep h
  · split
    · exact wf_retireKeep h
    · split
      · exact wf_queuedTrap h
      · exact wf_retireKeep (wf_claimTiles h)

theorem wf_advanceTags (h : Wf s) : Wf (advanceTags s l) := wf_foldl (fun _ h1 _ => wf_advanceGen h1) h

theorem wf_dropTlb {p : TlbEntry → Bool} (h : Wf s) : Wf (dropTlb s p) := h.same ⟨rfl, rfl⟩

theorem wf_execTlbinv (h : Wf s) : OutWf (execTlbinv o s) := by
  unfold execTlbinv
  dsimp only
  refine wf_atLevel h ?_
  split
  · exact wf_commit h
  · split
    · exact wf_scalarTrap h
    · split
      · exact wf_scalarTrap h
      · split
        · exact wf_scalarTrap h
        · exact outWf_ite (wf_park h) (wf_commit (wf_dropTlb (wf_advanceTags h)))

theorem wf_cleanHome (h : Wf s) : Wf (cleanHome s use p n) := wf_writeBackSectors (wf_useHome h)

theorem wf_cleanHomes (h : Wf s) : Wf (cleanHomes use s l) := by
  induction l generalizing s with
  | nil => exact h
  | cons x rest ih =>
    unfold cleanHomes
    exact ih (wf_cleanHome h)

theorem wf_dropLines (h : Wf s) : Wf (dropLines s l) := by
  induction l generalizing s with
  | nil => exact h
  | cons x rest ih =>
    unfold dropLines
    exact ih (wf_l1Invalidate h)

theorem wf_cleanRange_places (h : Wf st) : Wf (accState (cleanRange.places st l)) := by
  induction l generalizing st with
  | nil => exact h
  | cons x rest ih =>
    unfold cleanRange.places
    split
    · next e => exact (wf_placeOf h).of e
    · next e => exact (wf_placeOf h).of e
    · next e => exact wf_andThen (ih ((wf_placeOf h).of e)) (fun _ _ h1 => h1)

theorem wf_cleanRange (h : Wf s) : OutWf (cleanRange o i s use) :=
  outWf_ite (wf_commit h)
    (outWf_ite (wf_scalarTrap h)
      (outWf_ite (wf_scalarTrap h)
        (outWf_ite (wf_park h)
          (wf_scalarAcc (wf_cleanRange_places h) (fun _ _ h1 => wf_commit (wf_ite (wf_dropLines (wf_cleanHomes h1)) (wf_cleanHomes h1)))))))

theorem wf_armWatch (h : Wf s) : Wf (accState (armWatch o s)) := by
  unfold armWatch
  dsimp only
  split
  · exact h
  · split
    · exact h
    · refine wf_andThen (wf_placeOf h) ?_
      intro _ _ h1
      split
      · exact h1
      · exact h1.same ⟨rfl, rfl⟩

theorem wf_execLaunch (h : Wf s) : OutWf (execLaunch o s) := by
  unfold execLaunch
  dsimp only
  split
  · exact wf_scalarTrap h
  · split
    · next e => exact wf_scalarTrap ((wf_placeOf h).of e)
    · next e => exact wf_park ((wf_placeOf h).of e)
    · next e =>
        have h1 := (wf_placeOf h).of e
        exact wf_afterQueue h1 (outWf_ite (wf_park h1) (wf_commit (wf_setViPkg h1)))

/-! The shape of the vector instructions. -/

theorem wf_runElems {f : ℕ → Elem} {w : Strand → ℕ → ℕ → Strand} {fin : Strand → Strand} (h : Wf s) : OutWf (runElems s act' f w fin) := by
  unfold runElems
  dsimp only
  split
  · exact wf_retire h
  · exact wf_queuedTrap (wf_onCpu h)

theorem wf_vectorOp {f : ℕ → Elem} {w : Strand → ℕ → ℕ → Strand} (h : Wf s) : OutWf (vectorOp i o types neg s f w) :=
  wf_atHead h (wf_unlessVl0 h (wf_runElems h))

/-! Permutations. -/

theorem wf_permute {f : ℕ → ℕ} (h : Wf s) : OutWf (permute i o neg s f) := wf_vectorOp h

/-! Vector memory. -/

theorem wf_unlessStride {k : Out} (h : Wf s) (hk : OutWf k) : OutWf (unlessStride o s f act' k) := outWf_ite (wf_queuedTrap h) hk

theorem wf_touchPage (h : Wf s) : Wf (touchPage s vi f p) := by
  unfold touchPage
  dsimp only
  split
  · exact h
  · split
    · split
      · exact h
      · exact wf_ite h (wf_withMem (wf_memSet _ _ _ h.1) h)
    · refine wf_setChan ?_
      split
      · exact h
      · exact wf_ite h (wf_withMem (wf_memSet _ _ _ h.1) h)

theorem wf_cons (h : Wf (transState x)) : Wf (transState (VTrans.cons e x)) := by
  unfold VTrans.cons
  split <;> exact h

theorem wf_vTranslate {ea : ℕ → Word} (h : Wf s) : Wf (transState (vTranslate w k n f ea s l)) := by
  induction l generalizing s with
  | nil => exact h
  | cons x rest ih =>
    unfold vTranslate
    split
    · next e => exact (wf_placesOf h).of e
    · next e => exact (wf_placesOf h).of e
    · next e =>
        have h1 := (wf_placesOf h).of e
        split
        · exact h1
        · exact wf_cons (ih (wf_foldl (fun _ h2 _ => wf_touchPage h2) h1))

theorem wf_subscribe (h : Wf s) : Wf (accState (subscribe s k j l)) := by
  unfold subscribe
  split
  · exact h
  · split
    · next e => exact (wf_readMem h).of e
    · next e => exact (wf_readMem h).of e
    · next e => exact ((wf_readMem h).of e).same ⟨rfl, rfl⟩

theorem wf_checkLinks (h : Wf s) : Wf (wmState (checkLinks k a s n l)) := by
  induction l generalizing s n with
  | nil => exact h
  | cons x rest ih =>
    unfold checkLinks
    split
    · exact ih h
    · split
      · exact h
      · split
        · next e => exact (wf_subscribe h).of e
        · next e => exact (wf_subscribe h).of e
        · next e =>
            have h1 := (wf_subscribe h).of e
            split
            · exact h1
            · exact ih h1

theorem wf_wmCheck (h : Wf s) : Wf (wmState (wmCheck s k va)) := wf_checkLinks h

theorem wf_dropTouched (h : Wf s) : Wf (dropTouched s els) := h.same ⟨rfl, rfl⟩

theorem wf_readParts (h : Wf s) : Wf (accState (readParts w hint tval s l)) := by
  induction l generalizing s with
  | nil => exact h
  | cons x rest ih =>
    unfold readParts
    dsimp only
    refine wf_andThen ?_ (fun _ _ h1 => wf_andThen (ih h1) (fun _ _ h2 => h2))
    split
    · exact h
    · exact wf_readPlaces h

theorem wf_loadElems (h : Wf s) : Wf (loadElems o w s l).1 := by
  induction l generalizing s with
  | nil => exact h
  | cons x rest ih =>
    unfold loadElems
    split
    · next e => exact (wf_wmCheck h).of e
    · next e => exact (wf_wmCheck h).of e
    · next e =>
        have h1 := (wf_wmCheck h).of e
        split
        · next e1 => exact ih (wf_onCpu ((wf_readParts h1).of e1))
        · next e1 => exact (wf_readParts h1).of e1
        · next e1 => exact (wf_readParts h1).of e1

theorem wf_atElement (h : Wf s) : Wf (atElement s i) := h.same ⟨rfl, rfl⟩

theorem wf_onHead {f : QEntry → QEntry} (h : Wf s) : Wf (onHead s f) := h.same ⟨rfl, rfl⟩

theorem wf_keepReads (h : Wf s) : Wf (keepReads s els) := h.same ⟨rfl, rfl⟩

theorem wf_requestElems (h : Wf s) : Wf (requestElems o w s els) := wf_requestFrames h

theorem wf_betweenSteps (h : Wf s) : Wf (betweenSteps s p) := h.same ⟨rfl, rfl⟩

theorem wf_readLoad {fin : State → State} (h : Wf s) (hfin : ∀ t, Wf t → Wf (fin t)) : Wf (readLoad o els s fin) := by
  unfold readLoad
  dsimp only
  split
  · next e => exact hfin _ (wf_dropTouched ((wf_loadElems (wf_requestElems h)).of e))
  · next e => exact wf_park (wf_atElement (wf_keepReads (wf_dropTouched ((wf_loadElems (wf_requestElems h)).of e))))
  · next e => exact wf_queuedTrap (wf_atElement (wf_dropTouched ((wf_loadElems (wf_requestElems h)).of e)))

theorem wf_translateLoad (h : Wf s) : Wf (transState (translateLoad o f s act')) := by
  unfold translateLoad
  dsimp only
  split
  · next e =>
      have h1 := (wf_vTranslate h).of e
      split
      · exact h1
      · exact wf_vTranslate h1
  · next e =>
      have h1 := (wf_vTranslate h).of e
      split
      · exact h1
      · exact wf_vTranslate h1
  · next e => exact (wf_vTranslate h).of e

theorem wf_passElems (h : Wf s) : Wf (passElems s l).2 := by
  induction l generalizing s with
  | nil => exact h
  | cons x rest ih =>
    unfold passElems
    dsimp only
    split
    · next e => exact ih ((wf_wmCheck h).of e)
    · next e => exact (wf_wmCheck h).of e
    · exact h

theorem wf_awaitLoad (h : Wf s) : Wf (awaitLoad o els fault whole s) := wf_onHead (wf_awaitPieces (wf_keepReads h))

theorem wf_loadFault (h : Wf s) : Wf (loadFault ff act' x s) := wf_ite (wf_retire h) (wf_queuedTrap (wf_atElement h))

theorem wf_landBelow (h : Wf s) : Wf (landBelow o e i s) := h.same ⟨rfl, rfl⟩

theorem wf_loadDone (h : Wf s) : OutWf (loadDone o ff e fails s) := by
  unfold loadDone
  dsimp only
  split
  · exact wf_loadFault (wf_landBelow h)
  · split
    · exact wf_retire (wf_landBelow h)
    · exact wf_park (wf_atElement (wf_landBelow h))

theorem wf_readStep {fin : State → State} (h : Wf s) (hfin : ∀ t, Wf t → Wf (fin t)) : Wf (readStep o els s fin) := by
  unfold readStep
  dsimp only
  split
  · exact wf_readLoad h hfin
  · exact wf_readLoad h (fun _ h1 => wf_betweenSteps (wf_atElement (wf_keepReads h1)))

theorem wf_loadSome {fin : State → State} (h : Wf s1) (hfin : ∀ t, Wf t → Wf (fin t)) : OutWf (loadSome o els fault s s1 fin) := by
  unfold loadSome
  dsimp only
  exact outWf_ite (wf_awaitLoad (wf_passElems h)) (wf_readStep h hfin)

theorem wf_loadBlocking (h : Wf s) : OutWf (loadBlocking o f ff s) := by
  unfold loadBlocking
  dsimp only
  split
  · next e => exact wf_park ((wf_translateLoad h).of e)
  · next e => exact wf_loadSome ((wf_translateLoad h).of e) (fun _ h1 => wf_retire h1)
  · next e => exact wf_loadSome ((wf_translateLoad h).of e) (fun _ h1 => wf_loadFault h1)

theorem wf_checkAll (h : Wf s) : Wf (wmState (checkAll k s l)) := by
  induction l generalizing s with
  | nil => exact h
  | cons x rest ih =>
    unfold checkAll
    split
    · next e => exact ih ((wf_wmCheck h).of e)
    · next e => exact (wf_wmCheck h).of e
    · next e => exact (wf_wmCheck h).of e

theorem wf_loadNb (h : Wf s) : OutWf (loadNb o f s) := by
  unfold loadNb
  dsimp only
  split
  · exact wf_park h
  · split
    · next e => exact wf_park ((wf_translateLoad h).of e)
    · next e =>
        have h1 := (wf_translateLoad h).of e
        split
        · next e1 => exact wf_loadSome ((wf_checkAll h1).of e1) (fun _ h2 => wf_retire h2)
        · exact wf_loadSome h1 (fun _ h2 => wf_retire h2)
        · next e1 => exact wf_retire (wf_issueNb (wf_dropTouched ((wf_checkAll h1).of e1)))
    · next e => exact wf_loadSome ((wf_translateLoad h).of e) (fun _ h1 => wf_queuedTrap (wf_atElement h1))

theorem wf_vload (h : Wf s) : OutWf (vload i o f ff s) :=
  wf_awaited h (fun _ h1 => wf_atHead h1 (wf_unlessVl0 h1 (wf_unlessStride h1 (outWf_ite (wf_loadNb h1) (wf_loadBlocking h1)))))
    (fun _ _ h1 => wf_loadDone h1)

theorem wf_performAll {f : Perform} (hf : ∀ t, Wf t → ∀ b, Wf (f t b).1) (hx : Wf x.s) : Wf (performAll f stop x l).s := by
  induction l generalizing x with
  | nil => exact hx
  | cons x rest ih =>
    unfold performAll
    split
    · exact hx
    · split
      · next e => exact ih ((hf _ hx _).of e)
      · next e => exact ih ((hf _ hx _).of e)

theorem wf_keepBitmap (h : Wf s) : Wf (keepBitmap s i done) := h.same ⟨rfl, rfl⟩

theorem wf_goOn (h : Wf s) : Wf (goOn rest done s) := by
  unfold goOn
  dsimp only
  split
  · exact wf_retire h
  · exact wf_betweenSteps (wf_keepBitmap (wf_atElement h))

theorem wf_settle {fin : State → State} (hx : Wf x.s) (hfin : ∀ t, Wf t → Wf (fin t)) : OutWf (settle x fault fin) := by
  unfold settle
  split
  · exact wf_queuedTrap (wf_keepBitmap (wf_atElement hx))
  · split
    · exact wf_queuedTrap (wf_keepBitmap (wf_atElement hx))
    · exact hfin _ hx

theorem wf_validateAll (h : Wf s) : Wf (validateAll s l) := wf_foldl (fun _ h1 _ => wf_validateBlock h1) h

theorem wf_settleBlocks (h : Wf x.s) : Wf (settleBlocks o t els x).s := wf_onHead (wf_validateAll h)

theorem wf_storeElem (h : Wf s) : Wf (storeElem o w t s e).1 := wf_writePlaces h

theorem wf_performStore (h : Wf s1) : Wf (performStore o s els s1).s := wf_settleBlocks (wf_performAll (fun _ h1 _ => wf_storeElem h1) h)

theorem wf_awaitElems (h : Wf s) : Wf (awaitElems s inOrder els fault l) := wf_onHead (wf_awaitPieces h)

theorem wf_validateWrote (h : Wf s) : Wf (validateWrote s) := by
  unfold validateWrote
  dsimp only
  refine wf_foldl (fun _ h1 _ => ?_) h
  split
  · exact wf_ite (wf_validateBlock h1) h1
  · exact h1
  · exact h1

theorem wf_elemsDone (h : Wf s) : OutWf (elemsDone o f e fails s) := by
  unfold elemsDone
  dsimp only
  split
  · exact wf_retire (wf_validateWrote h)
  · exact wf_queuedTrap (wf_keepBitmap (wf_atElement h))

theorem wf_keepWrote (h : Wf s) : Wf (keepWrote o t els s) := h.same ⟨rfl, rfl⟩

theorem wf_storeElems (h : Wf s1) : OutWf (storeElems o s els fault s1) :=
  outWf_ite (wf_awaitElems (wf_keepWrote h)) (wf_settle (wf_performStore h) (fun _ h1 => wf_goOn h1))

theorem wf_storeBlocking (h : Wf s) : OutWf (storeBlocking o f s) := by
  unfold storeBlocking
  dsimp only
  split
  · next e => exact wf_park ((wf_vTranslate h).of e)
  · next e => exact wf_storeElems ((wf_vTranslate h).of e)
  · next e => exact wf_storeElems ((wf_vTranslate h).of e)

theorem wf_failCC (h : Wf s) : Wf (failCC s c st) := h.same ⟨rfl, rfl⟩

theorem wf_storeRest (h : Wf s1) : OutWf (storeRest o s els s1) := by
  unfold storeRest
  dsimp only
  refine wf_retire ?_
  split
  · exact wf_performStore h
  · exact wf_failCC (wf_performStore h)

theorem wf_storeNbV (h : Wf s) : OutWf (storeNbV o f s) := by
  unfold storeNbV
  dsimp only
  split
  · exact wf_park h
  · split
    · next e => exact wf_park ((wf_vTranslate h).of e)
    · next e => exact wf_storeElems ((wf_vTranslate h).of e)
    · next e => exact outWf_ite (wf_storeRest ((wf_vTranslate h).of e)) (wf_retire (wf_issueNb ((wf_vTranslate h).of e)))

theorem wf_vstore (h : Wf s) : OutWf (vstore i o f s) :=
  wf_awaited h (fun _ h1 => wf_afterPosts h1 (wf_atHead h1 (wf_unlessVl0 h1 (wf_unlessStride h1 (outWf_ite (wf_storeNbV h1) (wf_storeBlocking h1))))))
    (fun _ _ h1 => wf_elemsDone h1)

theorem wf_prefetchFrame (h : Wf s) : Wf (prefetchFrame s w p ha n) := wf_ite h (wf_onCpu (wf_useHome h))

theorem wf_prefetchRun (h : Wf s) : Wf (prefetchRun s w va n) := by
  unfold prefetchRun
  split
  · exact h
  · exact h
  · next e =>
      have h1 := (wf_placeOf h).of e
      exact wf_ite h (wf_ite (wf_ite h1 (wf_useHome h1)) (wf_foldl (fun _ h2 _ => wf_prefetchFrame h2) h1))

theorem wf_atomicElem {f : ℕ → List Byte → Option (List Byte)} (h : Wf s) : Wf (atomicElem o w ret f s e).1 := by
  unfold atomicElem
  split
  · exact h
  · dsimp only
    split
    · exact wf_ite (wf_onCpu (wf_atomicPlace h)) (wf_atomicPlace h)
    · exact wf_atomicPlace h

theorem wf_vatomic {abn : ℕ → Option ℕ} {f : ℕ → List Byte → Option (List Byte)} {what : ℕ → PieceOp} (h : Wf s) :
    OutWf (vatomic o s ret abn f what) := by
  unfold vatomic
  dsimp only
  split
  · exact wf_queuedTrap (wf_atElement h)
  · split
    · exact wf_queuedTrap (wf_atElement h)
    · split
      · exact wf_park h
      · split
        · next e => exact wf_park ((wf_vTranslate h).of e)
        · next e =>
            have h1 := (wf_vTranslate h).of e
            exact outWf_ite (wf_awaitElems (wf_with h1))
              (wf_settle (wf_performAll (fun _ h2 _ => wf_atomicElem h2) (wf_with h1)) (fun _ h2 => wf_goOn h2))
        · next e =>
            have h1 := (wf_vTranslate h).of e
            exact outWf_ite (wf_retire (wf_issueNb h1)) (outWf_ite (wf_awaitElems (wf_with h1))
              (wf_settle (wf_performAll (fun _ h2 _ => wf_atomicElem h2) (wf_with h1)) (fun _ h2 => wf_goOn h2)))

theorem wf_execVamo (h : Wf s) : OutWf (execVamo o s) := by
  unfold execVamo
  exact wf_awaited h (fun _ h1 => wf_afterPosts h1 (wf_atHead h1 (wf_unlessVl0 h1 (wf_vatomic h1)))) (fun _ _ h1 => wf_elemsDone h1)

theorem wf_execVcas (h : Wf s) : OutWf (execVcas o s) :=
  wf_awaited h (fun _ h1 => wf_afterPosts h1 (wf_atHead h1 (wf_unlessVl0 h1 (wf_vatomic h1)))) (fun _ _ h1 => wf_elemsDone h1)

theorem wf_readWatched (h : Wf s) : Wf (accState (readWatched w s l)) := by
  induction l generalizing s with
  | nil => exact h
  | cons x rest ih =>
    unfold readWatched
    exact wf_andThen (wf_readPlaces h) (fun _ _ h1 => wf_andThen (ih h1) (fun _ _ h2 => h2))

theorem wf_execVwait (h : Wf s) : OutWf (execVwait o s) := by
  unfold execVwait
  dsimp only
  refine wf_atHead h (wf_unlessVl0 h ?_)
  split
  · exact wf_queuedTrap h
  · split
    · next e => exact wf_park ((wf_vTranslate h).of e)
    · next e => exact wf_queuedTrap ((wf_vTranslate h).of e)
    · next e =>
        have h1 := (wf_vTranslate h).of e
        split
        · next e1 => exact wf_park ((wf_readWatched h1).of e1)
        · next e1 => exact wf_queuedTrap ((wf_readWatched h1).of e1)
        · next e1 =>
            have h2 := (wf_readWatched h1).of e1
            exact outWf_ite (wf_retire h2) (wf_parkOn h2)

theorem wf_waitWord {f : ℕ → Bool} {fin : Strand → Strand} (h : Wf s) : OutWf (waitWord o s f fin) :=
  outWf_ite (wf_queuedTrap h)
    (wf_queuedAcc (wf_andThen (wf_placesOf h) (fun _ _ h1 => wf_andThen (wf_readPlaces h1) (fun _ _ h2 => h2)))
      (fun _ _ h1 => wf_ite (wf_retireKeep h1) (wf_parkOn h1)))

theorem wf_wordAtomic {g : List Byte → Strand → Strand} (h : Wf s) : OutWf (wordAtomic o s release act' g) := by
  unfold wordAtomic
  dsimp only
  refine wf_awaited h
    (fun _ h1 =>
      wf_afterPosts h1
        (outWf_ite (wf_queuedTrap h1)
          (outWf_ite (wf_park h1)
            (wf_queuedAccOut (wf_placeOf h1)
              (fun _ _ h2 => outWf_ite (wf_awaitPieces h2) (wf_queuedAcc (wf_atomicMem h1) (fun _ _ h3 => wf_retireKeep h3))))))) (fun _ _ h1 => ?_)
  split
  · exact wf_queuedTrap h1
  · exact wf_retireKeep h1

theorem wf_passBarrier (h : Wf s) : Wf (passBarrier s t i scope) := wf_ite (wf_onTask h) (wf_l1Drop (wf_onTask h))

theorem wf_execBarrier (h : Wf s) : OutWf (execBarrier o s) := by
  unfold execBarrier
  dsimp only
  refine wf_afterPosts h ?_
  split
  · exact wf_queuedTrap h
  · exact outWf_ite (wf_queuedTrap h) (outWf_ite (wf_foldl (fun _ h1 _ => wf_passBarrier h1) (wf_onCpu h)) (wf_park (wf_onCpu h)))

/-! Tiles. -/

theorem wf_matrixHead {k : Out} (h : Wf s) (hk : OutWf k) : OutWf (matrixHead i tile types typed s k) := by
  unfold matrixHead
  dsimp only
  split
  · exact wf_queuedTrap h
  · refine outWf_ite (wf_queuedTrap h) (outWf_ite (wf_queuedTrap h) (outWf_ite (wf_queuedTrap h) ?_))
    split
    · exact wf_queuedTrap h
    · exact hk

theorem wf_atRow (h : Wf s) : Wf (atRow s r) := h.same ⟨rfl, rfl⟩

theorem wf_placesAll (h : Wf s) : Wf (accState (placesAll w k n s l)) := by
  induction l generalizing s with
  | nil => exact h
  | cons x rest ih =>
    unfold placesAll
    exact wf_andThen (wf_placesOf h) (fun _ _ h1 => wf_andThen (ih h1) (fun _ _ h2 => h2))

theorem wf_readAll (h : Wf s) : Wf (accState (readAll w hint s l)) := by
  induction l generalizing s with
  | nil => exact h
  | cons x rest ih =>
    unfold readAll
    exact wf_andThen (wf_readPlaces h) (fun _ _ h1 => wf_andThen (ih h1) (fun _ _ h2 => h2))

theorem wf_checkAddrs (h : Wf s) : Wf (wmState (checkAddrs k s l)) := by
  induction l generalizing s with
  | nil => exact h
  | cons x rest ih =>
    unfold checkAddrs
    split
    · next e => exact ih ((wf_wmCheck h).of e)
    · next e => exact (wf_wmCheck h).of e
    · next e => exact (wf_wmCheck h).of e

theorem wf_pipeRead (h : Wf s) : Wf (accState (pipeRead s hint n l)) := by
  unfold pipeRead
  dsimp only
  refine wf_andThen (wf_placesAll h) (fun _ _ h1 => ?_)
  split
  · next e => exact (wf_checkAddrs h1).of e
  · next e => exact (wf_checkAddrs h1).of e
  · next e => exact wf_readAll ((wf_checkAddrs h1).of e)

theorem wf_tmacSteps (h : Wf s) : OutWf (tmacSteps o tile x y n n1 s) := by
  induction n generalizing n1 s with
  | zero => exact outWf_ite (wf_retireKeep (wf_atRow h)) (wf_betweenSteps (wf_atRow h))
  | succ n ih =>
    unfold tmacSteps
    dsimp only
    split
    · next e => exact wf_park (wf_atRow ((wf_pipeRead h).of e))
    · next e => exact wf_queuedTrap (wf_atRow ((wf_pipeRead h).of e))
    · next e =>
        have h1 := (wf_pipeRead h).of e
        split
        · exact wf_queuedTrap (wf_atRow h1)
        · exact ih (wf_onCpu h1)

theorem wf_execTmac (h : Wf s) : OutWf (execTmac o s) := by
  unfold execTmac
  dsimp only
  refine wf_matrixHead h ?_
  split
  · exact wf_retireKeep (wf_atRow h)
  · split
    · exact wf_queuedTrap h
    · split
      · exact wf_queuedTrap h
      · split
        · exact wf_queuedTrap h
        · split
          · exact wf_queuedTrap h
          · split
            · exact wf_queuedTrap h
            · exact wf_tmacSteps h

theorem wf_tileMove {k : Lines → Out} (h : Wf s) (hk : ∀ a, OutWf (k a)) : OutWf (tileMove i o s n k) := by
  unfold tileMove
  dsimp only
  refine wf_matrixHead h ?_
  split
  · exact wf_retireKeep (wf_atRow h)
  · split
    · exact wf_queuedTrap h
    · split
      · exact wf_queuedTrap h
      · exact hk _

theorem wf_loadRows (h : Wf s) : OutWf (loadRows o x n n1 s) := by
  induction n generalizing n1 s with
  | zero => exact wf_retireKeep (wf_atRow h)
  | succ n ih =>
    unfold loadRows
    split
    · next e => exact wf_park (wf_atRow ((wf_pipeRead h).of e))
    · next e => exact wf_queuedTrap (wf_atRow ((wf_pipeRead h).of e))
    · next e => exact ih (wf_onCpu ((wf_pipeRead h).of e))

theorem wf_storeCells (h : Wf s) : Wf (accState (storeCells w s l)) := by
  induction l generalizing s with
  | nil => exact h
  | cons x rest ih =>
    unfold storeCells
    split
    · next e => exact ih ((wf_writePlaces h).of e)
    · next e => exact (wf_writePlaces h).of e

theorem wf_storeRows (h : Wf s) : OutWf (storeRows o x n n1 s) := by
  induction n generalizing n1 s with
  | zero => exact wf_retireKeep (wf_atRow h)
  | succ n ih =>
    unfold storeRows
    dsimp only
    split
    · next e => exact wf_park (wf_atRow ((wf_placesAll h).of e))
    · next e => exact wf_queuedTrap (wf_atRow ((wf_placesAll h).of e))
    · next e =>
        have h1 := (wf_placesAll h).of e
        split
        · exact wf_park (wf_atRow h1)
        · split
          · exact wf_queuedTrap (wf_atRow h1)
          · exact wf_queuedTrap (wf_atRow h1)
          · split
            · next e1 => exact wf_park (wf_atRow ((wf_storeCells h1).of e1))
            · next e1 => exact wf_queuedTrap (wf_atRow ((wf_storeCells h1).of e1))
            · next e1 => exact ih (wf_onCpu ((wf_storeCells h1).of e1))

theorem wf_lineHead {k : Out} (h : Wf s) (hk : OutWf k) : OutWf (lineHead i o tile read' s k) :=
  wf_matrixHead h (outWf_ite (wf_queuedTrap h) (wf_unlessVl0 h hk))

theorem wf_execTrd (h : Wf s) : OutWf (execTrd o s) := by
  unfold execTrd
  dsimp only
  refine wf_lineHead h ?_
  split
  · exact wf_queuedTrap h
  · exact wf_runElems h

/-! VDOTV and top-k objects. -/

theorem wf_sampleTau (h : Wf s) : Wf (accState (sampleTau s cell tau)) := wf_andThen (wf_readMem h) (fun _ _ h1 => h1)

theorem wf_rowEntries (h : Wf s) : Wf (rowState (rowEntries p q cell data s e l sum b live vfs tau)) := by
  induction l generalizing s e sum b live vfs tau with
  | nil => exact h
  | cons ent rest ih =>
    unfold rowEntries
    dsimp only
    generalize hx : (if (!live) = true then _ else _) = x
    have hw : Wf (accState x) := by
      rw [← hx]
      split
      · exact h
      · split
        · exact wf_andThen (wf_sampleTau h) (fun _ _ h1 => h1)
        · exact h
    split
    · exact hw
    · exact hw
    · exact hw
    · split
      · exact ih hw
      · split
        · next e => exact (wf_readMem hw).of e
        · next e => exact (wf_readMem hw).of e
        · next e =>
          split
          · exact (wf_readMem hw).of e
          · exact ih ((wf_readMem hw).of e)

theorem wf_rowEval (h : Wf s) : Wf (rowState (rowEval n p q cell rec tau s)) := by
  unfold rowEval
  dsimp only
  split
  · next e => exact (wf_wmCheck h).of e
  · next e => exact (wf_wmCheck h).of e
  · next e =>
      have h1 := (wf_wmCheck h).of e
      split
      · next e1 => exact (wf_readMem h1).of e1
      · next e1 => exact (wf_readMem h1).of e1
      · next e1 =>
          have h2 := (wf_readMem h1).of e1
          split
          · exact h2
          · exact wf_rowEntries h2

theorem wf_keepRow (h : Wf s) : Wf (keepRow s q tau) := h.same ⟨rfl, rfl⟩

theorem wf_vdotvRows (h : Wf s) : OutWf (vdotvRows o q cell base stride stop s n l) := by
  induction l generalizing s n with
  | nil => exact wf_retire h
  | cons x rest ih =>
    unfold vdotvRows
    dsimp only
    split
    · exact wf_betweenSteps (wf_keepRow (wf_atElement h))
    · split
      · exact wf_queuedTrap (wf_atElement h)
      · split
        · next e => exact wf_park (wf_keepRow (wf_atElement ((wf_rowEval h).of e)))
        · next e => exact wf_queuedTrap (wf_atElement ((wf_rowEval h).of e))
        · next e => exact ih (wf_onCpu ((wf_rowEval h).of e))

theorem wf_cellCheck (h : Wf s) : Wf (accState (cellCheck o s)) := by
  unfold cellCheck
  dsimp only
  split
  · exact h
  · split
    · exact h
    · exact wf_andThen (wf_placeOf h) (fun _ _ h1 => h1)

theorem wf_execVdotv (h : Wf s) : OutWf (execVdotv o s) := by
  unfold execVdotv
  dsimp only
  refine wf_matrixHead h (wf_unlessVl0 h ?_)
  refine wf_queuedAccOut (wf_cellCheck h) (fun _ _ h1 => ?_)
  split
  · exact wf_vdotvRows h1
  · exact wf_queuedAccOut (wf_readMem h1) (fun _ _ h2 => outWf_ite (wf_retire h2) (wf_vdotvRows h2))

theorem wf_topkRead (h : Wf s) : Wf (topkState (topkRead s w p)) := by
  unfold topkRead
  dsimp only
  split
  · exact h
  · split
    · exact h
    · split
      · exact wf_readPlace h
      · split
        · exact wf_readPlace h
        · split
          · exact wf_readPlace h
          · split <;> exact wf_readPlace (wf_readPlace h)

theorem wf_topkWrite (h : Wf s) : Wf (topkWrite s w p x).1 := by
  unfold topkWrite
  split
  · split
    · next e =>
        have h1 := (wf_writePlace h).of e
        split
        · exact h1
        · exact wf_writePlace h1
    · exact wf_writePlace h

theorem wf_topkAct (h : Wf s) : OptWf Prod.fst (topkAct s w p cands active) := by
  unfold topkAct
  split
  · exact optWf_none
  · next e => exact optWf_some ((wf_topkRead h).of e)
  · next e => exact optWf_some (wf_topkWrite ((wf_topkRead h).of e))

theorem wf_topkWhole (h : Wf s) : Wf (accState (topkWhole s w k p)) := by
  unfold topkWhole
  dsimp only
  split
  · exact h
  · refine wf_andThen (wf_placeOf h) (fun _ _ h1 => ?_)
    split
    · exact h1
    · exact wf_placeOf h1

theorem wf_topkPlace (h : Wf s) : Wf (accState (topkPlace s va k)) := by
  unfold topkPlace
  refine wf_andThen (wf_placeOf h) (fun _ _ h1 => ?_)
  split
  · exact h1
  · exact wf_topkWhole h1

theorem wf_execTopkinit (h : Wf s) : OutWf (execTopkinit o s) := by
  unfold execTopkinit
  dsimp only
  refine wf_afterPosts h (wf_matrixHead h ?_)
  split
  · next e => exact wf_park ((wf_topkPlace h).of e)
  · next e => exact wf_queuedTrap ((wf_topkPlace h).of e)
  · next e =>
      have h1 := (wf_topkPlace h).of e
      split
      · exact wf_queuedTrap h1
      · split
        · next e1 => exact wf_retireKeep ((wf_writePlace h1).of e1)
        · next e1 => exact wf_queuedTrap ((wf_writePlace h1).of e1)

theorem wf_execTopki (h : Wf s) : OutWf (execTopki o s) := by
  unfold execTopki
  dsimp only
  refine wf_afterPosts h (wf_matrixHead h ?_)
  refine wf_unlessVl0 h ?_
  split
  · exact wf_queuedTrap (wf_atElement h)
  · split
    · exact wf_park h
    · split
      · next e => exact wf_park ((wf_topkPlace h).of e)
      · next e => exact wf_queuedTrap ((wf_topkPlace h).of e)
      · next e =>
          have h1 := (wf_topkPlace h).of e
          split
          · exact wf_retire (wf_issueNb h1)
          · split
            · exact wf_queuedTrap h1
            · next e1 => exact wf_retire ((wf_topkAct h1).of e1)
            · next e1 => exact wf_queuedTrap ((wf_topkAct h1).of e1)

theorem wf_execTopkr (h : Wf s) : OutWf (execTopkr o s) := by
  unfold execTopkr
  dsimp only
  refine wf_matrixHead h (wf_unlessVl0 h ?_)
  split
  · next e => exact wf_park ((wf_topkPlace h).of e)
  · next e => exact wf_queuedTrap ((wf_topkPlace h).of e)
  · next e =>
      have h1 := (wf_topkPlace h).of e
      split
      · next e1 => exact wf_queuedTrap ((wf_topkRead h1).of e1)
      · next e1 => exact wf_queuedTrap ((wf_topkRead h1).of e1)
      · next e1 => exact wf_retire ((wf_topkRead h1).of e1)

/-! Sorted streams and hash tables. -/

theorem wf_readKey (h : Wf s) : Wf (accState (readKey o s base pos last)) := by
  unfold readKey
  dsimp only
  refine wf_andThen (wf_readMem h) (fun _ _ h1 => ?_)
  split
  · exact h1
  · refine wf_andThen ?_ (fun _ _ h2 => h2)
    split
    · exact h1
    · exact wf_andThen (wf_readMem h1) (fun _ _ h2 => h2)

theorem wf_listKey (h : Wf s) : Wf (accState (listKey o s base len pos held last)) := by
  unfold listKey
  split
  · split
    · exact h
    · exact wf_andThen (wf_readKey h) (fun _ _ h1 => h1)
  · exact h

theorem wf_streamLoop (h : Wf s) : Wf (streamLoop o merge d vl stop n s x).1 := by
  induction n generalizing s x with
  | zero => exact h
  | succ n ih =>
    unfold streamLoop
    refine wf_fst_ite h (wf_fst_ite h (wf_fst_ite h ?_))
    split
    · next e => exact (wf_listKey h).of e
    · next e => exact (wf_listKey h).of e
    · next e => exact (wf_listKey h).of e
    · next e =>
        have h1 := (wf_listKey h).of e
        dsimp only
        split
        · next e1 => exact (wf_listKey h1).of e1
        · next e1 => exact (wf_listKey h1).of e1
        · next e1 => exact (wf_listKey h1).of e1
        · next e1 => exact ih ((wf_listKey h1).of e1)

theorem wf_endPass (h : Wf s) : Wf (endPass o merge s p e) := by
  unfold endPass
  dsimp only
  split
  · exact wf_retire h
  · exact wf_retire h
  · exact h
  · exact wf_park h
  · exact wf_queuedTrap (wf_onHead (wf_onCpu h))
  · exact wf_ite (wf_queuedTrap (wf_onHead (wf_onCpu h))) (wf_retire h)

theorem wf_streamStep (h : Wf s) : OutWf (streamStep o merge s bytes d pos p0) := by
  unfold streamStep
  dsimp only
  split
  · exact wf_betweenSteps (wf_onCpu (wf_streamLoop h))
  · exact wf_park (wf_betweenSteps (wf_onCpu (wf_streamLoop h)))
  · split
    · next e => exact wf_endPass ((wf_writeMem (wf_streamLoop h)).of e)
    · next e => exact wf_queuedTrap (wf_onHead ((wf_writeMem (wf_streamLoop h)).of e))
    · next e => exact wf_park (wf_betweenSteps (wf_onCpu ((wf_writeMem (wf_streamLoop h)).of e)))

theorem wf_streamOp (h : Wf s) : OutWf (streamOp i o s merge) := by
  unfold streamOp
  dsimp only
  refine wf_atHead h (wf_unlessVl0 h ?_)
  split
  · exact wf_queuedTrap h
  · split
    · split
      · exact wf_queuedTrap h
      · exact wf_streamStep h
    · refine wf_queuedAccOut (wf_placesOf h) (fun _ _ h1 => ?_)
      refine wf_queuedAccOut (wf_readMem h1) (fun _ _ h2 => ?_)
      split
      · exact wf_queuedTrap h2
      · exact wf_streamStep h2

theorem wf_withTable {k : HashHeader → List Byte → State → Out} (h : Wf s) (hk : ∀ a b t, Wf t → OutWf (k a b t)) : OutWf (withTable o s k) := by
  unfold withTable
  dsimp only
  split
  · exact wf_queuedTrap h
  · split
    · split
      · exact wf_queuedTrap h
      · exact outWf_ite (hk _ _ _ h) (wf_queuedTrap h)
    · refine wf_queuedAccOut (wf_readMem h) (fun _ _ h1 => ?_)
      split
      · exact wf_queuedTrap h1
      · exact outWf_ite (hk _ _ _ h1) (wf_queuedTrap h1)

theorem wf_headerReady (h : Wf s) : Wf (accState (headerReady s table)) := by
  unfold headerReady
  dsimp only
  refine wf_andThen (wf_placeOf h) (fun _ _ h1 => ?_)
  split <;> split <;> exact h1

theorem wf_probeSlot (h : Wf s) : Wf (probeState (probeSlot o s table va key v)) := by
  unfold probeSlot
  dsimp only
  split
  · next e => exact (wf_placeOf h).of e
  · next e => exact (wf_placeOf h).of e
  · next e =>
    have h1 := (wf_placeOf h).of e
    split
    · next e1 => exact (accWf_ite (wf_headerReady h1) h1).of e1
    · next e1 => exact (accWf_ite (wf_headerReady h1) h1).of e1
    · next e1 =>
      have h2 := (accWf_ite (wf_headerReady h1) h1).of e1
      split
      · next e2 =>
        have h3 := (wf_atomicPlace h2).of e2
        split
        · exact h3
        · split <;> exact h3
      · next e2 => exact (wf_atomicPlace h2).of e2

theorem wf_gainUsed (h : Wf s) : Wf (accState (gainUsed s table)) := wf_andThen (wf_atomicMem h) (fun _ _ h1 => h1)

/-- `placeKey` with the probe of one slot as a parameter: the kernel then compares the two without evaluating a probe. -/
def placeKeyWith (probe : State → Word → Word → ℕ → ℕ → Probe) (o : Ops) (table : Word) (hd : HashHeader) (key v : ℕ) :
    ℕ → ℕ → State → Acc Bool
  | 0, _, s => .ok false s
  | n + 1, p, s =>
    match probe s table (slotVa table ((hashOf hd.slots key + p) % hd.slots)) key v with
    | .claimed s1 => (gainUsed s1 table).andThen (fun _ s2 => .ok true s2)
    | .combined fl s1 => .ok true (s1.onCpu (fun t => t.orFlags fl))
    | .other s1 => placeKeyWith probe o table hd key v n (p + 1) s1
    | .fault c t s1 => .fault c t s1
    | .wait s1 => .wait s1

theorem placeKey_eq_placeKeyWith : placeKey o table hd key v = placeKeyWith (probeSlot o) o table hd key v := by
  delta placeKey placeKeyWith placeKey._f placeKeyWith._f
  generalize probeSlot o = probe
  rfl

theorem wf_placeKeyWith {probe : State → Word → Word → ℕ → ℕ → Probe}
    (hp : ∀ s table va key v, Wf s → Wf (probeState (probe s table va key v))) (h : Wf s) :
    Wf (accState (placeKeyWith probe o table hd key v n p s)) := by
  induction n generalizing p s with
  | zero => exact h
  | succ n ih =>
    unfold placeKeyWith
    split
    · next e => exact wf_andThen (wf_gainUsed ((hp _ _ _ _ _ h).of e)) (fun _ _ h1 => h1)
    · next e => exact ((hp _ _ _ _ _ h).of e).same ⟨rfl, rfl⟩
    · next e => exact ih ((hp _ _ _ _ _ h).of e)
    · next e => exact (hp _ _ _ _ _ h).of e
    · next e => exact (hp _ _ _ _ _ h).of e

theorem wf_placeKey (h : Wf s) : Wf (accState (placeKey o table hd key v n p s)) := by
  rw [placeKey_eq_placeKeyWith]
  exact wf_placeKeyWith (fun _ _ _ _ _ h1 => wf_probeSlot h1) h

theorem wf_haccElems (h : Wf s) : OutWf (haccElems o table hd u bytes stop s l) := by
  induction l generalizing s with
  | nil => exact wf_retire h
  | cons x rest ih =>
    unfold haccElems
    dsimp only
    split
    · exact wf_betweenSteps (wf_atElement h)
    · split
      · exact wf_queuedTrap (wf_atElement h)
      · split
        · next e => exact wf_queuedTrap (wf_atElement ((wf_placeKey h).of e))
        · next e => exact wf_park (wf_atElement ((wf_placeKey h).of e))
        · next e => exact ih ((wf_placeKey h).of e)
        · next e =>
            have h1 := (wf_placeKey h).of e
            exact outWf_ite (wf_queuedTrap (wf_atElement h1)) (wf_atElement (wf_retire h1))

theorem wf_tableReady (h : Wf s) : Wf (accState (tableReady o hd s)) := by
  unfold tableReady
  split
  · exact h
  · exact wf_andThen (wf_rangeOf h) (fun _ _ h1 => h1)

theorem wf_execHacc (h : Wf s) : OutWf (execHacc o s) :=
  wf_atHead h (wf_unlessVl0 h (wf_withTable h (fun _ _ _ h1 => wf_queuedAccOut (wf_tableReady h1) (fun _ _ h2 => wf_haccElems h2))))

theorem wf_drainLoop (h : Wf s) : Wf (drainLoop o table slots vl n s n1 n2 l).1 := by
  induction n generalizing s n1 n2 l with
  | zero => exact h
  | succ n ih =>
    unfold drainLoop
    dsimp only
    split
    · exact h
    · split
      · exact h
      · split
        · next e => exact (wf_readMem h).of e
        · next e => exact (wf_readMem h).of e
        · next e => split <;> exact ih ((wf_readMem h).of e)

theorem wf_execHdrain (h : Wf s) : OutWf (execHdrain o s) := by
  unfold execHdrain
  dsimp only
  refine wf_atHead h (wf_unlessVl0 h ?_)
  refine wf_withTable h (fun _ _ _ h1 => ?_)
  split
  · exact wf_betweenSteps (wf_onCpu (wf_drainLoop h1))
  · exact wf_park (wf_betweenSteps (wf_onCpu (wf_drainLoop h1)))
  · split
    · next e => exact wf_queuedTrap (wf_onHead ((wf_writeMem (wf_drainLoop h1)).of e))
    · next e => exact wf_park (wf_betweenSteps (wf_onCpu ((wf_writeMem (wf_drainLoop h1)).of e)))
    · next e =>
        have h2 := (wf_writeMem (wf_drainLoop h1)).of e
        split
        · exact wf_queuedTrap (wf_onHead (wf_onCpu h2))
        · exact wf_retire h2

theorem wf_hinitSlots (h : Wf s) : OutWf (hinitSlots s w va slots e sp) := by
  unfold hinitSlots
  dsimp only
  split
  · next e =>
      have h1 := (wf_writePlaces h).of e
      exact outWf_ite (wf_retire h1) (wf_betweenSteps h1)
  · next e => exact wf_queuedTrap ((wf_writePlaces h).of e)

theorem wf_execHinit (h : Wf s) : OutWf (execHinit o s) := by
  unfold execHinit
  dsimp only
  split
  · exact wf_queuedTrap h
  · split
    · exact wf_park h
    · refine wf_afterPosts h (wf_queuedAccOut (wf_rangeOf h) (fun _ _ h1 => ?_))
      refine wf_queuedAccOut (wf_rangeOf h1) (fun _ _ h2 => ?_)
      split
      · exact wf_retire (wf_issueNb h2)
      · split
        · exact wf_hinitSlots h2
        · split
          · next e => exact wf_hinitSlots ((wf_writePlaces h2).of e)
          · next e => exact wf_queuedTrap ((wf_writePlaces h2).of e)

theorem wf_settlePass (h : Wf s) : Wf (settlePass s t) := by
  unfold settlePass
  dsimp only
  split
  · exact h
  · split
    · exact h
    · split
      · exact wf_ite h (wf_onTask h)
      · split
        · next e => exact wf_onTask ((wf_writeMem h).of e)
        · next e => exact wf_onTask ((wf_writeMem h).of e)
        · next e => exact wf_onTask ((wf_writeMem h).of e)

/-! Saving and restoring contexts. -/

theorem wf_zeroHome (h : Wf s) : Wf (zeroHome s ha n) := h.kept (zeroHome_wf ..)

theorem wf_fillRegion (h : Wf s) : Wf (fillRegion s ha b) := wf_withMem (wf_memWrite _ _ _ ((wf_zeroHome h).1)) (wf_zeroHome h)

theorem wf_enterVi (h : Wf s) : Wf (enterVi s ck vi) := wf_setCore (wf_ite (wf_zeroHome h) h)

theorem wf_allocRegion (h : Wf s) : OptWf Prod.snd (allocRegion s ck lid vi n) := by
  unfold allocRegion
  split
  · exact optWf_some h
  · exact optWf_map (optWf_triv h) (fun _ _ => wf_setCore (wf_zeroHome h))

theorem wf_dropRegion (h : Wf s) : Wf (dropRegion s ck lid) := wf_ite h (wf_setCore h)

theorem wf_freeStrand (h : Wf s) : Wf (freeStrand s tid) := h.same ⟨rfl, rfl⟩

theorem wf_saveStrand (h : Wf s) : Wf (saveStrand s t a slot region regionBad) := by
  unfold saveStrand
  split
  next e =>
    extract_lets
    split
    next e1 => exact wf_freeStrand (wf_with ((wf_writeImage ((wf_fresh (wf_settlePass h)).of e)).of e1))

theorem wf_ctxChecks {k : Out} (h : Wf s) (hk : OutWf k) : OutWf (ctxChecks o i s k) :=
  wf_atLevel h (outWf_ite (wf_scalarTrap h) (outWf_ite (wf_scalarTrap h) hk))

theorem wf_execCtxsave (h : Wf s) : OutWf (execCtxsave o s) := by
  unfold execCtxsave
  dsimp only
  refine wf_ctxChecks h ?_
  split
  · exact wf_commit h
  · exact outWf_ite (wf_commit h) (wf_commit (wf_ite (wf_dropRegion (wf_saveStrand h)) (wf_saveStrand h)))

theorem wf_freeSlotOf (h : Wf s) : Wf (freeSlotOf s x) := by
  unfold freeSlotOf
  dsimp only
  split
  · exact h
  · exact wf_setDie h

theorem wf_joinStrand (h : Wf s) : Wf (joinStrand s t) := wf_ite (wf_with h) (wf_with h)

theorem wf_seatRegion (h : Wf s) : OptWf Prod.snd (seatRegion s x lid vi region) := by
  unfold seatRegion
  refine optWf_map (wf_allocRegion (wf_enterVi h)) (fun _ h1 => ?_)
  dsimp only
  split
  · exact wf_fillRegion h1
  · exact h1

theorem wf_takeSaved (h : Wf s) : Wf (takeSaved s x) := wf_with (wf_freeSlotOf h)

theorem wf_dropOlder (h : Wf s) : Wf (dropOlder s t x) := wf_ite h (wf_setCore h)

theorem wf_restoreStrand (h : Wf s) : OptWf id (restoreStrand s x seat) :=
  optWf_map (wf_seatRegion h) (fun _ h1 => wf_joinStrand (wf_takeSaved (wf_dropOlder h1)))

theorem wf_loadAs (h : Wf s) : Wf (loadAs s x).2 := by
  unfold loadAs
  dsimp only
  split
  · exact wf_fresh h
  · exact h

theorem wf_execCtxload (h : Wf s) : OutWf (execCtxload o s) := by
  refine wf_ctxChecks h (outWf_ite (wf_commit h) ?_)
  split
  · exact wf_commit h
  · refine outWf_ite (wf_commit h) (outWf_ite (wf_commit h) ?_)
    split
    next e =>
      split
      · exact wf_commit h
      · next e1 => exact wf_commit ((wf_restoreStrand ((wf_loadAs h).of e)).of e1)

theorem wf_saveGroup (h : Wf s) : Wf (saveGroup s l l1) := by
  induction l generalizing s l1 with
  | nil => exact h
  | cons x rest ih =>
    unfold saveGroup
    dsimp only
    split
    · exact h
    · exact ih (wf_ite (wf_saveStrand (wf_setDie h)) (wf_dropRegion (wf_saveStrand (wf_setDie h))))

theorem wf_waitAgain (h : Wf s) : Wf (waitAgain s g) := h.same ⟨rfl, rfl⟩

theorem wf_leaveSlots (h : Wf s) : Wf (leaveSlots s g) := h.same ⟨rfl, rfl⟩

theorem wf_preemptGroup (h : Wf s) : Wf (preemptGroup s t force) :=
  wf_ite h (wf_ite (wf_with h) (wf_ite (wf_onStrands h) (wf_leaveSlots (wf_waitAgain (wf_saveGroup h)))))

theorem wf_requestPreempt (h : Wf s) : Wf (requestPreempt s t) := by
  unfold requestPreempt
  split
  · exact wf_preemptGroup h
  · exact wf_ite h (wf_with h)

/- `slotHa` stands under a name of its own: the kernel would compute with its powers of two to compare two forms of `saveStopped`. -/
theorem wf_saveStopped (h : Wf s) : Wf (saveStopped s x) := by
  obtain ⟨place, e⟩ : ∃ f, f = slotHa := ⟨_, rfl⟩
  unfold saveStopped
  rw [← e]
  dsimp only
  split
  · exact wf_with h
  · exact wf_dropRegion (wf_with (wf_writeImage (wf_fresh (wf_setDie h))))

theorem wf_execPreemptionSave (h : Wf s) : OutWf (execPreemptionSave s) := by
  unfold execPreemptionSave
  split
  · exact wf_requestPreempt h
  · split
    · exact wf_saveStopped h
    · exact h

theorem wf_execPreemptDeferralExpiry (h : Wf s) : OutWf (execPreemptDeferralExpiry s) := by
  unfold execPreemptDeferralExpiry
  split
  · exact h
  · split
    · exact h
    · exact outWf_ite (wf_preemptGroup h) h

theorem wf_orphanPieces (h : Wf s) : Wf (orphanPieces s tid) := h.same ⟨rfl, rfl⟩

theorem wf_resumeLost (h : Wf s) : OptWf id (resumeLost s x seat) :=
  optWf_map (wf_seatRegion h) (fun _ h1 => wf_joinStrand (wf_with (wf_orphanPieces (wf_freeSlotOf (wf_dropOlder h1)))))

theorem wf_resumeShare (h : Wf s) : Wf (resumeShare c s l) := by
  induction l generalizing s with
  | nil => exact h
  | cons x rest ih =>
    unfold resumeShare
    dsimp only
    split
    · exact h
    · split
      · exact h
      · next e => exact ih ((optWf_ite (wf_resumeLost h) (wf_restoreStrand h)).of e)

theorem wf_resumeGroup (h : Wf s) : Wf (resumeGroup n s l) := by
  induction n generalizing s l with
  | zero => exact h
  | succ n ih =>
    cases l with
    | nil => exact h
    | cons x rest =>
      unfold resumeGroup
      dsimp only
      split
      · exact h
      · exact ih (wf_resumeShare h)

theorem wf_resumeWhole (h : Wf s) : Wf (resumeWhole s x) := wf_ite h (wf_ite h (wf_resumeGroup h))

/-! Copies, circular and named buffers. -/

theorem wf_copyStep (h : Wf s) : Wf (accState (copyStep s w src dst sva dva)) := by
  unfold copyStep
  refine wf_andThen (wf_readPlaces h) (fun _ _ h1 => ?_)
  split
  · next e => exact (wf_writePlaces h1).of e
  · next e => exact (wf_writePlaces h1).of e

theorem wf_copyTurn (h : Wf s) : OutWf (copyTurn w src dst sva dva n s) := by
  unfold copyTurn
  dsimp only
  split
  · exact wf_retire h
  · split
    · next e =>
        have h1 := (wf_copyStep h).of e
        exact outWf_ite (wf_retire h1) (wf_betweenSteps (wf_atElement h1))
    · next e => exact wf_queuedTrap ((wf_copyStep h).of e)
    · next e => exact wf_park ((wf_copyStep h).of e)

theorem wf_execCopy (h : Wf s) : OutWf (execCopy o s) :=
  outWf_ite (wf_queuedTrap h)
    (outWf_ite (wf_retire h)
      (outWf_ite (wf_park h)
        (wf_afterPosts h
          (wf_queuedAccOut (wf_rangeOf h)
            (fun _ _ h1 => wf_queuedAccOut (wf_rangeOf h1) (fun _ _ h2 => outWf_ite (wf_retire (wf_issueNb h2)) (wf_copyTurn h2)))))))

theorem wf_readCb (h : Wf s) : Wf (accState (readCb s w va)) := by
  unfold readCb
  split
  · exact h
  · refine wf_andThen (wf_placeOf h) (fun _ _ h1 => ?_)
    refine wf_andThen (wf_readPlaces h1) (fun _ _ h2 => ?_)
    split <;> exact h2

theorem wf_putCb (h : Wf s) : Wf (putCb s w p d).1 := wf_writePlace h

theorem wf_claimCb (h : Wf s) : Wf (accState (claimCb s w va)) := by
  unfold claimCb
  dsimp only
  refine wf_andThen (wf_readCb h) (fun _ _ h1 => ?_)
  split
  · exact h1
  · split
    · next e => exact wf_setDie (wf_fresh ((wf_putCb h1).of e))
    · next e => exact (wf_putCb h1).of e

theorem wf_fillCb (h : Wf s) : Wf (fillCb s w p num).1 := by
  unfold fillCb
  dsimp only
  split
  · exact wf_setDie h
  · exact wf_atomicPlace (wf_setDie h)

theorem wf_cbTranslate (h : Wf s) : Wf (accState (cbTranslate s w src desc d)) := by
  unfold cbTranslate
  split
  · exact h
  · exact wf_andThen (wf_rangeOf h) (fun _ _ h1 => wf_andThen (wf_rangeOf h1) (fun _ _ h2 => h2))

theorem wf_cbMove (h : Wf s) : Wf (accState (cbMove s w src d slot lo)) :=
  wf_andThen (wf_rangeOf h) (fun _ _ h1 => wf_andThen (wf_rangeOf h1) (fun _ _ h2 => wf_copyStep h2))

theorem wf_readSound (h : Wf s) : Wf (accState (readSound w s l)) := by
  induction l generalizing s with
  | nil => exact h
  | cons x rest ih =>
    unfold readSound
    dsimp only
    refine wf_andThen ?_ (fun _ _ h1 => wf_andThen (ih h1) (fun _ _ h2 => h2))
    split
    · next e => exact (wf_placeOf h).of e
    · next e => exact (wf_placeOf h).of e
    · next e =>
        have h1 := (wf_placeOf h).of e
        split
        · exact h1
        · exact wf_readPlace h1

theorem wf_writeSound (h : Wf s) : Wf (accState (writeSound w s l)) := by
  induction l generalizing s with
  | nil => exact h
  | cons x rest ih =>
    unfold writeSound
    dsimp only
    refine wf_andThen ?_ (fun _ _ h1 => wf_andThen (ih h1) (fun _ _ h2 => h2))
    split
    · next e => exact (wf_placeOf h).of e
    · next e => exact (wf_placeOf h).of e
    · next e => exact wf_writePlace ((wf_placeOf h).of e)

theorem wf_cbMoveSound (h : Wf s) : Wf (accState (cbMoveSound s w src d slot)) :=
  wf_andThen (wf_readSound h) (fun _ _ h1 => wf_andThen (wf_writeSound h1) (fun _ _ h2 => h2))

theorem wf_cbFinish (h : Wf s) : OutWf (cbFinish s w src desc p d slot num) := by
  unfold cbFinish
  dsimp only
  split
  · next e => exact wf_queuedTrap (wf_onHead ((wf_cbMove h).of e))
  · next e => exact wf_park (wf_onHead ((wf_cbMove h).of e))
  · next e =>
      have h1 := (wf_cbMove h).of e
      split
      · exact wf_betweenSteps (wf_onHead h1)
      · split
        · next e1 => exact wf_retireKeep ((wf_fillCb h1).of e1)
        · next e1 => exact wf_queuedTrap (wf_onHead ((wf_fillCb h1).of e1))

theorem wf_execCbcopy (h : Wf s) : OutWf (execCbcopy o s) := by
  unfold execCbcopy
  dsimp only
  split
  · exact wf_park h
  · refine wf_queuedAccOut (wf_readCb h) (fun _ _ h1 => ?_)
    refine wf_queuedAccOut (wf_cbTranslate h1) (fun _ _ h2 => ?_)
    split
    · exact wf_retireKeep (wf_issueNb h2)
    · split
      · exact wf_cbFinish h2
      · refine wf_queuedAccOut (wf_claimCb h2) (fun _ _ h3 => ?_)
        split
        · exact wf_parkOn h3
        · exact wf_cbFinish h3

theorem wf_performCbcopy (h : Wf s) : Wf (perfState (performCbcopy s p src desc)) := by
  unfold performCbcopy
  dsimp only
  split
  · next e => exact (wf_claimCb h).of e
  · next e => exact (wf_claimCb h).of e
  · next e => exact (wf_claimCb h).of e
  · next e =>
      have h1 := (wf_claimCb h).of e
      split
      · next e1 => exact wf_fillCb ((wf_cbMoveSound h1).of e1)
      · exact wf_with h
      · next e1 => exact wf_fillCb ((wf_cbMoveSound h1).of e1)

theorem wf_execCbwaitf (h : Wf s) : OutWf (execCbwaitf o s) := by
  unfold execCbwaitf
  dsimp only
  refine wf_queuedAccOut (wf_readCb h) (fun _ _ h1 => ?_)
  split
  · exact wf_parkOn h1
  · split
    · next e => exact wf_retireKeep ((wf_putCb h1).of e)
    · next e => exact wf_queuedTrap ((wf_putCb h1).of e)

theorem wf_execCbfree (h : Wf s) : OutWf (execCbfree o s) := by
  unfold execCbfree
  dsimp only
  refine wf_afterPosts h (wf_queuedAccOut (wf_readCb h) (fun _ _ h1 => ?_))
  split
  · exact wf_queuedTrap h1
  · split
    · next e => exact wf_retireKeep ((wf_putCb h1).of e)
    · next e => exact wf_queuedTrap ((wf_putCb h1).of e)

theorem wf_execShadow (h : Wf s) : OutWf (execShadow o s) := by
  unfold execShadow
  dsimp only
  split
  · exact wf_queuedTrap h
  · exact wf_retireKeep h

theorem wf_swapFrames (h : Wf s) : Wf (swapFrames s x y) := wf_withMem (wf_memWrite _ _ _ (wf_memWrite _ _ _ h.1)) h

theorem wf_swapBuffer (h : Wf s) : Wf (swapBuffer s pkg vi e) :=
  wf_noteWrite
    (wf_withMem (wf_memWrite _ _ _ ((wf_advanceTags (wf_foldl (fun _ h1 _ => wf_swapFrames h1) h)).1))
      (wf_advanceTags (wf_foldl (fun _ h1 _ => wf_swapFrames h1) h)))

theorem wf_publishPages (h : Wf s) : Wf (accState (publishPages s pkg vi e)) := by
  unfold publishPages
  dsimp only
  split
  · exact h
  · exact wf_ite h (wf_with h)
  · exact h

theorem wf_publishNow (h : Wf s) : Wf (accState (publishNow s pkg vi e earlier)) := by
  unfold publishNow
  split
  · exact h
  · refine wf_andThen (wf_publishPages h) (fun _ _ h1 => ?_)
    split
    · exact h1
    · exact wf_swapBuffer h1

theorem wf_execPublish (h : Wf s) : OutWf (execPublish o s) := by
  unfold execPublish
  dsimp only
  split
  · exact wf_park h
  · split
    · exact wf_queuedTrap h
    · exact outWf_ite (wf_queuedAcc (wf_publishPages h) (fun _ _ h1 => wf_retireKeep (wf_issueNb h1)))
        (wf_queuedAcc (wf_publishNow h) (fun _ _ h1 => wf_retireKeep h1))

theorem wf_performPublish (h : Wf s) : Wf (perfState (performPublish s p index)) := by
  unfold performPublish
  dsimp only
  split
  · exact h
  · split
    · next e => exact (wf_publishNow h).of e
    · next e => exact (wf_publishNow h).of e
    · next e => exact (wf_publishNow h).of e

/-! Transfers, registrations and windows. -/

theorem wf_counterPlace (h : Wf s) : Wf (accState (counterPlace s w x)) := by
  unfold counterPlace
  split
  · exact h
  · exact wf_andThen (wf_placeOf h) (fun _ _ h1 => h1)

theorem wf_countSent (h : Wf s) : Wf (countSent s flag die n) := h.same ⟨rfl, rfl⟩

theorem wf_rsendBlocking (h : Wf s) : OutWf (rsendBlocking s b flag src dst c) :=
  wf_queuedAcc (wf_readPlaces h) (fun _ _ h1 => wf_awaitPieces (wf_countSent h1))

theorem wf_bulkDone (h : Wf s) : OutWf (bulkDone fails s) := by
  unfold bulkDone
  split
  · exact wf_retireKeep h
  · exact wf_queuedTrap h

theorem wf_readMarked (h : Wf s) : Wf (readMarked w s l).2 := by
  induction l generalizing s with
  | nil => exact h
  | cons x rest ih =>
    unfold readMarked
    dsimp only
    exact ih (wf_readPlace h)

theorem wf_markUe (h : Wf s) : Wf (markUe s c) := h.same ⟨rfl, rfl⟩

theorem wf_rsendNb (h : Wf s) : OutWf (rsendNb s o b flag src dst c) := by
  unfold rsendNb
  dsimp only
  exact wf_retireKeep (wf_issueNb (wf_countSent (wf_ite (wf_markUe (wf_readMarked h)) (wf_readMarked h))))

theorem wf_execRsend (h : Wf s) : OutWf (execRsend o s) := by
  unfold execRsend
  extract_lets
  refine wf_awaited h (fun _ h1 => wf_afterPosts h1 ?_) (fun _ _ h1 => wf_bulkDone h1)
  refine outWf_ite (wf_queuedTrap h1) ?_
  split
  · exact wf_queuedTrap h1
  · exact outWf_ite (wf_park h1) (wf_queuedAccOut (wf_rangeOf h1) (fun _ _ h2 => wf_queuedAccOut (wf_rangeOf h2)
      (fun _ _ h3 => wf_queuedAccOut (wf_counterPlace h3) (fun _ _ h4 => outWf_ite (wf_rsendNb h4) (wf_rsendBlocking h4)))))

theorem wf_execRfetch (h : Wf s) : OutWf (execRfetch o s) := by
  unfold execRfetch
  extract_lets
  refine wf_awaited h (fun _ h1 => outWf_ite (wf_queuedTrap h1) ?_) (fun _ _ h1 => wf_bulkDone h1)
  split
  · exact wf_queuedTrap h1
  · exact outWf_ite (wf_park h1) (wf_queuedAccOut (wf_rangeOf h1) (fun _ _ h2 => wf_queuedAccOut (wf_rangeOf h2)
      (fun _ _ h3 => wf_queuedAccOut (wf_counterPlace h3) (fun _ _ h4 => outWf_ite (wf_retireKeep (wf_issueNb h4)) (wf_awaitPieces h4)))))

theorem wf_noteOccupancy (h : Wf s) : Wf (noteOccupancy s w desc filled) := h.same ⟨rfl, rfl⟩

theorem wf_xsendTranslate (h : Wf s) : Wf (accState (xsendTranslate s w src d)) :=
  wf_andThen (wf_rangeOf h) (fun _ _ h1 => wf_andThen (wf_rangeOf h1) (fun _ _ h2 => h2))

theorem wf_claimReplica (h : Wf s) : Wf (accState (claimReplica w src s l)) := by
  induction l generalizing s with
  | nil => exact h
  | cons x rest ih =>
    unfold claimReplica
    refine wf_andThen (wf_readCb h) (fun _ _ h1 => ?_)
    refine wf_andThen ?_ ?_
    · split
      · exact h1
      · exact wf_xsendTranslate h1
    · intro _ _ h2
      refine wf_andThen (wf_claimCb h2) (fun _ _ h3 => ?_)
      split
      · exact h3
      · exact ih (wf_noteOccupancy h3)

theorem wf_xsendReady (h : Wf s) : Wf (accState (xsendReady w src s l)) := by
  induction l generalizing s with
  | nil => exact h
  | cons x rest ih =>
    unfold xsendReady
    exact wf_andThen (wf_readCb h) (fun _ _ h1 => wf_andThen (wf_rangeOf h1) (fun _ _ h2 => wf_andThen (wf_rangeOf h2) (fun _ _ h3 => ih h3)))

theorem wf_expertReplicas (h : Wf s) : Wf (accState (expertReplicas s w table e)) := by
  unfold expertReplicas
  dsimp only
  split
  · exact h
  · refine wf_andThen (wf_readMem h) (fun _ _ h1 => ?_)
    split <;> exact h1

theorem wf_finishXsend (h : Wf s) : Wf (finishXsend s w x).1 := by
  unfold finishXsend
  split
  · next e =>
      have h1 := (wf_fillCb h).of e
      split
      · next e1 => exact wf_noteOccupancy ((wf_readCb h1).of e1)
      · next e1 => exact (wf_readCb h1).of e1
      · next e1 => exact (wf_readCb h1).of e1

theorem wf_keepClaim (h : Wf s) : Wf (keepClaim s x) := h.same ⟨rfl, rfl⟩

theorem wf_xsendClaimed (h : Wf s) : OutWf (xsendClaimed s src x) :=
  wf_queuedAcc
    (wf_andThen (wf_rangeOf (wf_keepClaim h))
      (fun _ _ h1 => wf_andThen (wf_rangeOf h1) (fun _ _ h2 => wf_andThen (wf_readPlaces h2) (fun _ _ h3 => h3)))) (fun _ _ h1 => wf_awaitPieces h1)

theorem wf_claimedReplica (h : Wf s) : Wf (accState (claimedReplica s w l c)) := wf_andThen (wf_readCb h) (fun _ _ h1 => h1)

theorem wf_xsendDone (h : Wf s) : OutWf (xsendDone o s l fails) := by
  unfold xsendDone
  split
  · exact wf_queuedTrap h
  · exact wf_park h
  · refine wf_queuedAccOut (wf_claimedReplica h) (fun _ _ h1 => ?_)
    split
    · next e => exact wf_retireKeep ((wf_finishXsend h1).of e)
    · next e => exact wf_queuedTrap ((wf_finishXsend h1).of e)

theorem wf_execXsend (h : Wf s) : OutWf (execXsend o s) := by
  unfold execXsend
  dsimp only
  split
  · exact wf_park h
  · refine wf_queuedAccOut (wf_expertReplicas h) (fun _ _ h1 => ?_)
    split
    · exact wf_queuedAcc (wf_xsendReady h1) (fun _ _ h2 => wf_retireKeep (wf_issueNb h2))
    · refine wf_awaited h1 (fun _ h2 => ?_) (fun _ _ h3 => wf_xsendDone h3)
      split
      · exact wf_queuedAccOut (wf_claimedReplica h2) (fun _ _ h3 => wf_xsendClaimed h3)
      · refine wf_queuedAccOut (wf_claimReplica h2) (fun _ _ h3 => ?_)
        split
        · exact wf_park (wf_onHead h3)
        · exact wf_xsendClaimed h3

theorem wf_xsendPackets (h : Wf s) : Wf (xsendPackets s p x dps bytes) := wf_foldl (fun _ h1 _ => wf_followOn h1) h

theorem wf_performXsend (h : Wf s) : Wf (perfState (performXsend s p src expert table)) := by
  unfold performXsend
  dsimp only
  split
  · next e => exact (wf_expertReplicas h).of e
  · next e => exact (wf_expertReplicas h).of e
  · next e =>
      have h1 := (wf_expertReplicas h).of e
      split
      · next e1 => exact (wf_claimReplica h1).of e1
      · next e1 => exact (wf_claimReplica h1).of e1
      · next e1 => exact (wf_claimReplica h1).of e1
      · next e1 =>
          have h2 := (wf_claimReplica h1).of e1
          split
          · next e2 _ => exact wf_xsendPackets ((wf_readSound h2).of e2)
          · next e2 _ => exact wf_xsendPackets ((wf_readSound h2).of e2)
          · exact wf_with h
          · exact wf_with h
          · next e2 => exact wf_xsendPackets ((wf_readSound h2).of e2)

theorem wf_performFill (h : Wf s) : Wf (perfState (performFill s p desc num)) := by
  unfold performFill
  split
  · exact h
  · split
    · next e => exact (wf_placeOf h).of e
    · next e => exact (wf_placeOf h).of e
    · next e =>
        have h1 := (wf_placeOf h).of e
        split
        · next e1 =>
            have h2 := (wf_fillCb h1).of e1
            split
            · next e2 => exact wf_noteOccupancy ((wf_readCb h2).of e2)
            · next e2 => exact (wf_readCb h2).of e2
            · next e2 => exact (wf_readCb h2).of e2

theorem wf_csendDone (h : Wf s) : OutWf (csendDone fails s) := by
  unfold csendDone
  split
  · exact wf_retire h
  · exact wf_queuedTrap (wf_onHead h)

theorem wf_execCsend (h : Wf s) : OutWf (execCsend o s) := by
  unfold execCsend
  dsimp only
  refine wf_atHead h (wf_unlessVl0 h ?_)
  split
  · exact wf_queuedTrap (wf_atElement h)
  · split
    · exact wf_park h
    · split
      · exact wf_queuedTrap h
      · refine wf_awaited h (fun _ h1 => ?_) (fun _ _ h2 => wf_csendDone h2)
        split
        · next e => exact wf_park ((wf_vTranslate h1).of e)
        · next e => exact wf_queuedTrap ((wf_vTranslate h1).of e)
        · next e =>
            have h2 := (wf_vTranslate h1).of e
            exact outWf_ite (wf_retire (wf_issueNb h2)) (outWf_ite (wf_retire h2) (wf_awaitPieces h2))

theorem wf_grantPlaces (h : Wf s) : Wf (accState (grantPlaces w s l)) := by
  induction l generalizing s with
  | nil => exact h
  | cons x rest ih =>
    unfold grantPlaces
    exact wf_andThen (wf_placeOf h) (fun _ _ h1 => wf_andThen (ih h1) (fun _ _ h2 => h2))

theorem wf_execGrant (h : Wf s) : OutWf (execGrant o s) := by
  unfold execGrant
  dsimp only
  split
  · exact wf_queuedTrap h
  · refine wf_queuedAccOut (wf_grantPlaces h) (fun _ _ h1 => ?_)
    split
    · exact wf_retireKeep h1
    · exact wf_retireKeep (wf_setDie h1)

theorem wf_freeEntry (h : Wf s) : Wf (freeEntry s x) := h.same ⟨rfl, rfl⟩

theorem wf_markRevoking (h : Wf s) : Wf (markRevoking s x) := h.same ⟨rfl, rfl⟩

theorem wf_execRevoke (h : Wf s) : OutWf (execRevoke o s) := by
  unfold execRevoke
  dsimp only
  split
  · exact wf_park h
  · split
    · exact wf_queuedTrap h
    · exact outWf_ite (wf_retireKeep (wf_issueNb (wf_markRevoking h))) (outWf_ite (wf_park (wf_markRevoking h)) (wf_retireKeep (wf_freeEntry h)))

theorem wf_performRevoke (h : Wf s) : Wf (perfState (performRevoke s p hd)) := by
  unfold performRevoke
  split
  · exact h
  · split
    · exact h
    · exact wf_freeEntry h

theorem wf_refuseWrites (h : Wf s) : Wf (refuseWrites s key pages) := wf_foldl (fun _ h1 _ => wf_setChan h1) h

theorem wf_acceptWrites (h : Wf s) : Wf (acceptWrites s key) := h.same ⟨rfl, rfl⟩

theorem wf_putPhys (h : Wf s) : Wf (putPhys s ha words) := wf_noteWrite (wf_withMem (wf_memWrite _ _ _ h.1) h)

theorem wf_resendShootdowns (h : Wf s) : Wf (resendShootdowns s vi index op) := h.same ⟨rfl, rfl⟩

theorem wf_execWrevoke (h : Wf s) : OutWf (execWrevoke o s) := by
  unfold execWrevoke
  dsimp only
  split
  · exact outWf_ite (wf_queuedTrap h) (wf_park (wf_onHead (wf_with (wf_putPhys (wf_fresh h)))))
  · exact outWf_ite (wf_park (wf_resendShootdowns h)) (wf_retireKeep (wf_acceptWrites (wf_putPhys h)))

/-! Collective runs. -/

theorem wf_execColldef (h : Wf s) : OutWf (execColldef o s) := by
  unfold execColldef
  dsimp only
  split
  · exact wf_queuedTrap h
  · split
    · exact wf_park h
    · refine wf_queuedAccOut (wf_readMem h) (fun _ _ h1 => ?_)
      split
      · exact wf_queuedTrap h1
      · refine wf_queuedAccOut (wf_readMem h1) (fun _ _ h2 => ?_)
        split
        · exact wf_queuedTrap h2
        · exact wf_retireKeep (wf_setDie h2)

theorem wf_execCollrun (h : Wf s) : OutWf (execCollrun o s) := by
  unfold execCollrun
  dsimp only
  exact outWf_ite (wf_queuedTrap h) (outWf_ite (wf_park h) (wf_queuedAccOut (wf_readMem h) (fun _ _ h1 => wf_retireKeep (wf_fresh h1))))

theorem wf_execCollwait (h : Wf s) : OutWf (execCollwait o s) := by
  unfold execCollwait
  dsimp only
  split
  · exact wf_retireKeep h
  · exact outWf_ite (wf_retireKeep h) (wf_park h)

theorem wf_onRun {f : CollRun → CollRun} (h : Wf s) : Wf (onRun s tid id' f) := h.same ⟨rfl, rfl⟩

theorem wf_nextStep (h : Wf s) : Wf (nextStep s t r) := h.same ⟨rfl, rfl⟩

theorem wf_failStep (h : Wf s) : Wf (failStep s t r st) := h.same ⟨rfl, rfl⟩

theorem wf_stepAcc {α : Type} {x : Acc α} {f : α → State → State} (hx : Wf (accState x)) (hf : ∀ a t, Wf t → Wf (f a t)) : Wf (stepAcc t r x f) := by
  unfold stepAcc
  split
  · exact hf _ _ hx
  · exact hx
  · exact wf_failStep hx

theorem wf_issueStep (h : Wf s) : Wf (issueStep s t r inOrder counter l) := by
  unfold issueStep
  split
  · next e => exact wf_nextStep (wf_foldl (fun _ h1 _ => wf_issueOne h1) ((wf_fresh h).of e))

theorem wf_putStep (h : Wf s) : Wf (putStep s t r x) := by
  unfold putStep
  dsimp only
  exact wf_ite (wf_failStep h)
    (wf_stepAcc (wf_rangeOf h)
      (fun _ _ h1 =>
        wf_stepAcc (wf_rangeOf h1)
          (fun _ _ h2 =>
            wf_stepAcc (wf_counterPlace h2)
              (fun _ _ h3 => wf_issueStep (wf_ite (wf_onRun (wf_onTask (wf_readMarked h3))) (wf_onTask (wf_readMarked h3)))))))

theorem wf_contribStep (h : Wf s) : Wf (contribStep s t r g x) := by
  unfold contribStep
  dsimp only
  refine wf_stepAcc (wf_rangeOf h) (fun _ _ h1 => ?_)
  refine wf_stepAcc (wf_rangeOf h1) (fun _ _ h2 => ?_)
  refine wf_stepAcc (wf_counterPlace h2) (fun _ _ h3 => ?_)
  split
  · exact h3
  · exact wf_issueStep (wf_readMarked h3)

theorem wf_waitStep (h : Wf s) : Wf (waitStep s t r x) := by
  unfold waitStep
  dsimp only
  split
  · exact wf_nextStep h
  · split
    · exact wf_failStep h
    · refine wf_stepAcc (wf_placeOf h) (fun _ _ h1 => ?_)
      refine wf_stepAcc (wf_readPlaces h1) (fun _ _ h2 => ?_)
      split
      · exact h2
      · split
        · next e => exact wf_nextStep ((wf_atomicPlace h2).of e)
        · next e => exact wf_failStep ((wf_atomicPlace h2).of e)

theorem wf_localStep (h : Wf s) : Wf (localStep s t r x) :=
  wf_stepAcc (wf_rangeOf h) (fun _ _ h1 => wf_stepAcc (wf_rangeOf h1) (fun _ _ h2 => wf_issueStep h2))

theorem wf_collStep (h : Wf s) : Wf (collStep s t r) := by
  unfold collStep
  split
  · exact h
  · split
    · exact h
    · split
      · exact wf_putStep h
      · exact wf_contribStep h
      · exact wf_waitStep h
      · exact wf_localStep h

theorem wf_execCollectiveStep (h : Wf s) : OutWf (execCollectiveStep s) := by
  unfold execCollectiveStep
  split
  · exact h
  · split
    · exact wf_preemptGroup h
    · split
      · exact h
      · exact wf_collStep h

theorem wf_markRuns {f : CollRun → CollRun} (h : Wf s) : Wf (markRuns s l f) := wf_foldl (fun _ h1 _ => wf_ite (wf_onTask h1) (wf_onSaved h1)) h

theorem wf_poisonWords (h : Wf s) : Wf (poisonWords s l) := h.same ⟨rfl, rfl⟩

theorem wf_poisonResult (h : Wf s) : Wf (poisonResult s x dest) := wf_ite h (wf_markRuns (wf_poisonWords h))

theorem wf_finishSlot (h : Wf s) : Wf (finishSlot s w die x dest).1 := by
  unfold finishSlot
  extract_lets _ s1 s2
  have h1 : Wf s2 := wf_ite (wf_markRuns (wf_setDie h)) (wf_setDie h)
  refine wf_fst_ite h1 ?_
  split
  · next e =>
      have h2 := (wf_writePlaces h1).of e
      dsimp only
      split
      · exact wf_poisonResult h2
      · exact wf_addCounter (wf_poisonResult h2)
  · next e => exact (wf_writePlaces h1).of e

theorem wf_deliverSlot (h : Wf s) : Wf (perfState (deliverSlot s p die x)) := by
  unfold deliverSlot
  dsimp only
  split
  · next e => exact (wf_rangeOf h).of e
  · next e => exact wf_finishSlot ((wf_rangeOf h).of e)
  · next e => exact wf_finishSlot ((wf_rangeOf h).of e)

theorem wf_performContrib (h : Wf s) : Wf (perfState (performContrib s p key expected t op bytes counter run bad)) := by
  unfold performContrib
  dsimp only
  split
  · exact h
  · split
    · exact h
    · split
      · exact h
      · split
        · exact wf_deliverSlot h
        · exact wf_setDie h

/-! Control flow. -/

theorem wf_jumpTo {f : Strand → Strand} (h : Wf s) : OutWf (jumpTo s target f) := h.same ⟨rfl, rfl⟩

theorem wf_branchIf {f : Strand → Strand} (h : Wf s) : OutWf (branchIf o s taken f) := outWf_ite (wf_jumpTo h) (wf_commit h)

theorem wf_maskBranch (h : Wf s) : OutWf (maskBranch o s taken) := outWf_ite (wf_park h) (wf_branchIf h)

theorem wf_indirectJump {f : Strand → Strand} (h : Wf s) : OutWf (indirectJump o s f) := outWf_ite (wf_scalarTrap h) (wf_jumpTo h)

theorem wf_gateEntry (h : Wf s) : Wf (accState (gateEntry s index)) := by
  unfold gateEntry
  dsimp only
  split
  · split <;> exact h
  · exact wf_andThen (wf_readMem h) (fun _ _ h1 => h1)

theorem wf_execGate (h : Wf s) : OutWf (execGate o s) := by
  refine outWf_ite (wf_park h) (outWf_ite (wf_scalarTrap h) ?_)
  split
  · next e => exact wf_scalarTrap ((wf_gateEntry h).of e)
  · next e => exact wf_park ((wf_gateEntry h).of e)
  · next e =>
      have h1 := (wf_gateEntry h).of e
      refine outWf_ite (wf_scalarTrap h1) (outWf_ite (wf_scalarTrap h1) (outWf_ite (wf_scalarTrap h1) ?_))
      split
      · next e1 => exact wf_scalarTrap ((wf_writeMem h1).of e1)
      · next e1 => exact wf_park ((wf_writeMem h1).of e1)
      · next e1 => exact wf_jumpTo ((wf_writeMem h1).of e1)

theorem wf_execGret (h : Wf s) : OutWf (execGret s) := by
  unfold execGret
  dsimp only
  split
  · exact wf_park h
  · split
    · next e => exact wf_scalarTrap ((wf_readMem h).of e)
    · next e => exact wf_park ((wf_readMem h).of e)
    · next e =>
        have h1 := (wf_readMem h).of e
        split
        · exact wf_scalarTrap h1
        · split
          · next e1 => exact wf_scalarTrap ((wf_readMem h1).of e1)
          · next e1 => exact wf_park ((wf_readMem h1).of e1)
          · next e1 => exact wf_jumpTo ((wf_readMem h1).of e1)

/-! How pieces and packets end. -/

theorem wf_performTopk (h : Wf s) : Wf (perfState (performTopk s p cands active)) := by
  unfold performTopk
  split
  · next e => exact (wf_arrive h).of e
  · next e => exact (wf_arrive h).of e
  · next e =>
      have h1 := (wf_arrive h).of e
      split
      · next e1 => exact (wf_topkWhole h1).of e1
      · next e1 => exact (wf_topkWhole h1).of e1
      · next e1 =>
          have h2 := (wf_topkWhole h1).of e1
          split
          · exact h2
          · next e2 => exact (wf_topkAct h2).of e2

theorem wf_commitFlag (h : Wf s) : Wf (perfState (commitFlag s p die f)) := by
  unfold commitFlag
  dsimp only
  split
  · exact wf_streamTake (wf_setDie h)
  · split
    · next e => exact (wf_performPiece h).of e
    · next e => exact wf_streamTake (wf_setDie ((wf_performPiece h).of e))

theorem wf_performFlag (h : Wf s) : Wf (perfState (performFlag s p need n)) := by
  unfold performFlag
  dsimp only
  split
  · split
    · exact h
    · exact wf_commitFlag h
  · split
    · exact h
    · split
      · exact wf_commitFlag (wf_setDie h)
      · exact wf_setDie h

theorem wf_performFull (h : Wf s) : Wf (perfState (performFull s p)) := by
  unfold performFull
  split
  · exact wf_performPiece h
  · exact wf_performPiece h
  · exact wf_performPiece h
  · exact wf_performPiece h
  · exact wf_performPiece h
  · split
    · exact h
    · exact wf_performPiece h
  · exact wf_performFlag h
  · exact wf_performPiece h
  · exact wf_performContrib h
  · exact wf_performTopk h
  · exact wf_performCbcopy h
  · exact wf_performXsend h
  · exact wf_performPiece h
  · exact wf_performPiece h
  · exact wf_performPiece h
  · exact wf_performPublish h
  · exact wf_performRevoke h
  · exact wf_performFill h
  · exact wf_performPiece h
  · exact wf_performPiece h
  · exact wf_performPiece h

theorem wf_markRefused (h : Wf s) : Wf (markRefused s id') := h.same ⟨rfl, rfl⟩

theorem wf_markBusy (h : Wf s) : Wf (markBusy s id') := h.same ⟨rfl, rfl⟩

theorem wf_keepPerformed (h : Wf s) : Wf (keepPerformed s q st) := h.same ⟨rfl, rfl⟩

theorem wf_settlePage (h : Wf s) : Wf (settlePage s p) := by
  unfold settlePage
  dsimp only
  split
  · refine wf_foldl (fun _ h1 _ => ?_) h
    split
    · exact wf_endPiece h1
    · exact h1
  · exact h

theorem wf_replyPiece (h : Wf s) : Wf (replyPiece s p st) := wf_ite (wf_settlePage (wf_onPiece h)) (wf_settlePage (wf_endPiece h))

theorem wf_forget (h : Wf s) : Wf (forget s id') := h.same ⟨rfl, rfl⟩

theorem wf_redoPiece (h : Wf s) : Wf (redoPiece s q) := by
  unfold redoPiece
  dsimp only
  split
  · exact wf_onPiece h
  · split
    · next e => exact (wf_placeOf h).of e
    · next e => exact wf_endPiece (wf_forget ((wf_placeOf h).of e))
    · next e => exact wf_transmit (wf_onPiece (wf_forget ((wf_placeOf h).of e)))

theorem wf_redoMates (h : Wf s) : Wf (redoMates s p) :=
  wf_settlePage (wf_foldl (fun _ h1 _ => wf_ite h1 (wf_ite (wf_redoPiece h1) (wf_ite (wf_onPiece h1) h1))) h)

theorem wf_endLocal (h : Wf s) : Wf (endLocal s q st) := wf_replyPiece (wf_keepPerformed (wf_afterPerform h))

theorem wf_runPlaced (h : Wf s) : Wf (runPlaced s p) := by
  unfold runPlaced
  split
  · next e => exact wf_onPiece ((wf_performFull h).of e)
  · next e =>
      have h1 := (wf_performFull h).of e
      split
      · exact wf_markRefused h1
      · exact wf_markBusy h1
  · next e => exact wf_endLocal ((wf_performFull h).of e)

theorem wf_runLocal (h : Wf s) : Wf (runLocal s p) := by
  unfold runLocal
  split
  · exact h
  · split
    · split
      · next e => exact (wf_placeOf h).of e
      · exact wf_runPlaced (wf_redoMates h)
      · next e => exact wf_runPlaced (wf_redoMates (wf_onPiece ((wf_placeOf h).of e)))
    · exact wf_runPlaced h

theorem wf_execCcPieceEnd (h : Wf s) : OutWf (execCcPieceEnd s) := by
  unfold execCcPieceEnd
  split
  · exact h
  · exact outWf_ite h (wf_runLocal h)

theorem wf_execXsendRetry (h : Wf s) : OutWf (execXsendRetry s) := by
  unfold execXsendRetry
  split
  · split
    · exact outWf_ite (wf_runLocal h) h
    · exact h
  · exact wf_onTask h

theorem wf_execGatewayForward (h : Wf s) : OutWf (execGatewayForward s) := by
  unfold execGatewayForward
  split
  · exact h
  · exact outWf_ite h (wf_with h)

theorem wf_takePacket (h : Wf s) : OptWf Prod.snd (takePacket s) := optWf_map (optWf_triv h) (fun _ _ => wf_with h)

theorem wf_holdPacket (h : Wf s) : Wf (holdPacket s k) := h.same ⟨rfl, rfl⟩

theorem wf_dropPacket (h : Wf s) : Wf (dropPacket s k) := wf_pushLog h

theorem wf_expectNext (h : Wf s) : Wf (expectNext s k) := wf_ite (wf_setDie h) h

theorem wf_answer (h : Wf s) : Wf (answer s p k st) := wf_send (wf_expectNext (wf_with h))

theorem wf_receivePacket (h : Wf s) : Wf (receivePacket s k) := by
  unfold receivePacket
  dsimp only
  split
  · exact h
  · split
    · exact h
    · split
      · exact h
      · split
        · exact wf_send h
        · split
          · exact h
          · split
            · exact wf_answer h
            · split
              · next e =>
                  have h1 := (wf_performFull h).of e
                  exact wf_ite (wf_onPiece h1) (wf_holdPacket (wf_onPiece h1))
              · next e => exact wf_send ((wf_performFull h).of e)
              · next e => exact wf_answer (wf_afterPerform (wf_keepPerformed ((wf_performFull h).of e)))

theorem wf_packetEvent {f : State → Packet → State} (h : Wf s) (hf : ∀ t, Wf t → ∀ b, Wf (f t b)) : OutWf (packetEvent s kind f) := by
  unfold packetEvent
  split
  · exact h
  · next e =>
      have h1 := (wf_takePacket h).of e
      exact outWf_ite h (outWf_ite (wf_dropPacket h1) (hf _ h1 _))

theorem wf_execOrderedFlagCommit (h : Wf s) : OutWf (execOrderedFlagCommit s) := by
  unfold execOrderedFlagCommit
  dsimp only
  split
  · exact h
  · split
    · exact h
    · split
      · exact wf_runLocal h
      · split
        · next e => exact (wf_performFull h).of e
        · next e => exact wf_answer (wf_with (wf_afterPerform (wf_keepPerformed ((wf_performFull h).of e))))

theorem wf_reissue (h : Wf s) : Wf (reissue s k p) := by
  unfold reissue
  dsimp only
  split
  · exact wf_holdPacket h
  · split
    · next e => exact wf_holdPacket ((wf_placeOf h).of e)
    · next e => exact wf_redoMates (wf_endPiece (wf_countData (wf_forget ((wf_placeOf h).of e))))
    · next e => exact wf_redoMates (wf_transmit (wf_onPiece (wf_forget ((wf_placeOf h).of e))))

theorem wf_execReadReply (h : Wf s) : OutWf (execReadReply s) := by
  unfold execReadReply
  refine wf_packetEvent h (fun _ h1 _ => ?_)
  split
  · exact h1
  · split
    · exact h1
    · split
      · exact wf_redoPiece h1
      · split
        · exact wf_replyPiece (wf_forget h1)
        · split
          · next e => exact wf_holdPacket ((wf_deliver h1).of e)
          · next e => exact (wf_deliver h1).of e
          · next e => exact wf_closePiece (wf_logConsumed (wf_forget ((wf_deliver h1).of e)))

theorem wf_execAcknowledgement (h : Wf s) : OutWf (execAcknowledgement s) := by
  unfold execAcknowledgement
  refine wf_packetEvent h (fun _ h1 _ => ?_)
  split
  · exact h1
  · exact wf_ite h1 (wf_ite (wf_reissue h1) (wf_ite (wf_redoPiece h1) (wf_replyPiece (wf_forget h1))))

theorem wf_retransmit (h : Wf s) : Wf (retransmit s p) := wf_ite (wf_onPiece h) (wf_send (wf_onPiece h))

theorem wf_timeOut (h : Wf s) : Wf (timeOut s p) := wf_foldl (fun _ h1 _ => wf_settlePage (wf_endPiece (wf_forget h1))) (wf_ite (wf_setCore h) h)

theorem wf_execRetryTimeout (h : Wf s) : OutWf (execRetryTimeout s) := by
  unfold execRetryTimeout
  split
  · exact h
  · exact outWf_ite h (outWf_ite (wf_timeOut h) (wf_foldl (fun _ h1 _ => wf_retransmit h1) (wf_onPiece h)))

theorem wf_execNackRetry (h : Wf s) : OutWf (execNackRetry s) := by
  unfold execNackRetry
  split
  · exact h
  · split
    · exact h
    · exact outWf_ite h (outWf_ite (wf_retransmit h) (wf_runLocal h))

theorem wf_execNackBusyTimeout (h : Wf s) : OutWf (execNackBusyTimeout s) := by
  unfold execNackBusyTimeout
  split
  · exact h
  · split
    · exact h
    · exact outWf_ite h (wf_timeOut h)

/-! Paging, format regions, lanes. -/

theorem wf_putBlock (h : Wf s) : Wf (putBlock s ha bytes invs b) := by
  unfold putBlock
  dsimp only
  split
  · exact wf_withMem (wf_memWrite _ _ _ h.1) h
  · exact wf_setChan h

theorem wf_putFrame (h : Wf s) : Wf (putFrame s ha bytes invs) :=
  wf_ite (wf_withMem (wf_memWrite _ _ _ h.1) h) (wf_foldl (fun _ h1 _ => wf_putBlock h1) h)

theorem wf_swapMarks (h : Wf s) : Wf (swapMarks s ha host) := h.same ⟨rfl, rfl⟩

theorem wf_frameIn (h : Wf s) : Wf (frameIn s ha host) := wf_swapMarks (wf_with (wf_putFrame h))

theorem wf_frameSwap (h : Wf s) : Wf (frameSwap s ha host) := by
  have hp := wf_putFrame (ha := ha) (bytes := memRead s.hostMem host 65536) (invs := slotInvs s host) h
  exact wf_swapMarks ⟨hp.1, wf_memWrite _ _ _ h.2⟩

theorem wf_putPte (h : Wf s) : Wf (putPte s place frame sp) := wf_noteWrite (wf_withMem (wf_memWrite _ _ _ h.1) h)

theorem wf_noteRefill (h : Wf s) : Wf (noteRefill s ck vi j) := h.same ⟨rfl, rfl⟩

theorem wf_spillVictim (h : Wf s) : OptWf id (spillVictim s pkg die chan vi slot x) := by
  unfold spillVictim
  dsimp only
  split
  · exact optWf_none
  · exact optWf_some (wf_advancePage (wf_putPte (wf_frameSwap h)))

theorem wf_pageCame (h : Wf s) : Wf (pageCame s pkg die chan vi a place frame) := wf_noteRefill (wf_advancePage (wf_putPte h))

theorem wf_pageIn (h : Wf s) : OptWf id (pageIn s pkg die chan vi a at' slot) := by
  unfold pageIn
  dsimp only
  split
  · exact optWf_bind (fun _ => optWf_map (wf_spillVictim h) (fun _ h1 => wf_pageCame h1))
  · split
    · exact optWf_none
    · exact optWf_some (wf_pageCame (wf_frameIn (wf_setChan h)))

theorem wf_frameFreed (h : Wf s) : Wf (frameFreed s ck frame) := h.same ⟨rfl, rfl⟩

theorem wf_bigPageIn (h : Wf s) : OptWf id (bigPageIn s pkg die chan vi a at' slot) := by
  refine optWf_bind (fun _ => optWf_ite (optWf_bind (fun _ => optWf_map (wf_spillVictim ?_) (fun _ h2 => wf_frameFreed h2))) (optWf_some ?_)) <;>
    exact wf_pageCame (wf_foldl (fun _ h1 _ => wf_frameIn h1) (wf_setChan h))

theorem wf_donePageIn (h : Wf s) : Wf (donePageIn s i) := h.same ⟨rfl, rfl⟩

theorem wf_execPageInComplete (h : Wf s) : OutWf (execPageInComplete s) := by
  unfold execPageInComplete
  split
  · exact h
  · dsimp only
    split
    · exact wf_donePageIn h
    · split
      · exact wf_donePageIn h
      · split
        · exact wf_donePageIn h
        · split
          · exact h
          · split
            · exact wf_donePageIn h
            · next e =>
              split at e
              · exact wf_donePageIn ((wf_bigPageIn h).of e)
              · exact wf_donePageIn ((wf_pageIn h).of e)

theorem wf_execPageSettledExpiry (h : Wf s) : OutWf (execPageSettledExpiry s) := by
  unfold execPageSettledExpiry
  dsimp only
  split
  · exact h
  · exact outWf_ite h (wf_setChan h)

theorem wf_dropFrames (h : Wf s) : Wf (dropFrames s ha n) := h.same ⟨rfl, rfl⟩

theorem wf_flushRegion (h : Wf s) : Wf (flushRegion s ck r) := wf_dropFrames (wf_writeBackSectors h)

theorem wf_enableRegion (h : Wf s) : OptWf id (enableRegion s ck n) := optWf_ite (optWf_some (wf_setChan h)) optWf_none

theorem wf_disableRegion (h : Wf s) : Wf (disableRegion s ck n) := wf_ite h (wf_setChan (wf_flushRegion h))

theorem wf_execLanemapApply (h : Wf s) : OutWf (execLanemapApply s) := by
  unfold execLanemapApply
  dsimp only
  split
  · exact h
  · exact outWf_ite h (wf_setCore h)

/-! Deferred traps, timers, services. -/

theorem wf_freeClaims (h : Wf s) : Wf (freeClaims s t) := h.same ⟨rfl, rfl⟩

theorem wf_leaveCore (h : Wf s) : Wf (leaveCore s t) := wf_dropRegion (wf_freeStrand (wf_freeClaims h))

theorem wf_releaseTask (h : Wf s) : Wf (releaseTask s t) := wf_with (wf_onStrands (wf_leaveCore h))

theorem wf_execExitRelease (h : Wf s) : OutWf (execExitRelease s) := by
  unfold execExitRelease
  split
  · exact h
  · exact outWf_ite (wf_releaseTask h) h

theorem wf_settled (h : Wf s) : Wf (settled s) := wf_settlePass h

theorem wf_execDeferredStoreTrap (h : Wf s) : OutWf (execDeferredStoreTrap s) := by
  unfold execDeferredStoreTrap
  dsimp only
  split
  · exact h
  · exact outWf_ite h (wf_queueTrapTo (wf_onCpu (wf_settled h)))

theorem wf_execStepTrap (h : Wf s) : OutWf (execStepTrap s) := by
  unfold execStepTrap
  split
  · exact h
  · exact outWf_ite (wf_queueTrapTo (wf_onCpu (wf_settled h))) h

theorem wf_execEventTrap (h : Wf s) : OutWf (execEventTrap s) := by
  unfold execEventTrap
  dsimp only
  split
  · exact h
  · exact outWf_ite h (wf_queueTrapTo (wf_onCpu (wf_settled h)))

theorem wf_execTimerDeadline (h : Wf s) : OutWf (execTimerDeadline s) := by
  unfold execTimerDeadline
  dsimp only
  split
  · exact h
  · exact outWf_ite (wf_onTask h) h

theorem wf_execWatermarkPush (h : Wf s) : OutWf (execWatermarkPush s) := by
  unfold execWatermarkPush
  dsimp only
  split
  · exact h
  · split
    · exact h
    · split
      · exact h
      · split
        · next e => exact (wf_readMem h).of e
        · next e => exact (wf_readMem h).of e
        · next e => exact wf_onTask ((wf_readMem h).of e)

theorem wf_endService (h : Wf s) : OutWf (endService s status value) := h.same ⟨rfl, rfl⟩

theorem wf_regionRanges (h : Wf s) : Wf (accState (regionRanges s w count)) :=
  wf_andThen (wf_rangeOf h) (fun _ _ h1 => wf_andThen (wf_rangeOf h1) (fun _ _ h2 => wf_andThen (wf_rangeOf h2) (fun _ _ h3 => h3)))

theorem wf_execRegionSet (h : Wf s) : OutWf (execRegionSet s) := by
  unfold execRegionSet
  dsimp only
  split
  · exact h
  · split
    · exact wf_endService h
    · split
      · next e => exact (wf_regionRanges h).of e
      · next e => exact wf_endService ((wf_regionRanges h).of e)
      · next e =>
          have h1 := (wf_regionRanges h).of e
          split
          · split
            · exact wf_endService h1
            · split
              · exact wf_endService h1
              · split
                · exact wf_endService h1
                · next e1 => exact wf_endService ((wf_enableRegion (wf_setChan h1)).of e1)
          · exact wf_endService h1

theorem wf_unassignedService (h : Wf s) : OutWf (unassignedService s) := outWf_ite (wf_endService h) h

/-! Doorbells and launches. -/

theorem wf_refuseDoorbell (h : Wf s) : Wf (refuseDoorbell s) := wf_pushLog h

theorem wf_countDrop (h : Wf s) : Wf (countDrop s pkg vi) := h.same ⟨rfl, rfl⟩

theorem wf_writeRecord (h : Wf s) : Wf (accState (writeRecord s pkg vi place status exited first)) := by
  unfold writeRecord
  split
  · exact wf_countDrop h
  · split
    · next e => exact (wf_writeMem h).of e
    · next e => exact wf_countDrop ((wf_writeMem h).of e)
    · next e => exact (wf_writeMem h).of e

theorem wf_notify (h : Wf s) : Wf (notify s pkg vi r written) := wf_ite (wf_raiseIrq h) h

theorem wf_refuseLaunch (h : Wf s) : Wf (accState (refuseLaunch s pkg vi r code)) := wf_andThen (wf_writeRecord h) (fun _ _ h1 => wf_notify h1)

theorem wf_deviceRead (h : Wf s) : Wf (accState (deviceRead s pkg vi va n)) := by
  unfold deviceRead
  split
  · exact h
  · exact wf_andThen (wf_readMem h) (fun _ _ h1 => h1)

theorem wf_recRead {k : List Byte → State → Acc Unit} (h : Wf s) (hk : ∀ a t, Wf t → Wf (accState (k a t))) :
    Wf (accState (recRead s pkg vi r va n k)) := by
  unfold recRead
  split
  · next e => exact hk _ _ ((wf_deviceRead h).of e)
  · next e => exact (wf_deviceRead h).of e
  · next e => exact wf_refuseLaunch (wf_pushLog ((wf_deviceRead h).of e))

theorem wf_addLaunch (h : Wf s) : Wf (addLaunch s pkg vi r kbank cells floor direct) := h.same ⟨rfl, rfl⟩

theorem wf_acceptRecord (h : Wf s) : Wf (accState (acceptRecord s pkg vi b floor direct)) := by
  unfold acceptRecord
  dsimp only
  split
  · exact wf_refuseLaunch h
  · split
    · exact wf_refuseLaunch h
    · refine wf_recRead h (fun _ _ h1 => ?_)
      refine wf_recRead h1 (fun _ _ h2 => ?_)
      split
      · exact wf_refuseLaunch h2
      · split
        · exact wf_refuseLaunch h2
        · exact wf_addLaunch h2

theorem wf_advanceHead (h : Wf s) : Wf (advanceHead s pkg vi) := h.same ⟨rfl, rfl⟩

theorem wf_dropLaunch (h : Wf s) : Wf (dropLaunch s pkg vi addr) := wf_pushLog (wf_countDrop h)

theorem wf_acceptRing (h : Wf s) : Wf (acceptRing s pkg vi) := by
  unfold acceptRing
  dsimp only
  split
  · next e => exact (wf_deviceRead h).of e
  · next e => exact wf_advanceHead (wf_dropLaunch ((wf_deviceRead h).of e))
  · next e =>
      have h1 := (wf_deviceRead h).of e
      split
      · exact wf_advanceHead (wf_dropLaunch h1)
      · split
        · next e1 => exact (wf_deviceRead h1).of e1
        · next e1 => exact wf_advanceHead (wf_dropLaunch ((wf_deviceRead h1).of e1))
        · next e1 =>
            have h2 := (wf_deviceRead h1).of e1
            split
            · next e2 => exact wf_advanceHead ((wf_acceptRecord h2).of e2)
            · next e2 => exact (wf_acceptRecord h2).of e2
            · exact wf_with h

theorem wf_acceptSubmitted (h : Wf s) : Wf (acceptSubmitted s pkg vi) := by
  unfold acceptSubmitted
  dsimp only
  split
  · exact h
  · split
    · next e => exact (wf_deviceRead h).of e
    · next e => exact wf_setViPkg (wf_dropLaunch ((wf_deviceRead h).of e))
    · next e =>
        have h1 := (wf_deviceRead h).of e
        split
        · next e1 => exact wf_setViPkg ((wf_acceptRecord h1).of e1)
        · next e1 => exact (wf_acceptRecord h1).of e1
        · exact wf_with h

theorem wf_onLaunch {f : Launch → Launch} (h : Wf s) : Wf (onLaunch s id' f) := h.same ⟨rfl, rfl⟩

theorem wf_dropLaunchEntry (h : Wf s) : Wf (dropLaunchEntry s id') := h.same ⟨rfl, rfl⟩

theorem wf_cellsReady (h : Wf s) : Wf (accState (cellsReady pkg vi s l)) := by
  induction l generalizing s with
  | nil => exact h
  | cons x rest ih =>
    unfold cellsReady
    exact wf_andThen (wf_deviceRead h) (fun _ _ h1 => wf_andThen (ih h1) (fun _ _ h2 => h2))

theorem wf_execAfterCellsReady (h : Wf s) : OutWf (execAfterCellsReady s) := by
  unfold execAfterCellsReady
  split
  · exact h
  · split
    · exact h
    · split
      · next e => exact (wf_cellsReady h).of e
      · next e =>
          have h1 := (wf_cellsReady h).of e
          split
          · split
            · next e1 => exact wf_onLaunch ((wf_fresh h1).of e1)
          · exact h1
      · next e =>
          have h1 := (wf_cellsReady h).of e
          split
          · next e1 => exact wf_dropLaunchEntry ((wf_refuseLaunch (wf_pushLog h1)).of e1)
          · next e1 => exact (wf_refuseLaunch (wf_pushLog h1)).of e1
          · exact wf_with h

/-! Scalar floating point. -/

theorem wf_floatDone (h : Wf s) : OutWf (floatDone o s abns r) := by
  unfold floatDone
  split
  · exact wf_scalarTrap h
  · exact wf_scalarDone h
  · exact wf_scalarDone h

theorem wf_floatBinary {f : Fmt → ℕ → FVal → FVal → ℕ × Flags} (h : Wf s) : OutWf (floatBinary o s f) := by
  unfold floatBinary
  dsimp only
  exact wf_floatDone h

theorem wf_floatUnary {f : Fmt → ℕ → ℕ → ℕ × Flags} (h : Wf s) : OutWf (floatUnary o s f) := wf_floatDone h

theorem wf_execFfma (h : Wf s) : OutWf (execFfma o s) := by
  unfold execFfma
  dsimp only
  exact wf_floatDone h

theorem wf_execFmin (h : Wf s) : OutWf (execFmin o s) := by
  unfold execFmin
  dsimp only
  exact wf_floatDone h

theorem wf_execFmax (h : Wf s) : OutWf (execFmax o s) := by
  unfold execFmax
  dsimp only
  exact wf_floatDone h

theorem wf_execFcvti (h : Wf s) : OutWf (execFcvti o s) := by
  unfold execFcvti
  dsimp only
  exact wf_floatDone h

/-! Vector floating point and reductions. -/

theorem wf_vFpBinary {f : Fmt → ℕ → FVal → FVal → ℕ × Flags} (h : Wf s) : OutWf (vFpBinary i o s f) := wf_vectorOp h

theorem wf_vFpUnary {f : Fmt → ℕ → ℕ → ℕ × Flags} (h : Wf s) : OutWf (vFpUnary i o s f) := wf_vectorOp h

theorem wf_vFpFused (h : Wf s) : OutWf (vFpFused i o s negate) := wf_vectorOp h

theorem wf_vMinMax (h : Wf s) : OutWf (vMinMax i o s max') := wf_vectorOp h

theorem wf_vConvert {f : ℕ → ℕ → ℕ → ℕ → ℕ × Flags} (h : Wf s) : OutWf (vConvert i o s f) := wf_vectorOp h

theorem wf_reduceAbn {e : ℕ → Option ℕ} {k : Out} (h : Wf s) (hk : OutWf k) : OutWf (reduceAbn s o start e k) := by
  unfold reduceAbn
  split
  · exact wf_queuedTrap (wf_onCpu h)
  · split
    · exact wf_queuedTrap (wf_onCpu h)
    · exact hk

theorem wf_reduceDone (h : Wf s) : OutWf (reduceDone o s x fl) := h.same ⟨rfl, rfl⟩

theorem wf_reduceInt (h : Wf s) : OutWf (reduceInt o s x) := h.same ⟨rfl, rfl⟩

theorem wf_reduceMinMax (h : Wf s) : OutWf (reduceMinMax i o s max') := wf_atHead h (outWf_ite (wf_reduceInt h) (wf_reduceAbn h (wf_reduceDone h)))

/-! Vector integers. -/

theorem wf_vIntBinary {f : ℤ → ℤ → ℤ} (h : Wf s) : OutWf (vIntBinary i o s f) := wf_vectorOp h

theorem wf_vBitBinary {f : ℕ → ℕ → ℕ → ℕ} (h : Wf s) : OutWf (vBitBinary i o s f) := wf_vectorOp h

theorem wf_vBitUnary {f : ℕ → ℕ → ℕ} (h : Wf s) : OutWf (vBitUnary i o s f) := wf_vectorOp h

/-! Pairs and words that are no instruction. -/

theorem wf_vectorPair (h : Wf s) : OutWf (vectorPair i v x s) := wf_atHead h (outWf_ite (wf_retire h) (wf_runElems h))

theorem wf_scalarPair (h : Wf s) : OutWf (scalarPair a b s) := by
  unfold scalarPair
  dsimp only
  split
  · exact wf_scalarTrap h
  · exact wf_commit h

theorem wf_execPFormPair (h : Wf s) : OutWf (execPFormPair a b s) := outWf_ite (wf_vectorPair h) (outWf_ite (wf_vectorPair h) (wf_scalarPair h))

theorem wf_execLiteralWordExecute (h : Wf s) : OutWf (execLiteralWordExecute w s) := wf_scalarTrap h

theorem wf_execIllegalOpcodeWord (h : Wf s) : OutWf (execIllegalOpcodeWord w s) := wf_scalarTrap h

/-! Scheduling. -/

theorem wf_startTask (h : Wf s) : OptWf id (startTask s i k) := by
  unfold startTask
  split
  · exact optWf_none
  · split
    · exact optWf_none
    · exact optWf_ite optWf_none (optWf_map (wf_allocRegion (wf_enterVi h)) (fun _ h1 => wf_onLaunch (wf_joinStrand (wf_fresh h1))))

theorem wf_startAll (h : Wf s) : OptWf id (startAll id' s l) := by
  induction l generalizing s with
  | nil => exact optWf_some h
  | cons x rest ih =>
    unfold startAll
    split
    · exact optWf_none
    · next e => exact ih ((wf_startTask h).of e)

theorem wf_execGangReservationMessage (h : Wf s) : OutWf (execGangReservationMessage s) := by
  unfold execGangReservationMessage
  refine wf_packetEvent h (fun _ h1 _ => ?_)
  split
  · exact h1
  · exact wf_ite h1 (wf_onLaunch h1)

theorem wf_countTurn (h : Wf s) : Wf (countTurn s ck cls vi k) := h.same ⟨rfl, rfl⟩

theorem wf_countTurns (h : Wf s) : Wf (countTurns s l cores) := wf_foldl (fun _ h1 _ => wf_countTurn h1) h

theorem wf_execTaskStart (h : Wf s) : OutWf (execTaskStart s) := by
  unfold execTaskStart
  dsimp only
  split
  · exact h
  · split
    · exact h
    · split
      · exact h
      · split
        · exact h
        · next e =>
            have h1 := (wf_startAll h).of e
            split
            · exact wf_countTurns h1
            · exact outWf_ite (wf_countTurns h1) (outWf_ite h (wf_with h))

theorem wf_execAgingPromotion (h : Wf s) : OutWf (execAgingPromotion s) := by
  unfold execAgingPromotion
  split
  · exact h
  · exact outWf_ite (wf_onLaunch h) h

theorem wf_preemptFor {f : State → Strand → Bool} (h : Wf s) : Wf (preemptFor f n s) := by
  induction n generalizing s with
  | zero => exact h
  | succ n ih =>
    unfold preemptFor
    dsimp only
    split
    · exact h
    · exact wf_ite (wf_requestPreempt h) (ih (wf_requestPreempt h))

theorem wf_execBudgetExpiry (h : Wf s) : OutWf (execBudgetExpiry s) := by
  unfold execBudgetExpiry
  split
  · exact h
  · exact outWf_ite (wf_preemptFor h) h

theorem wf_execPreemptionMessage (h : Wf s) : OutWf (execPreemptionMessage s) := by
  unfold execPreemptionMessage
  refine wf_packetEvent h (fun _ h1 _ => ?_)
  split
  · exact h1
  · split
    · exact h1
    · exact wf_preemptGroup h1

theorem wf_resumeInClass (h : Wf s) : Wf (resumeInClass s x) := wf_ite (wf_foldl (fun _ h1 _ => wf_countTurn h1) (wf_resumeWhole h)) h

theorem wf_execContextRestore (h : Wf s) : OutWf (execContextRestore s) := by
  unfold execContextRestore
  split
  · exact h
  · exact wf_resumeInClass h

theorem wf_execLostContextResume (h : Wf s) : OutWf (execLostContextResume s) := by
  unfold execLostContextResume
  split
  · exact h
  · exact wf_resumeInClass h

theorem wf_endLaunch (h : Wf s) : Wf (endLaunch s id') :=
  wf_onLaunch (wf_with (wf_foldl (fun _ h1 _ => wf_freeClaims (wf_freeSlotOf h1)) (wf_foldl (fun _ h1 _ => wf_leaveCore h1) h)))

theorem wf_publishEntry (h : Wf s) : Wf (publishEntry s l) := by
  unfold publishEntry
  dsimp only
  split
  · next e => exact (wf_deviceRead h).of e
  · next e => exact wf_onLaunch (wf_pushLog ((wf_deviceRead h).of e))
  · next e =>
      have h1 := (wf_deviceRead h).of e
      split
      · exact wf_onLaunch (wf_pushLog h1)
      · split
        · next e1 => exact (wf_publishNow h1).of e1
        · next e1 => exact wf_onLaunch (wf_pushLog ((wf_publishNow h1).of e1))
        · next e1 => exact wf_onLaunch ((wf_publishNow h1).of e1)

theorem wf_freeStreams (h : Wf s) : Wf (freeStreams s lid) := h.same ⟨rfl, rfl⟩

theorem wf_execLaunchCompletion (h : Wf s) : OutWf (execLaunchCompletion s) := by
  unfold execLaunchCompletion
  split
  · exact h
  · split
    · exact h
    · split
      · exact outWf_ite h (wf_with h)
      · split
        · exact wf_publishEntry h
        · split
          · next e => exact (wf_writeRecord h).of e
          · next e => exact (wf_writeRecord h).of e
          · next e => exact wf_notify (wf_freeStreams (wf_dropLaunchEntry ((wf_writeRecord h).of e)))

/-! The platform. -/

theorem wf_pushOutput (h : Wf s) : Wf (pushOutput s x) := h.same ⟨rfl, rfl⟩

theorem wf_refuseHost (h : Wf s) : Wf (refuseHost s va) := wf_pushLog (wf_setViPkg h)

theorem wf_logHostPoison (h : Wf s) : Wf (logHostPoison s va) := wf_pushLog h

theorem wf_hostWaits (h : Wf s) : Wf (hostWaits s write) := wf_ite h (wf_with h)

theorem wf_hostDone (h : Wf s) : Wf (hostDone s write x) := wf_pushOutput (wf_ite (wf_with h) h)

theorem wf_execHostRead (h : Wf s) : OutWf (execHostRead s) := by
  unfold execHostRead
  dsimp only
  split
  · exact wf_hostDone (wf_refuseHost h)
  · split
    · next e => exact wf_hostDone ((wf_readMem h).of e)
    · next e => exact wf_hostWaits ((wf_readMem h).of e)
    · next e =>
        have h1 := (wf_readMem h).of e
        exact wf_hostDone (wf_ite (wf_logHostPoison h1) (wf_refuseHost h1))

theorem wf_execHostWrite (h : Wf s) : OutWf (execHostWrite s) := by
  unfold execHostWrite
  dsimp only
  split
  · exact wf_hostDone (wf_refuseHost h)
  · split
    · next e => exact wf_hostWaits ((wf_placesOf h).of e)
    · next e => exact wf_hostDone (wf_refuseHost ((wf_placesOf h).of e))
    · next e =>
        have h1 := (wf_placesOf h).of e
        split
        · next e1 => exact wf_hostDone ((wf_writeWhole h1).of e1)
        · next e1 => exact wf_hostDone (wf_refuseHost ((wf_writeWhole h1).of e1))

theorem wf_promote (h : Wf s) : Wf (promote n s i) := by
  unfold promote
  dsimp only
  split
  · exact h
  · exact wf_ite (wf_setPkg h) (wf_pushLog h)

theorem wf_execRootOfTrustBoot (h : Wf s) : OutWf (execRootOfTrustBoot s) :=
  outWf_ite (wf_setPkg h)
    (outWf_ite (outWf_ite (wf_setPkg (wf_foldl (fun _ h1 _ => wf_promote h1) h)) (wf_pushLog (wf_foldl (fun _ h1 _ => wf_promote h1) h)))
      (outWf_ite (wf_setPkg h) h))

theorem wf_setQuota (h : Wf s) : Wf (setQuota s pkg vi bytes) := wf_measureConfig (wf_setVi h)

theorem wf_setRoot (h : Wf s) : Wf (setRoot s chan vi pa) := wf_measureConfig (wf_setChan h)

theorem wf_spdmReply {f : Spdm → Spdm} (h : Wf s) : OutWf (spdmReply s code bytes f) := outWf_ite (wf_pushOutput (wf_setPkg h)) h

theorem wf_setShares (h : Wf s) : Wf (setShares s pkg vi budgets weight quantum) := wf_ite (wf_measureConfig (wf_setVi h)) h

theorem wf_setLimit (h : Wf s) : Wf (setLimit s pkg watts) := wf_ite (wf_setPkg h) h

theorem wf_readThermal (h : Wf s) : Wf (readThermal s die monitor degrees) := wf_ite h (wf_setDie h)

theorem wf_readVoltage (h : Wf s) : Wf (readVoltage s die monitor permille) := wf_ite h (wf_setDie h)

theorem wf_setStep (h : Wf s) : Wf (setStep s die n) := h.same ⟨rfl, rfl⟩

theorem wf_powerStep (h : Wf s) : Wf (powerStep s n) := h.same ⟨rfl, rfl⟩

theorem wf_strikeWord (h : Wf s) : Wf (strikeWord s word) := h.same ⟨rfl, rfl⟩

theorem wf_softWord (h : Wf s) : Wf (softWord s word) := by
  unfold softWord
  split
  · exact wf_with h
  · exact wf_foldl (fun _ h1 _ => wf_strikeWord h1) h

theorem wf_correctWord (h : Wf s) : Wf (correctWord s word) := wf_ite (wf_pushLog (wf_with h)) h

theorem wf_strikeRegister (h : Wf s) : Wf (strikeRegister s tid key) := by
  unfold strikeRegister
  split
  · exact h
  · exact wf_pushLog (wf_onTask h)

theorem wf_softRegister (h : Wf s) : Wf (softRegister s tid key) := wf_ite (wf_strikeRegister h) (wf_onTask h)

theorem wf_correctRegister (h : Wf s) : Wf (correctRegister s tid key) := by
  unfold correctRegister
  split
  · exact h
  · exact wf_ite (wf_pushLog (wf_onTask h)) h

theorem wf_parityError (h : Wf s) : Wf (parityError s core' ha) := h.same ⟨rfl, rfl⟩

theorem wf_noteLaneError (h : Wf s) : Wf (noteLaneError s core' group word uncorrectable) := h.same ⟨rfl, rfl⟩

theorem wf_retireGroup (h : Wf s) : Wf (retireGroup s core' group) := wf_ite h (wf_setPkg (wf_setCore h))

theorem wf_markFailed (h : Wf s) : Wf (markFailed s core') := h.same ⟨rfl, rfl⟩

/-! The table of operations. -/

theorem wf_exec (h : Wf s) : OutWf (exec i s) := by
  cases i <;> dsimp only [exec]
  case add | sub | mul | mulh | div | rem | and | or | xor | andn | shl | shr | sar | rol | min | max | cmp | sel | clz | ctz | popc | ext | addsh
    | bfx | bfi | li | lih | mov | abs | madd | icvtf | fclass | fabn | br | call | unbind | mtsrVl | mtsrVstart | mtsrTm | mtsrTn | mtsrTk
    | mtsrTtype | mtsrMmode | vconfig | setvl | setvli | mset | mclr | mand | mor | mxor | mnot | mandn | mpop | mfirst | mbefore | mincl | monly
    | mval | ccset | exit | yield | nop | irq | apbase | watchWake | watchPoll | tlbEntryExpiry | linkLevelRetry => exact h.same ⟨rfl, rfl⟩
  case fadd | fsub | fmul | fdiv | fcmp => exact wf_floatBinary h
  case fsqrt | fabs | fneg => exact wf_floatUnary h
  case bcc | bz | bnz | loopd => exact wf_branchIf h
  case bmany | bmall | bmnone => exact wf_maskBranch h
  case callr | jr => exact wf_indirectJump h
  case ld | ldx | ldacq => exact wf_loadScalar h
  case st | stx => exact outWf_ite (wf_storeNb h) (wf_storeScalar h)
  case cas | cas2 => exact outWf_ite (wf_scalarTrap h) (wf_afterQueue h (wf_atomicFrom h (fun _ _ h1 => wf_commit h1)))
  case mtsrVfs | mtsrTrow | mtsrTstat | mtsrFpflags => exact wf_mtsrScalar h (fun _ => wf_afterEmptyQueue h (wf_commit h))
  case mtsrCc | mtsrTimer | mtsrTstatus => exact wf_mtsrScalar h (fun _ => wf_commit h)
  case flushr | cinv => exact wf_cleanRange h
  case vadd | vsub | vmul | vmulh | vdiv | vrem | vmin | vmax | vadds | vsubs => exact wf_vIntBinary h
  case vmadd | vcmp | vsel | vsplat | viota | vext | vabs | vfcmp | vlmul | vladd | vtstabn | vslideup => exact wf_vectorOp h
  case vand | vor | vxor | vshl | vshr | vsar => exact wf_vBitBinary h
  case vmov | vpopc | vclz => exact wf_vBitUnary h
  case vfadd | vfsub | vfmul | vfdiv => exact wf_vFpBinary h
  case vfma | vfnma => exact wf_vFpFused h
  case vfsqrt | vfabs | vfneg | vfrece | vfrsqe => exact wf_vFpUnary h
  case vfmin | vfmax => exact wf_vMinMax h
  case vfcvt | vfcvti | vicvtf => exact wf_vConvert h
  case vredmin | vredmax => exact wf_reduceMinMax h
  case vperm | vslidedn | vzip | vunzip | vrev => exact wf_permute h
  case vcompress | vexpand | vsortk => exact wf_atHead h (wf_unlessVl0 h (wf_retire h))
  case vld | vlds | vldx | vldff | vldxff => exact wf_vload h
  case vst | vsts | vstx => exact wf_vstore h
  case bytewait | wmwait => exact wf_waitWord h
  case bytesub | wmpub => exact wf_wordAtomic h
  case tshape | tzero => exact wf_matrixHead h (wf_retireKeep h)
  case sinter | smerge => exact wf_streamOp h
  case tail | ringSize | ringBase => exact outWf_ite (wf_setViPkg h) (wf_refuseDoorbell h)
  case readRequest | write | atomic | fabricData | orderedFlag | collectiveContribution => exact wf_packetEvent h (fun _ h1 _ => wf_receivePacket h1)
  case railFailure | voltageDroopExpiry => exact outWf_ite h (wf_setDie h)
  case spdmGetVersion | spdmGetCapabilities | spdmGetCertificate | spdmChallenge | spdmGetMeasurements => exact wf_spdmReply h
  case thermalStepUp | thermalStepDown => exact outWf_ite (wf_setStep (wf_setDie h)) h
  case ffma => exact wf_execFfma h
  case fmin => exact wf_execFmin h
  case fmax => exact wf_execFmax h
  case fcvt => exact wf_floatDone h
  case fcvti => exact wf_execFcvti h
  case gate => exact wf_execGate h
  case ldk => exact wf_loadFrom h (fun _ _ h1 => wf_commit h1)
  case pref => exact wf_execPref h
  case amo => exact wf_execAmo h
  case strel => exact wf_storeRelease h
  case acq => exact wf_execAcq h
  case rel => exact wf_execRel h
  case bind => exact outWf_ite (wf_scalarTrap h) (wf_loadFrom h (fun _ _ h1 => wf_ite (wf_commit h1) (wf_scalarTrap h1)))
  case fence => exact outWf_ite (wf_park h) (wf_commit (wf_ite (wf_discardAll h) h))
  case mfsr => exact wf_atLevel h (outWf_ite (wf_park h) (wf_commit h))
  case mtsr => exact wf_execMtsr h
  case mtsrLanemap => exact wf_mtsrScalar h (fun _ => wf_commit (wf_setCore h))
  case mtsrTvecGtbGtn => exact wf_mtsrScalar h (fun _ => wf_commit (wf_ite (wf_writeTrapReg h) (wf_writeTrapReg h)))
  case trap => exact wf_scalarTrapAt h
  case brk => exact wf_scalarTrap h
  case tlbinv => exact wf_execTlbinv h
  case tlbinvDie => exact wf_atLevel h (wf_commit (wf_with h))
  case tclaim => exact wf_execTclaim h
  case waitev => exact outWf_ite (wf_scalarTrap h) (wf_scalarAcc (wf_armWatch h) (fun _ _ h1 => wf_ite (wf_park h1) (wf_commit h1)))
  case waitevArm => exact outWf_ite (wf_scalarTrap h) (wf_scalarAcc (wf_armWatch h) (fun _ _ h1 => wf_commit h1))
  case launch => exact wf_execLaunch h
  case ctxsave => exact wf_execCtxsave h
  case ctxload => exact wf_execCtxload h
  case vmvxs => exact wf_headChecks h (outWf_ite (wf_retire h) (wf_retire h))
  case vmvsx => exact wf_atHead h (wf_retire h)
  case vredsum => exact wf_atHead h (outWf_ite (wf_reduceInt h) (wf_reduceAbn h (wf_reduceDone h)))
  case vredbit => exact wf_atHead h (wf_reduceDone h)
  case vdot => exact wf_atHead h (outWf_ite (wf_reduceInt h) (outWf_ite (wf_reduceDone h) (wf_reduceAbn h (wf_reduceDone h))))
  case vscan => exact wf_headChecks h (wf_unlessVl0 h (wf_runElems h))
  case vpref => exact wf_atHead h (wf_unlessVl0 h (wf_retire (wf_foldl (fun _ h1 _ => wf_prefetchRun h1) h)))
  case vamo => exact wf_execVamo h
  case vcas => exact wf_execVcas h
  case vwait => exact wf_execVwait h
  case ccwait => exact outWf_ite (wf_retireKeep h) (wf_park h)
  case barrier => exact wf_execBarrier h
  case tmac => exact wf_execTmac h
  case tldacc => exact wf_tileMove h (fun _ => wf_loadRows h)
  case tstacc => exact wf_tileMove h (fun _ => wf_afterPosts h (wf_storeRows h))
  case trd => exact wf_execTrd h
  case twr => exact wf_lineHead h (wf_runElems h)
  case vdotv => exact wf_execVdotv h
  case topkinit => exact wf_execTopkinit h
  case topki => exact wf_execTopki h
  case topkr => exact wf_execTopkr h
  case hinit => exact wf_execHinit h
  case hacc => exact wf_execHacc h
  case hdrain => exact wf_execHdrain h
  case copy => exact wf_execCopy h
  case cbcopy => exact wf_execCbcopy h
  case cbwaitf => exact wf_execCbwaitf h
  case cbfree => exact wf_execCbfree h
  case publish => exact wf_execPublish h
  case shadow => exact wf_execShadow h
  case rsend => exact wf_execRsend h
  case rfetch => exact wf_execRfetch h
  case xsend => exact wf_execXsend h
  case csend => exact wf_execCsend h
  case colldef => exact wf_execColldef h
  case collrun => exact wf_execCollrun h
  case collwait => exact wf_execCollwait h
  case wopen => exact outWf_ite (wf_queuedTrap h) (outWf_ite (wf_queuedTrap h) (wf_retireKeep (wf_putPhys (wf_refuseWrites h))))
  case wrevoke => exact wf_execWrevoke h
  case grant => exact wf_execGrant h
  case revoke => exact wf_execRevoke h
  case pFormPair => exact wf_execPFormPair h
  case literalWordExecute => exact wf_execLiteralWordExecute h
  case illegalOpcodeWord => exact wf_execIllegalOpcodeWord h
  case gret => exact wf_execGret h
  case exitRelease => exact wf_execExitRelease h
  case regionSet => exact wf_execRegionSet h
  case regionClear => exact outWf_ite h (outWf_ite (wf_endService h) (wf_endService (wf_disableRegion h)))
  case throttle => exact outWf_ite (wf_endService h) h
  case lanes => exact outWf_ite h (outWf_ite (wf_endService h) (wf_endService h))
  case eret => exact wf_atLevel h (wf_afterEmptyQueue h (wf_onCpu (wf_releaseTiles h)))
  case trels => exact wf_retireKeep (wf_releaseTiles h)
  case ifence => exact outWf_ite (wf_park h) (wf_commit (wf_setCore h))
  case deferredStoreTrap => exact wf_execDeferredStoreTrap h
  case stepTrap => exact wf_execStepTrap h
  case eventTrap => exact wf_execEventTrap h
  case timerDeadline => exact wf_execTimerDeadline h
  case doorbellWrite => exact outWf_ite h (wf_onStrands h)
  case launchAccept => exact outWf_ite h (outWf_ite (wf_acceptSubmitted h) (outWf_ite (wf_acceptRing h) h))
  case afterCellsReady => exact wf_execAfterCellsReady h
  case taskStart => exact wf_execTaskStart h
  case agingPromotion => exact wf_execAgingPromotion h
  case budgetExpiry => exact wf_execBudgetExpiry h
  case quantumExpiry => exact wf_preemptFor h
  case preemptDeferralExpiry => exact wf_execPreemptDeferralExpiry h
  case preemptionSave => exact wf_execPreemptionSave h
  case contextRestore => exact wf_execContextRestore h
  case lostContextResume => exact wf_execLostContextResume h
  case launchCompletion => exact wf_execLaunchCompletion h
  case ccPieceEnd => exact wf_execCcPieceEnd h
  case watermarkPush => exact wf_execWatermarkPush h
  case pageInComplete => exact wf_execPageInComplete h
  case pageSettledExpiry => exact wf_execPageSettledExpiry h
  case lanemapApply => exact wf_execLanemapApply h
  case formatRegionEnable => exact wf_getD (wf_enableRegion h) h
  case formatRegionDisable => exact wf_disableRegion h
  case orderedFlagCommit => exact wf_execOrderedFlagCommit h
  case collectiveStep => exact wf_execCollectiveStep h
  case combineSlotExpiry => exact wf_with (wf_markRuns (wf_setDie h))
  case readReply => exact wf_execReadReply h
  case acknowledgement => exact wf_execAcknowledgement h
  case nackBusy => exact wf_packetEvent h (fun _ h1 _ => wf_markBusy h1)
  case nackRetry => exact wf_execNackRetry h
  case nackBusyTimeout => exact wf_execNackBusyTimeout h
  case retryTimeout => exact wf_execRetryTimeout h
  case xsendRetry => exact wf_execXsendRetry h
  case gangReservationMessage => exact wf_execGangReservationMessage h
  case preemptionMessage => exact wf_execPreemptionMessage h
  case completionReport => exact wf_packetEvent h (fun _ h1 _ => wf_onLaunch h1)
  case windowShootdown => exact wf_packetEvent h (fun _ h1 _ => wf_with (wf_with (wf_onStrands h1)))
  case railFailover => exact outWf_ite h (wf_foldl (fun _ h1 _ => wf_transmit h1) (wf_setDie h))
  case hostRead => exact wf_execHostRead h
  case hostWrite => exact wf_execHostWrite h
  case packageReset => exact wf_foldl (fun _ h1 _ => wf_setCore h1) (wf_setPkg (wf_withMem (wf_filter _ _ h.1) h))
  case rootOfTrustBoot => exact wf_execRootOfTrustBoot h
  case fullServiceTransition => exact outWf_ite h (outWf_ite (wf_setPkg h) (wf_setPkg h))
  case spdmNegotiateAlgorithms => exact outWf_ite (wf_spdmReply h) (outWf_ite (wf_pushOutput h) h)
  case spdmKeyExchange => exact wf_spdmReply (wf_with h)
  case thermalClamp => exact outWf_ite (wf_setStep h) h
  case thermalTrip => exact outWf_ite (wf_pushOutput (wf_pushLog (wf_setPkg h))) h
  case voltageDroop => exact outWf_ite (wf_setDie h) h
  case packagePowerLimit => exact outWf_ite (outWf_ite (wf_powerStep (wf_setPkg h)) (wf_setPkg h)) (wf_setPkg h)
  case modulePowerLimit => exact outWf_ite h (outWf_ite (outWf_ite (wf_powerStep (wf_setPkg h)) (wf_setPkg h)) (wf_setPkg h))
  case patrolScrub => exact wf_foldl (fun _ h1 _ => wf_correctWord h1) h
  case reservedKindPacket => exact outWf_ite (wf_dropPacket h) h
  case gatewayForward => exact wf_execGatewayForward h
  case firmwareImageUpdate => exact outWf_ite (wf_setPkg h) h
  case ideKeyManagement => exact outWf_ite (outWf_ite (wf_pushOutput h) h) (wf_setPkg h)

/-! How the machine moves. -/

theorem wf_selectTask (h : Wf s) : Wf (selectTask s tid) := by
  unfold selectTask
  split
  · exact h
  · exact wf_with h

theorem wf_rotate (h : Wf s) : Wf (rotate s) := by
  unfold rotate
  split
  · exact h
  · exact wf_with h

theorem wf_act (h : Wf s) : OutWf (act a s) := by
  unfold act
  dsimp only
  split
  · exact outWf_ite (wf_exec (wf_with h)) h
  · exact wf_selectTask h
  · exact wf_with h
  · exact wf_with h
  · exact wf_setCore h
  · split
    · exact wf_exec h
    · exact wf_unassignedService h
  · exact wf_writeBackSector h
  · exact wf_parityError h
  · exact wf_strikeWord h
  · exact wf_strikeRegister h
  · exact wf_setQuota h
  · exact wf_setRoot h
  · exact wf_endLaunch h
  · exact wf_setShares h
  · exact wf_setLimit h
  · exact wf_readThermal h
  · exact wf_readVoltage h
  · exact wf_softWord h
  · exact wf_softRegister h
  · exact wf_correctWord h
  · exact wf_correctRegister h
  · exact wf_noteLaneError h
  · exact wf_retireGroup h
  · exact wf_markFailed h

theorem wf_fetchInstr (h : Wf s) : Wf (fetchedState (fetchInstr s)) := by
  unfold fetchInstr
  split
  · next e => exact (wf_fetch h).of e
  · next e => exact (wf_fetch h).of e
  · next e => split <;> exact (wf_fetch h).of e

theorem wf_runHead (h : Wf s) : OutWf (runHead s e) := outWf_ite (wf_park h) (wf_exec (wf_onCpu h))

theorem wf_commitInstr (h : Wf s) : OutWf (commitInstr i w words s) := by
  unfold commitInstr
  split
  · split
    · exact wf_scalarTrap h
    · exact outWf_ite (wf_park h) (wf_runHead (wf_enqueue h))
  · exact outWf_ite (wf_exec h) (outWf_ite (wf_scalarTrap h) (outWf_ite (wf_park h) (wf_exec (wf_onCpu h))))

theorem wf_runScalar (h : Wf s) : OutWf (runScalar s) := by
  unfold runScalar
  split
  · next e => exact wf_commitInstr ((wf_fetchInstr h).of e)
  · next e => exact wf_scalarTrap ((wf_fetchInstr h).of e)
  · next e => exact wf_fetchTrap ((wf_fetchInstr h).of e)
  · next e => exact wf_park ((wf_fetchInstr h).of e)

theorem wf_runAhead (h : Wf s) : OptWf id (runAhead s) := by
  unfold runAhead
  split
  · exact optWf_none
  · split
    · exact optWf_none
    · exact optWf_none
    · exact optWf_none
    · next e =>
        have h1 := (wf_fetchInstr h).of e
        split
        · exact optWf_none
        · split
          · exact optWf_ite (optWf_some (wf_enqueue h1)) optWf_none
          · split
            · next e1 => exact optWf_ite optWf_none (optWf_some ((wf_exec (wf_onCpu h1)).of e1))
            · exact optWf_none
            · exact optWf_none

theorem wf_firstChange (h : Wf s) : OptWf id (firstChange s l) := by
  induction l with
  | nil => exact optWf_none
  | cons x rest ih =>
    unfold firstChange
    split
    · exact ih
    · split
      · next e => exact optWf_ite ih (optWf_some (wf_with ((wf_exec (wf_with h)).of e)))
      · exact ih
      · exact ih

theorem wf_workTurn (h : Wf s) : Wf (workTurn s) :=
  wf_rotate (wf_writeEvicted (wf_getD (wf_firstChange (wf_writeEvicted h)) (wf_writeEvicted h)))

theorem wf_mapNext {f : State → State} {x : Out} (hf : ∀ t, Wf t → Wf (f t)) (hx : OutWf x) : OutWf (mapNext f x) := by
  unfold mapNext
  split
  · exact hf _ hx
  · exact hx
  · exact hx

theorem wf_idleMove (h : Wf s) : Wf (idleMove s) := wf_ite (wf_onCpu h) (wf_getD (wf_runAhead (wf_onCpu h)) (wf_onCpu h))

theorem wf_runExiting (h : Wf s) : OutWf (runExiting s) := by
  unfold runExiting
  split
  · exact wf_exec (wf_with h)
  · split
    · exact wf_idleMove h
    · split
      · exact h
      · exact wf_runHead h

theorem wf_runTrip (h : Wf s) : OutWf (runTrip s) := by
  unfold runTrip
  split
  · exact h
  · exact wf_exec (wf_onCpu h)

theorem wf_runStrand (h : Wf s) : OutWf (runStrand s) := by
  unfold runStrand
  split
  · exact wf_runTrip h
  · split
    · exact outWf_ite (wf_exec h) (outWf_ite (wf_exec h) (wf_exec h))
    · split
      · exact wf_runExiting h
      · split
        · exact wf_idleMove h
        · split
          · exact wf_runHead h
          · exact wf_runScalar h

theorem wf_move (h : Wf s) : OutWf (move s) := by
  unfold move
  dsimp only
  split
  · exact outWf_ite (wf_mapNext (fun _ h1 => wf_writeEvicted h1) (wf_act (wf_writeEvicted (wf_with h)))) (wf_writeEvicted (wf_with h))
  · exact outWf_ite (wf_workTurn (wf_with h)) (outWf_ite (wf_with h) (outWf_ite (outWf_ite trivial (wf_with h)) (wf_runStrand (wf_with h))))

/-- Settles O8: both memories are empty after reset. -/
theorem invAtReset : Obligations.InvAtReset := ⟨rfl, rfl⟩

/-- Settles O9: a step is a move, and a move changes the memories by canonical writes only. -/
theorem stepKeepsInv : Obligations.StepKeepsInv := fun _ _ h e => (wf_move h).of e

end Sys2Proof.Proofs.Device

/-! The obligations of spec/03_execution.md: the turn of a strand and commit into the vector queue (R57), traps and hold banks (R59), the vector
configuration (R51, R53), and the events of strands, launches, saves and paging (R36, R61, R65 to R75). -/

namespace Sys2Proof.Proofs.Execution

open Sys2Proof Sys2Proof.Machine Sys2Proof.Safety Sys2Proof.Claims Sys2Proof.Laws

/-! The turn of the current strand (R57, R63). -/

/-- R389: a package in another stage than 15 has not tripped. -/
theorem haltedPkg_eq_false {s : State} {n : Nat} : haltedPkg s n = false ↔ (s.pkg n).stage ≠ 15 := by simp [haltedPkg]

/-- With an empty agenda it is the turn of a strand whose package runs. -/
theorem step_runStrand {s : State} (ha : s.agenda = []) (hb : s.background = false) (ht : s.cpu.tid ≠ 0) (hr : (s.pkg s.cpu.pkg).stage ≠ 15) :
    step s = runStrand { s with background := true } := by
  simp [step, move, ha, hb, ht, haltedPkg_eq_false.mpr hr]

theorem trapsNext_eq_false {t : Strand} (hd : t.deferred = []) (hs : (t.stepArm.isSome && t.stepDone) = false) (he : pendingEvent t = none) :
    trapsNext t = false := by simp [trapsNext, hd, hs, he]

section Boundary

variable {s : State} (htrip : tripping s.cpu = false) (htraps : trapsNext s.cpu = false) (hx : s.cpu.exiting = false) (hp : s.cpu.parked = false)
include htrip htraps hx hp

/-- A strand at whose commit boundary nothing stands takes the head of its queue. -/
theorem runStrand_head {e : QEntry} {rest : List QEntry} (hq : s.cpu.queue = e :: rest) : runStrand s = runHead s e := by
  simp [runStrand, htrip, htraps, hx, hp, hq]

/-- With an empty queue it fetches. -/
theorem runStrand_fetch (hq : s.cpu.queue = []) : runStrand s = runScalar s := by
  simp [runStrand, htrip, htraps, hx, hp, hq]

end Boundary

theorem step_runScalar {s : State} (h : ReadyToFetch s) : step s = runScalar { s with background := true } :=
  (step_runStrand h.agenda h.background h.task h.running).trans
    (runStrand_fetch h.trip (trapsNext_eq_false h.deferred h.step h.event) h.exiting h.parked h.queue)

theorem step_runHead {s : State} {e : QEntry} {rest : List QEntry} (h : ReadyToFetch { s with cpu := { s.cpu with queue := [] } })
    (hq : s.cpu.queue = e :: rest) : step s = runHead { s with background := true } e :=
  (step_runStrand (s := s) h.agenda h.background h.task h.running).trans
    (runStrand_head (s := { s with background := true }) h.trip (trapsNext_eq_false h.deferred h.step h.event) h.exiting h.parked hq)

/-- The head is performed where no acquire before it holds it. -/
theorem runHead_exec {s : State} {e : QEntry} (h : (e.accesses && heldByAcquire s []) = false) :
    runHead s e = exec e.instr (s.onCpu Strand.beginHead) := by simp [runHead, h]

/-- R177, R194: the instruction that stands at the pc commits. -/
theorem runScalar_commit {s s1 : State} {w f : Word} {i : Instr} {n : Nat} (hf : fetch s = .ok (w, f) s1) (hd : decode w f = .instr i n) :
    runScalar s = commitInstr i w n s1 := by simp [runScalar, fetchInstr, hf, hd]

/-! Commit into the queue (R57, R193, R194, R398). -/

section Commit

variable {s : State} {i : Instr} {w : Word} {n : Nat} (hq : isQueued i = true)
include hq

theorem commitInstr_traps {c : Nat} {x : Word} (h : enqueueFault s i w = some (c, x)) : commitInstr i w n s = .next (scalarTrap s c x) := by
  simp [commitInstr, hq, h]

theorem commitInstr_waits (h : enqueueFault s i w = none) (hr : (releasesOf i && postsOut s) = true) : commitInstr i w n s = .next s.park := by
  simp [commitInstr, hq, h, hr]

theorem commitInstr_runs (h : enqueueFault s i w = none) (hr : (releasesOf i && postsOut s) = false)
    (ha : ((entryOf s.cpu i w).accesses && heldByAcquire (enqueue s i w n) []) = false) :
    commitInstr i w n s = exec i ((enqueue s i w n).onCpu Strand.beginHead) := by
  have hc : commitInstr i w n s = runHead (enqueue s i w n) (entryOf s.cpu i w) := by simp [commitInstr, hq, h, hr]
  exact hc.trans (runHead_exec ha)

end Commit

/-- R333: an entry that has just entered an empty queue records no start. -/
theorem beginHead_enqueue {s : State} (i : Instr) (w : Word) (n : Nat) (h : s.cpu.queue = []) :
    (enqueue s i w n).onCpu Strand.beginHead = enqueue s i w n := by
  simp [enqueue, State.onCpu, Strand.beginHead, h, entryOf]

/-! The captured operands (R57). -/

/-- What a table reads once each number of a list has been given its value under `f`. -/
theorem cellGet_foldl_cellPut {α : Type} (d : α) (f : Nat → α) (l : List Nat) (m : Nat) :
    ∀ c : Cells α, cellGet d (l.foldl (fun c n => cellPut c n (f n)) c) m = if m ∈ l then f m else cellGet d c m := by
  induction l with
  | nil => intro c; rfl
  | cons n rest ih =>
    intro c
    rw [List.foldl_cons, ih]
    by_cases hm : m = n
    · simp [hm, cellGet_cellPut_same]
    · simp [hm, cellGet_cellPut_other d c n m _ hm]

/-- A number that no entry of the list stands for keeps its value. -/
theorem cellGet_foldl_cellPut_other {α : Type} (d : α) (key : Nat → Nat) (f : Nat → α) (l : List Nat) (m : Nat) (h : ∀ n ∈ l, m ≠ key n) :
    ∀ c : Cells α, cellGet d (l.foldl (fun c n => cellPut c (key n) (f n)) c) m = cellGet d c m := by
  induction l with
  | nil => intro c; rfl
  | cons n rest ih =>
    intro c
    rw [List.foldl_cons, ih (fun k hk => h k (List.mem_cons_of_mem _ hk)), cellGet_cellPut_other d c _ m _ (h n List.mem_cons_self)]

/-- CAS2 alone has its operation code, and it does not enter the queue. -/
theorem not_queued_of_cas2 {i : Instr} {f : Form} (hf : i.form = some f) (hop : f.op = 0x088) : f.queued = false := by
  cases i <;> simp [Instr.form] at hf <;> subst hf <;> simp_all

/-- The g registers that a slot reads are six-bit numbers. -/
theorem lt_of_mem_slot_reads {a : Slot} {r : Nat} (h : r ∈ a.reads) : r < 64 := by
  unfold Slot.reads at h
  split at h <;> simp at h <;> omega

/-- A word whose operand B is a constant names no g register beyond its six-bit fields, but for the odd register of CAS2. -/
theorem lt_of_mem_gReads_const {i : Instr} {f : Form} {o : Ops} {r : Nat} (hf : i.form = some f) (ho : i.ops? = some o)
    (hb : o.b.isReg = false) (hop : f.op ≠ 0x088) (h : r ∈ gReads i) : r < 64 := by
  have hD : o.D < 64 := o.d.isLt
  have hA : o.A < 64 := o.a.isLt
  have hC : o.C < 64 := o.c.isLt
  have hB : o.B = 0 := by cases hob : o.b <;> simp_all [Ops.B, OperandB.isReg, OperandB.regNo]
  simp only [gReads, hf, ho, hb, hop, hB, if_false, List.mem_append] at h
  rcases h with ((((h | h) | h) | h) | h) | h <;> (repeat' split at h) <;> simp at h <;> omega

/-- A queued word reads g registers below 64 alone, but for an odd register behind a register operand B, beside which it reads no constant (R182, R285,
R288). -/
theorem lt_or_kReads_of_mem_gReads {i : Instr} {r : Nat} (hq : isQueued i = true) (h : r ∈ gReads i) : r < 64 ∨ kReads i = [] := by
  cases hf : i.form with
  | some f =>
    cases ho : i.ops? with
    | some o =>
      by_cases hb : o.b.isReg = true
      · cases hob : o.b <;> simp_all [kReads, OperandB.isReg]
      · refine .inl (lt_of_mem_gReads_const hf ho (eq_false_of_ne_true hb) (fun hop => ?_) h)
        simp [isQueued, hf, ho, not_queued_of_cas2 hf hop, hop] at hq
    | none => exact .inr (by simp [kReads, ho])
  | none =>
    simp only [gReads, hf] at h
    split at h
    · next a b =>
      rcases List.mem_append.mp h with h | h <;> split at h
      · simp at h
      · exact .inl (lt_of_mem_slot_reads h)
      · simp at h
      · exact .inl (lt_of_mem_slot_reads h)
    · simp at h

/-- R57: the value captured for a g register is the register's at commit. -/
theorem cellGet_captures {i : Instr} {r : Nat} (t : Strand) (hq : isQueued i = true) (h : r ∈ gReads i) :
    cellGet (t.readG r) (captures t i) r = t.readG r := by
  have hkey : ∀ n ∈ kReads i, r ≠ 64 + n := by
    rcases lt_or_kReads_of_mem_gReads hq h with hr | hk
    · intro n _; omega
    · simp [hk]
  rw [captures, cellGet_foldl_cellPut_other _ (64 + ·) t.readK _ _ hkey, cellGet_foldl_cellPut, if_pos h]

/-- R57: a queued instruction that is alone in the queue reads the g registers of its commit. -/
theorem srcG_enqueue {s : State} {i : Instr} {r : Nat} (w : Word) (n : Nat) (hq : isQueued i = true) (h : r ∈ gReads i) (hr : r ≠ 0)
    (he : s.cpu.queue = []) : (enqueue s i w n).srcG r = s.cpu.readG r := by
  have hsrc : (enqueue s i w n).srcG r = cellGet (s.cpu.readG r) (captures s.cpu i) r := by
    simp [State.srcG, enqueue, State.onCpu, he, entryOf, hr, Strand.readG]
  exact hsrc.trans (cellGet_captures s.cpu hq h)

/-- Settles O3: after the fetch the step is the commit of the instruction. -/
theorem stepRunsQueued : Obligations.StepRunsQueued := by
  intro s s1 w f i n hready hfetch hdecode hq
  rw [step_runScalar hready, runScalar_commit hfetch hdecode]
  exact ⟨fun c x h => commitInstr_traps hq h, commitInstr_waits hq, commitInstr_runs hq, beginHead_enqueue i w n, rfl, rfl,
    fun r hr h0 he => srcG_enqueue w n hq hr h0 he⟩

/-! The head of the queue, and the events of the agenda (R57, R389, R96). -/

/-- R254: a strand whose scalar access is on its way does nothing else. -/
theorem runStrand_trip {s : State} {x : Trip} (ht : s.cpu.trip = some x) (hf : x.fail = none) (hpc : x.pc = s.cpu.pc) :
    runStrand s = exec x.instr (s.onCpu (fun t => { t with parked := false })) := by
  simp [runStrand, runTrip, tripping, ht, hf, hpc]

/-- The move of an agenda that names an event. -/
theorem step_event {s : State} {i : Instr} {a : EventArg} {rest : List Action} (h : s.agenda = .event i a :: rest) (hi : isEvent i = true) :
    step s = (let s1 := writeEvicted { s with agenda := rest }
      if allRun s1 (eventPkgs s1 i a) then mapNext writeEvicted (exec i { s1 with arg := a }) else .next s1) := by
  simp [step, move, h, actPkgs, act, hi]

theorem allRun_eq_true {s : State} {l : List Nat} : allRun s l = true ↔ ∀ p ∈ l, (s.pkg p).stage ≠ 15 := by
  simp [allRun, haltedPkg]

/-- A table whose values all lack something reads a value that lacks it. -/
theorem cellGet_of_forall {α : Type} {P : α → Prop} {d : α} (hd : P d) {c : Cells α} (h : ∀ x ∈ c, P x.2) (n : Nat) : P (cellGet d c n) := by
  induction c with
  | nil => exact hd
  | cons x rest ih =>
    unfold cellGet
    split
    · exact h x List.mem_cons_self
    · exact ih (fun y hy => h y (List.mem_cons_of_mem _ hy))

/-- R96: where no channel holds decoded sectors nothing is written back. -/
theorem writeEvicted_of_no_sectors {s : State} (h : ∀ c ∈ s.chans, c.2.sectors = []) : writeEvicted s = s := by
  have hk : ∀ ck, evictedSectors s ck = [] := fun ck => by
    have hc : (s.chan ck).sectors = [] := cellGet_of_forall (P := fun c : ChanSt => c.sectors = []) rfl h ck
    simp [evictedSectors, hc]
  unfold writeEvicted
  induction s.chans.map (·.1) with
  | nil => rfl
  | cons ck rest ih => simpa [hk ck, writeBackSectors] using ih

/-- Settles O4: the head's turn, the turn of a strand on whose access the machine waits, and the agenda's. -/
theorem stepRunsHeadAndEvents : Obligations.StepRunsHeadAndEvents := by
  refine ⟨fun s e rest hready hq hheld => ⟨fun hstart => ?_, fun k hstart => ?_⟩, fun s x ha hb ht hr htrip hf hpc => ?_,
    fun s i a rest ha hi => ⟨fun hrun => ?_, fun hrun => ?_⟩, fun s => writeEvicted_of_no_sectors⟩
  · rw [step_runHead hready hq, runHead_exec hheld]
    simp [State.onCpu, Strand.beginHead, hq, hstart]
  · rw [step_runHead hready hq, runHead_exec hheld]
    simp [State.onCpu, Strand.beginHead, hq, hstart]
  · rw [step_runStrand ha hb ht hr]
    exact runStrand_trip htrip hf hpc
  · rw [step_event ha hi]
    exact if_pos (allRun_eq_true.mpr hrun)
  · rw [step_event ha hi]
    refine if_neg (fun hall => ?_)
    obtain ⟨p, hp, hhalt⟩ := hrun
    exact allRun_eq_true.mp hall p hp hhalt

/-! Traps and the hold banks (R59, R329, R331, R333). -/

/-- Of the strand, the beginning of the queue's head changes VSTART and the queue. -/
theorem beginHead_eq (t : Strand) : ∃ k q, t.beginHead = { t with vstart := k, queue := q } := by
  unfold Strand.beginHead
  split
  · exact ⟨t.vstart, t.queue, rfl⟩
  · split
    · exact ⟨t.vstart, t.queue, rfl⟩
    · exact ⟨_, _, rfl⟩

/-- R333: the entries that a trap moves. -/
theorem heldEntries_beginHead {t : Strand} {e : QEntry} {rest : List QEntry} (h : t.queue = e :: rest) :
    heldEntries t.beginHead =
      { e with start := none, read := [], tau := none, query := none, pass := e.pass.filter (fun x => x.desc.isEmpty) }
        :: rest.map (fun x => { x with start := some (x.start.getD 0) }) := by
  cases hs : e.start <;> simp [Strand.beginHead, heldEntries, h, hs]

theorem heldEntries_beginHead_ne_nil {t : Strand} (h : t.queue ≠ []) : heldEntries t.beginHead ≠ [] := by
  obtain ⟨e, rest, hq⟩ := List.exists_cons_of_ne_nil h
  simp [heldEntries_beginHead hq]

/-- R331: entry from a state that agrees with `s` on what entry saves. -/
theorem entered_enterTrap {s s1 : State} {x : Level} {c : Nat} {v e : Word} (hlevel : s1.cpu.level = s.cpu.level)
    (hmmode : s1.cpu.mmode = s.cpu.mmode) (hie : (s1.cpu.traps x).ie = (s.cpu.traps x).ie) (hheld : s1.cpu.held = s.cpu.held)
    (htvec : s1.tvec x = s.tvec x) : Entered s (enterTrap s1 x c v e) x c v e where
  cause := by simp [enterTrap_traps]
  tval := by simp [enterTrap_traps]
  epc := by simp [enterTrap_traps]
  plvl := by rw [enterTrap_traps, hlevel]; cases s.cpu.level <;> rfl
  pmm := by simp [enterTrap_traps, hmmode]
  pie := by simp [enterTrap_traps, hie]
  ie := by simp [enterTrap_traps]
  mmode := enterTrap_mmode ..
  td := by simp_all
  level := enterTrap_level ..
  pc := by rw [enterTrap_pc, htvec]

theorem entryFrame_enterTrap (s : State) (x : Level) (c : Nat) (v e : Word) : EntryFrame s (enterTrap s x c v e) x := by
  cases x <;> constructor <;> simp [enterTrap, State.onCpu, Strand.setTraps]

/-- The hold bank and the queue are none of what entry leaves alone. -/
theorem entryFrame_enterTrap_held (s : State) (f : Strand → Strand) (q : List QEntry) (x : Level) (c : Nat) (v e : Word) :
    EntryFrame (s.onCpu f) (enterTrap (s.onCpu (fun t => { (f t).setHold x q with queue := [] })) x c v e) x := by
  cases x <;> constructor <;> simp [enterTrap, State.onCpu, Strand.setTraps]

section QueueTrap

variable {s : State} {x : Level} {c : Nat} {v e : Word}

/-- R59: into a free bank the whole queue moves. -/
theorem queueTrapTo_free (hq : s.cpu.queue ≠ []) (hx : s.cpu.hold x = []) :
    queueTrapTo s x c v e = enterTrap (s.onCpu (fun t => { t.beginHead.setHold x (heldEntries s.cpu.beginHead) with queue := [] })) x c v e := by
  unfold queueTrapTo
  split
  · exact absurd ‹_› (heldEntries_beginHead_ne_nil hq)
  · simp [hx]

/-- R329: into an occupied bank it is a double trap, which enters H. -/
theorem queueTrapTo_double (hq : s.cpu.queue ≠ []) (hx : s.cpu.hold x ≠ []) (hne : x ≠ .h) (hh : s.cpu.holdH = []) :
    queueTrapTo s x c v e = enterTrap (s.onCpu (fun t => { t.beginHead with holdH := heldEntries s.cpu.beginHead, queue := [],
                                                                            trapH := { t.trapH with dbl := true } })) .h c v e := by
  unfold queueTrapTo
  split
  · exact absurd ‹_› (heldEntries_beginHead_ne_nil hq)
  · simp [hx, hne, hh]

/-- R329: with H's bank occupied too the strand stops. -/
theorem queueTrapTo_stop (hq : s.cpu.queue ≠ []) (hx : s.cpu.hold x ≠ []) (hh : x = .h ∨ s.cpu.holdH ≠ []) :
    queueTrapTo s x c v e = stopStrand s := by
  unfold queueTrapTo
  split
  · exact absurd ‹_› (heldEntries_beginHead_ne_nil hq)
  · rcases hh with rfl | hh
    · simp [hx]
    · simp [hx, hh]

theorem entered_queueTrapTo_free (hq : s.cpu.queue ≠ []) (hx : s.cpu.hold x = []) : Entered s (queueTrapTo s x c v e) x c v e := by
  obtain ⟨k, q, hb⟩ := beginHead_eq s.cpu
  rw [queueTrapTo_free hq hx]
  apply entered_enterTrap <;> simp only [State.onCpu, hb] <;> cases x <;> rfl

/-- What entry leaves alone, seen from the state in which the head of the queue has begun. -/
theorem entryFrame_queueTrapTo_free (hq : s.cpu.queue ≠ []) (hx : s.cpu.hold x = []) :
    EntryFrame (s.onCpu Strand.beginHead) (queueTrapTo s x c v e) x := by
  rw [queueTrapTo_free hq hx]
  exact entryFrame_enterTrap_held s Strand.beginHead (heldEntries s.cpu.beginHead) x c v e

theorem hold_queueTrapTo_free (hq : s.cpu.queue ≠ []) (hx : s.cpu.hold x = []) :
    (queueTrapTo s x c v e).cpu.hold x = heldEntries s.cpu.beginHead ∧ (queueTrapTo s x c v e).cpu.queue = [] := by
  rw [queueTrapTo_free hq hx]
  cases x <;> exact ⟨rfl, rfl⟩

theorem entered_queueTrapTo_double (hq : s.cpu.queue ≠ []) (hx : s.cpu.hold x ≠ []) (hne : x ≠ .h) (hh : s.cpu.holdH = []) :
    Entered s (queueTrapTo s x c v e) .h c v e := by
  obtain ⟨k, q, hb⟩ := beginHead_eq s.cpu
  rw [queueTrapTo_double hq hx hne hh]
  apply entered_enterTrap <;> simp only [State.onCpu, hb] <;> rfl

theorem hold_queueTrapTo_double (hq : s.cpu.queue ≠ []) (hx : s.cpu.hold x ≠ []) (hne : x ≠ .h) (hh : s.cpu.holdH = []) :
    let t := (queueTrapTo s x c v e).cpu
    t.holdH = heldEntries s.cpu.beginHead ∧ t.hold x = s.cpu.hold x ∧ t.queue = [] ∧ t.trapH.dbl = true := by
  obtain ⟨k, q, hb⟩ := beginHead_eq s.cpu
  rw [queueTrapTo_double hq hx hne hh]
  refine ⟨rfl, ?_, rfl, rfl⟩
  simp only [State.onCpu, hb]
  cases x
  case h => exact absurd rfl hne
  all_goals rfl

end QueueTrap

/-- R331: with an empty queue a scalar trap is entered. -/
theorem scalarTrap_empty {s : State} (h : s.cpu.queue = []) (c : Nat) (v : Word) :
    Entered s (scalarTrap s c v) (trapTarget c s.cpu.level) c v s.cpu.pc ∧ EntryFrame s (scalarTrap s c v) (trapTarget c s.cpu.level) := by
  rw [scalarTrap, scalarTrapAt_empty s c v s.cpu.pc h]
  exact ⟨entered_enterTrap rfl rfl rfl rfl rfl, entryFrame_enterTrap ..⟩

/-- Settles O24: the bank of the target level, and H's where it is occupied, decides between entry, double trap and stop. -/
theorem trapsAreTaken : Obligations.TrapsAreTaken := by
  refine ⟨fun s c v => ⟨fun h => scalarTrap_empty h c v, fun h => scalarTrapAt_waits s c v s.cpu.pc h⟩, fun s c v hq => ?_⟩
  obtain ⟨e, rest, he⟩ := List.exists_cons_of_ne_nil hq
  have hheld := heldEntries_beginHead he
  refine ⟨by simp [hheld, he], by simp [hheld, he], fun hx => ?_, fun hx hne hh => ?_, fun hx hh => ?_⟩
  · obtain ⟨hbank, hqueue⟩ := hold_queueTrapTo_free (c := c) (v := v) (e := s.cpu.pc) hq hx
    exact ⟨hbank, hqueue, entered_queueTrapTo_free hq hx, entryFrame_queueTrapTo_free hq hx⟩
  · obtain ⟨hbank, hsame, hqueue, hdbl⟩ := hold_queueTrapTo_double (c := c) (v := v) (e := s.cpu.pc) hq hx hne hh
    exact ⟨hbank, hsame, hqueue, hdbl, entered_queueTrapTo_double hq hx hne hh⟩
  · rw [queuedTrap, queueTrapTo_stop hq hx hh]
    exact ⟨rfl, _, rfl, rfl, rfl, rfl⟩

/-! The vector configuration (R51, R53, R237, R238). -/

@[simp] theorem strand_retire_readG (t : Strand) (n : Nat) : t.retire.readG n = t.readG n := rfl

/-- R237: a code of NV or EW stands for 8 times its power of two. -/
theorem sizeCode_eq {n : Nat} (h : n < 4) : sizeCode n = 8 * 2 ^ n := by
  interval_cases n <;> rfl

theorem sizeCode_nv (x : Nat) : sizeCode (bitsOf x 1 0) = 8 * 2 ^ (x % 4) := by
  rw [show bitsOf x 1 0 = x % 4 by simp [bitsOf], sizeCode_eq (Nat.mod_lt x (by decide))]

theorem sizeCode_ew (x : Nat) : sizeCode (bitsOf x 3 2) = 8 * 2 ^ (x / 4 % 4) := by
  rw [show bitsOf x 3 2 = x / 4 % 4 by simp [bitsOf], sizeCode_eq (Nat.mod_lt _ (by decide))]

/-- R53: the grant that a renegotiation gives for `avl` elements. -/
def grantOf (s : State) (avl : Nat) : Nat :=
  min (max 1 (min ((avl + s.cpu.groupElems - 1) / s.cpu.groupElems) 16)) (s.cpu.groups + freeGroups s s.myCore)

/-- R53: an unchanged grant changes VL alone. -/
theorem renegotiate_same {s : State} {avl : Nat} (h : grantOf s avl = s.cpu.groups) :
    renegotiate s avl s.cpu = { s.cpu with vl := min avl (grantOf s avl * s.cpu.groupElems) } := by
  unfold grantOf at *
  simp [renegotiate, clampNat, ceilDiv, h]

/-- R53: a changed grant clears the vector state. -/
theorem renegotiate_changed {s : State} {avl : Nat} (h : grantOf s avl ≠ s.cpu.groups) :
    renegotiate s avl s.cpu = { s.cpu.clearVector with groups := grantOf s avl, vl := min avl (grantOf s avl * s.cpu.groupElems) } := by
  unfold grantOf at *
  simp [renegotiate, clampNat, ceilDiv, h]

theorem vconfig_configures (s : State) (o : Ops) :
    ∃ t, exec (.vconfig o) s = .next t ∧ t.cpu.nv = 8 * 2 ^ (o.bImm % 4) ∧ t.cpu.ew = 8 * 2 ^ (o.bImm / 4 % 4)
      ∧ t.cpu.vl = 0 ∧ t.cpu.vstart = 0 ∧ (∀ n k, t.cpu.readV n k = 0) ∧ (∀ n k, n < 8 → t.cpu.readM n k = false) ∧ (∀ k, t.cpu.readM 8 k = true) ∧ t.cpu.groups = s.cpu.groups
      ∧ t.cpu.mvl = s.cpu.groups * (131072 / (t.cpu.nv * t.cpu.ew))
      ∧ (o.D ≠ 0 → t.cpu.readG o.D = BitVec.ofNat 64 (s.cpu.groups * (131072 / (8 * 2 ^ (o.bImm % 4) * (8 * 2 ^ (o.bImm / 4 % 4)))))) := by
  refine ⟨_, rfl, ?_, ?_, ?_, rfl, ?_, ?_, ?_, ?_, ?_, ?_⟩
  · simp [sizeCode_nv]
  · simp [sizeCode_ew]
  · simp
  · intro n k
    simp [Strand.readV, cellGet]
  · intro n k hn
    simp [Strand.readM, cellGet, Nat.ne_of_lt hn]
  · intro k
    simp [Strand.readM, cellGet]
  · simp
  · simp [Strand.mvl, Strand.groupElems]
  · intro hD
    simp [hD, Strand.mvl, Strand.groupElems, sizeCode_nv, sizeCode_ew]

/-- R238, C = 1. -/
theorem setVl_keep {s : State} {o : Ops} (avl : Nat) (hC : o.C = 1) :
    ∃ t, setVl o s avl = .next t ∧ t.cpu.vl = min avl s.cpu.mvl ∧ t.cpu.vstart = 0 ∧ t.cpu.v = s.cpu.v ∧ t.cpu.m = s.cpu.m
      ∧ t.cpu.mqOff = s.cpu.mqOff ∧ t.cpu.groups = s.cpu.groups ∧ (o.D ≠ 0 → t.cpu.readG o.D = BitVec.ofNat 64 (min avl s.cpu.mvl)) := by
  refine ⟨_, rfl, ?_⟩
  simp +contextual [hC]

/-- R53, C = 0. -/
theorem setVl_renegotiates {s : State} {o : Ops} (avl : Nat) (hC : o.C ≠ 1) :
    ∃ t, setVl o s avl = .next t ∧ t.cpu.groups = grantOf s avl ∧ t.cpu.vl = min avl (grantOf s avl * s.cpu.groupElems) ∧ t.cpu.vstart = 0
      ∧ (o.D ≠ 0 → t.cpu.readG o.D = BitVec.ofNat 64 (min avl (grantOf s avl * s.cpu.groupElems)))
      ∧ (grantOf s avl = s.cpu.groups → t.cpu.v = s.cpu.v ∧ t.cpu.m = s.cpu.m ∧ t.cpu.mqOff = s.cpu.mqOff)
      ∧ (grantOf s avl ≠ s.cpu.groups → t.cpu.v = [] ∧ t.cpu.m = [] ∧ t.cpu.mqOff = []) := by
  refine ⟨_, rfl, ?_⟩
  by_cases h : grantOf s avl = s.cpu.groups
  · simp +contextual [hC, renegotiate_same h, h]
  · simp +contextual [hC, renegotiate_changed h, h]

/-- Settles O38: SETVL and SETVLI are one operation on avl. -/
theorem vectorConfiguration : Obligations.VectorConfiguration := by
  refine fun s o => ⟨vconfig_configures s o, fun i avl hi => ?_⟩
  have hexec : exec i s = setVl o s avl := by rcases hi with ⟨rfl, rfl⟩ | ⟨rfl, rfl⟩ <;> rfl
  rw [hexec]
  exact ⟨setVl_keep avl, setVl_renegotiates avl⟩

/-! A watched word that is read again (R61, R354). -/

/-- The reading of a watched word that has changed makes WATCH pending, and is kept for the next comparison. -/
theorem pollWatch_changed {s : State} {t : Strand} {w old : Nat} (hw : t.watch = some w) (ho : t.watchSlow = some old)
    (hne : leNat (homeBytes s (8 * w) 8) ≠ old) :
    pollWatch s t = { t with trapS := { t.trapS with evp := t.trapS.evp ||| 4 }, evWatch := t.watchVa,
                             watchSlow := some (leNat (homeBytes s (8 * w) 8)) } := by
  simp [pollWatch, hw, ho, hne]

/-- A strand whose WAITEV watches the home word 0 by reading, and read 1 there; it waits on another word that found no watch entry. -/
def slowWatcher : Strand := { tid := 1, watchFull := true, watch := some 0, watchSlow := some 1 }

/-- The strand alone on a machine whose memory is 0, as WATCH_POLL finds it. -/
def slowWatch : State := { cpu := slowWatcher, arg := { key := 1 } }

/-- Refutes O57: WATCH_POLL on a strand whose WAITEV watches by reading does more than wake it. Where the watched word has changed it makes WATCH
pending and keeps the new reading (R354), but the statement has nothing change but `parked`. -/
theorem not_strandEvents : ¬ Obligations.StrandEvents := by
  intro h
  obtain ⟨hkey, -⟩ := h slowWatch slowWatch slowWatcher
  obtain ⟨-, -, hpoll, -⟩ := hkey rfl
  obtain ⟨u, v, hu, hv, hsame⟩ := hpoll rfl
  have hexec : exec .watchPoll slowWatch = .next (slowWatch.onTask 1 (fun t =>
      if t.watchFull then { pollWatch slowWatch t with parked := false } else pollWatch slowWatch t)) := rfl
  have hread : (pollWatch slowWatch slowWatcher).watchSlow = some 0 := by
    rw [pollWatch_changed (w := 0) (old := 1) rfl rfl (by decide)]
    rfl
  rw [hexec] at hu
  cases hu
  have hfound : some { pollWatch slowWatch slowWatcher with parked := false } = some v := hv
  have hslow : v.watchSlow = some 0 := by rw [← Option.some.inj hfound]; exact hread
  rw [hsame] at hslow
  exact absurd hslow (by decide)

/-! A VI's registers on a package, its interrupt bits and the error log (R380, R393). -/

@[simp] theorem viPkg_setViPkg (s : State) (pkg vi : Nat) (x : ViPkgSt) : (s.setViPkg pkg vi x).viPkg pkg vi = x := cellGet_cellPut_same ..

/-- R380: a bit that is set stays; another is set, and its vector sent. -/
theorem raiseIrq_cases (s : State) (pkg vi bit : Nat) :
    let v := s.viPkg pkg vi
    (v.irq.getLsbD bit = true ∧ raiseIrq s pkg vi bit = s)
      ∨ raiseIrq s pkg vi bit = { s.setViPkg pkg vi { v with irq := v.irq ||| (1#2 <<< bit) } with outputs := s.outputs ++ [.msix pkg vi bit] } := by
  by_cases h : (s.viPkg pkg vi).irq.getLsbD bit = true
  · exact .inl ⟨h, if_pos h⟩
  · exact .inr (if_neg h)

@[simp] theorem raiseIrq_mem (s : State) (pkg vi bit : Nat) : (raiseIrq s pkg vi bit).mem = s.mem := by
  rcases raiseIrq_cases s pkg vi bit with ⟨-, h⟩ | h
  · rw [h]
  · rw [h]; rfl

@[simp] theorem raiseIrq_launches (s : State) (pkg vi bit : Nat) : (raiseIrq s pkg vi bit).launches = s.launches := by
  rcases raiseIrq_cases s pkg vi bit with ⟨-, h⟩ | h
  · rw [h]
  · rw [h]; rfl

/-- R380: of a VI's registers, a raised interrupt changes IRQ. -/
theorem raiseIrq_viPkg (s : State) (pkg vi bit : Nat) :
    ∃ b, (raiseIrq s pkg vi bit).viPkg pkg vi = { s.viPkg pkg vi with irq := b } := by
  rcases raiseIrq_cases s pkg vi bit with ⟨-, h⟩ | h <;> rw [h]
  · exact ⟨_, rfl⟩
  · exact ⟨_, viPkg_setViPkg ..⟩

/-- R380: the completion bit is set. -/
theorem raiseIrq_bit (s : State) (pkg vi : Nat) : ((raiseIrq s pkg vi 0).viPkg pkg vi).irq.getLsbD 0 = true := by
  rcases raiseIrq_cases s pkg vi 0 with ⟨hset, h⟩ | h <;> rw [h]
  · exact hset
  · refine (congrArg (fun v : ViPkgSt => v.irq.getLsbD 0) (viPkg_setViPkg ..)).trans ?_
    simp

@[simp] theorem pushLog_mem (s : State) (pkg : Nat) (r : LogRecord) : (pushLog s pkg r).mem = s.mem := by
  cases h : r.vi <;> simp [pushLog, h]

@[simp] theorem pushLog_launches (s : State) (pkg : Nat) (r : LogRecord) : (pushLog s pkg r).launches = s.launches := by
  cases h : r.vi <;> simp [pushLog, h]

/-- R393: of the registers of the VI that a log record names, the record changes IRQ. -/
theorem pushLog_viPkg (s : State) (pkg : Nat) {vi : Nat} {r : LogRecord} (h : r.vi = some vi) :
    ∃ b, (pushLog s pkg r).viPkg pkg vi = { s.viPkg pkg vi with irq := b } := by
  simp only [pushLog, h]
  exact raiseIrq_viPkg ..

/-! The doorbell page (R69, R70, R380). -/

/-- R70: of the doorbell page, a refused write changes IRQ. -/
theorem refuseDoorbell_viPkg (s : State) :
    ∃ b, (refuseDoorbell s).viPkg s.arg.pkg s.arg.vi = { s.viPkg s.arg.pkg s.arg.vi with irq := b } := pushLog_viPkg s _ rfl

/-- R69: the entries in use, were TAIL to become the value written. -/
def tailSpan (s : State) : Nat := (s.arg.value % 2 ^ 32 + 2 ^ 32 - (s.viPkg s.arg.pkg s.arg.vi).head) % 2 ^ 32

theorem tail_accepted {s : State} (h : tailSpan s ≤ 2 ^ (s.viPkg s.arg.pkg s.arg.vi).ringSize) :
    ∃ t, exec .tail s = .next t ∧ t.viPkg s.arg.pkg s.arg.vi = { s.viPkg s.arg.pkg s.arg.vi with tail := s.arg.value % 2 ^ 32 }
      ∧ t.launches = s.launches :=
  ⟨_, if_pos h, viPkg_setViPkg .., rfl⟩

theorem tail_refused {s : State} (h : 2 ^ (s.viPkg s.arg.pkg s.arg.vi).ringSize < tailSpan s) :
    ∃ t, exec .tail s = .next t ∧ (t.viPkg s.arg.pkg s.arg.vi).tail = (s.viPkg s.arg.pkg s.arg.vi).tail := by
  obtain ⟨b, hb⟩ := refuseDoorbell_viPkg s
  exact ⟨_, if_neg (Nat.not_le.mpr h), by rw [hb]⟩

theorem ringSize_accepted {s : State} (h1 : 6 ≤ s.arg.value) (h2 : s.arg.value ≤ 16) :
    ∃ t, exec .ringSize s = .next t ∧ t.viPkg s.arg.pkg s.arg.vi = { s.viPkg s.arg.pkg s.arg.vi with ringSize := s.arg.value } :=
  ⟨_, if_pos ⟨h1, h2⟩, viPkg_setViPkg ..⟩

theorem ringSize_refused {s : State} (h : s.arg.value < 6 ∨ 16 < s.arg.value) :
    ∃ t, exec .ringSize s = .next t ∧ (t.viPkg s.arg.pkg s.arg.vi).ringSize = (s.viPkg s.arg.pkg s.arg.vi).ringSize := by
  obtain ⟨b, hb⟩ := refuseDoorbell_viPkg s
  exact ⟨_, if_neg (by omega), by rw [hb]⟩

theorem ringBase_accepted {s : State} (h : s.arg.value % 64 = 0) :
    ∃ t, exec .ringBase s = .next t
      ∧ t.viPkg s.arg.pkg s.arg.vi = { s.viPkg s.arg.pkg s.arg.vi with ringBase := BitVec.ofNat 64 s.arg.value } :=
  ⟨_, if_pos h, viPkg_setViPkg ..⟩

theorem ringBase_refused {s : State} (h : s.arg.value % 64 ≠ 0) :
    ∃ t, exec .ringBase s = .next t ∧ (t.viPkg s.arg.pkg s.arg.vi).ringBase = (s.viPkg s.arg.pkg s.arg.vi).ringBase := by
  obtain ⟨b, hb⟩ := refuseDoorbell_viPkg s
  exact ⟨_, if_neg h, by rw [hb]⟩

/-! The device takes a launch (R36, R69, R70, R355, R394). -/

/-- R70: a dropped launch counts in DROPS, and HEAD stands. -/
theorem dropLaunch_viPkg (s : State) (pkg vi a : Nat) :
    ((dropLaunch s pkg vi a).viPkg pkg vi).head = (s.viPkg pkg vi).head
      ∧ ((dropLaunch s pkg vi a).viPkg pkg vi).drops = (s.viPkg pkg vi).drops + 1 := by
  obtain ⟨b, hb⟩ := pushLog_viPkg (countDrop s pkg vi) pkg (vi := vi) (r := { time := 0, kind := .launch, addr := a, vi := some vi }) rfl
  rw [dropLaunch, hb]
  simp [countDrop]

section Accept

variable {s : State} (hstage : (s.pkg s.arg.pkg).stage = 4 ∨ ((s.pkg s.arg.pkg).stage = 3 ∧ s.arg.vi = 0))
include hstage

theorem launchAccept_submitted (hs : s.arg.submitted = true) : exec .launchAccept s = .next (acceptSubmitted s s.arg.pkg s.arg.vi) := by
  have ha : acceptsFrom s s.arg.pkg s.arg.vi = true := by simpa [acceptsFrom] using hstage
  show execLaunchAccept s = _
  simp [execLaunchAccept, ha, hs]

theorem launchAccept_ring (hs : s.arg.submitted = false) (hn : (s.viPkg s.arg.pkg s.arg.vi).head ≠ (s.viPkg s.arg.pkg s.arg.vi).tail)
    (hw : ∀ y ∈ s.hostWaits, ¬ (y.2 = true ∧ y.1.pkg = s.arg.pkg)) : exec .launchAccept s = .next (acceptRing s s.arg.pkg s.arg.vi) := by
  have ha : acceptsFrom s s.arg.pkg s.arg.vi = true := by simpa [acceptsFrom] using hstage
  have hring : ringPending (s.viPkg s.arg.pkg s.arg.vi) = true := by simpa [ringPending] using hn
  have hfree : hostWriteWaits s s.arg.pkg = false := by simpa [hostWriteWaits] using hw
  show execLaunchAccept s = _
  simp [execLaunchAccept, ha, hs, hring, hfree]

end Accept

theorem launchAccept_waits {s : State} (hs : s.arg.submitted = false)
    (h : (s.viPkg s.arg.pkg s.arg.vi).head = (s.viPkg s.arg.pkg s.arg.vi).tail ∨ ∃ y ∈ s.hostWaits, y.2 = true ∧ y.1.pkg = s.arg.pkg) :
    exec .launchAccept s = .next s := by
  have hidle : (ringPending (s.viPkg s.arg.pkg s.arg.vi) && !hostWriteWaits s s.arg.pkg) = false := by
    rcases h with h | h
    · simp [ringPending, h]
    · have hw : hostWriteWaits s s.arg.pkg = true := by simpa [hostWriteWaits] using h
      simp [hw]
  show execLaunchAccept s = _
  simp [execLaunchAccept, hs, hidle]

theorem acceptSubmitted_none {s : State} {pkg vi : Nat} (h : (s.viPkg pkg vi).submitted = []) : acceptSubmitted s pkg vi = s := by
  simp [acceptSubmitted, h]

theorem acceptSubmitted_checked {s s1 s2 : State} {pkg vi n : Nat} {x : Word} {rest : List (Word × Nat)} {b : List Byte}
    (h : (s.viPkg pkg vi).submitted = (x, n) :: rest) (hread : deviceRead s pkg vi x 512 = .ok b s1)
    (hcheck : acceptRecord s1 pkg vi b n true = .ok () s2) :
    acceptSubmitted s pkg vi = s2.setViPkg pkg vi { s2.viPkg pkg vi with submitted := rest } := by
  simp [acceptSubmitted, h, hread, hcheck]

section Ring

variable {s s1 s2 s3 : State} {pkg vi : Nat} {e b : List Byte}
  (hentry : deviceRead s pkg vi ((s.viPkg pkg vi).ringBase + BitVec.ofNat 64 (8 * ((s.viPkg pkg vi).head % 2 ^ (s.viPkg pkg vi).ringSize))) 8 = .ok e s1)
include hentry

theorem acceptRing_checked (ha : (BitVec.ofNat 64 (leNat e)).toNat % 64 = 0) (hread : deviceRead s1 pkg vi (BitVec.ofNat 64 (leNat e)) 512 = .ok b s2)
    (hcheck : acceptRecord s2 pkg vi b 0 false = .ok () s3) :
    acceptRing s pkg vi = s3.setViPkg pkg vi { s3.viPkg pkg vi with head := ((s3.viPkg pkg vi).head + 1) % 2 ^ 32 } := by
  have hskip : ¬ ((BitVec.ofNat 64 (leNat e)).toNat % 64 ≠ 0) := not_not.mpr ha
  simp only [acceptRing, vaAdd, hentry, if_neg hskip, hread, hcheck]
  rfl

/-- R70: a launch whose record address is misaligned is dropped. -/
theorem acceptRing_misaligned (ha : (BitVec.ofNat 64 (leNat e)).toNat % 64 ≠ 0) :
    acceptRing s pkg vi = advanceHead (dropLaunch s1 pkg vi (s.viPkg pkg vi).head) pkg vi := by
  simp only [acceptRing, vaAdd, hentry, if_pos ha]

end Ring

theorem advanceHead_dropLaunch (s : State) (pkg vi a : Nat) :
    let t := advanceHead (dropLaunch s pkg vi a) pkg vi
    t.mem = s.mem ∧ t.launches = s.launches ∧ (t.viPkg pkg vi).head = ((s.viPkg pkg vi).head + 1) % 2 ^ 32
      ∧ (t.viPkg pkg vi).drops = (s.viPkg pkg vi).drops + 1 := by
  obtain ⟨hhead, hdrops⟩ := dropLaunch_viPkg s pkg vi a
  have hmem : (dropLaunch s pkg vi a).mem = s.mem := pushLog_mem ..
  have hlaunches : (dropLaunch s pkg vi a).launches = s.launches := pushLog_launches ..
  simp [advanceHead, hmem, hlaunches, hhead, hdrops]

/-! A record is checked (R35 to R37, R41, R46). -/

section Record

variable {s s1 s2 : State} {pkg vi : Nat} {b kb cells : List Byte} {cls : Nat} {direct : Bool}

theorem acceptRecord_format (hf : formatOk (recordOf b) = false) :
    acceptRecord s pkg vi b cls direct = refuseLaunch s pkg vi (recordOf b) 2 := by
  simp [acceptRecord, hf]

theorem acceptRecord_levels (hf : formatOk (recordOf b) = true) (hl : (levelsLegal (recordOf b) && homesOk s pkg vi (recordOf b)) = false) :
    acceptRecord s pkg vi b cls direct = refuseLaunch s pkg vi (recordOf b) 3 := by
  have hbad : (!levelsLegal (recordOf b) || !homesOk s pkg vi (recordOf b)) = true := by rw [← Bool.not_and, hl]; rfl
  simp only [acceptRecord, hf, hbad, Bool.not_true, Bool.false_eq_true, if_false, if_true]

/-- R36: a record of legal fields and levels has its constants and its publish-list header read. -/
theorem acceptRecord_reads (hf : formatOk (recordOf b) = true) (hl : (levelsLegal (recordOf b) && homesOk s pkg vi (recordOf b)) = true) :
    acceptRecord s pkg vi b cls direct =
      recRead s pkg vi (recordOf b) (recordOf b).kaddr (8 * (recordOf b).kcount) (fun kbank s1 =>
        recRead s1 pkg vi (recordOf b) (recordOf b).pub (if (recordOf b).pub = 0 then 0 else 64) (fun cells s2 =>
          if !resourcesOk s2 pkg vi (recordOf b) then refuseLaunch s2 pkg vi (recordOf b) 4
          else if !gangsFit s2 pkg vi (recordOf b) then refuseLaunch s2 pkg vi (recordOf b) 1
          else .ok () (addLaunch s2 pkg vi (recordOf b) kbank cells cls direct))) := by
  have hgood : (!levelsLegal (recordOf b) || !homesOk s pkg vi (recordOf b)) = false := by rw [← Bool.not_and, hl]; rfl
  simp only [acceptRecord, hf, hgood, Bool.not_true, Bool.false_eq_true, if_false]

theorem recRead_ok {r : LaunchRec} {va : Word} {n : Nat} {k : List Byte → State → Acc Unit} (h : deviceRead s pkg vi va n = .ok b s1) :
    recRead s pkg vi r va n k = k b s1 := by simp [recRead, h]

theorem recRead_fault {r : LaunchRec} {va x : Word} {n c : Nat} {k : List Byte → State → Acc Unit} (h : deviceRead s pkg vi va n = .fault c x s1) :
    recRead s pkg vi r va n k = refuseLaunch (pushLog s1 pkg { time := 0, kind := .launch, addr := va.toNat, vi := some vi }) pkg vi r 10 := by
  simp [recRead, h]

/-- R36: what an accepted launch adds. -/
theorem addLaunch_adds (s : State) (pkg vi : Nat) (r : LaunchRec) (kb cells : List Byte) (cls : Nat) (direct : Bool) :
    ∃ y : Launch, (addLaunch s pkg vi r kb cells cls direct).launches = s.launches ++ [y] ∧ (addLaunch s pkg vi r kb cells cls direct).mem = s.mem
      ∧ (addLaunch s pkg vi r kb cells cls direct).cpu = s.cpu ∧ y.record = r ∧ y.vi = vi ∧ y.pkg = pkg ∧ y.cls = max r.prio cls
      ∧ y.tasks = r.levels.foldl (fun n z => n * z.extent) 1 ∧ y.started = [] ∧ y.since = s.time ∧ y.direct = direct
      ∧ (y.cells = [] → y.state = .ready) ∧ (y.cells ≠ [] → y.state = .waitCells) := by
  refine ⟨_, rfl, rfl, rfl, rfl, rfl, rfl, rfl, rfl, rfl, rfl, rfl, fun h => ?_, fun h => ?_⟩
  · exact if_pos (List.isEmpty_iff.mpr h)
  · exact if_neg (fun he => h (List.isEmpty_iff.mp he))

section Read

variable (hf : formatOk (recordOf b) = true) (hl : (levelsLegal (recordOf b) && homesOk s pkg vi (recordOf b)) = true)
include hf hl

theorem acceptRecord_unread {c : Nat} {x : Word} (hk : deviceRead s pkg vi (recordOf b).kaddr (8 * (recordOf b).kcount) = .fault c x s1) :
    acceptRecord s pkg vi b cls direct =
      refuseLaunch (pushLog s1 pkg { time := 0, kind := .launch, addr := (recordOf b).kaddr.toNat, vi := some vi }) pkg vi (recordOf b) 10 := by
  rw [acceptRecord_reads hf hl, recRead_fault hk]

variable (hk : deviceRead s pkg vi (recordOf b).kaddr (8 * (recordOf b).kcount) = .ok kb s1)
  (hc : deviceRead s1 pkg vi (recordOf b).pub (if (recordOf b).pub = 0 then 0 else 64) = .ok cells s2)
include hk hc

theorem acceptRecord_resource (hr : resourcesOk s2 pkg vi (recordOf b) = false) :
    acceptRecord s pkg vi b cls direct = refuseLaunch s2 pkg vi (recordOf b) 4 := by
  rw [acceptRecord_reads hf hl, recRead_ok hk, recRead_ok hc]
  simp [hr]

theorem acceptRecord_gang (hr : resourcesOk s2 pkg vi (recordOf b) = true) (hg : gangsFit s2 pkg vi (recordOf b) = false) :
    acceptRecord s pkg vi b cls direct = refuseLaunch s2 pkg vi (recordOf b) 1 := by
  rw [acceptRecord_reads hf hl, recRead_ok hk, recRead_ok hc]
  simp [hr, hg]

theorem acceptRecord_accepts (hr : resourcesOk s2 pkg vi (recordOf b) = true) (hg : gangsFit s2 pkg vi (recordOf b) = true) :
    acceptRecord s pkg vi b cls direct = .ok () (addLaunch s2 pkg vi (recordOf b) kb cells cls direct) := by
  rw [acceptRecord_reads hf hl, recRead_ok hk, recRead_ok hc]
  simp [hr, hg]

end Read

end Record

/-- R35: NOTIFY is bit 0 of the record's flags. -/
theorem notify_eq (s : State) (pkg vi : Nat) (r : LaunchRec) (written : Bool) :
    notify s pkg vi r written = if written = true ∧ r.flags % 2 = 1 then raiseIrq s pkg vi 0 else s := by
  simp [notify, Nat.testBit_zero]

/-- R37: the completion record of a refused launch is written. -/
theorem refuseLaunch_written {s s1 : State} {pkg vi n : Nat} {r : LaunchRec} (ha : r.done.toNat % 8 = 0)
    (hw : writeMem s (deviceWho pkg vi) .outside r.done
      (leBytes 4 n ++ leBytes 4 0 ++ leBytes 8 0 ++ leBytes 8 0 ++ leBytes 8 (s.time - (s.pkg pkg).resetAt)) false = .ok () s1) :
    refuseLaunch s pkg vi r n = .ok () (if r.flags % 2 = 1 then raiseIrq s1 pkg vi 0 else s1) := by
  have hm : misaligned r.done 8 = false := by simp [misaligned, ha]
  have hrec : writeRecord s pkg vi r.done n 0 0 = .ok true s1 := by
    simp only [writeRecord, hm, timerOf, hw, Bool.false_eq_true, if_false]
  simp [refuseLaunch, hrec, Acc.andThen, notify_eq]

/-- R36: a refused launch whose record has a misaligned address is dropped. -/
theorem refuseLaunch_dropped {s : State} {pkg vi : Nat} {r : LaunchRec} (n : Nat) (ha : r.done.toNat % 8 ≠ 0) :
    ∃ t, refuseLaunch s pkg vi r n = .ok () t ∧ t.mem = s.mem ∧ (t.viPkg pkg vi).drops = (s.viPkg pkg vi).drops + 1 := by
  have hrec : writeRecord s pkg vi r.done n 0 0 = .ok false (countDrop s pkg vi) := by simp [writeRecord, misaligned, ha]
  refine ⟨countDrop s pkg vi, ?_, rfl, congrArg ViPkgSt.drops (viPkg_setViPkg ..)⟩
  simp [refuseLaunch, hrec, Acc.andThen, notify_eq]

/-! Events of a launch (R65, R71, R73, R47, R175). -/

theorem launch?_id {s : State} {n : Nat} {l : Launch} (h : launch? s n = some l) : l.id = n := by
  simpa using List.find?_some h

section LaunchEvent

variable {s s1 : State} {l : Launch} (hl : launch? s s.arg.key = some l)
include hl

/-- R65: a launch whose cells have all been reached becomes ready. -/
theorem afterCells_ready (hw : l.state = .waitCells) (hc : cellsReady l.pkg l.vi s l.cells = .ok true s1) :
    ∃ t, exec .afterCellsReady s = .next t ∧ t.mem = s1.mem ∧ t.launches = s1.launches.map (fun (y : Launch) =>
      if y.id = l.id then { y with state := .ready, since := s1.time, readyOrder := s1.next } else y) := by
  refine ⟨onLaunch s1.fresh.2 l.id (fun x => { x with state := .ready, since := s1.time, readyOrder := s1.next }), ?_, rfl, rfl⟩
  show execAfterCellsReady s = _
  simp [execAfterCellsReady, hl, hw, hc, State.fresh]

theorem afterCells_wait (hw : l.state = .waitCells) (hc : cellsReady l.pkg l.vi s l.cells = .ok false s1) :
    exec .afterCellsReady s = .next s1 := by
  show execAfterCellsReady s = _
  simp [execAfterCellsReady, hl, hw, hc]

/-- R71: the class rises by one, and the waiting time starts again. -/
theorem agingPromotion_promotes (hw : launchWaits s l = true) (h1 : 1 ≤ l.cls) (hb : l.since + 4 * budgetOf s l.vi l.cls < s.time) :
    exec .agingPromotion s = .next (onLaunch s l.id (fun y => { y with cls := y.cls - 1, since := s.time })) := by
  show execAgingPromotion s = _
  simp [execAgingPromotion, hl, hw, h1, hb]

/-- R73 case 1. -/
theorem budgetExpiry_preempts (hw : launchWaits s l = true) (hb : l.since + budgetOf s l.vi l.cls < s.time) :
    exec .budgetExpiry s
      = .next (preemptFor (fun u => holdsNeeded u (fun t => decide (l.cls < classOf u t)) l) s.strands.length s) := by
  show execBudgetExpiry s = _
  simp [execBudgetExpiry, hl, hw, hb]

/-- R47, R49: a task that belongs to no gang starts by itself, and counts on its core. -/
theorem taskStart_starts (hs : startable l = true) (hk : s.arg.index < l.tasks) (hn : l.started.contains s.arg.index = false)
    (hg : gangOf l.record s.arg.index = none) {p : TaskPlace} (hp : taskPlace s l s.arg.index = some p)
    (hfirst : firstOnCore s l [s.arg.index] s.arg.index = true) (hserves : servesNow s l p.core_ = true)
    (hstart : startTask s l.id s.arg.index = some s1) : exec .taskStart s = .next (countTurn s1 p.core_ l.cls l.vi 1) := by
  have hopen : (!startable l || decide (l.tasks ≤ s.arg.index) || l.started.contains s.arg.index) = false := by
    rw [hs, hn, decide_eq_false (Nat.not_le.mpr hk)]; rfl
  have hall : startAll l.id s [s.arg.index] = some s1 := by simp [startAll, hstart]
  have hturn : countTurns s1 l [p.core_] = countTurn s1 p.core_ l.cls l.vi 1 := by simp [countTurns, List.eraseDups_cons]
  show execTaskStart s = _
  simp only [execTaskStart, hl, hopen, hg, Option.map_none, Option.getD_none]
  simp [hp, hfirst, hserves, hall, hturn]

/-- R37, R380: with nothing left to report or to publish, the launch leaves, its record written. -/
theorem launchCompletion_completes (hd : launchDone s l = true) (hr : reporters s l = []) (hp : l.record.npub ≤ l.published) {written : Bool}
    (hw : writeRecord s (homeOfLaunch s l) l.vi l.record.done (statusOf l) l.exited l.first = .ok written s1) :
    exec .launchCompletion s = .next (notify (freeStreams (dropLaunchEntry s1 l.id) l.id) l.pkg l.vi l.record written) := by
  show execLaunchCompletion s = _
  simp [execLaunchCompletion, hl, hd, hr, Nat.not_lt.mpr hp, hw]

end LaunchEvent

theorem completed_frame (s : State) (l : Launch) (written : Bool) :
    let t := notify (freeStreams (dropLaunchEntry s l.id) l.id) l.pkg l.vi l.record written
    t.mem = s.mem ∧ t.launches = s.launches.filter (fun (y : Launch) => y.id ≠ l.id)
      ∧ (written = true → l.record.flags % 2 = 1 → (t.viPkg l.pkg l.vi).irq.getLsbD 0 = true)
      ∧ (written = false ∨ l.record.flags % 2 = 0 → t.viPkg l.pkg l.vi = s.viPkg l.pkg l.vi) := by
  have hmem : (freeStreams (dropLaunchEntry s l.id) l.id).mem = s.mem := rfl
  have hlaunches : (freeStreams (dropLaunchEntry s l.id) l.id).launches = s.launches.filter (fun (y : Launch) => y.id ≠ l.id) := rfl
  simp only [notify_eq]
  split
  · next h =>
    refine ⟨(raiseIrq_mem ..).trans hmem, (raiseIrq_launches ..).trans hlaunches, fun _ _ => raiseIrq_bit .., fun hoff => ?_⟩
    rcases hoff with hoff | hoff <;> simp_all
  · next h => exact ⟨hmem, hlaunches, fun hw hf => absurd ⟨hw, hf⟩ h, fun _ => rfl⟩

/-! Messages of the scheduler (R47, R175, R364). -/

theorem takePacket_of_lands {s : State} {k : Packet} {kind : PacketKind} (h : Lands s k kind) : takePacket s = some (k, taken s) := by
  obtain ⟨hwire, hhere, -⟩ := h
  simp [takePacket, hwire, hhere, Option.filter, taken]

/-- R364: a packet of the event's kind that its port takes. -/
theorem packetEvent_of_arrives {s : State} {k : Packet} {kind : PacketKind} (h : Arrives s k kind) (f : State → Packet → State) :
    packetEvent s kind f = .next (f (taken s) k) := by
  obtain ⟨hlands, hassigned, hcrc⟩ := h
  have hkind : k.kind = kind := hlands.2.2
  simp [packetEvent, takePacket_of_lands hlands, hkind, hassigned, hcrc]

/-- R47: the last reservation message of a gang reserves it. -/
theorem gangMessage_reserves {s : State} {k : Packet} {y : Launch} (h : Arrives s k .gang) (hy : launch? s k.x = some y)
    (hlast : (taken s).wire.any (fun (m : Packet) => m.kind = .gang && m.x = k.x && m.y = k.y) = false) :
    exec .gangReservationMessage s = .next (onLaunch (taken s) k.x (fun z => { z with gangs := z.gangs ++ [k.y] })) := by
  have hid := launch?_id hy
  have hfound : launch? (taken s) k.x = some y := hy
  have hasked : gangAsked (taken s) k.x k.y = false := hlast
  refine (packetEvent_of_arrives h _).trans ?_
  simp [hfound, hid, hasked]

/-! Victims (R73, R341). -/

theorem classOf_le_of_victimFirst {s : State} {x y : Strand} (h : victimFirst s x y = true) : classOf s y ≤ classOf s x := by
  by_cases hc : classOf s x = classOf s y
  · exact Nat.le_of_eq hc.symm
  · simp only [victimFirst, ne_eq, hc, not_false_eq_true, if_true, decide_eq_true_eq] at h
    exact Nat.le_of_lt h

theorem classOf_le_of_not_victimFirst {s : State} {x y : Strand} (h : ¬ victimFirst s x y = true) : classOf s x ≤ classOf s y := by
  by_cases hc : classOf s x = classOf s y
  · exact Nat.le_of_eq hc
  · simp only [victimFirst, ne_eq, hc, not_false_eq_true, if_true, decide_eq_true_eq] at h
    exact Nat.not_lt.mp h

/-- R73: the first in the victims' order among a strand and some others is one of them, of no lower priority than any. -/
theorem foldl_victimFirst (s : State) (l : List Strand) : ∀ t : Strand,
    let r := l.foldl (fun best u => if victimFirst s u best then u else best) t
    r ∈ t :: l ∧ ∀ u ∈ t :: l, classOf s u ≤ classOf s r := by
  induction l with
  | nil => simp
  | cons v rest ih =>
    intro t
    by_cases hv : victimFirst s v t = true
    · have ⟨hmem, hmax⟩ := ih v
      have hle := classOf_le_of_victimFirst hv
      simp only [List.foldl_cons, hv, if_true, List.mem_cons, forall_eq_or_imp] at hmem hmax ⊢
      exact ⟨.inr hmem, Nat.le_trans hle hmax.1, hmax⟩
    · have ⟨hmem, hmax⟩ := ih t
      have hle := classOf_le_of_not_victimFirst hv
      simp only [List.foldl_cons, hv, List.mem_cons, forall_eq_or_imp] at hmem hmax ⊢
      exact ⟨hmem.imp_right .inr, hmax.1, Nat.le_trans hle hmax.1, hmax.2⟩

/-- R73, R341: the first victim is one of the strands, and of those that a slot is free for none has a lower priority. -/
theorem firstVictim_spec {s : State} {l : List Strand} {t : Strand} (h : firstVictim s l = some t) :
    t ∈ l ∧ ∀ u ∈ l, (freeSlot s (dieKey u.pkg u.die) u.vi).isSome → haltedPkg s u.pkg = false → classOf s u ≤ classOf s t := by
  unfold firstVictim at h
  split at h
  · simp at h
  · next v rest hcand =>
    obtain ⟨hmem, hmax⟩ := foldl_victimFirst s rest v
    rw [Option.some.inj h, ← hcand] at hmem hmax
    exact ⟨List.mem_of_mem_filter hmem, fun u hu hslot hrun => hmax u (List.mem_filter.mpr ⟨hu, by simp [hslot, hrun]⟩)⟩

section Preempt

variable (f : State → Strand → Bool) (n : Nat) {s : State}

theorem preemptFor_none (h : firstVictim s (s.strands.filter (fun t => t.tid ≠ 0 && f s t)) = none) : preemptFor f (n + 1) s = s := by
  simp only [preemptFor, h]

/-- R73: the victim's group is asked to leave; while it has not left, the search ends. -/
theorem preemptFor_victim {t : Strand} (h : firstVictim s (s.strands.filter (fun t => t.tid ≠ 0 && f s t)) = some t) :
    preemptFor f (n + 1) s = if ((requestPreempt s t).task? t.tid).isSome then requestPreempt s t else preemptFor f n (requestPreempt s t) := by
  simp only [preemptFor, h]

end Preempt

/-- Settles O58: a lemma for each event; the doorbell page, acceptance, the checks of a record, the launches' events, the messages, the victims. -/
theorem launchEvents : Obligations.LaunchEvents := by
  intro s s1 s2 s3 l k e b kb cells cls direct pkg vi v x
  refine ⟨tail_accepted, tail_refused, ringSize_accepted, ringSize_refused, ringBase_accepted, ringBase_refused, ⟨_, rfl, viPkg_setViPkg ..⟩,
    ⟨_, rfl, viPkg_setViPkg ..⟩,
    fun hstage => ⟨fun hs => ⟨fun hnone => ?_, fun a n rest hsub hread hcheck => ?_⟩, fun hs hn hw hentry => ?_, launchAccept_waits⟩,
    ?_, fun hl => ?_, fun h y => gangMessage_reserves h, fun h => packetEvent_of_arrives h _, rfl, fun gives u h => (Bool.and_eq_true_iff.mp h).1,
    fun f n => ⟨preemptFor_none f n, fun t ht => ?_⟩⟩
  · rw [launchAccept_submitted hstage hs, acceptSubmitted_none hnone]
  · rw [launchAccept_submitted hstage hs, acceptSubmitted_checked hsub hread hcheck]
  · refine ⟨fun ha hread hcheck => ?_, fun ha => ?_⟩
    · rw [launchAccept_ring hstage hs hn hw, acceptRing_checked hentry ha hread hcheck]
    · rw [launchAccept_ring hstage hs hn hw, acceptRing_misaligned hentry ha]
      exact ⟨_, rfl, advanceHead_dropLaunch ..⟩
  · rintro r rfl
    refine ⟨acceptRecord_format, acceptRecord_levels, fun hf hlv => ⟨fun c x => acceptRecord_unread hf hlv, fun hk hc =>
      ⟨acceptRecord_resource hf hlv hk hc, acceptRecord_gang hf hlv hk hc, fun hr hg => ?_⟩⟩, fun n => refuseLaunch_written, refuseLaunch_dropped⟩
    obtain ⟨y, hadds⟩ := addLaunch_adds s2 pkg vi (recordOf b) kb cells cls direct
    exact ⟨_, y, acceptRecord_accepts hf hlv hk hc hr hg, hadds⟩
  · refine ⟨afterCells_ready hl, afterCells_wait hl, agingPromotion_promotes hl, budgetExpiry_preempts hl,
      fun hs hk hn hg p => taskStart_starts hl hs hk hn hg, fun hd hr hp written hw => ?_⟩
    exact ⟨_, launchCompletion_completes hl hd hr hp hw, completed_frame s1 l written⟩
  · obtain ⟨hmem, hmax⟩ := firstVictim_spec ht
    rw [preemptFor_victim f n ht]
    simp only [List.mem_filter, Bool.and_eq_true, decide_eq_true_eq] at hmem hmax
    obtain ⟨hstrand, -, hf⟩ := hmem
    exact ⟨hstrand, hf, fun u hu hut hfu => hmax u ⟨hu, hut, hfu⟩, fun hstay => if_pos hstay, fun hgone => if_neg (by simpa using hgone)⟩

/-! What a part of the machine reads after it has been set. -/

@[simp] theorem core_setCore (s : State) (k : Nat) (x : CoreSt) : (s.setCore k x).core k = x := cellGet_cellPut_same ..
@[simp] theorem die_setDie (s : State) (k : Nat) (x : DieSt) : (s.setDie k x).die k = x := cellGet_cellPut_same ..
@[simp] theorem chan_setChan (s : State) (k : Nat) (x : ChanSt) : (s.setChan k x).chan k = x := cellGet_cellPut_same ..

/-- A table whose values are all changed in one way, which leaves the default as it is. -/
theorem cellGet_map {α : Type} {d : α} {f : α → α} (hd : f d = d) (c : Cells α) (n : Nat) :
    cellGet d (c.map (fun x => (x.1, f x.2))) n = f (cellGet d c n) := by
  induction c with
  | nil => exact hd.symm
  | cons x rest ih =>
    obtain ⟨k, v⟩ := x
    simp only [List.map_cons, cellGet, ih]
    split <;> rfl

/-! The pre-emption of a group (R74, R324, R342). -/

/-- R74: a group on one package is pre-empted at once. -/
theorem preemptionSave_here {s : State} {t : Strand} (ht : s.task? s.arg.key = some t) (hg : groupPackages s t = []) :
    exec .preemptionSave s = .next (preemptGroup s t false) := by
  show execPreemptionSave s = _
  simp [execPreemptionSave, ht, requestPreempt, hg]

/-- R74: the other packages of a group get their messages first. -/
theorem preemptionSave_asks {s : State} {t : Strand} {p : Nat} {ps : List Nat} (ht : s.task? s.arg.key = some t) (hg : groupPackages s t = p :: ps)
    (hw : s.wire.any (fun (m : Packet) => m.kind = .preempt && m.x = t.tid) = false) :
    exec .preemptionSave s = .next { s with wire := s.wire ++ (p :: ps).map (preemptMessage t) } := by
  show execPreemptionSave s = _
  simp only [execPreemptionSave, ht, requestPreempt, hg, hw, Bool.false_eq_true, if_false]

/-- R329: a strand that a trap has stopped is saved. -/
theorem preemptionSave_stopped {s : State} {x : Saved} (ht : s.task? s.arg.key = none)
    (hx : s.saved.find? (fun y => y.stopped && y.strand.tid = s.arg.key) = some x) : exec .preemptionSave s = .next (saveStopped s x) := by
  show execPreemptionSave s = _
  simp only [execPreemptionSave, ht, hx]

/-- R74: after 50 microseconds a deferred pre-emption happens wherever the collective stands. -/
theorem preemptDeferral_expires {s : State} {t : Strand} {since : Nat} (ht : s.task? s.arg.key = some t) (hs : t.deferSince = some since)
    (hd : since + 50000 ≤ s.time) : exec .preemptDeferralExpiry s = .next (preemptGroup s t true) := by
  show execPreemptDeferralExpiry s = _
  simp [execPreemptDeferralExpiry, ht, hs, hd]

/-- R74: the last message of a group that spans packages pre-empts it. -/
theorem preemptMessage_preempts {s : State} {k : Packet} {t : Strand} (h : Arrives s k .preempt)
    (hlast : (taken s).wire.any (fun (m : Packet) => m.kind = .preempt && m.x = k.x) = false) (ht : (taken s).task? k.x = some t) :
    exec .preemptionMessage s = .next (preemptGroup (taken s) t false) := by
  refine (packetEvent_of_arrives h _).trans ?_
  simp only [hlast, ht, Bool.false_eq_true, if_false]

section Group

variable {s : State} {t : Strand} {force : Bool}

theorem preemptGroup_halted (h : ∃ u ∈ residentGroup s t, (s.pkg u.pkg).stage = 15) : preemptGroup s t force = s := by
  have hh : (residentGroup s t).any (fun u => haltedPkg s u.pkg) = true := by simpa [haltedPkg] using h
  simp [preemptGroup, hh]

variable (hrun : ∀ u ∈ residentGroup s t, (s.pkg u.pkg).stage ≠ 15)
include hrun

theorem any_halted_residentGroup : (residentGroup s t).any (fun u => haltedPkg s u.pkg) = false := by simpa [haltedPkg] using hrun

theorem preemptGroup_full (hslots : slotsFor s (residentGroup s t) = false) :
    preemptGroup s t force = { s with outputs := s.outputs ++ [.report 1] } := by
  simp only [preemptGroup, any_halted_residentGroup hrun, hslots, Bool.false_eq_true, if_false, Bool.not_false, if_true]

theorem preemptGroup_deferred (hslots : slotsFor s (residentGroup s t) = true) (hin : (residentGroup s t).any (insideStep s) = true)
    (hf : force = false) : preemptGroup s t force = s.onStrands (fun u =>
      if (residentGroup s t).any (fun y => y.tid = u.tid) && u.deferSince.isNone then { u with deferSince := some s.time } else u) := by
  simp [preemptGroup, any_halted_residentGroup hrun, hslots, hin, hf]

theorem preemptGroup_saves (hslots : slotsFor s (residentGroup s t) = true) (hin : (residentGroup s t).any (insideStep s) = false ∨ force = true) :
    preemptGroup s t force
      = leaveSlots (waitAgain (saveGroup s (residentGroup s t) []) (residentGroup s t)) (residentGroup s t) := by
  have hgo : ¬ ((residentGroup s t).any (insideStep s) = true ∧ !force) := by rcases hin with h | h <;> simp [h]
  simp only [preemptGroup, any_halted_residentGroup hrun, hslots, Bool.false_eq_true, if_false, Bool.not_true, hgo]

end Group

/-- R73, R324: what the end of a group's pre-emption changes: its launches wait again, and its combine slots start their time. -/
theorem leaveSlots_waitAgain (u : State) (g : List Strand) :
    let r := leaveSlots (waitAgain u g) g
    r.mem = u.mem ∧ r.strands = u.strands ∧ r.saved = u.saved
      ∧ r.launches = u.launches.map (fun (y : Launch) => if g.any (fun z => z.lid = y.id) then { y with since := u.time } else y)
      ∧ ∀ d, (r.die d).combine = (u.die d).combine.map (fun y =>
          if (g.flatMap graphsOf).contains (slotGraph y.key) then { y with since := some u.time } else y) := by
  refine ⟨rfl, rfl, rfl, rfl, fun d => ?_⟩
  exact congrArg DieSt.combine (cellGet_map (d := ({} : DieSt)) (f := fun x => { x with combine := x.combine.map (fun y =>
    if (g.flatMap graphsOf).contains (slotGraph y.key) then { y with since := some u.time } else y) }) rfl u.dies d)

/-! Saving (R342). -/

theorem task?_tid {s : State} {n : Nat} {t : Strand} (h : s.task? n = some t) : t.tid = n := by
  have := List.find?_some h
  simp only [Bool.and_eq_true, decide_eq_true_eq] at this
  exact this.1

/-- R342: the task is on no strand any longer. -/
theorem task?_freeStrand (s : State) (n : Nat) : (freeStrand s n).task? n = none := by
  simp only [State.task?, State.strands, freeStrand, List.find?_eq_none, List.mem_cons, List.mem_filter, Bool.and_eq_true, decide_eq_true_eq]
  rintro t (rfl | ⟨-, ht⟩) ⟨htid, hne⟩
  · split at htid
    · next hc => simp [hc, idleAt] at hne
    · contradiction
  · exact ht htid

@[simp] theorem stopped_tid (t : Strand) : (stopped t).tid = t.tid := by
  obtain ⟨k, q, hb⟩ := beginHead_eq t
  simp [stopped, hb]

theorem tid_getD_task? (s : State) (t : Strand) : ((s.task? t.tid).getD t).tid = t.tid := by
  cases h : s.task? t.tid with
  | none => rfl
  | some u => exact task?_tid h

/-- A task has left its strand for the slot at a home address. -/
def LeftFor (s : State) (tid : Nat) (slot : Option Nat) (a : Nat) : Prop :=
  s.task? tid = none ∧ ∃ y ∈ s.saved, y.strand.tid = tid ∧ y.slot = slot ∧ y.at_ = a

/-- R342: the save of a strand frees its place, and leaves a record of its task at the slot's address. -/
theorem leftFor_saveStrand (s : State) (t : Strand) (a : Nat) (slot : Option Nat) (r : Option (List Byte)) (bad : Bool) :
    LeftFor (saveStrand s t a slot r bad) t.tid slot a := by
  unfold saveStrand
  generalize (settlePass s t).fresh = p
  obtain ⟨number, s0⟩ := p
  dsimp only
  generalize writeImage s0 _ = w
  have htid := (stopped_tid _).trans (tid_getD_task? s0 t)
  refine ⟨task?_freeStrand .., _, List.mem_append_right _ (List.mem_singleton_self _), ?_⟩
  split <;> exact ⟨htid, rfl, rfl⟩

/-- The end of a region changes the core alone. -/
theorem LeftFor.dropRegion {s : State} {tid a : Nat} {slot : Option Nat} (h : LeftFor s tid slot a) (ck lid : Nat) :
    LeftFor (dropRegion s ck lid) tid slot a := by
  simp only [Machine.dropRegion]
  split <;> exact h

/-- R342, R346: the first strand of a group leaves its core for the free slot. -/
theorem saveGroup_cons {s : State} {u : Strand} {n : Nat} (rest : List Strand) (seen : List Nat)
    (h : freeSlot s (dieKey u.pkg u.die) u.vi = some n) :
    ∃ s2 more, saveGroup s (u :: rest) seen = saveGroup s2 rest more ∧ LeftFor s2 u.tid (some n) (slotHa s u.pkg u.die u.vi n) := by
  rw [saveGroup, h]
  refine ⟨_, _, rfl, ?_⟩
  split
  · exact leftFor_saveStrand ..
  · exact (leftFor_saveStrand ..).dropRegion ..

/-! Resuming (R56, R73, R75, R345, R346). -/

/-- The saved images of a context's group. -/
def groupImages (s : State) (x : Saved) : List Saved :=
  s.saved.filter (fun y => waitsResume y && (savedGroup s x.strand).any (fun u => u.tid = y.strand.tid))

/-- The state in which those images have found their cores. -/
def groupResumed (s : State) (x : Saved) : State := resumeGroup (groupImages s x).length s (groupImages s x)

theorem resumeWhole_resumes {s : State} {x : Saved} (hs : ∀ y ∈ groupImages s x, y.stopped = false)
    (hall : ∀ y ∈ (groupResumed s x).saved, ∀ z ∈ groupImages s x, z.number ≠ y.number) : resumeWhole s x = groupResumed s x := by
  have h1 : (groupImages s x).any (·.stopped) = false := by simpa using hs
  have h2 : (groupResumed s x).saved.any (fun y => (groupImages s x).any (fun z => z.number = y.number)) = false := by simpa using hall
  unfold groupResumed groupImages at *
  simp only [resumeWhole, h1, h2, Bool.false_eq_true, if_false]

/-- A group with a strand that is still to be saved, or that does not find a core for every share, stays. -/
theorem resumeWhole_stays {s : State} {x : Saved} (h : (∃ y ∈ groupImages s x, y.stopped = true)
    ∨ ∃ y ∈ (groupResumed s x).saved, ∃ z ∈ groupImages s x, z.number = y.number) : resumeWhole s x = s := by
  have h2 : (groupImages s x).any (·.stopped) = true
      ∨ (groupResumed s x).saved.any (fun y => (groupImages s x).any (fun z => z.number = y.number)) = true := by simpa using h
  unfold groupResumed groupImages at *
  rcases h2 with h2 | h2 <;> simp only [resumeWhole, h2, if_true, ite_self]

/-- A group that may not resume stays as it is saved, or its turn keeps it. -/
theorem resumeWhole_or_turn {s : State} {x : Saved} (h : (∃ y ∈ groupImages s x, y.stopped = true)
    ∨ (∃ y ∈ (groupResumed s x).saved, ∃ z ∈ groupImages s x, z.number = y.number) ∨ resumesNow s (groupResumed s x) x = false) :
    resumeWhole s x = s ∨ resumesNow s (resumeWhole s x) x = false := by
  by_cases hstay : (∃ y ∈ groupImages s x, y.stopped = true) ∨ ∃ y ∈ (groupResumed s x).saved, ∃ z ∈ groupImages s x, z.number = y.number
  · exact .inl (resumeWhole_stays hstay)
  · have hturn : resumesNow s (groupResumed s x) x = false := by
      rcases h with h | h | h
      · exact absurd (.inl h) hstay
      · exact absurd (.inr h) hstay
      · exact h
    have hwhole : resumeWhole s x = groupResumed s x := by
      refine resumeWhole_resumes (fun y hy => ?_) (fun y hy z hz hn => hstay (.inr ⟨y, hy, z, hz, hn⟩))
      exact Bool.eq_false_iff.mpr (fun hs => hstay (.inl ⟨y, hy, hs⟩))
    exact .inr (hwhole ▸ hturn)

/-- A group none of which runs has resumed on no core. -/
theorem resumedOn_self {s : State} {x : Saved} (h : ∀ u ∈ savedGroup s x.strand, s.task? u.tid = none) : resumedOn s s x = [] := by
  rw [resumedOn, List.filterMap_eq_nil_iff]
  intro u hu
  simp [h u hu]

theorem resumeInClass_resumes {s : State} {x : Saved} (hw : resumeWhole s x = groupResumed s x) (hn : resumesNow s (groupResumed s x) x = true) :
    resumeInClass s x
      = (resumedOn s (groupResumed s x) x).foldl (fun st y => countTurn st y.2 y.1.cls y.1.vi 1) (groupResumed s x) := by
  simp only [resumeInClass, hw, hn, if_true]

theorem resumeInClass_stays {s : State} {x : Saved} (hg : ∀ u ∈ savedGroup s x.strand, s.task? u.tid = none)
    (h : resumeWhole s x = s ∨ resumesNow s (resumeWhole s x) x = false) : resumeInClass s x = s := by
  rcases h with h | h
  · simp [resumeInClass, h, resumedOn_self hg]
  · simp [resumeInClass, h]

/-- CONTEXT_RESTORE and LOST_CONTEXT_RESUME are one operation on the context that they find. -/
theorem exec_resume {s : State} {x : Saved} {i : Instr}
    (hi : (i = .contextRestore ∧ s.saved.find? (fun y => y.strand.tid = s.arg.key && y.slot.isSome) = some x)
      ∨ (i = .lostContextResume ∧ s.saved.find? (fun y => y.strand.tid = s.arg.key && isLost s y && waitsResume y) = some x)) :
    exec i s = .next (resumeInClass s x) := by
  rcases hi with ⟨rfl, hx⟩ | ⟨rfl, hx⟩
  · show execContextRestore s = _
    simp only [execContextRestore, hx]
  · show execLostContextResume s = _
    simp only [execLostContextResume, hx]

theorem cellGet_map_true (l : List Nat) {i : Nat} (h : i ∈ l) : cellGet false (l.map (fun j => (j, true))) i = true := by
  induction l with
  | nil => simp at h
  | cons j rest ih =>
    simp only [List.map_cons, cellGet]
    split
    · rfl
    · next hne => exact ih ((List.mem_cons.mp h).resolve_left (Ne.symm hne))

/-- R346: mq of a lost context is zero. -/
theorem readM_lostStrand (s : State) (t : Strand) (seat : Seat) (off i : Nat) (h : i < (lostStrand s t seat off).mvl) :
    (lostStrand s t seat off).readM 8 i = false := by
  have hoff : cellGet false (lostStrand s t seat off).mqOff i = true := cellGet_map_true _ (List.mem_range.mpr h)
  simp [Strand.readM, hoff]

/-! Pages, translations, regions and lanes (R55, R95, R114, R122, R124). -/

/-- R122: the page comes in, and the access waits for it no longer. -/
theorem pageInComplete_brings {s s1 : State} {vi p a : Nat} {va : Word} {l : Leaf} (hp : s.pageIns[s.arg.index]? = some (vi, va))
    (hn : nodeOf s s.arg.pkg vi (va.toNat / 2 ^ 40 % 2 ^ 22) = some p)
    (hw : walk s p (va.toNat / 2 ^ 37 % 8) (va.toNat / 2 ^ 33 % 16) vi (va.toNat % 2 ^ 33) = some (a, l)) (hsp : l.sp = true)
    (hwait : pageInWaits s p (va.toNat / 2 ^ 37 % 8) (va.toNat / 2 ^ 33 % 16) vi (va.toNat % 2 ^ 33) = false)
    (hin : (if l.big then bigPageIn else pageIn) s p (va.toNat / 2 ^ 37 % 8) (va.toNat / 2 ^ 33 % 16) vi (va.toNat % 2 ^ 33) a l.frame = some s1) :
    exec .pageInComplete s = .next (donePageIn s1 s.arg.index) := by
  have hnode : bitsOf va.toNat 61 40 = va.toNat / 2 ^ 40 % 2 ^ 22 := rfl
  have hdie : bitsOf va.toNat 39 37 = va.toNat / 2 ^ 37 % 8 := rfl
  have hchan : bitsOf va.toNat 36 33 = va.toNat / 2 ^ 33 % 16 := rfl
  have hoff : low 33 va.toNat = va.toNat % 2 ^ 33 := rfl
  show execPageInComplete s = _
  simp only [execPageInComplete, hp, hnode, hdie, hchan, hoff, hn, hw, hsp, hwait, hin, Bool.not_true, Bool.false_eq_true, if_false]

/-- The channel with an entry of its page table changed. -/
def setPage (c : ChanSt) (i : Nat) (p : PageHist) : ChanSt := { c with pages := cellPut c.pages i p }

/-- The channel with a region register changed. -/
def setRegion (c : ChanSt) (i : Nat) (r : FormatReg) : ChanSt := { c with regs := cellPut c.regs i r }

/-- R124: after 256 ms a page is settled no longer. -/
theorem pageSettled_expires {s : State} {n : Nat}
    (hs : (cellGet {} (s.chan s.arg.key).pages (s.arg.vi * 131072 + s.arg.index)).settledAt = some n) (hn : n + 256000000 ≤ s.time) :
    ∃ u, exec .pageSettledExpiry s = .next u ∧ u.mem = s.mem
      ∧ (cellGet {} (u.chan s.arg.key).pages (s.arg.vi * 131072 + s.arg.index)).settledAt = none := by
  refine ⟨s.setChan s.arg.key (setPage (s.chan s.arg.key) (s.arg.vi * 131072 + s.arg.index)
    { cellGet {} (s.chan s.arg.key).pages (s.arg.vi * 131072 + s.arg.index) with settledAt := none }), ?_, rfl, ?_⟩
  · show execPageSettledExpiry s = _
    simp only [execPageSettledExpiry, hs, Nat.not_lt.mpr hn, if_false, setPage]
  · simp [setPage, cellGet_cellPut_same]

/-- R114: translations go 1 ms after they were filled. -/
theorem tlbEntry_expires (s : State) : ∃ u, exec .tlbEntryExpiry s = .next u ∧ u.mem = s.mem
    ∧ ∀ e, e ∈ (u.core s.arg.key).tlbs ↔ e ∈ (s.core s.arg.key).tlbs ∧ s.time < e.since + 1000000 := by
  refine ⟨_, rfl, rfl, fun e => ?_⟩
  simp

theorem formatRegion_enables {s : State} (h8 : s.arg.index < 8) (hen : (cellGet {} (s.chan s.arg.key).regs s.arg.index).en = false)
    (hok : regionOk (s.chan s.arg.key) s.arg.index (cellGet {} (s.chan s.arg.key).regs s.arg.index) = true) :
    ∃ u, exec .formatRegionEnable s = .next u ∧ u.mem = s.mem
      ∧ cellGet {} (u.chan s.arg.key).regs s.arg.index = { cellGet {} (s.chan s.arg.key).regs s.arg.index with en := true } := by
  refine ⟨s.setChan s.arg.key (setRegion (s.chan s.arg.key) s.arg.index
    { cellGet {} (s.chan s.arg.key).regs s.arg.index with en := true }), ?_, rfl, ?_⟩
  · show execFormatRegionEnable s = _
    simp [execFormatRegionEnable, enableRegion, h8, hen, hok, setRegion]
  · simp [setRegion, cellGet_cellPut_same]

/-- R95: no cache of the die holds a frame of the range any longer. -/
theorem dropFrames_drops (s : State) {ha len f : Nat} (h1 : ha ≤ 256 * f) (h2 : 256 * f < ha + len) (n : Nat) :
    (∀ b ∈ cellGet [] ((dropFrames s ha len).die (haDieKey ha)).l2 n, b.frame ≠ f)
      ∧ ∀ b ∈ cellGet [] ((dropFrames s ha len).die (haDieKey ha)).msc n, b.frame ≠ f := by
  have hlow : ha / 256 ≤ f := by omega
  have hhigh : f * 256 < ha + len := by omega
  simp only [dropFrames, die_setDie]
  constructor
  · intro b hb hf
    rw [cellGet_map (f := List.filter _) rfl, List.mem_filter] at hb
    simp [hf, hlow, hhigh] at hb
  · intro b hb hf
    rw [cellGet_map (f := List.filter _) rfl, List.mem_filter] at hb
    simp [hf, hlow, hhigh] at hb

/-- R95: the region is closed, and its frames are in no cache. -/
theorem formatRegion_disables {s : State} (hen : (cellGet {} (s.chan s.arg.key).regs s.arg.index).en = true) :
    let r := cellGet {} (s.chan s.arg.key).regs s.arg.index
    let first := chanHa s.arg.key r.winbase
    ∃ u, exec .formatRegionDisable s = .next u ∧ (cellGet {} (u.chan s.arg.key).regs s.arg.index).en = false
      ∧ ∀ n f, first ≤ 256 * f → 256 * f < first + 64 * r.count →
        (∀ b ∈ cellGet [] (u.die (haDieKey first)).l2 n, b.frame ≠ f) ∧ ∀ b ∈ cellGet [] (u.die (haDieKey first)).msc n, b.frame ≠ f := by
  have hopen : ¬ (!(cellGet {} (s.chan s.arg.key).regs s.arg.index).en) = true := by simp [hen]
  refine ⟨_, congrArg Host.Outcome.next (if_neg hopen), ?_, fun n f h1 h2 => ?_⟩
  · simp [cellGet_cellPut_same]
  · exact dropFrames_drops _ h1 h2 n

/-- R55: the written value takes effect on a core without strands. -/
theorem lanemap_applies {s : State} {r : Nat} (hr : (s.core s.arg.key).pend = some r)
    (hfree : ∀ u ∈ s.strands, u.tid = 0 ∨ coreKey u.pkg u.die u.core ≠ s.arg.key) :
    ∃ u, exec .lanemapApply s = .next u ∧ (u.core s.arg.key).retired = r ∧ (u.core s.arg.key).pend = none ∧ u.mem = s.mem ∧ u.cpu = s.cpu := by
  have hnone : s.strands.any (fun t => t.tid ≠ 0 && coreKey t.pkg t.die t.core = s.arg.key) = false := by
    rw [List.any_eq_false]
    intro u hu
    rcases hfree u hu with h | h <;> simp [h]
  refine ⟨s.setCore s.arg.key { s.core s.arg.key with retired := r, pend := none }, ?_, ?_, ?_, rfl, rfl⟩
  · show execLanemapApply s = _
    simp only [execLanemapApply, hr, hnone, Bool.false_eq_true, if_false]
  · simp
  · simp

/-- Settles O59: a lemma for each event; the group's pre-emption and its resuming are one operation each. -/
theorem saveAndPagingEvents : Obligations.SaveAndPagingEvents := by
  intro s s1 t k x
  refine ⟨fun ht => ⟨preemptionSave_here ht, fun p ps => preemptionSave_asks ht, fun since => preemptDeferral_expires ht,
      fun force => ⟨preemptGroup_halted, fun hrun => ⟨preemptGroup_full hrun, preemptGroup_deferred hrun, fun hslots hin => ?_⟩⟩⟩,
    fun u rest seen n h => ⟨by simp [saveGroup], saveGroup_cons rest seen h⟩, preemptionSave_stopped, preemptMessage_preempts,
    fun i hi => ?_, fun seat off => ⟨rfl, rfl, rfl, rfl, rfl, rfl, rfl, rfl, fun i => readM_lostStrand s t seat off i, rfl, rfl, rfl, rfl, rfl⟩,
    fun vi va p a l => pageInComplete_brings, fun n => pageSettled_expires, tlbEntry_expires s, formatRegion_enables, formatRegion_disables,
    fun r => lanemap_applies⟩
  · rw [preemptGroup_saves hrun hslots hin]
    exact leaveSlots_waitAgain ..
  · rw [exec_resume hi]
    refine fun hg => ⟨fun hs hall hn => ?_, fun h => ?_⟩
    · exact congrArg Host.Outcome.next (resumeInClass_resumes (resumeWhole_resumes hs hall) hn)
    · exact congrArg Host.Outcome.next (resumeInClass_stays hg (resumeWhole_or_turn h))

end Sys2Proof.Proofs.Execution

/-! The obligations of spec/05_numbers.md: floating results rounded once (R80 to R84), and the ABN traps of the element-wise instructions (R105, R106). -/

namespace Sys2Proof.Proofs.Numbers

open Sys2Proof Sys2Proof.Machine Sys2Proof.Safety Sys2Proof.Claims Sys2Proof.Laws

/-! Fractions and powers of two. -/

theorem scaleFrac_snd_pos {n d : Nat} (hd : 0 < d) (k : ℤ) : 0 < (scaleFrac n d k).2 := by
  unfold scaleFrac
  split
  · exact hd
  · exact Nat.mul_pos hd (Nat.two_pow_pos _)

/-- The pair is the fraction scaled. -/
theorem scaleFrac_val (n d : Nat) (k : ℤ) : ((scaleFrac n d k).1 : ℝ) / (scaleFrac n d k).2 = n / d * 2 ^ k := by
  unfold scaleFrac
  split
  · next h =>
    obtain ⟨j, rfl⟩ := Int.eq_ofNat_of_zero_le h
    simp
    ring
  · next h =>
    obtain ⟨j, rfl⟩ := Int.exists_eq_neg_ofNat (by omega : k ≤ 0)
    simp only [neg_neg, Int.toNat_natCast, Nat.cast_mul, Nat.cast_pow, Nat.cast_ofNat, zpow_neg, zpow_natCast]
    field_simp

/-- An integer scaled. -/
theorem scaleFrac_one_val (n : Nat) (k : ℤ) : ((scaleFrac n 1 k).1 : ℝ) / (scaleFrac n 1 k).2 = n * 2 ^ k := by
  rw [scaleFrac_val, Nat.cast_one, div_one]

theorem two_zpow_pos (e : ℤ) : (0 : ℝ) < 2 ^ e := by positivity

theorem two_zpow_le_iff {a b : ℤ} : (2 : ℝ) ^ a ≤ 2 ^ b ↔ a ≤ b := zpow_le_zpow_iff_right₀ one_lt_two

theorem two_zpow_lt_iff {a b : ℤ} : (2 : ℝ) ^ a < 2 ^ b ↔ a < b := zpow_lt_zpow_iff_right₀ one_lt_two

theorem two_zpow_mul (a b : ℤ) : (2 : ℝ) ^ a * 2 ^ b = 2 ^ (a + b) := (zpow_add₀ two_ne_zero a b).symm

/-- A number has one leading exponent. -/
theorem leading_unique {v : ℝ} {e e' : ℤ} (h : (2 : ℝ) ^ e ≤ v) (h1 : v < 2 ^ (e + 1)) (h' : (2 : ℝ) ^ e' ≤ v) (h1' : v < 2 ^ (e' + 1)) : e = e' := by
  have := two_zpow_lt_iff.mp (h.trans_lt h1')
  have := two_zpow_lt_iff.mp (h'.trans_lt h1)
  omega

/-- The leading exponent of a natural number. -/
theorem log2_bounds {n : Nat} (hn : n ≠ 0) : (2 : ℝ) ^ (n.log2 : ℤ) ≤ n ∧ (n : ℝ) < 2 ^ ((n.log2 : ℤ) + 1) := by
  constructor
  · exact_mod_cast Nat.log2_self_le hn
  · exact_mod_cast Nat.lt_log2_self (n := n)

theorem leadExp_bounds {n d : Nat} (hn : n ≠ 0) (hd : 0 < d) : (2 : ℝ) ^ leadExp n d ≤ n / d ∧ (n / d : ℝ) < 2 ^ (leadExp n d + 1) := by
  obtain ⟨hn0, hn1⟩ := log2_bounds hn
  obtain ⟨hd0, hd1⟩ := log2_bounds hd.ne'
  have hdr : (0 : ℝ) < d := by exact_mod_cast hd
  set e : ℤ := (n.log2 : ℤ) - (d.log2 : ℤ) with he
  have hlow : (2 : ℝ) ^ (e - 1) ≤ n / d := by
    rw [le_div_iff₀ hdr]
    calc (2 : ℝ) ^ (e - 1) * d ≤ 2 ^ (e - 1) * 2 ^ ((d.log2 : ℤ) + 1) := by gcongr
      _ = 2 ^ (n.log2 : ℤ) := by rw [two_zpow_mul]; congr 1; omega
      _ ≤ n := hn0
  have hhigh : (n / d : ℝ) < 2 ^ (e + 1) := by
    rw [div_lt_iff₀ hdr]
    calc (n : ℝ) < 2 ^ ((n.log2 : ℤ) + 1) := hn1
      _ = 2 ^ (e + 1) * 2 ^ (d.log2 : ℤ) := by rw [two_zpow_mul]; congr 1; omega
      _ ≤ 2 ^ (e + 1) * d := by gcongr
  have hcmp : (scaleFrac n d (-e)).1 < (scaleFrac n d (-e)).2 ↔ (n / d : ℝ) < 2 ^ e := by
    have hpos : (0 : ℝ) < (scaleFrac n d (-e)).2 := by exact_mod_cast scaleFrac_snd_pos hd _
    rw [← Nat.cast_lt (α := ℝ), ← div_lt_one hpos, scaleFrac_val, zpow_neg, ← div_eq_mul_inv, div_lt_one (two_zpow_pos e)]
  have hlead : leadExp n d = if (scaleFrac n d (-e)).1 < (scaleFrac n d (-e)).2 then e - 1 else e := rfl
  rw [hlead]
  split
  · next h => exact ⟨hlow, by simpa using hcmp.mp h⟩
  · next h => exact ⟨not_lt.mp (mt hcmp.mpr h), hhigh⟩

theorem leadExp_eq {n d : Nat} {e : ℤ} (hd : 0 < d) (h : (2 : ℝ) ^ e ≤ n / d) (h1 : (n / d : ℝ) < 2 ^ (e + 1)) : leadExp n d = e := by
  have hn : n ≠ 0 := by
    rintro rfl
    have := two_zpow_pos e
    simp at h
    linarith
  obtain ⟨h0, h2⟩ := leadExp_bounds hn hd
  exact leading_unique h0 h2 h h1

/-! Rounding to an integer (R81). -/

/-- The number `v` is the fraction `y`, or with a sticky mark lies above it with no multiple of `2^j` between. -/
structure Marks (sticky : Bool) (y v : ℝ) (j : ℤ) : Prop where
  le    : y ≤ v
  exact : sticky = false ↔ v = y
  below : ∀ k : ℤ, k * (2 : ℝ) ^ j ≤ v → k * (2 : ℝ) ^ j ≤ y

theorem marks_self (v : ℝ) (j : ℤ) : Marks false v v j := ⟨le_rfl, by simp, fun _ h => h⟩

theorem Marks.mono {sticky : Bool} {y v : ℝ} {i j : ℤ} (h : Marks sticky y v i) (hij : i ≤ j) : Marks sticky y v j := by
  refine ⟨h.le, h.exact, fun k hk => ?_⟩
  obtain ⟨l, hl⟩ := Int.eq_ofNat_of_zero_le (sub_nonneg.mpr hij)
  have hpow : (k : ℝ) * 2 ^ j = ((k * 2 ^ l : ℤ) : ℝ) * 2 ^ i := by
    rw [show j = l + i by omega, ← two_zpow_mul]
    push_cast
    rw [zpow_natCast]
    ring
  rw [hpow] at hk ⊢
  exact h.below _ hk

/-- Where `x` lies among `m`, the half above it and `m + 1`, as the remainder `r` over `d` and the sticky mark tell it. -/
structure LiesAt (x : ℝ) (m r d : Nat) (sticky : Bool) : Prop where
  lower : (m : ℝ) ≤ x
  upper : x < m + 1
  whole : x = m ↔ r = 0 ∧ sticky = false
  half  : x < m + 1 / 2 ↔ 2 * r < d
  tie   : x = m + 1 / 2 ↔ 2 * r = d ∧ sticky = false

theorem Marks.scale {sticky : Bool} {y v : ℝ} {j : ℤ} (h : Marks sticky y v j) (q : ℤ) : Marks sticky (y / 2 ^ q) (v / 2 ^ q) (j - q) := by
  have hq := two_zpow_pos q
  refine ⟨(div_le_div_iff_of_pos_right hq).mpr h.le, by rw [h.exact, div_left_inj' hq.ne'], fun k hk => ?_⟩
  rw [zpow_sub₀ two_ne_zero, ← mul_div_assoc, div_le_div_iff_of_pos_right hq] at hk ⊢
  exact h.below k hk

/-- A number marked to the half lies where its remainder says. -/
theorem liesAt_of_marks_half {sticky : Bool} {x : ℝ} {m r d : Nat} (hr : r < d) (h : Marks sticky (m + r / d) x (-1)) : LiesAt x m r d sticky := by
  have hdr : (0 : ℝ) < d := by exact_mod_cast (Nat.zero_le r).trans_lt hr
  have hr0 : (0 : ℝ) ≤ r / d := by positivity
  have hr1 : (r : ℝ) / d < 1 := (div_lt_one hdr).mpr (by exact_mod_cast hr)
  have hhalf : 2 * r < d ↔ (r : ℝ) / d < 1 / 2 := by
    rw [div_lt_div_iff₀ hdr two_pos, one_mul, mul_comm (r : ℝ)]
    exact_mod_cast Iff.rfl
  have htie : 2 * r = d ↔ (r : ℝ) / d = 1 / 2 := by
    rw [div_eq_div_iff hdr.ne' two_ne_zero, one_mul, mul_comm (r : ℝ)]
    exact_mod_cast Iff.rfl
  have hzero : r = 0 ↔ (r : ℝ) / d = 0 := by simp [hdr.ne']
  have hle := h.le
  have hone := h.below (2 * m + 1)
  have htwo := h.below (2 * m + 2)
  rw [zpow_neg_one] at hone htwo
  push_cast at hone htwo
  refine ⟨by linarith, ?_, ?_, ?_, ?_⟩
  · by_contra hge
    linarith [htwo (by linarith)]
  · rw [hzero, h.exact]
    constructor
    · intro hx; exact ⟨by linarith, by linarith⟩
    · rintro ⟨hr, hx⟩; linarith
  · rw [hhalf]
    constructor
    · intro hx; linarith
    · intro hx
      by_contra hge
      linarith [hone (by linarith)]
  · rw [htie, h.exact]
    constructor
    · intro hx
      have := hone (by linarith)
      exact ⟨by linarith, by linarith⟩
    · rintro ⟨hr, hx⟩; linarith

/-- A scaled fraction by its quotient and remainder. -/
theorem scaleFrac_divMod (n : Nat) {d : Nat} (hd : 0 < d) (q : ℤ) :
    let a := (scaleFrac n d (-q)).1
    let b := (scaleFrac n d (-q)).2
    (n / d : ℝ) / 2 ^ q = (a / b : Nat) + ((a % b : Nat) : ℝ) / b := by
  intro a b
  have hb : (0 : ℝ) < b := by exact_mod_cast scaleFrac_snd_pos hd _
  have hval : (a : ℝ) / b = n / d * 2 ^ (-q) := scaleFrac_val n d (-q)
  have hdiv : (b : ℝ) * (a / b : Nat) + (a % b : Nat) = a := by exact_mod_cast Nat.div_add_mod a b
  rw [div_eq_mul_inv, ← zpow_neg, ← hval, ← hdiv]
  field_simp

theorem liesAt_of_marks {sticky : Bool} {v : ℝ} {n d : Nat} {j q : ℤ} (hd : 0 < d) (h : Marks sticky (n / d) v j) (hj : j < q) :
    let a := (scaleFrac n d (-q)).1
    let b := (scaleFrac n d (-q)).2
    LiesAt (v / 2 ^ q) (a / b) (a % b) b sticky :=
  liesAt_of_marks_half (Nat.mod_lt _ (scaleFrac_snd_pos hd _)) (scaleFrac_divMod n hd q ▸ (h.scale q).mono (by omega))

/-- A number that rounds up is no integer. -/
theorem LiesAt.ne_of_roundsUp {x : ℝ} {m r d : Nat} {sticky neg : Bool} {rm : Nat} (h : LiesAt x m r d sticky) (hd : 0 < d)
    (hup : roundsUp rm neg m r d sticky = true) : x ≠ m := by
  intro hx
  obtain ⟨rfl, rfl⟩ := h.whole.mp hx
  unfold roundsUp at hup
  split at hup <;> simp [hd.ne] at hup

/-- Ties to even (R81): beyond the half, or at the half above an odd number. -/
theorem LiesAt.roundsUp_nearest {x : ℝ} {m r d : Nat} {sticky : Bool} (h : LiesAt x m r d sticky) (neg : Bool) :
    roundsUp 0 neg m r d sticky = true ↔ m + 1 / 2 < x ∨ (x = m + 1 / 2 ∧ m % 2 = 1) := by
  have hmore : (m + 1 / 2 : ℝ) < x ↔ ¬ 2 * r < d ∧ ¬ (2 * r = d ∧ sticky = false) := by
    rw [← h.half, ← h.tie, not_lt, lt_iff_le_and_ne, ne_comm]
  rw [hmore, h.tie]
  have hbits : roundsUp 0 neg m r d sticky = true ↔ d < 2 * r ∨ (2 * r = d ∧ (sticky = true ∨ m % 2 = 1)) := by simp [roundsUp]
  rw [hbits]
  cases sticky <;> simp <;> omega

theorem LiesAt.nearest {x : ℝ} {m r d : Nat} {sticky : Bool} (h : LiesAt x m r d sticky) (neg : Bool) :
    let k : ℤ := (if roundsUp 0 neg m r d sticky then m + 1 else m : Nat)
    |x - k| ≤ 1 / 2 ∧ (|x - k| = 1 / 2 → Even k) := by
  have hlow := h.lower
  have hup := h.upper
  simp only [h.roundsUp_nearest neg]
  rcases lt_trichotomy x (m + 1 / 2) with hx | hx | hx
  · have hkeep : ¬ ((m + 1 / 2 : ℝ) < x ∨ (x = m + 1 / 2 ∧ m % 2 = 1)) := by rintro (h | ⟨h, -⟩) <;> linarith
    rw [if_neg hkeep, Int.cast_natCast, abs_of_nonneg (by linarith)]
    exact ⟨by linarith, fun h => by linarith⟩
  · have habs : |x - m| = 1 / 2 ∧ |x - (m + 1 : Nat)| = 1 / 2 := by subst hx; push_cast; norm_num
    by_cases hm : m % 2 = 1
    · rw [if_pos (Or.inr ⟨hx, hm⟩), Int.cast_natCast]
      exact ⟨habs.2.le, fun _ => by rw [Int.even_coe_nat, Nat.even_iff]; omega⟩
    · rw [if_neg (by rintro (h | ⟨-, h⟩); exacts [hx.not_gt h, hm h]), Int.cast_natCast]
      exact ⟨habs.1.le, fun _ => by rw [Int.even_coe_nat, Nat.even_iff]; omega⟩
  · rw [if_pos (Or.inl hx), Int.cast_natCast, abs_of_nonpos (by push_cast; linarith)]
    push_cast
    exact ⟨by linarith, fun h => by linarith⟩

/-- Rounding away from zero goes past every number that is no integer. -/
theorem LiesAt.away {x : ℝ} {m r d : Nat} {sticky : Bool} (h : LiesAt x m r d sticky) :
    let k : ℤ := (if r != 0 || sticky then m + 1 else m : Nat)
    (k : ℝ) - 1 < x ∧ x ≤ k := by
  have hlow := h.lower
  have hinexact : (r != 0 || sticky) = true ↔ x ≠ m := by
    rw [Ne, h.whole]
    cases sticky <;> simp
  simp only [hinexact]
  by_cases hx : x = m
  · rw [if_neg (not_not.mpr hx), Int.cast_natCast]
    exact ⟨by linarith, hx.le⟩
  · rw [if_pos hx, Int.cast_natCast]
    push_cast
    exact ⟨by simpa using lt_of_le_of_ne hlow (Ne.symm hx), h.upper.le⟩

theorem LiesAt.roundsTo {x : ℝ} {m r d : Nat} {sticky : Bool} (h : LiesAt x m r d sticky) (rm : Nat) (neg : Bool) :
    RoundsTo rm neg x ((if roundsUp rm neg m r d sticky then m + 1 else m : Nat) : ℤ) := by
  have hbelow : ((m : ℤ) : ℝ) ≤ x ∧ x < (m : ℤ) + 1 := ⟨h.lower, h.upper⟩
  refine ⟨fun h0 => ?_, fun h1 => ?_, fun h2 => ?_, fun h3 => ?_⟩
  · subst h0
    exact h.nearest neg
  · subst h1
    exact hbelow
  · subst h2
    cases neg
    · simpa [roundsUp] using h.away
    · simpa [roundsUp] using hbelow
  · subst h3
    cases neg
    · simpa [roundsUp] using hbelow
    · simpa [roundsUp] using h.away

/-- What a number rounds to lies less than 1 from it. -/
theorem roundsTo_near {rm : Nat} {neg : Bool} {x : ℝ} {m : ℤ} (h : RoundsTo rm neg x m) (hrm : rm < 4) : x - 1 < m ∧ (m : ℝ) < x + 1 := by
  obtain ⟨h0, h1, h2, h3⟩ := h
  have hbelow : (m : ℝ) ≤ x ∧ x < m + 1 → x - 1 < m ∧ (m : ℝ) < x + 1 := fun h => ⟨by linarith [h.2], by linarith [h.1]⟩
  have habove : (m : ℝ) - 1 < x ∧ x ≤ m → x - 1 < m ∧ (m : ℝ) < x + 1 := fun h => ⟨by linarith [h.2], by linarith [h.1]⟩
  obtain rfl | rfl | rfl | rfl : rm = 0 ∨ rm = 1 ∨ rm = 2 ∨ rm = 3 := by omega
  · obtain ⟨hl, hr⟩ := abs_le.mp (h0 rfl).1
    exact ⟨by linarith, by linarith⟩
  · exact hbelow (h1 rfl)
  · cases neg
    · exact habove ((h2 rfl).2 rfl)
    · exact hbelow ((h2 rfl).1 rfl)
  · cases neg
    · exact hbelow ((h3 rfl).2 rfl)
    · exact habove ((h3 rfl).1 rfl)

theorem le_of_roundsTo {rm : Nat} {neg : Bool} {x : ℝ} {m k : ℤ} (h : RoundsTo rm neg x m) (hrm : rm < 4) (hk : (k : ℝ) ≤ x) : k ≤ m := by
  have hm : (k : ℝ) < m + 1 := by linarith [(roundsTo_near h hrm).1]
  exact Int.lt_add_one_iff.mp (by exact_mod_cast hm)

theorem ge_of_roundsTo {rm : Nat} {neg : Bool} {x : ℝ} {m k : ℤ} (h : RoundsTo rm neg x m) (hrm : rm < 4) (hk : x ≤ k) : m ≤ k := by
  have hm : (m : ℝ) < k + 1 := by linarith [(roundsTo_near h hrm).2]
  exact Int.lt_add_one_iff.mp (by exact_mod_cast hm)

/-- A number rounds to one integer. -/
theorem roundsTo_unique {rm : Nat} {neg : Bool} {x : ℝ} {m k : ℤ} (h : RoundsTo rm neg x m) (h' : RoundsTo rm neg x k) (hrm : rm < 4) : m = k := by
  have hbelow : ∀ m k : ℤ, (m : ℝ) ≤ x ∧ x < m + 1 → (k : ℝ) ≤ x ∧ x < k + 1 → m = k := fun m k hm hk =>
    (Int.floor_eq_iff.mpr hm).symm.trans (Int.floor_eq_iff.mpr hk)
  have habove : ∀ m k : ℤ, (m : ℝ) - 1 < x ∧ x ≤ m → (k : ℝ) - 1 < x ∧ x ≤ k → m = k := fun m k hm hk =>
    (Int.ceil_eq_iff.mpr hm).symm.trans (Int.ceil_eq_iff.mpr hk)
  have hnearest : ∀ m k : ℤ, m < k → |x - m| ≤ 1 / 2 ∧ (|x - m| = 1 / 2 → Even m) → ¬ (|x - k| ≤ 1 / 2 ∧ (|x - k| = 1 / 2 → Even k)) := by
    rintro m k hmk ⟨hm, hme⟩ ⟨hk, hke⟩
    have hmk' : (m : ℝ) + 1 ≤ k := by exact_mod_cast hmk
    have hm1 : x - m = 1 / 2 := by linarith [(abs_le.mp hm).2, (abs_le.mp hk).1]
    have hk1 : x - k = -(1 / 2) := by linarith [(abs_le.mp hm).2, (abs_le.mp hk).1]
    have hk : k = m + 1 := by
      have : (k : ℝ) = m + 1 := by linarith
      exact_mod_cast this
    have hem := hme (by rw [hm1]; norm_num)
    have hek := hke (by rw [hk1]; norm_num)
    rw [hk, Int.even_add_one] at hek
    exact hek hem
  obtain ⟨h0, h1, h2, h3⟩ := h
  obtain ⟨h0', h1', h2', h3'⟩ := h'
  obtain rfl | rfl | rfl | rfl : rm = 0 ∨ rm = 1 ∨ rm = 2 ∨ rm = 3 := by omega
  · rcases lt_trichotomy m k with hlt | heq | hgt
    · exact absurd (h0' rfl) (hnearest m k hlt (h0 rfl))
    · exact heq
    · exact absurd (h0 rfl) (hnearest k m hgt (h0' rfl))
  · exact hbelow m k (h1 rfl) (h1' rfl)
  · cases neg
    · exact habove m k ((h2 rfl).2 rfl) ((h2' rfl).2 rfl)
    · exact hbelow m k ((h2 rfl).1 rfl) ((h2' rfl).1 rfl)
  · cases neg
    · exact hbelow m k ((h3 rfl).2 rfl) ((h3' rfl).2 rfl)
    · exact habove m k ((h3 rfl).1 rfl) ((h3' rfl).1 rfl)

section RoundAt

variable {sticky : Bool} {v : ℝ} {n d : Nat} {j q : ℤ} (hd : 0 < d) (h : Marks sticky (n / d) v j) (hj : j < q)
include hd h hj

theorem roundAt_roundsTo (rm : Nat) (neg : Bool) : RoundsTo rm neg (v / 2 ^ q) ((roundAt rm neg n d sticky q).1 : ℤ) :=
  (liesAt_of_marks hd h hj).roundsTo rm neg

/-- The mark of an inexact result says that it differs from the exact number. -/
theorem roundAt_inexact (rm : Nat) (neg : Bool) :
    (roundAt rm neg n d sticky q).2 = true ↔ (((roundAt rm neg n d sticky q).1 : ℤ) : ℝ) * 2 ^ q ≠ v := by
  set a := (scaleFrac n d (-q)).1
  set b := (scaleFrac n d (-q)).2
  have hlies : LiesAt (v / 2 ^ q) (a / b) (a % b) b sticky := liesAt_of_marks hd h hj
  have hb : 0 < b := scaleFrac_snd_pos hd _
  have hresult : (roundAt rm neg n d sticky q) = (if roundsUp rm neg (a / b) (a % b) b sticky then a / b + 1 else a / b, a % b != 0 || sticky) := rfl
  have hmark : (a % b != 0 || sticky) = true ↔ v / 2 ^ q ≠ (a / b : Nat) := by
    rw [Ne, hlies.whole]
    cases sticky <;> simp
  rw [hresult, hmark, Ne, Ne, not_iff_not, eq_comm, eq_div_iff (two_zpow_pos q).ne', Int.cast_natCast]
  dsimp only
  split
  · next hup =>
    have hne := hlies.ne_of_roundsUp hb hup
    have hlt := hlies.upper
    rw [Ne, div_eq_iff (two_zpow_pos q).ne'] at hne
    rw [div_lt_iff₀ (two_zpow_pos q)] at hlt
    push_cast
    exact iff_of_false (fun h => hne h.symm) hlt.ne'
  · rfl

end RoundAt

/-- An integer number of units is not rounded. -/
theorem roundAt_exact {n d m : Nat} {q : ℤ} (hd : 0 < d) (h : (n / d : ℝ) = m * 2 ^ q) (rm : Nat) (neg : Bool) :
    roundAt rm neg n d false q = (m, false) := by
  set a := (scaleFrac n d (-q)).1
  set b := (scaleFrac n d (-q)).2
  have hb : 0 < b := scaleFrac_snd_pos hd _
  have hval : (a : ℝ) / b = m := by
    rw [scaleFrac_val, h, mul_assoc, two_zpow_mul]
    simp
  have hab : a = m * b := by
    rw [div_eq_iff (by positivity)] at hval
    exact_mod_cast hval
  have hup : roundsUp rm neg (a / b) (a % b) b false = false := by
    unfold roundsUp
    split <;> simp [hab, hb.ne]
  have hresult : (roundAt rm neg n d false q) = (if roundsUp rm neg (a / b) (a % b) b false then a / b + 1 else a / b, a % b != 0 || false) := rfl
  rw [hresult, hup]
  simp [hab, hb]

/-! What the parts of a value are (R80). -/

@[simp] theorem isNan_fin (neg : Bool) (m : Nat) (e : ℤ) : (FVal.fin neg m e).isNan = false := rfl
@[simp] theorem isNan_inf (neg : Bool) : (FVal.inf neg).isNan = false := rfl
@[simp] theorem isNan_nan (g : Bool) : (FVal.nan g).isNan = true := rfl
@[simp] theorem isInf_fin (neg : Bool) (m : Nat) (e : ℤ) : (FVal.fin neg m e).isInf = false := rfl
@[simp] theorem isInf_inf (neg : Bool) : (FVal.inf neg).isInf = true := rfl
@[simp] theorem isInf_nan (g : Bool) : (FVal.nan g).isInf = false := rfl
@[simp] theorem isZero_fin (neg : Bool) (m : Nat) (e : ℤ) : (FVal.fin neg m e).isZero = (m == 0) := rfl
@[simp] theorem isZero_inf (neg : Bool) : (FVal.inf neg).isZero = false := rfl
@[simp] theorem isZero_nan (g : Bool) : (FVal.nan g).isZero = false := rfl
@[simp] theorem neg_fin (neg : Bool) (m : Nat) (e : ℤ) : (FVal.fin neg m e).neg = neg := rfl
@[simp] theorem neg_inf (neg : Bool) : (FVal.inf neg).neg = neg := rfl
@[simp] theorem signif_fin (neg : Bool) (m : Nat) (e : ℤ) : (FVal.fin neg m e).signif = (if neg then -(m : ℤ) else m) := rfl
@[simp] theorem exp_fin (neg : Bool) (m : Nat) (e : ℤ) : (FVal.fin neg m e).exp = e := rfl

/-! Patterns of a format (R80). -/

/-- The exponent of a format's least digit. -/
def bottom (f : Fmt) : ℤ := f.emin - (f.fracBits : ℤ)

/-- A format with at least two exponent bits and a fraction. -/
structure Wide (f : Fmt) : Prop where
  ebits : 2 ≤ f.ebits
  prec  : 2 ≤ f.prec

theorem wide_of_ieee {f : Fmt} (h : ieee f) : Wide f := by
  rcases h with rfl | rfl | rfl | rfl <;> exact ⟨by decide, by decide⟩

section Format

variable {f : Fmt} (hf : Wide f)
include hf

theorem Wide.prec_eq : f.prec = f.fracBits + 1 := by
  have := hf.prec
  unfold Fmt.fracBits
  omega

theorem Wide.width_eq : f.width = f.ebits + f.fracBits + 1 := by
  have := hf.prec_eq
  unfold Fmt.width
  omega

theorem Wide.fracBits_pos : 0 < f.fracBits := by
  have := hf.prec
  have := hf.prec_eq
  omega

/-- The exponents run from 1 to twice the bias; all ones lies one above. -/
theorem Wide.expOnes_eq : (f.expOnes : ℤ) = 2 * f.emax + 1 ∧ 1 ≤ f.emax ∧ f.expOnes < 2 ^ f.ebits := by
  have he := hf.ebits
  have hpow : 2 ^ f.ebits = 2 * 2 ^ (f.ebits - 1) := by rw [← pow_succ']; congr 1; omega
  have htwo : 2 ^ 1 ≤ 2 ^ (f.ebits - 1) := Nat.pow_le_pow_right two_pos (by omega)
  unfold Fmt.expOnes Fmt.emax
  omega

/-- The value of a pattern by its fields. -/
theorem fdecode_fields (neg : Bool) {ex frac : Nat} (hex : ex < 2 ^ f.ebits) (hfrac : frac < 2 ^ f.fracBits) :
    fdecode f (f.signBit neg + ex * 2 ^ f.fracBits + frac) =
      if ex = f.expOnes then (if frac = 0 then .inf neg else .nan (frac / 2 ^ (f.fracBits - 1) == 0))
      else if ex = 0 then .fin neg frac (bottom f)
      else .fin neg (frac + 2 ^ f.fracBits) ((ex : ℤ) - f.emax - (f.fracBits : ℤ)) := by
  have hw : f.width - 1 = f.fracBits + f.ebits := by have := hf.width_eq; omega
  have hsum : f.signBit neg + ex * 2 ^ f.fracBits + frac = frac + 2 ^ f.fracBits * (ex + 2 ^ f.ebits * neg.toNat) := by
    cases neg <;> simp [Fmt.signBit, hw, pow_add] <;> ring
  have hhigh : (frac + 2 ^ f.fracBits * (ex + 2 ^ f.ebits * neg.toNat)) / 2 ^ f.fracBits = ex + 2 ^ f.ebits * neg.toNat := by
    rw [Nat.add_mul_div_left _ _ (Nat.two_pow_pos _), Nat.div_eq_of_lt hfrac, zero_add]
  have hlow : low f.fracBits (frac + 2 ^ f.fracBits * (ex + 2 ^ f.ebits * neg.toNat)) = frac := by
    rw [low, Nat.add_mul_mod_self_left, Nat.mod_eq_of_lt hfrac]
  have hexp : low f.ebits (ex + 2 ^ f.ebits * neg.toNat) = ex := by
    rw [low, Nat.add_mul_mod_self_left, Nat.mod_eq_of_lt hex]
  have hsign : (frac + 2 ^ f.fracBits * (ex + 2 ^ f.ebits * neg.toNat)) / 2 ^ (f.width - 1) = neg.toNat := by
    rw [hw, pow_add, ← Nat.div_div_eq_div_mul, hhigh, Nat.add_mul_div_left _ _ (Nat.two_pow_pos _), Nat.div_eq_of_lt hex, zero_add]
  have hneg : (neg.toNat % 2 == 1) = neg := by cases neg <;> rfl
  simp only [fdecode, hsum, hhigh, hlow, hexp, hsign, hneg, bottom]

/-- Every pattern has its fields. -/
theorem exists_fields {x : Nat} (hx : x < 2 ^ f.width) :
    ∃ neg ex frac, ex < 2 ^ f.ebits ∧ frac < 2 ^ f.fracBits ∧ x = f.signBit neg + ex * 2 ^ f.fracBits + frac := by
  have hw : f.width - 1 = f.fracBits + f.ebits := by have := hf.width_eq; omega
  have hpow : 2 ^ f.width = 2 ^ (f.width - 1) + 2 ^ (f.width - 1) := by rw [hf.width_eq]; simp [pow_succ]; omega
  have hrest : ∀ y, y < 2 ^ (f.width - 1) →
      y / 2 ^ f.fracBits < 2 ^ f.ebits ∧ y % 2 ^ f.fracBits < 2 ^ f.fracBits ∧ y = y / 2 ^ f.fracBits * 2 ^ f.fracBits + y % 2 ^ f.fracBits := by
    intro y hy
    rw [hw, pow_add] at hy
    exact ⟨Nat.div_lt_of_lt_mul hy, Nat.mod_lt _ (Nat.two_pow_pos _), (Nat.div_add_mod' _ _).symm⟩
  by_cases hs : x < 2 ^ (f.width - 1)
  · obtain ⟨hex, hfrac, hsum⟩ := hrest x hs
    exact ⟨false, _, _, hex, hfrac, by simpa [Fmt.signBit] using hsum⟩
  · obtain ⟨hex, hfrac, hsum⟩ := hrest (x - 2 ^ (f.width - 1)) (by omega)
    refine ⟨true, _, _, hex, hfrac, ?_⟩
    rw [add_assoc, ← hsum, Fmt.signBit, if_pos rfl]
    omega

/-- A pattern with its fields in range lies in the format's width. -/
theorem fields_lt (neg : Bool) {ex frac : Nat} (hex : ex < 2 ^ f.ebits) (hfrac : frac < 2 ^ f.fracBits) :
    f.signBit neg + ex * 2 ^ f.fracBits + frac < 2 ^ f.width := by
  have hw : f.width - 1 = f.ebits + f.fracBits := by have := hf.width_eq; omega
  have hpow : 2 ^ f.width = 2 ^ (f.width - 1) + 2 ^ (f.width - 1) := by rw [hf.width_eq]; simp [pow_succ]; omega
  have hsign : f.signBit neg ≤ 2 ^ (f.width - 1) := by cases neg <;> simp [Fmt.signBit]
  have hrest : ex * 2 ^ f.fracBits + frac < 2 ^ (f.width - 1) := by
    rw [hw, pow_add]
    calc ex * 2 ^ f.fracBits + frac < (ex + 1) * 2 ^ f.fracBits := by rw [add_mul]; omega
      _ ≤ 2 ^ f.ebits * 2 ^ f.fracBits := Nat.mul_le_mul_right _ hex
  omega

end Format

/-- The pattern of `m * 2^q`, for a number within the range of the format. -/
def packFinite (f : Fmt) (neg : Bool) (m : Nat) (q : ℤ) : Nat :=
  let top := (m.log2 : ℤ) + q
  if m = 0 then f.zero neg
  else if top < f.emin then f.signBit neg + m * 2 ^ (q - bottom f).toNat
  else
    let s := scaleFrac m 1 (q - top + (f.fracBits : ℤ))
    f.signBit neg + (top + f.emax).toNat * 2 ^ f.fracBits + (s.1 / s.2 - 2 ^ f.fracBits)

/-- The flags of a rounding within the range (R82). -/
def finiteFlags (tiny inexact : Bool) : Flags := flagIf inexact flagNX ||| flagIf (tiny && inexact) flagUF

/-- What an overflow gives (R82). -/
def overflowResult (f : Fmt) (rm : Nat) (neg : Bool) : Nat × Flags :=
  (if rm = 0 ∨ (rm = 2 ∧ neg = false) ∨ (rm = 3 ∧ neg = true) then f.inf neg else f.maxFinite neg, flagOF ||| flagNX)

/-- Rounding packs the rounded number, or overflows. -/
theorem roundFrac_eq (f : Fmt) (prec rm : Nat) (neg : Bool) {n : Nat} (d : Nat) (sticky : Bool) (hn : n ≠ 0) :
    let e := leadExp n d
    let q := max (e - ((prec : ℤ) - 1)) (bottom f)
    let m := roundAt rm neg n d sticky q
    let u := (roundAt rm neg n d sticky (e - ((prec : ℤ) - 1))).1
    let tiny := decide (e < f.emin - 1) || (decide (e = f.emin - 1) && decide (u < 2 ^ prec))
    roundFrac f prec rm neg n d sticky =
      if m.1 = 0 ∨ (m.1.log2 : ℤ) + q ≤ f.emax then (packFinite f neg m.1 q, finiteFlags tiny m.2) else overflowResult f rm neg := by
  intro e q m u tiny
  have hunfold : roundFrac f prec rm neg n d sticky =
      if m.1 = 0 then (f.zero neg, finiteFlags tiny m.2)
      else if (m.1.log2 : ℤ) + q > f.emax then
        (if rm == 0 || (rm == 2 && !neg) || (rm == 3 && neg) then f.inf neg else f.maxFinite neg, flagOF ||| flagNX)
      else if (m.1.log2 : ℤ) + q < f.emin then (f.signBit neg + m.1 * 2 ^ (q - bottom f).toNat, finiteFlags tiny m.2)
      else
        let s := scaleFrac m.1 1 (q - ((m.1.log2 : ℤ) + q) + (f.fracBits : ℤ))
        (f.signBit neg + ((m.1.log2 : ℤ) + q + f.emax).toNat * 2 ^ f.fracBits + (s.1 / s.2 - 2 ^ f.fracBits), finiteFlags tiny m.2) :=
    if_neg hn
  rw [hunfold]
  by_cases hm : m.1 = 0
  · simp [hm, packFinite]
  · by_cases ho : (m.1.log2 : ℤ) + q ≤ f.emax
    · rw [if_neg hm, if_neg (not_lt.mpr ho), if_pos (Or.inr ho)]
      simp only [packFinite, hm, if_false]
      split <;> rfl
    · have hover : ¬ (m.1 = 0 ∨ (m.1.log2 : ℤ) + q ≤ f.emax) := not_or.mpr ⟨hm, ho⟩
      rw [if_neg hm, if_pos (not_le.mp ho), if_neg hover]
      simp only [overflowResult, Bool.or_eq_true, Bool.and_eq_true, beq_iff_eq, Bool.not_eq_true', or_assoc]

/-- The number `m * 2^q` is in the range of the format and has no more digits than its precision allows there. -/
structure Fits (f : Fmt) (m : Nat) (q : ℤ) : Prop where
  least  : bottom f ≤ q
  digits : m ≤ 2 ^ f.prec
  normal : q = bottom f ∨ 2 ^ f.fracBits ≤ m
  range  : m = 0 ∨ (m.log2 : ℤ) + q ≤ f.emax

/-- The scaled significand of a normal number has exactly the digits of the format, and no digit is lost. -/
theorem normalSignificand {f : Fmt} (hf : Wide f) {m : Nat} (hm : m ≠ 0) (hdig : m ≤ 2 ^ f.prec) :
    let s := scaleFrac m 1 ((f.fracBits : ℤ) - m.log2)
    2 ^ f.fracBits ≤ s.1 / s.2 ∧ s.1 / s.2 < 2 * 2 ^ f.fracBits ∧ ((s.1 / s.2 : Nat) : ℝ) = m * 2 ^ ((f.fracBits : ℤ) - m.log2) := by
  intro s
  obtain ⟨hlow, hup⟩ := log2_bounds hm
  have hexact : ((s.1 / s.2 : Nat) : ℝ) = m * 2 ^ ((f.fracBits : ℤ) - m.log2) := by
    by_cases hle : m.log2 ≤ f.fracBits
    · obtain ⟨k, hk⟩ := Nat.exists_eq_add_of_le hle
      have hs : s = (m * 2 ^ k, 1) := by simp [s, hk, scaleFrac]
      simp [hs, hk]
    · have hpow : m = 2 ^ (f.fracBits + 1) := by
        refine le_antisymm (hf.prec_eq ▸ hdig) ?_
        exact (Nat.pow_le_pow_right two_pos (by omega)).trans (Nat.log2_self_le hm)
      have hlog : m.log2 = f.fracBits + 1 := by rw [hpow, Nat.log2_two_pow]
      have hs : s = (2 ^ (f.fracBits + 1), 2) := by
        simp only [s, scaleFrac, hlog]
        rw [if_neg (by push_cast; omega)]
        simp [hpow]
      have hhalf : s.1 / s.2 = 2 ^ f.fracBits := by rw [hs]; simp [pow_succ]
      rw [hhalf, hlog, hpow]
      push_cast
      rw [show (f.fracBits : ℤ) - (f.fracBits + 1) = -1 by ring, zpow_neg_one]
      ring
  have hreal : (2 : ℝ) ^ f.fracBits ≤ (s.1 / s.2 : Nat) ∧ ((s.1 / s.2 : Nat) : ℝ) < 2 * 2 ^ f.fracBits := by
    rw [hexact, ← zpow_natCast]
    constructor
    · calc (2 : ℝ) ^ (f.fracBits : ℤ) = 2 ^ (m.log2 : ℤ) * 2 ^ ((f.fracBits : ℤ) - m.log2) := by rw [two_zpow_mul]; congr 1; omega
        _ ≤ m * 2 ^ ((f.fracBits : ℤ) - m.log2) := by gcongr
    · calc (m : ℝ) * 2 ^ ((f.fracBits : ℤ) - m.log2) < 2 ^ ((m.log2 : ℤ) + 1) * 2 ^ ((f.fracBits : ℤ) - m.log2) := by gcongr
        _ = 2 ^ (1 : ℤ) * 2 ^ (f.fracBits : ℤ) := by rw [two_zpow_mul, two_zpow_mul]; congr 1; omega
        _ = 2 * 2 ^ (f.fracBits : ℤ) := by norm_num
  exact ⟨by exact_mod_cast hreal.1, by exact_mod_cast hreal.2, hexact⟩

theorem packFinite_subnormal {f : Fmt} (neg : Bool) {m : Nat} (hm : m ≠ 0) (hfrac : m < 2 ^ f.fracBits) :
    packFinite f neg m (bottom f) = f.signBit neg + m := by
  have hlog : m.log2 < f.fracBits := (Nat.log2_lt hm).mpr hfrac
  have htop : (m.log2 : ℤ) + bottom f < f.emin := by unfold bottom; omega
  simp [packFinite, hm, htop]

/-- A number that fits is decoded from its pattern. -/
theorem fdecode_packFinite {f : Fmt} (hf : Wide f) (neg : Bool) {m : Nat} {q : ℤ} (h : Fits f m q) :
    packFinite f neg m q < 2 ^ f.width ∧ ∃ k e, fdecode f (packFinite f neg m q) = .fin neg k e ∧ (k : ℝ) * 2 ^ e = m * 2 ^ q := by
  obtain ⟨honesEq, hemax, honesLt⟩ := hf.expOnes_eq
  have hemin : f.emin = 1 - f.emax := rfl
  have hbot : bottom f = f.emin - (f.fracBits : ℤ) := rfl
  have hnonzero : f.expOnes ≠ 0 := by omega
  obtain ⟨hleast, hdigits, hnormal, hrange⟩ := h
  by_cases hm : m = 0
  · have hpack : packFinite f neg m q = f.signBit neg + 0 * 2 ^ f.fracBits + 0 := by simp [packFinite, hm, Fmt.zero]
    rw [hpack, fdecode_fields hf neg (by omega) (Nat.two_pow_pos _)]
    exact ⟨fields_lt hf neg (by omega) (Nat.two_pow_pos _), 0, bottom f, by simp [hnonzero.symm], by simp [hm]⟩
  · by_cases hsub : (m.log2 : ℤ) + q < f.emin
    · have hq : q = bottom f := by
        refine hnormal.resolve_right (fun hfrac => ?_)
        have : f.fracBits ≤ m.log2 := (Nat.le_log2 hm).mpr hfrac
        omega
      have hfrac : m < 2 ^ f.fracBits := (Nat.log2_lt hm).mp (by omega)
      subst hq
      have hpack : packFinite f neg m (bottom f) = f.signBit neg + 0 * 2 ^ f.fracBits + m := by simp [packFinite_subnormal neg hm hfrac]
      rw [hpack, fdecode_fields hf neg (by omega) hfrac]
      exact ⟨fields_lt hf neg (by omega) hfrac, m, bottom f, by simp [hnonzero.symm], rfl⟩
    · obtain ⟨hlow, hup, hexact⟩ := normalSignificand hf hm hdigits
      set s := scaleFrac m 1 ((f.fracBits : ℤ) - m.log2) with hs
      have hexp : q - ((m.log2 : ℤ) + q) + f.fracBits = (f.fracBits : ℤ) - m.log2 := by ring
      have hpack : packFinite f neg m q =
          f.signBit neg + ((m.log2 : ℤ) + q + f.emax).toNat * 2 ^ f.fracBits + (s.1 / s.2 - 2 ^ f.fracBits) := by
        simp only [packFinite, hm, hsub, if_false, hexp, ← hs]
      have htop := hrange.resolve_left hm
      have hex : ((m.log2 : ℤ) + q + f.emax).toNat < 2 ^ f.ebits := by omega
      have hfrac : s.1 / s.2 - 2 ^ f.fracBits < 2 ^ f.fracBits := by omega
      rw [hpack, fdecode_fields hf neg hex hfrac, if_neg (by omega), if_neg (by omega), Nat.sub_add_cancel hlow]
      refine ⟨fields_lt hf neg hex hfrac, _, _, rfl, ?_⟩
      rw [hexact, mul_assoc, two_zpow_mul]
      congr 2
      omega

theorem packFinite_normal {f : Fmt} (neg : Bool) {ex frac : Nat} (hex : 1 ≤ ex) (hfrac : frac < 2 ^ f.fracBits) :
    packFinite f neg (frac + 2 ^ f.fracBits) ((ex : ℤ) - f.emax - (f.fracBits : ℤ)) = f.signBit neg + ex * 2 ^ f.fracBits + frac := by
  have hm : frac + 2 ^ f.fracBits ≠ 0 := by have := Nat.two_pow_pos f.fracBits; omega
  have hlog : (frac + 2 ^ f.fracBits).log2 = f.fracBits := (Nat.log2_eq_iff hm).mpr ⟨by omega, by rw [pow_succ]; omega⟩
  have htop : ¬ (f.fracBits + ((ex : ℤ) - f.emax - f.fracBits) < f.emin) := by unfold Fmt.emin; omega
  have hscale : (ex : ℤ) - f.emax - f.fracBits - (f.fracBits + ((ex : ℤ) - f.emax - f.fracBits)) + f.fracBits = 0 := by ring
  have hexp : ((f.fracBits : ℤ) + ((ex : ℤ) - f.emax - f.fracBits) + f.emax).toNat = ex := by omega
  simp only [packFinite, hm, hlog, htop, hscale, hexp, if_false]
  simp [scaleFrac]

/-! One rounding to a format (R80 to R82). -/

section Digits

variable {f : Fmt} {rm : Nat} (hrm : rm < 4) {neg : Bool} {v : ℝ} {e q m : ℤ}
include hrm

/-- A rounded number has at most the digits of the format, or is the next power of two. -/
theorem rounded_le (hf : Wide f) (hv : v < 2 ^ (e + 1)) (hq : e - f.fracBits ≤ q) (h : RoundsTo rm neg (v / 2 ^ q) m) : m ≤ 2 ^ f.prec := by
  refine ge_of_roundsTo h hrm ?_
  rw [div_le_iff₀ (two_zpow_pos q)]
  push_cast
  rw [← zpow_natCast, two_zpow_mul]
  exact hv.le.trans (two_zpow_le_iff.mpr (by have := hf.prec_eq; omega))

/-- Kept to the format's precision, a number has all its digits. -/
theorem le_rounded (hv : 2 ^ e ≤ v) (h : RoundsTo rm neg (v / 2 ^ (e - f.fracBits)) m) : 2 ^ f.fracBits ≤ m := by
  refine le_of_roundsTo h hrm ?_
  rw [le_div_iff₀ (two_zpow_pos _)]
  push_cast
  rw [← zpow_natCast, two_zpow_mul]
  exact (two_zpow_le_iff.mpr (by omega)).trans hv

/-- At the place of its last digit a rounded number has no more digits than the format keeps there, and above the least exponent all of them. -/
theorem rounded_digits {m : Nat} (hf : Wide f) (hlow : 2 ^ e ≤ v) (hup : v < 2 ^ (e + 1))
    (h : RoundsTo rm neg (v / 2 ^ (max e f.emin - (f.fracBits : ℤ))) (m : ℤ)) :
    m ≤ 2 ^ f.prec ∧ (max e f.emin - (f.fracBits : ℤ) = bottom f ∨ 2 ^ f.fracBits ≤ m) := by
  refine ⟨by exact_mod_cast rounded_le hrm hf hup (by omega) h, ?_⟩
  rcases le_total e f.emin with hle | hle
  · left
    rw [max_eq_right hle, bottom]
  · right
    rw [max_eq_left hle] at h
    exact_mod_cast le_rounded hrm hlow h

/-- Tininess after rounding (R82), read off the leading exponent and the number rounded without a least exponent. -/
theorem tiny_iff {u : Nat} (hf : Wide f) (hlow : 2 ^ e ≤ v) (hup : v < 2 ^ (e + 1)) (h : RoundsTo rm neg (v / 2 ^ (e - f.fracBits)) (u : ℤ)) :
    (decide (e < f.emin - 1) || (decide (e = f.emin - 1) && decide (u < 2 ^ f.prec))) = true ↔
      ((u : ℤ) : ℝ) * 2 ^ (e - f.fracBits) < 2 ^ f.emin := by
  have hu1 : (u : ℝ) ≤ 2 ^ (f.prec : ℤ) := by exact_mod_cast rounded_le hrm hf hup le_rfl h
  have hu0 : (2 : ℝ) ^ (f.fracBits : ℤ) ≤ u := by exact_mod_cast le_rounded hrm hlow h
  have hprec := hf.prec_eq
  have hpos := two_zpow_pos (e - f.fracBits)
  simp only [Bool.or_eq_true, Bool.and_eq_true, decide_eq_true_eq, Int.cast_natCast]
  rcases lt_trichotomy e (f.emin - 1) with he | he | he
  · refine iff_of_true (Or.inl he) ?_
    calc (u : ℝ) * 2 ^ (e - f.fracBits) ≤ 2 ^ (f.prec : ℤ) * 2 ^ (e - f.fracBits) := by gcongr
      _ = 2 ^ (f.prec + (e - f.fracBits)) := two_zpow_mul _ _
      _ < 2 ^ f.emin := two_zpow_lt_iff.mpr (by omega)
  · have hsplit : (2 : ℝ) ^ f.emin = 2 ^ (f.prec : ℤ) * 2 ^ (e - f.fracBits) := by rw [two_zpow_mul]; congr 1; omega
    rw [hsplit, mul_lt_mul_iff_left₀ hpos, zpow_natCast]
    have hcast : (u : ℝ) < 2 ^ f.prec ↔ u < 2 ^ f.prec := by exact_mod_cast Iff.rfl
    rw [hcast]
    constructor
    · rintro (h | ⟨-, h⟩)
      · omega
      · exact h
    · exact fun h => Or.inr ⟨he, h⟩
  · refine iff_of_false (by omega) (not_lt.mpr ?_)
    calc (2 : ℝ) ^ f.emin ≤ 2 ^ (f.fracBits + (e - f.fracBits)) := two_zpow_le_iff.mpr (by omega)
      _ = 2 ^ (f.fracBits : ℤ) * 2 ^ (e - f.fracBits) := (two_zpow_mul _ _).symm
      _ ≤ u * 2 ^ (e - f.fracBits) := by gcongr

end Digits

/-- The range of a format, by its largest finite number. -/
theorem le_largest_iff {f : Fmt} (hf : Wide f) {m : Nat} {q : ℤ} (hdigits : m ≤ 2 ^ f.prec) (hnormal : q = bottom f ∨ 2 ^ f.fracBits ≤ m) :
    (m = 0 ∨ (m.log2 : ℤ) + q ≤ f.emax) ↔ (m : ℝ) * 2 ^ q ≤ (2 ^ f.prec - 1) * 2 ^ (f.emax - (f.fracBits : ℤ)) := by
  obtain ⟨-, hemax, -⟩ := hf.expOnes_eq
  have hemin : f.emin = 1 - f.emax := rfl
  have hbot : bottom f = f.emin - (f.fracBits : ℤ) := rfl
  have hprec := hf.prec_eq
  have hone : (1 : ℝ) ≤ 2 ^ f.prec := one_le_pow₀ one_le_two
  have htop : ((2 : ℝ) ^ f.prec - 1) * 2 ^ (f.emax - (f.fracBits : ℤ)) < 2 ^ (f.emax + 1) := by
    calc ((2 : ℝ) ^ f.prec - 1) * 2 ^ (f.emax - (f.fracBits : ℤ)) < 2 ^ (f.prec : ℤ) * 2 ^ (f.emax - (f.fracBits : ℤ)) := by
          rw [zpow_natCast]; gcongr; linarith
      _ = 2 ^ (f.emax + 1) := by rw [two_zpow_mul]; congr 1; omega
  by_cases hm : m = 0
  · refine iff_of_true (Or.inl hm) ?_
    have := two_zpow_pos (f.emax - f.fracBits)
    rw [hm, Nat.cast_zero, zero_mul]
    exact mul_nonneg (by linarith) this.le
  obtain ⟨hlow, -⟩ := log2_bounds hm
  have hq : (m.log2 : ℤ) + q ≤ f.emax → q ≤ f.emax - f.fracBits := fun hr => by
    rcases hnormal with h | h
    · omega
    · have := (Nat.le_log2 hm).mpr h
      omega
  constructor
  · intro hr
    have hr := hr.resolve_left hm
    rcases hdigits.lt_or_eq with hlt | heq
    · have hcast : (m : ℝ) ≤ 2 ^ f.prec - 1 := by
        have : (m : ℝ) + 1 ≤ 2 ^ f.prec := by exact_mod_cast hlt
        linarith
      exact mul_le_mul hcast (two_zpow_le_iff.mpr (hq hr)) (two_zpow_pos q).le (by linarith)
    · have hlog : m.log2 = f.prec := by rw [heq, Nat.log2_two_pow]
      have hfrac : (1 : ℝ) ≤ 2 ^ f.fracBits := one_le_pow₀ one_le_two
      calc (m : ℝ) * 2 ^ q = 2 ^ ((f.prec : ℤ) + q) := by rw [heq, ← two_zpow_mul]; simp
        _ ≤ 2 ^ ((f.fracBits : ℤ) + (f.emax - f.fracBits)) := two_zpow_le_iff.mpr (by omega)
        _ = 2 ^ f.fracBits * 2 ^ (f.emax - (f.fracBits : ℤ)) := by rw [← two_zpow_mul, zpow_natCast]
        _ ≤ (2 ^ f.prec - 1) * 2 ^ (f.emax - (f.fracBits : ℤ)) := by
          gcongr
          rw [hprec, pow_succ]
          linarith
  · intro hle
    right
    have hlt : (2 : ℝ) ^ ((m.log2 : ℤ) + q) < 2 ^ (f.emax + 1) := by
      rw [← two_zpow_mul]
      exact (mul_le_mul_of_nonneg_right hlow (two_zpow_pos q).le).trans_lt (hle.trans_lt htop)
    have := two_zpow_lt_iff.mp hlt
    omega

/-- The flags of a rounding within the range, bit by bit. -/
theorem finiteFlags_bits (tiny inexact : Bool) :
    (finiteFlags tiny inexact).toNat < 4 ∧ (finiteFlags tiny inexact).getLsbD 0 = inexact
      ∧ (finiteFlags tiny inexact).getLsbD 1 = (inexact && tiny) := by
  cases tiny <;> cases inexact <;> decide

theorem abs_exactOf_fin (neg : Bool) (m : Nat) (e : ℤ) : |((exactOf (.fin neg m e) : ℚ) : ℝ)| = m * 2 ^ e := by
  cases neg <;> simp [exactOf, abs_mul]

section RoundFrac

variable {f : Fmt} {n d : Nat} {sticky : Bool} {v : ℝ} (hn : n ≠ 0) (hd : 0 < d)
include hn hd

/-- The exact number has the leading exponent of the fraction. -/
theorem leadExp_of_marks (h : Marks sticky (n / d) v (leadExp n d - f.prec)) : (2 : ℝ) ^ leadExp n d ≤ v ∧ v < 2 ^ (leadExp n d + 1) := by
  obtain ⟨hlow, hup⟩ := leadExp_bounds hn hd
  refine ⟨hlow.trans h.le, lt_of_not_ge (fun hge => hup.not_ge ?_)⟩
  simpa using (h.mono (j := leadExp n d + 1) (by omega)).below 1 (by simpa using hge)

/-- R80 to R82: the fraction, or the number that its sticky mark tells just above it, is rounded once. -/
theorem rounded_roundFrac (hf : Wide f) {rm : Nat} (hrm : rm < 4) (neg : Bool) (h : Marks sticky (n / d) v (leadExp n d - f.prec)) :
    Rounded f rm neg v (roundFrac f f.prec rm neg n d sticky) := by
  intro e he he1
  obtain ⟨hlow, hup⟩ := leadExp_of_marks hn hd h
  have hE : leadExp n d = e := leading_unique hlow hup he he1
  have hprec := hf.prec_eq
  have hbot : bottom f = f.emin - (f.fracBits : ℤ) := rfl
  have hwide : e - ((f.prec : ℤ) - 1) = e - f.fracBits := by omega
  have hq : max (e - f.fracBits) (bottom f) = max e f.emin - f.fracBits := by omega
  have heq := roundFrac_eq f f.prec rm neg d sticky hn
  simp only [hE, hwide, hq] at heq h
  set q := max e f.emin - (f.fracBits : ℤ)
  have hm := roundAt_roundsTo hd h (by omega : e - f.prec < q) rm neg
  have hu := roundAt_roundsTo hd h (by omega : e - f.prec < e - f.fracBits) rm neg
  have hinexact := roundAt_inexact hd h (by omega : e - f.prec < q) rm neg
  have htiny := tiny_iff hrm hf he he1 hu
  set m := roundAt rm neg n d sticky q
  set u := (roundAt rm neg n d sticky (e - f.fracBits)).1
  obtain ⟨hdigits, hnormal⟩ := rounded_digits hrm hf he he1 hm
  have hrange := le_largest_iff hf hdigits hnormal
  refine ⟨m.1, u, hm, hu, fun hin => ?_, fun hover => ?_⟩
  · have hin' := hrange.mpr hin
    obtain ⟨hlt, k, c, hdec, hval⟩ := fdecode_packFinite hf neg ⟨by omega, hdigits, hnormal, hin'⟩
    obtain ⟨h4, h0, h1⟩ := finiteFlags_bits (decide (e < f.emin - 1) || (decide (e = f.emin - 1) && decide (u < 2 ^ f.prec))) m.2
    rw [heq, if_pos hin', hdec]
    refine ⟨⟨rfl, rfl⟩, rfl, hlt, ?_, h4, ?_, ?_⟩
    · rw [abs_exactOf_fin, hval, Int.cast_natCast]
    · rw [h0]; exact hinexact
    · rw [h1, Bool.and_eq_true, hinexact, htiny]
  · rw [heq, if_neg (mt hrange.mp (not_le.mpr hover))]
    rfl

end RoundFrac

/-! Values of the format itself (R80, R82). -/

/-- A number that the format holds is packed as it is, with no flag. -/
theorem roundFrac_exact {f : Fmt} (hf : Wide f) (rm : Nat) (neg : Bool) {n d m : Nat} {q : ℤ} (hd : 0 < d) (h : (n / d : ℝ) = m * 2 ^ q)
    (hm : m ≠ 0) (hdigits : m < 2 ^ f.prec) (hfits : Fits f m q) : roundFrac f f.prec rm neg n d false = (packFinite f neg m q, flagNone) := by
  obtain ⟨hleast, -, hnormal, hrange⟩ := hfits
  obtain ⟨hlow, hup⟩ := log2_bounds hm
  have hprec := hf.prec_eq
  have hlead : leadExp n d = m.log2 + q := by
    refine leadExp_eq hd ?_ ?_
    · rw [h, ← two_zpow_mul]
      gcongr
    · rw [h, show (m.log2 : ℤ) + q + 1 = m.log2 + 1 + q by ring, ← two_zpow_mul]
      gcongr
  have hq : max ((m.log2 : ℤ) + q - ((f.prec : ℤ) - 1)) (bottom f) = q := by
    have hlog : m.log2 < f.prec := (Nat.log2_lt hm).mpr hdigits
    rcases hnormal with hb | hb
    · omega
    · have := (Nat.le_log2 hm).mpr hb
      omega
  have hn : n ≠ 0 := by
    rintro rfl
    rw [Nat.cast_zero, zero_div] at h
    exact mul_ne_zero (Nat.cast_ne_zero.mpr hm) (two_zpow_pos q).ne' h.symm
  simp only [roundFrac_eq f f.prec rm neg d false hn, hlead, hq, roundAt_exact hd h]
  rw [if_pos hrange]
  simp [finiteFlags, flagIf, flagNone]

/-- The same for the signed integer of a conversion. -/
theorem convVal_exact {f : Fmt} (hf : Wide f) (rm : Nat) (neg : Bool) {m : Nat} {q : ℤ} (hm : m ≠ 0) (hdigits : m < 2 ^ f.prec) (hfits : Fits f m q) :
    convVal f rm (.fin neg m q) = (packFinite f neg m q, flagNone) := by
  have hsigned : (if neg then -(m : ℤ) else m) ≠ 0 ∧ (if neg then -(m : ℤ) else m).natAbs = m ∧ decide ((if neg then -(m : ℤ) else m) < 0) = neg := by
    cases neg
    · simp [hm]
    · simp [hm, Nat.pos_of_ne_zero hm]
  obtain ⟨hne, habs, hsign⟩ := hsigned
  have hround : convVal f rm (.fin neg m q) = roundFrac f f.prec rm neg (scaleFrac m 1 q).1 (scaleFrac m 1 q).2 false := by
    simp only [convVal, roundDyadic, hne, habs, hsign, if_false]
  rw [hround]
  exact roundFrac_exact hf rm neg (scaleFrac_snd_pos one_pos q) (scaleFrac_one_val m q) hm hdigits hfits

/-- Settles O18: a pattern's value is a zero, an infinity, or a significand that fits the format at its exponent and so is packed back into its fields. -/
theorem roundingIsExactOnFormat : Obligations.RoundingIsExactOnFormat := by
  intro f rm x hieee hx hnan
  have hf := wide_of_ieee hieee
  have hprec := hf.prec_eq
  obtain ⟨honesEq, hemax, -⟩ := hf.expOnes_eq
  have hemin : f.emin = 1 - f.emax := rfl
  obtain ⟨neg, ex, frac, hex, hfrac, rfl⟩ := exists_fields hf hx
  have hpow : 2 ^ f.prec = 2 ^ f.fracBits + 2 ^ f.fracBits := by rw [hprec, pow_succ]; omega
  rw [fdecode_fields hf neg hex hfrac] at hnan ⊢
  by_cases hones : ex = f.expOnes
  · have hzero : frac = 0 := by
      by_contra hne
      simp [hones, hne, FVal.isNan] at hnan
    simp [hones, hzero, convVal, Fmt.inf]
  · have hex1 : ex < f.expOnes := by unfold Fmt.expOnes at hones ⊢; omega
    rw [if_neg hones]
    by_cases hsub : ex = 0
    · rw [if_pos hsub, hsub]
      by_cases hz : frac = 0
      · simp [hz, convVal, roundDyadic, Fmt.zero]
      · have hlog : frac.log2 < f.fracBits := (Nat.log2_lt hz).mpr hfrac
        have hfits : Fits f frac (bottom f) := ⟨le_rfl, by omega, .inl rfl, .inr (by unfold bottom; omega)⟩
        rw [convVal_exact hf rm neg hz (by omega) hfits, packFinite_subnormal neg hz hfrac]
        simp
    · have hm : frac + 2 ^ f.fracBits ≠ 0 := by omega
      have hlog : (frac + 2 ^ f.fracBits).log2 < f.prec := (Nat.log2_lt hm).mpr (by omega)
      have hfits : Fits f (frac + 2 ^ f.fracBits) ((ex : ℤ) - f.emax - f.fracBits) :=
        ⟨by unfold bottom; omega, by omega, .inr (by omega), .inr (by omega)⟩
      rw [if_neg hsub, convVal_exact hf rm neg hm (by omega) hfits, packFinite_normal neg (by omega) hfrac]

/-! Finite operands: sums, products, quotients and conversions (R81, R82). -/

theorem finite_iff {a : FVal} : finite a ↔ ∃ neg m e, a = .fin neg m e := by
  cases a <;> simp [finite]

theorem finite_fin (neg : Bool) (m : Nat) (e : ℤ) : finite (.fin neg m e) := ⟨rfl, rfl⟩

/-- The sign of a finite value other than 0. -/
theorem exactOf_neg_iff {a : FVal} (ha : finite a) (h : exactOf a ≠ 0) : exactOf a < 0 ↔ a.neg = true := by
  obtain ⟨neg, m, e, rfl⟩ := finite_iff.mp ha
  have hpow : (0 : ℚ) < 2 ^ e := by positivity
  cases neg
  · simp [exactOf]
    positivity
  · have hm : m ≠ 0 := by rintro rfl; simp [exactOf] at h
    simp [exactOf, hpow, Nat.pos_of_ne_zero hm]

theorem scaleFrac_fst_ne {n : Nat} (hn : n ≠ 0) (d : Nat) (k : ℤ) : (scaleFrac n d k).1 ≠ 0 := by
  unfold scaleFrac
  split <;> simp [hn]

section Operations

variable {f : Fmt} (hf : Wide f) {rm : Nat} (hrm : rm < 4)
include hf hrm

/-- A scaled fraction is rounded once. -/
theorem rounded_scaleFrac (neg : Bool) {n d : Nat} {k : ℤ} {v : ℝ} (hn : n ≠ 0) (hd : 0 < d) (hv : n / d * 2 ^ k = v) :
    Rounded f rm neg v (roundFrac f f.prec rm neg (scaleFrac n d k).1 (scaleFrac n d k).2 false) := by
  have hval : ((scaleFrac n d k).1 : ℝ) / (scaleFrac n d k).2 = v := by rw [scaleFrac_val, hv]
  exact rounded_roundFrac (scaleFrac_fst_ne hn d k) (scaleFrac_snd_pos hd k) hf hrm neg (hval ▸ marks_self _ _)

theorem rounded_roundDyadic {m e : ℤ} {x : ℚ} (zneg : Bool) (hx : (m : ℚ) * 2 ^ e = x) (h : x ≠ 0) :
    Rounded f rm (decide (x < 0)) |((x : ℚ) : ℝ)| (roundDyadic f rm zneg m e) := by
  have hpow : (0 : ℚ) < 2 ^ e := by positivity
  have hm : m ≠ 0 := by rintro rfl; simp [← hx] at h
  have hsign : decide (x < 0) = decide (m < 0) := by
    have : x < 0 ↔ m < 0 := by rw [← hx, ← not_le, ← not_le, not_iff_not, mul_nonneg_iff_of_pos_right hpow, Int.cast_nonneg_iff]
    exact decide_eq_decide.mpr this
  have hround : roundDyadic f rm zneg m e = roundFrac f f.prec rm (decide (m < 0)) (scaleFrac m.natAbs 1 e).1 (scaleFrac m.natAbs 1 e).2 false := if_neg hm
  rw [hsign, hround]
  refine rounded_scaleFrac hf hrm _ (Int.natAbs_ne_zero.mpr hm) one_pos ?_
  rw [← hx]
  push_cast
  rw [abs_mul, abs_of_pos (two_zpow_pos e), Nat.cast_natAbs, Int.cast_abs]
  simp

theorem rounded_convVal {a : FVal} (ha : finite a) (h : exactOf a ≠ 0) : Rounded f rm a.neg |((exactOf a : ℚ) : ℝ)| (convVal f rm a) := by
  have hneg : a.neg = decide (exactOf a < 0) := by rw [Bool.eq_iff_iff, ← exactOf_neg_iff ha h, decide_eq_true_eq]
  rw [hneg]
  obtain ⟨neg, m, e, rfl⟩ := finite_iff.mp ha
  exact rounded_roundDyadic hf hrm neg rfl h

end Operations

/-- The exact product of finite values. -/
theorem mulExact_finite {a b : FVal} (ha : finite a) (hb : finite b) :
    ∃ p, mulExact a b = some p ∧ finite p ∧ p.neg = (a.neg != b.neg) ∧ exactOf p = exactOf a * exactOf b := by
  obtain ⟨na, ma, ea, rfl⟩ := finite_iff.mp ha
  obtain ⟨nb, mb, eb, rfl⟩ := finite_iff.mp hb
  refine ⟨.fin (na != nb) (ma * mb) (ea + eb), ?_, finite_fin _ _ _, rfl, ?_⟩
  · cases na <;> cases nb <;> simp [mulExact]
  · simp only [exactOf, signif_fin, exp_fin, zpow_add₀ (two_ne_zero (α := ℚ))]
    cases na <;> cases nb <;> simp <;> ring

theorem mulVal_eq_convVal {f : Fmt} {rm : Nat} {a b p : FVal} (ha : finite a) (hb : finite b) (hp : mulExact a b = some p) (hfin : finite p) :
    mulVal f rm a b = convVal f rm p := by
  obtain ⟨neg, m, e, rfl⟩ := finite_iff.mp hfin
  simp [mulVal, ha.1, hb.1, hp, convVal]

theorem dyadicAdd_val (m1 e1 m2 e2 : ℤ) :
    ((dyadicAdd m1 e1 m2 e2).1 : ℚ) * 2 ^ (dyadicAdd m1 e1 m2 e2).2 = m1 * 2 ^ e1 + m2 * 2 ^ e2 := by
  have hshift : ∀ e e' : ℤ, e' ≤ e → ((2 ^ (e - e').toNat : Nat) : ℚ) * 2 ^ e' = 2 ^ e := by
    intro e e' h
    push_cast
    rw [← zpow_natCast, ← zpow_add₀ two_ne_zero]
    congr 1
    omega
  simp only [dyadicAdd]
  push_cast
  rw [add_mul, mul_assoc, mul_assoc]
  have h1 := hshift e1 (min e1 e2) (min_le_left _ _)
  have h2 := hshift e2 (min e1 e2) (min_le_right _ _)
  push_cast at h1 h2
  rw [h1, h2]

/-- The sum of finite values is one rounding of the exact sum. -/
theorem addVal_finite (f : Fmt) (rm : Nat) {a b : FVal} (ha : finite a) (hb : finite b) :
    ∃ zneg, addVal f rm a b =
      roundDyadic f rm zneg (dyadicAdd a.signif a.exp b.signif b.exp).1 (dyadicAdd a.signif a.exp b.signif b.exp).2 := by
  refine ⟨if a.isZero && b.isZero && a.neg == b.neg then a.neg else rm == 3, ?_⟩
  simp [addVal, ha.1, ha.2, hb.1, hb.2]

theorem fmaVal_finite (f : Fmt) (rm : Nat) {a b c p : FVal} (ha : finite a) (hb : finite b) (hc : finite c) (hp : mulExact a b = some p) :
    fmaVal f rm a b c = addVal f rm p c := by
  simp [fmaVal, ha.1, hb.1, hc.1, hp]

section Operations

variable {f : Fmt} (hf : Wide f) {rm : Nat} (hrm : rm < 4) {a b : FVal} (ha : finite a) (hb : finite b)
include hf hrm ha hb

theorem rounded_addVal (h : exactOf a + exactOf b ≠ 0) :
    Rounded f rm (decide (exactOf a + exactOf b < 0)) |((exactOf a + exactOf b : ℚ) : ℝ)| (addVal f rm a b) := by
  obtain ⟨zneg, hadd⟩ := addVal_finite f rm ha hb
  rw [hadd]
  exact rounded_roundDyadic hf hrm zneg (dyadicAdd_val _ _ _ _) h

theorem rounded_mulVal (h : exactOf a * exactOf b ≠ 0) :
    Rounded f rm (a.neg != b.neg) |((exactOf a * exactOf b : ℚ) : ℝ)| (mulVal f rm a b) := by
  obtain ⟨p, hp, hfin, hneg, hval⟩ := mulExact_finite ha hb
  rw [mulVal_eq_convVal ha hb hp hfin, ← hneg, ← hval]
  exact rounded_convVal hf hrm hfin (hval ▸ h)

theorem rounded_fmaVal {c : FVal} (hc : finite c) (h : exactOf a * exactOf b + exactOf c ≠ 0) :
    Rounded f rm (decide (exactOf a * exactOf b + exactOf c < 0)) |((exactOf a * exactOf b + exactOf c : ℚ) : ℝ)| (fmaVal f rm a b c) := by
  obtain ⟨p, hp, hfin, -, hval⟩ := mulExact_finite ha hb
  rw [fmaVal_finite f rm ha hb hc hp, ← hval]
  exact rounded_addVal hf hrm hfin hc (hval ▸ h)

theorem rounded_divVal (h : exactOf a * exactOf b ≠ 0) :
    Rounded f rm (a.neg != b.neg) |((exactOf a / exactOf b : ℚ) : ℝ)| (divVal f rm a b) := by
  obtain ⟨na, ma, ea, rfl⟩ := finite_iff.mp ha
  obtain ⟨nb, mb, eb, rfl⟩ := finite_iff.mp hb
  have hma : ma ≠ 0 := by rintro rfl; simp [exactOf] at h
  have hmb : mb ≠ 0 := by rintro rfl; simp [exactOf] at h
  have hdiv : divVal f rm (.fin na ma ea) (.fin nb mb eb) =
      roundFrac f f.prec rm (na != nb) (scaleFrac ma mb (ea - eb)).1 (scaleFrac ma mb (ea - eb)).2 false := by
    cases na <;> cases nb <;> simp [divVal, hma, hmb]
  rw [hdiv]
  refine rounded_scaleFrac hf hrm _ hma (Nat.pos_of_ne_zero hmb) ?_
  rw [Rat.cast_div, abs_div, abs_exactOf_fin, abs_exactOf_fin, zpow_sub₀ two_ne_zero, mul_div_mul_comm]

end Operations

/-! The square root (R220). -/

/-- The bits of a root, from the highest down: the root lies below `2^k` above what is found. -/
theorem isqrtBits_spec (n : Nat) : ∀ k r, r * r ≤ n → n < (r + 2 ^ k) * (r + 2 ^ k) →
    isqrtBits n k r * isqrtBits n k r ≤ n ∧ n < (isqrtBits n k r + 1) * (isqrtBits n k r + 1) := by
  intro k
  induction k with
  | zero => exact fun r h h1 => ⟨h, by simpa [isqrtBits] using h1⟩
  | succ k ih =>
    intro r h h1
    unfold isqrtBits
    split
    · next hle => exact ih _ hle (by rwa [show r + 2 ^ k + 2 ^ k = r + 2 ^ (k + 1) by ring])
    · next hgt => exact ih r h (not_le.mp hgt)

theorem isqrt_spec (n : Nat) : isqrt n * isqrt n ≤ n ∧ n < (isqrt n + 1) * (isqrt n + 1) := by
  refine isqrtBits_spec n _ 0 (by simp) ?_
  rw [zero_add, ← pow_add]
  exact Nat.lt_log2_self.trans_le (Nat.pow_le_pow_right two_pos (by omega))

/-- The parts of a root: `w` is the number with an even power of two taken out, and `r` its integer root, of at least `bits + 2` bits. -/
structure RootParts (m : Nat) (e : ℤ) (bits r : Nat) (k : ℤ) (sticky : Bool) (w : Nat) : Prop where
  le     : r * r ≤ w
  lt     : w < (r + 1) * (r + 1)
  exact  : sticky = false ↔ r * r = w
  digits : 2 ^ (bits + 1) ≤ r
  value  : (w : ℝ) * 2 ^ (2 * k) = m * 2 ^ e

/-- The root of `w`, with an even exponent beside it. -/
theorem rootParts_of_even {m : Nat} {e : ℤ} {bits w : Nat} {x : ℤ} (hx : x % 2 = 0) (hw : 2 ^ (2 * bits + 2) ≤ w) (hval : (w : ℝ) * 2 ^ x = m * 2 ^ e) :
    RootParts m e bits (isqrt w) (x / 2) (decide (isqrt w * isqrt w ≠ w)) w := by
  obtain ⟨hle, hlt⟩ := isqrt_spec w
  refine ⟨hle, hlt, by simp, ?_, ?_⟩
  · by_contra hsmall
    have hsq : (isqrt w + 1) * (isqrt w + 1) ≤ 2 ^ (bits + 1) * 2 ^ (bits + 1) := Nat.mul_le_mul (by omega) (by omega)
    rw [← pow_add, show bits + 1 + (bits + 1) = 2 * bits + 2 by ring] at hsq
    omega
  · rw [show 2 * (x / 2) = x by omega, hval]

theorem sqrtParts_spec {m : Nat} (hm : m ≠ 0) (e : ℤ) (bits : Nat) :
    ∃ r k sticky w, sqrtParts m e bits = (r, k, sticky) ∧ RootParts m e bits r k sticky w := by
  set shift := 2 * bits + 2 with hshift
  have hlarge : 2 ^ shift ≤ m * 2 ^ shift := Nat.le_mul_of_pos_left _ (Nat.pos_of_ne_zero hm)
  have hval : ((m * 2 ^ shift : Nat) : ℝ) * 2 ^ (e - shift) = m * 2 ^ e := by
    push_cast
    rw [mul_assoc, ← zpow_natCast, two_zpow_mul]
    congr 2
    omega
  by_cases heven : (e - shift) % 2 = 0
  · exact ⟨_, _, _, m * 2 ^ shift, by simp only [sqrtParts, ← hshift, heven, if_true], rootParts_of_even heven hlarge hval⟩
  · refine ⟨_, _, _, 2 * (m * 2 ^ shift), by simp only [sqrtParts, ← hshift, heven, if_false],
      rootParts_of_even (x := e - shift - 1) (by omega) (hlarge.trans (Nat.le_mul_of_pos_left _ two_pos)) ?_⟩
    rw [← hval, Nat.cast_mul, Nat.cast_two, mul_comm 2, mul_assoc]
    congr 1
    rw [← zpow_one_add₀ two_ne_zero]
    congr 1
    omega

/-- The exact root is marked by the integer root below it. -/
theorem RootParts.marks {m : Nat} {e : ℤ} {bits r : Nat} {k : ℤ} {sticky : Bool} {w : Nat} (h : RootParts m e bits r k sticky w) :
    Marks sticky (r * 2 ^ k) (Real.sqrt (m * 2 ^ e)) k := by
  obtain ⟨hle, hlt, hexact, -, hval⟩ := h
  have hpow := two_zpow_pos k
  have hsqrt : Real.sqrt (m * 2 ^ e) = Real.sqrt w * 2 ^ k := by
    rw [← hval, mul_comm 2 k, zpow_mul, zpow_ofNat, Real.sqrt_mul (Nat.cast_nonneg w), Real.sqrt_sq hpow.le]
  have hroot : (r : ℝ) ≤ Real.sqrt w ∧ Real.sqrt w < r + 1 := by
    constructor
    · exact Real.le_sqrt_of_sq_le (by rw [pow_two]; exact_mod_cast hle)
    · rw [Real.sqrt_lt' (by positivity), pow_two]
      exact_mod_cast hlt
  rw [hsqrt]
  refine ⟨by gcongr; exact hroot.1, ?_, fun z hz => ?_⟩
  · rw [hexact, mul_left_inj' hpow.ne', Real.sqrt_eq_iff_mul_self_eq (Nat.cast_nonneg w) (Nat.cast_nonneg r)]
    exact_mod_cast eq_comm
  · have hzr : (z : ℝ) < r + 1 := (le_of_mul_le_mul_right hz hpow).trans_lt hroot.2
    have hzr : z ≤ r := Int.lt_add_one_iff.mp (by exact_mod_cast hzr)
    gcongr
    exact_mod_cast hzr

theorem rounded_sqrtVal {f : Fmt} (hf : Wide f) {rm : Nat} (hrm : rm < 4) {a : FVal} (ha : finite a) (h : 0 < exactOf a) :
    Rounded f rm false (Real.sqrt ((exactOf a : ℚ) : ℝ)) (sqrtVal f rm a) := by
  have hpos : a.neg = false := by
    rw [← Bool.not_eq_true, ← exactOf_neg_iff ha h.ne']
    exact h.le.not_gt
  obtain ⟨neg, m, e, rfl⟩ := finite_iff.mp ha
  obtain rfl : neg = false := hpos
  have hm : m ≠ 0 := by rintro rfl; simp [exactOf] at h
  obtain ⟨r, k, sticky, w, hparts, hroot⟩ := sqrtParts_spec hm e f.prec
  have hr : r ≠ 0 := by have := hroot.digits; have := Nat.two_pow_pos (f.prec + 1); omega
  have hsqrt : sqrtVal f rm (.fin false m e) = roundFrac f f.prec rm false (scaleFrac r 1 k).1 (scaleFrac r 1 k).2 sticky := by
    simp [sqrtVal, hm, hparts]
  have hexact : ((exactOf (.fin false m e) : ℚ) : ℝ) = m * 2 ^ e := by simp [exactOf]
  have hn := scaleFrac_fst_ne hr 1 k
  have hd := scaleFrac_snd_pos (n := r) one_pos k
  have hval : ((scaleFrac r 1 k).1 : ℝ) / (scaleFrac r 1 k).2 = r * 2 ^ k := scaleFrac_one_val r k
  rw [hsqrt, hexact]
  refine rounded_roundFrac hn hd hf hrm false (hval ▸ hroot.marks.mono ?_)
  have hlow : (2 : ℝ) ^ ((f.prec : ℤ) + 1 + k) < 2 ^ (leadExp (scaleFrac r 1 k).1 (scaleFrac r 1 k).2 + 1) := by
    refine lt_of_le_of_lt ?_ (leadExp_bounds hn hd).2
    rw [hval, ← two_zpow_mul]
    gcongr
    exact_mod_cast hroot.digits
  have := two_zpow_lt_iff.mp hlow
  omega

/-! Conversion to an integer type (R84). -/

theorem typeWidth_eq {t : Nat} (ht : t < 8) : typeWidth t = intWidth t := by
  interval_cases t <;> rfl

/-- A finite value rounds to the one integer that the rounding rule names, and the mark says whether it differs. -/
theorem roundInt_eq {rm : Nat} (hrm : rm < 4) (neg : Bool) (m : Nat) (e : ℤ) {k : ℤ} (h : RoundsTo rm neg (m * 2 ^ e) k) :
    (roundInt rm neg m e).1 = (if neg then -k else k) ∧ ((roundInt rm neg m e).2 = true ↔ (k : ℝ) ≠ m * 2 ^ e) := by
  have hd := scaleFrac_snd_pos (n := m) one_pos e
  have hmarks : Marks false (((scaleFrac m 1 e).1 : ℝ) / (scaleFrac m 1 e).2) (m * 2 ^ e) (-1) := scaleFrac_one_val m e ▸ marks_self _ _
  have hto := roundAt_roundsTo hd hmarks (by omega : (-1 : ℤ) < 0) rm neg
  have hinexact := roundAt_inexact hd hmarks (by omega : (-1 : ℤ) < 0) rm neg
  rw [zpow_zero, div_one] at hto
  rw [zpow_zero, mul_one] at hinexact
  have hk := roundsTo_unique hto h hrm
  rw [hk] at hinexact
  exact ⟨by simp only [roundInt, hk], hinexact⟩

/-- The least value of an integer type (R77). -/
def leastInt (t : Nat) : ℤ := if t < 4 then -2 ^ (intWidth t - 1) else 0

/-- The greatest value of an integer type (R77). -/
def greatestInt (t : Nat) : ℤ := if t < 4 then 2 ^ (intWidth t - 1) - 1 else 2 ^ intWidth t - 1

theorem leastInt_le_greatestInt (t : Nat) : leastInt t ≤ greatestInt t := by
  have h0 : (0 : ℤ) < 2 ^ (intWidth t - 1) := by positivity
  have h1 : (0 : ℤ) < 2 ^ intWidth t := by positivity
  unfold leastInt greatestInt
  split <;> omega

theorem toIntVal_inf {t : Nat} (ht : t < 8) (rm : Nat) (neg : Bool) :
    toIntVal t rm (.inf neg) = (wrapInt (intWidth t) (if neg then leastInt t else greatestInt t), flagNV) := by
  simp [toIntVal, leastInt, greatestInt, typeWidth_eq ht, typeSigned]

theorem toIntVal_fin {t : Nat} (ht : t < 8) (rm : Nat) (neg : Bool) (m : Nat) (e : ℤ) :
    let i := (roundInt rm neg m e).1
    toIntVal t rm (.fin neg m e) =
      (if i < leastInt t then (wrapInt (intWidth t) (leastInt t), flagNV)
        else if greatestInt t < i then (wrapInt (intWidth t) (greatestInt t), flagNV)
        else (wrapInt (intWidth t) i, flagIf (roundInt rm neg m e).2 flagNX)) := by
  by_cases hsigned : t < 4 <;> simp [toIntVal, leastInt, greatestInt, typeWidth_eq ht, typeSigned, hsigned]

/-- R84: a finite value gives the integer it rounds to, or the bound beyond which that lies. -/
theorem toIntVal_of_roundsTo {t rm : Nat} {a : FVal} {k : ℤ} (ht : t < 8) (hrm : rm < 4) (ha : finite a)
    (h : RoundsTo rm a.neg |((exactOf a : ℚ) : ℝ)| k) :
    let i := if a.neg then -k else k
    (i < leastInt t → toIntVal t rm a = (wrapInt (intWidth t) (leastInt t), flagNV))
      ∧ (greatestInt t < i → toIntVal t rm a = (wrapInt (intWidth t) (greatestInt t), flagNV))
      ∧ (leastInt t ≤ i → i ≤ greatestInt t → (toIntVal t rm a).1 = wrapInt (intWidth t) i
        ∧ ((k : ℝ) = |((exactOf a : ℚ) : ℝ)| → (toIntVal t rm a).2 = flagNone) ∧ ((k : ℝ) ≠ |((exactOf a : ℚ) : ℝ)| → (toIntVal t rm a).2 = flagNX)) := by
  obtain ⟨neg, m, e, rfl⟩ := finite_iff.mp ha
  intro i
  rw [abs_exactOf_fin] at h ⊢
  obtain ⟨hi, hx⟩ : (roundInt rm neg m e).1 = i ∧ _ := roundInt_eq hrm neg m e h
  have hbounds := leastInt_le_greatestInt t
  simp only [toIntVal_fin ht, hi]
  clear_value i
  refine ⟨fun hl => if_pos hl, fun hg => ?_, fun hl hg => ?_⟩
  · rw [if_neg (by omega), if_pos hg]
  · rw [if_neg hl.not_gt, if_neg hg.not_gt]
    refine ⟨rfl, fun hk => ?_, fun hk => ?_⟩
    · simp [flagIf, Bool.eq_false_iff.mpr (mt hx.mp (not_not.mpr hk))]
    · simp [flagIf, hx.mpr hk]

/-! NaNs, infinities and zeros (R82, R83). -/

/-- Zero times infinity has no exact product. -/
theorem mulExact_isNone (a b : FVal) : (mulExact a b).isNone = ((a.isInf && b.isZero) || (a.isZero && b.isInf)) := by
  unfold mulExact
  split
  · next h => simp [h]
  · next h =>
    rw [Bool.eq_false_iff.mpr h]
    split <;> rfl

theorem isNan_of_isInf {a : FVal} (h : a.isInf = true) : a.isNan = false := by cases a <;> simp_all

theorem isNan_of_isZero {a : FVal} (h : a.isZero = true) : a.isNan = false := by cases a <;> simp_all

/-- R82: an invalid product is invalid whatever the addend holds. -/
theorem fmaVal_invalid (f : Fmt) (rm : Nat) {a b : FVal} (c : FVal) (h : ((a.isInf && b.isZero) || (a.isZero && b.isInf)) = true) :
    fmaVal f rm a b c = (f.nan, flagNV) := by
  have hnan : a.isNan = false ∧ b.isNan = false := by
    simp only [Bool.or_eq_true, Bool.and_eq_true] at h
    rcases h with ⟨ha, hb⟩ | ⟨ha, hb⟩
    · exact ⟨isNan_of_isInf ha, isNan_of_isZero hb⟩
    · exact ⟨isNan_of_isZero ha, isNan_of_isInf hb⟩
  simp only [fmaVal, mulExact_isNone, h, hnan]
  rfl

theorem fmaVal_nan (f : Fmt) (rm : Nat) {a b c : FVal} (h : (a.isNan || b.isNan || c.isNan) = true) :
    fmaVal f rm a b c =
      (f.nan, flagIf (a.isSignalling || b.isSignalling || c.isSignalling || (a.isInf && b.isZero) || (a.isZero && b.isInf)) flagNV) := by
  by_cases hinv : ((a.isInf && b.isZero) || (a.isZero && b.isInf)) = true
  · rw [fmaVal_invalid f rm c hinv, Bool.or_assoc _ (a.isInf && b.isZero), hinv, Bool.or_true]
    rfl
  · have hvalid := Bool.eq_false_iff.mpr hinv
    rw [Bool.or_assoc _ (a.isInf && b.isZero), hvalid, Bool.or_false]
    simp only [fmaVal, mulExact_isNone, hvalid, Bool.and_false, h, if_true]
    rfl

/-- The product of an infinity and a number other than zero. -/
theorem mulExact_inf (n : Bool) {x : FVal} (hx : x.isZero = false) :
    mulExact (.inf n) x = some (.inf (n != x.neg)) ∧ mulExact x (.inf n) = some (.inf (x.neg != n)) := by
  simp [mulExact, hx]

theorem fmaVal_inf (f : Fmt) (rm : Nat) {a b : FVal} {p n : Bool} (ha : a.isNan = false) (hb : b.isNan = false) (hp : mulExact a b = some (.inf p)) :
    fmaVal f rm a b (.inf n) = if p == n then (f.inf p, flagNone) else (f.nan, flagNV) := by
  simp [fmaVal, ha, hb, hp, addVal]

/-- R82: infinity times a number, with an infinite addend. -/
theorem fmaVal_inf_inf (f : Fmt) (rm : Nat) (n : Bool) {x : FVal} (hnan : x.isNan = false) (hzero : x.isZero = false) :
    fmaVal f rm (.inf n) x (.inf (n == x.neg)) = (f.nan, flagNV) ∧ fmaVal f rm x (.inf n) (.inf (n == x.neg)) = (f.nan, flagNV)
      ∧ fmaVal f rm (.inf n) x (.inf (n != x.neg)) = (f.inf (n != x.neg), flagNone) := by
  obtain ⟨hl, hr⟩ := mulExact_inf n hzero
  rw [fmaVal_inf f rm rfl hnan hl, fmaVal_inf f rm hnan rfl hr, fmaVal_inf f rm rfl hnan hl]
  cases n <;> cases x.neg <;> simp

theorem signOp_nan {f : Fmt} {x : Nat} (g : Bool) (h : (fdecode f x).isNan = true) :
    signOp f g x = (f.nan, flagIf (fdecode f x).isSignalling flagNV) := by
  simp [signOp, h, nanResult]

/-- R220: the sign bit cleared, or inverted. -/
theorem signOp_number {f : Fmt} (hf : Wide f) {x : Nat} (hx : x < 2 ^ f.width) (h : (fdecode f x).isNan = false) :
    signOp f false x = (x % 2 ^ (f.width - 1), flagNone)
      ∧ signOp f true x = (if x < 2 ^ (f.width - 1) then x + 2 ^ (f.width - 1) else x - 2 ^ (f.width - 1), flagNone) := by
  have hpow : 2 ^ f.width = 2 ^ (f.width - 1) + 2 ^ (f.width - 1) := by rw [hf.width_eq]; simp [pow_succ]; omega
  have hflip : (x + 2 ^ (f.width - 1)) % 2 ^ f.width = if x < 2 ^ (f.width - 1) then x + 2 ^ (f.width - 1) else x - 2 ^ (f.width - 1) := by
    split
    · exact Nat.mod_eq_of_lt (by omega)
    · rw [Nat.mod_eq_sub_mod (by omega), Nat.mod_eq_of_lt (by omega)]
      omega
  constructor
  · simp [signOp, h, low]
  · simp [signOp, h, low, Nat.mod_eq_of_lt hx, hflip]

section NaN

variable (f : Fmt) (rm : Nat) {a b : FVal} (h : (a.isNan || b.isNan) = true)
include h

theorem addVal_nan : addVal f rm a b = (f.nan, flagIf (a.isSignalling || b.isSignalling) flagNV) := if_pos h

theorem mulVal_nan : mulVal f rm a b = (f.nan, flagIf (a.isSignalling || b.isSignalling) flagNV) := if_pos h

theorem divVal_nan : divVal f rm a b = (f.nan, flagIf (a.isSignalling || b.isSignalling) flagNV) := if_pos h

end NaN

theorem addVal_inf_inf (f : Fmt) (rm : Nat) (n : Bool) :
    addVal f rm (.inf n) (.inf (!n)) = (f.nan, flagNV) ∧ addVal f rm (.inf n) (.inf n) = (f.inf n, flagNone) := by
  cases n <;> exact ⟨rfl, rfl⟩

theorem mulVal_inf_zero (f : Fmt) (rm : Nat) (n m : Bool) (e : ℤ) :
    mulVal f rm (.inf n) (.fin m 0 e) = (f.nan, flagNV) ∧ mulVal f rm (.fin m 0 e) (.inf n) = (f.nan, flagNV) := ⟨rfl, rfl⟩

/-- R82: division by zero, and the root of a negative number. -/
theorem divVal_zero (f : Fmt) (rm : Nat) (n m : Bool) {k : Nat} (e d : ℤ) (hk : k ≠ 0) :
    divVal f rm (.fin n k e) (.fin m 0 d) = (f.inf (n != m), flagDZ) := by
  simp [divVal, hk]

theorem sqrtVal_negative (f : Fmt) (rm : Nat) {k : Nat} (e : ℤ) (hk : k ≠ 0) : sqrtVal f rm (.fin true k e) = (f.nan, flagNV) := by
  simp [sqrtVal, hk]

/-- Settles O17: on finite operands each operation is one rounding of its exact result, and each special case is one branch of its definition. -/
theorem floatResults : Obligations.FloatResults := by
  intro f rm a b c hieee
  have hf := wide_of_ieee hieee
  refine ⟨fun hrm ha hb hc => ⟨rounded_addVal hf hrm ha hb, fun h => ⟨rounded_mulVal hf hrm ha hb h, rounded_divVal hf hrm ha hb h⟩,
      rounded_fmaVal hf hrm ha hb hc, rounded_sqrtVal hf hrm ha, rounded_convVal hf hrm ha, fun t k ht h => ?_⟩,
    fmaVal_nan f rm, fun n x => fmaVal_inf_inf f rm n, fun g => ⟨rfl, rfl, rfl⟩, rfl, rfl,
    fun x hx => ⟨fun h g => signOp_nan g h, signOp_number hf hx⟩, fun h => ⟨addVal_nan f rm h, mulVal_nan f rm h, divVal_nan f rm h⟩,
    addVal_inf_inf f rm, fun n m e => ?_, fun n m e d => ⟨rfl, rfl⟩, fun n m k e d hk => ⟨divVal_zero f rm n m e d hk, sqrtVal_negative f rm e hk⟩,
    fun n e => rfl, by decide, by decide, by decide, by decide⟩
  · obtain ⟨hlow, hhigh, hin⟩ := toIntVal_of_roundsTo ht hrm ha h
    exact ⟨hlow, hhigh, hin, toIntVal_inf ht rm false, toIntVal_inf ht rm true, fun g => rfl⟩
  · obtain ⟨hl, hr⟩ := mulVal_inf_zero f rm n m e
    exact ⟨hl, hr, fmaVal_invalid f rm c rfl, fmaVal_invalid f rm c rfl⟩

/-! Active elements (R9, R183, R234). -/

theorem mem_activeList_iff {s : State} {o : Ops} {neg : Bool} {k : Nat} : k ∈ activeList s.cpu o neg ↔ Active s o neg k := by
  have hmask : (s.cpu.readM o.M k != neg) = true ↔ s.cpu.readM o.M k = !neg := by cases s.cpu.readM o.M k <;> cases neg <;> simp
  simp only [activeList, List.mem_filter, List.mem_range, activeAt, Active, Bool.and_eq_true, Bool.or_eq_true, decide_eq_true_eq, beq_iff_eq,
    Bool.not_eq_true', hmask]
  cases o.q <;> simp <;> tauto

/-- The first active element that a predicate picks is the lowest one. -/
theorem find?_activeList {s : State} {o : Ops} {neg : Bool} {p : Nat → Bool} {k : Nat} (hk : Active s o neg k) (hp : p k = true)
    (hlow : ∀ j, j < k → Active s o neg j → p j = false) : (activeList s.cpu o neg).find? p = some k := by
  have hact : ∀ {j}, (activeAt s.cpu o.M neg o.q j) = true → j < s.cpu.vl → Active s o neg j := fun h hj =>
    mem_activeList_iff.mp (List.mem_filter.mpr ⟨List.mem_range.mpr hj, h⟩)
  obtain ⟨hr, ha⟩ := List.mem_filter.mp (mem_activeList_iff.mpr hk)
  rw [activeList, List.find?_filter, List.find?_range_eq_some]
  refine ⟨by simp [ha, hp], hr, fun j hj => ?_⟩
  cases haj : activeAt s.cpu o.M neg o.q j
  · rfl
  · simp [hlow j hj (hact haj (hj.trans (List.mem_range.mp hr)))]

/-! What an element's result writes. -/

/-- A writer of element results changes element `i` of register or mask D alone, and neither the g registers nor the queue. -/
structure WritesOnlyD (o : Ops) (w : Strand → Nat → Nat → Strand) : Prop where
  g     : ∀ t i x, (w t i x).g = t.g
  queue : ∀ t i x, (w t i x).queue = t.queue
  readV : ∀ t i x n j, i < 65536 → j < 65536 → (n ≠ o.D ∨ j ≠ i) → (w t i x).readV n j = t.readV n j
  readM : ∀ t i x n j, i < 65536 → j < 65536 → (n ≠ o.D ∨ j ≠ i) → (w t i x).readM n j = t.readM n j

theorem writesOnlyD_putV (o : Ops) : WritesOnlyD o (putV o) where
  g _ _ _ := rfl
  queue _ _ _ := rfl
  readV t i x n j hi hj h := by
    rw [putV, readV_writeV _ _ _ _ _ _ hi hj, if_neg (by tauto)]
  readM _ _ _ _ _ _ _ _ := rfl

theorem writesOnlyD_putM (o : Ops) : WritesOnlyD o (putM o) where
  g t i x := by simp [putM]
  queue t i x := by simp [putM]
  readV t i x n j _ _ _ := by simp [putM, Strand.readV]
  readM t i x n j hi hj h := by
    rw [putM, readM_writeM _ _ _ _ _ _ hi hj, if_neg (by tauto)]

/-- What every write of a result keeps, the results of a list keep. -/
theorem putAll_keeps {β : Type} {w : Strand → Nat → Nat → Strand} {fld : Strand → β} {l : List Nat} (f : Nat → Elem)
    (h : ∀ t, ∀ i ∈ l, ∀ x, fld (w t i x) = fld t) :
    ∀ t, fld (putAll w f t l) = fld t := by
  induction l with
  | nil => exact fun t => rfl
  | cons i rest ih =>
    intro t
    exact (ih (fun t j hj => h t j (List.mem_cons_of_mem _ hj)) _).trans (h t i List.mem_cons_self _)

section Writer

variable {o : Ops} {w : Strand → Nat → Nat → Strand} (hw : WritesOnlyD o w)
include hw

theorem putAll_g (f : Nat → Elem) (t : Strand) (l : List Nat) : (putAll w f t l).g = t.g :=
  putAll_keeps f (fld := Strand.g) (fun t i _ x => hw.g t i x) t

theorem putAll_queue (f : Nat → Elem) (t : Strand) (l : List Nat) : (putAll w f t l).queue = t.queue :=
  putAll_keeps f (fld := Strand.queue) (fun t i _ x => hw.queue t i x) t

/-- Elements that are not of D, or not of the list, read as before. -/
theorem putAll_reads (f : Nat → Elem) (t : Strand) {l : List Nat} {n j : Nat} (hl : ∀ i ∈ l, i < 65536) (hj : j < 65536) (h : n ≠ o.D ∨ j ∉ l) :
    (putAll w f t l).readV n j = t.readV n j ∧ (putAll w f t l).readM n j = t.readM n j := by
  have hne : ∀ i ∈ l, n ≠ o.D ∨ j ≠ i := fun i hi => h.imp_right (fun hn hji => hn (hji ▸ hi))
  exact ⟨putAll_keeps f (fld := fun t => t.readV n j) (fun t i hi x => hw.readV t i x n j (hl i hi) hj (hne i hi)) t,
    putAll_keeps f (fld := fun t => t.readM n j) (fun t i hi x => hw.readM t i x n j (hl i hi) hj (hne i hi)) t⟩

end Writer

/-! ABN operands (R105, R106). -/

/-- R106: an element-wise instruction traps at its lowest active ABN, with the results of the elements below it written. -/
theorem trapsAbn_of_vectorOp {i : Instr} {s : State} {o : Ops} {types : List Nat} {neg : Bool} {f : Nat → Elem} {w : Strand → Nat → Nat → Strand}
    {abn : Nat → Option Nat} (hx : exec i s = vectorOp i o types neg s f w) (hf : ∀ k, (f k).abn = abn k) (hw : WritesOnlyD o w)
    (hd : HeadReady i types s.cpu) (hvl : s.cpu.vl ≤ 65536) : TrapsAbn i s o neg abn := by
  intro k x hk hak hlow
  have hkvl : k < s.cpu.vl := hk.2.1
  have hfind : (activeList s.cpu o neg).find? (fun j => (f j).abn.isSome) = some k :=
    find?_activeList hk (by simp [hf, hak]) (fun j hj hja => by simp [hf, hlow j hj hja])
  let below := (activeList s.cpu o neg).filter (fun j => decide (j < k))
  have hbelow : ∀ j ∈ below, j < k := fun j hj => by simpa using (List.mem_filter.mp hj).2
  refine ⟨s.onCpu (fun t => { (putAll w f t below).orFlags (flagsOf f below) with vstart := k }), ?_, rfl, rfl,
    putAll_queue hw f s.cpu below, putAll_g hw f s.cpu below, fun n j hj h => ?_⟩
  · rw [hx, vectorOp, atHead_pass _ _ _ _ hd, unlessVl0_pass _ _ (by omega), runElems, hfind]
    simp [hf, hak, causeAbn, abnTval, below]
  · exact putAll_reads hw f s.cpu (fun i hi => (hbelow i hi).trans (by omega)) hj (h.imp_right (fun hkj hmem => by have := hbelow j hmem; omega))

theorem firstAbn_pair (a b : Option Nat) : firstAbn [a, b] = a.or b := by cases a <;> cases b <;> rfl

theorem firstAbn_triple (a b c : Option Nat) : firstAbn [a, b, c] = (a.or b).or c := by cases a <;> cases b <;> cases c <;> rfl

/-- R105: an element is an ABN where `.f32` reads it and it lies in the ABN range. -/
theorem elemAbn_eq (t : Strand) (ty n k : Nat) :
    elemAbn t ty n k = if ty = 10 ∧ 0xFFA00000 ≤ t.readV n k % 2 ^ 32 ∧ t.readV n k % 2 ^ 32 ≤ 0xFFA000FF then some (t.readV n k % 2 ^ 32) else none := by
  simp [elemAbn, isAbn, elemOf, low, typeWidth]

section Operands

variable {s : State} {o : Ops} (h8 : 8 ≤ o.T) (h11 : o.T ≤ 11)
include h8 h11

/-- R181, R182: an F20 or a literal is an ABN by its binary32 pattern under every IEEE type. -/
theorem bAbn_of_f32Pattern (k : Nat) {p : Nat} (hv : o.bIsVector = false) (hp : o.b.f32Pattern = some p) :
    bAbn s o k = if 0xFFA00000 ≤ p ∧ p ≤ 0xFFA000FF then some p else none := by
  have ht : ¬ (o.T < 8 ∨ 12 ≤ o.T) := by omega
  have h12 : o.T ≠ 12 := by omega
  simp [bAbn, operandFp, hv, hp, ht, h12, isAbn]

theorem bAbn_of_vector (k : Nat) (hv : o.bIsVector = true) : bAbn s o k = elemAbn s.cpu o.T o.B k := by
  have ht : ¬ (o.T < 8 ∨ 12 ≤ o.T) := by omega
  simp [bAbn, elemAbn, hv, ht]

end Operands

section Families

variable {s : State} {o : Ops} {i : Instr} (hvl : s.cpu.vl ≤ 65536)
include hvl

theorem vFpBinary_trapsAbn {f : Fmt → Nat → FVal → FVal → Nat × Flags} (hx : exec i s = vFpBinary i o s f) (hd : HeadReady i [o.T] s.cpu) :
    TrapsAbn i s o (o.C == 1) (fun k => (elemAbn s.cpu o.T o.A k).or (bAbn s o k)) :=
  trapsAbn_of_vectorOp hx (fun _ => firstAbn_pair _ _) (writesOnlyD_putV o) hd hvl

theorem vMinMax_trapsAbn {max : Bool} (hx : exec i s = vMinMax i o s max) (hd : HeadReady i [o.T] s.cpu) :
    TrapsAbn i s o (o.C == 1) (fun k => (elemAbn s.cpu o.T o.A k).or (bAbn s o k)) :=
  trapsAbn_of_vectorOp hx (fun _ => firstAbn_pair _ _) (writesOnlyD_putV o) hd hvl

theorem vFpUnary_trapsAbn {f : Fmt → Nat → Nat → Nat × Flags} (hx : exec i s = vFpUnary i o s f) (hd : HeadReady i [o.T] s.cpu) :
    TrapsAbn i s o (o.C == 1) (elemAbn s.cpu o.T o.A) :=
  trapsAbn_of_vectorOp hx (fun _ => rfl) (writesOnlyD_putV o) hd hvl

theorem vFpFused_trapsAbn {negate : Bool} (hx : exec i s = vFpFused i o s negate) (hd : HeadReady i [o.T] s.cpu) :
    TrapsAbn i s o false (fun k => ((elemAbn s.cpu o.T o.A k).or (bAbn s o k)).or (elemAbn s.cpu o.T o.C k)) :=
  trapsAbn_of_vectorOp hx (fun _ => firstAbn_triple _ _ _) (writesOnlyD_putV o) hd hvl

theorem vfcmp_trapsAbn (hd : HeadReady (.vfcmp o) [o.T] s.cpu) :
    TrapsAbn (.vfcmp o) s o false (fun k => (elemAbn s.cpu o.T o.A k).or (bAbn s o k)) :=
  trapsAbn_of_vectorOp (show exec (.vfcmp o) s = execVfcmp o s from rfl) (fun _ => firstAbn_pair _ _) (writesOnlyD_putM o) hd hvl

theorem vConvert_trapsAbn {f : Nat → Nat → Nat → Nat → Nat × Flags} (hx : exec i s = vConvert i o s f) (hd : HeadReady i [o.C, o.T] s.cpu) :
    TrapsAbn i s o false (elemAbn s.cpu o.C o.A) :=
  trapsAbn_of_vectorOp hx (fun _ => rfl) (writesOnlyD_putV o) hd hvl

end Families

/-- Settles O43: each instruction is of a family that runs its elements in order, and the first active ABN ends the run. -/
theorem vectorAbnTraps : Obligations.VectorAbnTraps := by
  intro s o hvl
  simp only [← elemAbn_eq]
  refine ⟨fun h8 h11 => ⟨?_, ?_, ?_, vfcmp_trapsAbn hvl, fun k p => bAbn_of_f32Pattern h8 h11 k, fun k => bAbn_of_vector h8 h11 k⟩, ?_⟩
  · simp only [List.forall_mem_cons]
    exact ⟨vFpBinary_trapsAbn hvl (show _ = execVfadd o s from rfl), vFpBinary_trapsAbn hvl (show _ = execVfsub o s from rfl),
      vFpBinary_trapsAbn hvl (show _ = execVfmul o s from rfl), vFpBinary_trapsAbn hvl (show _ = execVfdiv o s from rfl),
      vMinMax_trapsAbn hvl (show _ = execVfmin o s from rfl), vMinMax_trapsAbn hvl (show _ = execVfmax o s from rfl), List.forall_mem_nil _⟩
  · simp only [List.forall_mem_cons]
    exact ⟨vFpUnary_trapsAbn hvl (show _ = execVfsqrt o s from rfl), vFpUnary_trapsAbn hvl (show _ = execVfrece o s from rfl),
      vFpUnary_trapsAbn hvl (show _ = execVfrsqe o s from rfl), vFpUnary_trapsAbn hvl (show _ = execVfabs o s from rfl),
      vFpUnary_trapsAbn hvl (show _ = execVfneg o s from rfl), List.forall_mem_nil _⟩
  · simp only [List.forall_mem_cons]
    exact ⟨vFpFused_trapsAbn hvl (show _ = execVfma o s from rfl), vFpFused_trapsAbn hvl (show _ = execVfnma o s from rfl), List.forall_mem_nil _⟩
  · simp only [List.forall_mem_cons]
    exact ⟨vConvert_trapsAbn hvl (show _ = execVfcvt o s from rfl), vConvert_trapsAbn hvl (show _ = execVfcvti o s from rfl), List.forall_mem_nil _⟩

end Sys2Proof.Proofs.Numbers

/-! The obligations of spec/09_consistency.md: what ACQ, REL, FENCE and PREF do and when they wait (R156, R160, R161, R255), and the
number of a piece that has ended (R166, R169). -/

namespace Sys2Proof.Proofs.Consistency

open Sys2Proof Sys2Proof.Machine Sys2Proof.Safety Sys2Proof.Claims Sys2Proof.Laws

/-! A translation and a fetched line leave the current strand alone (R255). -/

@[simp] theorem useHome_cpu (s : State) (vi rc ha n hint : Nat) (u : FrameUse) (host : Bool) : (useHome s vi rc ha n hint u host).cpu = s.cpu := by
  unfold useHome
  split <;> rfl

@[simp] theorem noteWalk_cpu (s : State) (pkg die chan vi a : Nat) : (noteWalk s pkg die chan vi a).cpu = s.cpu := by
  unfold noteWalk
  induction walkReads s pkg die chan vi a generalizing s with
  | nil => rfl
  | cons x rest ih => rw [List.foldl_cons, ih, useHome_cpu]

@[simp] theorem tlbFill_cpu (s : State) (w : Who) (page pkg : Nat) (l : Leaf) (g : BitVec 8) : (tlbFill s w page pkg l g).cpu = s.cpu := by
  unfold tlbFill
  split <;> rfl

@[simp] theorem notePage_cpu (s : State) (vi tag : Nat) : (notePage s vi tag).cpu = s.cpu := rfl

section Instructions

variable {s s1 : State} {w : Who} {va : Word} {k : AccKind} {p : Place}

/-- A leaf that permits an access answers in the state that asks. -/
theorem state_of_useLeaf {l : Leaf} {pkg : Nat} {g : BitVec 8} (h : useLeaf s w l k pkg va g = .ok p s1) : s1 = s := by
  unfold useLeaf at h
  dsimp only at h
  split at h
  · cases h
  · split at h
    · repeat' split at h
      all_goals cases h
    · cases h; rfl

theorem cpu_of_placePg (h : placePg s w va k = .ok p s1) : s1.cpu = s.cpu := by
  unfold placePg at h
  dsimp only at h
  split at h
  · split at h <;> cases h
    next hl => rw [notePage_cpu, state_of_useLeaf hl]
  · repeat' split at h
    all_goals cases h
    next hl => rw [notePage_cpu, tlbFill_cpu, state_of_useLeaf hl, noteWalk_cpu]

theorem cpu_of_placeWindow (h : placeWindow s w va k = .ok p s1) : s1.cpu = s.cpu := by
  unfold placeWindow at h
  dsimp only at h
  split at h
  · cases h
  · split at h
    · cases h
    · split at h
      · cases h
      · split at h <;> cases h
        next hp => exact cpu_of_placePg hp

theorem state_of_placeOnChip {n : Nat} (h : placeOnChip s w va n k = .ok p s1) : s1 = s := by
  unfold placeOnChip at h
  dsimp only at h
  repeat' split at h
  all_goals cases h
  all_goals rfl

theorem cpu_of_placeOf {n : Nat} (h : placeOf s w va n k = .ok p s1) : s1.cpu = s.cpu := by
  unfold placeOf at h
  split at h
  · exact cpu_of_placePg h
  · exact cpu_of_placeWindow h
  · rw [state_of_placeOnChip h]
  · cases h

theorem mem_of_placeOf {n : Nat} (h : placeOf s w va n k = .ok p s1) : s1.mem = s.mem :=
  (same_of h (placeOf_same s w va n k)).1

theorem l1Line_cpu (s : State) (w : Who) (p : Place) (ha n hint : Nat) : (l1Line s w p ha n hint).2.cpu = s.cpu := by
  unfold l1Line
  dsimp only
  repeat' split
  all_goals simp

theorem prefetchLines_frame (w : Who) (p : Place) (l : List (Nat × Nat)) (s : State) :
    (prefetchLines w p s l).mem = s.mem ∧ (prefetchLines w p s l).cpu = s.cpu := by
  induction l generalizing s with
  | nil => exact ⟨rfl, rfl⟩
  | cons x rest ih =>
    obtain ⟨hmem, hcpu⟩ := ih (l1Line s w p x.1 x.2 0).2
    exact ⟨hmem.trans (l1Line_same ..).1, hcpu.trans (l1Line_cpu ..)⟩

/-- R255: PREF moves on, and changes caches at most. -/
theorem pref_completes (s : State) (o : Ops) : ∃ t, exec (.pref o) s = .next t ∧ t.mem = s.mem ∧ t.cpu = s.cpu.advance o.bytes := by
  show ∃ t, execPref o s = .next t ∧ _
  unfold execPref
  dsimp only
  split
  · next hp =>
    split
    · obtain ⟨hmem, hcpu⟩ := prefetchLines_frame (s.who .scalar) _ (lineParts _ _ _) _
      exact ⟨_, rfl, Eq.trans (by rw [commit_mem, hmem]) (mem_of_placeOf hp), by rw [commit_cpu, hcpu, cpu_of_placeOf hp]; rfl⟩
    · exact ⟨_, rfl, Eq.trans (commit_mem ..) (mem_of_placeOf hp), by rw [commit_cpu, cpu_of_placeOf hp]; rfl⟩
  · exact ⟨_, rfl, rfl, rfl⟩
  · exact ⟨_, rfl, rfl, rfl⟩

/-! Sync words (R160, R161). -/

/-- R256, R327: an atomic at a home of the strand's own die, none of whose packets is on its way, is performed. -/
theorem atomicFrom_near {i : Instr} {n : Nat} {act : TripAct} {f : List Byte → State → State} {old : List Byte} (ht : s.cpu.trip = none)
    (ha : awaySpan s va n .atomic = none) (hx : atomicMem s (s.who .scalar) va n act.new = .ok old s1) : atomicFrom i s va n act f = .next (f old s1) := by
  simp [atomicFrom, onTrip, ht, ha, hx, scalarAcc]

variable {o : Ops} {b : Binding}

/-- R161: the three forms of ACQ on the sync word. -/
theorem acqAction_new (o : Ops) (s : State) : (acqAction o s).new = fun v =>
    if o.C = 0 then none else if o.C = 1 then some (leBytes 8 (leNat v + (s.opB o.b).toNat)) else casBytes 8 (s.opB o.b).toNat (s.cpu.readG o.D).toNat v := by
  unfold acqAction
  split
  · next h => simp [h, TripAct.new]
  · next h => simp [h, TripAct.new]
  · next h0 h1 => simp [show o.C ≠ 0 from h0, show o.C ≠ 1 from h1, TripAct.new]

theorem acq_bound (hb : s.cpu.readBnd o.A = some b) : exec (.acq o) s =
    if postsOut s then .next s.park
    else atomicFrom (.acq o) s b.sync 8 (acqAction o s) (fun old t => wrote (discardRegion t o.scope b) o (BitVec.ofNat 64 (leNat old))) := by
  show execAcq o s = _
  simp only [execAcq, hb]
  rfl

theorem rel_bound (hb : s.cpu.readBnd o.A = some b) : exec (.rel o) s =
    if regionBusy s b then .next s.park else atomicFrom (.rel o) s b.sync 8 (relAction o s) (fun _ t => t.commit o.bytes id) := by
  show execRel o s = _
  simp only [execRel, hb]

theorem acq_rel_unbound (hb : s.cpu.readBnd o.A = none) :
    exec (.acq o) s = .next (scalarTrap s causeIllFld (BitVec.ofNat 64 o.A)) ∧ exec (.rel o) s = .next (scalarTrap s causeIllFld (BitVec.ofNat 64 o.A)) := by
  refine ⟨?_, ?_⟩
  · show execAcq o s = _
    simp only [execAcq, hb]
  · show execRel o s = _
    simp only [execRel, hb]

/-- R155: what a release of the region still waits for. -/
theorem regionBusy_eq_false : regionBusy s b = false ↔ accessQueued s = false ∧ (∀ e ∈ s.cpu.queue, e.writes = false)
    ∧ ∀ y ∈ pendingWrites s (myPieces s), regionMeets b y.1.toNat y.2 = false := by
  simp [regionBusy, and_assoc]

/-- R398: a blocking store on its way keeps every region busy. -/
theorem regionBusy_of_postsOut (h : postsOut s = true) : regionBusy s b = true := by
  simp [regionBusy, accessQueued, h]

/-! Fences (R156, R261). -/

theorem fence_waits (h : fenceBusy s o.T = true) : exec (.fence o) s = .next s.park := if_pos h

theorem fence_completes (h : fenceBusy s o.T = false) :
    exec (.fence o) s = .next ((if o.T = 7 then discardAll s o.scope else s).commit o.bytes id) := if_neg (by simp [h])

theorem mem_myPieces {x : Piece} : x ∈ myPieces s ↔ x ∈ s.pieces ∧ x.tid = s.cpu.tid := by simp [myPieces]

theorem fenceBusy_scalarStores : fenceBusy s 1 = false ↔ ∀ p ∈ s.pieces, p.tid = s.cpu.tid → p.isPost = false := by
  simp [fenceBusy, mem_myPieces]

theorem fenceBusy_vector : fenceBusy s 2 = false ↔ (∀ e ∈ s.cpu.queue, e.isVector = false) ∧ ∀ p ∈ s.pieces, p.tid = s.cpu.tid → p.what.isVector = false := by
  simp [fenceBusy, mem_myPieces]

theorem fenceBusy_memory : fenceBusy s 3 = false ↔ fenceBusy s 1 = false ∧ fenceBusy s 2 = false := by
  simp only [fenceBusy_scalarStores, fenceBusy_vector]
  simp [fenceBusy, mem_myPieces, forall_and]
  tauto

theorem fenceBusy_engines : fenceBusy s 4 = false ↔ (∀ e ∈ s.cpu.queue, e.isEngine = false ∧ e.nonBlocking = false) ∧ liveRuns s s.cpu = []
    ∧ ∀ p ∈ s.pieces, p.tid = s.cpu.tid → p.cc = none ∧ p.run = none := by
  simp [fenceBusy, runsBusy, mem_myPieces, forall_and]
  tauto

theorem fenceBusy_remote : fenceBusy s 5 = false ↔ (∀ e ∈ s.cpu.queue, e.writes = false)
    ∧ (∀ p ∈ s.pieces, p.tid = s.cpu.tid → p.what.writes = true → p.remote = false) ∧ ∀ y ∈ pendingWrites s (myPieces s), leavesDie s y = false := by
  simp [fenceBusy, mem_myPieces, and_assoc]

theorem fenceBusy_host : fenceBusy s 6 = false ↔ (∀ e ∈ s.cpu.queue, e.writes = false)
    ∧ (∀ p ∈ s.pieces, p.tid = s.cpu.tid → p.what.writes = true → p.place.hs = false) ∧ ∀ y ∈ pendingWrites s (myPieces s), touchesHs s y = false := by
  simp [fenceBusy, mem_myPieces, and_assoc]

theorem fenceBusy_full : fenceBusy s 7 = false ↔ s.cpu.queue = [] ∧ liveRuns s s.cpu = [] ∧ ∀ p ∈ s.pieces, p.tid ≠ s.cpu.tid := by
  simp [fenceBusy, runsBusy, myPieces, and_comm, and_left_comm]

end Instructions

/-- Settles O31: each instruction waits while its own test of unfinished work holds, and each kind of that test is spelled out. -/
theorem synchronisationCompletes : Obligations.SynchronisationCompletes := by
  intro s s1 o b old w x
  refine ⟨fun hb => ⟨fun hposts ht ha hx => ?_, fun hbusy ht ha hC hx => ?_, fun hbusy ht ha hC hx => ?_, fun hbusy => ?_, fun hposts => ⟨?_, ?_⟩,
      regionBusy_eq_false.mp⟩, acq_rel_unbound, fence_waits, fun h hT => ?_, fun h hT => ?_, fenceBusy_scalarStores, fenceBusy_vector, fenceBusy_memory,
    fenceBusy_engines, fenceBusy_remote, fenceBusy_host, fenceBusy_full, pref_completes s o⟩
  · rw [acq_bound hb, if_neg (by simp [hposts])]
    exact atomicFrom_near ht ha (by rw [acqAction_new]; exact hx)
  · rw [rel_bound hb, if_neg (by simp [hbusy]), relAction, if_pos hC]
    exact atomicFrom_near ht ha hx
  · rw [rel_bound hb, if_neg (by simp [hbusy]), relAction, if_neg hC]
    exact atomicFrom_near ht ha hx
  · rw [rel_bound hb, if_pos hbusy]
  · rw [acq_bound hb, if_pos hposts]
  · rw [rel_bound hb, if_pos (regionBusy_of_postsOut hposts)]
  · rw [fence_completes h, if_neg hT]
  · rw [fence_completes (hT ▸ h), if_pos hT]

/-! The addition to a byte counter whose page is spilled (R166, R169, R318). -/

/-- A piece that runs in the issuing core's own engine starts under the machine's next number, and sends no packet. -/
theorem startPiece_local (s : State) (p : Piece) (h : p.what.isLocal = true) :
    (startPiece s p).pieces = s.pieces ++ [{ p with id := s.next, sentAt := s.time, remote := false }] := by
  simp [startPiece, State.fresh, h]

/-- R169: while its counter's page is spilled, an addition is a piece under the machine's next number. -/
theorem addCounter_spilled {s s1 : State} {w : Who} {p : Place} {n : Nat} (h : arrive s w p 8 .atomic = .wait s1) :
    ∃ x ∈ (addCounter s w p n).pieces, x.id = s1.next := by
  simp only [addCounter, h]
  rw [startPiece_local _ _ rfl]
  exact ⟨_, List.mem_append_right _ List.mem_cons_self, rfl⟩

/-- The first byte of page 1, under a generation that its home no longer holds. -/
def oldCounter : Place := { kind := .pg, ha := 0x10000, va := 0x10000, gen := 1 }

/-- An RFETCH of one byte, which has been read, with a byte counter on page 1; its number is 1. -/
def counted : Piece :=
  { id := 1, op := 1, tid := 1, cc := none, place := { kind := .pg, ha := 0x20000, va := 0x20000 },
    what := .fetch { kind := .pg, ha := 0x30000, va := 0x30000 } 1, counter := some (oldCounter, 1), result := [5], vi := 0, level := .u,
    srcPkg := 0, srcDie := 0, srcCore := 0, srcSlot := 0 }

/-- A machine that gives number 1 next, and whose tables have page 1 spilled: the node map at 0x12000, the root at 0x14000, the leaf at 0x15008. -/
def pageSpilled : State :=
  { mem := [(0x12007, 0x80), (0x14000, 0x01), (0x14001, 0x50), (0x14002, 0x01), (0x15008, 0x1D), (0x15009, 0x08), (0x1500A, 0x01)],
    vis := [(0, { nodemap := 0x12000, nodecnt := 1 })], chans := [(0, { roots := [(0, 0x14000)], freeFrames := [5] })], pageIns := [(0, 0x10000)] }

/-- The machine once the byte of the RFETCH stands at its destination. -/
def byteWritten : State := (writePlace pageSpilled counted.who .engine { kind := .pg, ha := 0x30000, va := 0x30000 } [5] false).1

theorem deliver_counted : deliver pageSpilled counted .ok = .ok (.ok, counted) byteWritten := rfl

/-- R318: with its last byte written, the RFETCH adds to its counter. -/
theorem endPiece_counted : endPiece pageSpilled counted .ok = addCounter (endAtTask byteWritten counted .ok true) counted.who oldCounter 1 := rfl

/-- R122: the counter's page is walked, and found spilled. -/
theorem arrive_oldCounter : ∃ s1, arrive (endAtTask byteWritten counted .ok true) counted.who oldCounter 8 .atomic = .wait s1 ∧ s1.next = counted.id :=
  ⟨_, rfl, rfl⟩

/-- Refutes O56: the statement has no piece carry the number of one that has ended, whatever that number is. An RFETCH that ends while its counter's page is
spilled leaves the addition as a piece of its own (log entry 78), which carries the machine's next number; the statement does not say that the ended piece
had an earlier one. -/
theorem not_piecesAndPacketsEnd : ¬ Obligations.PiecesAndPacketsEnd := by
  intro h
  obtain ⟨-, -, -, -, -, -, -, -, -, -, -, -, -, hended, -⟩ := h pageSpilled byteWritten counted counted { kind := .readReply } .ok
  obtain ⟨s1, hwait, hnext⟩ := arrive_oldCounter
  obtain ⟨x, hx, hid⟩ := addCounter_spilled (n := 1) hwait
  rw [← endPiece_counted] at hx
  exact hended (.ok, counted) deliver_counted x hx (hid.trans hnext)

end Sys2Proof.Proofs.Consistency

/-! The obligations of spec/11_encoding.md: words and instructions stand for each other (R177 to R192, R194), operand B (R180, R182, R185), and what a
pair does (R190 to R193). -/

namespace Sys2Proof.Proofs.Encoding

open Sys2Proof Sys2Proof.Machine Sys2Proof.Safety Sys2Proof.Claims Sys2Proof.Laws

/-! The map of operation codes (R195). -/

/-- R179: a row with no operand and no type, which accepts one value of the fields. -/
def bare (f : Form) : Bool := f.d == .zero && f.a == .zero && f.c == .zero && f.types == 0x8000 && !f.masked && f.b == .none

/-- The instruction of operation code `op` with the fields `o`: its row has that code, and it carries those fields where the row has operands. -/
def IsRow (op : Nat) (o : Ops) (i : Instr) : Prop :=
  ∃ f, i.form = some f ∧ f.op = op ∧ opAssigned op = true ∧ i.ops? = some (if bare f then Ops.bare else o)

theorem mtsrOf_isRow (o : Ops) : IsRow 0x0A1 o (mtsrOf o) := by
  unfold mtsrOf
  split <;> exact ⟨_, rfl, rfl, rfl, rfl⟩

theorem tlbinvOf_isRow (o : Ops) : IsRow 0x0A5 o (tlbinvOf o) := by
  unfold tlbinvOf
  split <;> exact ⟨_, rfl, rfl, rfl, rfl⟩

theorem waitevOf_isRow (o : Ops) : IsRow 0x0AA o (waitevOf o) := by
  unfold waitevOf
  split <;> exact ⟨_, rfl, rfl, rfl, rfl⟩

/-- The table that the families spell out: each entry with its operation code. -/
def opTable : List ((Ops → Instr) × Nat) := opFamilies.flatMap (fun p => p.2.zipIdx p.1)

/-- R195: each entry of the table is the row of its operation code. -/
theorem opTable_isRow (o : Ops) : ∀ p ∈ opTable, IsRow p.2 o (p.1 o) := by
  simp only [opTable, opFamilies, List.flatMap_cons, List.flatMap_nil, List.append_nil, List.forall_mem_append,
    scalarIntegerOps, scalarFloatOps, controlOps, scalarMemoryOps, systemOps, vectorConfigOps, vectorIntegerOps, vectorFloatOps, permutationOps,
    vectorMemoryOps, vectorAtomicOps, matrixOps, verdictOps, streamOps, fabricOps, List.zipIdx_cons, List.zipIdx_nil, List.forall_mem_cons,
    Nat.reduceAdd, List.not_mem_nil, false_implies, implies_true, mtsrOf_isRow, tlbinvOf_isRow, waitevOf_isRow, true_and, and_true]
  and_intros <;> exact ⟨_, rfl, rfl, rfl, rfl⟩

/-- What the map answers stands in the table. -/
theorem exists_mem_of_instrOfOp {op : Nat} {o : Ops} {i : Instr} {l : List (Nat × List (Ops → Instr))} (h : instrOfOp op o l = some i) :
    ∃ g, (g, op) ∈ l.flatMap (fun p => p.2.zipIdx p.1) ∧ g o = i := by
  induction l with
  | nil => cases h
  | cons p rest ih =>
    rw [instrOfOp] at h
    split at h
    · next hr =>
      obtain ⟨g, hg, rfl⟩ := Option.map_eq_some_iff.mp h
      exact ⟨g, List.mem_append_left _ (List.mk_mem_zipIdx_iff_le_and_getElem?_sub.mpr ⟨hr.1, hg⟩), rfl⟩
    · obtain ⟨g, hg, rfl⟩ := ih h
      exact ⟨g, List.mem_append_right _ hg, rfl⟩

theorem isRow_of_instrOfOp {op : Nat} {o : Ops} {i : Instr} (h : instrOfOp op o opFamilies = some i) : IsRow op o i := by
  obtain ⟨g, hg, rfl⟩ := exists_mem_of_instrOfOp h
  exact opTable_isRow o (g, op) hg

/-- R179: the only fields that a row without operands accepts. -/
theorem eq_bare_of_ok {f : Form} {o : Ops} (hf : bare f = true) (h : f.ok o = true) : o = Ops.bare := by
  obtain ⟨d, a, c, t, m, b⟩ := o
  have htype : ∀ t : BitVec 4, Nat.testBit 0x8000 t.toNat = true → t = 15 := by decide
  simp only [bare, Bool.and_eq_true, beq_iff_eq, Bool.not_eq_true'] at hf
  obtain ⟨⟨⟨⟨⟨hd, ha⟩, hc⟩, ht⟩, hm⟩, hb⟩ := hf
  simp only [Form.ok, hd, ha, hc, ht, hm, hb, Field.ok, BForm.ok, Bool.and_eq_true, Bool.false_or, beq_iff_eq] at h
  obtain ⟨⟨⟨⟨⟨⟨⟨h1, h2⟩, h3⟩, h4⟩, h5⟩, h6⟩, -⟩, -⟩ := h
  rw [htype t h4, h5, h6, BitVec.eq_of_toNat_eq (y := 0) h1, BitVec.eq_of_toNat_eq (y := 0) h2, BitVec.eq_of_toNat_eq (y := 0) h3]
  rfl

theorem extra_of_ok {f : Form} {o : Ops} (h : f.ok o = true) : f.extra o = true := (Bool.and_eq_true_iff.mp h).2

theorem c_ok_of_ok {f : Form} {o : Ops} (h : f.ok o = true) : f.c.ok o.c.toNat o.m.toNat = true := by
  simp only [Form.ok, Bool.and_eq_true] at h
  obtain ⟨⟨⟨⟨⟨⟨-, hc⟩, -⟩, -⟩, -⟩, -⟩, -⟩ := h
  exact hc

theorem srGroupOf_of_srGroup {o : Ops} {g : SrGroup} (h : srGroup g o = true) : srGroupOf o.b.bits = g := by
  simp only [srGroup, Bool.and_eq_true, beq_iff_eq] at h
  exact h.2

theorem tlbinvOf_eq (o : Ops) : tlbinvOf o = if o.c.toNat = 1 then .tlbinvDie o else .tlbinv o := by simp [tlbinvOf, BitVec.toNat_eq]

theorem waitevOf_eq (o : Ops) : waitevOf o = if o.c.toNat = 1 then .waitevArm o else .waitev o := by simp [waitevOf, BitVec.toNat_eq]

/-- R195: the map answers an instruction at the operation code of its row. -/
theorem instrOfOp_of_form {i : Instr} {f : Form} {o : Ops} (hf : i.form = some f) (ho : i.ops? = some o) (hok : f.ok o = true) :
    instrOfOp f.op o opFamilies = some i := by
  have hx := extra_of_ok hok
  have hc := c_ok_of_ok hok
  cases i
  case mtsr | mtsrVl | mtsrVstart | mtsrVfs | mtsrLanemap | mtsrTm | mtsrTn | mtsrTk | mtsrTrow | mtsrTstat | mtsrTtype | mtsrFpflags | mtsrCc
      | mtsrMmode | mtsrTimer | mtsrTstatus | mtsrTvecGtbGtn =>
    cases hf; cases ho
    show some (mtsrOf o) = _
    rw [mtsrOf, srGroupOf_of_srGroup hx]
  case tlbinv | tlbinvDie =>
    cases hf; cases ho
    show some (tlbinvOf o) = _
    simp_all [tlbinvOf_eq, Field.ok]
  case waitev | waitevArm =>
    cases hf; cases ho
    show some (waitevOf o) = _
    simp_all [waitevOf_eq, Field.ok]
  all_goals cases hf <;> cases ho <;> rfl

/-- R194, R195: the instruction of an operation code with some fields is the one whose row has the code and accepts the fields. -/
theorem instrOf_eq_some {op : Nat} {o : Ops} {i : Instr} :
    instrOf op o = some i ↔ ∃ f, i.form = some f ∧ f.op = op ∧ i.ops? = some o ∧ f.ok o = true := by
  constructor
  · intro h
    unfold instrOf at h
    cases hi : instrOfOp op o opFamilies with
    | none => simp [hi] at h
    | some j =>
      obtain ⟨f, hf, hop, -, ho⟩ := isRow_of_instrOfOp hi
      simp only [hi, hf, Option.ite_none_right_eq_some, Option.some.injEq] at h
      obtain ⟨hok, rfl⟩ := h
      refine ⟨f, hf, hop, ?_, hok⟩
      split at ho
      · next hb => rw [ho, eq_bare_of_ok hb hok]
      · exact ho
  · rintro ⟨f, hf, rfl, ho, hok⟩
    simp [instrOf, instrOfOp_of_form hf ho hok, hf, hok]

/-- R195: the operation code of a row is assigned. -/
theorem opAssigned_of_instrOf {op : Nat} {o : Ops} {i : Instr} (h : instrOf op o = some i) : opAssigned op = true := by
  obtain ⟨f, hf, rfl, ho, hok⟩ := instrOf_eq_some.mp h
  obtain ⟨f', -, -, hop, -⟩ := isRow_of_instrOfOp (instrOfOp_of_form hf ho hok)
  exact hop

theorem lt_of_opAssigned {op : Nat} (h : opAssigned op = true) : op < 512 := by
  simp only [opAssigned, Bool.or_eq_true, Bool.and_eq_true, decide_eq_true_eq] at h
  omega

/-! The literal that an F-form word takes from the next one (R178, R182). -/

/-- The fields with a literal for operand B. -/
def withLit (o : Ops) (x : BitVec 32) : Ops := { o with b := .lit x }

/-- R198: but for MTSR, a row that accepts a literal accepts the literal 0 in its place. -/
theorem extra_lit_zero {i : Instr} {f : Form} {o : Ops} {x : BitVec 32} (hf : i.form = some f) (hop : f.op ≠ 0x0A1)
    (h : f.extra (withLit o x) = true) : f.extra (withLit o 0) = true := by
  cases i
  case gate | mfsr | trap | brk | vconfig | barrier => cases hf; rfl
  all_goals cases hf <;> simp only [ne_eq, not_true_eq_false] at hop <;> exact h

/-- R180, R189: of the literals a row's fields accept all or none; its further conditions may tell them apart. -/
theorem ok_withLit {f g : Form} {o : Ops} {x y : BitVec 32} (hg : g = { f with queued := g.queued, extra := g.extra })
    (h : f.ok (withLit o x) = true) (hy : g.extra (withLit o y) = true) : g.ok (withLit o y) = true := by
  have hb : f.b.ok o.t.toNat o.c.toNat (.lit y) = f.b.ok o.t.toNat o.c.toNat (.lit x) := by cases f.b <;> rfl
  rw [hg]
  simp only [Form.ok, withLit, Bool.and_eq_true] at h ⊢
  obtain ⟨⟨hrest, hform⟩, -⟩ := h
  exact ⟨⟨hb ▸ hrest, hform⟩, hy⟩

/-- R348: the row of an MTSR of a group of registers. -/
def mtsrRow (g : SrGroup) (queued : Bool) : Form := ⟨0x0A1, .zero, .gSrc, .zero, 0x8000, false, .lit, queued, .u, srGroup g⟩

theorem eq_mtsrRow {i : Instr} {f : Form} (hf : i.form = some f) (hop : f.op = 0x0A1) : ∃ g q, f = mtsrRow g q := by
  cases i <;> cases hf <;> cases hop <;> exact ⟨_, _, rfl⟩

/-- But for MTSR, the map answers an instruction of the same row whatever the literal is. -/
theorem exists_form_withLit {i : Instr} {f : Form} {o : Ops} {x y : BitVec 32} (hf : i.form = some f) (hop : f.op ≠ 0x0A1)
    (hok : f.ok (withLit o x) = true) : ∃ j, instrOfOp f.op (withLit o y) opFamilies = some j ∧ j.form = some f := by
  have hc := c_ok_of_ok hok
  cases i
  case tlbinv | tlbinvDie => cases hf; simp [Form.ok, BForm.ok, withLit, OperandB.isReg] at hok
  case waitev | waitevArm =>
    cases hf
    refine ⟨_, show some (waitevOf _) = _ from rfl, ?_⟩
    simp_all [waitevOf_eq, Field.ok, withLit, Instr.form]
  all_goals cases hf <;> simp only [ne_eq, not_true_eq_false] at hop <;> exact ⟨_, rfl, rfl⟩

/-- R178, R194: whether the word's own fields are legal does not rest on the value of its literal. -/
theorem isSome_instrOf_lit_zero {i : Instr} {f : Form} {o : Ops} {x : BitVec 32} (hf : i.form = some f) (hok : f.ok (withLit o x) = true) :
    (instrOf f.op (withLit o 0)).isSome = true := by
  by_cases hop : f.op = 0x0A1
  · obtain ⟨g, q, rfl⟩ := eq_mtsrRow hf hop
    have hok0 : (mtsrRow .other false).ok (withLit o 0) = true := ok_withLit rfl hok rfl
    exact Option.isSome_iff_exists.mpr ⟨.mtsr (withLit o 0), instrOf_eq_some.mpr ⟨mtsrRow .other false, rfl, rfl, rfl, hok0⟩⟩
  · have hok0 := ok_withLit rfl hok (extra_lit_zero hf hop (extra_of_ok hok))
    obtain ⟨j, hj, hjf⟩ := exists_form_withLit (y := 0) hf hop hok
    rw [instrOf, hj]
    simp only [hjf, hok0]
    rfl

/-! Fields of bits. -/

theorem bitsOf_lt (n hi lo : Nat) : bitsOf n hi lo < 2 ^ (hi + 1 - lo) := Nat.mod_lt _ (Nat.two_pow_pos _)

/-- The bits below `hi + 1` are a field and the bits below it. -/
theorem mod_eq_bitsOf_add_mod (n : Nat) {k hi lo : Nat} (hk : k = hi + 1) (h : lo ≤ k) : n % 2 ^ k = bitsOf n hi lo * 2 ^ lo + n % 2 ^ lo := by
  subst hk
  rw [bitsOf, ← Nat.add_sub_of_le h, Nat.pow_add, Nat.mod_mul, Nat.add_sub_of_le h, Nat.add_comm, Nat.mul_comm]

/-- A field kept at its own width. -/
theorem toNat_ofNat_bitsOf (n : Nat) {k hi lo : Nat} (h : hi + 1 - lo = k) : (BitVec.ofNat k (bitsOf n hi lo)).toNat = bitsOf n hi lo := by
  subst h
  rw [BitVec.toNat_ofNat, Nat.mod_eq_of_lt (bitsOf_lt n hi lo)]

theorem ofNat_bitsOf_eq {n k hi lo : Nat} {x : BitVec k} (h : bitsOf n hi lo = x.toNat) : BitVec.ofNat k (bitsOf n hi lo) = x := by
  rw [h, BitVec.ofNat_toNat, BitVec.setWidth_eq]

/-! The words of an instruction (R178, R179, R188). -/

/-- The number that an F-form word stands for. -/
theorem encodeF_toNat {op : Nat} (o : Ops) (hop : op < 512) : (encodeF op o).toNat = op * 2 ^ 52 + o.d.toNat * 2 ^ 46 + o.a.toNat * 2 ^ 40
    + o.c.toNat * 2 ^ 34 + o.t.toNat * 2 ^ 30 + o.m.toNat * 2 ^ 27 + o.b.bk * 2 ^ 25 + o.b.bx ∧ o.b.bk < 4 ∧ o.b.bx < 2 ^ 25 := by
  have hbk : o.b.bk < 4 := by cases o.b <;> simp [OperandB.bk]
  have hbx : o.b.bx < 2 ^ 25 := by cases o.b <;> simp only [OperandB.bx] <;> omega
  refine ⟨?_, hbk, hbx⟩
  rw [encodeF, BitVec.toNat_ofNat, Nat.mod_eq_of_lt (by omega)]

section FForm

variable {op : Nat} (o : Ops) (hop : op < 512)
include hop

theorem wordForm_encodeF : wordForm (encodeF op o) = 0 := by
  obtain ⟨h, _, _⟩ := encodeF_toNat o hop
  rw [wordForm, h]
  omega

theorem wordOp_encodeF : wordOp (encodeF op o) = op := by
  obtain ⟨h, _, _⟩ := encodeF_toNat o hop
  rw [wordOp, bitsOf, h]
  omega

theorem wordBk_encodeF : wordBk (encodeF op o) = o.b.bk := by
  obtain ⟨h, _, _⟩ := encodeF_toNat o hop
  rw [wordBk, bitsOf, h]
  omega

theorem bx_encodeF : bitsOf (encodeF op o).toNat 24 0 = o.b.bx := by
  obtain ⟨h, _, _⟩ := encodeF_toNat o hop
  rw [bitsOf, h]
  omega

theorem opsOfF_encodeF (b : OperandB) : opsOfF (encodeF op o) b = { o with b := b } := by
  obtain ⟨h, _, _⟩ := encodeF_toNat o hop
  simp only [opsOfF, Ops.mk.injEq, and_true]
  refine ⟨?_, ?_, ?_, ?_, ?_⟩ <;> apply ofNat_bitsOf_eq <;> rw [bitsOf, h] <;> omega

end FForm

/-! The parts of BX (R180). -/

theorem bits_24_19 (n : Nat) : bitsOf n 24 19 = bitsOf n 24 0 / 2 ^ 19 := by simp only [bitsOf]; omega
theorem bits_18_0 (n : Nat) : bitsOf n 18 0 = bitsOf n 24 0 % 2 ^ 19 := by simp only [bitsOf]; omega
theorem bits_24_8 (n : Nat) : bitsOf n 24 8 = bitsOf n 24 0 / 2 ^ 8 := by simp only [bitsOf]; omega
theorem bits_7_0 (n : Nat) : bitsOf n 7 0 = bitsOf n 24 0 % 2 ^ 8 := by simp only [bitsOf]; omega

theorem wordBk_lt (w : Word) : wordBk w < 4 := by simp only [wordBk, bitsOf]; omega

/-- R180, R182: operand B of a word that takes a literal. -/
theorem operandOfF_lit {w : Word} (h : wordBk w = 3) (x : BitVec 32) : operandOfF w x = .lit x := by simp [operandOfF, h]

/-- R180: a word whose BK and BX are those of an operand other than a literal has that operand. -/
theorem operandOfF_of_bx {w : Word} {b : OperandB} (hb : b.bk ≠ 3) (hbk : wordBk w = b.bk) (hbx : bitsOf w.toNat 24 0 = b.bx) (x : BitVec 32) :
    operandOfF w x = b := by
  cases b with
  | reg r y =>
    have hr : BitVec.ofNat 6 ((r.toNat * 2 ^ 19 + y.toNat) / 2 ^ 19) = r := BitVec.eq_of_toNat_eq (by rw [BitVec.toNat_ofNat]; omega)
    have hy : BitVec.ofNat 19 ((r.toNat * 2 ^ 19 + y.toNat) % 2 ^ 19) = y := BitVec.eq_of_toNat_eq (by rw [BitVec.toNat_ofNat]; omega)
    simp only [operandOfF, hbk, OperandB.bk, bits_24_19, bits_18_0, hbx, OperandB.bx, hr, hy]
    rfl
  | imm y => simp [operandOfF, hbk, hbx, OperandB.bk, OperandB.bx]
  | kbank k =>
    have hk : BitVec.ofNat 8 (k.toNat % 2 ^ 8) = k := BitVec.eq_of_toNat_eq (by rw [BitVec.toNat_ofNat]; omega)
    simp only [operandOfF, hbk, OperandB.bk, bits_7_0, hbx, OperandB.bx, hk]
    rfl
  | lit y => exact absurd rfl hb
  | limm y => exact absurd rfl hb

/-- R180: the bits of BX that an operand leaves unused are zero. -/
theorem bxOk_of_bx {w : Word} {b : OperandB} (hbk : wordBk w = b.bk) (hbx : bitsOf w.toNat 24 0 = b.bx) : bxOk w = true := by
  cases b with
  | reg r y => simp [bxOk, hbk, OperandB.bk]
  | imm y => simp [bxOk, hbk, OperandB.bk]
  | kbank k =>
    have hk : k.toNat / 2 ^ 8 = 0 := by omega
    simp only [bxOk, hbk, bits_24_8, hbx, OperandB.bk, OperandB.bx, hk]
    rfl
  | lit y => simp [bxOk, hbk, hbx, OperandB.bk, OperandB.bx]
  | limm y => simp [bxOk, hbk, hbx, OperandB.bk, OperandB.bx]

/-- R180: BK and BX of the operand that a legal word has. -/
theorem bx_operandOfF {w : Word} (h : bxOk w = true) (x : BitVec 32) : (operandOfF w x).bk = wordBk w ∧ (operandOfF w x).bx = bitsOf w.toNat 24 0 := by
  have hlt : bitsOf w.toNat 24 0 < 2 ^ 25 := by simp only [bitsOf]; omega
  have h4 := wordBk_lt w
  unfold operandOfF
  unfold bxOk at h
  split_ifs with h0 h1 h2
  · simp only [beq_iff_eq] at h0
    simp only [OperandB.bk, OperandB.bx, h0, BitVec.toNat_ofNat, bits_24_19, bits_18_0, true_and]
    omega
  · simp only [beq_iff_eq] at h1
    simp only [OperandB.bk, OperandB.bx, h1, BitVec.toNat_ofNat, true_and]
    omega
  · simp only [beq_iff_eq] at h2
    simp only [h2, BEq.rfl, if_true, bits_24_8, beq_iff_eq] at h
    simp only [OperandB.bk, OperandB.bx, h2, BitVec.toNat_ofNat, bits_7_0, true_and]
    omega
  · simp only [beq_iff_eq] at h0 h1 h2
    have h3 : wordBk w = 3 := by omega
    simp only [h3] at h
    simp_all [OperandB.bk, OperandB.bx]

/-- R179: a word of the F-form is the one of its fields. -/
theorem encodeF_opsOfF {w : Word} {b : OperandB} (hw : wordForm w = 0) (hbk : b.bk = wordBk w) (hbx : b.bx = bitsOf w.toNat 24 0) :
    encodeF (wordOp w) (opsOfF w b) = w := by
  have hop : wordOp w < 512 := by simp only [wordOp, bitsOf]; omega
  obtain ⟨h, -, -⟩ := encodeF_toNat (opsOfF w b) hop
  have hsplit := Nat.div_add_mod w.toNat (2 ^ 61)
  rw [show w.toNat / 2 ^ 61 = 0 from hw, mod_eq_bitsOf_add_mod (hi := 60) (lo := 52) _ rfl (by decide), mod_eq_bitsOf_add_mod (hi := 51) (lo := 46) _ rfl (by decide),
    mod_eq_bitsOf_add_mod (hi := 45) (lo := 40) _ rfl (by decide), mod_eq_bitsOf_add_mod (hi := 39) (lo := 34) _ rfl (by decide),
    mod_eq_bitsOf_add_mod (hi := 33) (lo := 30) _ rfl (by decide), mod_eq_bitsOf_add_mod (hi := 29) (lo := 27) _ rfl (by decide),
    mod_eq_bitsOf_add_mod (hi := 26) (lo := 25) _ rfl (by decide), mod_eq_bitsOf_add_mod (hi := 24) (lo := 0) _ rfl (by decide), pow_zero, Nat.mod_one] at hsplit
  apply BitVec.eq_of_toNat_eq
  rw [h]
  simp only [opsOfF, hbk, hbx, wordBk, wordOp, toNat_ofNat_bitsOf]
  omega

/-! The L-form (R188, R189). -/

theorem encodeL_toNat {op : Nat} (o : Ops) (x : BitVec 32) (hop : op < 512) : (encodeL op o x).toNat = 2 * 2 ^ 61 + op * 2 ^ 52 + o.d.toNat * 2 ^ 46
    + o.a.toNat * 2 ^ 40 + o.t.toNat * 2 ^ 36 + o.m.toNat * 2 ^ 33 + x.toNat := by
  rw [encodeL, BitVec.toNat_ofNat, Nat.mod_eq_of_lt (by omega)]

section LForm

variable {op : Nat} (o : Ops) (x : BitVec 32) (hop : op < 512)
include hop

theorem wordForm_encodeL : wordForm (encodeL op o x) = 2 := by
  rw [wordForm, encodeL_toNat o x hop]
  omega

theorem wordOp_encodeL : wordOp (encodeL op o x) = op := by
  rw [wordOp, bitsOf, encodeL_toNat o x hop]
  omega

theorem bit32_encodeL : bitsOf (encodeL op o x).toNat 32 32 = 0 := by
  rw [bitsOf, encodeL_toNat o x hop]
  omega

theorem opsOfL_encodeL : opsOfL (encodeL op o x) = { o with c := 0, b := .limm x } := by
  simp only [opsOfL, Ops.mk.injEq, OperandB.limm.injEq, true_and]
  refine ⟨?_, ?_, ?_, ?_, ?_⟩ <;> apply ofNat_bitsOf_eq <;> rw [bitsOf, encodeL_toNat o x hop] <;> omega

end LForm

/-- R188: a word of the L-form with bit 32 zero is the one of its fields. -/
theorem encodeL_opsOfL {w : Word} (hw : wordForm w = 2) (h32 : bitsOf w.toNat 32 32 = 0) :
    encodeL (wordOp w) (opsOfL w) (BitVec.ofNat 32 (bitsOf w.toNat 31 0)) = w := by
  have hop : wordOp w < 512 := by simp only [wordOp, bitsOf]; omega
  have hsplit := Nat.div_add_mod w.toNat (2 ^ 61)
  rw [show w.toNat / 2 ^ 61 = 2 from hw, mod_eq_bitsOf_add_mod (hi := 60) (lo := 52) _ rfl (by decide), mod_eq_bitsOf_add_mod (hi := 51) (lo := 46) _ rfl (by decide),
    mod_eq_bitsOf_add_mod (hi := 45) (lo := 40) _ rfl (by decide), mod_eq_bitsOf_add_mod (hi := 39) (lo := 36) _ rfl (by decide),
    mod_eq_bitsOf_add_mod (hi := 35) (lo := 33) _ rfl (by decide), mod_eq_bitsOf_add_mod (hi := 32) (lo := 32) _ rfl (by decide), h32,
    mod_eq_bitsOf_add_mod (hi := 31) (lo := 0) _ rfl (by decide), pow_zero, Nat.mod_one] at hsplit
  apply BitVec.eq_of_toNat_eq
  rw [encodeL_toNat _ _ hop]
  simp only [opsOfL, wordOp, toNat_ofNat_bitsOf]
  omega

/-! Literal words (R182). -/

theorem literalWord_toNat (x : BitVec 32) : (literalWord x).toNat = 7 * 2 ^ 61 + x.toNat := by
  rw [literalWord, BitVec.toNat_ofNat, Nat.mod_eq_of_lt (by omega)]

theorem isLiteralWord_literalWord (x : BitVec 32) : isLiteralWord (literalWord x) = true := by
  simp only [isLiteralWord, wordForm, bitsOf, literalWord_toNat, Bool.and_eq_true, beq_iff_eq]
  omega

theorem literalValue_literalWord (x : BitVec 32) : literalValue (literalWord x) = x := by
  apply BitVec.eq_of_toNat_eq
  simp only [literalValue, bitsOf, literalWord_toNat, BitVec.toNat_ofNat]
  omega

theorem literalWord_literalValue {w : Word} (h : isLiteralWord w = true) : literalWord (literalValue w) = w := by
  apply BitVec.eq_of_toNat_eq
  simp only [isLiteralWord, wordForm, bitsOf, Bool.and_eq_true, beq_iff_eq] at h
  simp only [literalWord_toNat, literalValue, bitsOf, BitVec.toNat_ofNat]
  omega

/-! Pairs (R190 to R192). -/

theorem slotOpOf_code (op : SlotOp) : slotOpOf op.code = some op := by cases op <;> rfl

theorem code_lt (op : SlotOp) : op.code < 2 ^ 8 := by cases op <;> decide

theorem code_of_slotOpOf {n : Nat} {op : SlotOp} (h : slotOpOf n = some op) : op.code = n := by
  unfold slotOpOf at h
  split at h <;> cases h <;> rfl

/-- The bits of a slot: its operation, D, and the source below bit 16. -/
theorem slot_code_eq (x : Slot) : ∃ src, x.code = x.op.code * 2 ^ 22 + x.d.toNat * 2 ^ 16 + src
    ∧ ((∃ r, x.src = .reg r ∧ src = r.toNat * 2 ^ 9) ∨ ∃ y, x.src = .imm y ∧ src = 2 ^ 15 + y.toNat) := by
  obtain ⟨op, d, src⟩ := x
  cases src with
  | reg r => exact ⟨_, rfl, .inl ⟨r, rfl, rfl⟩⟩
  | imm y => exact ⟨_, rfl, .inr ⟨y, rfl, rfl⟩⟩

theorem slot_code_lt (x : Slot) : x.code < 2 ^ 30 := by
  have hop := code_lt x.op
  obtain ⟨src, hx, ⟨r, -, h⟩ | ⟨y, -, h⟩⟩ := slot_code_eq x <;> omega

/-- R190: the bits of a slot stand for it. -/
theorem slotOf_code (x : Slot) : slotOf x.code = some x := by
  have hlt := code_lt x.op
  obtain ⟨src, hx, hsrc⟩ := slot_code_eq x
  have hsmall : src < 2 ^ 16 := by obtain ⟨r, -, h⟩ | ⟨y, -, h⟩ := hsrc <;> omega
  have hop : bitsOf x.code 29 22 = x.op.code := by rw [hx, bitsOf]; omega
  have hd : bitsOf x.code 21 16 = x.d.toNat := by rw [hx, bitsOf]; omega
  rw [slotOf, hop, slotOpOf_code, ofNat_bitsOf_eq hd]
  obtain ⟨r, hr, h⟩ | ⟨y, hy, h⟩ := hsrc
  · have h15 : bitsOf x.code 15 15 = 0 := by rw [hx, h, bitsOf]; omega
    have h8 : bitsOf x.code 8 0 = 0 := by rw [hx, h, bitsOf]; omega
    have hreg : bitsOf x.code 14 9 = r.toNat := by rw [hx, h, bitsOf]; omega
    simp [h15, h8, ofNat_bitsOf_eq hreg, ← hr]
  · have h15 : bitsOf x.code 15 15 = 1 := by rw [hx, h, bitsOf]; omega
    have himm : bitsOf x.code 14 0 = y.toNat := by rw [hx, h, bitsOf]; omega
    simp [h15, ofNat_bitsOf_eq himm, ← hy]

/-- R190: the slot that 30 bits stand for has those bits. -/
theorem code_of_slotOf {n : Nat} {x : Slot} (hn : n < 2 ^ 30) (h : slotOf n = some x) : x.code = n := by
  have hsplit : n = bitsOf n 29 22 * 2 ^ 22 + bitsOf n 21 16 * 2 ^ 16 + bitsOf n 15 15 * 2 ^ 15 + bitsOf n 14 0 := by simp only [bitsOf]; omega
  have hreg : bitsOf n 14 0 = bitsOf n 14 9 * 2 ^ 9 + bitsOf n 8 0 := by simp only [bitsOf]; omega
  have h15 : bitsOf n 15 15 < 2 := bitsOf_lt n 15 15
  unfold slotOf at h
  cases hop : slotOpOf (bitsOf n 29 22) with
  | none => rw [hop] at h; cases h
  | some op =>
    have hcode := code_of_slotOpOf hop
    rw [hop] at h
    dsimp only at h
    split_ifs at h with himm h0
    all_goals
      rw [beq_iff_eq] at himm
      obtain rfl := Option.some.inj h
      simp only [Slot.code, hcode, toNat_ofNat_bitsOf]
    · omega
    · rw [beq_iff_eq] at h0
      omega

/-! Decoding (R194). -/

theorem decodeF_eq_instr {w following : Word} {i : Instr} {n : Nat} : decodeF w following = .instr i n ↔
    ownFieldsOk w = true ∧ (wordBk w = 3 → isLiteralWord following = true)
      ∧ instrOf (wordOp w) (opsOfF w (operandOfF w (literalValue following))) = some i ∧ (if wordBk w = 3 then 2 else 1) = n := by
  unfold decodeF
  cases hown : ownFieldsOk w
  · simp
  · by_cases hlit : wordBk w = 3 <;> cases hf : isLiteralWord following <;>
      cases instrOf (wordOp w) (opsOfF w (operandOfF w (literalValue following))) <;> simp [hlit]

theorem decodeL_eq_instr {w : Word} {i : Instr} {n : Nat} : decodeL w = .instr i n ↔
    bitsOf w.toNat 32 32 = 0 ∧ instrOf (wordOp w) (opsOfL w) = some i ∧ 1 = n := by
  unfold decodeL
  by_cases h32 : bitsOf w.toNat 32 32 = 0 <;> cases instrOf (wordOp w) (opsOfL w) <;> simp [h32]

theorem decode_fForm {w : Word} (following : Word) (hw : wordForm w = 0) (hop : opAssigned (wordOp w) = true) :
    decode w following = decodeF w following := by simp [decode, isIllegalOpcode, hw, hop]

theorem decode_lForm {w : Word} (following : Word) (hw : wordForm w = 2) (hop : opAssigned (wordOp w) = true) :
    decode w following = decodeL w := by simp [decode, isIllegalOpcode, hw, hop]

theorem decode_pForm {w following : Word} {i : Instr} {n : Nat} (hw : wordForm w = 1) :
    decode w following = .instr i n ↔ pairOf w = some i ∧ 1 = n := by
  cases hp : pairOf w <;> simp [decode, isIllegalOpcode, hw, hp]

theorem decode_literal {w : Word} (following : Word) (hw : wordForm w = 7) : decode w following = .instr (.literalWordExecute w) 1 := by
  simp [decode, hw]

theorem decode_illegal {w : Word} (following : Word) (h : isIllegalOpcode w = true) : decode w following = .instr (.illegalOpcodeWord w) 1 := by
  have hw : wordForm w ≠ 7 := by
    intro h7
    simp [isIllegalOpcode, h7] at h
  simp [decode, hw, h]

theorem wordForm_lt (w : Word) : wordForm w < 8 := by simp only [wordForm]; omega

/-- R177, R194: the forms of word that decode to an instruction. -/
theorem decode_forms {w following : Word} {i : Instr} {n : Nat} (h : decode w following = .instr i n) :
    (wordForm w = 7 ∧ i = .literalWordExecute w ∧ n = 1) ∨ (isIllegalOpcode w = true ∧ i = .illegalOpcodeWord w ∧ n = 1)
      ∨ (wordForm w = 1 ∧ pairOf w = some i ∧ 1 = n) ∨ (wordForm w = 0 ∧ decodeF w following = .instr i n)
      ∨ (wordForm w = 2 ∧ decodeL w = .instr i n) := by
  have hlt := wordForm_lt w
  by_cases h7 : wordForm w = 7
  · rw [decode_literal following h7] at h
    cases h
    exact .inl ⟨h7, rfl, rfl⟩
  by_cases hill : isIllegalOpcode w = true
  · rw [decode_illegal following hill] at h
    cases h
    exact .inr (.inl ⟨hill, rfl, rfl⟩)
  by_cases h1 : wordForm w = 1
  · exact .inr (.inr (.inl ⟨h1, (decode_pForm h1).mp h⟩))
  simp only [isIllegalOpcode, Bool.or_eq_true, Bool.and_eq_true, decide_eq_true_eq, beq_iff_eq, Bool.not_eq_true', not_or] at hill
  obtain ⟨hreserved, hassigned⟩ := hill
  have h02 : wordForm w = 0 ∨ wordForm w = 2 := by omega
  have hop : opAssigned (wordOp w) = true := Bool.eq_true_of_not_eq_false (fun ha => hassigned ⟨h02, ha⟩)
  rcases h02 with h0 | h2
  · exact .inr (.inr (.inr (.inl ⟨h0, decode_fForm following h0 hop ▸ h⟩)))
  · exact .inr (.inr (.inr (.inr ⟨h2, decode_lForm following h2 hop ▸ h⟩)))

/-! Instructions with a row. -/

section Row

variable {i : Instr} {f : Form} {o : Ops}

theorem ops_of_form (hf : i.form = some f) : ∃ o, i.ops? = some o := by
  cases i <;> cases hf <;> exact ⟨_, rfl⟩

theorem wf_of_form (hf : i.form = some f) (ho : i.ops? = some o) : i.wf = f.ok o := by simp only [Instr.wf, hf, ho]

theorem isWord_of_form (hf : i.form = some f) : i.isWord = true := by simp only [Instr.isWord, hf]

theorem encode_of_form (hf : i.form = some f) (ho : i.ops? = some o) : encode i = encodeOps f.op o := by simp only [encode, hf, ho]

theorem encodeOps_lit {op : Nat} {x : BitVec 32} (h : o.b = .lit x) : encodeOps op o = [encodeF op o, literalWord x] := by simp only [encodeOps, h]

theorem encodeOps_limm {op : Nat} {x : BitVec 32} (h : o.b = .limm x) : encodeOps op o = [encodeL op o x] := by simp only [encodeOps, h]

/-- R178: an operand that is no literal takes one word of the F-form. -/
theorem encodeOps_single {op : Nat} (h : o.b.bk ≠ 3) : encodeOps op o = [encodeF op o] := by
  unfold encodeOps
  split
  · next hb => simp [hb, OperandB.bk] at h
  · next hb => simp [hb, OperandB.bk] at h
  all_goals rfl

variable (hf : i.form = some f) (ho : i.ops? = some o) (hok : f.ok o = true)
include hf ho hok

theorem instrOf_of_form : instrOf f.op o = some i := instrOf_eq_some.mpr ⟨f, hf, rfl, ho, hok⟩

theorem opAssigned_of_form : opAssigned f.op = true := opAssigned_of_instrOf (instrOf_of_form hf ho hok)

/-- R179, R180: the word of an instruction whose operand B is no literal decodes to it. -/
theorem decode_encodeF_single (hb : o.b.bk ≠ 3) (following : Word) : decode (encodeF f.op o) following = .instr i 1 := by
  have ha := opAssigned_of_form hf ho hok
  have hop := lt_of_opAssigned ha
  have hbk := wordBk_encodeF o hop
  have hops (x : BitVec 32) : opsOfF (encodeF f.op o) (operandOfF (encodeF f.op o) x) = o := by
    rw [operandOfF_of_bx hb hbk (bx_encodeF o hop), opsOfF_encodeF o hop]
  rw [decode_fForm following (wordForm_encodeF o hop) ((wordOp_encodeF o hop).symm ▸ ha), decodeF_eq_instr]
  refine ⟨?_, fun h => absurd (hbk ▸ h) hb, ?_, if_neg (hbk ▸ hb)⟩
  · simp [ownFieldsOk, bxOk_of_bx hbk (bx_encodeF o hop), hops, wordOp_encodeF o hop, instrOf_of_form hf ho hok]
  · rw [hops, wordOp_encodeF o hop, instrOf_of_form hf ho hok]

/-- R178, R182: the two words of an instruction whose operand B is a literal decode to it. -/
theorem decode_encodeF_literal {x : BitVec 32} (hb : o.b = .lit x) : decode (encodeF f.op o) (literalWord x) = .instr i 2 := by
  have ha := opAssigned_of_form hf ho hok
  have hop := lt_of_opAssigned ha
  have hbk : wordBk (encodeF f.op o) = 3 := by rw [wordBk_encodeF o hop, hb]; rfl
  have hops (y : BitVec 32) : opsOfF (encodeF f.op o) (operandOfF (encodeF f.op o) y) = withLit o y := by
    rw [operandOfF_lit hbk, opsOfF_encodeF o hop]
    rfl
  have ho' : o = withLit o x := by rw [withLit, ← hb]
  rw [decode_fForm _ (wordForm_encodeF o hop) ((wordOp_encodeF o hop).symm ▸ ha), decodeF_eq_instr]
  refine ⟨?_, fun _ => isLiteralWord_literalWord x, ?_, if_pos hbk⟩
  · have hzero := isSome_instrOf_lit_zero (o := o) (x := x) hf (ho' ▸ hok)
    rw [ownFieldsOk, bxOk_of_bx (wordBk_encodeF o hop) (bx_encodeF o hop), wordOp_encodeF o hop, hops, hzero]
    rfl
  · rw [hops, wordOp_encodeF o hop, literalValue_literalWord, ← ho', instrOf_of_form hf ho hok]

/-- R188, R189: the word of an instruction in the L-form decodes to it. -/
theorem decode_encodeL {x : BitVec 32} (hb : o.b = .limm x) (following : Word) : decode (encodeL f.op o x) following = .instr i 1 := by
  have ha := opAssigned_of_form hf ho hok
  have hop := lt_of_opAssigned ha
  have hc : o.c = 0 := by
    simp only [Form.ok, hb, OperandB.isLForm, Bool.and_eq_true, Bool.not_true, Bool.false_or, beq_iff_eq] at hok
    obtain ⟨⟨-, hc⟩, -⟩ := hok
    exact hc
  have hops : opsOfL (encodeL f.op o x) = o := by rw [opsOfL_encodeL o x hop, ← hb, ← hc]
  rw [decode_lForm following (wordForm_encodeL o x hop) ((wordOp_encodeL o x hop).symm ▸ ha), decodeL_eq_instr]
  exact ⟨bit32_encodeL o x hop, by rw [hops, wordOp_encodeL o x hop, instrOf_of_form hf ho hok], rfl⟩

end Row

/-! Instructions without a row. -/

/-- The number that the word of a pair stands for. -/
theorem encodePair_toNat (a b : Slot) : (BitVec.ofNat 64 (2 ^ 61 + a.code * 2 ^ 30 + b.code)).toNat = 2 ^ 61 + a.code * 2 ^ 30 + b.code := by
  have ha := slot_code_lt a
  have hb := slot_code_lt b
  rw [BitVec.toNat_ofNat, Nat.mod_eq_of_lt (by omega)]

/-- R190: the fields of a pair's word. -/
theorem pair_fields {n : Nat} {a b : Slot} (hn : n = 2 ^ 61 + a.code * 2 ^ 30 + b.code) :
    n / 2 ^ 61 = 1 ∧ bitsOf n 60 60 = 0 ∧ bitsOf n 59 30 = a.code ∧ bitsOf n 29 0 = b.code := by
  have ha := slot_code_lt a
  have hb := slot_code_lt b
  simp only [bitsOf]
  omega

/-- R190, R192: the word of a pair that the rules of R192 allow decodes to it. -/
theorem decode_pair {w : Word} {a b : Slot} (hw : w.toNat = 2 ^ 61 + a.code * 2 ^ 30 + b.code) (hok : pairOk a b = true) (following : Word) :
    decode w following = .instr (.pFormPair a b) 1 := by
  obtain ⟨hform, h60, hfirst, hsecond⟩ := pair_fields hw
  rw [decode_pForm hform]
  simp [pairOf, hfirst, hsecond, slotOf_code, h60, hok]

/-- R190 to R192: the pair that a word stands for is allowed, and has that word. -/
theorem pair_of_pairOf {w : Word} {i : Instr} (hw : wordForm w = 1) (h : pairOf w = some i) :
    ∃ a b, i = .pFormPair a b ∧ pairOk a b = true ∧ BitVec.ofNat 64 (2 ^ 61 + a.code * 2 ^ 30 + b.code) = w := by
  unfold pairOf at h
  split at h
  · next a b ha hb =>
    simp only [Option.ite_none_right_eq_some, Option.some.injEq, Bool.and_eq_true, beq_iff_eq] at h
    obtain ⟨⟨h60, hok⟩, rfl⟩ := h
    have hcode : 2 ^ 61 + a.code * 2 ^ 30 + b.code = w.toNat := by
      rw [code_of_slotOf (bitsOf_lt _ 59 30) ha, code_of_slotOf (bitsOf_lt _ 29 0) hb]
      simp only [wordForm, bitsOf] at hw h60 ⊢
      omega
    exact ⟨a, b, rfl, hok, by rw [hcode, BitVec.ofNat_toNat, BitVec.setWidth_eq]⟩
  · cases h

/-- The instructions that have words: those of a row, pairs, and the words that only trap. -/
theorem cases_of_encode {i : Instr} {w : Word} {rest : List Word} (h : encode i = w :: rest) :
    (∃ f o, i.form = some f ∧ i.ops? = some o) ∨ (∃ a b, i = .pFormPair a b)
      ∨ (i = .literalWordExecute w ∧ rest = []) ∨ (i = .illegalOpcodeWord w ∧ rest = []) := by
  cases hf : i.form with
  | some f =>
    obtain ⟨o, ho⟩ := ops_of_form hf
    exact .inl ⟨f, o, rfl, ho⟩
  | none =>
    cases i
    case pFormPair a b => exact .inr (.inl ⟨a, b, rfl⟩)
    case literalWordExecute v => cases h; exact .inr (.inr (.inl ⟨rfl, rfl⟩))
    case illegalOpcodeWord v => cases h; exact .inr (.inr (.inr ⟨rfl, rfl⟩))
    all_goals cases hf <;> cases h

/-- Settles O6: an instruction has the words of its form, and each form's words decode to it. -/
theorem decodeOfEncode : Obligations.DecodeOfEncode := by
  intro i w following rest hwf henc
  obtain ⟨f, o, hf, ho⟩ | ⟨a, b, rfl⟩ | ⟨rfl, rfl⟩ | ⟨rfl, rfl⟩ := cases_of_encode henc
  · rw [wf_of_form hf ho] at hwf
    rw [encode_of_form hf ho] at henc
    by_cases hbk : o.b.bk = 3
    · cases hb : o.b with
      | lit x =>
        rw [encodeOps_lit hb] at henc
        cases henc
        exact decode_encodeF_literal hf ho hwf hb
      | limm x =>
        rw [encodeOps_limm hb] at henc
        cases henc
        exact decode_encodeL hf ho hwf hb following
      | reg r x => rw [hb] at hbk; cases hbk
      | imm x => rw [hb] at hbk; cases hbk
      | kbank x => rw [hb] at hbk; cases hbk
    · rw [encodeOps_single hbk] at henc
      cases henc
      exact decode_encodeF_single hf ho hwf hbk following
  · cases henc
    exact decode_pair (encodePair_toNat a b) hwf following
  · exact decode_literal following (beq_iff_eq.mp hwf)
  · exact decode_illegal following hwf

/-- R179, R182: an instruction of the F-form that a word and the one after it decode to is that of a row, with those words. -/
theorem encode_of_decodeF {w following : Word} {i : Instr} {n : Nat} (hw : wordForm w = 0) (h : decodeF w following = .instr i n) :
    i.wf = true ∧ i.isWord = true ∧ (encode i = [w] ∧ n = 1 ∨ encode i = [w, following] ∧ n = 2) := by
  obtain ⟨hown, hlit, hi, hn⟩ := decodeF_eq_instr.mp h
  obtain ⟨f, hf, hop, ho, hok⟩ := instrOf_eq_some.mp hi
  obtain ⟨hbk, hbx⟩ := bx_operandOfF (Bool.and_eq_true_iff.mp hown).1 (literalValue following)
  have hword := encodeF_opsOfF hw hbk hbx
  refine ⟨(wf_of_form hf ho).trans hok, isWord_of_form hf, ?_⟩
  rw [encode_of_form hf ho, hop]
  by_cases h3 : wordBk w = 3
  · rw [encodeOps_lit (x := literalValue following) (operandOfF_lit h3 _), hword, literalWord_literalValue (hlit h3)]
    exact .inr ⟨rfl, by rw [← hn, if_pos h3]⟩
  · rw [encodeOps_single (hbk ▸ h3), hword]
    exact .inl ⟨rfl, by rw [← hn, if_neg h3]⟩

/-- R188, R189: an instruction of the L-form that a word decodes to is that of a row, with that word. -/
theorem encode_of_decodeL {w : Word} {i : Instr} {n : Nat} (hw : wordForm w = 2) (h : decodeL w = .instr i n) :
    i.wf = true ∧ i.isWord = true ∧ encode i = [w] ∧ n = 1 := by
  obtain ⟨h32, hi, hn⟩ := decodeL_eq_instr.mp h
  obtain ⟨f, hf, hop, ho, hok⟩ := instrOf_eq_some.mp hi
  refine ⟨(wf_of_form hf ho).trans hok, isWord_of_form hf, ?_, hn.symm⟩
  rw [encode_of_form hf ho, hop, encodeOps_limm rfl, encodeL_opsOfL hw h32]

/-- Settles O7: each form of word that decodes to an instruction keeps every bit in the instruction's fields, or is that word itself. -/
theorem decodedInstrWellFormed : Obligations.DecodedInstrWellFormed := by
  intro w following i n h
  obtain ⟨hw, rfl, rfl⟩ | ⟨hill, rfl, rfl⟩ | ⟨hw, hp, rfl⟩ | ⟨hw, hF⟩ | ⟨hw, hL⟩ := decode_forms h
  · exact ⟨beq_iff_eq.mpr hw, rfl, .inl ⟨rfl, rfl⟩⟩
  · exact ⟨hill, rfl, .inl ⟨rfl, rfl⟩⟩
  · obtain ⟨a, b, rfl, hok, hcode⟩ := pair_of_pairOf hw hp
    exact ⟨hok, rfl, .inl ⟨congrArg (fun v => [v]) hcode, rfl⟩⟩
  · exact encode_of_decodeF hw hF
  · obtain ⟨hwf, hword, henc⟩ := encode_of_decodeL hw hL
    exact ⟨hwf, hword, .inl henc⟩

/-- The word assembled for a well-formed instruction of one word stands for it. -/
theorem decode_single {i : Instr} {w : Word} (hwf : i.wf = true) (henc : encode i = [w]) (following : Word) : decode w following = .instr i 1 :=
  decodeOfEncode i w following [] hwf henc

/-- Settles O5: each instruction is well formed and has the words assembled for it, which decode to it by O6. -/
theorem decodedWords : Obligations.DecodedWords :=
  ⟨decode_single rfl rfl 0, decodeOfEncode _ _ 0 [_] rfl rfl, decode_single rfl rfl 0, decode_single rfl rfl 0, decode_single rfl rfl 0,
    decode_single rfl rfl 0, decode_single rfl rfl 0,
    decode_single rfl rfl 0, decode_single rfl rfl 0, decode_single rfl rfl 0, decode_single rfl rfl 0, decode_single rfl rfl 0, decode_single rfl rfl 0, decode_single rfl rfl 0⟩

/-! Operand B of a scalar instruction (R180, R182, R185). -/

/-- R180: an operand other than a register carries no modifier field. -/
theorem i19_eq_zero {b : OperandB} (h : b.isReg = false) : b.i19 = 0 := by
  cases b with
  | reg r x => cases h
  | imm x => rfl
  | kbank k => rfl
  | lit x => rfl
  | limm x => rfl

/-- R185: without a modifier field an access has the defaults. -/
theorem modifiers_default {o : Ops} (h : o.b.isReg = false) :
    o.scope = 5 ∧ o.order = 0 ∧ o.hint = 0 ∧ o.nb = false ∧ o.ccNo = 0 ∧ o.orderedFlag = false := by
  simp [Ops.scope, Ops.order, Ops.hint, Ops.nb, Ops.ccNo, Ops.orderedFlag, i19_eq_zero h, h, bitsOf]

/-- Settles O13: each kind of operand by the definition of its value, an immediate by its sign extension. -/
theorem operandKinds : Obligations.OperandKinds := by
  intro s
  have himm (x : BitVec 25) : (s.opB (.imm x)).toInt = x.toInt := BitVec.toInt_signExtend_of_le (by decide)
  have hlit (x : BitVec 32) : (s.opB (.lit x)).toInt = x.toInt := BitVec.toInt_signExtend_of_le (by decide)
  exact ⟨fun _ _ => rfl, fun _ => rfl, himm, fun _ => rfl, fun x => ⟨hlit x, rfl⟩, fun _ => modifiers_default⟩

/-! Pairs: the scalar slot (R191, R193). -/

theorem commit_readG (s : State) (n : Word) (f : Strand → Strand) (m : Nat) : (s.commit n f).cpu.readG m = (f s.cpu).readG m := rfl

theorem retire_readG (s : State) (f : Strand → Strand) (m : Nat) : (s.retire f).cpu.readG m = (f s.cpu).readG m := rfl

section ScalarSlot

variable (g : Nat → Word) (rm : Nat) (x : Slot) (t : Strand)

theorem slotWrite_readG (n : Nat) : (slotWrite g rm x t).readG n =
    if n = x.d.toNat ∧ x.d.toNat ≠ 0 then (slotValue x.op rm (g x.d.toNat) (slotSource g x)).1 else t.readG n := readG_writeG ..

theorem slotWrite_readG_other {n : Nat} (h : n ≠ x.d.toNat) : (slotWrite g rm x t).readG n = t.readG n := by simp [slotWrite_readG, h]

theorem slotWrite_readG_same (h : x.d ≠ 0) :
    (slotWrite g rm x t).readG x.d.toNat = (slotValue x.op rm (g x.d.toNat) (slotSource g x)).1 := by
  rw [slotWrite_readG, if_pos ⟨rfl, fun h0 => h (BitVec.eq_of_toNat_eq h0)⟩]

@[simp] theorem slotWrite_fpflags : (slotWrite g rm x t).fpflags = t.fpflags ||| (slotValue x.op rm (g x.d.toNat) (slotSource g x)).2 := by
  simp [slotWrite]

@[simp] theorem slotWrite_pc : (slotWrite g rm x t).pc = t.pc := by simp [slotWrite]
@[simp] theorem slotWrite_v : (slotWrite g rm x t).v = t.v := by simp [slotWrite]
@[simp] theorem slotWrite_queue : (slotWrite g rm x t).queue = t.queue := by simp [slotWrite]

end ScalarSlot

/-- R193: two scalar slots without an ABN both write, from operands read before. -/
theorem exec_scalarPair {s : State} {x y : Slot} (hx : x.op.isVector = false) (hy : y.op.isVector = false) (hxa : slotAbn s.cpu.readG x = none)
    (hya : slotAbn s.cpu.readG y = none) :
    exec (.pFormPair x y) s = .next (s.commit 8 (fun t => slotWrite s.cpu.readG s.cpu.fpmode y (slotWrite s.cpu.readG s.cpu.fpmode x t))) := by
  show execPFormPair x y s = _
  simp [execPFormPair, hx, hy, scalarPair, hxa, hya, firstAbn]

/-! Pairs: the vector slot. -/

/-- The elements that a pair performs: those from VSTART on. -/
def pairElems (t : Strand) : List Nat := (List.range t.vl).filter (fun k => decide (t.vstart ≤ k))

theorem mem_pairElems {t : Strand} {k : Nat} : k ∈ pairElems t ↔ t.vstart ≤ k ∧ k < t.vl := by simp [pairElems, and_comm]

/-- R191: what element `k` of the vector slot `v` gives, at type `t`. -/
def slotResult (s : State) (v : Slot) (t k : Nat) : Elem :=
  let r := slotElem v.op t s.srcRm (elemOf s.cpu t v.d.toNat k) (elemOf s.cpu t (slotReg v) k)
  { val := r.1, flags := r.2, abn := firstAbn [elemAbn s.cpu t v.d.toNat k, elemAbn s.cpu t (slotReg v) k] }

/-- The fields by which the rows of full instructions name what a vector slot writes. -/
def slotOps (v : Slot) (t : BitVec 4) : Ops := ⟨v.d, 0, 0, t, 0, .reg 0 0⟩

/-- The strand once the elements of a `.vaddS32` slot are performed. -/
def pairSums (s : State) (v : Slot) (t : Strand) : Strand :=
  (putAll (putV (slotOps v 2)) (slotResult s v 2) t (pairElems s.cpu)).orFlags (flagsOf (slotResult s v 2) (pairElems s.cpu))

/-- R193: a scalar slot and a `.vaddS32` slot: the scalar slot writes when the elements are performed, none of them if VL is 0. -/
theorem exec_pair_vaddS32 {s : State} {x y : Slot} (hx : x.op.isVector = false) (hy : y.op = .vaddS32) (hd : HeadReady (.pFormPair x y) [2] s.cpu) :
    exec (.pFormPair x y) s = .next (s.retire (fun t => slotWrite s.srcG s.srcRm x (pairSums s y t))) := by
  have hvec : y.op.isVector = true := by rw [hy]; rfl
  have htype : slotType s.cpu y.op = 2 := by rw [hy]; rfl
  show execPFormPair x y s = _
  rw [execPFormPair, if_neg (by simp [hx]), if_pos hvec, vectorPair, htype, atHead_pass _ _ _ _ hd]
  split
  · next hvl =>
    have hnil : pairElems s.cpu = [] := by simp [pairElems, hvl]
    have hnone (t : Strand) : pairSums s y t = t := by simp [pairSums, hnil, putAll, flagsOf, flagNone, Strand.orFlags]
    simp [hnone]
  · exact runElems_done _ _ _ _ _ (fun k _ => rfl)

section Sums

variable (s : State) (v : Slot) (t : Strand)

theorem pairSums_g : (pairSums s v t).g = t.g := putAll_frame _ _ Strand.g (fun _ _ _ _ => rfl) _ _

theorem pairSums_queue : (pairSums s v t).queue = t.queue := putAll_frame _ _ Strand.queue (fun _ _ _ _ => rfl) _ _

theorem pairSums_readG (n : Nat) : (pairSums s v t).readG n = t.readG n := by simp only [Strand.readG, pairSums_g]

end Sums

/-! Integers at a width (R7, R77). -/

/-- The low bits of a wrapped integer are the integer wrapped to fewer bits. -/
theorem wrapInt_mod {v w : Nat} (h : v ≤ w) (x : Int) : wrapInt w x % 2 ^ v = wrapInt v x := by
  have hw : 0 ≤ x % ((2 ^ w : Nat) : Int) := Int.emod_nonneg _ (by positivity)
  have hdvd : ((2 ^ v : Nat) : Int) ∣ ((2 ^ w : Nat) : Int) := Int.natCast_dvd_natCast.mpr (pow_dvd_pow 2 h)
  apply Int.natCast_inj.mp
  rw [wrapInt, wrapInt, Int.natCast_emod, Int.toNat_of_nonneg hw, Int.toNat_of_nonneg (Int.emod_nonneg _ (by positivity)), Int.emod_emod_of_dvd _ hdvd]

/-- A two's complement number and its pattern agree modulo the width. -/
theorem signedOf_emod (w x : Nat) : signedOf w x % ((2 ^ w : Nat) : Int) = ((x % 2 ^ w : Nat) : Int) := by
  rw [signedOf, low]
  split_ifs
  · rw [← Int.natCast_emod, Nat.mod_mod]
  · rw [Int.sub_emod_right, ← Int.natCast_emod, Nat.mod_mod]

theorem wrapInt_signedOf (w x : Nat) : wrapInt w (signedOf w x) = x % 2 ^ w := by rw [wrapInt, signedOf_emod, Int.toNat_natCast]

/-- A wrapped sum is the sum of the patterns. -/
theorem wrapInt_add_signedOf (w x y : Nat) : wrapInt w (signedOf w x + signedOf w y) = (x % 2 ^ w + y % 2 ^ w) % 2 ^ w := by
  rw [wrapInt, Int.add_emod, signedOf_emod, signedOf_emod, ← Int.natCast_add, ← Int.natCast_emod, Int.toNat_natCast]

/-- R231: the low 32 bits of an element of type `.s32` are its result's. -/
theorem low_extendV_s32 {ew : Nat} (h : 32 ≤ ew) (x : Nat) : low ew (extendV ew 2 x) % 2 ^ 32 = x % 2 ^ 32 := by
  have hext : extendV ew 2 x = wrapInt ew (signedOf 32 x) := rfl
  rw [low, Nat.mod_mod_of_dvd _ (pow_dvd_pow 2 h), hext, wrapInt_mod h, wrapInt_signedOf]

/-- R191: the sum that a `.vaddS32` slot gives at an element. -/
theorem slotResult_vaddS32 (s : State) {v : Slot} {r : BitVec 6} (hop : v.op = .vaddS32) (hsrc : v.src = .reg r) (k : Nat) :
    (slotResult s v 2 k).val % 2 ^ 32 = (s.cpu.readV v.d.toNat k % 2 ^ 32 + s.cpu.readV r.toNat k % 2 ^ 32) % 2 ^ 32 := by
  have hreg : slotReg v = r.toNat := by simp [slotReg, hsrc]
  have hval : (slotResult s v 2 k).val
      = wrapInt 32 (signedOf 32 (elemOf s.cpu 2 v.d.toNat k) + signedOf 32 (elemOf s.cpu 2 r.toNat k)) := by
    simp only [slotResult, hop, hreg]
    rfl
  have helem (n : Nat) : elemOf s.cpu 2 n k = s.cpu.readV n k % 2 ^ 32 := rfl
  simp only [hval, wrapInt_add_signedOf, helem, Nat.mod_mod]

/-- R193: what a performed element of a `.vaddS32` slot reads. -/
theorem pairSums_readV (s : State) {v : Slot} {r : BitVec 6} (hop : v.op = .vaddS32) (hsrc : v.src = .reg r) (hvl : s.cpu.vl ≤ 65536)
    (hew : 32 ≤ s.cpu.ew) {k : Nat} (hk : k ∈ pairElems s.cpu) :
    (pairSums s v s.cpu).readV v.d.toNat k % 2 ^ 32 = (s.cpu.readV v.d.toNat k % 2 ^ 32 + s.cpu.readV r.toNat k % 2 ^ 32) % 2 ^ 32 := by
  have hlt : ∀ j ∈ pairElems s.cpu, j < 65536 := fun j hj => (mem_pairElems.mp hj).2.trans_le hvl
  have hread := readV_putAll (slotOps v 2) (slotResult s v 2) (pairElems s.cpu) s.cpu v.d.toNat k hlt (hlt k hk)
  rw [if_pos ⟨rfl, hk⟩] at hread
  have hsum : (pairSums s v s.cpu).readV v.d.toNat k = low s.cpu.ew (extendV s.cpu.ew 2 (slotResult s v 2 k).val) := hread
  rw [hsum, low_extendV_s32 hew, slotResult_vaddS32 s hop hsrc]

/-- R231: a type that passes the checks at the head fits EW. -/
theorem ew_of_headReady {i : Instr} {t : Strand} (h : HeadReady i [2] t) : 32 ≤ t.ew := by
  have ht := h.types
  simp only [List.any_cons, List.any_nil, Bool.or_false, Bool.and_eq_false_iff, decide_eq_false_iff_not, Nat.not_lt] at ht
  exact ht.resolve_left (by decide)

/-- Settles O46: both slots' operands are fixed before the writes, which touch two g registers, or one and the elements of a v register. -/
theorem pairsComplete : Obligations.PairsComplete := by
  intro s x y hx hxa rx
  refine ⟨fun hy hya hne => ?_, fun hy hvl hd => ?_⟩
  · refine ⟨_, exec_scalarPair hx hy hxa hya, fun h0 => ?_, fun h0 => ?_, fun n hnx hny => ?_, ?_, ?_, rfl, ?_, ?_⟩
    · have hxy : x.d.toNat ≠ y.d.toNat := fun h => hne (BitVec.eq_of_toNat_eq h)
      rw [commit_readG, slotWrite_readG_other _ _ y _ hxy, slotWrite_readG_same _ _ x _ h0]
    · rw [commit_readG, slotWrite_readG_same _ _ y _ h0]
    · rw [commit_readG, slotWrite_readG_other _ _ y _ hny, slotWrite_readG_other _ _ x _ hnx]
    · simp [rx]
    · simp
    · simp
    · simp
  · refine ⟨_, exec_pair_vaddS32 hx hy hd, rfl, ?_, fun h0 => ?_, fun n hn => ?_, fun k hlo hhi r hsrc => ?_⟩
    · simp [pairSums_queue]
    · rw [retire_readG, slotWrite_readG_same _ _ x _ h0]
    · rw [retire_readG, slotWrite_readG_other _ _ x _ hn, pairSums_readG]
    · have hv := pairSums_readV s hy hsrc hvl (ew_of_headReady hd) (mem_pairElems.mpr ⟨hlo, hhi⟩)
      simpa [Strand.readV] using hv

end Sys2Proof.Proofs.Encoding

/-! The obligations of spec/13_scalar.md: the scalar instructions complete with the results of R218 to R222, trap on an ABN operand (R217), move the pc
(R223 to R225, R230) and pass through gates (R228, R229); and the state after reset. -/

namespace Sys2Proof.Proofs.Scalar

open Sys2Proof Sys2Proof.Machine Sys2Proof.Safety Sys2Proof.Claims Sys2Proof.Laws
open Sys2Proof.Proofs.Numbers (typeWidth_eq)

/-! The state after reset (R229, R277, R85, R330). -/

/-- Settles O1: `State.reset` is the state of every field's default, so each field reads it, and each empty table its default at every number. -/
theorem resetState : Obligations.ResetState := by
  have hg (n : Nat) : State.reset.cpu.readG n = 0 := ite_self _
  exact ⟨rfl, rfl, rfl, rfl, rfl, rfl, rfl, rfl, rfl, rfl, rfl, rfl, rfl, rfl, rfl, rfl, rfl, rfl, hg, fun _ => rfl, fun _ => rfl, fun _ _ => rfl, fun _ => rfl,
    fun _ => rfl⟩

/-! Numbers of the model and bit vectors of a type's width (R7, R77, R216). -/

theorem toInt_ofNat_eq_signedOf {w : Nat} (hw : 0 < w) (x : Nat) : (BitVec.ofNat w x).toInt = signedOf w x := by
  have hpow : 2 ^ w = 2 * 2 ^ (w - 1) := by rw [← pow_succ', Nat.sub_add_cancel hw]
  have hiff : 2 * (x % 2 ^ w) < 2 ^ w ↔ x % 2 ^ w < 2 ^ (w - 1) := by omega
  rw [BitVec.toInt_eq_toNat_cond, BitVec.toNat_ofNat, signedOf, low]
  exact if_congr hiff rfl rfl

theorem ofNat_wrapInt (w : Nat) (x : Int) : BitVec.ofNat w (wrapInt w x) = BitVec.ofInt w x := by
  apply BitVec.eq_of_toNat_eq
  have hlt : wrapInt w x < 2 ^ w := by
    have := Int.emod_lt_of_pos x (by positivity : (0 : Int) < ((2 ^ w : Nat) : Int))
    have := Int.emod_nonneg x (by positivity : ((2 ^ w : Nat) : Int) ≠ 0)
    unfold wrapInt
    omega
  rw [BitVec.toNat_ofNat, Nat.mod_eq_of_lt hlt, BitVec.toNat_ofInt, wrapInt]

theorem intWidth_pos (t : Nat) : 0 < intWidth t := by
  unfold intWidth
  positivity

section IntegerType

variable {t : Nat} (ht : t < 8)
include ht

/-- R216: the value read from a register. -/
theorem intOf_eq (x : Word) : intOf t x.toNat = intValue t x := by
  simp only [intOf, intValue, typeWidth_eq ht, typeSigned, decide_eq_true_eq, BitVec.toNat_setWidth, low]
  rw [← toInt_ofNat_eq_signedOf (intWidth_pos t), BitVec.ofNat_toNat]

/-- R216: the extension of a result into a register. -/
theorem extendG_eq (x : Nat) : extendG t x = intBits t (BitVec.ofNat _ x) := by
  simp only [extendG, extendTo, intBits, typeWidth_eq ht, typeSigned, decide_eq_true_eq]
  split
  · rw [ofNat_wrapInt, ← toInt_ofNat_eq_signedOf (intWidth_pos t)]
    rfl
  · rw [low, ← BitVec.toNat_ofNat, BitVec.ofNat_toNat]

theorem extendG_low (x : Nat) : extendG t (low (typeWidth t) x) = intBits t (BitVec.ofNat _ x) := by
  rw [extendG_eq ht, typeWidth_eq ht, low, ← BitVec.toNat_ofNat, BitVec.ofNat_toNat, BitVec.setWidth_eq]

end IntegerType

/-! Completion (R216). -/

/-- A scalar result without flags. -/
theorem scalarDone_flagNone (o : Ops) (s : State) (x : Word) : scalarDone o s x flagNone = .next (wrote s o x) := by
  have horFlags (t : Strand) : t.orFlags flagNone = t := by simp [Strand.orFlags, flagNone]
  simp only [scalarDone, wrote, horFlags]

section IntegerForms

variable {o : Ops} (ht : o.T < 8) (s : State)
include ht

/-- R216: a two-operand typed form computes on the values. -/
theorem intBinary_eq (f : Int → Int → Int) :
    intBinary o s f = .next (wrote s o (intResult o.T (f (intValue o.T (s.cpu.readG o.A)) (intValue o.T (s.opB o.b))))) := by
  simp only [intBinary, scalarDone_flagNone, intOf_eq ht, extendG_eq ht, typeWidth_eq ht, ofNat_wrapInt, intResult]

/-- R216: a two-operand typed form on bit patterns. -/
theorem bitBinary_eq (f : Nat → Nat → Nat → Nat) :
    bitBinary o s f = .next (wrote s o (intBits o.T (BitVec.ofNat _
      (f (intWidth o.T) ((s.cpu.readG o.A).setWidth (intWidth o.T)).toNat ((s.opB o.b).setWidth (intWidth o.T)).toNat)))) := by
  rw [bitBinary, scalarDone_flagNone, extendG_low ht, typeWidth_eq ht, BitVec.toNat_setWidth, BitVec.toNat_setWidth, low, low]

/-- R216: a one-operand typed form on a bit pattern. -/
theorem bitUnary_eq (f : Nat → Nat → Nat) :
    bitUnary o s f = .next (wrote s o (intBits o.T (BitVec.ofNat _ (f (intWidth o.T) ((s.cpu.readG o.A).setWidth (intWidth o.T)).toNat)))) := by
  rw [bitUnary, scalarDone_flagNone, extendG_low ht, typeWidth_eq ht, BitVec.toNat_setWidth, low]

end IntegerForms

/-! Arithmetic (R218, R78, R187). -/

theorem condInt_iff {c : Nat} (hc : c ≤ 5) (a b : Int) : condInt c a b = true ↔ condition c a b := by
  interval_cases c <;> simp [condInt, condition]

/-- The bits of a type's width stand for the value that the type reads. -/
theorem ofInt_intValue (t : Nat) (x : Word) : BitVec.ofInt (intWidth t) (intValue t x) = x.setWidth (intWidth t) := by
  unfold intValue
  split
  · exact BitVec.ofInt_toInt
  · rw [BitVec.ofInt_natCast, BitVec.ofNat_toNat, BitVec.setWidth_eq]

/-- R218: the magnitude of a signed value, wrapped. -/
theorem ofNat_wrapInt_natAbs {t : Nat} (ht : t < 4) (x : Word) :
    BitVec.ofNat (intWidth t) (wrapInt (intWidth t) (signedOf (intWidth t) (x.setWidth (intWidth t)).toNat).natAbs)
      = BitVec.ofInt (intWidth t) ((intValue t x).natAbs : Int) := by
  rw [ofNat_wrapInt, ← toInt_ofNat_eq_signedOf (intWidth_pos t), BitVec.ofNat_toNat, BitVec.setWidth_eq, intValue, if_pos ht]

/-- R218: MULH's high half of the product. -/
theorem highProduct_eq (w : Nat) (a b : Int) : highProduct w a b = a * b / 2 ^ w := by
  rw [highProduct, Nat.cast_pow, Nat.cast_ofNat]

/-- Settles O10: each form computes on the values of its operands, and a result's bits extend to the register. -/
theorem scalarArithmetic : Obligations.ScalarArithmetic := by
  intro s o ht a b c
  have hcmp : exec (.cmp o) s = .next (wrote s o (if condInt o.C a b then 1 else 0)) := by
    show execCmp o s = _
    rw [execCmp, scalarDone_flagNone, intOf_eq ht, intOf_eq ht]
  refine ⟨intBinary_eq ht s _, intBinary_eq ht s _, intBinary_eq ht s _, ?_, ?_, intBinary_eq ht s divInt, intBinary_eq ht s remInt, ?_, ?_, ?_,
    fun hsigned => ?_, fun hc => ⟨fun h => ?_, fun h => ?_⟩⟩
  · show execMulh o s = _
    rw [execMulh, intBinary_eq ht, typeWidth_eq ht, highProduct_eq]
  · show execMadd o s = _
    rw [execMadd, intBinary_eq ht, intOf_eq ht]
  · show execMin o s = _
    rw [execMin, intBinary_eq ht, min_def]
  · show execMax o s = _
    rw [execMax, intBinary_eq ht, max_def]
  · show execExt o s = _
    rw [execExt, bitUnary_eq ht, BitVec.ofNat_toNat, BitVec.setWidth_eq, intResult, ofInt_intValue]
  · show execAbs o s = _
    rw [execAbs, bitUnary_eq ht, ofNat_wrapInt_natAbs hsigned, intResult]
  · rw [hcmp, if_pos ((condInt_iff hc a b).mpr h)]
  · rw [hcmp, if_neg (mt (condInt_iff hc a b).mp h)]

/-! Shifts and rotation (R218, R79). -/

section Shifts

variable {w : Nat} (x : BitVec w) (n : Nat)

theorem ofNat_mul_two_pow : BitVec.ofNat w (x.toNat * 2 ^ n) = x <<< n := by
  apply BitVec.eq_of_toNat_eq
  rw [BitVec.toNat_ofNat, BitVec.toNat_shiftLeft, Nat.shiftLeft_eq]

theorem ofNat_div_two_pow : BitVec.ofNat w (x.toNat / 2 ^ n) = x >>> n := by
  rw [← Nat.shiftRight_eq_div_pow, ← BitVec.toNat_ushiftRight, BitVec.ofNat_toNat, BitVec.setWidth_eq]

theorem ofNat_sarBits (hw : 0 < w) : BitVec.ofNat w (sarBits w x.toNat n) = x.sshiftRight n := by
  rw [sarBits, ofNat_wrapInt, ← toInt_ofNat_eq_signedOf hw, BitVec.ofNat_toNat, BitVec.setWidth_eq, BitVec.sshiftRight_eq, Int.shiftRight_eq_div_pow,
    Nat.cast_pow]

/-- The bits shifted out at the top and those kept do not meet. -/
theorem ofNat_rolBits (hn : n < w) : BitVec.ofNat w (rolBits w x.toNat n) = x.rotateLeft n := by
  have hdisjoint : x <<< n &&& x >>> (w - n) = 0#w := by
    ext i hi
    have : i < n ∨ w ≤ w - n + i := by omega
    rcases this with h | h <;> simp [h]
  rw [rolBits, low, ← BitVec.toNat_ofNat, BitVec.ofNat_toNat, BitVec.setWidth_eq, BitVec.ofNat_add, ofNat_mul_two_pow, ofNat_div_two_pow,
    BitVec.add_eq_or_of_and_eq_zero _ _ hdisjoint, BitVec.rotateLeft_def, Nat.mod_eq_of_lt hn]

end Shifts

theorem intWidth_cases (t : Nat) : intWidth t = 8 ∨ intWidth t = 16 ∨ intWidth t = 32 ∨ intWidth t = 64 := by
  unfold intWidth
  have := Nat.mod_lt t (by decide : 0 < 4)
  interval_cases t % 4 <;> simp

theorem intWidth_dvd_two_pow (t : Nat) : intWidth t ∣ 2 ^ intWidth t := by
  rcases intWidth_cases t with h | h | h | h <;> rw [h] <;> norm_num

theorem intWidth_lt_two_pow (t : Nat) : intWidth t < 2 ^ (intWidth t - 1) := by
  rcases intWidth_cases t with h | h | h | h <;> rw [h] <;> norm_num

/-- R79: the shift amount. -/
theorem shiftBy_setWidth (t : Nat) (b : Word) : shiftBy (intWidth t) (b.setWidth (intWidth t)).toNat = b.toNat % intWidth t := by
  rw [shiftBy, BitVec.toNat_setWidth, Nat.mod_mod_of_dvd _ (intWidth_dvd_two_pow t)]

/-! Counts of bits (R218). -/

/-- The length of the longest start of a range on which a test holds. -/
theorem length_takeWhile_range {p : Nat → Bool} {w m : Nat} (hm : m ≤ w) (hp : ∀ i < m, p i = true) (hstop : m < w → p m = false) :
    ((List.range w).takeWhile p).length = m := by
  obtain ⟨k, rfl⟩ := Nat.exists_eq_add_of_le hm
  rw [List.range_add, List.takeWhile_append_of_pos (fun i hi => hp i (List.mem_range.mp hi)), List.length_append, List.length_range]
  cases k with
  | zero => rfl
  | succ k => simp [List.range_succ_eq_map, hstop (by omega)]

theorem ctz_le : ∀ w x, ctz w x ≤ w
  | 0, _ => le_rfl
  | w + 1, x => by
    have := ctz_le w (x / 2)
    rw [ctz]
    split <;> omega

theorem testBit_lt_ctz : ∀ w x i, i < ctz w x → x.testBit i = false
  | 0, _, _, h => by cases h
  | w + 1, x, i, h => by
    rw [ctz] at h
    split at h
    · cases h
    · next hodd =>
      cases i with
      | zero => simpa [Nat.testBit_zero] using hodd
      | succ i => rw [Nat.testBit_succ]; exact testBit_lt_ctz w (x / 2) i (by omega)

theorem testBit_ctz : ∀ w x, ctz w x < w → x.testBit (ctz w x) = true
  | 0, _, h => by cases h
  | w + 1, x, h => by
    rw [ctz] at h ⊢
    split
    · next hodd => simpa [Nat.testBit_zero] using hodd
    · next hodd =>
      rw [if_neg hodd] at h
      rw [Nat.add_comm, Nat.testBit_succ]
      exact testBit_ctz w (x / 2) (by omega)

theorem popc_eq_countP : ∀ w x, popc w x = (List.range w).countP x.testBit
  | 0, _ => rfl
  | w + 1, x => by
    rw [popc, popc_eq_countP w, List.range_succ_eq_map, List.countP_cons, List.countP_map]
    have hrest : x.testBit ∘ Nat.succ = (x / 2).testBit := funext fun i => Nat.testBit_succ x i
    rw [hrest, Nat.testBit_zero]
    rcases Nat.mod_two_eq_zero_or_one x with h | h <;> simp [h, Nat.add_comm]

section Counts

variable {w : Nat} (x : BitVec w)

theorem ctz_eq : ctz w x.toNat = ((List.range w).takeWhile (fun i => !x.getLsbD i)).length :=
  (length_takeWhile_range (ctz_le w _) (fun i hi => congrArg not (testBit_lt_ctz w _ i hi)) (fun h => congrArg not (testBit_ctz w _ h))).symm

theorem popc_eq : popc w x.toNat = (List.range w).countP (fun i => x.getLsbD i) := popc_eq_countP w x.toNat

theorem clz_eq : clz w x.toNat = ((List.range w).takeWhile (fun i => !x.getMsbD i)).length := by
  rw [clz, low, Nat.mod_eq_of_lt x.isLt]
  symm
  split
  · next h0 =>
    refine length_takeWhile_range le_rfl (fun i hi => ?_) (fun h => absurd h (lt_irrefl w))
    simp [BitVec.getMsbD, BitVec.getLsbD, h0]
  · next h0 =>
    have hlog : Nat.log2 x.toNat < w := (Nat.log2_lt h0).mpr x.isLt
    refine length_takeWhile_range (by omega) (fun i hi => ?_) (fun h => ?_)
    · have := Nat.testBit_lt_two_pow (x := x.toNat) (i := w - 1 - i) (Nat.lt_log2_self.trans_le (Nat.pow_le_pow_right two_pos (by omega)))
      simp [BitVec.getMsbD, BitVec.getLsbD, this]
    · have : w - 1 - (w - 1 - Nat.log2 x.toNat) = Nat.log2 x.toNat := by omega
      simp [BitVec.getMsbD, BitVec.getLsbD, this, h, Nat.testBit_log2 h0]

end Counts

/-- A count of bits is written as it is: it lies below the sign of its type. -/
theorem intBits_count {t c : Nat} (h : c ≤ intWidth t) : intBits t (BitVec.ofNat _ c) = BitVec.ofNat 64 c := by
  have hhalf : c < 2 ^ (intWidth t - 1) := h.trans_lt (intWidth_lt_two_pow t)
  have hlow : low (intWidth t) c = c := Nat.mod_eq_of_lt (hhalf.trans_le (Nat.pow_le_pow_right two_pos (Nat.sub_le _ _)))
  unfold intBits
  split
  · rw [BitVec.signExtend, toInt_ofNat_eq_signedOf (intWidth_pos t), signedOf, hlow, if_pos hhalf, BitVec.ofInt_natCast]
  · exact (BitVec.ofNat_toNat ..).symm.trans (congrArg (BitVec.ofNat 64) hlow)

/-- Settles O11: each form computes on a bit vector of the type's width, and the shift amount is a remainder of that width. -/
theorem scalarShiftsAndCounts : Obligations.ScalarShiftsAndCounts := by
  intro s o ht w a n
  have hn : n < w := Nat.mod_lt _ (intWidth_pos o.T)
  refine ⟨?_, ?_, ?_, ?_, ?_, ?_, ?_⟩
  · show execShl o s = _
    rw [execShl, bitBinary_eq ht, shiftBy_setWidth, ofNat_mul_two_pow]
  · show execShr o s = _
    rw [execShr, bitBinary_eq ht, shiftBy_setWidth, ofNat_div_two_pow]
  · show execSar o s = _
    rw [execSar, bitBinary_eq ht, shiftBy_setWidth, ofNat_sarBits _ _ (intWidth_pos _)]
  · show execRol o s = _
    rw [execRol, bitBinary_eq ht, shiftBy_setWidth, ofNat_rolBits _ _ hn]
  · show execClz o s = _
    rw [execClz, bitUnary_eq ht, clz_eq, intBits_count ((List.takeWhile_sublist _).length_le.trans_eq List.length_range)]
  · show execCtz o s = _
    rw [execCtz, bitUnary_eq ht, ctz_eq, intBits_count ((List.takeWhile_sublist _).length_le.trans_eq List.length_range)]
  · show execPopc o s = _
    rw [execPopc, bitUnary_eq ht, popc_eq, intBits_count (List.countP_le_length.trans_eq List.length_range)]

/-! Logic, selection, constants and bit fields (R218, R219). -/

/-- An untyped form on all 64 bits. -/
theorem wordBinary_eq (o : Ops) (s : State) (f : Word → Word → Word) :
    wordBinary o s f = .next (wrote s o (f (s.cpu.readG o.A) (s.opB o.b))) := scalarDone_flagNone o s _

/-- R219: the mask of the field of `c + 1` bits at `pos`. -/
theorem getLsbD_fieldMask (c pos : Nat) {j : Nat} (hj : j < 64) :
    (BitVec.ofNat 64 (2 ^ (c + 1) - 1) <<< pos).getLsbD j = decide (pos ≤ j ∧ j ≤ pos + c) := by
  rw [BitVec.getLsbD_shiftLeft, BitVec.getLsbD_ofNat, Nat.testBit_two_pow_sub_one, Bool.eq_iff_iff]
  simp only [Bool.and_eq_true, Bool.not_eq_true', decide_eq_true_eq, decide_eq_false_iff_not]
  omega

/-- R218: LIH joins the low halves. -/
theorem shiftLeft_or_and_eq_append (b old : Word) :
    b <<< 32 ||| (old &&& 0xFFFFFFFF) = (b.setWidth 32 : BitVec 32) ++ (old.setWidth 32 : BitVec 32) := by
  apply BitVec.eq_of_getLsbD_eq
  intro j hj
  have hmask : (0xFFFFFFFF : Word).getLsbD j = decide (j ≤ 31) := by simpa using getLsbD_fieldMask 31 0 hj
  rw [BitVec.getLsbD_or, BitVec.getLsbD_and, hmask, BitVec.getLsbD_shiftLeft, BitVec.getLsbD_append, BitVec.getLsbD_setWidth, BitVec.getLsbD_setWidth]
  by_cases h : j ≤ 31
  · simp [h, Nat.lt_succ_iff.mpr h]
  · have : ¬ j < 32 ∧ j - 32 < 32 := by omega
    simp [h, hj, this]

/-- R219: BFI puts the low bits of `a` in the field and keeps the others. -/
theorem getLsbD_bfi (old a : Word) (pos c : Nat) {j : Nat} (hj : j < 64) :
    let mask := BitVec.ofNat 64 (2 ^ (c + 1) - 1) <<< pos
    ((old &&& ~~~mask) ||| ((a <<< pos) &&& mask)).getLsbD j = if pos ≤ j ∧ j ≤ pos + c then a.getLsbD (j - pos) else old.getLsbD j := by
  intro mask
  have hmask : mask.getLsbD j = decide (pos ≤ j ∧ j ≤ pos + c) := getLsbD_fieldMask c pos hj
  rw [BitVec.getLsbD_or, BitVec.getLsbD_and, BitVec.getLsbD_and, BitVec.getLsbD_not, hmask, BitVec.getLsbD_shiftLeft]
  split
  · next h => simp [h, hj, h.1.not_gt, -BitVec.getLsbD_eq_getElem]
  · next h => simp [h, hj, -BitVec.getLsbD_eq_getElem]

/-- R219: a bit of the field that BFX reads. -/
theorem getLsbD_fieldOf (a : Word) (pos len j : Nat) :
    (BitVec.ofNat len (fieldOf a pos len)).getLsbD j = (decide (j < len) && a.getLsbD (pos + j)) := by
  simp [fieldOf, low, BitVec.getLsbD, Nat.testBit_mod_two_pow, Nat.testBit_div_two_pow, Nat.add_comm]

/-- R219: BFX extends the field by its top bit or by zeros. -/
theorem getLsbD_bfx (a : Word) (signed : Bool) (pos c : Nat) {j : Nat} (hj : j < 64) :
    (BitVec.ofNat 64 (if signed then wrapInt 64 (signedOf (c + 1) (fieldOf a pos (c + 1))) else fieldOf a pos (c + 1))).getLsbD j
      = if j ≤ c then a.getLsbD (pos + j) else (signed && a.getLsbD (pos + c)) := by
  cases signed with
  | true =>
    rw [if_pos rfl, ofNat_wrapInt, ← toInt_ofNat_eq_signedOf c.succ_pos, ← BitVec.signExtend, BitVec.getLsbD_signExtend, BitVec.msb_eq_getLsbD_last,
      getLsbD_fieldOf, getLsbD_fieldOf]
    simp only [hj, Nat.lt_succ_iff]
    by_cases h : j ≤ c <;> simp [h]
  | false =>
    have hbit : (fieldOf a pos (c + 1)).testBit j = (decide (j < c + 1) && a.getLsbD (pos + j)) := by
      simp [fieldOf, low, BitVec.getLsbD, Nat.testBit_mod_two_pow, Nat.testBit_div_two_pow, Nat.add_comm]
    rw [if_neg Bool.false_ne_true, BitVec.getLsbD_ofNat, hbit]
    simp only [hj, Nat.lt_succ_iff]
    by_cases h : j ≤ c <;> simp [h]

/-- Settles O12: the forms on whole words by their functions, the bit fields bit by bit of the mask and of the extended field. -/
theorem scalarWords : Obligations.ScalarWords := by
  intro s o a b old
  have hbfi : exec (.bfi o) s = .next (wrote s o _) := show execBfi o s = _ from wordBinary_eq o s _
  have hbfx : exec (.bfx o) s = .next (wrote s o _) := show execBfx o s = _ from wordBinary_eq o s _
  refine ⟨wordBinary_eq o s (· &&& ·), wordBinary_eq o s (· ||| ·), wordBinary_eq o s (· ^^^ ·), wordBinary_eq o s (fun x y => x &&& ~~~y),
    wordBinary_eq o s (fun x y => x + y <<< o.C), fun h => ?_, fun h => ?_, wordBinary_eq o s (fun _ y => y), wordBinary_eq o s (fun _ y => y), ?_,
    ⟨_, hbfi, fun j hj => getLsbD_bfi old a _ _ hj⟩, ⟨_, hbfx, fun j hj => getLsbD_bfx a _ _ _ hj⟩⟩
  · show execSel o s = _
    rw [execSel, wordBinary_eq, if_pos h]
  · show execSel o s = _
    rw [execSel, wordBinary_eq, if_neg (not_not.mpr h)]
  · show execLih o s = _
    rw [execLih, wordBinary_eq, shiftLeft_or_and_eq_append]

/-! ABN operands of the scalar floating instructions (R105, R106, R217). -/

theorem isAbn_iff (x : Nat) : isAbn x = true ↔ 0xFFA00000 ≤ x ∧ x ≤ 0xFFA000FF := by simp [isAbn]

section AbnOperands

variable {s : State} {t : Nat}

/-- R105: the pattern of a register at the type's width, as an ABN operand. -/
theorem abnOf_floatG (n : Nat) (ht : t = 10) (h : isAbn (floatG s t n) = true) : abnOf t (floatG s t n) = some (floatG s t n) := by
  subst ht
  have hlow : low 32 (floatG s 10 n) = floatG s 10 n := Nat.mod_mod _ _
  simp [abnOf, hlow, h]

theorem abnOf_floatG_none {n : Nat} (h : t = 10 → isAbn (floatG s t n) = false) : abnOf t (floatG s t n) = none := by
  by_cases ht : t = 10
  · have hlow : low 32 (floatG s 10 n) = floatG s 10 n := Nat.mod_mod _ _
    subst ht
    simp [abnOf, hlow, h rfl]
  · simp [abnOf, ht]

variable {o : Ops}

/-- R181, R182: an F20 or a literal in the ABN range is an ABN under every IEEE type. -/
theorem floatB_abn_of_f32Pattern {p : Nat} (h11 : o.T ≤ 11) (hp : o.b.f32Pattern = some p) (h : isAbn p = true) : (floatB s o).2 = some p := by
  have h12 : o.T ≠ 12 := by omega
  simp [floatB, operandFp, hp, h, h12]

theorem floatB_abn_of_register (ht : o.T = 10) (hp : o.b.f32Pattern = none) (h : isAbn (fpB s o) = true) : (floatB s o).2 = some (fpB s o) := by
  have hB : operandFp s.cpu.readG s.cpu.readK o.T o.b = (fpB s o, if o.T == 10 && isAbn (fpB s o) then some (fpB s o) else none) := by
    simp only [fpB, operandFp, hp]
  rw [floatB, hB, if_pos (by simp [ht, h])]

end AbnOperands

/-! Completion of a floating instruction (R217). -/

section FloatDone

variable (o : Ops) (s : State) (abns : List (Option Nat)) (r : Nat × Flags)

@[simp] theorem floatDone_nil : floatDone o s [] r = .next (wroteFp s o r) := rfl

@[simp] theorem floatDone_none : floatDone o s (none :: abns) r = floatDone o s abns r := rfl

@[simp] theorem floatDone_some (x : Nat) : floatDone o s (some x :: abns) r = .next (scalarTrap s 0x20 (BitVec.ofNat 64 x)) := rfl

end FloatDone

section FloatForms

variable {s : State} {o : Ops} (h : noAbn s o)
include h

theorem floatDone_unary (r : Nat × Flags) : floatDone o s [abnOf o.T (floatG s o.T o.A)] r = .next (wroteFp s o r) := by
  rw [abnOf_floatG_none h.1, floatDone_none, floatDone_nil]

theorem floatDone_operands (abns : List (Option Nat)) (r : Nat × Flags) :
    floatDone o s (abnOf o.T (floatG s o.T o.A) :: (floatB s o).2 :: abns) r = floatDone o s abns r := by
  have hB : (floatB s o).2 = none := h.2
  rw [abnOf_floatG_none h.1, hB, floatDone_none, floatDone_none]

theorem floatDone_binary (r : Nat × Flags) : floatDone o s [abnOf o.T (floatG s o.T o.A), (floatB s o).2] r = .next (wroteFp s o r) :=
  floatDone_operands h [] r

theorem floatDone_fused (hc : o.T = 10 → isAbn (floatG s o.T o.C) = false) (r : Nat × Flags) :
    floatDone o s [abnOf o.T (floatG s o.T o.A), (floatB s o).2, abnOf o.T (floatG s o.T o.C)] r = .next (wroteFp s o r) := by
  rw [floatDone_operands h, abnOf_floatG_none hc, floatDone_none, floatDone_nil]

end FloatForms

/-- Settles O14: each form is `floatDone` of its operands' ABNs and its rounded result, and without an ABN it writes that result. -/
theorem scalarFloatArithmetic : Obligations.ScalarFloatArithmetic := by
  intro s o h8 h11 h f a b c rm
  exact ⟨floatDone_binary h _, floatDone_binary h _, floatDone_binary h _, floatDone_binary h _, floatDone_unary h _, floatDone_binary h _,
    floatDone_binary h _, floatDone_unary h _, floatDone_unary h _, floatDone_binary h _, fun hc => floatDone_fused h hc _⟩

/-! Conversions and classifications (R221, R222). -/

/-- R221: the rounding that a conversion names. -/
theorem convRm_eq (code fpmode : Nat) : convRm code fpmode = if code = 0 then fpmode else code - 1 := by
  simp [convRm]

/-- R217: an integer result of a conversion is extended by its type. -/
theorem wroteFp_extendTo {o : Ops} (ht : o.T < 8) (s : State) (x : Nat) (fl : Flags) :
    wroteFp s o (extendTo 64 o.T x, fl) = wroteFlags s o (intBits o.T (BitVec.ofNat _ x)) fl := by
  have : BitVec.ofNat 64 (extendTo 64 o.T x) = intBits o.T (BitVec.ofNat _ x) := extendG_eq ht x
  simp only [wroteFp, this]

/-- R222: FABN's result in bits. -/
theorem ofNat_abnCode (x : Word) : BitVec.ofNat 64 (0x100 + x.toNat % 2 ^ 32 % 256) = 0x100 ||| (x &&& 0xFF) := by
  have hfield : BitVec.ofNat 64 (x.toNat % 2 ^ 32 % 256) = x &&& 0xFF := by
    apply BitVec.eq_of_toNat_eq
    have hand : (x &&& 0xFF).toNat = x.toNat % 256 := Nat.and_two_pow_sub_one_eq_mod x.toNat 8
    rw [hand, BitVec.toNat_ofNat]
    omega
  have hdisjoint : (0x100 : Word) &&& (x &&& 0xFF) = 0#64 := by
    rw [BitVec.and_comm x, ← BitVec.and_assoc]
    exact BitVec.zero_and
  rw [BitVec.ofNat_add, hfield]
  exact BitVec.add_eq_or_of_and_eq_zero _ _ hdisjoint

/-- Settles O15: a conversion reads no ABN and rounds as it names; the classifications write their code without a trap. -/
theorem scalarFloatConversions : Obligations.ScalarFloatConversions := by
  intro s o x rm
  have hrm : convRm o.rmScalar s.cpu.fpmode = rm := convRm_eq _ _
  refine ⟨fun h => ⟨?_, fun ht => ?_⟩, ?_, ?_, fun h => ?_, fun h => ?_⟩
  · show execFcvt o s = _
    rw [execFcvt, abnOf_floatG_none h, hrm, floatDone_none, floatDone_nil]
    rfl
  · show execFcvti o s = _
    simp only [execFcvti, abnOf_floatG_none h, hrm, floatDone_none, floatDone_nil, wroteFp_extendTo ht]
    rfl
  · show execIcvtf o s = _
    rw [execIcvtf, hrm, floatDone_nil]
    rfl
  · exact scalarDone_flagNone o s _
  · show execFabn o s = _
    have : isAbn (floatG s 10 o.A) = true := (isAbn_iff _).mpr h
    rw [execFabn, if_pos this, scalarDone_flagNone, ← ofNat_abnCode]
    rfl
  · show execFabn o s = _
    have : ¬ isAbn (floatG s 10 o.A) = true := mt (isAbn_iff _).mp h
    rw [execFabn, if_neg this, scalarDone_flagNone]

/-! ABN traps (R106, R217). -/

/-- The scalar floating instructions with operands A and B. -/
theorem exec_of_two_operands {s : State} {o : Ops} {i : Instr}
    (hi : i = .fadd o ∨ i = .fsub o ∨ i = .fmul o ∨ i = .fdiv o ∨ i = .fmin o ∨ i = .fmax o ∨ i = .fcmp o ∨ i = .ffma o) :
    ∃ abns r, exec i s = floatDone o s (abnOf o.T (floatG s o.T o.A) :: (floatB s o).2 :: abns) r := by
  rcases hi with rfl | rfl | rfl | rfl | rfl | rfl | rfl | rfl <;> exact ⟨_, _, rfl⟩

theorem exec_ffma (s : State) (o : Ops) :
    ∃ r, exec (.ffma o) s = floatDone o s [abnOf o.T (floatG s o.T o.A), (floatB s o).2, abnOf o.T (floatG s o.T o.C)] r := ⟨_, rfl⟩

theorem exec_of_one_operand {s : State} {o : Ops} {i : Instr} (hi : i ∈ [(.fsqrt o : Instr), .fabs o, .fneg o]) :
    ∃ r, exec i s = floatDone o s [abnOf o.T (floatG s o.T o.A)] r := by
  simp only [List.mem_cons, List.not_mem_nil, or_false] at hi
  rcases hi with rfl | rfl | rfl <;> exact ⟨_, rfl⟩

theorem exec_of_conversion {s : State} {o : Ops} {i : Instr} (hi : i ∈ [(.fcvt o : Instr), .fcvti o]) :
    ∃ r, exec i s = floatDone o s [abnOf o.C (floatG s o.C o.A)] r := by
  simp only [List.mem_cons, List.not_mem_nil, or_false] at hi
  rcases hi with rfl | rfl <;> exact ⟨_, rfl⟩

/-- R106: an ABN in register A comes first. -/
theorem traps_abn_A {s : State} {o : Ops} {i : Instr} {t : Nat} {abns : List (Option Nat)} {r : Nat × Flags} (ht : t = 10)
    (h : isAbn (floatG s t o.A) = true) (hi : exec i s = floatDone o s (abnOf t (floatG s t o.A) :: abns) r) :
    exec i s = .next (scalarTrap s 0x20 (BitVec.ofNat 64 (floatG s t o.A))) := by rw [hi, abnOf_floatG _ ht h, floatDone_some]

/-- Settles O16: the first ABN of the operands A, B and C in this order is the one that traps. -/
theorem scalarAbnTraps : Obligations.ScalarAbnTraps := by
  intro s o i hi
  obtain ⟨abns, r, hexec⟩ := exec_of_two_operands (s := s) hi
  refine ⟨fun ht h => traps_abn_A ht h hexec, fun p hA h8 h11 hp h => ?_, fun ht hA hp h => ?_, fun ht h j hj => ?_, fun ht h j hj => ?_,
    fun ht hn h => ?_⟩
  · rw [hexec, abnOf_floatG_none hA, floatB_abn_of_f32Pattern h11 hp h, floatDone_none, floatDone_some]
  · rw [hexec, abnOf_floatG_none (fun _ => hA), floatB_abn_of_register ht hp h, floatDone_none, floatDone_some]
  · obtain ⟨q, hq⟩ := exec_of_one_operand hj
    exact traps_abn_A ht h hq
  · obtain ⟨q, hq⟩ := exec_of_conversion (s := s) hj
    have hx : floatG s o.C o.A = (s.cpu.readG o.A).toNat % 2 ^ 32 := by rw [ht]; rfl
    rw [← hx] at h ⊢
    exact traps_abn_A ht h hq
  · have hc : floatG s o.T o.C = (s.cpu.readG o.C).toNat % 2 ^ 32 := by rw [ht]; rfl
    rw [← hc] at h ⊢
    obtain ⟨q, hq⟩ := exec_ffma s o
    rw [hq, floatDone_operands hn, abnOf_floatG _ ht h, floatDone_some]

/-! Branches, calls and jumps (R223, R225). -/

section Branches

variable (o : Ops) (s : State) (f : Strand → Strand)

theorem branchIf_taken {b : Bool} (h : b = true) : branchIf o s b f = .next (jumped s (s.cpu.pc + 8 * s.opB o.b) f) := if_pos h

theorem branchIf_passed {b : Bool} (h : b = false) : branchIf o s b f = .next (s.commit o.bytes f) := if_neg (Bool.eq_false_iff.mp h)

theorem indirectJump_aligned (h : (s.cpu.readG o.A).toNat % 8 = 0) : indirectJump o s f = .next (jumped s (s.cpu.readG o.A) f) :=
  if_neg (not_not.mpr h)

theorem indirectJump_misaligned (h : (s.cpu.readG o.A).toNat % 8 ≠ 0) : indirectJump o s f = .next (scalarTrap s 0x10 (s.cpu.readG o.A)) := if_pos h

end Branches

/-- R187, R223: BCC compares D and A at its type. -/
theorem exec_bcc {o : Ops} (ht : o.T < 8) (s : State) :
    exec (.bcc o) s = branchIf o s (condInt o.C (intValue o.T (s.cpu.readG o.D)) (intValue o.T (s.cpu.readG o.A))) id := by
  show execBcc o s = _
  rw [execBcc, intOf_eq ht, intOf_eq ht]

/-! Branches on a mask (R224, R58). -/

section MaskBranches

variable {s : State} {o : Ops}

theorem maskBranch_waits (h : s.cpu.queue.any QEntry.writesMasks = true) (taken : Bool) : maskBranch o s taken = .next s.park := if_pos h

section Ready

variable (hq : s.cpu.queue.any QEntry.writesMasks = false) {b : Bool}
include hq

theorem maskBranch_ready : maskBranch o s b = branchIf o s b id := if_neg (Bool.eq_false_iff.mp hq)

theorem maskBranch_taken (h : b = true) : maskBranch o s b = .next (jumped s (s.cpu.pc + 8 * s.opB o.b) id) :=
  (maskBranch_ready hq).trans (branchIf_taken o s id h)

theorem maskBranch_passed (h : b = false) : maskBranch o s b = .next (s.commit o.bytes id) := (maskBranch_ready hq).trans (branchIf_passed o s id h)

end Ready

theorem maskBits_any (t : Strand) (n : Nat) : (maskBits t n).any id = true ↔ ∃ i, i < t.vl ∧ t.readM n i = true := by simp [maskBits]

theorem maskBits_all (t : Strand) (n : Nat) : (maskBits t n).all id = true ↔ ∀ i, i < t.vl → t.readM n i = true := by simp [maskBits]

theorem maskBits_any_false (t : Strand) (n : Nat) : (maskBits t n).any id = false ↔ ∀ i, i < t.vl → t.readM n i = false := by simp [maskBits]

theorem maskBits_all_false (t : Strand) (n : Nat) : (maskBits t n).all id = false ↔ ∃ i, i < t.vl ∧ t.readM n i = false := by simp [maskBits]

end MaskBranches

/-- Settles O19: a branch is `branchIf` of its condition, behind the queue for a branch on a mask; jumps go to their target unless it is misaligned. -/
theorem controlTransfers : Obligations.ControlTransfers := by
  refine ⟨?_, ?_⟩
  · intro s o target past n
    refine ⟨rfl, fun h => ⟨branchIf_taken o s id (beq_iff_eq.mpr h), branchIf_passed o s id (bne_eq_false_iff_eq.mpr h)⟩,
      fun h => ⟨branchIf_passed o s id (beq_eq_false_iff_ne.mpr h), branchIf_taken o s id (bne_iff_ne.mpr h)⟩, fun ht hc => ?_,
      fun h => branchIf_taken o s (fun t => t.writeG o.D n) (bne_iff_ne.mpr h),
      fun h => branchIf_passed o s (fun t => t.writeG o.D n) (bne_eq_false_iff_eq.mpr h), rfl,
      fun h => ⟨indirectJump_aligned o s _ h, indirectJump_aligned o s (fun t => t.writeG 63 (t.pc + 8)) h⟩,
      fun h => ⟨indirectJump_misaligned o s _ h, indirectJump_misaligned o s _ h⟩, rfl, rfl, rfl⟩
    rw [exec_bcc ht]
    exact ⟨fun h => branchIf_taken o s id ((condInt_iff hc _ _).mpr h),
      fun h => branchIf_passed o s id (Bool.eq_false_iff.mpr (mt (condInt_iff hc _ _).mp h))⟩
  · intro s o
    refine ⟨fun hq => ⟨fun h => ?_, fun h => ?_, fun h => ?_, fun h => ?_⟩,
      fun hq => ⟨maskBranch_waits hq _, maskBranch_waits hq _, maskBranch_waits hq _⟩⟩
    · have hany := (maskBits_any s.cpu o.A).mpr h
      exact ⟨maskBranch_taken hq hany, maskBranch_passed hq (congrArg not hany)⟩
    · have hany := (maskBits_any_false s.cpu o.A).mpr h
      exact ⟨maskBranch_passed hq hany, maskBranch_taken hq (congrArg not hany)⟩
    · exact maskBranch_taken hq ((maskBits_all s.cpu o.A).mpr h)
    · exact maskBranch_passed hq ((maskBits_all_false s.cpu o.A).mpr h)

/-! Gates (R227 to R229). -/

/-- R226: the info word of an entry that is valid and has no reserved bit. -/
theorem bitsOf_gateInfo {x : Nat} (h8 : 8 ≤ x) (h16 : x < 16) : bitsOf x 3 3 = 1 ∧ bitsOf x 63 4 = 0 := by
  have h : x / 8 = 1 ∧ x / 16 = 0 := by omega
  exact ⟨by simp [bitsOf, h.1], by simp [bitsOf, h.2]⟩

theorem maskWords_eq (mvl : Nat) : maskWords mvl = (mvl + 63) / 64 := rfl

theorem not_not_drained {s : State} (h : drained s = true) : ¬ (!drained s) = true := by simp [h]

/-- Settles O20: an entry or a frame as the statement has it passes every check, and the jump behind them is the one stated. -/
theorem gateCalls : Obligations.GateCalls := by
  refine ⟨?_, ?_⟩
  · intro s s1 s2 o bytes hdrained hindex hentry word lvl base f htarget hsp hinfo hvalid hlevel hzero hown hrange hwrite
    obtain ⟨hbit3, hbits4⟩ := bitsOf_gateInfo hvalid hinfo
    have hlegal : ¬ (bitsOf (word 2) 3 3 = 0 ∨ bitsOf (word 2) 63 4 ≠ 0 ∨ word 3 ≠ 0 ∨ word 2 % 4 = 3 ∨ word 0 % 8 ≠ 0 ∨ word 1 % 16 ≠ 0) := by
      simp [hbit3, hbits4, hzero, hlevel, htarget, hsp]
    have hstack : ¬ (s1.cpu.level.rank < lvl.rank ∧ word 1 = 0) := fun h => hown h.1 h.2
    have hdistinct : ¬ (word 1 ≠ 0 ∧ f.toNat ≤ (s1.cpu.readG 62).toNat ∧ (s1.cpu.readG 62).toNat < word 1) := fun h => hrange h.1 h.2
    show execGate o s = _
    rw [execGate, if_neg (not_not_drained hdrained), if_neg hindex.not_ge, hentry]
    dsimp only
    rw [maskWords_eq, if_neg hlegal, if_neg hstack, if_neg hdistinct, hwrite]
    rfl
  · intro s s1 s2 head masks hdrained hhead word hself hlow hhigh h4 h5 h6 h7 hlevel hmasks
    have hlegal : ¬ (word 3 ≠ (s.cpu.readG 62).toNat ∨ bitsOf (word 2) 15 3 ≠ 0 ∨ bitsOf (word 2) 63 32 ≠ 0 ∨ word 4 ≠ 0 ∨ word 5 ≠ 0 ∨ word 6 ≠ 0
        ∨ word 7 ≠ 0 ∨ s.cpu.level.rank < word 2 % 4) := by
      simp [hself, hlow, hhigh, h4, h5, h6, h7, hlevel]
    show execGret s = _
    rw [execGret, if_neg (not_not_drained hdrained), hhead]
    dsimp only
    rw [if_neg hlegal, maskWords_eq, hmasks]
    rfl

end Sys2Proof.Proofs.Scalar

/-! The obligations of spec/15_vector.md: the mask instructions (R239), the element-wise instructions (R231 to R236, R240 to R244), reductions and dot
products (R245 to R247), and permutations (R248 to R250). -/

namespace Sys2Proof.Proofs.Vector

open Sys2Proof Sys2Proof.Machine Sys2Proof.Safety Sys2Proof.Claims Sys2Proof.Laws
open Sys2Proof.Proofs.Numbers (typeWidth_eq mem_activeList_iff firstAbn_pair mulExact_finite)
open Sys2Proof.Proofs.Encoding (wrapInt_mod signedOf_emod)
open Sys2Proof.Proofs.Scalar (intOf_eq extendG_eq ofNat_wrapInt condInt_iff convRm_eq highProduct_eq intWidth_pos ofNat_mul_two_pow ofNat_div_two_pow ofNat_sarBits
  popc_eq clz_eq)

/-! Completion at the head of the queue (R235). -/

/-- Only what the meaning makes of the current strand counts. -/
theorem retire_congr {s : State} {f g : Strand → Strand} (h : f s.cpu = g s.cpu) : s.retire f = s.retire g := by
  simp only [State.retire, State.onCpu, h]

@[simp] theorem orFlags_flagNone (t : Strand) : t.orFlags flagNone = t := by simp [Strand.orFlags, flagNone]

/-- R22: where VL = 0 leaves nothing to do, the sequencer's short way is no exception. -/
theorem unlessVl0_next {s : State} {f : Strand → Strand} (h : s.cpu.vl = 0 → f s.cpu = s.cpu) :
    unlessVl0 s (.next (s.retire f)) = .next (s.retire f) := by
  by_cases hvl : s.cpu.vl = 0
  · rw [unlessVl0_none _ _ hvl, retire_congr (g := f) (h hvl).symm]
  · exact unlessVl0_pass _ _ hvl

theorem activeList_of_vl0 {t : Strand} (h : t.vl = 0) (o : Ops) (neg : Bool) : activeList t o neg = [] := by simp [activeList, h]

theorem lt_of_mem_activeList {s : State} {o : Ops} {neg : Bool} (hvl : s.cpu.vl ≤ 65536) : ∀ k ∈ activeList s.cpu o neg, k < 65536 :=
  fun _ hk => (mem_activeList_iff.mp hk).2.1.trans_le hvl

/-- R235: an element-wise instruction without a trap writes the results and flags of its active elements, whatever VL is. -/
theorem vectorOp_completes {i : Instr} {o : Ops} {types : List Nat} {neg : Bool} {s : State} {f : Nat → Elem} (w : Strand → Nat → Nat → Strand)
    (hd : HeadReady i types s.cpu) (h : ∀ k ∈ activeList s.cpu o neg, (f k).abn = none) :
    vectorOp i o types neg s f w =
      .next (s.retire (fun t => (putAll w f t (activeList s.cpu o neg)).orFlags (flagsOf f (activeList s.cpu o neg)))) := by
  rw [vectorOp, atHead_pass _ _ _ _ hd, runElems_done _ _ _ _ _ h]
  exact unlessVl0_next (fun hvl => by simp [activeList_of_vl0 hvl, putAll, flagsOf])

/-! Writes of mask bits (R232). -/

/-- Bit `k` of mask `d` set to `f k`, for each `k` of a list. -/
def putMask (d : Nat) (f : Nat → Bool) (t : Strand) (l : List Nat) : Strand := l.foldl (fun u k => u.writeM d k (f k)) t

theorem putMask_cons (d : Nat) (f : Nat → Bool) (t : Strand) (k : Nat) (l : List Nat) : putMask d f t (k :: l) = putMask d f (t.writeM d k (f k)) l := rfl

theorem readM_putMask (d : Nat) (f : Nat → Bool) {l : List Nat} (hl : ∀ k ∈ l, k < 65536) (n : Nat) {j : Nat} (hj : j < 65536) :
    ∀ t, (putMask d f t l).readM n j = if n = d ∧ j ∈ l then f j else t.readM n j := by
  induction l with
  | nil => intro t; simp [putMask]
  | cons k rest ih =>
    intro t
    obtain ⟨hk, hrest⟩ := List.forall_mem_cons.mp hl
    rw [putMask_cons, ih hrest, readM_writeM _ _ _ _ _ _ hk hj]
    by_cases hjk : j = k
    · subst hjk; by_cases hn : n = d <;> simp [hn]
    · simp [hjk]

theorem writeM_eq (t : Strand) (d k : Nat) (b : Bool) : ∃ m mq, t.writeM d k b = { t with m := m, mqOff := mq } := by
  unfold Strand.writeM
  split
  · exact ⟨_, _, rfl⟩
  · exact ⟨_, _, rfl⟩

/-- Writes of mask bits change nothing else of the strand. -/
theorem putMask_eq (d : Nat) (f : Nat → Bool) (l : List Nat) : ∀ t, ∃ m mq, putMask d f t l = { t with m := m, mqOff := mq } := by
  induction l with
  | nil => exact fun t => ⟨_, _, rfl⟩
  | cons k rest ih =>
    intro t
    obtain ⟨m, mq, h⟩ := writeM_eq t d k (f k)
    obtain ⟨m', mq', h'⟩ := ih (t.writeM d k (f k))
    exact ⟨m', mq', by rw [putMask_cons, h', h]⟩

/-! The mask instructions (R239). -/

/-- A mask operation reads every bit from the state before it. -/
theorem maskSet_of_maskOp {i : Instr} {s : State} {o : Ops} {f : Nat → Bool} (hvl : s.cpu.vl ≤ 65536) (hx : exec i s = maskOp o s f) : MaskSet i s o f := by
  have hl : ∀ k ∈ List.range s.cpu.vl, k < 65536 := fun k hk => (List.mem_range.mp hk).trans_le hvl
  obtain ⟨m, mq, heq⟩ := putMask_eq o.D f (List.range s.cpu.vl) s.cpu
  refine ⟨m, mq, ?_, fun n k hk => ?_⟩
  · rw [hx]
    exact congrArg _ (retire_congr heq)
  · rw [← heq, readM_putMask _ _ hl _ hk]
    simp only [List.mem_range]

section FirstSet

variable {s : State} {o : Ops}

theorem firstSet_of_first {f : Nat} (hset : s.cpu.readM o.A f = true) (hf : f < s.cpu.vl) (hlow : ∀ j, j < f → s.cpu.readM o.A j = false) :
    firstSet o s = some f :=
  List.find?_range_eq_some.mpr ⟨hset, List.mem_range.mpr hf, fun j hj => by simp [hlow j hj]⟩

theorem firstSet_of_none (h : ∀ j, j < s.cpu.vl → s.cpu.readM o.A j = false) : firstSet o s = none :=
  List.find?_eq_none.mpr (fun j hj => by simp [h j (List.mem_range.mp hj)])

end FirstSet

/-- Settles O39: each instruction writes the bits below VL by a function of the masks before it, or one count or index to a g register. -/
theorem maskInstructions : Obligations.MaskInstructions := by
  intro s o hvl set
  refine ⟨?_, maskSet_of_maskOp hvl (show _ = execMval o s from rfl), ⟨_, maskSet_of_maskOp hvl (show _ = execMbefore o s from rfl), ?_, ?_⟩,
    ⟨_, maskSet_of_maskOp hvl (show _ = execMincl o s from rfl), ?_, ?_⟩, ⟨_, maskSet_of_maskOp hvl (show _ = execMonly o s from rfl), ?_, ?_⟩,
    ?_, ?_, ?_⟩
  · simp only [maskTable, List.forall_mem_cons]
    exact ⟨maskSet_of_maskOp hvl (show _ = execMset o s from rfl), maskSet_of_maskOp hvl (show _ = execMclr o s from rfl),
      maskSet_of_maskOp hvl (show _ = execMand o s from rfl), maskSet_of_maskOp hvl (show _ = execMor o s from rfl),
      maskSet_of_maskOp hvl (show _ = execMxor o s from rfl), maskSet_of_maskOp hvl (show _ = execMnot o s from rfl),
      maskSet_of_maskOp hvl (show _ = execMandn o s from rfl), List.forall_mem_nil _⟩
  · rintro f k ⟨hset, hf, hlow, -⟩
    simp [firstSet_of_first hset hf hlow]
  · intro h k _
    simp [firstSet_of_none h]
  · rintro f k ⟨hset, hf, hlow, -⟩
    simp [firstSet_of_first hset hf hlow]
  · intro h k _
    simp [firstSet_of_none h]
  · rintro f k ⟨hset, hf, hlow, -⟩
    simp [firstSet_of_first hset hf hlow, Bool.beq_eq_decide_eq, eq_comm]
  · intro h k _
    simp [firstSet_of_none h]
  · show execMpop o s = _
    exact congrArg _ (retire_congr (by rw [List.countP_eq_length_filter]))
  · rintro f ⟨hset, hf, hlow, -⟩
    show execMfirst o s = _
    rw [execMfirst, firstSet_of_first hset hf hlow]
  · intro h
    show execMfirst o s = _
    rw [execMfirst, firstSet_of_none h]
    rfl

/-! The element-wise effect (R231, R232, R235). -/

theorem getLsbD_foldl_flags (f : Nat → Elem) (b : Nat) (l : List Nat) :
    ∀ a : Flags, (l.foldl (fun a i => a ||| (f i).flags) a).getLsbD b = true ↔ a.getLsbD b = true ∨ ∃ k ∈ l, (f k).flags.getLsbD b = true := by
  induction l with
  | nil => simp
  | cons k rest ih => intro a; simp [ih, or_assoc]

/-- R85: the flags of the active elements are ORed into FPFLAGS. -/
theorem flagsAre_flagsOf {s : State} {o : Ops} {neg : Bool} {f : Nat → Elem} {fl : Nat → Flags} (hf : ∀ k, Active s o neg k → (f k).flags = fl k) :
    FlagsAre s o neg fl (s.cpu.fpflags ||| flagsOf f (activeList s.cpu o neg)) := by
  intro b _
  have hbits := getLsbD_foldl_flags f b (activeList s.cpu o neg) flagNone
  rw [← flagsOf] at hbits
  have hnone : flagNone.getLsbD b = false := by simp [flagNone]
  rw [BitVec.getLsbD_or, Bool.or_eq_true, hbits, hnone]
  simp only [Bool.false_eq_true, false_or, mem_activeList_iff]
  exact or_congr_right (exists_congr fun k => and_congr_right fun hk => by rw [hf k hk])

/-- Writes of elements change nothing of the strand but the v registers and marks of poison, none of which they add. -/
theorem putAll_putV_eq (o : Ops) (f : Nat → Elem) (l : List Nat) :
    ∀ t, ∃ v p h, putAll (putV o) f t l = { t with v := v, poison := p, healed := h } ∧ ∀ x ∈ p, x ∈ t.poison := by
  induction l with
  | nil => exact fun t => ⟨_, _, _, rfl, fun _ hx => hx⟩
  | cons i rest ih =>
    intro t
    have hpoison : ∀ x ∈ (putV o t i (f i).val).poison, x ∈ t.poison := by
      unfold putV Strand.writeV
      dsimp only
      split
      · exact fun x hx => (List.mem_filter.mp hx).1
      · exact fun x hx => hx
    obtain ⟨v, p, h, heq, hp⟩ := ih (putV o t i (f i).val)
    exact ⟨v, p, h, heq, fun x hx => hpoison x (hp x hx)⟩

section Elementwise

variable {i : Instr} {s : State} {o : Ops} {types : List Nat} {neg : Bool} {f : Nat → Elem} {fl : Nat → Flags}
variable (hvl : s.cpu.vl ≤ 65536) (hd : HeadReady i types s.cpu)
include hvl hd

/-- R235: an instruction that runs its elements into vD has the element-wise effect of what each active element gives. -/
theorem elementwise_of_vectorOp {val : Nat → Nat} (hx : exec i s = vectorOp i o types neg s f (putV o))
    (hf : ∀ k, Active s o neg k → f k = ⟨val k, fl k, none⟩) : Elementwise i s o neg val fl := by
  obtain ⟨v, p, h, heq, hp⟩ := putAll_putV_eq o f (activeList s.cpu o neg) s.cpu
  have hflags : FlagsAre s o neg fl _ := flagsAre_flagsOf (f := f) (fun k hk => by rw [hf k hk])
  refine ⟨v, p, _, ?_, hp, hflags, fun n k hk => ?_⟩
  · rw [hx, vectorOp_completes _ hd (fun k hk => by rw [hf k (mem_activeList_iff.mp hk)])]
    simp only [State.retire, State.onCpu, heq]
    rfl
  · have hiff : n = o.D ∧ k ∈ activeList s.cpu o neg ↔ n = o.D ∧ Active s o neg k := and_congr_right' mem_activeList_iff
    have hread := readV_putAll o f (activeList s.cpu o neg) s.cpu n k (lt_of_mem_activeList hvl) hk
    rw [heq] at hread
    refine ⟨fun hact => ?_, fun hact => ?_⟩
    · rw [if_pos (hiff.mpr hact), hf k hact.2] at hread
      exact hread
    · rw [if_neg (mt hiff.mp hact)] at hread
      exact hread

/-- The same for an instruction that runs its elements into mask D. -/
theorem elementwiseMask_of_vectorOp {val : Nat → Bool} (hx : exec i s = vectorOp i o types neg s f (putM o))
    (hf : ∀ k, Active s o neg k → f k = ⟨boolNat (val k), fl k, none⟩) : ElementwiseMask i s o neg val fl := by
  have hbit (b : Bool) : (boolNat b != 0) = b := by cases b <;> rfl
  obtain ⟨m, mq, heq⟩ := putMask_eq o.D (fun k => (f k).val != 0) (activeList s.cpu o neg) s.cpu
  have hflags : FlagsAre s o neg fl _ := flagsAre_flagsOf (f := f) (fun k hk => by rw [hf k hk])
  refine ⟨m, mq, _, ?_, hflags, fun n k hk => ?_⟩
  · rw [hx, vectorOp_completes _ hd (fun k hk => by rw [hf k (mem_activeList_iff.mp hk)])]
    have hput : putAll (putM o) f s.cpu (activeList s.cpu o neg) = { s.cpu with m := m, mqOff := mq } := heq
    simp only [State.retire, State.onCpu, hput]
    rfl
  · have hiff : n = o.D ∧ k ∈ activeList s.cpu o neg ↔ n = o.D ∧ Active s o neg k := and_congr_right' mem_activeList_iff
    rw [← heq, readM_putMask _ _ (lt_of_mem_activeList hvl) _ hk]
    refine ⟨fun hact => ?_, fun hact => if_neg (mt hiff.mp hact)⟩
    rw [if_pos (hiff.mpr hact), hf k hact.2]
    exact hbit _

end Elementwise

/-! Integer elements (R77 to R79, R240). -/

theorem low_low (w x : Nat) : low w (low w x) = low w x := Nat.mod_mod _ _

theorem intOf_low (t x : Nat) : intOf t (low (typeWidth t) x) = intOf t x := by simp only [intOf, signedOf, low_low]

/-- A pattern and its value agree modulo the width. -/
theorem intOf_modEq (t x : Nat) : intOf t x ≡ x [ZMOD ((2 ^ typeWidth t : Nat) : Int)] := by
  unfold intOf
  split
  · exact signedOf_emod _ _
  · exact (Int.natCast_mod _ _).symm ▸ Int.mod_modEq _ _

section IntegerType

variable {t : Nat} (ht : t < 8)
include ht

/-- R216: the value that a pattern of any length stands for. -/
theorem intValue_ofNat (x : Nat) : intValue t (BitVec.ofNat 64 x) = intOf t x := by
  have hw : typeWidth t ≤ 64 := by interval_cases t <;> decide
  have hlow : low (typeWidth t) (x % 2 ^ 64) = low (typeWidth t) x := Nat.mod_mod_of_dvd _ (pow_dvd_pow 2 hw)
  rw [← intOf_eq ht, BitVec.toNat_ofNat, ← intOf_low, hlow, intOf_low]

theorem intOf_elemOf (s : State) (n k : Nat) : intOf t (elemOf s.cpu t n k) = elemInt s t n k := by rw [elemOf, intOf_low, elemInt, intValue_ofNat ht]

/-- R77: an integer kept to the type's width. -/
theorem wrapInt_eq_intPattern (x : Int) : wrapInt (typeWidth t) x = intPattern t x := by
  rw [intPattern, BitVec.toNat_ofInt, typeWidth_eq ht, wrapInt]

/-- A number congruent to an integer has the integer's low bits. -/
theorem low_eq_intPattern {n : Nat} {x : Int} (h : (n : Int) ≡ x [ZMOD ((2 ^ typeWidth t : Nat) : Int)]) : low (typeWidth t) n = intPattern t x := by
  rw [← wrapInt_eq_intPattern ht, wrapInt, ← h, ← Int.natCast_mod, Int.toNat_natCast, low]

theorem toNat_ofNat_eq_low (x : Nat) : (BitVec.ofNat (intWidth t) x).toNat = low (typeWidth t) x := by rw [BitVec.toNat_ofNat, typeWidth_eq ht, low]

/-- R77: saturation clamps to the type's range. -/
theorem saturate_eq_clampTo (x : Int) : saturate t x = clampTo t x := by
  simp only [saturate, clampTo, clampInt, typeSigned, decide_eq_true_eq, typeWidth_eq ht, Nat.cast_pow, Nat.cast_ofNat]

end IntegerType

section IntegerForms

variable {i : Instr} {s : State} {o : Ops} (ht : o.T < 8)
include ht

/-- R233: an integer operand b is a pattern of the type's width. -/
theorem low_bElem (k : Nat) : low (typeWidth o.T) (bElem s o o.T k) = bElem s o o.T k := by
  have hint : ¬ (8 ≤ o.T ∧ o.T ≤ 12) := by omega
  unfold bElem
  rw [if_neg hint]
  split
  · exact low_low _ _
  · exact low_low _ _

theorem intOf_bElem (k : Nat) : intOf o.T (bElem s o o.T k) = bInt s o k := (intValue_ofNat ht _).symm

variable (hvl : s.cpu.vl ≤ 65536) (hd : HeadReady i [o.T] s.cpu)
include hvl hd

/-- R240: a two-operand form on values. -/
theorem vIntBinary_elementwise {f g : Int → Int → Int} (hx : exec i s = vIntBinary i o s f) (hg : ∀ a b, f a b = g a b) :
    Elementwise i s o (o.C == 1) (fun k => intPattern o.T (g (elemInt s o.T o.A k) (bInt s o k))) (fun _ => 0) :=
  elementwise_of_vectorOp hvl hd hx (fun k _ => by rw [intOf_elemOf ht, intOf_bElem ht, wrapInt_eq_intPattern ht, hg]; rfl)

/-- R240: a two-operand form on bits of the type's width. -/
theorem vBitBinary_elementwise {f : Nat → Nat → Nat → Nat} {g : (w : Nat) → BitVec w → BitVec w → BitVec w} (hx : exec i s = vBitBinary i o s f)
    (hg : ∀ x y : BitVec (intWidth o.T), BitVec.ofNat _ (f (intWidth o.T) x.toNat y.toNat) = g _ x y) :
    Elementwise i s o (o.C == 1)
      (fun k => (g (intWidth o.T) (BitVec.ofNat _ (s.cpu.readV o.A k)) (BitVec.ofNat _ (bElem s o o.T k))).toNat) (fun _ => 0) := by
  refine elementwise_of_vectorOp hvl hd hx (fun k _ => ?_)
  rw [← hg, toNat_ofNat_eq_low ht, toNat_ofNat_eq_low ht, toNat_ofNat_eq_low ht, low_bElem ht, ← typeWidth_eq ht]
  rfl

end IntegerForms

/-- R240: the meanings of the instructions on values are those of the table. -/
theorem vectorIntTable_rows {o : Ops} (ht : o.T < 8) (s : State) :
    ∀ x ∈ vectorIntTable, ∃ f, exec (x.1 o) s = vIntBinary (x.1 o) o s f ∧ ∀ a b, f a b = x.2 o.T a b := by
  simp only [vectorIntTable, List.forall_mem_cons]
  exact ⟨⟨_, show _ = execVadd o s from rfl, fun _ _ => rfl⟩, ⟨_, show _ = execVsub o s from rfl, fun _ _ => rfl⟩,
    ⟨_, show _ = execVmul o s from rfl, fun _ _ => rfl⟩,
    ⟨_, show _ = execVmulh o s from rfl, fun _ _ => by rw [typeWidth_eq ht, highProduct_eq]⟩,
    ⟨_, show _ = execVdiv o s from rfl, fun _ _ => rfl⟩, ⟨_, show _ = execVrem o s from rfl, fun _ _ => rfl⟩,
    ⟨_, show _ = execVmin o s from rfl, fun _ _ => (min_def _ _).symm⟩, ⟨_, show _ = execVmax o s from rfl, fun _ _ => (max_def _ _).symm⟩,
    ⟨_, show _ = execVadds o s from rfl, fun _ _ => saturate_eq_clampTo ht _⟩, ⟨_, show _ = execVsubs o s from rfl, fun _ _ => saturate_eq_clampTo ht _⟩,
    ⟨fun a _ => (a.natAbs : Int), show _ = execVabs o s from rfl, fun _ _ => rfl⟩, List.forall_mem_nil _⟩

/-- R240: the meanings of the instructions on bits are those of the table. -/
theorem vectorBitTable_rows (o : Ops) (s : State) : ∀ x ∈ vectorBitTable, ∃ f, exec (x.1 o) s = vBitBinary (x.1 o) o s f
    ∧ ∀ a b : BitVec (intWidth o.T), BitVec.ofNat _ (f (intWidth o.T) a.toNat b.toNat) = x.2 (intWidth o.T) a b := by
  simp only [vectorBitTable, List.forall_mem_cons]
  exact ⟨⟨_, show _ = execVand o s from rfl, fun a b => by simp [BitVec.ofNat_and]⟩,
    ⟨_, show _ = execVor o s from rfl, fun a b => by simp [BitVec.ofNat_or]⟩,
    ⟨_, show _ = execVxor o s from rfl, fun a b => by simp [BitVec.ofNat_xor]⟩,
    ⟨_, show _ = execVshl o s from rfl, fun a _ => ofNat_mul_two_pow a _⟩, ⟨_, show _ = execVshr o s from rfl, fun a _ => ofNat_div_two_pow a _⟩,
    ⟨_, show _ = execVsar o s from rfl, fun a _ => ofNat_sarBits a _ (intWidth_pos _)⟩,
    ⟨fun w a _ => popc w a, show _ = execVpopc o s from rfl, fun a _ => congrArg (BitVec.ofNat _) (popc_eq a)⟩,
    ⟨fun w a _ => clz w a, show _ = execVclz o s from rfl, fun a _ => congrArg (BitVec.ofNat _) (clz_eq a)⟩, List.forall_mem_nil _⟩

/-- R240: VEXT keeps the low bits of the source's value. -/
theorem low_extendTo (c : Nat) {t : Nat} (ht : t < 8) (x : Nat) : low (typeWidth t) (extendTo 64 c x) = intPattern t (intOf c x) := by
  have hw : typeWidth t ≤ 64 := by interval_cases t <;> decide
  unfold extendTo intOf
  split
  · rw [low, wrapInt_mod hw, wrapInt_eq_intPattern ht]
  · exact low_eq_intPattern ht rfl

/-- Settles O40: each form is one function on the values or the bits of its operands, and the active elements receive its results. -/
theorem vectorIntegerElements : Obligations.VectorIntegerElements := by
  intro s o ht hvl a b
  have ha (k : Nat) : a k ≡ elemOf s.cpu o.T o.A k [ZMOD _] := intOf_elemOf ht s o.A k ▸ intOf_modEq _ _
  have hb (k : Nat) : b k ≡ bElem s o o.T k [ZMOD _] := intOf_bElem (s := s) ht k ▸ intOf_modEq _ _
  have hc (k : Nat) : elemInt s o.T o.C k ≡ elemOf s.cpu o.T o.C k [ZMOD _] := intOf_elemOf ht s o.C k ▸ intOf_modEq _ _
  refine ⟨?_, ?_, fun hd => ?_, fun hd => ?_, fun hC hd => ?_, fun hC hd => ⟨_, ?_, fun k => condInt_iff hC (a k) (b k)⟩⟩
  · intro x hx hd
    obtain ⟨f, hf, hg⟩ := vectorIntTable_rows ht s x hx
    exact vIntBinary_elementwise ht hvl hd hf hg
  · intro x hx hd
    obtain ⟨f, hf, hg⟩ := vectorBitTable_rows o s x hx
    exact vBitBinary_elementwise ht hvl hd hf hg
  · refine elementwise_of_vectorOp hvl hd (show _ = execVmadd o s from rfl) (fun k _ => ?_)
    have hval := low_eq_intPattern ht (n := elemOf s.cpu o.T o.A k * bElem s o o.T k + elemOf s.cpu o.T o.C k)
      (by push_cast; exact (((ha k).mul (hb k)).add (hc k)).symm)
    rw [hval]
    rfl
  · refine elementwise_of_vectorOp hvl hd (show _ = execViota o s from rfl) (fun k _ => ?_)
    have hval := low_eq_intPattern ht (n := bElem s o o.T k + k) (by push_cast; exact ((hb k).add_right k).symm)
    rw [hval]
    rfl
  · refine elementwise_of_vectorOp hvl hd (show _ = execVext o s from rfl) (fun k _ => ?_)
    rw [low_extendTo o.C ht, intOf_elemOf hC]
    rfl
  · exact elementwiseMask_of_vectorOp hvl hd (show _ = execVcmp o s from rfl) (fun k _ => by rw [intOf_elemOf ht, intOf_bElem ht]; rfl)

/-! Floating-point and L8 elements (R242 to R244). -/

section FloatForms

variable {i : Instr} {s : State} {o : Ops} (hvl : s.cpu.vl ≤ 65536)
include hvl

section OneType

variable (hd : HeadReady i [o.T] s.cpu)
include hd

/-- R242, R244: a one-operand form on patterns. -/
theorem vFpUnary_elementwise {f : Fmt → Nat → Nat → Nat × Flags} (hx : exec i s = vFpUnary i o s f)
    (habn : ∀ k, Active s o (o.C == 1) k → elemAbn s.cpu o.T o.A k = none) :
    let r := fun k => f (fmtOf o.T) s.srcRm (elemOf s.cpu o.T o.A k)
    Elementwise i s o (o.C == 1) (fun k => (r k).1) (fun k => (r k).2) :=
  elementwise_of_vectorOp hvl hd hx (fun k hk => by rw [habn k hk])

/-- R84, R242: VFMIN and VFMAX. -/
theorem vMinMax_elementwise {max : Bool} (hx : exec i s = vMinMax i o s max)
    (habn : ∀ k, Active s o (o.C == 1) k → elemAbn s.cpu o.T o.A k = none ∧ bAbn s o k = none) :
    let r := fun k => minMaxVal (fmtOf o.T) max (elemOf s.cpu o.T o.A k) (bElem s o o.T k)
    Elementwise i s o (o.C == 1) (fun k => (r k).1) (fun k => (r k).2) :=
  elementwise_of_vectorOp hvl hd hx (fun k hk => by
    obtain ⟨ha, hb⟩ := habn k hk
    rw [abnAB, ha, hb]
    rfl)

/-- R82, R242: the fused forms. -/
theorem vFpFused_elementwise {negate : Bool} (hx : exec i s = vFpFused i o s negate)
    (habn : ∀ k, Active s o false k → elemAbn s.cpu o.T o.A k = none ∧ bAbn s o k = none)
    (hc : ∀ k, Active s o false k → elemAbn s.cpu o.T o.C k = none) :
    let a := fun k => fdecode (fmtOf o.T) (elemOf s.cpu o.T o.A k)
    let r := fun k => fmaVal (fmtOf o.T) s.srcRm (if negate then (a k).flip else a k) (fdecode (fmtOf o.T) (bElem s o o.T k))
      (fdecode (fmtOf o.T) (elemOf s.cpu o.T o.C k))
    Elementwise i s o false (fun k => (r k).1) (fun k => (r k).2) :=
  elementwise_of_vectorOp hvl hd hx (fun k hk => by
    obtain ⟨ha, hb⟩ := habn k hk
    rw [ha, hb, hc k hk]
    rfl)

end OneType

/-- R221, R243: a conversion, which checks its source under the source type. -/
theorem vConvert_elementwise {f : Nat → Nat → Nat → Nat → Nat × Flags} (hd : HeadReady i [o.C, o.T] s.cpu) (hx : exec i s = vConvert i o s f)
    (habn : ∀ k, Active s o false k → elemAbn s.cpu o.C o.A k = none) :
    let r := fun k => f o.C o.T (convRm o.rmVector s.srcRm) (elemOf s.cpu o.C o.A k)
    Elementwise i s o false (fun k => (r k).1) (fun k => (r k).2) :=
  elementwise_of_vectorOp hvl hd hx (fun k hk => by rw [habn k hk])

end FloatForms

/-! Sums of L8 elements (R99 to R101). -/

theorem l8T_le (f : Nat) : l8T f ≤ 431 := by
  unfold l8T
  split <;> decide

theorem l8Log_le (x : Nat) : l8Log x ≤ 63 := by
  have hlow : low 7 (x % 128) < 128 := Nat.mod_lt _ (by decide)
  unfold l8Log signedOf
  split <;> omega

/-- R98: one L8 value lies far inside EA96. -/
theorem eaOf_bounds (x : Nat) : -2 ^ 94 < eaOf x ∧ eaOf x < 2 ^ 94 := by
  have hmag : ((l8T (l8Log x - 4 * (l8Log x / 4)).toNat * 2 ^ (l8Log x / 4 + 32).toNat : Nat) : Int) < 2 ^ 94 := by
    have hlog := l8Log_le x
    have hpow : 2 ^ (l8Log x / 4 + 32).toNat ≤ 2 ^ 47 := Nat.pow_le_pow_right (by decide) (by omega)
    have hprod := Nat.mul_le_mul (l8T_le (l8Log x - 4 * (l8Log x / 4)).toNat) hpow
    omega
  simp only [eaOf, l8Parts]
  split
  · exact ⟨by decide, by decide⟩
  · split <;> omega

/-- R100: an addition that stays within EA96 is exact. -/
theorem eaAdd_exact {x y : Int} (hlow : -2 ^ 95 ≤ x + y) (hhigh : x + y < 2 ^ 95) : eaAdd x y = (x + y, false) := by
  have hmin : ¬ x + y < eaMin := by unfold eaMin; omega
  have hmax : ¬ eaMax < x + y := by unfold eaMax; omega
  simp [eaAdd, hmin, hmax]

/-- R101: the sum of two L8 values cannot saturate. -/
theorem eaAdd_eaOf (x y : Nat) : eaAdd (eaOf x) (eaOf y) = (eaOf x + eaOf y, false) := by
  obtain ⟨hxlow, hxhigh⟩ := eaOf_bounds x
  obtain ⟨hylow, hyhigh⟩ := eaOf_bounds y
  exact eaAdd_exact (by omega) (by omega)

/-- R242, R244: each instruction of the table performs its row's function on the elements, and traps for no ABN but one of its operands. -/
theorem vectorFloatTable_rows (s : State) (o : Ops) : ∀ y ∈ vectorFloatTable,
    let r := fun k => y.2 (fmtOf o.T) s.srcRm (fdecode (fmtOf o.T) (elemOf s.cpu o.T o.A k)) (fdecode (fmtOf o.T) (bElem s o o.T k))
    ∃ abn : Nat → Option Nat, exec (y.1 o) s = vectorOp (y.1 o) o [o.T] (o.C == 1) s (fun k => ⟨(r k).1, (r k).2, abn k⟩) (putV o)
      ∧ ∀ k, elemAbn s.cpu o.T o.A k = none → bAbn s o k = none → abn k = none := by
  have hab (k : Nat) (ha : elemAbn s.cpu o.T o.A k = none) (hb : bAbn s o k = none) : abnAB o s k = none := by rw [abnAB, firstAbn_pair, ha, hb]; rfl
  simp only [vectorFloatTable, List.forall_mem_cons]
  exact ⟨⟨abnAB o s, show _ = execVfadd o s from rfl, hab⟩, ⟨abnAB o s, show _ = execVfsub o s from rfl, hab⟩,
    ⟨abnAB o s, show _ = execVfmul o s from rfl, hab⟩, ⟨abnAB o s, show _ = execVfdiv o s from rfl, hab⟩,
    ⟨_, show _ = execVfsqrt o s from rfl, fun _ ha _ => ha⟩, ⟨_, show _ = execVfrece o s from rfl, fun _ ha _ => ha⟩,
    ⟨_, show _ = execVfrsqe o s from rfl, fun _ ha _ => ha⟩, List.forall_mem_nil _⟩

/-- Settles O42: each instruction is of a family that gives one rounded result and its flags an element, and no active element reads an ABN. -/
theorem vectorFloatElements : Obligations.VectorFloatElements := by
  intro s o hvl f a b c x rm crm
  refine ⟨fun _ _ neg _ habn => ⟨?_, ?_⟩, fun habn => ?_, fun hT => ⟨fun hd => ?_, fun hd => ?_⟩, fun hT hd => ?_⟩
  · rintro rfl
    have ha : ∀ k, Active s o (o.C == 1) k → elemAbn s.cpu o.T o.A k = none := fun k hk => (habn k hk).1
    refine ⟨fun y hy hd => ?_, fun hd => vMinMax_elementwise hvl hd (show _ = execVfmin o s from rfl) habn,
      fun hd => vMinMax_elementwise hvl hd (show _ = execVfmax o s from rfl) habn,
      fun hd => vFpUnary_elementwise hvl hd (show _ = execVfabs o s from rfl) ha,
      fun hd => vFpUnary_elementwise hvl hd (show _ = execVfneg o s from rfl) ha⟩
    obtain ⟨abn, hx, hnone⟩ := vectorFloatTable_rows s o y hy
    refine elementwise_of_vectorOp hvl hd hx (fun k hk => ?_)
    rw [hnone k (habn k hk).1 (habn k hk).2]
    rfl
  · rintro rfl
    refine ⟨fun hc => ⟨fun hd => vFpFused_elementwise (negate := false) hvl hd (show _ = execVfma o s from rfl) habn hc,
      fun hd => vFpFused_elementwise (negate := true) hvl hd (show _ = execVfnma o s from rfl) habn hc⟩, fun hd => ?_⟩
    refine elementwiseMask_of_vectorOp hvl hd (show _ = execVfcmp o s from rfl) (fun k hk => ?_)
    obtain ⟨ha, hb⟩ := habn k hk
    rw [abnAB, ha, hb]
    rfl
  · have hcrm : crm = convRm o.rmVector s.srcRm := (convRm_eq _ _).symm
    rw [hcrm]
    exact ⟨fun hd => vConvert_elementwise hvl hd (show _ = execVfcvt o s from rfl) habn,
      fun hd => vConvert_elementwise hvl hd (show _ = execVfcvti o s from rfl) habn,
      fun _ hd => vConvert_elementwise hvl hd (show _ = execVicvtf o s from rfl) habn⟩
  · exact elementwise_of_vectorOp hvl hd (show _ = execVlmul o s from rfl) (fun _ _ => rfl)
  · refine elementwise_of_vectorOp hvl hd (show _ = execVladd o s from rfl) (fun k _ => ?_)
    rw [eaAdd_eaOf]
    simp [flagIf, flagNone, eaToL8, a, b, elemOf, low]
  · refine elementwiseMask_of_vectorOp hvl hd (show _ = execVtstabn o s from rfl) (fun k _ => rfl)

/-! Reductions and dot products (R245 to R247). -/

/-- R245: a reduction completes, with no flag where VL is 0. -/
theorem reduceDone_eq (o : Ops) (s : State) (x : Word) (fl : Flags) :
    reduceDone o s x fl = .next (s.retire (fun t => (t.writeG o.D x).orFlags (if s.cpu.vl = 0 then 0 else fl))) := rfl

/-- R106: a reduction without an ABN goes on. -/
theorem reduceAbn_none {o : Ops} {s : State} {start : Option Nat} {e : Nat → Option Nat} (hstart : start = none)
    (he : ∀ k ∈ activeList s.cpu o false, e k = none) (k : Out) : reduceAbn s o start e k = k := by
  have hfind : (activeList s.cpu o false).find? (fun i => (e i).isSome) = none := List.find?_eq_none.mpr (fun i hi => by simp [he i hi])
  rw [hstart, reduceAbn, hfind]

theorem foldl_add_eq (l : List Int) (b : Int) : l.foldl (· + ·) b = b + l.sum := by
  rw [List.sum_eq_foldl, ← List.foldl_assoc (op := (· + · : Int → Int → Int)), add_zero]

section IntegerReductions

variable {s : State} {o : Ops} (ht : o.T < 8)
include ht

theorem reduceInt_eq (x : Int) : reduceInt o s x = reduceDone o s (intResult o.T x) 0 := by
  rw [reduceInt, extendG_eq ht, typeWidth_eq ht, ofNat_wrapInt]
  rfl

theorem activeInts_eq : activeInts s o = (activeList s.cpu o false).map (elemInt s o.T o.A) := by simp only [activeInts, intOf_elemOf ht]

theorem startInt_eq : startInt s o = intValue o.T (s.srcB o.b) := intOf_eq ht _

/-- R246: VREDMIN and VREDMAX of an integer type. -/
theorem reduceMinMax_int {i : Instr} {max : Bool} {g : Int → Int → Int} (hd : HeadReady i [o.T] s.cpu)
    (hg : ∀ a x, (if max then (if a ≤ x then x else a) else (if a ≤ x then a else x)) = g a x) :
    reduceMinMax i o s max
      = reduceDone o s (intResult o.T (((activeList s.cpu o false).map (elemInt s o.T o.A)).foldl g (intValue o.T (s.srcB o.b)))) 0 := by
  rw [reduceMinMax, atHead_pass _ _ _ _ hd, if_pos ht, reduceInt_eq ht, activeInts_eq ht, startInt_eq ht]
  simp only [hg]

end IntegerReductions

/-! VREDBIT, bit by bit (R246). -/

/-- One bit of a combination of patterns is the combination of their bits. -/
theorem testBit_foldl {op : Nat → Nat → Nat} {bop : Bool → Bool → Bool} {j : Nat} (h : ∀ x y, (op x y).testBit j = bop (x.testBit j) (y.testBit j))
    (e : Nat → Nat) (l : List Nat) (z : Nat) : (l.foldl (fun acc k => op acc (e k)) z).testBit j = l.foldl (fun b k => bop b ((e k).testBit j)) (z.testBit j) :=
  (List.foldl_hom (f := fun x => Nat.testBit x j) (fun x k => (h x (e k)).symm)).symm

theorem foldl_or_iff (p : Nat → Bool) (l : List Nat) : ∀ b, l.foldl (fun b k => b || p k) b = true ↔ b = true ∨ ∃ k ∈ l, p k = true := by
  induction l with
  | nil => simp
  | cons k rest ih => intro b; simp [ih, or_assoc]

theorem foldl_and_iff (p : Nat → Bool) (l : List Nat) : ∀ b, l.foldl (fun b k => b && p k) b = true ↔ b = true ∧ ∀ k ∈ l, p k = true := by
  induction l with
  | nil => simp
  | cons k rest ih => intro b; simp [ih, and_assoc]

theorem foldl_xor_eq (p : Nat → Bool) (l : List Nat) : ∀ b, l.foldl (fun b k => b ^^ p k) b = (b ^^ decide (l.countP p % 2 = 1)) := by
  induction l with
  | nil => simp
  | cons k rest ih =>
    intro b
    rw [List.foldl_cons, ih, List.countP_cons]
    cases hp : p k
    · simp
    · have hparity : decide ((rest.countP p + 1) % 2 = 1) = !decide (rest.countP p % 2 = 1) := by
        rw [← decide_not, decide_eq_decide]
        omega
      simp [hparity]

/-- R246: what VREDBIT's operation does to one bit. -/
def bitOf (c : Nat) (x y : Bool) : Bool := if c = 0 then x && y else if c = 1 then x || y else x ^^ y

/-- R246: VREDBIT writes a pattern of the type's width, each bit of which combines that bit of b and of the active elements. -/
theorem vredbit_bits {s : State} {o : Ops} (ht : o.T < 8) (hd : HeadReady (.vredbit o) [o.T] s.cpu) :
    ∃ x : BitVec (intWidth o.T), exec (.vredbit o) s = reduceDone o s (intBits o.T x) 0
      ∧ ∀ j, j < intWidth o.T → x.getLsbD j
          = (activeList s.cpu o false).foldl (fun b k => bitOf o.C b ((s.cpu.readV o.A k).testBit j)) ((s.srcB o.b).getLsbD j) := by
  refine ⟨BitVec.ofNat _ ((activeList s.cpu o false).foldl
    (fun acc k => if o.C = 0 then acc &&& elemOf s.cpu o.T o.A k else if o.C = 1 then acc ||| elemOf s.cpu o.T o.A k else acc ^^^ elemOf s.cpu o.T o.A k)
    (low (typeWidth o.T) (s.srcB o.b).toNat)), ?_, fun j hj => ?_⟩
  · show execVredbit o s = _
    rw [execVredbit, atHead_pass _ _ _ _ hd, extendG_eq ht]
    rfl
  · have hlow (x : Nat) : (low (typeWidth o.T) x).testBit j = x.testBit j := by
      rw [low, Nat.testBit_mod_two_pow, typeWidth_eq ht, decide_eq_true hj, Bool.true_and]
    have hop (x y : Nat) : (if o.C = 0 then x &&& y else if o.C = 1 then x ||| y else x ^^^ y).testBit j = bitOf o.C (x.testBit j) (y.testBit j) := by
      unfold bitOf
      split_ifs
      · exact Nat.testBit_and ..
      · exact Nat.testBit_or ..
      · exact Nat.testBit_xor ..
    rw [BitVec.getLsbD_ofNat, decide_eq_true hj, Bool.true_and,
      testBit_foldl (op := fun x y => if o.C = 0 then x &&& y else if o.C = 1 then x ||| y else x ^^^ y) hop (elemOf s.cpu o.T o.A), hlow]
    simp only [elemOf, hlow, BitVec.getLsbD]

/-! Floating reductions (R99, R102). -/

/-- R83: the canonical NaN of each type. -/
theorem nan_eq_canonicalNaN {t : Nat} (h8 : 8 ≤ t) (h11 : t ≤ 11) : (fmtOf t).nan = canonicalNaN t := by interval_cases t <;> rfl

/-- R102: the product of two finite elements is exact. -/
theorem exactProduct_finite {f : Fmt} {p q : Nat} (hp : finite (fdecode f p)) (hq : finite (fdecode f q)) :
    (exactProduct f p q).2 = flagNone ∧ finite (exactProduct f p q).1 ∧ exactOf (exactProduct f p q).1 = exactOf (fdecode f p) * exactOf (fdecode f q) := by
  obtain ⟨x, hx, hfin, -, hval⟩ := mulExact_finite hp hq
  have heq : exactProduct f p q = (x, flagNone) := by simp [exactProduct, hp.1, hq.1, hx]
  rw [heq]
  exact ⟨rfl, hfin, hval⟩

/-- R83, R84, R246: VREDMIN and VREDMAX of a floating type, whose result does not depend on the flags gathered on the way. -/
theorem reduceMinMax_float {i : Instr} {s : State} {o : Ops} {max : Bool} (h8 : 8 ≤ o.T) (h11 : o.T ≤ 11) (hd : HeadReady i [o.T] s.cpu)
    (hstart : startAbn o (operandFp s.srcG s.srcK o.T o.b) = none) (he : ∀ k ∈ activeList s.cpu o false, elemAbn s.cpu o.T o.A k = none) :
    let r := (activeList s.cpu o false).foldl (fun x k => (minMaxVal (fmtOf o.T) max x (elemOf s.cpu o.T o.A k)).1)
      (operandFp s.srcG s.srcK o.T o.b).1
    ∃ fl, reduceMinMax i o s max = reduceDone o s (BitVec.ofNat 64 (if (fdecode (fmtOf o.T) r).isNan then canonicalNaN o.T else r)) fl := by
  intro r
  have hfst (z : Nat × Flags) : ((activeList s.cpu o false).foldl (fun (acc : Nat × Flags) k =>
        ((minMaxVal (fmtOf o.T) max acc.1 (elemOf s.cpu o.T o.A k)).1, acc.2 ||| (minMaxVal (fmtOf o.T) max acc.1 (elemOf s.cpu o.T o.A k)).2)) z).1
      = (activeList s.cpu o false).foldl (fun x k => (minMaxVal (fmtOf o.T) max x (elemOf s.cpu o.T o.A k)).1) z.1 :=
    (List.foldl_hom Prod.fst (fun _ _ => rfl)).symm
  rw [reduceMinMax, atHead_pass _ _ _ _ hd, if_neg (Nat.not_lt.mpr h8)]
  dsimp only
  rw [reduceAbn_none hstart he, hfst, ← nan_eq_canonicalNaN h8 h11]
  exact ⟨_, rfl⟩

/-! L8 dot products (R99, R100). -/

/-- R100: sums none of which leaves EA96 are exact. -/
theorem foldl_eaAdd (p : Nat → Int) (l : List Nat) : ∀ z : Int, (∀ m, m <+: l → -2 ^ 95 ≤ z + (m.map p).sum ∧ z + (m.map p).sum < 2 ^ 95) →
    l.foldl (fun (acc : Int × Bool) k => ((eaAdd acc.1 (p k)).1, acc.2 || (eaAdd acc.1 (p k)).2)) (z, false) = (z + (l.map p).sum, false) := by
  induction l with
  | nil => simp
  | cons k rest ih =>
    intro z h
    have hfirst := h [k] (by simp)
    have hexact : eaAdd z (p k) = (z + p k, false) := eaAdd_exact (by simpa using hfirst.1) (by simpa using hfirst.2)
    rw [List.foldl_cons, hexact]
    have hrest := ih (z + p k) (fun m hm => by simpa [add_assoc] using h (k :: m) (List.cons_prefix_cons.mpr ⟨rfl, hm⟩))
    simpa [add_assoc] using hrest

/-- Settles O44: past the checks each form is one fold over the active elements, or one pairwise sum, and one write of its result. -/
theorem reductionsComplete : Obligations.ReductionsComplete := by
  intro s o act a b done
  refine ⟨fun ht => ⟨fun hd => ?_, fun hd => ?_, fun hd => ?_, fun hd hC => ?_, fun hd hC => ?_, fun hd hC => ?_, fun hd => ?_⟩,
    fun h8 h11 => ?_, fun hT hd hbound => ?_⟩
  · show execVredsum o s = _
    rw [execVredsum, atHead_pass _ _ _ _ hd, if_pos ht, reduceInt_eq ht, activeInts_eq ht, startInt_eq ht, foldl_add_eq]
    rfl
  · exact reduceMinMax_int ht hd (fun x y => (min_def x y).symm)
  · exact reduceMinMax_int ht hd (fun x y => (max_def x y).symm)
  · obtain ⟨x, hx, hbits⟩ := vredbit_bits ht hd
    refine ⟨x, hx, fun j hj => ?_⟩
    rw [hbits j hj, hC]
    exact foldl_or_iff _ _ _
  · obtain ⟨x, hx, hbits⟩ := vredbit_bits ht hd
    refine ⟨x, hx, fun j hj => ?_⟩
    rw [hbits j hj, hC]
    exact foldl_and_iff _ _ _
  · obtain ⟨x, hx, hbits⟩ := vredbit_bits ht hd
    refine ⟨x, hx, fun j hj => ?_⟩
    rw [hbits j hj, hC]
    exact foldl_xor_eq _ _ _
  · show execVdot o s = _
    have hsum : act.foldl (fun acc k => acc + intOf o.T (elemOf s.cpu o.T o.A k) * intOf o.T (elemOf s.cpu o.T o.B k)) (intOf o.T (s.srcG o.C).toNat)
        = intValue o.T (s.srcG o.C) + (act.map (fun k => a k * elemInt s o.T o.B k)).sum := by
      simp only [intOf_elemOf ht, intOf_eq ht]
      rw [← foldl_add_eq, List.foldl_map]
    rw [execVdot]
    dsimp only
    rw [atHead_pass _ _ _ _ hd, if_pos ht, hsum, reduceInt_eq ht]
    rfl
  · intro f c v y tw wide cw g sum dot
    have hint : ¬ o.T < 8 := by omega
    have hl8 : ¬ o.T = 12 := by omega
    refine ⟨fun hstart he hd => ?_, fun hg he hd => ?_, fun p q hp hq => exactProduct_finite hp hq, fun hstart he => ⟨fun hd => ?_, fun hd => ?_⟩⟩
    · show execVredsum o s = _
      rw [execVredsum, atHead_pass _ _ _ _ hd, if_neg hint]
      exact reduceAbn_none hstart he _
    · show execVdot o s = _
      have hstart : (if o.T = 10 ∧ isAbn g = true then some g else none) = none := if_neg (fun h => by simp [hg h.1] at h)
      have hpair : ∀ k ∈ act, firstAbn [elemAbn s.cpu o.T o.A k, elemAbn s.cpu o.T o.B k] = none := fun k hk => by
        obtain ⟨hA, hB⟩ := he k hk
        rw [hA, hB]
        rfl
      rw [execVdot]
      dsimp only
      rw [atHead_pass _ _ _ _ hd, if_neg hint, if_neg hl8]
      exact reduceAbn_none hstart hpair _
    · exact reduceMinMax_float h8 h11 hd hstart he
    · exact reduceMinMax_float h8 h11 hd hstart he
  · show execVdot o s = _
    have hw (n k : Nat) : elemOf s.cpu o.T n k = s.cpu.readV n k % 256 := by rw [hT]; rfl
    have hsum := foldl_eaAdd (fun k => eaProd (s.cpu.readV o.A k % 256) (s.cpu.readV o.B k % 256)) act 0
      (fun m hm => by simpa using hbound m hm)
    rw [zero_add] at hsum
    have hint : ¬ o.T < 8 := by omega
    rw [execVdot]
    dsimp only
    rw [atHead_pass _ _ _ _ hd, if_neg hint, if_pos hT]
    simp only [hw]
    rw [hsum, reduceDone_eq]
    simp [done, flagIf, flagNone, eaToFmt, rmRNE]

/-! Poison marks of elements whose width is none of R237's. -/

/-- A strand whose EW is 24, as no VCONFIG leaves it, with VSTART behind element 5. Two of its elements fit a word, so the checks at the head find element 5 in
word 2 of its register (`poisonedIn`), which is poisoned in v1, while the element begins in word 24 × 5 / 64 = 1 (`vPoisonKey`). -/
def oddStrand : Strand := { ew := 24, groups := 1, vl := 8, vstart := 6, poison := [64 + Strand.elemKey 1 2] }

/-- The strand alone on a machine. -/
def oddState : State := { cpu := oddStrand }

/-- The trap of the checks at the head for the poisoned word. -/
def oddTrap : State := queuedTrap oddState causeUeData (keyVa oddStrand (64 + Strand.elemKey 1 2))

/-- The trap keeps VSTART, which a completion clears (R235). -/
theorem oddTrap_ne_retire (f : Strand → Strand) : (.next oddTrap : Out) ≠ .next (oddState.retire f) := by
  intro h
  have hvstart : oddTrap.cpu.vstart = 0 := congrArg (fun t : State => t.cpu.vstart) (Host.Outcome.next.inj h)
  exact absurd hvstart (by decide)

/-- VMVXS of element 5 of v1 to g4. -/
def oddMove : Ops := ⟨4, 1, 0, 0, 0, .imm 5⟩

/-- Refutes O41: the statement bounds EW only from below. With EW = 24 the word at `vPoisonKey` of the element that VMVXS moves is sound, and yet the
instruction traps UE_DATA, since the checks at the head look for the element in another word. With an EW of R237 the two are one word. -/
theorem not_vectorMoves : ¬ Obligations.VectorMoves := by
  intro h
  obtain ⟨-, -, -, -, hmove, -⟩ := h oddState oddMove (by decide) (by decide)
  obtain ⟨-, hbelow⟩ := hmove (by decide) (by decide)
  have htrap : exec (.vmvxs oddMove) oddState = .next oddTrap := rfl
  exact oddTrap_ne_retire _ (htrap.symm.trans (hbelow (by decide) (by decide)))

/-- VSCAN of v2 into v1. -/
def oddScan : Ops := ⟨1, 2, 0, 0, 0, .reg 0 0⟩

theorem oddScan_ready : HeadReady (.vscan oddScan) [oddScan.T] oddState.cpu where
  registers := by decide
  types := by decide
  sources := by decide

theorem oddScan_nearestBelow : NearestBelow oddState oddScan (oddScan.C == 1) (some 5) := by
  refine ⟨nofun, fun k hk => ?_⟩
  obtain rfl := Option.some.inj hk
  have hactive : Active { oddState with cpu := { oddState.cpu with vstart := 0 } } oddScan (oddScan.C == 1) 5 := by
    unfold Active
    decide
  refine ⟨⟨by decide, hactive⟩, fun j hj hact => ?_⟩
  have hbelow : j < 6 := hact.1
  omega

/-- Refutes O45: nor does this statement say which widths EW can have. With EW = 24 a VSCAN that resumes reads D at element 5, whose word at `vPoisonKey` is
sound, and traps UE_DATA for the word in which the checks at the head look for the element. With an EW of R237 the two are one word. -/
theorem not_permutationsComplete : ¬ Obligations.PermutationsComplete := by
  intro h
  obtain ⟨-, -, -, -, -, -, -, -, hscan, -⟩ := h oddState oddScan (by decide) (by decide)
  have hsound : ∀ k, some 5 = some k → oddState.cpu.vPoisonKey oddScan.D k ∉ oddState.cpu.poison := by
    intro k hk
    obtain rfl := Option.some.inj hk
    decide
  obtain ⟨hint, -⟩ := hscan (some 5) oddScan_nearestBelow hsound oddScan_ready
  obtain ⟨_, _, _, hdone, -⟩ := hint (by decide)
  have htrap : exec (.vscan oddScan) oddState = .next oddTrap := rfl
  exact oddTrap_ne_retire _ (htrap.symm.trans hdone)

end Sys2Proof.Proofs.Vector

/-! The obligations of spec/17_vecmem.md: scalar and vector accesses to memory, atomics and waits. -/

namespace Sys2Proof.Proofs.VectorMemory

open Sys2Proof Sys2Proof.Machine Sys2Proof.Safety Sys2Proof.Claims Sys2Proof.Laws
open Sys2Proof.Proofs.Consistency (useHome_cpu noteWalk_cpu tlbFill_cpu notePage_cpu atomicFrom_near state_of_useLeaf state_of_placeOnChip mem_of_placeOf cpu_of_placeOf)
open Sys2Proof.Proofs.Numbers (typeWidth_eq addVal_nan Wide wide_of_ieee fdecode_fields fields_lt rounded_roundDyadic addVal_finite addVal_inf_inf finite_iff)
open Sys2Proof.Proofs.Scalar (intOf_eq extendG_eq condInt_iff)
open Sys2Proof.Proofs.Vector (intOf_modEq putMask readM_putMask putMask_eq intOf_elemOf intValue_ofNat)
open Sys2Proof.Proofs.Scope (leNat_lt)
open Sys2Proof.Proofs.Execution (chan_setChan core_setCore)

/-! A translation leaves the current strand alone, whatever it answers (R119, R121). -/

theorem cpu_of {α : Type} {x y : Acc α} {t : Strand} (h : x = y) (hx : (accState x).cpu = t) : (accState y).cpu = t := h ▸ hx

theorem useLeaf_cpu (s : State) (w : Who) (l : Leaf) (k : AccKind) (pkg : Nat) (va : Word) (g : BitVec 8) :
    (accState (useLeaf s w l k pkg va g)).cpu = s.cpu := by
  unfold useLeaf
  dsimp only
  repeat' split
  all_goals rfl

theorem placePg_cpu (s : State) (w : Who) (va : Word) (k : AccKind) : (accState (placePg s w va k)).cpu = s.cpu := by
  unfold placePg
  split
  · next e _ => split <;> next h => exact (cpu_of h (useLeaf_cpu ..) :)
  · dsimp only
    split
    · rfl
    · split
      · rfl
      · split
        · exact noteWalk_cpu ..
        · split
          · next h => exact (tlbFill_cpu ..).trans ((cpu_of h (useLeaf_cpu ..)).trans (noteWalk_cpu ..))
          · next h => exact (cpu_of h (useLeaf_cpu ..)).trans (noteWalk_cpu ..)
          · next h => exact (cpu_of h (useLeaf_cpu ..)).trans (noteWalk_cpu ..)

theorem placeWindow_cpu (s : State) (w : Who) (va : Word) (k : AccKind) : (accState (placeWindow s w va k)).cpu = s.cpu := by
  unfold placeWindow
  dsimp only
  split
  · rfl
  · split
    · rfl
    · split
      · rfl
      · split <;> next h => exact (cpu_of h (placePg_cpu ..) :)

theorem placeOnChip_cpu (s : State) (w : Who) (va : Word) (n : Nat) (k : AccKind) : (accState (placeOnChip s w va n k)).cpu = s.cpu := by
  unfold placeOnChip
  dsimp only
  repeat' split
  all_goals rfl

theorem placeOf_cpu (s : State) (w : Who) (va : Word) (n : Nat) (k : AccKind) : (accState (placeOf s w va n k)).cpu = s.cpu := by
  unfold placeOf
  split
  · exact placePg_cpu ..
  · exact placeWindow_cpu ..
  · exact placeOnChip_cpu ..
  · rfl

theorem placesIn_cpu (w : Who) (k : AccKind) (l : List (Word × Nat)) (s : State) : (accState (placesIn w k s l)).cpu = s.cpu := by
  induction l generalizing s with
  | nil => rfl
  | cons x rest ih =>
    unfold placesIn
    split
    · next h => exact (cpu_of h (placeOf_cpu ..) :)
    · next h => exact (cpu_of h (placeOf_cpu ..) :)
    · next h =>
      have hx := (cpu_of h (placeOf_cpu ..) :)
      split <;> next hr => exact (cpu_of hr (ih _) :).trans hx

theorem placesOf_cpu (s : State) (w : Who) (va : Word) (n : Nat) (k : AccKind) : (accState (placesOf s w va n k)).cpu = s.cpu := by
  unfold placesOf rangeOf
  split <;> next h => exact (cpu_of h (placesIn_cpu ..) :)

theorem cpu_of_placesOf {s s1 : State} {w : Who} {va : Word} {n : Nat} {k : AccKind} {ps : List (Place × Nat)} (h : placesOf s w va n k = .ok ps s1) :
    s1.cpu = s.cpu := cpu_of h (placesOf_cpu s w va n k)

theorem mem_of_placesOf {s s1 : State} {w : Who} {va : Word} {n : Nat} {k : AccKind} {ps : List (Place × Nat)} (h : placesOf s w va n k = .ok ps s1) :
    MemSame s s1 := same_of h (placesOf_same s w va n k)

/-! Pieces leave (R362, R364). -/

@[simp] theorem transmit_cpu (s : State) (p : Piece) : (transmit s p).cpu = s.cpu := by
  unfold transmit
  dsimp only
  split
  · rfl
  · split <;> rfl

theorem transmit_same (s : State) (p : Piece) : MemSame s (transmit s p) := by
  unfold transmit
  dsimp only
  split
  · exact ⟨rfl, rfl⟩
  · split <;> exact ⟨rfl, rfl⟩

/-- A transmission writes into the pieces of its number; its own stays what it is. -/
theorem transmit_pieces (s : State) (p : Piece) :
    ∃ f : Piece → Piece, (transmit s p).pieces = s.pieces.map f ∧ (f p).tid = p.tid ∧ (f p).place = p.place ∧ (f p).what = p.what := by
  unfold transmit
  dsimp only
  split
  · exact ⟨_, rfl, by simp⟩
  · split <;> exact ⟨_, rfl, by simp⟩

/-- Pieces that start change nothing of the current strand and of memory, and `n` of them are new. -/
structure Sends (s t : State) (n : Nat) : Prop where
  cpu    : t.cpu = s.cpu
  mem    : MemSame s t
  pieces : t.pieces.length = s.pieces.length + n

theorem Sends.refl (s : State) : Sends s s 0 := ⟨rfl, .refl s, rfl⟩

theorem Sends.trans {s t u : State} {n m : Nat} (h : Sends s t n) (k : Sends t u m) : Sends s u (n + m) :=
  ⟨k.cpu.trans h.cpu, h.mem.trans k.mem, by rw [k.pieces, h.pieces, Nat.add_assoc]⟩

/-- A piece as it stands under the machine's next number. -/
def numbered (s : State) (p : Piece) : Piece :=
  { p with id := s.next, sentAt := s.time, remote := !p.what.isLocal && placeDie s.fresh.2 p.place != dieKey p.srcPkg p.srcDie }

/-- The machine with that piece among its pieces. -/
def withPiece (s : State) (p : Piece) : State := { s.fresh.2 with pieces := s.pieces ++ [numbered s p] }

theorem startPiece_eq (s : State) (p : Piece) :
    startPiece s p = if (numbered s p).remote then transmit (withPiece s p) (numbered s p) else withPiece s p := rfl

/-- A piece that starts comes last. -/
theorem startPiece_pieces (s : State) (p : Piece) : ∃ l q, (startPiece s p).pieces = l ++ [q] ∧ l.length = s.pieces.length
    ∧ q.tid = p.tid ∧ q.place = p.place ∧ q.what = p.what := by
  rw [startPiece_eq]
  split
  · obtain ⟨f, hf, htid, hplace, hwhat⟩ := transmit_pieces (withPiece s p) (numbered s p)
    exact ⟨s.pieces.map f, _, hf.trans (List.map_append ..), List.length_map _, htid, hplace, hwhat⟩
  · exact ⟨_, _, rfl, rfl, rfl, rfl, rfl⟩

theorem sends_startPiece (s : State) (p : Piece) : Sends s (startPiece s p) 1 := by
  obtain ⟨l, q, hpieces, hlen, -⟩ := startPiece_pieces s p
  have hcount : (startPiece s p).pieces.length = s.pieces.length + 1 := by rw [hpieces, List.length_append, hlen, List.length_singleton]
  rw [startPiece_eq] at hcount ⊢
  split at hcount
  · next h =>
    rw [if_pos h]
    exact ⟨transmit_cpu .., MemSame.trans ⟨rfl, rfl⟩ (transmit_same ..), hcount⟩
  · next h =>
    rw [if_neg h]
    exact ⟨rfl, ⟨rfl, rfl⟩, hcount⟩

theorem sends_foldl {β : Type} {f : State → β → State} (hf : ∀ s x, Sends s (f s x) 1) (l : List β) (s : State) : Sends s (l.foldl f s) l.length := by
  induction l generalizing s with
  | nil => exact .refl s
  | cons x rest ih =>
    have h := (hf s x).trans (ih (f s x))
    rwa [Nat.add_comm 1] at h

theorem sends_issueScalar (s : State) (op hint : Nat) (l : List (Place × PieceOp)) : Sends s (issueScalar s op hint l) l.length := by
  have h := sends_foldl (fun st x => sends_startPiece st { pieceFor s.cpu op x.1 with hint := hint, elem := x.2 }) l.zipIdx s
  rwa [List.length_zipIdx] at h

theorem issueAll_same (op : Nat) (cc : Option Nat) (inOrder : Bool) (counter : Option (Place × Nat)) (l : List (Place × PieceOp)) (s : State) :
    MemSame s (issueAll op cc inOrder counter s l) := by
  induction l generalizing s with
  | nil => exact .refl s
  | cons x rest ih => exact (sends_startPiece s _).mem.trans (ih _)

theorem issueNb_same (s : State) (c : Nat) (inOrder : Bool) (counter : Option (Place × Nat)) (l : List (Place × PieceOp)) :
    MemSame s (issueNb s c inOrder counter l) := by
  unfold issueNb
  dsimp only
  split
  · exact ⟨rfl, rfl⟩
  · exact MemSame.trans ⟨rfl, rfl⟩ (issueAll_same ..)

/-- R254, R327: a scalar access that leaves as packets, and the strand that waits for them. -/
theorem startTrip_spec (s : State) (i : Instr) (va : Word) (hint : Nat) (l : List (Place × PieceOp)) :
    (startTrip s i va hint l).cpu = { s.cpu with trip := some { pc := s.cpu.pc, instr := i, va := va, op := s.next }, parked := true }
      ∧ MemSame s (startTrip s i va hint l) ∧ (startTrip s i va hint l).pieces.length = s.pieces.length + l.length := by
  obtain ⟨hcpu, hmem, hlen⟩ := sends_issueScalar
    (s.fresh.2.onCpu (fun t => { t with trip := some { pc := t.pc, instr := i, va := va, op := s.next } })) s.next hint l
  exact ⟨congrArg (fun t : Strand => { t with parked := true }) hcpu, MemSame.trans (b := _) ⟨rfl, rfl⟩ hmem, hlen⟩

/-- R398: a store that leaves is one piece, the last. -/
theorem postStore_spec (s : State) (ea : Word) (hint : Nat) (p : Place × Nat) (more : List (Place × Nat)) (bytes : List Byte) :
    Sends s (postStore s ea hint (p :: more) bytes) 1
      ∧ ∃ l q, (postStore s ea hint (p :: more) bytes).pieces = l ++ [q] ∧ l.length = s.pieces.length ∧ q.tid = s.cpu.tid ∧ q.place = p.1
        ∧ q.what = .post bytes ea more := by
  refine ⟨?_, startPiece_pieces s.fresh.2 _⟩
  obtain ⟨hcpu, hmem, hlen⟩ := sends_issueScalar s.fresh.2 s.next hint [(p.1, .post bytes ea more)]
  exact ⟨hcpu, MemSame.trans ⟨rfl, rfl⟩ hmem, hlen⟩

/-- R120: a queue entry that has issued the pieces of some elements as operation `op`, and has no answer yet. -/
def issuedAs (op : Nat) (l : List Nat) (e : QEntry) : QEntry :=
  { e with op := op, fails := [], lost := [], got := [], gotInv := [], land := none, issued := l }

/-- R120: the head of the queue waits for the pieces that it has issued. -/
theorem awaitPieces_spec (s : State) (inOrder : Bool) (counter : Option (Place × Nat)) (l : List (Nat × Place × PieceOp)) :
    (awaitPieces s inOrder counter l).cpu = { (onHead s (issuedAs s.next (l.map (·.1)))).cpu with parked := true }
      ∧ MemSame s (awaitPieces s inOrder counter l) ∧ (awaitPieces s inOrder counter l).pieces.length = s.pieces.length + l.length := by
  obtain ⟨hcpu, hmem, hlen⟩ := sends_foldl
    (fun st (x : Nat × Place × PieceOp) => sends_startPiece st { pieceFor st.cpu s.next x.2 with
      inOrder := inOrder, counter := counter, acquire := st.cpu.queue.head?.any QEntry.acquires, hint := st.headHint, elem := x.1 }) l
    (onHead s.fresh.2 (issuedAs s.next (l.map (·.1))))
  exact ⟨congrArg (fun t : Strand => { t with parked := true }) hcpu, MemSame.trans (b := _) ⟨rfl, rfl⟩ hmem, hlen⟩

/-! What a write at a home changes: the bytes of memory that it names (R3, R96). -/

/-- Every byte of memory outside the `n` bytes from `a` up reads the same. -/
def SameOutside (s t : State) (a n : Nat) : Prop := ∀ x, x < a ∨ a + n ≤ x → memGet t.mem x = memGet s.mem x

theorem SameOutside.of_mem {s t : State} {a n : Nat} (h : t.mem = s.mem) : SameOutside s t a n := fun _ _ => by rw [h]

/-- Two writes one behind the other. -/
theorem SameOutside.append {s t u : State} {a n m : Nat} (h : SameOutside s t a n) (k : SameOutside t u (a + n) m) : SameOutside s u a (n + m) :=
  fun x hx => (k x (by omega)).trans (h x (by omega))

theorem SameOutside.trans_mem {s t u : State} {a n : Nat} (h : SameOutside s t a n) (k : u.mem = t.mem) : SameOutside s u a n :=
  fun x hx => by rw [k, h x hx]

/-- R107: a home address of PG memory is its channel's key and its offset. -/
theorem chanHa_haChanKey {ha : Nat} (h : haIsScratch ha = false) : chanHa (haChanKey ha) (haOff ha) = ha := by
  simp only [chanHa, haChanKey, chanKey, haPkg, haDie, haChan, haOff, h, low, bitsOf, Bool.false_eq_true, if_false]
  omega

theorem putHomeByte_outside (s : State) (ck off : Nat) (b : Byte) (inv : Bool) : SameOutside s (putHomeByte s ck off b inv) (chanHa ck off) 1 := by
  unfold putHomeByte
  split
  · intro x hx
    have hne : x ≠ chanHa ck off := by omega
    exact memGet_memSet_other _ _ _ _ hne
  · exact .of_mem rfl

theorem putHomeBytes_outside (ck : Nat) (inv : Bool) (l : List Byte) (s : State) (off : Nat) :
    SameOutside s (putHomeBytes s ck off inv l) (chanHa ck off) l.length := by
  induction l generalizing s off with
  | nil => exact .of_mem rfl
  | cons b bs ih =>
    rw [List.length_cons, Nat.add_comm]
    have hrest := ih (putHomeByte s ck off b inv) (off + 1)
    rw [show chanHa ck (off + 1) = chanHa ck off + 1 from (Nat.add_assoc ..).symm] at hrest
    exact (putHomeByte_outside s ck off b inv).append hrest

theorem storeBytes_outside (s : State) (ha : Nat) (l : List Byte) (inv : Bool) : SameOutside s (storeBytes s ha l inv) ha l.length := by
  unfold storeBytes
  dsimp only
  split
  · intro x hx
    exact (memGet_memWrite ..).trans (if_neg (by omega))
  · next h =>
    have hha : haIsScratch ha = false := by simp_all
    have hput := putHomeBytes_outside (haChanKey ha) inv l s (haOff ha)
    rw [chanHa_haChanKey hha] at hput
    exact hput

theorem storePieces_outside (fuel : Nat) (s : State) (ha : Nat) (l : List Byte) (inv : Bool) (st : Status) :
    SameOutside s (storePieces fuel s ha l inv st).1 ha l.length := by
  induction fuel generalizing s ha l st with
  | zero => exact .of_mem rfl
  | succ fuel ih =>
    unfold storePieces
    split
    · exact .of_mem rfl
    · dsimp only
      have hlen (k : Nat) : (l.take k).length + (l.drop k).length = l.length := by rw [← List.length_append, List.take_append_drop]
      generalize hk : min (8 - ha % 8) l.length = k
      have htake : (l.take k).length = k := by rw [List.length_take]; omega
      rw [← hlen k, htake]
      split
      · exact SameOutside.append (t := s) (.of_mem rfl) (ih _ _ _ _)
      · have h := storeBytes_outside s ha (l.take k) inv
        rw [htake] at h
        exact h.append (ih _ _ _ _)

theorem homeWrite_outside (s : State) (vi rc ha : Nat) (l : List Byte) (inv : Bool) (hint : Nat) (host : Bool) :
    SameOutside s (homeWrite s vi rc ha l inv hint host).1 ha l.length := by
  unfold homeWrite
  dsimp only
  have hnote (t : State) (n : Nat) : (noteWrite (useHome t vi rc ha n hint .write host) ha n).mem = t.mem :=
    (noteWrite_same ..).1.trans (useHome_same ..).1
  split
  · exact .of_mem rfl
  · split
    · exact .of_mem rfl
    · split
      · exact .of_mem rfl
      · split
        · exact SameOutside.trans_mem (storePieces_outside _ _ _ _ _ _) (hnote ..)
        · exact SameOutside.trans_mem (storeBytes_outside _ _ _ _) (hnote ..)

/-- The places of one access hold the bytes that it may write. -/
theorem writePlace_outside (s : State) (w : Who) (k : WriteKind) (p : Place) (l : List Byte) (inv : Bool) (n : Nat) (hn : l.length ≤ n) {a : Nat}
    (ha : (p.kind = .pg ∨ p.kind = .scratch) → a < p.ha ∨ p.ha + n ≤ a) : memGet (writePlace s w k p l inv).1.mem a = memGet s.mem a := by
  unfold writePlace
  split
  · rfl
  · split
    · next hp => exact homeWrite_outside s w.vi 0 p.ha l false 0 false a (by have := ha (.inr hp); omega)
    · next hp =>
      have hhome := homeWrite_outside s w.vi p.rc p.ha l inv w.hint w.host a (by have := ha (.inl hp); omega)
      have hnote (t : State) (k : WriteKind) : ((l1Note t w k p.ha l).onTask w.tid (forgetLines p.ha l.length)).mem = t.mem := (l1Note_same ..).1
      dsimp only
      split
      · rw [hnote, hhome]
      · split
        · rw [hnote, hhome]
        · exact hhome
    · rfl
    · rfl

theorem outside_cons {x : Place × Nat} {ps : List (Place × Nat)} {a : Nat} :
    outside (x :: ps) a ↔ ((x.1.kind = .pg ∨ x.1.kind = .scratch) → a < x.1.ha ∨ x.1.ha + x.2 ≤ a) ∧ outside ps a := List.forall_mem_cons

/-- R254: a write over places changes no byte of memory outside them. -/
theorem writePlaces_outside (w : Who) (k : WriteKind) (inv : Bool) (ps : List (Place × Nat)) (s : State) (l : List Byte) {a : Nat} (ha : outside ps a) :
    memGet (writePlaces w k inv s ps l).1.mem a = memGet s.mem a := by
  induction ps generalizing s l with
  | nil => rfl
  | cons x rest ih =>
    obtain ⟨hx, hrest⟩ := outside_cons.mp ha
    exact (ih _ _ hrest).trans (writePlace_outside s w k x.1 (l.take x.2) inv x.2 (List.length_take_le ..) hx)

/-! What the current strand notices of a write to memory (R61, R268, R339). -/

/-- A strand before and after a write at a home: it may wake, its WATCH event may become pending, and prefetched lines may go. -/
def Noticed (t u : Strand) : Prop :=
  ∃ evp va parked lines, u = { t with trapS := { t.trapS with evp := evp }, evWatch := va, parked := parked, prefetch := lines }

theorem Noticed.refl (t : Strand) : Noticed t t := ⟨_, _, _, _, rfl⟩

theorem Noticed.trans {t u v : Strand} (h : Noticed t u) (k : Noticed u v) : Noticed t v := by
  obtain ⟨_, _, _, _, rfl⟩ := h
  obtain ⟨_, _, _, _, rfl⟩ := k
  exact ⟨_, _, _, _, rfl⟩

theorem noticed_noteStrand (ha n : Nat) (t : Strand) : Noticed t (noteStrand ha n t) := by
  unfold noteStrand
  dsimp only
  split <;> (repeat' split) <;> exact ⟨_, _, _, _, rfl⟩

theorem noticed_forgetLines (ha n : Nat) (t : Strand) : Noticed t (forgetLines ha n t) := by
  unfold forgetLines
  split
  · exact .refl t
  · exact ⟨_, _, _, _, rfl⟩

theorem noticed_onTask (s : State) (tid : Nat) {f : Strand → Strand} (h : ∀ t, Noticed t (f t)) : Noticed s.cpu (s.onTask tid f).cpu := by
  unfold State.onTask State.onStrands
  dsimp only
  split
  · exact h _
  · exact .refl _

theorem putHomeBytes_cpu (ck : Nat) (inv : Bool) (l : List Byte) (s : State) (off : Nat) : (putHomeBytes s ck off inv l).cpu = s.cpu := by
  induction l generalizing s off with
  | nil => rfl
  | cons b bs ih =>
    refine (ih _ _).trans ?_
    unfold putHomeByte
    split <;> rfl

theorem storeBytes_cpu (s : State) (ha : Nat) (l : List Byte) (inv : Bool) : (storeBytes s ha l inv).cpu = s.cpu := by
  unfold storeBytes
  dsimp only
  split
  · rfl
  · exact putHomeBytes_cpu ..

theorem storePieces_cpu (fuel : Nat) (s : State) (ha : Nat) (l : List Byte) (inv : Bool) (st : Status) :
    (storePieces fuel s ha l inv st).1.cpu = s.cpu := by
  induction fuel generalizing s ha l st with
  | zero => rfl
  | succ fuel ih =>
    unfold storePieces
    split
    · rfl
    · dsimp only
      split
      · exact ih ..
      · exact (ih ..).trans (storeBytes_cpu ..)

theorem noteWrite_cpu (s : State) (ha n : Nat) : (noteWrite s ha n).cpu = noteStrand ha n s.cpu := rfl

theorem noticed_homeWrite (s : State) (vi rc ha : Nat) (l : List Byte) (inv : Bool) (hint : Nat) (host : Bool) :
    Noticed s.cpu (homeWrite s vi rc ha l inv hint host).1.cpu := by
  unfold homeWrite
  dsimp only
  have hnote (t : State) (n : Nat) : Noticed t.cpu (noteWrite (useHome t vi rc ha n hint .write host) ha n).cpu := by
    rw [noteWrite_cpu, useHome_cpu]
    exact noticed_noteStrand ha n t.cpu
  split
  · exact .refl _
  · split
    · exact .refl _
    · split
      · exact .refl _
      · split
        · rw [← storePieces_cpu (l.length + 1) s ha l inv .ok]
          exact hnote ..
        · rw [← storeBytes_cpu s ha l inv]
          exact hnote ..

theorem l1Note_cpu (s : State) (w : Who) (k : WriteKind) (ha : Nat) (l : List Byte) : (l1Note s w k ha l).cpu = s.cpu := by
  unfold l1Note l1Store l1Invalidate l1Drop
  dsimp only
  split
  · split <;> rfl
  · split <;> rfl
  · rfl

/-- A write in memory lets the strand notice it, no more. -/
theorem noticed_writePlace (s : State) (w : Who) (k : WriteKind) {p : Place} (l : List Byte) (inv : Bool) (hp : p.kind = .pg ∨ p.kind = .scratch) :
    Noticed s.cpu (writePlace s w k p l inv).1.cpu := by
  have hnote (t : State) (k : WriteKind) : Noticed t.cpu ((l1Note t w k p.ha l).onTask w.tid (forgetLines p.ha l.length)).cpu := by
    rw [← l1Note_cpu t w k p.ha l]
    exact noticed_onTask _ _ (noticed_forgetLines p.ha l.length)
  unfold writePlace
  split
  · exact .refl _
  · rcases hp with hp | hp
    · simp only [hp]
      refine (noticed_homeWrite s w.vi p.rc p.ha l inv w.hint w.host).trans ?_
      split
      · exact hnote ..
      · split
        · exact hnote ..
        · exact .refl _
    · simp only [hp]
      exact noticed_homeWrite ..

theorem noticed_writePlaces (w : Who) (k : WriteKind) (inv : Bool) (ps : List (Place × Nat)) (s : State) (l : List Byte)
    (hps : ∀ x ∈ ps, x.1.kind = .pg ∨ x.1.kind = .scratch) : Noticed s.cpu (writePlaces w k inv s ps l).1.cpu := by
  induction ps generalizing s l with
  | nil => exact .refl _
  | cons x rest ih =>
    obtain ⟨hx, hrest⟩ := List.forall_mem_cons.mp hps
    exact (noticed_writePlace s w k (l.take x.2) inv hx).trans (ih _ _ hrest)

/-- R398: a write as a whole is a write over its places, or none. -/
theorem writeWhole_cases (w : Who) (k : WriteKind) (inv : Bool) (s : State) (ps : List (Place × Nat)) (l : List Byte) :
    (writeWhole w k inv s ps l).1 = s ∨ writeWhole w k inv s ps l = writePlaces w k inv s ps l := by
  unfold writeWhole
  split
  · exact .inl rfl
  · exact .inr rfl

/-- R398: where a home refuses some of the bytes, none is written. -/
theorem writeWhole_refused {w : Who} {k : WriteKind} {inv : Bool} {s : State} {ps : List (Place × Nat)} {l : List Byte}
    (h : (ps.map (fun x => placeRefusal s w x.1 x.2)).any (· ≠ .ok) = true) : (writeWhole w k inv s ps l).1 = s := by
  unfold writeWhole
  split
  · rfl
  · next hnone =>
    obtain ⟨st, hst, hne⟩ := List.any_eq_true.mp h
    exact absurd (List.find?_eq_none.mp hnone st hst) (not_not.mpr hne)

/-! Checks before an access (R197, R256 to R259). -/

theorem misaligned_iff {va : Word} {n : Nat} : misaligned va n = true ↔ va.toNat % n ≠ 0 := by simp [misaligned]

/-- R256, R106: an integer operation has no ABN operand. -/
theorem amoAbn_none {op : Nat} {b : Nat × Option Nat} (h : op < 7 ∨ b.2 = none) : amoAbn op b = none := by
  unfold amoAbn
  split
  · next h7 => exact h.resolve_left (by omega)
  · rfl

section Misaligned

variable {s : State} {o : Ops}

theorem cas_misaligned (h : (s.cpu.readG o.A).toNat % byteSize o.T ≠ 0) : exec (.cas o) s = .next (scalarTrap s 0x10 (s.cpu.readG o.A)) :=
  if_pos (misaligned_iff.mpr h)

theorem cas2_misaligned (h : (s.cpu.readG o.A).toNat % 8 ≠ 0 ∨ 240 < (s.cpu.readG o.A).toNat % 256) :
    exec (.cas2 o) s = .next (scalarTrap s 0x10 (s.cpu.readG o.A)) := if_pos h

theorem bind_misaligned (h : (baseOffset s o).toNat % 8 ≠ 0) : exec (.bind o) s = .next (scalarTrap s 0x10 (baseOffset s o)) :=
  if_pos (misaligned_iff.mpr h)

/-- A blocking AMO without an ABN operand. -/
theorem amo_blocking (hnb : o.nb = false) (hC : o.C < 7 ∨ (atomicB s.cpu.readG s.cpu.readK o).2 = none) :
    exec (.amo o) s = if misaligned (s.cpu.readG o.A) (byteSize o.T) then .next (scalarTrap s 0x10 (s.cpu.readG o.A))
      else afterQueue o.releases s (atomicFrom (.amo o) s (s.cpu.readG o.A) (byteSize o.T) (.amo o.C o.T (atomicB s.cpu.readG s.cpu.readK o).1)
        (fun old s1 => wrote s1 o (extendG o.T (leNat old)))) := by
  show execAmo o s = _
  simp only [execAmo, hnb, amoAbn_none hC, Bool.false_eq_true, if_false]
  rfl

theorem amo_queued_misaligned (hnb : o.nb = true) (hC : o.C < 7) (h : (s.srcG o.A).toNat % byteSize o.T ≠ 0) :
    exec (.amo o) s = .next (queuedTrap s 0x10 (s.srcG o.A)) := by
  show execAmo o s = _
  simp only [execAmo, hnb, amoAbn_none (.inl hC), if_true]
  exact if_pos (misaligned_iff.mpr h)

end Misaligned

/-- R197: PRIV of the instructions that trap below level S, and below level H. -/
theorem atLevel_below {l : Level} {i : Instr} {s : State} {k x : Out} (hx : x = atLevel l i s k) (h : s.cpu.level.rank < l.rank) :
    x = .next (scalarTrap s 0x06 ((encode i).headD 0)) := hx.trans (atLevel_trap l i s k h)

theorem rank_lt_of_u {l : Level} (h : l = .u) : l.rank < Level.s.rank := h ▸ (by decide)

theorem rank_lt_of_ne_h {l : Level} (h : l ≠ .h) : l.rank < Level.h.rank := by
  cases l with
  | u => decide
  | s => decide
  | h => exact absurd rfl h

/-- R197, R57: a queued instruction of level S traps PRIV as it commits at U. -/
theorem enqueueFault_priv {s : State} {i : Instr} (w : Word) (hshape : shapeNotServed s i = false) (hbar : badBarrier s.cpu i = false)
    (hlevel : needsLevel i = .s) (hu : s.cpu.level = .u) : enqueueFault s i w = some (0x06, w) := by
  have hpriv : privFault s.cpu i = true := by
    rw [privFault, hlevel]
    exact decide_eq_true (rank_lt_of_u hu)
  simp [enqueueFault, hshape, commitFault, hbar, hpriv, causePriv]

/-- Settles O34: each check stands before anything that the instruction does. -/
theorem accessChecksTrap : Obligations.AccessChecksTrap := by
  refine ⟨fun s o => ⟨fun h => ⟨cas_misaligned h, fun hnb hC => ?_, fun hnb hC hva => ?_⟩, cas2_misaligned, bind_misaligned⟩, fun s o => ⟨fun hu => ?_, fun hh => ?_, fun h => ?_, fun h => ?_, ?_⟩⟩
  · rw [amo_blocking hnb (.inl hC), if_pos (misaligned_iff.mpr h)]
  · exact hva ▸ amo_queued_misaligned hnb hC (hva.symm ▸ h)
  · exact ⟨atLevel_below rfl (rank_lt_of_u hu), atLevel_below rfl (rank_lt_of_u hu)⟩
  · exact ⟨atLevel_below rfl (rank_lt_of_ne_h hh), atLevel_below rfl (rank_lt_of_ne_h hh), atLevel_below rfl (rank_lt_of_ne_h hh)⟩
  · exact atLevel_below rfl h
  · exact ⟨atLevel_below rfl h, atLevel_below rfl h, atLevel_below rfl h, atLevel_below rfl h, atLevel_below rfl h⟩
  · intro i w hi hu
    rcases hi with rfl | rfl | rfl | rfl <;> exact enqueueFault_priv w rfl rfl rfl hu

/-! A scalar access that other dies answer (R254, R327): it starts, waits, lands or traps. -/

theorem onTrip_starts {s : State} {start : State → Out} {k : List Byte → State → State} (ht : ∀ x, s.cpu.trip = some x → x.pc ≠ s.cpu.pc) :
    onTrip s start k = start s := by
  have hnone : s.cpu.trip.filter (fun x => x.pc = s.cpu.pc) = none := by
    simpa [Option.filter_eq_none_iff] using ht
  simp only [onTrip, hnone]

/-- No access of the strand has gone to other dies. -/
theorem noTrip {s : State} (ht : s.cpu.trip = none) : ∀ x, s.cpu.trip = some x → x.pc ≠ s.cpu.pc := by simp [ht]

section
variable {s : State} {x : Trip} {start : State → Out} {k : List Byte → State → State} (ht : s.cpu.trip = some x) (hpc : x.pc = s.cpu.pc)
include ht hpc

theorem onTrip_waits (hf : x.fail = none) (hp : ∃ p ∈ s.pieces, p.op = x.op) : onTrip s start k = .next s.park := by
  have hsome : s.pieces.any (fun p => p.op = x.op) = true := by simpa using hp
  simp only [onTrip, ht, Option.filter_some, hpc, decide_true, if_pos, hf, hsome]

theorem onTrip_lands (hf : x.fail = none) (hp : ∀ p ∈ s.pieces, p.op ≠ x.op) : onTrip s start k = .next (k x.bytes (landed s)) := by
  have hnone : s.pieces.any (fun p => p.op = x.op) = false := by simpa using hp
  simp only [onTrip, ht, Option.filter_some, hpc, decide_true, if_pos, hf, hnone]
  rfl

theorem onTrip_traps {c : Nat} {v : Word} (hf : x.fail = some (c, v)) : onTrip s start k = .next (scalarTrap (landed s) c v) := by
  simp only [onTrip, ht, Option.filter_some, hpc, decide_true, if_pos, hf]
  rfl

end

/-! Blocking and non-blocking scalar stores (R253, R254, R398). -/

theorem afterQueue_passes {r : Bool} {s : State} {k : Out} (h : (r && accessQueued s) = false) : afterQueue r s k = k := if_neg (by simp [h])

theorem afterPosts_passes {r : Bool} {s : State} {k : Out} (h : (r && earlierPosts s) = false) : afterPosts r s k = k := if_neg (by simp [h])

theorem noteFailure_eq (ea : Word) (s : State) (st : Status) : noteFailure ea (s, st) = if st = .ok then s else deferred s st.cause ea := by
  cases st <;> rfl

section
variable {s s1 s2 : State} {o : Ops} {ea : Word} {ps : List (Place × Nat)} {st : Status} {release : Bool}

theorem storeScalar_waits (hq : accessQueued s = true) : storeScalar o s ea true = .next s.park := if_pos (by simpa using hq)

/-- R398: a store whose bytes its own die reaches. -/
theorem storeScalar_near (hq : (release && accessQueued s) = false) (hps : placesOf s (storer s o) ea (byteSize o.T) .write = .ok ps s1)
    (hpost : postPending s1 ps = false) (haway : anyAway s1 (storer s o) ps = false)
    (hw : writeWhole (storer s o) .store false s1 ps (leBytes (byteSize o.T) (s.cpu.readG o.D).toNat) = (s2, st)) :
    storeScalar o s ea release = .next ((if st = .ok then s2 else deferred s2 st.cause ea).commit o.bytes id) := by
  rw [byteSize] at hps hw
  rw [storer] at hps haway hw
  simp only [storeScalar, afterQueue_passes hq, accessBytes, hps, hpost, haway, hw, noteFailure_eq, Bool.false_eq_true, if_false]

theorem storeScalar_pending (hq : (release && accessQueued s) = false) (hps : placesOf s (storer s o) ea (byteSize o.T) .write = .ok ps s1)
    (hpost : postPending s1 ps = true) : storeScalar o s ea release = .next s1.park := by
  rw [byteSize, storer] at hps
  simp only [storeScalar, afterQueue_passes hq, accessBytes, hps, hpost, if_true]

/-- R327: a store whose bytes packets must reach. -/
theorem storeScalar_away (hq : (release && accessQueued s) = false) (hps : placesOf s (storer s o) ea (byteSize o.T) .write = .ok ps s1)
    (hpost : postPending s1 ps = false) (haway : anyAway s1 (storer s o) ps = true) :
    storeScalar o s ea release
      = .next ((postStore s1 ea (storer s o).hint ps (leBytes (byteSize o.T) (s.cpu.readG o.D).toNat)).commit o.bytes id) := by
  rw [byteSize, storer] at hps
  rw [storer] at haway
  simp only [storeScalar, afterQueue_passes hq, accessBytes, hps, hpost, haway, Bool.false_eq_true, if_false, if_true]
  rfl

theorem storeScalar_fault {c : Nat} {v : Word} (hq : (release && accessQueued s) = false)
    (hps : placesOf s (storer s o) ea (byteSize o.T) .write = .fault c v s1) :
    storeScalar o s ea release
      = if faultsStale s ea (byteSize o.T) then .next ((deferred s1 c ea).commit o.bytes id) else .next (scalarTrap s1 c v) := by
  rw [byteSize, storer] at hps
  simp only [storeScalar, afterQueue_passes hq, accessBytes, hps]
  rfl

theorem anyAway_cons (h : anyAway s1 (storer s o) ps = true) : ∃ p more, ps = p :: more := by
  cases ps with
  | nil => cases h
  | cons p more => exact ⟨p, more, rfl⟩

/-- R253: STREL once every access before it is complete, with its write on its own die or in packets. -/
theorem storeRelease_starts {i : Instr} (ht : ∀ x, s.cpu.trip = some x → x.pc ≠ s.cpu.pc) (hq : accessQueued s = false)
    (hps : placesOf s (storer s o) ea (byteSize o.T) .write = .ok ps s1) :
    (anyAway s1 (storer s o) ps = false → writeWhole (storer s o) .store false s1 ps (leBytes (byteSize o.T) (s.cpu.readG o.D).toNat) = (s2, st) →
        storeRelease i o s ea = .next (strelDone s2 o st ps ea))
      ∧ (∀ p more, ps = p :: more → anyAway s1 (storer s o) ps = true → storeRelease i o s ea
          = .next (startTrip s1 i ea (storer s o).hint [(p.1, .trip (byteSize o.T) (.put (leBytes (byteSize o.T) (s.cpu.readG o.D).toNat) more))])) := by
  unfold storeRelease
  rw [onTrip_starts ht, afterQueue_passes (by simpa using hq)]
  rw [byteSize] at hps ⊢
  constructor
  · intro haway hw
    rw [storer] at hps haway hw
    simp only [accessBytes, hps, haway, hw, strelDone, Bool.false_eq_true, if_false]
    cases st <;> rfl
  · rintro p more rfl haway
    rw [storer] at hps haway
    simp only [accessBytes, hps, haway, if_true]
    rfl

/-- R253: a non-blocking store at the head of the queue. -/
theorem storeNb_leaves (hq : (o.releases && earlierPosts s) = false) (hcc : ccFull s o.ccNo = false)
    (hps : placesOf s (s.who .scalar) ea (byteSize o.T) .write = .ok ps s1) (hw : wordPending s1 true ps = false) :
    storeNb o s ea = .next ((issueNb s1 o.ccNo (anyHs ps) none (writePieces false ps (leBytes (byteSize o.T) (s.srcG o.D).toNat))).retireKeep id) := by
  rw [byteSize] at hps ⊢
  simp only [storeNb, afterPosts_passes hq, hcc, accessBytes, hps, queuedAcc, hw, Bool.false_eq_true, if_false]

theorem storeNb_waits (hq : earlierPosts s = true) (hr : o.releases = true) : storeNb o s ea = .next s.park := if_pos (by simp [hq, hr])

end

theorem st_blocking {o : Ops} {s : State} (h : o.nb = false) : exec (.st o) s = storeScalar o s (baseOffset s o) o.releases := if_neg (by simp [h])
theorem stx_blocking {o : Ops} {s : State} (h : o.nb = false) : exec (.stx o) s = storeScalar o s (scaledIndex s o) o.releases := if_neg (by simp [h])
theorem st_nb {o : Ops} {s : State} (h : o.nb = true) : exec (.st o) s = storeNb o s (s.srcG o.A + s.srcB o.b) := if_pos h
theorem stx_nb {o : Ops} {s : State} (h : o.nb = true) : exec (.stx o) s = storeNb o s (s.srcG o.A + s.srcG o.B <<< Nat.log2 (byteSize o.T)) := if_pos h
theorem strel_eq (o : Ops) (s : State) : exec (.strel o) s = storeRelease (.strel o) o s (baseOffset s o) := rfl

/-- Settles O28: one case per outcome of the three store paths. -/
theorem storesComplete : Obligations.StoresComplete := by
  intro s s1 s2 o ps st bytes w done doneX
  refine ⟨?_, ?_, ?_, ?_, ?_, ?_, ?_, ?_, ?_, ?_, ?_, ?_⟩
  · intro hnb hq hps hpost haway hw
    rw [st_blocking hnb]
    exact storeScalar_near hq hps hpost haway hw
  · intro hnb hq hps hpost haway hw
    rw [stx_blocking hnb]
    exact storeScalar_near hq hps hpost haway hw
  · intro ht hq hps
    obtain ⟨hnear, hfar⟩ := storeRelease_starts (i := .strel o) (s2 := s2) (st := st) (noTrip ht) hq hps
    refine ⟨hnear, fun haway => ?_⟩
    obtain ⟨p, more, rfl⟩ := anyAway_cons haway
    obtain ⟨hcpu, hmem, hlen⟩ := startTrip_spec s1 (.strel o) (baseOffset s o) w.hint [(p.1, .trip (byteSize o.T) (.put bytes more))]
    refine ⟨_, hfar p more rfl haway, ?_⟩
    rw [hcpu]
    exact ⟨rfl, rfl, hmem.1.trans (mem_of_placesOf hps).1, rfl, ⟨_, rfl, rfl, rfl, rfl, rfl⟩, hlen⟩
  · intro x ht hpc
    rw [strel_eq, storeRelease]
    exact ⟨onTrip_waits ht hpc, onTrip_lands ht hpc, fun _ _ => onTrip_traps ht hpc⟩
  · intro hq
    refine ⟨fun ht => ?_, fun hnb hr => ?_⟩
    · rw [strel_eq, storeRelease, onTrip_starts (noTrip ht)]
      exact if_pos (by simpa using hq)
    · rw [st_blocking hnb, stx_blocking hnb, hr]
      exact ⟨storeScalar_waits hq, storeScalar_waits hq⟩
  · intro hnb hq hps hpost
    rw [st_blocking hnb]
    exact storeScalar_pending hq hps hpost
  · exact fun _ hw hr => (congrArg Prod.fst hw).symm.trans (writeWhole_refused hr)
  · intro hnb hq hps hpost haway
    rw [st_blocking hnb]
    refine ⟨_, storeScalar_away hq hps hpost haway, ?_⟩
    obtain ⟨p, more, rfl⟩ := anyAway_cons haway
    obtain ⟨⟨hcpu, hmem, hlen⟩, l, q, hpieces, hl, htid, hplace, hwhat⟩ := postStore_spec s1 (baseOffset s o) w.hint p more bytes
    refine ⟨congrArg (fun t : Strand => t.pc + o.bytes) hcpu, hmem.1.trans (mem_of_placesOf hps).1, congrArg (·.g) hcpu, congrArg (·.deferred) hcpu, hlen, ?_⟩
    intro q' hq'
    have hmem' : q' ∈ (postStore s1 (baseOffset s o) w.hint (p :: more) bytes).pieces.drop s1.pieces.length := hq'
    rw [hpieces, ← hl, List.drop_left, List.mem_singleton] at hmem'
    subst hmem'
    exact ⟨htid, p, more, rfl, hplace, hwhat⟩
  · intro c v hnb hq hps
    rw [st_blocking hnb, storeScalar_fault hq hps]
    exact ⟨fun h => if_neg (by simp [h]), fun h => if_pos h⟩
  · intro hnb hr hq
    rw [st_nb hnb, stx_nb hnb]
    exact ⟨storeNb_waits hq hr, storeNb_waits hq hr⟩
  · intro hnb hq hcc hps hw
    rw [st_nb hnb]
    exact storeNb_leaves hq hcc hps hw
  · intro hnb hq hcc hps hw
    rw [stx_nb hnb]
    exact storeNb_leaves hq hcc hps hw

/-! The frame of the blocking stores (R254, R8). -/

/-- A strand before and after a turn of a blocking store with a word count of `n` bytes: it notices a write, a failure or a trip is kept, and the pc is past the
store's words unless the strand waits. -/
def StoreTurn (n : Word) (t u : Strand) : Prop :=
  ∃ v deferred trip pc parked done, Noticed t v ∧ u = { v with deferred := deferred, trip := trip, pc := pc, parked := parked, stepDone := done }
    ∧ (parked = false → pc = t.pc + n)

theorem storeTurn_parked (n : Word) (t : Strand) : StoreTurn n t { t with parked := true } :=
  ⟨t, _, _, _, _, _, .refl t, rfl, fun h => nomatch h⟩

theorem Noticed.pc {t u : Strand} (h : Noticed t u) : u.pc = t.pc := by
  obtain ⟨_, _, _, _, rfl⟩ := h
  rfl

theorem storeTurn_advance (n : Word) {t v u : Strand} (h : Noticed t v) {deferred : List (BitVec 8 × Word)} {trip : Option Trip}
    (hu : u = { v with deferred := deferred, trip := trip }) : StoreTurn n t (u.advance n) :=
  ⟨v, deferred, trip, v.pc + n, false, u.stepped, h, by rw [hu]; rfl, fun _ => by rw [h.pc]⟩

/-- The machine before and after a turn of a blocking store whose bytes lie in `ps`. -/
structure StoreKeeps (n : Word) (ps : List (Place × Nat)) (s t : State) : Prop where
  mem     : ∀ a, outside ps a → memGet t.mem a = memGet s.mem a
  hostMem : t.hostMem = s.hostMem
  cpu     : StoreTurn n s.cpu t.cpu

theorem StoreKeeps.of_same {n : Word} {ps : List (Place × Nat)} {s t : State} (h : MemSame s t) (hc : StoreTurn n s.cpu t.cpu) : StoreKeeps n ps s t :=
  ⟨fun _ _ => by rw [h.1], h.2, hc⟩

theorem StoreKeeps.park {n : Word} {ps : List (Place × Nat)} {s t : State} (h : MemSame s t) (hc : t.cpu = s.cpu) : StoreKeeps n ps s t.park :=
  ⟨fun _ _ => by rw [park_mem, h.1], h.2, by rw [← hc]; exact storeTurn_parked ..⟩

section
variable {s s1 : State} {o : Ops} {ea : Word} {m : Nat} {ps : List (Place × Nat)} (hps : placesOf s (storer s o) ea m .write = .ok ps s1)
include hps

theorem storeKeeps_park (n : Word) : StoreKeeps n ps s s1.park :=
  .park (mem_of_placesOf hps) (cpu_of_placesOf hps)

/-- R398: a store on its own die, which is written as a whole or refused. -/
theorem writeWhole_keeps (hk : ∀ x ∈ ps, x.1.kind = .pg ∨ x.1.kind = .scratch) (k : WriteKind) (l : List Byte) :
    (∀ a, outside ps a → memGet (writeWhole (storer s o) k false s1 ps l).1.mem a = memGet s.mem a)
      ∧ (writeWhole (storer s o) k false s1 ps l).1.hostMem = s.hostMem ∧ Noticed s.cpu (writeWhole (storer s o) k false s1 ps l).1.cpu := by
  obtain ⟨hmem, hhost⟩ := mem_of_placesOf hps
  rw [← cpu_of_placesOf hps, ← hmem, ← hhost]
  obtain hw | hw := writeWhole_cases (storer s o) k false s1 ps l <;> rw [hw]
  · exact ⟨fun _ _ => rfl, rfl, .refl _⟩
  · exact ⟨fun a => writePlaces_outside _ k false ps s1 l, (writePlaces_wf _ k false ps s1 l).2, noticed_writePlaces _ k false ps s1 l hk⟩

/-- The outcomes of ST: it waits, leaves in a piece, is written, or is refused. -/
theorem storeScalar_keeps {release : Bool} {t : State} (hm : m = byteSize o.T) (hk : ∀ x ∈ ps, x.1.kind = .pg ∨ x.1.kind = .scratch)
    (ht : storeScalar o s ea release = .next t) : StoreKeeps o.bytes ps s t := by
  subst hm
  by_cases hq : (release && accessQueued s) = true
  · have hpark : storeScalar o s ea release = .next s.park := if_pos hq
    cases hpark.symm.trans ht
    exact .park (.refl s) rfl
  have hq := Bool.eq_false_iff.mpr hq
  cases hpost : postPending s1 ps with
  | true =>
    cases (storeScalar_pending hq hps hpost).symm.trans ht
    exact storeKeeps_park hps _
  | false =>
    cases haway : anyAway s1 (storer s o) ps with
    | true =>
      cases (storeScalar_away hq hps hpost haway).symm.trans ht
      obtain ⟨p, more, rfl⟩ := anyAway_cons haway
      obtain ⟨⟨hcpu, hmem, -⟩, -⟩ := postStore_spec s1 ea (storer s o).hint p more (leBytes (byteSize o.T) (s.cpu.readG o.D).toNat)
      exact .of_same ((mem_of_placesOf hps).trans hmem) (storeTurn_advance _ (.refl _) (hcpu.trans (cpu_of_placesOf hps)))
    | false =>
      obtain ⟨hmem, hhost, hcpu⟩ := writeWhole_keeps hps hk .store (leBytes (byteSize o.T) (s.cpu.readG o.D).toNat)
      obtain ⟨⟨s2, st⟩, hw⟩ : ∃ r, writeWhole (storer s o) .store false s1 ps (leBytes (byteSize o.T) (s.cpu.readG o.D).toNat) = r := ⟨_, rfl⟩
      rw [hw] at hmem hhost hcpu
      cases (storeScalar_near hq hps hpost haway hw).symm.trans ht
      split <;> exact ⟨hmem, hhost, storeTurn_advance _ hcpu rfl⟩

/-- The outcomes of STREL where its write is not refused: it waits, or is written. -/
theorem storeRelease_keeps {i : Instr} {t : State} (hm : m = byteSize o.T) (hk : ∀ x ∈ ps, x.1.kind = .pg ∨ x.1.kind = .scratch)
    (hx : ∀ x, s.cpu.trip = some x → x.fail = none)
    (hw : (writeWhole (storer s o) .store false s1 ps (leBytes (byteSize o.T) (s.cpu.readG o.D).toNat)).2 = .ok)
    (ht : storeRelease i o s ea = .next t) : StoreKeeps o.bytes ps s t := by
  subst hm
  have hpark : StoreKeeps o.bytes ps s s.park := .park (.refl s) rfl
  by_cases hgone : ∃ x, s.cpu.trip = some x ∧ x.pc = s.cpu.pc
  · obtain ⟨x, hsome, hpc⟩ := hgone
    rw [storeRelease] at ht
    by_cases hp : ∃ p ∈ s.pieces, p.op = x.op
    · cases (onTrip_waits hsome hpc (hx x hsome) hp).symm.trans ht
      exact hpark
    · cases (onTrip_lands hsome hpc (hx x hsome) (by simpa using hp)).symm.trans ht
      exact .of_same ⟨rfl, rfl⟩ (storeTurn_advance _ (.refl _) rfl)
  have hgone : ∀ x, s.cpu.trip = some x → x.pc ≠ s.cpu.pc := by simpa using hgone
  cases hq : accessQueued s with
  | true =>
    have h : storeRelease i o s ea = .next s.park := by
      rw [storeRelease, onTrip_starts hgone]
      exact if_pos (by simpa using hq)
    cases h.symm.trans ht
    exact hpark
  | false =>
    obtain ⟨hnear, hfar⟩ := storeRelease_starts (i := i) (st := .ok) hgone hq hps
    cases haway : anyAway s1 (storer s o) ps with
    | true =>
      obtain ⟨p, more, rfl⟩ := anyAway_cons haway
      cases (hfar p more rfl haway).symm.trans ht
      obtain ⟨hcpu, hmem, -⟩ := startTrip_spec s1 i ea (storer s o).hint
        [(p.1, .trip (byteSize o.T) (.put (leBytes (byteSize o.T) (s.cpu.readG o.D).toNat) more))]
      refine .of_same ((mem_of_placesOf hps).trans hmem) ?_
      rw [hcpu, ← cpu_of_placesOf hps]
      exact ⟨s1.cpu, _, _, _, _, _, .refl _, rfl, fun h => nomatch h⟩
    | false =>
      obtain ⟨hmem, hhost, hcpu⟩ := writeWhole_keeps hps hk .store (leBytes (byteSize o.T) (s.cpu.readG o.D).toNat)
      cases (hnear haway (Prod.ext rfl hw)).symm.trans ht
      exact ⟨hmem, hhost, storeTurn_advance _ hcpu rfl⟩

end

/-- Settles O29: every outcome keeps memory outside the store's places, and changes of the strand what a turn of a store may. -/
theorem storeFrame : Obligations.StoreFrame := by
  intro s s1 t o ps i hi hps hk ht
  have hkeeps : StoreKeeps o.bytes ps s t := by
    obtain ⟨rfl, hnb⟩ | ⟨rfl, hx, hw⟩ := hi
    · exact storeScalar_keeps hps rfl hk ((st_blocking hnb).symm.trans ht)
    · exact storeRelease_keeps hps rfl hk hx hw ht
  obtain ⟨hmem, hhost, v, _, _, pc, _, _, ⟨_, _, _, _, rfl⟩, hcpu, hpc⟩ := hkeeps
  rw [hcpu]
  exact ⟨hmem, hhost, rfl, rfl, rfl, rfl, rfl, rfl, rfl, rfl, rfl, rfl, rfl, rfl, rfl, rfl, rfl, rfl, rfl, rfl, hpc⟩

/-! R256's table: what an atomic leaves in its word. -/

/-- A pattern of the format, whose only NaN is the canonical one (R83). -/
def Canonical (f : Fmt) (r : Nat) : Prop := r < 2 ^ f.width ∧ ((fdecode f r).isNan = true → r = f.nan)

section
variable {f : Fmt} (hf : Wide f)
include hf

/-- The special patterns by their fields. -/
theorem special_fields (neg : Bool) {frac : Nat} (hfrac : frac < 2 ^ f.fracBits) :
    f.signBit neg + f.expOnes * 2 ^ f.fracBits + frac < 2 ^ f.width
      ∧ fdecode f (f.signBit neg + f.expOnes * 2 ^ f.fracBits + frac) = if frac = 0 then .inf neg else .nan (frac / 2 ^ (f.fracBits - 1) == 0) := by
  obtain ⟨-, -, hones⟩ := hf.expOnes_eq
  exact ⟨fields_lt hf neg hones hfrac, (fdecode_fields hf neg hones hfrac).trans (if_pos rfl)⟩

theorem canonical_inf (neg : Bool) : Canonical f (f.inf neg) := by
  obtain ⟨hlt, hdec⟩ := special_fields hf neg (Nat.two_pow_pos _)
  refine ⟨hlt, fun h => ?_⟩
  have hinf : fdecode f (f.inf neg) = .inf neg := hdec
  rw [hinf] at h
  cases h

theorem nan_lt : f.nan < 2 ^ f.width := by
  have hpos := hf.fracBits_pos
  have h := (special_fields hf false (frac := 2 ^ (f.fracBits - 1)) (Nat.pow_lt_pow_right one_lt_two (by omega))).1
  simpa [Fmt.signBit, Fmt.nan] using h

theorem canonical_zero (neg : Bool) : Canonical f (f.zero neg) := by
  obtain ⟨hones, hemax, -⟩ := hf.expOnes_eq
  have hpack : f.zero neg = f.signBit neg + 0 * 2 ^ f.fracBits + 0 := by simp [Fmt.zero]
  have hdec := fdecode_fields hf neg (Nat.two_pow_pos f.ebits) (Nat.two_pow_pos f.fracBits)
  rw [← hpack, if_neg (by omega), if_pos rfl] at hdec
  refine ⟨hpack ▸ fields_lt hf neg (Nat.two_pow_pos _) (Nat.two_pow_pos _), fun h => ?_⟩
  rw [hdec] at h
  cases h

/-- Rounding to the nearest gives a zero, a finite number or an infinity. -/
theorem canonical_roundDyadic (zneg : Bool) (m e : ℤ) : Canonical f (roundDyadic f 0 zneg m e).1 := by
  by_cases hm : m = 0
  · rw [roundDyadic, if_pos hm]
    exact canonical_zero hf zneg
  have hx : (m : ℚ) * 2 ^ e ≠ 0 := by positivity
  have habs : 0 < |(((m : ℚ) * 2 ^ e : ℚ) : ℝ)| := abs_pos.mpr (by exact_mod_cast hx)
  obtain ⟨k, hlow, hup⟩ := exists_mem_Ico_zpow habs one_lt_two
  obtain ⟨m', _, -, -, hin, hover⟩ := rounded_roundDyadic hf (by decide : 0 < 4) zneg rfl hx k hlow hup
  obtain h | h := le_or_gt ((m' : ℝ) * 2 ^ (max k f.emin - (f.fracBits : ℤ))) ((2 ^ f.prec - 1) * 2 ^ (f.emax - (f.fracBits : ℤ)))
  · obtain ⟨⟨hnan, -⟩, -, hlt, -⟩ := hin h
    exact ⟨hlt, fun hn => by rw [hnan] at hn; cases hn⟩
  · rw [hover h, if_pos (Or.inl rfl)]
    exact canonical_inf hf _

theorem canonical_addVal (a b : FVal) : Canonical f (addVal f 0 a b).1 := by
  have hcanon : Canonical f f.nan := ⟨nan_lt hf, fun _ => rfl⟩
  cases a with
  | nan => exact hcanon
  | inf na =>
    cases b with
    | nan => exact hcanon
    | inf nb =>
      obtain ⟨hopposite, hsame⟩ := addVal_inf_inf f 0 na
      rcases Bool.eq_or_eq_not nb na with rfl | rfl
      · rw [hsame]
        exact canonical_inf hf nb
      · rw [hopposite]
        exact hcanon
    | fin => exact canonical_inf hf na
  | fin na ma ea =>
    cases b with
    | nan => exact hcanon
    | inf nb => exact canonical_inf hf nb
    | fin nb mb eb =>
      obtain ⟨zneg, hadd⟩ := addVal_finite f 0 (finite_iff.mpr ⟨na, ma, ea, rfl⟩) (finite_iff.mpr ⟨nb, mb, eb, rfl⟩)
      rw [hadd]
      exact canonical_roundDyadic hf _ _ _

end

/-- Finite values compare as the numbers they stand for. -/
theorem ltVal_iff {a b : FVal} (ha : finite a) (hb : finite b) : ltVal a b = true ↔ exactOf a < exactOf b := by
  have hshift : ∀ x e : ℤ, e ≤ x → (2 : ℚ) ^ x = 2 ^ (x - e).toNat * 2 ^ e := by
    intro x e h
    rw [← zpow_natCast, ← zpow_add₀ two_ne_zero]
    congr 1
    omega
  obtain ⟨na, ma, ea, rfl⟩ := finite_iff.mp ha
  obtain ⟨nb, mb, eb, rfl⟩ := finite_iff.mp hb
  refine decide_eq_true_iff.trans ?_
  simp only [exactOf, FVal.exp, hshift ea _ (min_le_left ea eb), hshift eb _ (min_le_right ea eb), ← mul_assoc]
  rw [mul_lt_mul_iff_left₀ (by positivity)]
  exact_mod_cast Iff.rfl

/-- R84: which of two finite values comes first. -/
theorem beforeVal_le {a b : FVal} (ha : finite a) (hb : finite b) :
    (beforeVal a b = true → exactOf a ≤ exactOf b) ∧ (beforeVal a b = false → exactOf b ≤ exactOf a) := by
  have hab := ltVal_iff ha hb
  have hba := ltVal_iff hb ha
  constructor
  · intro h
    by_contra hlt
    simp [beforeVal, hba.mpr (not_le.mp hlt), Bool.eq_false_iff.mpr (mt hab.mp (fun h => hlt h.le))] at h
  · intro h
    by_contra hlt
    simp [beforeVal, hab.mpr (not_le.mp hlt)] at h

/-- The canonical NaN in place of any NaN (R256, R83). -/
def canon (f : Fmt) (x r : Nat) : Nat := if (fdecode f x).isNan || (fdecode f r).isNan then f.nan else r

theorem canon_eq {f : Fmt} {x r : Nat} (hx : (fdecode f x).isNan = false) (hr : (fdecode f r).isNan = true → r = f.nan) : canon f x r = r := by
  unfold canon
  split
  · next h => exact (hr (by simpa [hx] using h)).symm
  · rfl

theorem canon_lt {f : Fmt} (hf : Wide f) {x r : Nat} (hr : r < 2 ^ f.width) : canon f x r < 2 ^ f.width := by
  unfold canon
  split
  · exact nan_lt hf
  · exact hr

theorem canon_nan {f : Fmt} {x r : Nat} (hx : (fdecode f x).isNan = true) : canon f x r = f.nan := if_pos (by simp [hx])

/-- R84: minimumNumber or maximumNumber of two patterns gives one of them. -/
theorem minMaxVal_cases {f : Fmt} (max : Bool) {x b : Nat} (hx : x < 2 ^ f.width) (hb : b < 2 ^ f.width) (hn : (fdecode f x).isNan = false) :
    (minMaxVal f max x b).1 = if (fdecode f b).isNan = false ∧ beforeVal (fdecode f x) (fdecode f b) = max then b else x := by
  simp only [minMaxVal, low, Nat.mod_eq_of_lt hx, Nat.mod_eq_of_lt hb, hn]
  cases (fdecode f b).isNan <;> cases beforeVal (fdecode f x) (fdecode f b) <;> cases max <;> rfl

/-- R256: the lesser or the greater of two numbers. -/
theorem minMaxVal_exact {f : Fmt} (max : Bool) {x b : Nat} (hx : x < 2 ^ f.width) (hb : b < 2 ^ f.width) (hfx : finite (fdecode f x))
    (hfb : finite (fdecode f b)) :
    exactOf (fdecode f (minMaxVal f max x b).1) = if max then Max.max (exactOf (fdecode f x)) (exactOf (fdecode f b))
      else Min.min (exactOf (fdecode f x)) (exactOf (fdecode f b)) := by
  obtain ⟨hle, hge⟩ := beforeVal_le hfx hfb
  rw [minMaxVal_cases max hx hb hfx.1]
  cases hbefore : beforeVal (fdecode f x) (fdecode f b) <;> cases max <;> simp [hfb.1, hle, hge, hbefore]

theorem low_lt (w x : Nat) : low w x < 2 ^ w := Nat.mod_lt _ (Nat.two_pow_pos w)

theorem low_of_lt {w x : Nat} (h : x < 2 ^ w) : low w x = x := Nat.mod_eq_of_lt h

theorem wrapInt_intOf_add (t x b : Nat) : wrapInt (typeWidth t) (intOf t x + intOf t b) = (x + b) % 2 ^ typeWidth t := by
  rw [wrapInt, ((intOf_modEq t x).add (intOf_modEq t b)).eq, ← Int.natCast_add, ← Int.natCast_emod, Int.toNat_natCast]

section
variable {t x b : Nat} (hx : x < 2 ^ typeWidth t) (hb : b < 2 ^ typeWidth t)
include hx hb

/-- R256, R77: the integer and bitwise atomics. -/
theorem amoNew_int {op : Nat} (hop : op < 7) : amoNew op t x b < 2 ^ typeWidth t ∧ AmoResult op t x b (amoNew op t x b) := by
  interval_cases op
  · exact ⟨low_lt _ _, by simp [AmoResult, amoNew, low_of_lt hb]⟩
  · have hsum : amoNew 1 t x b = (x + b) % 2 ^ typeWidth t := wrapInt_intOf_add t x b
    exact ⟨hsum ▸ low_lt _ _, by simp [AmoResult, hsum]⟩
  · exact ⟨low_lt _ _, by simp [AmoResult, amoNew, low_of_lt (Nat.and_lt_two_pow x hb)]⟩
  · exact ⟨low_lt _ _, by simp [AmoResult, amoNew, low_of_lt (Nat.or_lt_two_pow hx hb)]⟩
  · exact ⟨low_lt _ _, by simp [AmoResult, amoNew, low_of_lt (Nat.xor_lt_two_pow hx hb)]⟩
  · have hmin : amoNew 5 t x b = if intOf t x ≤ intOf t b then x else b := by simp [amoNew, low_of_lt hx, low_of_lt hb]
    have hval : intOf t (amoNew 5 t x b) = min (intOf t x) (intOf t b) := by rw [hmin, apply_ite (intOf t), min_def]
    exact ⟨by rw [hmin]; split <;> assumption, by simp [AmoResult, hval]⟩
  · have hmax : amoNew 6 t x b = if intOf t x ≤ intOf t b then b else x := by simp [amoNew, low_of_lt hx, low_of_lt hb]
    have hval : intOf t (amoNew 6 t x b) = max (intOf t x) (intOf t b) := by rw [hmax, apply_ite (intOf t), max_def]
    exact ⟨by rw [hmax]; split <;> assumption, by simp [AmoResult, hval]⟩

end

section
variable {f : Fmt} {x b : Nat} (hx : x < 2 ^ f.width) (hb : b < 2 ^ f.width)
include hx hb

/-- A number in memory stays a number under the minimum and the maximum. -/
theorem canon_minMaxVal (max : Bool) (hn : (fdecode f x).isNan = false) : canon f x (minMaxVal f max x b).1 = (minMaxVal f max x b).1 := by
  refine canon_eq hn (fun h => ?_)
  rw [minMaxVal_cases max hx hb hn] at h
  split at h
  · next hbn => rw [hbn.1] at h; cases h
  · rw [hn] at h; cases h

theorem canon_minMaxVal_lt (hf : Wide f) (max : Bool) : canon f x (minMaxVal f max x b).1 < 2 ^ f.width := by
  cases hn : (fdecode f x).isNan with
  | true => exact canon_nan hn ▸ nan_lt hf
  | false =>
    rw [canon_minMaxVal hx hb max hn, minMaxVal_cases max hx hb hn]
    split <;> assumption

/-- R84, R256: a NaN in memory gives the canonical NaN, a NaN operand leaves the number, and of two numbers one stays. -/
theorem canon_minMaxVal_spec (max : Bool) :
    ((fdecode f x).isNan = true → canon f x (minMaxVal f max x b).1 = f.nan)
      ∧ ((fdecode f x).isNan = false → (fdecode f b).isNan = true → canon f x (minMaxVal f max x b).1 = x)
      ∧ (finite (fdecode f x) → finite (fdecode f b) →
        (canon f x (minMaxVal f max x b).1 = x ∨ canon f x (minMaxVal f max x b).1 = b)
          ∧ exactOf (fdecode f (canon f x (minMaxVal f max x b).1)) = if max then Max.max (exactOf (fdecode f x)) (exactOf (fdecode f b))
              else Min.min (exactOf (fdecode f x)) (exactOf (fdecode f b))) := by
  refine ⟨canon_nan, fun hn hbn => ?_, fun hfx hfb => ?_⟩
  · rw [canon_minMaxVal hx hb max hn, minMaxVal_cases max hx hb hn, if_neg (by simp [hbn])]
  · rw [canon_minMaxVal hx hb max hfx.1]
    refine ⟨?_, minMaxVal_exact max hx hb hfx hfb⟩
    rw [minMaxVal_cases max hx hb hfx.1]
    split
    · exact .inr rfl
    · exact .inl rfl

end

/-- R256, R83, R84: the floating atomics. -/
theorem amoNew_fp {op t x b : Nat} (hop : 7 ≤ op) (hop' : op < 10) (ht : t = 10 ∨ t = 11) (hx : x < 2 ^ typeWidth t) (hb : b < 2 ^ typeWidth t) :
    amoNew op t x b < 2 ^ typeWidth t ∧ AmoResult op t x b (amoNew op t x b) := by
  have hf : Wide (fmtOf t) := wide_of_ieee (by rcases ht with rfl | rfl <;> simp [ieee, fmtOf])
  have hw : typeWidth t = (fmtOf t).width := by rcases ht with rfl | rfl <;> rfl
  have hlx := low_of_lt hx
  have hlb := low_of_lt hb
  rw [hw] at hx hb
  interval_cases op
  · have hadd : amoNew 7 t x b = canon (fmtOf t) x (addVal (fmtOf t) 0 (fdecode (fmtOf t) x) (fdecode (fmtOf t) b)).1 := by
      simp [amoNew, canon, hlx, hlb, rmRNE]
    obtain ⟨hlt, hnan⟩ := canonical_addVal hf (fdecode (fmtOf t) x) (fdecode (fmtOf t) b)
    rw [hw, hadd]
    exact ⟨canon_lt hf hlt, by simpa [AmoResult] using ⟨canon_nan, fun h => canon_eq h hnan⟩⟩
  · have hmin : amoNew 8 t x b = canon (fmtOf t) x (minMaxVal (fmtOf t) false x b).1 := by simp [amoNew, canon, hlx, hlb]
    rw [hw, hmin]
    exact ⟨canon_minMaxVal_lt hx hb hf false, by simpa [AmoResult] using canon_minMaxVal_spec hx hb false⟩
  · have hmax : amoNew 9 t x b = canon (fmtOf t) x (minMaxVal (fmtOf t) true x b).1 := by simp [amoNew, canon, hlx, hlb]
    rw [hw, hmax]
    exact ⟨canon_minMaxVal_lt hx hb hf true, by simpa [AmoResult] using canon_minMaxVal_spec hx hb true⟩

/-! Loads, LDK, BIND and blocking atomics (R254, R256 to R259). -/

/-- The bits of a type are whole bytes. -/
theorem byteSize_mul (t : Nat) : 8 * byteSize t = typeWidth t := by
  unfold byteSize typeWidth
  split <;> rfl

/-- R254: loaded bytes extended by the type. -/
theorem extendG_leNat (t : Nat) (bytes : List Byte) : extendG t (leNat bytes) = loaded t bytes := by
  unfold loaded
  split
  · next h => exact extendG_eq h _
  · next h =>
    have hs : typeSigned t = false := decide_eq_false (by omega)
    rw [extendG, extendTo, hs]
    rfl

/-- The bytes of a type make a number of its width. -/
theorem leNat_lt_typeWidth {t : Nat} {bytes : List Byte} (h : bytes.length = byteSize t) : leNat bytes < 2 ^ typeWidth t := by
  have hlt := leNat_lt bytes
  rwa [h, show (256 : Nat) = 2 ^ 8 from rfl, ← pow_mul, byteSize_mul] at hlt

/-- A scalar load or atomic completes with the bytes that it has brought. -/
def brought (o : Ops) (bytes : List Byte) (s : State) : State := wrote s o (loaded o.T bytes)

theorem brought_eq (o : Ops) :
    (fun (bytes : List Byte) (s1 : State) => s1.commit o.bytes (fun t => t.writeG o.D (extendG o.T (leNat bytes)))) = brought o := by
  funext bytes s1
  rw [extendG_leNat]
  rfl

section
variable (o : Ops) (s : State)

theorem ld_eq : exec (.ld o) s = loadFrom (.ld o) s (baseOffset s o) (byteSize o.T) (hintWords o.hint) (brought o) := by
  rw [← brought_eq]
  rfl

theorem ldacq_eq : exec (.ldacq o) s = loadFrom (.ldacq o) s (baseOffset s o) (byteSize o.T) (hintWords o.hint) (brought o) := by
  rw [← brought_eq]
  rfl

theorem ldx_eq : exec (.ldx o) s = loadFrom (.ldx o) s (scaledIndex s o) (byteSize o.T) (hintWords o.hint) (brought o) := by
  rw [← brought_eq]
  rfl

theorem ldk_eq : exec (.ldk o) s = loadFrom (.ldk o) s (baseOffset s o) 8 (hintWords o.hint)
    (fun bytes s1 => s1.commit o.bytes (fun t => t.writeK (4 * o.D + o.C) (BitVec.ofNat 64 (leNat bytes)))) := rfl

variable {o s}

theorem cas_eq (hal : (s.cpu.readG o.A).toNat % byteSize o.T = 0) (hq : (o.releases && accessQueued s) = false) :
    exec (.cas o) s = atomicFrom (.cas o) s (s.cpu.readG o.A) (byteSize o.T)
      (.cas (byteSize o.T) (atomicB s.cpu.readG s.cpu.readK o).1 (s.cpu.readG o.C).toNat) (brought o) := by
  rw [← brought_eq]
  exact (if_neg (by rw [misaligned_iff]; exact not_not.mpr hal)).trans (afterQueue_passes hq)

theorem amo_eq (hnb : o.nb = false) (hop : o.C < 7 ∨ (atomicB s.cpu.readG s.cpu.readK o).2 = none)
    (hal : (s.cpu.readG o.A).toNat % byteSize o.T = 0) (hq : (o.releases && accessQueued s) = false) :
    exec (.amo o) s = atomicFrom (.amo o) s (s.cpu.readG o.A) (byteSize o.T)
      (.amo o.C o.T (atomicB s.cpu.readG s.cpu.readK o).1) (brought o) := by
  rw [← brought_eq, amo_blocking hnb hop]
  exact (if_neg (by rw [misaligned_iff]; exact not_not.mpr hal)).trans (afterQueue_passes hq)

theorem cas2_eq (hal : (s.cpu.readG o.A).toNat % 8 = 0) (hin : (s.cpu.readG o.A).toNat % 256 ≤ 240) (hq : (o.releases && accessQueued s) = false) :
    exec (.cas2 o) s = atomicFrom (.cas2 o) s (s.cpu.readG o.A) 16 (.cas 16 (pairValue s.cpu o.B) (pairValue s.cpu o.C))
      (fun old s1 => s1.commit o.bytes (fun t =>
        (t.writeG o.D (BitVec.ofNat 64 (leNat (old.take 8)))).writeG (o.D + 1) (BitVec.ofNat 64 (leNat (old.drop 8))))) :=
  (if_neg (by omega)).trans (afterQueue_passes hq)

theorem bind_eq (hal : (baseOffset s o).toNat % 8 = 0) : exec (.bind o) s = loadFrom (.bind o) s (baseOffset s o) 32 (hintWords o.hint)
    (fun bytes s1 => if bindingOk (bindingOf bytes) then s1.commit o.bytes (fun t => t.writeBnd o.D (some (bindingOf bytes)))
      else scalarTrap s1 causeAlign (baseOffset s o)) :=
  if_neg (by rw [misaligned_iff]; exact not_not.mpr hal)

end

section
variable {i : Instr} {s s1 : State} {ea : Word} {n hint : Nat} {k : List Byte → State → State} {bytes : List Byte} {ps : List (Place × Nat)}

theorem loadFrom_near (h : s.cpu.trip = none ∧ awaySpan s ea n .read = none) (hx : loadMem s (s.who .scalar) ea n hint = .ok bytes s1) :
    loadFrom i s ea n hint k = .next (k bytes s1) := by
  obtain ⟨ht, ha⟩ := h
  rw [loadFrom, onTrip_starts (noTrip ht)]
  simp only [ha, hx, scalarAcc]

/-- R327: the bytes of a load that packets must reach, or that a store still on its way touches. -/
theorem loadFrom_away (ht : s.cpu.trip = none) (hps : placesOf s (s.who .scalar) ea n .read = .ok ps s1) :
    (postPending s1 ps = true → loadFrom i s ea n hint k = .next s1.park)
      ∧ (postPending s1 ps = false → anyAway s1 (s.who .scalar) ps = true →
          loadFrom i s ea n hint k = .next (startTrip s1 i ea hint (ps.map (fun x => (x.1, .trip x.2 .read))))) := by
  rw [loadFrom, onTrip_starts (noTrip ht)]
  constructor
  · intro hpost
    simp only [awaySpan, hps, hpost, Bool.or_true, if_true]
  · intro hpost haway
    simp only [awaySpan, hps, hpost, haway, Bool.or_false, if_true, Bool.false_eq_true, if_false]

end

/-- Settles O27: each form is one access, whose outcomes are those of the access. -/
theorem loadsAndAtomics : Obligations.LoadsAndAtomics := by
  intro s s1 o bytes w va near
  refine ⟨?_, ?_, ?_, ?_, rfl, ?_, ?_, ?_, ?_, ?_, ?_, ?_, fun _ _ _ => rfl⟩
  · intro hn hx
    rw [ld_eq, ldacq_eq]
    exact ⟨loadFrom_near hn hx, loadFrom_near hn hx⟩
  · intro hn hx
    rw [ldx_eq]
    exact loadFrom_near hn hx
  · intro hn hx
    rw [ldk_eq]
    exact loadFrom_near hn hx
  · intro hal hn hx hok
    rw [bind_eq hal, loadFrom_near hn hx, if_pos hok]
  · intro hnb hop hal hq hn hx
    rw [amo_eq hnb hop hal hq]
    exact atomicFrom_near hn.1 hn.2 hx
  · intro hal hq hn hx
    rw [cas_eq hal hq]
    exact atomicFrom_near hn.1 hn.2 hx
  · intro hal hin hq hn hx
    rw [cas2_eq hal hin hq]
    exact atomicFrom_near hn.1 hn.2 hx
  · intro x ht hpc
    rw [ld_eq, ldx_eq, ldk_eq, ldacq_eq]
    refine ⟨fun hf hp => ⟨onTrip_waits ht hpc hf hp, onTrip_waits ht hpc hf hp, onTrip_waits ht hpc hf hp⟩, fun hf hp => ?_, fun c v hf => ?_⟩
    · refine ⟨onTrip_lands ht hpc hf hp, onTrip_lands ht hpc hf hp, onTrip_lands ht hpc hf hp, onTrip_lands ht hpc hf hp, fun hal hq => ?_⟩
      rw [cas_eq hal hq]
      refine ⟨onTrip_lands ht hpc hf hp, fun hnb hC => ?_⟩
      rw [amo_eq hnb (.inl hC) hal hq]
      exact onTrip_lands ht hpc hf hp
    · exact ⟨onTrip_traps ht hpc hf, onTrip_traps ht hpc hf, onTrip_traps ht hpc hf⟩
  · intro ps s2 ht hps
    rw [ld_eq]
    exact (loadFrom_away ht hps).1
  · intro ps s2 ht hps hpost haway
    obtain ⟨hcpu, hmem, hlen⟩ := startTrip_spec s2 (.ld o) (baseOffset s o) (hintWords o.hint) (ps.map (fun x => (x.1, .trip x.2 .read)))
    rw [ld_eq]
    refine ⟨_, (loadFrom_away ht hps).2 hpost haway, hmem.1.trans (mem_of_placesOf hps).1, ?_⟩
    rw [hcpu]
    exact ⟨rfl, rfl, rfl, ⟨_, rfl, rfl, rfl, rfl, rfl⟩, hlen.trans (by rw [List.length_map])⟩
  · intro op b hb hlen _ hfp
    have hx := leNat_lt_typeWidth hlen
    obtain hop | hop := lt_or_ge op 7
    · exact ⟨_, rfl, amoNew_int hx hb hop⟩
    · exact ⟨_, rfl, amoNew_fp hop (hfp hop).1 (hfp hop).2 hx hb⟩

/-! Elements loaded from scratchpad places (R263, R231). -/

/-- The bytes of an element in a scratchpad are those of memory. -/
theorem readParts_scratch (s : State) (w : Who) (hint : Nat) (v : Word) {p : Place} {n : Nat} (hk : p.kind = .scratch)
    (hp : homePoisoned s p.ha n = false) (hc : cutOff s w p n = false) :
    readParts w hint v s [(p, n)] = .ok { bytes := memRead s.mem p.ha n } s := by
  simp [readParts, prefetched, readPlaces, readPlace, Acc.andThen, hk, hp, hc]

/-- R68: with no watermark link nothing holds a read back. -/
theorem wmCheck_unlinked {s : State} (k : TlbKind) (va : Word) (h : s.cpu.links = []) : wmCheck s k va = .pass s := by
  rw [wmCheck, h]
  rfl

/-- An element whose bytes arrive is written, and the load goes on. -/
theorem loadElems_cons {o : Ops} {w : Who} {s : State} {e : VElem} {rest : List VElem} {p : Place} (hl : s.cpu.links = [])
    (he : e.places = [(p, byteSize o.T)]) (hk : p.kind = .scratch) (hp : homePoisoned s p.ha (byteSize o.T) = false)
    (hc : cutOff s w p (byteSize o.T) = false) :
    loadElems o w s (e :: rest)
      = loadElems o w (s.onCpu (fun t => t.writeV o.D e.i (extendV t.ew o.T (leNat (memRead s.mem p.ha (byteSize o.T)))))) rest := by
  rw [loadElems, wmCheck_unlinked .vector e.va hl]
  simp only [he, readParts_scratch s w (hintWords o.hint) e.va hk hp hc]
  rfl

/-- Settles O48, by induction on the elements. -/
theorem loadedElementsArrive : Obligations.LoadedElementsArrive := by
  intro s w o els
  induction els generalizing s with
  | nil =>
    exact fun _ _ _ => ⟨s, rfl, rfl, rfl, rfl, rfl, rfl, by simp, fun _ _ _ _ => rfl⟩
  | cons e rest ih =>
    intro hl hne hels
    obtain ⟨hhead, hne⟩ := List.pairwise_cons.mp hne
    obtain ⟨⟨hi, p, hplaces, hk, hp, hc⟩, hels⟩ := List.forall_mem_cons.mp hels
    let x := extendV s.cpu.ew o.T (leNat (memRead s.mem p.ha (byteSize o.T)))
    obtain ⟨t, ht, hmem, hg, hm, hmq, hvl, hread, hframe⟩ := ih (s.onCpu (fun u => u.writeV o.D e.i (extendV u.ew o.T (leNat (memRead s.mem p.ha (byteSize o.T)))))) hl hne hels
    have hwritten : ∀ r k, k < 65536 → (s.cpu.writeV o.D e.i x).readV r k = if r = o.D ∧ k = e.i then low s.cpu.ew x else s.cpu.readV r k :=
      fun r k hk => readV_writeV s.cpu o.D r e.i k x hi hk
    refine ⟨t, (loadElems_cons hl hplaces hk hp hc).trans ht, hmem, hg, hm, hmq, hvl, ?_, fun r k hlt hout => ?_⟩
    · refine List.forall_mem_cons.mpr ⟨fun q hq => ?_, hread⟩
      obtain rfl : p = q := by simpa using hplaces.symm.trans hq
      have hkept := hframe o.D e.i hi (fun _ d hd => (hhead d hd).symm)
      exact hkept.trans ((hwritten o.D e.i hi).trans (if_pos ⟨rfl, rfl⟩))
    · have hkept := hframe r k hlt (fun hr d hd => hout hr d (List.mem_cons_of_mem _ hd))
      exact hkept.trans ((hwritten r k hlt).trans (if_neg (fun h => hout h.1 e List.mem_cons_self h.2.symm)))

/-! A translation made twice: the second one finds what the first has left (R114, R115, R124). -/

theorem cellPut_cellPut {α : Type} (c : Cells α) (n : Nat) (v w : α) : cellPut (cellPut c n v) n w = cellPut c n w := by
  induction c with
  | nil => simp [cellPut]
  | cons x rest ih =>
    obtain ⟨k, y⟩ := x
    rcases lt_trichotomy n k with h | rfl | h
    · simp [cellPut, h]
    · simp [cellPut]
    · simp [cellPut, h.not_gt, h.ne, ih]

/-- R124: the page is noted once at one time. -/
theorem notePage_notePage (s : State) (vi tag : Nat) : notePage (notePage s vi tag) vi tag = notePage s vi tag := by
  have hchan : (notePage s vi tag).chan (tag / 131072) = { s.chan (tag / 131072) with
      pages := cellPut (s.chan (tag / 131072)).pages (vi * 131072 + tag % 131072)
        { cellGet {} (s.chan (tag / 131072)).pages (vi * 131072 + tag % 131072) with used := s.time } } := chan_setChan ..
  rw [notePage, hchan]
  simp only [cellGet_cellPut_same, cellPut_cellPut]
  simp only [notePage, State.setChan, cellPut_cellPut]

@[simp] theorem genOf_notePage (s : State) (vi tag t : Nat) : genOf (notePage s vi tag) t = genOf s t := by
  unfold genOf
  by_cases h : t / 131072 = tag / 131072
  · rw [h, notePage, chan_setChan]
  · rw [notePage, State.chan, setChan_chans, cellGet_cellPut_other _ _ _ _ _ h, State.chan]

theorem tlbLookup_notePage (s : State) (w : Who) (va : Word) (vi tag : Nat) : tlbLookup (notePage s vi tag) w va = tlbLookup s w va := by
  simp only [tlbLookup, genOf_notePage]
  rfl

/-- A translation found in the TLB. -/
theorem placePg_hit {s s1 : State} {w : Who} {va : Word} {k : AccKind} {e : TlbEntry} {x : Place} (h : tlbLookup s w va = some e)
    (hu : useLeaf s w e.leaf k e.pkg va e.leaf.gen = .ok x s1) : placePg s w va k = .ok x (notePage s1 w.vi x.tag) := by
  simp only [placePg, h, hu]

/-- R113: an access that its leaf answers. -/
theorem useLeaf_ok_iff {s s1 : State} {w : Who} {l : Leaf} {k : AccKind} {pkg : Nat} {va : Word} {g : BitVec 8} {x : Place} :
    useLeaf s w l k pkg va g = .ok x s1 ↔ leafPermits l k w.level = true ∧ l.sp = false
      ∧ x = pgPlace pkg (bitsOf va.toNat 39 37) (bitsOf va.toNat 36 33) (low 33 va.toNat) l va g ∧ s1 = s := by
  unfold useLeaf
  cases leafPermits l k w.level <;> cases l.sp
  · simp
  · simp
  · simp [eq_comm]
  · simp only [Bool.not_true, if_true, Bool.false_eq_true, if_false, reduceCtorEq, false_and, and_false, iff_false]
    repeat' split
    all_goals simp

/-- R114: a full TLB drops an entry that stood there before the new one. -/
theorem tlbTrim_append {k : TlbKind} {big : Bool} {n : Nat} (hn : 0 < n) (l : List TlbEntry) (e : TlbEntry) (he : e.kind = k ∧ (k = .vector → e.leaf.big = big)) :
    ∃ l', tlbTrim k big n (l ++ [e]) = l' ++ [e] ∧ ∀ x ∈ l', x ∈ l := by
  have hsame : (l ++ [e]).filter (fun e => e.kind = k && (k != .vector || e.leaf.big = big))
      = l.filter (fun e => e.kind = k && (k != .vector || e.leaf.big = big)) ++ [e] := by
    rw [List.filter_append]
    congr 1
    obtain ⟨hk, hbig⟩ := he
    by_cases hv : k = .vector <;> simp_all
  unfold tlbTrim
  rw [hsame]
  dsimp only
  split
  · exact ⟨l, rfl, fun _ hx => hx⟩
  · next hfull =>
    cases hl : l.filter (fun e => e.kind = k && (k != .vector || e.leaf.big = big)) with
    | nil =>
      rw [hl] at hfull
      exact absurd hn (by simpa using hfull)
    | cons old rest =>
      have hold : old ∈ l := List.mem_of_mem_filter (hl ▸ List.mem_cons_self)
      exact ⟨l.erase old, List.erase_append_left _ hold, fun _ hx => List.mem_of_mem_erase hx⟩

theorem tlbCapacity_pos (k : TlbKind) (big : Bool) : 0 < tlbCapacity k big := by
  cases k <;> cases big <;> decide

/-- R114: a translation that has been remembered is found while its page's generation stays. -/
theorem tlbLookup_tlbFill {s : State} {w : Who} {va : Word} {pkg : Nat} {l : Leaf} {g : BitVec 8} {kind : TlbKind} (hw : w.tlb = some kind)
    (hg : g = genOf s (tagOf pkg (bitsOf va.toNat 39 37) (bitsOf va.toNat 36 33) (low 33 va.toNat) l.big)) :
    tlbLookup (tlbFill s w (va.toNat / 65536) pkg l g) w va
      = some { kind := kind, vi := w.vi, page := va.toNat / 65536, pkg := pkg, leaf := { l with gen := g }, since := s.time } := by
  let new : TlbEntry := { kind := kind, vi := w.vi, page := va.toNat / 65536, pkg := pkg, leaf := { l with gen := g }, since := s.time }
  have hnew : tlbMatches new kind w.vi (va.toNat / 65536) = true := by simp [tlbMatches, new]
  obtain ⟨l', hl', hsub⟩ := tlbTrim_append (tlbCapacity_pos kind l.big)
    ((s.core (coreKey w.pkg w.die w.core)).tlbs.filter (fun e => !tlbMatches e kind w.vi (va.toNat / 65536))) new ⟨rfl, fun _ => rfl⟩
  have hfind : ((tlbFill s w (va.toNat / 65536) pkg l g).core (coreKey w.pkg w.die w.core)).tlbs.find? (fun e => tlbMatches e kind w.vi (va.toNat / 65536)) = some new := by
    have hnone : l'.find? (fun e => tlbMatches e kind w.vi (va.toNat / 65536)) = none :=
      List.find?_eq_none.mpr (fun x hx => by simpa using (List.mem_filter.mp (hsub x hx)).2)
    simp only [tlbFill, hw, core_setCore]
    rw [hl', List.find?_append, hnone, List.find?_singleton, hnew]
    rfl
  have hgen : ∀ t, genOf (tlbFill s w (va.toNat / 65536) pkg l g) t = genOf s t := by
    intro t
    simp only [tlbFill, hw]
    rfl
  have htime : (tlbFill s w (va.toNat / 65536) pkg l g).time = s.time := by simp only [tlbFill, hw, setCore_time]
  simp only [tlbLookup, hw, hfind, hgen, htime]
  exact if_pos ⟨Nat.lt_add_of_pos_right (by decide), hg.symm⟩

theorem genOf_noteWalk (s : State) (pkg die chan vi a t : Nat) : genOf (noteWalk s pkg die chan vi a) t = genOf s t := by
  unfold noteWalk
  generalize walkReads s pkg die chan vi a = l
  induction l generalizing s with
  | nil => rfl
  | cons x rest ih => exact (ih _).trans (by simp [genOf])

/-- A translation that the TLB answers is answered again once its page is noted. -/
theorem placePg_noted {s : State} {w : Who} {va : Word} {k : AccKind} {e : TlbEntry} {x : Place} (he : tlbLookup s w va = some e)
    (hperm : leafPermits e.leaf k w.level = true) (hsp : e.leaf.sp = false)
    (hx : x = pgPlace e.pkg (bitsOf va.toNat 39 37) (bitsOf va.toNat 36 33) (low 33 va.toNat) e.leaf va e.leaf.gen) :
    placePg (notePage s w.vi x.tag) w va k = .ok x (notePage s w.vi x.tag) := by
  have hagain := placePg_hit (s := notePage s w.vi x.tag) ((tlbLookup_notePage ..).trans he) (useLeaf_ok_iff.mpr ⟨hperm, hsp, hx, rfl⟩)
  rwa [notePage_notePage] at hagain

theorem placePg_again {s s1 : State} {w : Who} {va : Word} {k : AccKind} {p : Place} {kind : TlbKind} (hw : w.tlb = some kind)
    (h : placePg s w va k = .ok p s1) : placePg s1 w va k = .ok p s1 := by
  unfold placePg at h
  split at h
  · next e he =>
    split at h
    · next x s0 hu =>
      obtain ⟨hperm, hsp, hx, hs⟩ := useLeaf_ok_iff.mp hu
      cases h
      exact placePg_noted (hs ▸ he) hperm hsp hx
    · cases h
    · cases h
  · dsimp only at h
    split at h
    · cases h
    · next pkg _ =>
      split at h
      · cases h
      · split at h
        · cases h
        · next l _ =>
          split at h
          · next x s0 hu =>
            obtain ⟨hperm, hsp, hx, rfl⟩ := useLeaf_ok_iff.mp hu
            cases h
            have hfound := tlbLookup_tlbFill (s := noteWalk s pkg (bitsOf va.toNat 39 37) (bitsOf va.toNat 36 33) w.vi (low 33 va.toNat))
              (va := va) (pkg := pkg) (l := l) hw (genOf_noteWalk ..).symm
            exact placePg_noted hfound hperm hsp hx
          · cases h
          · cases h

/-- R119: a translation made twice changes nothing the second time. -/
theorem placeOf_again {s s1 : State} {w : Who} {va : Word} {n : Nat} {p : Place} {kind : TlbKind} (hw : w.tlb = some kind)
    (h : placeOf s w va n .atomic = .ok p s1) : placeOf s1 w va n .atomic = .ok p s1 := by
  unfold placeOf at h ⊢
  split at h
  · exact placePg_again hw h
  · exact absurd h (by simp [placeWindow])
  · next hb =>
    obtain rfl := state_of_placeOnChip h
    exact h
  · cases h

/-- An atomic translated twice is one atomic. -/
theorem atomicMem_again {s s1 : State} {w : Who} {va : Word} {n : Nat} {p : Place} {kind : TlbKind} (hw : w.tlb = some kind)
    (h : placeOf s w va n .atomic = .ok p s1) (f : List Byte → Option (List Byte)) : atomicMem s1 w va n f = atomicMem s w va n f := by
  rw [atomicMem, atomicMem, h, placeOf_again hw h]

/-- What leaves the queue with its head is gone. -/
theorem retireKeep_withQueue {t : Strand} {q : List QEntry} (h : t.queue.drop 1 = q.drop 1) : ({ t with queue := q } : Strand).retireKeep = t.retireKeep := by
  simp only [Strand.retireKeep, h]
  rfl

/-! An instruction at the head of the queue that may wait for its pieces (R120, R362). -/

/-- The machine whose head has the answers of all its pieces. -/
def answered (s : State) (e : QEntry) (rest : List QEntry) : State :=
  s.onCpu (fun t => { t with queue := { e with op := 0, fails := [] } :: rest })

section
variable {s : State} {start : State → Out} {done : List (Nat × Nat × Word) → State → Out}

theorem awaited_starts (h : Starts s) : awaited s start done = start s := by
  unfold awaited
  split
  · rfl
  · next e rest hq => exact if_pos (by simp [h e (by rw [hq]; rfl)])

variable {e : QEntry} {rest : List QEntry} (h : Waits s e rest)
include h

theorem awaited_waits (hp : ∃ p ∈ s.pieces, p.op = e.op) : awaited s start done = .next s.park := by
  obtain ⟨hq, ha⟩ := h
  have hsome : s.pieces.any (fun p => p.op = e.op) = true := by simpa using hp
  simp only [awaited, hq, ha, hsome]
  rfl

theorem awaited_answered (hp : Answered s e) : awaited s start done = done e.fails (answered s e rest) := by
  obtain ⟨hq, ha⟩ := h
  have hnone : s.pieces.any (fun p => p.op = e.op) = false := by simpa [Answered] using hp
  simp only [awaited, hq, ha, hnone]
  rfl

/-- The entry leaves the queue, whatever answers it has. -/
theorem retireKeep_answered (f : Strand → Strand) (hf : ∀ (t : Strand) (q : List QEntry), f { t with queue := q } = { f t with queue := q }) :
    (answered s e rest).retireKeep f = s.retireKeep f := by
  have hkept : (f s.cpu).queue = s.cpu.queue := (congrArg Strand.queue (hf s.cpu s.cpu.queue) :)
  have hdrop : (f s.cpu).queue.drop 1 = rest := by
    rw [hkept, h.1]
    rfl
  have hcpu := retireKeep_withQueue (q := { e with op := 0, fails := [] } :: rest) hdrop
  rw [← hf] at hcpu
  exact congrArg (fun c => { s with cpu := c }) hcpu

theorem retire_answered : (answered s e rest).retire id = s.retire id :=
  congrArg (fun x : State => x.onCpu (fun t => { t with vstart := 0 })) (retireKeep_answered h id (fun _ _ => rfl))

end

/-! The end of a blocking store or atomic (R97, R120, R264). -/

/-- The current strand and memory stay as they are. -/
def Keeps (s t : State) : Prop := t.cpu = s.cpu ∧ t.mem = s.mem

theorem Keeps.refl (s : State) : Keeps s s := ⟨rfl, rfl⟩

theorem Keeps.trans {s t u : State} (h : Keeps s t) (k : Keeps t u) : Keeps s u := ⟨k.1.trans h.1, k.2.trans h.2⟩

theorem keeps_foldl {β : Type} {f : State → β → State} (hf : ∀ s x, Keeps s (f s x)) (l : List β) (s : State) : Keeps s (l.foldl f s) := by
  induction l generalizing s with
  | nil => exact .refl s
  | cons x rest ih => exact (hf s x).trans (ih (f s x))

theorem ite_keeps {c : Prop} [Decidable c] {s t u : State} (ht : Keeps s t) (hu : Keeps s u) : Keeps s (if c then t else u) := by
  split
  · exact ht
  · exact hu

theorem validateBlock_keeps (s : State) (ha : Nat) : Keeps s (validateBlock s ha) := by
  unfold validateBlock
  dsimp only
  split <;> exact ⟨rfl, rfl⟩

theorem validateAll_keeps (s : State) (l : List Place) : Keeps s (validateAll s l) := by
  unfold validateAll
  apply keeps_foldl
  intro st p
  exact validateBlock_keeps st p.ha

theorem validateWrote_keeps (s : State) : Keeps s (validateWrote s) := by
  unfold validateWrote
  apply keeps_foldl
  intro st b
  dsimp only
  split
  · exact ite_keeps (validateBlock_keeps st _) (.refl st)
  · exact .refl st
  · exact .refl st

/-- A store that wrote into no decoded window validates no block. -/
theorem validateWrote_none {s : State} (h : wroteSoFar s = []) : validateWrote s = s := by
  simp only [validateWrote, h]
  rfl

section
variable {o : Ops} {f : VForm} {s : State} {e : QEntry} {rest : List QEntry}

theorem elemsDone_completes (h : Waits s e rest) (hf : e.fails = []) (hw : e.wrote = []) : elemsDone o f e e.fails (answered s e rest) = .next (s.retire id) := by
  rw [hf]
  have hnone : wroteSoFar (answered s e rest) = [] := hw
  simp only [elemsDone, lowestFail, validateWrote_none hnone, retire_answered h]

/-- R120: the performed elements above the lowest failure stay in the bitmap. -/
theorem elemsDone_traps {i : Instr} {k c : Nat} {tv : Word} (hl : lowestFail e.fails = some (k, c, tv))
    (hexec : exec i s = elemsDone o f e e.fails (answered s e rest)) : TrapsWithBitmap i s e k c tv := by
  rw [elemsDone, hl] at hexec
  refine ⟨_, hexec, rfl, rfl, fun hlost => ⟨_, rest, rfl, fun j => ?_⟩⟩
  simp only [hlost, List.any_nil, Bool.or_false, List.mem_filter, List.mem_append, decide_eq_true_eq, Bool.not_eq_true', List.any_eq_false]
  tauto

end

/-! Vector atomics (R269). -/

/-- R158: the elements of an access without an order keep their number and names. -/
theorem freeOrderOf_perm (fuel k : Nat) (l : List VElem) : (freeOrderOf fuel k l).Perm l := by
  induction fuel generalizing k l with
  | zero => exact .refl l
  | succ fuel ih =>
    match l with
    | [] => exact .refl _
    | [x] => exact .refl _
    | x :: y :: rest =>
      have hj : Config.freeOrder k (x :: y :: rest).length % (x :: y :: rest).length < (x :: y :: rest).length := Nat.mod_lt _ (by simp)
      have hget : (x :: y :: rest).getD (Config.freeOrder k (x :: y :: rest).length % (x :: y :: rest).length) x = (x :: y :: rest)[_]'hj :=
        (List.getElem_eq_getD x).symm
      rw [freeOrderOf, hget]
      exact (List.Perm.cons _ (ih _ _)).trans (List.getElem_cons_eraseIdx_perm hj)

/-- The least of some numbers, found from the first. -/
theorem foldl_min_spec (j : Nat) (l : List Nat) : l.foldl min j ∈ j :: l ∧ ∀ i ∈ j :: l, l.foldl min j ≤ i := by
  induction l generalizing j with
  | nil => simp
  | cons x rest ih =>
    obtain ⟨hmem, hle⟩ := ih (min j x)
    have hmin := hle (min j x) List.mem_cons_self
    rw [List.foldl_cons]
    refine ⟨?_, fun i hi => ?_⟩
    · rcases List.mem_cons.mp hmem with h | h
      · rw [h]
        rcases min_choice j x with h | h <;> simp [h]
      · exact List.mem_cons_of_mem _ (List.mem_cons_of_mem _ h)
    · rcases List.mem_cons.mp hi with rfl | hi
      · exact hmin.trans (min_le_left _ _)
      · rcases List.mem_cons.mp hi with rfl | hi
        · exact hmin.trans (min_le_right _ _)
        · exact hle i (List.mem_cons_of_mem _ hi)

/-- The order in which the elements of a vector atomic are applied. -/
def atomicOrder (s1 : State) (els : List VElem) : List VElem := if elemsHs els then els else freeOrderOf els.length s1.free els

theorem atomicOrder_length (s1 : State) (els : List VElem) : (atomicOrder s1 els).length = els.length := by
  unfold atomicOrder
  split
  · rfl
  · exact (freeOrderOf_perm _ _ _).length_eq

/-- A step of a vector atomic on its own die. -/
def atomicStep (o : Ops) (s s1 : State) (ret : Bool) (f : Nat → List Byte → Option (List Byte)) (els : List VElem) : Performance :=
  performAll (atomicElem o (s.who .vector) ret f) (elemsHs els) { s := { s1 with free := s1.free + els.length } } ((atomicOrder s1 els).take 64)

section
variable {s s1 : State} {o : Ops} {els : List VElem} {ret : Bool} {abn : Nat → Option Nat} {f : Nat → List Byte → Option (List Byte)} {what : Nat → PieceOp}

/-- R269: a vector atomic whose elements translate to its own die. -/
theorem vatomic_near (hnb : o.nb = false) (habn : ∀ k ∈ (activeMem s.cpu o false).filter (fun k => !(doneAlready s).contains k), abn k = none)
    (hal : ∀ k ∈ (activeMem s.cpu o false).filter (fun k => !(doneAlready s).contains k), (vEa o s .indexed k).toNat % byteSize o.T = 0)
    (htr : vTranslate (s.who .vector) .atomic (byteSize o.T) .indexed (vEa o s .indexed) s
      ((activeMem s.cpu o false).filter (fun k => !(doneAlready s).contains k)) = .done els s1)
    (haway : elemsAway s1 (s.who .vector) els = false) (hfail : (atomicStep o s s1 ret f els).fail = none) :
    vatomic o s ret abn f what = .next (goOn (((atomicOrder s1 els).drop 64).map (·.i)) (atomicStep o s s1 ret f els).done (atomicStep o s s1 ret f els).s) := by
  have hno : ((activeMem s.cpu o false).filter (fun k => !(doneAlready s).contains k)).find? (fun i => (abn i).isSome) = none :=
    List.find?_eq_none.mpr (fun k hk => by simp [habn k hk])
  have hno' : ((activeMem s.cpu o false).filter (fun k => !(doneAlready s).contains k)).find? (fun i => misaligned (vEa o s .indexed i) (byteSize o.T)) = none :=
    List.find?_eq_none.mpr (fun k hk => by simp [misaligned_iff, hal k hk])
  rw [byteSize] at hno' htr
  simp only [vatomic, accessBytes, hno, hno', htr, hnb, haway, Bool.false_and, Bool.false_eq_true, if_false]
  change settle (atomicStep o s s1 ret f els) _ _ = _
  simp only [settle, hfail, ite_self]
  rfl

theorem goOn_all {done : List Nat} {x : State} (h : els.length ≤ 64) : goOn (((atomicOrder s1 els).drop 64).map (·.i)) done x = x.retire id := by
  rw [List.drop_eq_nil_of_le (by rwa [atomicOrder_length])]
  rfl

/-- R64: what is left of an access of more than one step. -/
theorem goOn_more {done rest : List Nat} {x : State} (h : rest ≠ []) :
    ∃ k ∈ rest, (∀ j ∈ rest, k ≤ j) ∧ goOn rest done x = betweenSteps (keepBitmap (atElement x k) k done) accessPass := by
  cases rest with
  | nil => exact absurd rfl h
  | cons j more =>
    obtain ⟨hmem, hle⟩ := foldl_min_spec j more
    exact ⟨_, hmem, hle, rfl⟩

theorem vamo_starts (hs : Starts s) (hq : (o.releases && earlierPosts s) = false) (hd : HeadReady (.vamo o) [o.T] s.cpu) :
    exec (.vamo o) s = unlessVl0 s (vatomic o s (decide (32 ≤ o.C)) (fun i => if 7 ≤ o.C % 32 then elemAbn s.cpu o.T o.D i else none)
      (fun i => amoBytes (o.C % 32) o.T (elemOf s.cpu o.T o.D i)) (fun i => .amo (o.C % 32) o.T (elemOf s.cpu o.T o.D i) (decide (32 ≤ o.C)) o.D i)) := by
  change execVamo o s = _
  rw [execVamo, awaited_starts hs, afterPosts_passes hq, atHead_pass _ _ _ _ hd]

theorem vcas_starts (hs : Starts s) (hq : (o.releases && earlierPosts s) = false) (hd : HeadReady (.vcas o) [o.T] s.cpu) :
    exec (.vcas o) s = unlessVl0 s (vatomic o s true (fun _ => none) (fun i => casBytes (byteSize o.T) (elemOf s.cpu o.T o.D i) (elemOf s.cpu o.T o.C i))
      (fun i => .cas o.T (elemOf s.cpu o.T o.D i) (elemOf s.cpu o.T o.C i) o.D i)) := by
  change execVcas o s = _
  rw [execVcas, awaited_starts hs, afterPosts_passes hq, atHead_pass _ _ _ _ hd]
  rfl

end

/-! Stores and atomics that wait for their pieces (R120, R362). -/

/-- The turns of an instruction that waits for its pieces: it parks, or it ends as a store or atomic does. -/
def EndsAsElems (i : Instr) (o : Ops) (f : VForm) : Prop :=
  ∀ s e rest, Waits s e rest → ((∃ p ∈ s.pieces, p.op = e.op) → exec i s = .next s.park)
    ∧ (Answered s e → exec i s = elemsDone o f e e.fails (answered s e rest))

theorem vamo_ends (o : Ops) : EndsAsElems (.vamo o) o .indexed := by
  intro s e rest h
  change (_ → execVamo o s = _) ∧ (_ → execVamo o s = _)
  rw [execVamo, h.1]
  exact ⟨awaited_waits h, awaited_answered h⟩

theorem vcas_ends (o : Ops) : EndsAsElems (.vcas o) o .indexed := by
  intro s e rest h
  change (_ → execVcas o s = _) ∧ (_ → execVcas o s = _)
  rw [execVcas, h.1]
  exact ⟨awaited_waits h, awaited_answered h⟩

/-- The ends without a failure and with one. -/
theorem EndsAsElems.outcomes {i : Instr} {o : Ops} {f : VForm} (hi : EndsAsElems i o f) {s : State} {e : QEntry} {rest : List QEntry} (h : Waits s e rest) :
    ((∃ p ∈ s.pieces, p.op = e.op) → exec i s = .next s.park)
      ∧ (Answered s e → e.fails = [] → e.wrote = [] → exec i s = .next (s.retire id))
      ∧ ∀ k c tv, Answered s e → lowestFail e.fails = some (k, c, tv) → TrapsWithBitmap i s e k c tv := by
  obtain ⟨hwait, hend⟩ := hi s e rest h
  exact ⟨hwait, fun ha hf hw => (hend ha).trans (elemsDone_completes h hf hw), fun k c tv ha hl => elemsDone_traps hl (hend ha)⟩

/-! Reads keep the current strand. -/

theorem windowRead_cpu (w : Who) (rc key hint : Nat) (l : List (Nat × Nat)) (s : State) (off : Nat) : (windowRead s w rc key hint off l).2.cpu = s.cpu := by
  induction l generalizing s off with
  | nil => rfl
  | cons x rest ih => exact (ih _ _).trans rfl

theorem readPlace_cpu (s : State) (w : Who) (hint : Nat) (p : Place) (n : Nat) : (readPlace s w hint p n).2.cpu = s.cpu := by
  unfold readPlace
  split
  · rfl
  · split
    · rfl
    · split
      · exact windowRead_cpu ..
      · exact useHome_cpu ..
  · split <;> rfl
  · split <;> rfl

theorem readPlaces_cpu (w : Who) (hint : Nat) (v : Word) (l : List (Place × Nat)) (s : State) : (accState (readPlaces w hint v s l)).cpu = s.cpu := by
  induction l generalizing s with
  | nil => rfl
  | cons x rest ih =>
    obtain ⟨p, n⟩ := x
    have hone := readPlace_cpu s w hint p n
    unfold readPlaces
    dsimp only
    split
    · rfl
    · split
      · exact hone
      · have hrest := ih (readPlace s w hint p n).2
        cases h : readPlaces w hint v (readPlace s w hint p n).2 rest <;> rw [h] at hrest <;> exact hrest.trans hone

theorem touchPage_cpu (s : State) (vi : Nat) (f : VForm) (p : Place) : (touchPage s vi f p).cpu = s.cpu := by
  unfold touchPage
  split
  · rfl
  · dsimp only
    repeat' split
    all_goals rfl

theorem touchPages_cpu (vi : Nat) (f : VForm) (ps : List (Place × Nat)) (s : State) : (ps.foldl (fun st p => touchPage st vi f p.1) s).cpu = s.cpu := by
  induction ps generalizing s with
  | nil => rfl
  | cons x rest ih => exact (ih _).trans (touchPage_cpu ..)

/-- The state that a translation of elements leaves. -/
def transState : VTrans → State
  | .done _ s => s
  | .fault _ _ _ _ s => s
  | .wait s => s

theorem transState_cons (e : VElem) (x : VTrans) : transState (x.cons e) = transState x := by cases x <;> rfl

theorem vTranslate_cpu (w : Who) (k : AccKind) (n : Nat) (f : VForm) (ea : Nat → Word) (l : List Nat) (s : State) :
    (transState (vTranslate w k n f ea s l)).cpu = s.cpu := by
  induction l generalizing s with
  | nil => rfl
  | cons i rest ih =>
    have hps := placesOf_cpu s w (ea i) n k
    unfold vTranslate
    split
    · next h => rwa [h] at hps
    · next h => rwa [h] at hps
    · next h =>
      rw [h] at hps
      split
      · exact hps
      · rw [transState_cons, ih, touchPages_cpu]
        exact hps

/-- R119: the elements of a translation are those asked for, in order. -/
theorem vTranslate_elems {w : Who} {k : AccKind} {n : Nat} {f : VForm} {ea : Nat → Word} {l : List Nat} {s s1 : State} {els : List VElem}
    (h : vTranslate w k n f ea s l = .done els s1) : els.map (·.i) = l := by
  induction l generalizing s els with
  | nil =>
    cases h
    rfl
  | cons i rest ih =>
    unfold vTranslate at h
    split at h
    · cases h
    · cases h
    · split at h
      · cases h
      · next ps s2 _ _ =>
        cases hr : vTranslate w k n f ea (ps.foldl (fun st p => touchPage st w.vi f p.1) s2) rest <;> rw [hr] at h <;> cases h
        rw [List.map_cons, ih hr]

/-! VWAIT (R270). -/

section
variable {w : Who} {s s2 : State} {els : List VElem} {xs : List (Nat × Nat)}

/-- Every watched word is read once, and the reads keep the current strand. -/
theorem readWatched_spec (h : readWatched w s els = .ok xs s2) : xs.map (·.1) = els.map (·.i) ∧ s2.cpu = s.cpu := by
  induction els generalizing s xs s2 with
  | nil =>
    cases h
    exact ⟨rfl, rfl⟩
  | cons e rest ih =>
    have hcpu := readPlaces_cpu w 0 e.va e.places s
    unfold readWatched at h
    cases hx : readPlaces w 0 e.va s e.places with
    | ok x s1 =>
      rw [hx] at h hcpu
      cases hr : readWatched w s1 rest with
      | ok more t =>
        obtain ⟨hmap, hkept⟩ := ih hr
        simp only [Acc.andThen, hr] at h
        cases h
        exact ⟨by rw [List.map_cons, List.map_cons, hmap], hkept.trans hcpu⟩
      | fault => simp [Acc.andThen, hr] at h
      | wait => simp [Acc.andThen, hr] at h
    | fault => rw [hx] at h; cases h
    | wait => rw [hx] at h; cases h

end

/-- Elements of a register written, each with its value. -/
def putElems (o : Ops) (t : Strand) (xs : List (Nat × Nat)) : Strand := xs.foldl (fun u x => u.writeV o.D x.1 (extendV u.ew o.T x.2)) t

/-- Elements with numbers of their own read what has been written. -/
theorem readV_putElems (o : Ops) {xs : List (Nat × Nat)} (hne : (xs.map (·.1)).Nodup) (hlt : ∀ y ∈ xs, y.1 < 65536) (t : Strand) :
    (∀ y ∈ xs, (putElems o t xs).readV o.D y.1 = extendV t.ew o.T y.2 % 2 ^ t.ew)
      ∧ (∀ k, k < 65536 → (∀ y ∈ xs, y.1 ≠ k) → (putElems o t xs).readV o.D k = t.readV o.D k) ∧ (putElems o t xs).ew = t.ew
      ∧ (putElems o t xs).g = t.g ∧ (putElems o t xs).vl = t.vl := by
  induction xs generalizing t with
  | nil => exact ⟨by simp, fun _ _ _ => rfl, rfl, rfl, rfl⟩
  | cons x rest ih =>
    obtain ⟨hx, hne⟩ := List.nodup_cons.mp hne
    obtain ⟨hxlt, hlt⟩ := List.forall_mem_cons.mp hlt
    obtain ⟨hread, hkept, hew, hg, hvl⟩ := ih hne hlt (t.writeV o.D x.1 (extendV t.ew o.T x.2))
    have hwritten : ∀ k, k < 65536 → (t.writeV o.D x.1 (extendV t.ew o.T x.2)).readV o.D k
        = if k = x.1 then low t.ew (extendV t.ew o.T x.2) else t.readV o.D k :=
      fun k hk => (readV_writeV t o.D o.D x.1 k _ hxlt hk).trans (if_congr (by simp) rfl rfl)
    refine ⟨List.forall_mem_cons.mpr ⟨?_, hread⟩, fun k hk hout => ?_, hew, hg, hvl⟩
    · refine (hkept x.1 hxlt (fun y hy h => hx (List.mem_map.mpr ⟨y, hy, h⟩))).trans ?_
      rw [hwritten x.1 hxlt, if_pos rfl, low]
    · obtain ⟨hne', hout⟩ := List.forall_mem_cons.mp hout
      refine (hkept k hk hout).trans ?_
      rw [hwritten k hk, if_neg (Ne.symm hne')]

/-- The bit of an element: whether its word satisfies the condition. -/
theorem any_find?_iff {sat : Nat × Nat → Bool} {xs : List (Nat × Nat)} (hne : (xs.map (·.1)).Nodup) (k : Nat) :
    (xs.find? (fun x => x.1 = k)).any sat = true ↔ ∃ y ∈ xs, y.1 = k ∧ sat y = true := by
  constructor
  · intro h
    obtain ⟨y, hy, hsat⟩ := (Option.any_eq_true _ _).mp h
    exact ⟨y, List.mem_of_find?_eq_some hy, by simpa using List.find?_some hy, hsat⟩
  · rintro ⟨y, hy, rfl, hsat⟩
    obtain ⟨z, hz⟩ := Option.isSome_iff_exists.mp (List.find?_isSome.mpr ⟨y, hy, by simp⟩ : (xs.find? (fun x => x.1 = y.1)).isSome = true)
    have hzy : z = y := List.inj_on_of_nodup_map hne (List.mem_of_find?_eq_some hz) hy (by simpa using List.find?_some hz)
    rw [hz, hzy]
    exact hsat

theorem activeMem_spec (t : Strand) (o : Ops) (neg : Bool) : (activeMem t o neg).Nodup ∧ ∀ k ∈ activeMem t o neg, k < t.vl := by
  unfold activeMem
  exact ⟨List.nodup_range.filter _, fun k hk => List.mem_range.mp (List.mem_filter.mp hk).1⟩

/-- R270: whether a watched word satisfies VWAIT's condition. -/
def meets (o : Ops) (s : State) (x : Nat × Nat) : Bool := condInt (o.C % 8) (intOf o.T x.2) (intOf o.T (elemOf s.cpu o.T o.D x.1))

theorem meets_iff {o : Ops} {s : State} (hT : o.T < 8) (hC : o.C % 8 ≤ 5) (y : Nat × Nat) :
    meets o s y = true ↔ condition (o.C % 8) (intValue o.T (BitVec.ofNat 64 y.2)) (elemInt s o.T o.D y.1) := by
  rw [meets, condInt_iff hC, intOf_elemOf hT, intValue_ofNat hT]

section
variable {s s1 s2 : State} {o : Ops} {els : List VElem} {xs : List (Nat × Nat)}

/-- VWAIT with its words read: it completes, or parks. -/
theorem vwait_read (hd : HeadReady (.vwait o) [o.T] s.cpu) (hvl : s.cpu.vl ≠ 0)
    (hal : ∀ k ∈ activeMem s.cpu o false, (vEa o s .indexed k).toNat % byteSize o.T = 0)
    (htr : vTranslate (s.who .vector) .read (byteSize o.T) .indexed (vEa o s .indexed) s (activeMem s.cpu o false) = .done els s1)
    (hr : readWatched (s.who .vector) s1 els = .ok xs s2) :
    exec (.vwait o) s = if xs.isEmpty || (if 8 ≤ o.C then xs.all (meets o s) else xs.any (meets o s)) then
        .next (s2.retire (fun t => putMask 0 (fun i => (xs.find? (fun x => x.1 = i)).any (meets o s)) (putElems o t xs) (List.range t.vl)))
      else .next (parkOn s2 (els.map (fun e => watchWords e.places)).flatten) := by
  have hno : (activeMem s.cpu o false).find? (fun i => misaligned (vEa o s .indexed i) (byteSize o.T)) = none :=
    List.find?_eq_none.mpr (fun k hk => by simp [misaligned_iff, hal k hk])
  change execVwait o s = _
  rw [byteSize] at hno htr
  rw [execVwait, atHead_pass _ _ _ _ hd, unlessVl0_pass _ _ hvl]
  simp only [accessBytes, hno, htr, hr]
  rfl

theorem vwait_satisfied_iff (hT : o.T < 8) (hC : o.C % 8 ≤ 5) :
    (xs.isEmpty || (if 8 ≤ o.C then xs.all (meets o s) else xs.any (meets o s))) = true ↔
      (xs = [] ∨ (8 ≤ o.C ∧ ∀ y ∈ xs, condition (o.C % 8) (intValue o.T (BitVec.ofNat 64 y.2)) (elemInt s o.T o.D y.1))
        ∨ (o.C < 8 ∧ ∃ y ∈ xs, condition (o.C % 8) (intValue o.T (BitVec.ofNat 64 y.2)) (elemInt s o.T o.D y.1))) := by
  simp only [← meets_iff (s := s) hT hC, Bool.or_eq_true, List.isEmpty_iff]
  split
  · next h => simp [h, not_lt.mpr h]
  · next h => simp [h, not_le.mp h]

end

/-- R270: a completed VWAIT has the words in vD and the satisfied ones in m0. -/
theorem vwait_registers {o : Ops} {sat : Nat × Nat → Bool} {xs : List (Nat × Nat)} (hne : (xs.map (·.1)).Nodup) {t : Strand} (hlt : ∀ y ∈ xs, y.1 < 65536)
    (hvl : t.vl ≤ 65536) :
    let u := putMask 0 (fun i => (xs.find? (fun x => x.1 = i)).any sat) (putElems o t xs) (List.range t.vl)
    u.g = t.g ∧ (∀ y ∈ xs, u.readV o.D y.1 = extendV t.ew o.T y.2 % 2 ^ t.ew) ∧ ∀ k, k < t.vl → (u.readM 0 k = true ↔ ∃ y ∈ xs, y.1 = k ∧ sat y = true) := by
  intro u
  obtain ⟨hread, -, -, hg, -⟩ := readV_putElems o hne hlt t
  obtain ⟨m, mq, hu⟩ := putMask_eq 0 (fun i => (xs.find? (fun x => x.1 = i)).any sat) (List.range t.vl) (putElems o t xs)
  refine ⟨(congrArg Strand.g hu).trans hg, fun y hy => (congrArg (fun v : Strand => v.readV o.D y.1) hu).trans (hread y hy), fun k hk => ?_⟩
  have hbit : u.readM 0 k = (xs.find? (fun x => x.1 = k)).any sat :=
    (readM_putMask 0 _ (fun i hi => (List.mem_range.mp hi).trans_le hvl) 0 (hk.trans_le hvl) _).trans (if_pos ⟨rfl, List.mem_range.mpr hk⟩)
  rw [hbit]
  exact any_find?_iff hne k

/-! Waits and atomics on one word (R170, R272, R273). -/

section
variable {s s1 s2 : State} {o : Ops}

theorem not_misaligned {va : Word} {n : Nat} (h : va.toNat % n = 0) : misaligned va n = false := by simp [misaligned, h]

/-- A wait on an aligned word that can be read. -/
theorem waitWord_read {ps : List (Place × Nat)} {x : Got} {f : Nat → Bool} {fin : Strand → Strand} (hal : (s.srcG o.A).toNat % 8 = 0)
    (hps : placesOf s (s.who .vector) (s.srcG o.A) 8 .read = .ok ps s1) (hx : readPlaces (s.who .vector) 0 (s.srcG o.A) s1 ps = .ok x s2) :
    waitWord o s f fin = .next (if f (leNat x.bytes) then s2.retireKeep (fun t => fin (t.writeG o.D (BitVec.ofNat 64 (leNat x.bytes))))
      else parkOn s2 (watchWords ps)) := by
  simp [waitWord, not_misaligned hal, hps, hx, Acc.andThen, queuedAcc]

theorem waitWord_misaligned {f : Nat → Bool} {fin : Strand → Strand} (h : (s.srcG o.A).toNat % 8 ≠ 0) :
    waitWord o s f fin = .next (queuedTrap s 0x10 (s.srcG o.A)) := if_pos (misaligned_iff.mpr h)

theorem counterMeets_iff {x n : Nat} : counterMeets x n = true ↔ n ≤ x % 2 ^ 40 ∨ x / 2 ^ 63 % 2 = 1 := by
  simp only [counterMeets, Bool.or_eq_true, decide_eq_true_eq, beq_iff_eq]
  exact Iff.rfl

variable {release : Bool} {act : TripAct} {g : List Byte → Strand → Strand}

theorem wordAtomic_after (hs : Starts s) (hq : earlierPosts s = true) : wordAtomic o s true act g = .next s.park := by
  rw [wordAtomic, awaited_starts hs]
  exact if_pos (by simpa using hq)

theorem wordAtomic_misaligned (hs : Starts s) (hq : (release && earlierPosts s) = false) (h : (s.srcG o.A).toNat % 8 ≠ 0) :
    wordAtomic o s release act g = .next (queuedTrap s 0x10 (s.srcG o.A)) := by
  rw [wordAtomic, awaited_starts hs, afterPosts_passes hq]
  exact if_pos (misaligned_iff.mpr h)

section
variable {p : Place} (hs : Starts s) (hq : (release && earlierPosts s) = false) (hal : (s.srcG o.A).toNat % 8 = 0)
  (hheld : heldBack s (s.srcG o.A) = false) (hp : placeOf s (s.who .vector) (s.srcG o.A) 8 .atomic = .ok p s1)
include hs hq hal hheld hp

/-- An atomic at a home of the strand's own die. -/
theorem wordAtomic_near {old : List Byte} (haway : away s1 (s.who .vector) p 8 = false)
    (hx : atomicMem s1 (s.who .vector) (s.srcG o.A) 8 act.new = .ok old s2) : wordAtomic o s release act g = .next (s2.retireKeep (g old)) := by
  rw [atomicMem_again rfl hp] at hx
  rw [wordAtomic, awaited_starts hs, afterPosts_passes hq]
  simp [not_misaligned hal, hheld, hp, queuedAccOut, haway, hx, queuedAcc]

/-- An atomic that leaves as a packet. -/
theorem wordAtomic_away (haway : away s1 (s.who .vector) p 8 = true) :
    ∃ t, wordAtomic o s release act g = .next t ∧ t.cpu.parked = true ∧ t.mem = s.mem ∧ t.cpu.g = s.cpu.g ∧ t.pieces.length = s1.pieces.length + 1 := by
  obtain ⟨hcpu, hmem, hlen⟩ := awaitPieces_spec s1 false none [(0, p, .trip 8 act)]
  refine ⟨awaitPieces s1 false none [(0, p, .trip 8 act)], ?_, ?_, hmem.1.trans (mem_of_placeOf hp), ?_, hlen⟩
  · rw [wordAtomic, awaited_starts hs, afterPosts_passes hq]
    simp [not_misaligned hal, hheld, hp, queuedAccOut, haway]
  · rw [hcpu]
  · rw [hcpu]
    exact (congrArg Strand.g (cpu_of_placeOf hp) :)

end

section
variable {e : QEntry} {rest : List QEntry} (h : Waits s e rest)
include h

/-- The answers of the packet of an atomic. -/
theorem wordAtomic_waits (hg : ∀ bytes (t : Strand) (q : List QEntry), g bytes { t with queue := q } = { g bytes t with queue := q }) :
    ((∃ p ∈ s.pieces, p.op = e.op) → wordAtomic o s release act g = .next s.park)
      ∧ (∀ k c tv more, Answered s e → e.fails = (k, c, tv) :: more → ∃ u, wordAtomic o s release act g = .next (queuedTrap u c tv) ∧ u.mem = s.mem)
      ∧ (∀ k ha bytes more, Answered s e → e.fails = [] → e.got = (k, ha, bytes) :: more → wordAtomic o s release act g = .next (s.retireKeep (g bytes))) := by
  rw [wordAtomic]
  refine ⟨awaited_waits h, fun k c tv more ha hf => ⟨answered s e rest, ?_, rfl⟩, fun k ha' bytes more ha hf hgot => ?_⟩
  · rw [awaited_answered h ha, hf]
  · rw [awaited_answered h ha, hf, ← retireKeep_answered h (g bytes) (hg bytes)]
    simp [h.1, hgot]

end

end

/-! BARRIER (R274). -/

/-- The strand of a task that has passed its BARRIER. -/
def passed (i : Nat) (u : Strand) : Strand := { u.retireKeep with arrivals := cellPut u.arrivals i (cellGet 0 u.arrivals i + 1), prefetch := [] }

theorem passed_spec (i : Nat) (u : Strand) : (passed i u).queue = u.queue.drop 1 ∧ (passed i u).parked = false ∧ (passed i u).prefetch = []
    ∧ cellGet 0 (passed i u).arrivals i = cellGet 0 u.arrivals i + 1 ∧ (passed i u).g = u.g ∧ (passed i u).v = u.v :=
  ⟨rfl, rfl, rfl, cellGet_cellPut_same .., rfl, rfl⟩

@[simp] theorem passed_tid (i : Nat) (u : Strand) : (passed i u).tid = u.tid := rfl

theorem passBarrier_spec (s : State) (u : Strand) (i scope : Nat) :
    (passBarrier s u i scope).cpu = (if s.cpu.tid = u.tid then passed i s.cpu else s.cpu) ∧ (passBarrier s u i scope).mem = s.mem := by
  unfold passBarrier
  dsimp only
  split <;> exact ⟨rfl, rfl⟩

/-- Tasks that pass leave the strands of other tasks as they are. -/
theorem passBarriers_others (i scope : Nat) (l : List Strand) (s : State) (h : ∀ u ∈ l, u.tid ≠ s.cpu.tid) :
    Keeps s (l.foldl (fun st u => passBarrier st u i scope) s) := by
  induction l generalizing s with
  | nil => exact .refl s
  | cons u rest ih =>
    obtain ⟨hu, hrest⟩ := List.forall_mem_cons.mp h
    obtain ⟨hcpu, hmem⟩ := passBarrier_spec s u i scope
    rw [if_neg (Ne.symm hu)] at hcpu
    have hkept : Keeps s (passBarrier s u i scope) := ⟨hcpu, hmem⟩
    have hlater := ih (passBarrier s u i scope) (by rwa [hcpu])
    rw [List.foldl_cons]
    exact hkept.trans hlater

/-- A strand that has arrived at its BARRIER. -/
theorem arrivedAt_barrier {t : Strand} {o : Ops} {e : QEntry} {rest : List QEntry} (hq : t.queue = e :: rest) (he : e.instr = .barrier o)
    (ha : t.arrived = true) : arrivedAt t o.bImm = true := by
  have hcode : e.code = 0x189 := by
    rw [QEntry.code, he]
    rfl
  have hops : e.instr.ops? = some o := by rw [he]; rfl
  simp [arrivedAt, ha, hq, hcode, hops]

/-- The machine whose current strand has arrived. -/
def atBarrier (s : State) : State := s.onCpu (fun t => { t with arrived := true })

/-- R274: the task of `u` stands at the same level-`i` barrier, at the same arrival, as that of `t`. -/
def passesWith (t : Strand) (i : Nat) (u : Strand) : Bool :=
  u.tid ≠ 0 && u.lid = t.lid && sameInstance t i u.index && arrivedAt u i && cellGet 0 u.arrivals i + 1 == cellGet 0 t.arrivals i + 1

theorem passesWith_self {s : State} {i : Nat} (htid : s.cpu.tid ≠ 0) (harr : arrivedAt (atBarrier s).cpu i = true) :
    passesWith s.cpu i (atBarrier s).cpu = true := by
  have htid' : (atBarrier s).cpu.tid ≠ 0 := htid
  have hindex : (atBarrier s).cpu.index = s.cpu.index := rfl
  have hlid : (atBarrier s).cpu.lid = s.cpu.lid := rfl
  have harrivals : (atBarrier s).cpu.arrivals = s.cpu.arrivals := rfl
  simp [passesWith, htid', hlid, hindex, harrivals, harr, sameInstance]

@[simp] theorem atBarrier_tid (s : State) : (atBarrier s).cpu.tid = s.cpu.tid := rfl

section
variable {s : State} {o : Ops} {l : LevelPos} (hl : s.cpu.levels[o.bImm]? = some l) (hb : l.barrier = true) (hp : earlierPosts s = false)
include hl hb hp

/-- The strand has arrived, and waits or lets the other tasks pass. -/
theorem barrier_eq :
    exec (.barrier o) s =
      if instanceSize s.cpu o.bImm ≤ arrivedTasks (atBarrier s) o.bImm (cellGet 0 s.cpu.arrivals o.bImm + 1) then
        .next (((atBarrier s).strands.filter (passesWith s.cpu o.bImm)).foldl
          (fun st u => passBarrier st u o.bImm l.scope) (atBarrier s))
      else .next (atBarrier s).park := by
  change execBarrier o s = _
  rw [execBarrier, afterPosts_passes (by simpa using hp)]
  simp only [hl, hb]
  rfl

theorem barrier_completes {e : QEntry} {rest : List QEntry} (hq : s.cpu.queue = e :: rest) (he : e.instr = .barrier o)
    (hin : instanceSize s.cpu o.bImm ≤ arrivedTasks (atBarrier s) o.bImm (cellGet 0 s.cpu.arrivals o.bImm + 1))
    (htid : s.cpu.tid ≠ 0) (hothers : ∀ u ∈ s.others, u.tid ≠ s.cpu.tid) :
    ∃ t, exec (.barrier o) s = .next t ∧ t.cpu = passed o.bImm (atBarrier s).cpu ∧ t.mem = s.mem := by
  have harr : arrivedAt (atBarrier s).cpu o.bImm = true := arrivedAt_barrier hq he rfl
  refine ⟨_, (barrier_eq hl hb hp).trans (if_pos hin), ?_⟩
  have hpeers : (atBarrier s).strands.filter (passesWith s.cpu o.bImm) = (atBarrier s).cpu :: s.others.filter (passesWith s.cpu o.bImm) :=
    List.filter_cons_of_pos (passesWith_self htid harr)
  rw [hpeers, List.foldl_cons]
  obtain ⟨hcpu, hmem⟩ := passBarrier_spec (atBarrier s) (atBarrier s).cpu o.bImm l.scope
  rw [if_pos rfl] at hcpu
  obtain ⟨hcpu', hmem'⟩ := passBarriers_others o.bImm l.scope (s.others.filter (passesWith s.cpu o.bImm)) (passBarrier (atBarrier s) (atBarrier s).cpu o.bImm l.scope)
    (fun u hu => by
      rw [hcpu, passed_tid, atBarrier_tid]
      exact hothers u (List.mem_filter.mp hu).1)
  exact ⟨hcpu'.trans hcpu, hmem'.trans hmem⟩

end

section
variable {s s1 : State} {o : Ops} {els : List VElem} {ret : Bool} {f : Nat → List Byte → Option (List Byte)} {i : Instr}

/-- R64, R269: the step that ends a vector atomic, and one that leaves elements for the next. -/
theorem atomicStep_outcomes (h : exec i s = .next (goOn (((atomicOrder s1 els).drop 64).map (·.i)) (atomicStep o s s1 ret f els).done (atomicStep o s s1 ret f els).s)) :
    (els.length ≤ 64 → exec i s = .next ((atomicStep o s s1 ret f els).s.retire id))
      ∧ (64 < els.length → ∃ k ∈ ((atomicOrder s1 els).drop 64).map (·.i), (∀ j ∈ ((atomicOrder s1 els).drop 64).map (·.i), k ≤ j)
          ∧ exec i s = .next (betweenSteps (keepBitmap (atElement (atomicStep o s s1 ret f els).s k) k (atomicStep o s s1 ret f els).done) accessPass)) := by
  refine ⟨fun hlen => by rw [h, goOn_all hlen], fun hlen => ?_⟩
  have hmore : ((atomicOrder s1 els).drop 64).map (·.i) ≠ [] := by
    rw [Ne, List.map_eq_nil_iff, List.drop_eq_nil_iff, atomicOrder_length]
    omega
  obtain ⟨k, hk, hle, hgo⟩ := goOn_more (done := (atomicStep o s s1 ret f els).done) (x := (atomicStep o s s1 ret f els).s) hmore
  exact ⟨k, hk, hle, by rw [h, hgo]⟩

end

section
variable {s s1 s2 : State} {o : Ops} {ps : List (Place × Nat)} {x : Got} (hal : (s.srcG o.A).toNat % 8 = 0)
  (hps : placesOf s (s.who .vector) (s.srcG o.A) 8 .read = .ok ps s1) (hx : readPlaces (s.who .vector) 0 (s.srcG o.A) s1 ps = .ok x s2)
include hal hps hx

theorem bytewait_read : exec (.bytewait o) s = .next (if counterMeets (leNat x.bytes) (s.srcB o.b).toNat then
    s2.retireKeep (fun t => { t.writeG o.D (BitVec.ofNat 64 (leNat x.bytes)) with prefetch := [] }) else parkOn s2 (watchWords ps)) := by
  change execBytewait o s = _
  rw [execBytewait, waitWord_read hal hps hx]

theorem wmwait_read : exec (.wmwait o) s = .next (if (s.srcB o.b).toNat ≤ leNat x.bytes then
    s2.retireKeep (fun t => t.writeG o.D (BitVec.ofNat 64 (leNat x.bytes))) else parkOn s2 (watchWords ps)) := by
  change execWmwait o s = _
  rw [execWmwait, waitWord_read hal hps hx]
  simp only [decide_eq_true_eq, id]

end

/-- R270: VWAIT with its words read completes where the condition is met, and parks otherwise. -/
theorem vwait_outcomes {s s1 s2 : State} {o : Ops} {els : List VElem} {xs : List (Nat × Nat)} (hd : HeadReady (.vwait o) [o.T] s.cpu) (hvl : s.cpu.vl ≠ 0)
    (hmax : s.cpu.vl ≤ 65536) (hT : o.T < 8) (hC : o.C % 8 ≤ 5) (hal : ∀ k ∈ activeMem s.cpu o false, (vEa o s .indexed k).toNat % byteSize o.T = 0)
    (htr : vTranslate (s.who .vector) .read (byteSize o.T) .indexed (vEa o s .indexed) s (activeMem s.cpu o false) = .done els s1)
    (hr : readWatched (s.who .vector) s1 els = .ok xs s2) :
    let sat := fun (y : Nat × Nat) => condition (o.C % 8) (intValue o.T (BitVec.ofNat 64 y.2)) (elemInt s o.T o.D y.1)
    ((xs = [] ∨ (8 ≤ o.C ∧ ∀ y ∈ xs, sat y) ∨ (o.C < 8 ∧ ∃ y ∈ xs, sat y)) →
        ∃ t, exec (.vwait o) s = .next t ∧ t.cpu.vstart = 0 ∧ t.mem = s2.mem ∧ t.cpu.g = s2.cpu.g
          ∧ (∀ y ∈ xs, t.cpu.readV o.D y.1 = extendV s2.cpu.ew o.T y.2 % 2 ^ s2.cpu.ew)
          ∧ ∀ k, k < s2.cpu.vl → (t.cpu.readM 0 k = true ↔ ∃ y ∈ xs, y.1 = k ∧ sat y))
      ∧ (¬ (xs = [] ∨ (8 ≤ o.C ∧ ∀ y ∈ xs, sat y) ∨ (o.C < 8 ∧ ∃ y ∈ xs, sat y)) → ∃ l, exec (.vwait o) s = .next (parkOn s2 l)) := by
  intro sat
  have hread := vwait_read hd hvl hal htr hr
  have hsat := vwait_satisfied_iff (s := s) (xs := xs) hT hC
  obtain ⟨hmap, hcpu⟩ := readWatched_spec hr
  have htrans := vTranslate_cpu (s.who .vector) .read (byteSize o.T) .indexed (vEa o s .indexed) (activeMem s.cpu o false) s
  rw [htr] at htrans
  have hkept : s2.cpu = s.cpu := hcpu.trans htrans
  have hlist : xs.map (·.1) = activeMem s.cpu o false := hmap.trans (vTranslate_elems htr)
  obtain ⟨hnodup, hlt⟩ := activeMem_spec s.cpu o false
  rw [← hlist] at hnodup hlt
  refine ⟨fun h => ?_, fun h => ⟨_, hread.trans (if_neg (mt hsat.mp h))⟩⟩
  obtain ⟨hg, helem, hbit⟩ := vwait_registers (o := o) (sat := meets o s) (t := s2.cpu) hnodup
    (fun y hy => (hlt _ (List.mem_map_of_mem hy)).trans_le hmax) (by rw [hkept]; exact hmax)
  refine ⟨_, hread.trans (if_pos (hsat.mpr h)), rfl, rfl, hg, helem, fun k hk => (hbit k hk).trans ?_⟩
  simp only [meets_iff hT hC]
  rfl

theorem writeG_withQueue (t : Strand) (q : List QEntry) (n : Nat) (x : Word) : ({ t with queue := q } : Strand).writeG n x = { t.writeG n x with queue := q } := by
  unfold Strand.writeG
  split <;> rfl

/-- R155: an atomic of release order waits for every earlier blocking scalar store. -/
theorem release_waits {s : State} {o : Ops} {i : Instr} (hs : Starts s) (hq : earlierPosts s = true) (hr : o.releases = true)
    (hi : i ∈ [(.vamo o : Instr), .vcas o, .bytesub o]) : exec i s = .next s.park := by
  simp only [List.mem_cons, List.not_mem_nil, or_false] at hi
  rcases hi with rfl | rfl | rfl
  · change execVamo o s = _
    rw [execVamo, awaited_starts hs]
    exact if_pos (by simp [hr, hq])
  · change execVcas o s = _
    rw [execVcas, awaited_starts hs]
    exact if_pos (by simp [hr, hq])
  · change execBytesub o s = _
    rw [execBytesub, hr]
    exact wordAtomic_after hs hq

/-- R272, R273: a wait for a word at a misaligned address traps. -/
theorem waits_misaligned {s : State} {o : Ops} {i : Instr} (hal : (s.srcG o.A).toNat % 8 ≠ 0) (hi : i ∈ [(.bytewait o : Instr), .wmwait o]) :
    exec i s = .next (queuedTrap s 0x10 (s.srcG o.A)) := by
  simp only [List.mem_cons, List.not_mem_nil, or_false] at hi
  rcases hi with rfl | rfl
  · change execBytewait o s = _
    exact waitWord_misaligned hal
  · change execWmwait o s = _
    exact waitWord_misaligned hal

/-- Settles O49: each form goes through the lemma on its shape. -/
theorem vectorAtomicsAndWaits : Obligations.VectorAtomicsAndWaits := by
  intro s s1 s2 o els ps x old w n ea act todo order start amo cas va b word rel
  refine ⟨freeOrderOf_perm, ?_, ?_, ?_, ?_, ?_, fun h => if_pos h, fun h => if_neg (not_le.mpr h), rfl, ?_, ?_, ?_, ?_, ?_⟩
  · intro hq hs
    exact ⟨wordAtomic_after hs hq, if_pos (by simpa using hq), fun hr i hi => release_waits hs hq hr hi⟩
  · rintro hs hvl hnb hq hal htr haway todoAmo todoCas y (⟨rfl, habn⟩ | rfl) hd hfail
    · refine atomicStep_outcomes ?_
      rw [vamo_starts hs hq hd, unlessVl0_pass _ _ hvl]
      refine vatomic_near hnb (fun k hk => ?_) hal htr haway hfail
      rcases habn with h7 | habn
      · exact if_neg (by omega)
      · rw [habn k hk, ite_self]
    · refine atomicStep_outcomes ?_
      rw [vcas_starts hs hq hd, unlessVl0_pass _ _ hvl]
      exact vatomic_near hnb (fun _ _ => rfl) hal htr haway hfail
  · intro i hi e rest h
    simp only [List.mem_cons, List.not_mem_nil, or_false] at hi
    rcases hi with rfl | rfl
    · exact (vamo_ends o).outcomes h
    · exact (vcas_ends o).outcomes h
  · intro hs hq hvl
    refine ⟨fun hd => ?_, fun hd => ?_, fun hd => ?_⟩
    · rw [vamo_starts hs hq hd, unlessVl0_none _ _ hvl]
    · rw [vcas_starts hs hq hd, unlessVl0_none _ _ hvl]
    · exact (atHead_pass _ _ _ _ hd).trans (unlessVl0_none _ _ hvl)
  · intro xs hd hvl hmax hT hC hal htr hr sat
    exact vwait_outcomes hd hvl hmax hT hC hal htr hr
  · intro hal hps hx
    rw [bytewait_read hal hps hx, wmwait_read hal hps hx]
    exact ⟨fun h => by rw [if_pos (counterMeets_iff.mpr h)], fun h => by rw [if_neg (mt counterMeets_iff.mp h)],
      fun h => by rw [if_pos h], fun h => by rw [if_neg (not_le.mpr h)]⟩
  · intro p hs hal hheld hp
    refine ⟨fun haway hq hx => wordAtomic_near hs hq hal hheld hp haway hx, fun haway hq hx => ?_, fun haway i hi => ?_⟩
    · exact wordAtomic_near hs (by simpa using hq) hal hheld hp haway hx
    · rcases hi with ⟨rfl, hq⟩ | ⟨rfl, hq⟩
      · exact wordAtomic_away hs hq hal hheld hp haway
      · exact wordAtomic_away hs (by simpa using hq) hal hheld hp haway
  · intro i hi e rest h
    simp only [List.mem_cons, List.not_mem_nil, or_false] at hi
    rcases hi with rfl | rfl
    · obtain ⟨hwait, hfail, hgot⟩ := wordAtomic_waits (o := o) (release := o.releases) (act := .less (s.srcB o.b).toNat)
        (g := fun old t => t.writeG o.D (BitVec.ofNat 64 (leNat old))) h (fun _ t q => writeG_withQueue t q _ _)
      exact ⟨hwait, hfail, fun k ha bytes more hans hf hg => (hgot k ha bytes more hans hf hg).trans (by simp)⟩
    · obtain ⟨hwait, hfail, hgot⟩ := wordAtomic_waits (o := o) (release := true) (act := .top (s.srcB o.b).toNat) (g := fun _ t => t) h (fun _ _ _ => rfl)
      exact ⟨hwait, hfail, fun k ha bytes more hans hf hg => (hgot k ha bytes more hans hf hg).trans (by simp)⟩
  · intro hal
    exact ⟨fun i hi => waits_misaligned hal hi, fun hs hq => wordAtomic_misaligned hs hq hal, fun hs hq => wordAtomic_misaligned hs (by simpa using hq) hal⟩
  · intro l e rest hl hb hq he hp s3 r
    refine ⟨fun h => (barrier_eq hl hb hp).trans (if_neg (not_le.mpr h)), fun h htid hothers => ?_⟩
    obtain ⟨t, ht, hcpu, hmem⟩ := barrier_completes hl hb hp hq he h htid hothers
    obtain ⟨hqueue, hparked, hprefetch, harrivals, hg, hv⟩ := passed_spec o.bImm (atBarrier s).cpu
    rw [← hcpu] at hqueue hparked hprefetch harrivals hg hv
    have hrest : (atBarrier s).cpu.queue.drop 1 = rest := congrArg (List.drop 1) hq
    exact ⟨t, ht, hqueue.trans hrest, hparked, hprefetch, harrivals, hg, hv, hmem⟩

/-! The shapes of vector loads and stores (R251, R262). -/

theorem vEa_unit (o : Ops) (s : State) (k : Nat) : vEa o s .unit k = s.srcG o.A + s.srcB o.b + BitVec.ofNat 64 (k * byteSize o.T) := by
  simp only [vEa, vExact, BitVec.ofInt_add, BitVec.ofInt_natCast, BitVec.ofNat_toNat, BitVec.setWidth_eq]
  rfl

theorem vEa_strided (o : Ops) (s : State) (k : Nat) : vEa o s .strided k = s.srcG o.A + BitVec.ofNat 64 k * s.srcB o.b := by
  simp only [vEa, vExact, BitVec.ofInt_add, BitVec.ofInt_mul, BitVec.ofInt_natCast, BitVec.ofInt_toInt, BitVec.ofNat_toNat, BitVec.setWidth_eq]

theorem vEa_indexed (o : Ops) (s : State) (k : Nat) : vEa o s .indexed k = s.srcG o.A + BitVec.ofInt 64 (signedOf s.cpu.ew (s.cpu.readV o.B k)) := by
  simp only [vEa, vExact, BitVec.ofInt_add, BitVec.ofInt_natCast, BitVec.ofNat_toNat, BitVec.setWidth_eq]

/-- The fault-first loads (R267). -/
def faultFirst (o : Ops) : List (Instr × VForm) := [(.vldff o, .unit), (.vldxff o, .indexed)]

/-- The loads that trap at every fault (R263). -/
def plainLoads (o : Ops) : List (Instr × VForm) := [(.vld o, .unit), (.vlds o, .strided), (.vldx o, .indexed)]

section
variable {o : Ops} {x : Instr × VForm}

theorem exec_plainLoad (h : x ∈ plainLoads o) (s : State) : exec x.1 s = vload x.1 o x.2 false s := by
  simp only [plainLoads, List.mem_cons, List.not_mem_nil, or_false] at h
  rcases h with rfl | rfl | rfl <;> rfl

theorem exec_faultFirst (h : x ∈ faultFirst o) (s : State) : exec x.1 s = vload x.1 o x.2 true s := by
  simp only [faultFirst, List.mem_cons, List.not_mem_nil, or_false] at h
  rcases h with rfl | rfl <;> rfl

theorem exec_vectorLoad (h : x ∈ vectorLoads o) : ∃ ff, (∀ s, exec x.1 s = vload x.1 o x.2 ff s) ∧ (ff = true → x ∈ faultFirst o) := by
  have hsplit : x ∈ plainLoads o ∨ x ∈ faultFirst o := List.mem_append.mp h
  rcases hsplit with h | h
  · exact ⟨false, exec_plainLoad h, fun h => nomatch h⟩
  · exact ⟨true, exec_faultFirst h, fun _ => h⟩

theorem exec_vectorStore (h : x ∈ vectorStores o) (s : State) : exec x.1 s = vstore x.1 o x.2 s := by
  simp only [vectorStores, List.mem_cons, List.not_mem_nil, or_false] at h
  rcases h with rfl | rfl | rfl <;> rfl

theorem faultFirst_unstrided (h : x ∈ faultFirst o) (s : State) (act : List Nat) : strideBad o s x.2 act = false := by
  simp only [faultFirst, List.mem_cons, List.not_mem_nil, or_false] at h
  rcases h with rfl | rfl <;> rfl

end

section
variable {s : State} {o : Ops} {i : Instr} {f : VForm} {ff : Bool} (hs : Starts s) (hd : HeadReady i [o.T] s.cpu)
include hs hd

theorem vload_vl0 (hvl : s.cpu.vl = 0) : vload i o f ff s = .next (s.retire id) := by
  rw [vload, awaited_starts hs, atHead_pass _ _ _ _ hd, unlessVl0_none _ _ hvl]

theorem vload_stride (hvl : s.cpu.vl ≠ 0) (h : strideBad o s f (activeMem s.cpu o o.mn) = true) :
    vload i o f ff s = .next (queuedTrap s 0x11 (s.srcB o.b)) := by
  rw [vload, awaited_starts hs, atHead_pass _ _ _ _ hd, unlessVl0_pass _ _ hvl]
  exact if_pos h

theorem vload_starts (hvl : s.cpu.vl ≠ 0) (h : strideBad o s f (activeMem s.cpu o o.mn) = false) :
    vload i o f ff s = if o.nb then loadNb o f s else loadBlocking o f ff s := by
  rw [vload, awaited_starts hs, atHead_pass _ _ _ _ hd, unlessVl0_pass _ _ hvl]
  exact if_neg (by simp [h])

variable (hq : (o.releases && earlierPosts s) = false)
include hq

theorem vstore_vl0 (hvl : s.cpu.vl = 0) : vstore i o f s = .next (s.retire id) := by
  rw [vstore, awaited_starts hs, afterPosts_passes hq, atHead_pass _ _ _ _ hd, unlessVl0_none _ _ hvl]

theorem vstore_stride (hvl : s.cpu.vl ≠ 0) (h : strideBad o s f (activeMem s.cpu o o.mn) = true) :
    vstore i o f s = .next (queuedTrap s 0x11 (s.srcB o.b)) := by
  rw [vstore, awaited_starts hs, afterPosts_passes hq, atHead_pass _ _ _ _ hd, unlessVl0_pass _ _ hvl]
  exact if_pos h

theorem vstore_starts (hvl : s.cpu.vl ≠ 0) (h : strideBad o s f (activeMem s.cpu o o.mn) = false) :
    vstore i o f s = if o.nb then storeNbV o f s else storeBlocking o f s := by
  rw [vstore, awaited_starts hs, afterPosts_passes hq, atHead_pass _ _ _ _ hd, unlessVl0_pass _ _ hvl]
  exact if_neg (by simp [h])

end

/-! The elements of a load that a watermark link lets pass (R68). -/

/-- Memory and the queue stay as they are. -/
def QueueKept (s t : State) : Prop := t.mem = s.mem ∧ t.cpu.queue = s.cpu.queue

theorem QueueKept.refl (s : State) : QueueKept s s := ⟨rfl, rfl⟩

theorem QueueKept.trans {s t u : State} (h : QueueKept s t) (k : QueueKept t u) : QueueKept s u := ⟨k.1.trans h.1, k.2.trans h.2⟩

/-- The state that a check of the links leaves. -/
def wmState : WmAnswer → State
  | .pass s => s
  | .stall s => s
  | .fault _ _ s => s

theorem readMem_kept (s : State) (w : Who) (va : Word) (n hint : Nat) (k : AccKind) : QueueKept s (accState (readMem s w va n hint k)) := by
  refine ⟨(readMem_same s w va n hint k).1, congrArg Strand.queue ?_⟩
  have hps := placesOf_cpu s w va n k
  unfold readMem
  cases h : placesOf s w va n k with
  | ok ps s1 =>
    rw [h] at hps
    exact (readPlaces_cpu ..).trans hps
  | fault c t s1 => rwa [h] at hps
  | wait s1 => rwa [h] at hps

theorem subscribe_kept (s : State) (k : TlbKind) (j : Nat) (l : WmLink) : QueueKept s (accState (subscribe s k j l)) := by
  have hread := readMem_kept s (s.who k) l.cell 8 0 .read
  unfold subscribe
  split
  · exact .refl s
  · split <;> next h => rw [h] at hread; exact hread

theorem checkLinks_kept (k : TlbKind) (a : Nat) (l : List WmLink) (s : State) (j : Nat) : QueueKept s (wmState (checkLinks k a s j l)) := by
  induction l generalizing s j with
  | nil => exact .refl s
  | cons x rest ih =>
    have hsub := subscribe_kept s k j x
    unfold checkLinks
    split
    · exact ih s (j + 1)
    · split
      · exact .refl s
      · split
        · next h => rw [h] at hsub; exact hsub
        · next h => rw [h] at hsub; exact hsub
        · next h =>
          rw [h] at hsub
          split
          · exact hsub
          · exact QueueKept.trans hsub (ih _ (j + 1))

theorem passElems_spec (els : List VElem) (s : State) : (passElems s els).1 ⊆ els ∧ QueueKept s (passElems s els).2 := by
  induction els generalizing s with
  | nil => exact ⟨List.Subset.refl _, .refl s⟩
  | cons e rest ih =>
    have hcheck : QueueKept s (wmState (wmCheck s .vector e.va)) := checkLinks_kept ..
    unfold passElems
    split
    · next s1 h =>
      rw [h] at hcheck
      obtain ⟨hsub, hkept⟩ := ih s1
      exact ⟨List.cons_subset_cons e hsub, QueueKept.trans hcheck hkept⟩
    · next s1 h =>
      rw [h] at hcheck
      exact ⟨List.nil_subset _, hcheck⟩
    · exact ⟨List.nil_subset _, .refl s⟩

theorem elemsAway_subset {s : State} {w : Who} {l els : List VElem} (h : l ⊆ els) (he : elemsAway s w els = false) : elemsAway s w l = false := by
  rw [elemsAway, List.any_eq_false] at he ⊢
  exact fun e hl => he e (h hl)

/-! A blocking load reads its elements, or leaves as pieces (R263, R120, R64). -/

section
variable {o : Ops} {els : List VElem} {s s1 s2 : State} {fault : Option (Nat × Nat × Word)} {fin : State → State}

theorem readLoad_done (h : loadElems o (s.who .vector) (requestElems o (s.who .vector) s els) els = (s2, .done)) :
    readLoad o els s fin = fin (dropTouched s2 els) := by
  rw [readLoad]
  simp only [h]

section
variable (haway : elemsAway s1 (s.who .vector) els = false)
include haway

theorem loadSome_near : loadSome o els fault s s1 fin = .next (readStep o els s1 fin) :=
  if_neg (Bool.eq_false_iff.mp (elemsAway_subset (passElems_spec els s1).1 haway))

/-- The last step of a load, or its only one. -/
theorem loadSome_last (hlen : els.length ≤ 64)
    (h : loadElems o (s1.who .vector) (requestElems o (s1.who .vector) s1 els) els = (s2, .done)) :
    loadSome o els fault s s1 fin = .next (fin (dropTouched s2 els)) := by
  have hdrop : els.drop stepElems = [] := List.drop_eq_nil_of_le hlen
  rw [loadSome_near haway, readStep, hdrop]
  exact congrArg _ (readLoad_done h)

/-- A step of a load of more elements. -/
theorem loadSome_step {e : VElem} {more : List VElem} (hdrop : els.drop 64 = e :: more)
    (h : loadElems o (s1.who .vector) (requestElems o (s1.who .vector) s1 (els.take 64)) (els.take 64) = (s2, .done)) :
    loadSome o els fault s s1 fin
      = .next (betweenSteps (atElement (keepReads (dropTouched s2 (els.take 64)) (els.take 64)) e.i) accessPass) := by
  have hdrop' : els.drop stepElems = e :: more := hdrop
  rw [loadSome_near haway, readStep, hdrop']
  exact congrArg _ (readLoad_done h)

end

/-- The instruction at the head of the queue. -/
def headInstr (t : Strand) : Option Instr := t.queue.head?.map (·.instr)

theorem headInstr_onHead (s : State) {f : QEntry → QEntry} (hf : ∀ e, (f e).instr = e.instr) : headInstr (onHead s f).cpu = headInstr s.cpu := by
  cases h : s.cpu.queue with
  | nil => simp [headInstr, onHead, h]
  | cons e rest => simp [headInstr, onHead, h, hf]

/-- A load that leaves waits with its entry at the head, and writes no memory. -/
theorem awaitLoad_spec (whole : Bool) (s : State) :
    (awaitLoad o els fault whole s).cpu.parked = true ∧ (awaitLoad o els fault whole s).mem = s.mem
      ∧ headInstr (awaitLoad o els fault whole s).cpu = headInstr s.cpu := by
  obtain ⟨hcpu, hmem, -⟩ := awaitPieces_spec (keepReads s els) (elemsHs els) none ((loadPieces o els).map (fun x => (leastElem x.2, x)))
  refine ⟨(congrArg Strand.parked hcpu :), hmem.1, ?_⟩
  have hkeep : headInstr (keepReads s els).cpu = headInstr s.cpu := by
    rw [keepReads]
    apply headInstr_onHead
    intro e
    rfl
  have hissue : headInstr (onHead (keepReads s els) (issuedAs (keepReads s els).next (((loadPieces o els).map (fun x => (leastElem x.2, x))).map (·.1)))).cpu
      = headInstr (keepReads s els).cpu := by
    apply headInstr_onHead
    intro e
    rfl
  rw [awaitLoad, headInstr_onHead]
  · exact (congrArg headInstr hcpu).trans (hissue.trans hkeep)
  · intro e
    rfl

theorem loadSome_away (haway : elemsAway s1 (s.who .vector) (passElems s1 els).1 = true) :
    ∃ t, loadSome o els fault s s1 fin = .next t ∧ t.cpu.parked = true ∧ t.mem = s1.mem ∧ headInstr t.cpu = headInstr s1.cpu := by
  obtain ⟨hmem, hqueue⟩ := (passElems_spec els s1).2
  obtain ⟨hparked, hmem', hhead⟩ := awaitLoad_spec (o := o) (els := (passElems s1 els).1)
    (fault := if (passElems s1 els).1.length == els.length then fault else none) ((passElems s1 els).1.length == els.length && fault.isNone) (passElems s1 els).2
  refine ⟨_, if_pos haway, hparked, hmem'.trans hmem, hhead.trans ?_⟩
  rw [headInstr, hqueue, headInstr]

theorem translateLoad_cpu (f : VForm) (s : State) (act : List Nat) : (transState (translateLoad o f s act)).cpu = s.cpu := by
  have hfirst := vTranslate_cpu (s.who .vector) .read (accessBytes o.T) f (vEa o s f) act s
  have hagain : ∀ (els : List VElem) (s1 : State) (x : VTrans), (transState x).cpu = s.cpu → s1.cpu = s.cpu →
      (transState (match staleReads s1 els with
        | [] => x
        | l => vTranslate (s.who .vector) .read (accessBytes o.T) f (vEa o s f) s1 (l.eraseDups ++ act))).cpu = s.cpu := by
    intro els s1 x hx hs1
    split
    · exact hx
    · exact (vTranslate_cpu ..).trans hs1
  unfold translateLoad
  dsimp only
  split
  · next h =>
    rw [h] at hfirst
    exact hagain _ _ _ hfirst hfirst
  · next h =>
    rw [h] at hfirst
    exact hagain _ _ _ hfirst hfirst
  · next h => rwa [h] at hfirst

end

/-! Vector loads that start (R263, R266, R267). -/

section
variable {s s1 s2 : State} {o : Ops} {f : VForm} {ff : Bool} {els : List VElem} {act : List Nat} {k c : Nat} {tv : Word}

theorem loadBlocking_done (h : translateLoad o f s (activeMem s.cpu o o.mn) = .done els s1) :
    loadBlocking o f ff s = loadSome o els none s s1 (fun t => t.retire id) := by
  simp only [loadBlocking, h]

theorem loadBlocking_fault (h : translateLoad o f s (activeMem s.cpu o o.mn) = .fault els k c tv s1) :
    loadBlocking o f ff s = loadSome o els (some (k, c, tv)) s s1 (loadFault ff (activeMem s.cpu o o.mn) (k, c, tv)) := by
  simp only [loadBlocking, h]

theorem loadNb_issues (hc : ccFull s o.ccNo = false) (h : translateLoad o f s (activeMem s.cpu o o.mn) = .done els s1)
    (hpass : checkAll .vector s1 els = .pass s2) :
    loadNb o f s = .next ((issueNb (dropTouched s2 els) o.ccNo (elemsHs els) none (loadPieces o els)).retire id) := by
  simp only [loadNb, hc, h, hpass]
  rfl

/-- R267: a fault-first load trims VL above its lowest active element. -/
theorem loadFault_trims (hlow : 0x11 ≤ c) (hhigh : c ≤ 0x15) (habove : act.head? ≠ some k ∨ started s = true) :
    loadFault true act (k, c, tv) s = s.retire (fun u => { u with vl := k, vfs := u.vfs ||| 1 }) := by
  refine if_pos ?_
  simpa [trims, causeStride, causeNode, hlow, hhigh] using habove

theorem loadFault_traps (h : c < 0x11 ∨ 0x15 < c ∨ (act.head? = some k ∧ started s = false)) :
    loadFault true act (k, c, tv) s = queuedTrap (atElement s k) c tv := by
  refine if_neg fun htrim => ?_
  simp only [trims, causeStride, causeNode, Bool.true_and, Bool.and_eq_true, Bool.or_eq_true, bne_iff_ne] at htrim
  obtain ⟨⟨hlow, hhigh⟩, habove⟩ := htrim
  replace hlow : 0x11 ≤ c := of_decide_eq_true hlow
  replace hhigh : c ≤ 0x15 := of_decide_eq_true hhigh
  rcases h with h | h | ⟨hhead, hstart⟩
  · omega
  · omega
  · simp [hhead, hstart] at habove

end

/-! Vector loads whose pieces have been answered (R263, R120). -/

/-- What the arrival of elements leaves of a strand: its g registers, VL, EW and its queue. -/
def ElemsPut (t u : Strand) : Prop := u.g = t.g ∧ u.vl = t.vl ∧ u.ew = t.ew ∧ u.queue = t.queue

theorem ElemsPut.refl (t : Strand) : ElemsPut t t := ⟨rfl, rfl, rfl, rfl⟩

theorem ElemsPut.trans {t u w : Strand} (h : ElemsPut t u) (k : ElemsPut u w) : ElemsPut t w := by
  obtain ⟨hg, hvl, hew, hq⟩ := h
  obtain ⟨kg, kvl, kew, kq⟩ := k
  exact ⟨kg.trans hg, kvl.trans hvl, kew.trans hew, kq.trans hq⟩

theorem elemsPut_foldl {β : Type} {f : Strand → β → Strand} (hf : ∀ t x, ElemsPut t (f t x)) (l : List β) (t : Strand) : ElemsPut t (l.foldl f t) := by
  induction l generalizing t with
  | nil => exact .refl t
  | cons x rest ih => exact (hf t x).trans (ih (f t x))

theorem writeM_elemsPut (t : Strand) (n i : Nat) (b : Bool) : ElemsPut t (t.writeM n i b) := by
  unfold Strand.writeM
  split <;> exact ⟨rfl, rfl, rfl, rfl⟩

theorem writeV_elemsPut (t : Strand) (r i x : Nat) : ElemsPut t (t.writeV r i x) := ⟨rfl, rfl, rfl, rfl⟩

theorem putElem_elemsPut (t : Strand) (r ty i b : Nat) (bytes : List Byte) : ElemsPut t (putElem t r ty i b bytes) := writeV_elemsPut ..

theorem putParts_elemsPut (t : Strand) (r ty : Nat) (l : List ElemPart) : ElemsPut t (putParts t r ty l) := by
  unfold putParts
  apply elemsPut_foldl
  intro u x
  exact putElem_elemsPut u r ty x.1 x.2.1 x.2.2

theorem markInv_elemsPut (t : Strand) (l : List Nat) : ElemsPut t (markInv t l) := elemsPut_foldl (fun t i => writeM_elemsPut t 8 i false) l t

theorem readV_markInv (t : Strand) (l : List Nat) (r k : Nat) : (markInv t l).readV r k = t.readV r k := by
  induction l generalizing t with
  | nil => rfl
  | cons i rest ih => exact ih _

theorem readV_putElem (t : Strand) (r ty b : Nat) {i k : Nat} (bytes : List Byte) (hi : i < 65536) (hk : k < 65536) (hne : i ≠ k) :
    (putElem t r ty i b bytes).readV r k = t.readV r k :=
  (readV_writeV t r r i k _ hi hk).trans (if_neg fun h => hne h.2.symm)

theorem byteSize_bits {ty : Nat} (h : ty ≤ 12) : 8 * byteSize ty = typeWidth ty := by
  interval_cases ty <;> rfl

/-- A part that is a whole element is its new value. -/
theorem readV_putElem_whole (t : Strand) (r : Nat) {ty i : Nat} {bytes : List Byte} (hty : ty ≤ 12) (hi : i < 65536) (hlen : bytes.length = byteSize ty) :
    (putElem t r ty i 0 bytes).readV r i = extendV t.ew ty (leNat bytes) % 2 ^ t.ew := by
  have hx : low (typeWidth ty) (t.readV r i) / 2 ^ (8 * 0) % 2 ^ (8 * bytes.length) = low (typeWidth ty) (t.readV r i) := by
    rw [hlen, byteSize_bits hty, Nat.mul_zero, Nat.pow_zero, Nat.div_one, low, Nat.mod_mod]
  refine (readV_writeV t r r i i _ hi hi).trans ((if_pos ⟨rfl, rfl⟩).trans ?_)
  rw [hx]
  simp [low]

/-- Parts of other elements leave an element as it is. -/
theorem readV_putElems_other (r ty : Nat) {k : Nat} (hk : k < 65536) {l : List ElemPart} (hl : ∀ y ∈ l, y.1 < 65536) (hne : ∀ y ∈ l, y.1 ≠ k) (t : Strand) :
    (l.foldl (fun u x => putElem u r ty x.1 x.2.1 x.2.2) t).readV r k = t.readV r k := by
  induction l generalizing t with
  | nil => rfl
  | cons y rest ih =>
    obtain ⟨hy, hl⟩ := List.forall_mem_cons.mp hl
    obtain ⟨hyk, hne⟩ := List.forall_mem_cons.mp hne
    exact (ih hl hne _).trans (readV_putElem t r ty y.2.1 y.2.2 hy hk hyk)

/-- An element whose one part is whole receives it. -/
theorem readV_putElems_whole (r : Nat) {ty k : Nat} {bytes : List Byte} (hty : ty ≤ 12) (hlen : bytes.length = byteSize ty) {l : List ElemPart}
    (hl : ∀ y ∈ l, y.1 < 65536) (hone : l.filter (fun y => y.1 = k) = [(k, 0, bytes)]) (t : Strand) :
    (l.foldl (fun u x => putElem u r ty x.1 x.2.1 x.2.2) t).readV r k = extendV t.ew ty (leNat bytes) % 2 ^ t.ew := by
  induction l generalizing t with
  | nil => cases hone
  | cons y rest ih =>
    obtain ⟨hy, hlt⟩ := List.forall_mem_cons.mp hl
    by_cases hyk : y.1 = k
    · rw [List.filter_cons_of_pos (by simpa using hyk), List.cons.injEq] at hone
      obtain ⟨rfl, hnone⟩ := hone
      have hothers : ∀ y ∈ rest, y.1 ≠ k := by simpa [List.filter_eq_nil_iff] using hnone
      exact (readV_putElems_other r ty hy hlt hothers _).trans (readV_putElem_whole t r hty hy hlen)
    · rw [List.filter_cons_of_neg (by simpa using hyk)] at hone
      exact ih hlt hone (putElem t r ty y.1 y.2.1 y.2.2)

theorem readV_putParts (r : Nat) {ty k : Nat} {bytes : List Byte} (hty : ty ≤ 12) (hlen : bytes.length = byteSize ty) {l : List ElemPart}
    (hl : ∀ y ∈ l, y.1 < 65536) (hone : l.filter (fun y => y.1 = k) = [(k, 0, bytes)]) (t : Strand) :
    (putParts t r ty l).readV r k = extendV t.ew ty (leNat bytes) % 2 ^ t.ew := by
  have hwhole : partsWhole ty l k = true := by simp [partsWhole, hone, hlen, byteSize]
  refine readV_putElems_whole r hty hlen (fun y hy => hl y (List.mem_of_mem_filter hy)) ?_ t
  rw [List.filter_comm, hone]
  exact List.filter_cons_of_pos hwhole

/-- R263: what the arrival of the elements below `i` leaves. -/
theorem landBelow_spec (o : Ops) (e : QEntry) (i : Nat) (s : State) : ElemsPut s.cpu (landBelow o e i s).cpu :=
  (putParts_elemsPut s.cpu o.D o.T _).trans (markInv_elemsPut _ _)

/-- R263: an element that arrived in one part holds its bytes. -/
theorem readV_landBelow {o : Ops} {e : QEntry} {k : Nat} {bytes : List Byte} (s : State) (hty : o.T ≤ 12) (hl : ∀ y ∈ e.got, y.1 < 65536)
    (hone : e.got.filter (fun y => y.1 = k) = [(k, 0, bytes)]) (hlen : bytes.length = byteSize o.T) :
    (landBelow o e (2 ^ 64) s).cpu.readV o.D k = extendV s.cpu.ew o.T (leNat bytes) % 2 ^ s.cpu.ew := by
  have hall : e.got.filter (fun x => decide (x.1 < 2 ^ 64)) = e.got := List.filter_eq_self.mpr fun y hy => by
    have := hl y hy
    simp only [decide_eq_true_eq]
    omega
  refine (readV_markInv ..).trans ?_
  rw [hall]
  exact readV_putParts o.D hty hlen hl hone s.cpu

section
variable {o : Ops} {ff : Bool} {e : QEntry} {s : State}

theorem loadDone_completes (hf : e.fails = []) (h : ∀ k ∈ activeMem s.cpu o o.mn, k ∈ e.issued) :
    loadDone o ff e e.fails s = .next ((landBelow o e (2 ^ 64) s).retire id) := by
  have hnone : (activeMem s.cpu o o.mn).filter (fun i => !e.issued.contains i) = [] := by simpa using h
  simp only [loadDone, hf, lowestFail, hnone]

theorem loadDone_traps {k c : Nat} {tv : Word} (hl : lowestFail e.fails = some (k, c, tv)) :
    loadDone o false e e.fails s = .next (queuedTrap (atElement (landBelow o e k s) k) c tv) := by
  simp only [loadDone, hl]
  rfl

end

section
variable {s : State} {o : Ops} {x : Instr × VForm} {e : QEntry} {rest : List QEntry} (hx : x ∈ vectorLoads o) (h : Waits s e rest)
include hx h

theorem vectorLoad_waits (hp : ∃ p ∈ s.pieces, p.op = e.op) : exec x.1 s = .next s.park := by
  obtain ⟨ff, hexec, -⟩ := exec_vectorLoad hx
  rw [hexec, vload]
  exact awaited_waits h hp

theorem vectorLoad_answered (ha : Answered s e) :
    ∃ ff, exec x.1 s = loadDone o (ff && !o.nb) e e.fails (answered s e rest) ∧ (ff = true → x ∈ faultFirst o) := by
  obtain ⟨ff, hexec, hff⟩ := exec_vectorLoad hx
  refine ⟨ff, ?_, hff⟩
  rw [hexec, vload, awaited_answered h ha, h.1]
  rfl

/-- R263: the load completes with what its pieces brought. -/
theorem vectorLoad_completes (ha : Answered s e) (hf : e.fails = []) (hall : ∀ k ∈ activeMem s.cpu o o.mn, k ∈ e.issued) :
    ∃ t, exec x.1 s = .next t ∧ t.mem = s.mem ∧ t.cpu.g = s.cpu.g ∧ t.cpu.vl = s.cpu.vl ∧ t.cpu.vstart = 0 ∧ t.cpu.queue = rest
      ∧ ∀ k bytes, o.T ≤ 12 → (∀ y ∈ e.got, y.1 < 65536) → e.got.filter (fun y => y.1 = k) = [(k, 0, bytes)] → bytes.length = byteSize o.T →
          t.cpu.readV o.D k = extendV s.cpu.ew o.T (leNat bytes) % 2 ^ s.cpu.ew := by
  obtain ⟨ff, hexec, -⟩ := vectorLoad_answered hx h ha
  obtain ⟨hg, hvl, -, hq⟩ := landBelow_spec o e (2 ^ 64) (answered s e rest)
  refine ⟨_, hexec.trans (loadDone_completes hf hall), rfl, hg, hvl, rfl, (congrArg (List.drop 1) hq :), fun k bytes hty hl hone hlen => ?_⟩
  exact readV_landBelow (answered s e rest) hty hl hone hlen

theorem vectorLoad_traps {k c : Nat} {tv : Word} (ha : Answered s e) (hl : lowestFail e.fails = some (k, c, tv))
    (hno : o.nb = true ∨ x.1 = .vld o ∨ x.1 = .vlds o ∨ x.1 = .vldx o) :
    ∃ u, exec x.1 s = .next (queuedTrap u c tv) ∧ u.cpu.vstart = k ∧ u.mem = s.mem := by
  obtain ⟨ff, hexec, hff⟩ := vectorLoad_answered hx h ha
  have hfalse : (ff && !o.nb) = false := by
    rcases hno with hnb | hplain
    · simp [hnb]
    · cases ff with
      | false => rfl
      | true =>
        have hmem := hff rfl
        simp only [faultFirst, List.mem_cons, List.not_mem_nil, or_false] at hmem
        rcases hmem with rfl | rfl <;> simp at hplain
  rw [hfalse] at hexec
  exact ⟨_, hexec.trans (loadDone_traps hl), rfl, rfl⟩

end

/-! What a vector store changes of memory (R264). -/

section
variable {els : List VElem} {a : Nat}

theorem outsideAll_take (n : Nat) (h : outsideAll els a) : outsideAll (els.take n) a := fun e he => h e (List.mem_of_mem_take he)

theorem storeElem_outside (o : Ops) (w : Who) (t : Strand) (s : State) {e : VElem} (h : outside e.places a) :
    memGet (storeElem o w t s e).1.mem a = memGet s.mem a := writePlaces_outside w .store _ e.places s _ h

/-- Elements that each leave a byte leave it together. -/
theorem performAll_outside {f : Perform} {stop : Bool} (hf : ∀ s, ∀ e : VElem, outside e.places a → memGet (f s e).1.mem a = memGet s.mem a)
    (h : outsideAll els a) (x : Performance) : memGet (performAll f stop x els).s.mem a = memGet x.s.mem a := by
  induction els generalizing x with
  | nil => rfl
  | cons e rest ih =>
    obtain ⟨he, hrest⟩ := List.forall_mem_cons.mp h
    have hone := hf x.s e he
    unfold performAll
    split
    · rfl
    · split <;> next hfe =>
        rw [hfe] at hone
        exact (ih hrest _).trans hone

theorem settleBlocks_mem (o : Ops) (t : Strand) (x : Performance) : (settleBlocks o t els x).s.mem = x.s.mem := (validateAll_keeps x.s _).2

theorem performStore_outside (o : Ops) (s s1 : State) (h : outsideAll els a) : memGet (performStore o s els s1).s.mem a = memGet s1.mem a := by
  rw [performStore, settleBlocks_mem]
  exact performAll_outside (fun st _ he => storeElem_outside o (storeWho o s) s.cpu st he) h { s := s1 }

end

/-! The ends of a step of a blocking store (R264, R120, R64). -/

section
variable {x : Performance} {fin : State → State}

theorem settle_completes (h : x.fail = none) : settle x none fin = .next (fin x.s) := by simp only [settle, h]

theorem settle_traps {k : Nat} {st : Status} {tv : Word} (h : x.fail = some (k, st, tv)) :
    settle x none fin = .next (queuedTrap (keepBitmap (atElement x.s k) k x.done) st.cause tv) := by simp only [settle, h]

/-- R64: of elements in rising order the first goes on. -/
theorem goOn_rising {e : VElem} {more : List VElem} (h : ∀ y ∈ more, e.i ≤ y.i) (done : List Nat) (s : State) :
    goOn ((e :: more).map (·.i)) done s = betweenSteps (keepBitmap (atElement s e.i) e.i done) accessPass := by
  obtain ⟨hmem, hle⟩ := foldl_min_spec e.i (more.map (·.i))
  have hmin : (more.map (·.i)).foldl min e.i = e.i := by
    refine le_antisymm (hle _ List.mem_cons_self) ?_
    rcases List.mem_cons.mp hmem with heq | hin
    · exact heq.ge
    · obtain ⟨y, hy, heq⟩ := List.mem_map.mp hin
      exact heq ▸ h y hy
  rw [List.map_cons, goOn, hmin]

end

section
variable {s s1 : State} {o : Ops} {f : VForm} {els : List VElem}

theorem storeElems_near (haway : elemsAway s1 (s.who .vector) els = false) :
    storeElems o s els none s1 = settle (performStore o s (els.take 64) s1) none (goOn ((els.drop 64).map (·.i)) []) := by
  simp only [storeElems, haway, ite_self, Bool.false_eq_true, if_false]
  rfl

/-- The machine in which a store waits for its pieces. -/
theorem awaitElems_spec (s : State) (inOrder : Bool) (fault : Option (Nat × Nat × Word)) (l : List (Nat × Place × PieceOp)) :
    (awaitElems s inOrder els fault l).cpu.parked = true ∧ (awaitElems s inOrder els fault l).mem = s.mem := by
  obtain ⟨hcpu, hmem, -⟩ := awaitPieces_spec s inOrder none l
  exact ⟨(congrArg Strand.parked hcpu :), hmem.1⟩

theorem storeElems_away (haway : elemsAway s1 (s.who .vector) els = true) :
    ∃ t, storeElems o s els none s1 = .next t ∧ t.cpu.parked = true ∧ t.mem = s1.mem := by
  obtain ⟨hparked, hmem⟩ := awaitElems_spec (els := els) (keepWrote o s.cpu els s1) (elemsHs els || bytesShared els) none (storePiecesOf o s1 els)
  exact ⟨_, if_pos haway, hparked, hmem⟩

section
variable (h : vTranslate (s.who .vector) .write (byteSize o.T) f (vEa o s f) s
  ((activeMem s.cpu o o.mn).filter (fun k => !(doneAlready s).contains k)) = .done els s1)
include h

theorem storeBlocking_done : storeBlocking o f s = storeElems o s els none s1 := by
  rw [byteSize] at h
  simp only [storeBlocking, accessBytes, h]

/-- R266: a non-blocking store leaves the queue. -/
theorem storeNbV_issues (hc : ccFull s o.ccNo = false) (hw : wroteSoFar s1 = []) :
    storeNbV o f s = .next ((issueNb s1 o.ccNo (elemsHs els || bytesShared els) none ((storePiecesOf o s1 els).map (·.2))).retire id) := by
  rw [byteSize] at h
  simp only [storeNbV, accessBytes, h, hc, hw]
  rfl

end

/-! Vector stores that wait for their pieces (R120, R362). -/

theorem vectorStore_ends {x : Instr × VForm} (hx : x ∈ vectorStores o) : EndsAsElems x.1 o x.2 := by
  intro s e rest h
  rw [exec_vectorStore hx, vstore, h.1]
  exact ⟨awaited_waits h, awaited_answered h⟩

/-- A store without a failure completes, and validates the blocks that it has written whole (R97). -/
theorem EndsAsElems.completes {i : Instr} (hi : EndsAsElems i o f) {e : QEntry} {rest : List QEntry} (h : Waits s e rest) (ha : Answered s e)
    (hf : e.fails = []) : ∃ t : State, exec i s = .next (t.retire id) ∧ t.mem = s.mem ∧ t.cpu.g = s.cpu.g ∧ t.cpu.v = s.cpu.v := by
  obtain ⟨hcpu, hmem⟩ := validateWrote_keeps (answered s e rest)
  refine ⟨validateWrote (answered s e rest), ((hi s e rest h).2 ha).trans ?_, hmem, (congrArg Strand.g hcpu :), (congrArg Strand.v hcpu :)⟩
  rw [hf]
  rfl

end

/-! VPREF (R268). -/

/-- Memory and everything of the current strand but its prefetch buffer stay as they are. -/
def Prefetches (s t : State) : Prop := t.mem = s.mem ∧ ∃ l, t.cpu = { s.cpu with prefetch := l }

theorem Prefetches.of_cpu {s t : State} (hmem : t.mem = s.mem) (hcpu : t.cpu = s.cpu) : Prefetches s t := ⟨hmem, s.cpu.prefetch, hcpu⟩

theorem Prefetches.trans {s t u : State} (h : Prefetches s t) (k : Prefetches t u) : Prefetches s u := by
  obtain ⟨hmem, l, hl⟩ := h
  obtain ⟨kmem, m, hm⟩ := k
  exact ⟨kmem.trans hmem, m, by rw [hm, hl]⟩

theorem prefetches_foldl {β : Type} {f : State → β → State} (hf : ∀ s x, Prefetches s (f s x)) (l : List β) (s : State) : Prefetches s (l.foldl f s) := by
  induction l generalizing s with
  | nil => exact .of_cpu rfl rfl
  | cons x rest ih => exact (hf s x).trans (ih (f s x))

theorem useHome_prefetches (s : State) (vi rc ha n : Nat) : Prefetches s (useHome s vi rc ha n 0 .read) :=
  .of_cpu (useHome_same ..).1 (Consistency.useHome_cpu ..)

theorem prefetchFrame_prefetches (s : State) (w : Who) (p : Place) (ha n : Nat) : Prefetches s (prefetchFrame s w p ha n) := by
  unfold prefetchFrame
  split
  · exact .of_cpu rfl rfl
  · refine (useHome_prefetches s w.vi p.rc ha n).trans ⟨rfl, ?_⟩
    dsimp only [State.onCpu]
    split <;> exact ⟨_, rfl⟩

theorem prefetchRun_prefetches (s : State) (w : Who) (va : Word) (n : Nat) : Prefetches s (prefetchRun s w va n) := by
  unfold prefetchRun
  split
  · exact .of_cpu rfl rfl
  · exact .of_cpu rfl rfl
  · next p s1 h =>
    have hplace : Prefetches s s1 := .of_cpu (Consistency.mem_of_placeOf h) (Consistency.cpu_of_placeOf h)
    split
    · exact .of_cpu rfl rfl
    · split
      · split
        · exact hplace
        · exact hplace.trans (useHome_prefetches ..)
      · refine hplace.trans ?_
        apply prefetches_foldl
        intro st x
        exact prefetchFrame_prefetches st w p x.1 x.2

theorem vpref_prefetches {s : State} {o : Ops} (h : HeadReady (.vpref o) [o.T] s.cpu) :
    ∃ t, exec (.vpref o) s = .next (t.retire id) ∧ Prefetches s t := by
  change ∃ t, execVpref o s = _ ∧ _
  rw [execVpref, atHead_pass _ _ _ _ h]
  by_cases hvl : s.cpu.vl = 0
  · exact ⟨s, unlessVl0_none _ _ hvl, .of_cpu rfl rfl⟩
  · refine ⟨_, unlessVl0_pass _ _ hvl, ?_⟩
    apply prefetches_foldl
    intro st r
    exact prefetchRun_prefetches st (s.who .vector) r.1 r.2

/-! The turns in which a vector load or store starts or goes on (R263, R264, R266). -/

section
variable {s s1 s2 : State} {o : Ops} {x : Instr × VForm} {els : List VElem} (hs : Starts s) (hd : HeadReady x.1 [o.T] s.cpu) (hvl : s.cpu.vl ≠ 0)
  (hstr : strideBad o s x.2 (activeMem s.cpu o o.mn) = false)
include hs hd hvl hstr

theorem plainLoad_starts (hx : x ∈ plainLoads o) : exec x.1 s = if o.nb then loadNb o x.2 s else loadBlocking o x.2 false s := by
  rw [exec_plainLoad hx, vload_starts hs hd hvl hstr]

theorem vectorLoad_starts (hx : x ∈ vectorLoads o) : ∃ ff, exec x.1 s = if o.nb then loadNb o x.2 s else loadBlocking o x.2 ff s := by
  obtain ⟨ff, hexec, -⟩ := exec_vectorLoad hx
  exact ⟨ff, (hexec s).trans (vload_starts hs hd hvl hstr)⟩

theorem vectorLoad_blocks (hx : x ∈ vectorLoads o) (hnb : o.nb = false) : ∃ ff, exec x.1 s = loadBlocking o x.2 ff s := by
  obtain ⟨ff, hexec⟩ := vectorLoad_starts hs hd hvl hstr hx
  exact ⟨ff, hexec.trans (if_neg (by simp [hnb]))⟩

theorem vectorLoad_done (hx : x ∈ vectorLoads o) (hnb : o.nb = false) (htr : translateLoad o x.2 s (activeMem s.cpu o o.mn) = .done els s1) :
    exec x.1 s = loadSome o els none s s1 (fun t => t.retire id) := by
  obtain ⟨ff, hexec⟩ := vectorLoad_blocks hs hd hvl hstr hx hnb
  exact hexec.trans (loadBlocking_done htr)

/-- R64: a load of more than one step reads its first one, wherever its translation ends. -/
theorem vectorLoad_step (hx : x ∈ vectorLoads o) (hnb : o.nb = false)
    (htr : translateLoad o x.2 s (activeMem s.cpu o o.mn) = .done els s1 ∨ ∃ k c tv, translateLoad o x.2 s (activeMem s.cpu o o.mn) = .fault els k c tv s1) :
    ∃ fault fin, exec x.1 s = loadSome o els fault s s1 fin := by
  obtain ⟨ff, hexec⟩ := vectorLoad_blocks hs hd hvl hstr hx hnb
  rcases htr with htr | ⟨k, c, tv, htr⟩
  · exact ⟨_, _, hexec.trans (loadBlocking_done htr)⟩
  · exact ⟨_, _, hexec.trans (loadBlocking_fault htr)⟩

/-- R263: a load of which packets must reach an element leaves as pieces and waits. -/
theorem vectorLoad_leaves (hx : x ∈ vectorLoads o) (hnb : o.nb = false) (htr : translateLoad o x.2 s (activeMem s.cpu o o.mn) = .done els s1)
    (haway : elemsAway s1 (s.who .vector) (passElems s1 els).1 = true) :
    ∃ t, exec x.1 s = .next t ∧ t.cpu.parked = true ∧ t.mem = s1.mem
      ∧ ∀ e rest, s.cpu.queue = e :: rest → ∃ f, t.cpu.queue.head? = some f ∧ f.instr = e.instr := by
  obtain ⟨t, ht, hparked, hmem, hhead⟩ := loadSome_away (fault := none) (fin := fun t => t.retire id) haway
  refine ⟨t, (vectorLoad_done hs hd hvl hstr hx hnb htr).trans ht, hparked, hmem, fun e rest hq => ?_⟩
  have hcpu := translateLoad_cpu (o := o) x.2 s (activeMem s.cpu o o.mn)
  rw [htr] at hcpu
  rw [show s1.cpu = s.cpu from hcpu, headInstr, headInstr, hq] at hhead
  exact Option.map_eq_some_iff.mp hhead

/-- R266: a non-blocking load leaves the queue with its pieces on their way. -/
theorem vectorLoad_issues (hx : x ∈ vectorLoads o) (hnb : o.nb = true) (hc : ccFull s o.ccNo = false)
    (htr : translateLoad o x.2 s (activeMem s.cpu o o.mn) = .done els s1) (hpass : checkAll .vector s1 els = .pass s2) :
    exec x.1 s = .next ((issueNb (dropTouched s2 els) o.ccNo (elemsHs els) none (loadPieces o els)).retire id) := by
  obtain ⟨ff, hexec⟩ := vectorLoad_starts hs hd hvl hstr hx
  exact hexec.trans ((if_pos hnb).trans (loadNb_issues hc htr hpass))

theorem plainLoad_fault {k c : Nat} {tv : Word} (hx : x ∈ plainLoads o) (hnb : o.nb = false)
    (htr : translateLoad o x.2 s (activeMem s.cpu o o.mn) = .fault els k c tv s1) :
    exec x.1 s = loadSome o els (some (k, c, tv)) s s1 (loadFault false (activeMem s.cpu o o.mn) (k, c, tv)) := by
  rw [plainLoad_starts hs hd hvl hstr hx, if_neg (by simp [hnb]), loadBlocking_fault htr]

section
variable (hq : (o.releases && earlierPosts s) = false) (hx : x ∈ vectorStores o)
include hq hx

theorem vectorStore_starts : exec x.1 s = if o.nb then storeNbV o x.2 s else storeBlocking o x.2 s :=
  (exec_vectorStore hx s).trans (vstore_starts hs hd hq hvl hstr)

variable (htr : vTranslate (s.who .vector) .write (byteSize o.T) x.2 (vEa o s x.2) s
  ((activeMem s.cpu o o.mn).filter (fun k => !(doneAlready s).contains k)) = .done els s1)
include htr

theorem vectorStore_done (hnb : o.nb = false) : exec x.1 s = storeElems o s els none s1 :=
  (vectorStore_starts hs hd hvl hstr hq hx).trans ((if_neg (by simp [hnb])).trans (storeBlocking_done htr))

theorem vectorStore_near (hnb : o.nb = false) (haway : elemsAway s1 (s.who .vector) els = false) :
    exec x.1 s = settle (performStore o s (els.take 64) s1) none (goOn ((els.drop 64).map (·.i)) []) :=
  (vectorStore_done hs hd hvl hstr hq hx htr hnb).trans (storeElems_near haway)

theorem vectorStore_issues (hnb : o.nb = true) (hc : ccFull s o.ccNo = false) (hw : wroteSoFar s1 = []) :
    ∃ t : State, exec x.1 s = .next (t.retire id) ∧ t.mem = s1.mem :=
  ⟨_, (vectorStore_starts hs hd hvl hstr hq hx).trans ((if_pos hnb).trans (storeNbV_issues htr hc hw)), (issueNb_same ..).1⟩

end

end

section
variable {s s1 s2 : State} {o : Ops} {x : Instr × VForm} {els : List VElem} {k c : Nat} {tv : Word} (hs : Starts s) (hd : HeadReady x.1 [o.T] s.cpu)
include hs hd

theorem faultFirst_fault (hvl : s.cpu.vl ≠ 0) (hx : x ∈ faultFirst o) (hnb : o.nb = false)
    (htr : translateLoad o x.2 s (activeMem s.cpu o o.mn) = .fault els k c tv s1) :
    exec x.1 s = loadSome o els (some (k, c, tv)) s s1 (loadFault true (activeMem s.cpu o o.mn) (k, c, tv)) := by
  rw [exec_faultFirst hx, vload_starts hs hd hvl (faultFirst_unstrided hx s _), if_neg (by simp [hnb]), loadBlocking_fault htr]

theorem vectorAccess_vl0 (hx : x ∈ vectorLoads o ++ vectorStores o) (hq : x ∈ vectorStores o → (o.releases && earlierPosts s) = false)
    (hvl : s.cpu.vl = 0) : exec x.1 s = .next (s.retire id) := by
  rcases List.mem_append.mp hx with hx | hx
  · obtain ⟨ff, hexec, -⟩ := exec_vectorLoad hx
    exact (hexec s).trans (vload_vl0 hs hd hvl)
  · exact (exec_vectorStore hx s).trans (vstore_vl0 hs hd (hq hx) hvl)

theorem vectorAccess_stride (hx : x ∈ vectorLoads o ++ vectorStores o) (hq : x ∈ vectorStores o → (o.releases && earlierPosts s) = false)
    (hvl : s.cpu.vl ≠ 0) (h : strideBad o s x.2 (activeMem s.cpu o o.mn) = true) : exec x.1 s = .next (queuedTrap s 0x11 (s.srcB o.b)) := by
  rcases List.mem_append.mp hx with hx | hx
  · obtain ⟨ff, hexec, -⟩ := exec_vectorLoad hx
    exact (hexec s).trans (vload_stride hs hd hvl h)
  · exact (exec_vectorStore hx s).trans (vstore_stride hs hd (hq hx) hvl h)

end

/-- R155: a store of release order waits for every earlier blocking scalar store. -/
theorem vectorStore_releases {s : State} {o : Ops} {x : Instr × VForm} (hx : x ∈ vectorStores o) (hs : Starts s)
    (hq : (o.releases && earlierPosts s) = true) : exec x.1 s = .next s.park := by
  rw [exec_vectorStore hx, vstore, awaited_starts hs]
  exact if_pos hq

/-- Settles O47, by the turns of an access: it starts, goes on, or its pieces have ended. -/
theorem vectorMemoryCompletes : Obligations.VectorMemoryCompletes := by
  intro s s1 s2 o els
  refine ⟨fun k => ⟨vEa_unit o s k, vEa_strided o s k, vEa_indexed o s k⟩, fun x hx hs hq => vectorStore_releases hx hs hq,
    fun x hx hs hd hq => ⟨vectorAccess_vl0 hs hd hx hq, vectorAccess_stride hs hd hx hq⟩, ?_, ?_, ?_, ?_, ?_, ?_, ?_, ?_⟩
  · intro x hx hs hd hvl hstr htr
    exact ⟨fun hnb hlen haway hload => (vectorLoad_done hs hd hvl hstr hx hnb htr).trans (loadSome_last haway hlen hload),
      fun hnb haway => vectorLoad_leaves hs hd hvl hstr hx hnb htr haway, fun hnb hc hpass => vectorLoad_issues hs hd hvl hstr hx hnb hc htr hpass⟩
  · intro x hx e more hs hd hvl hstr hnb htr hdrop haway hload
    obtain ⟨fault, fin, hexec⟩ := vectorLoad_step hs hd hvl hstr hx hnb htr
    exact hexec.trans (loadSome_step haway hdrop hload)
  · intro x hx k c tv hs hd hvl hnb htr hlen haway hload
    have hexec := (faultFirst_fault hs hd hvl hx hnb htr).trans (loadSome_last haway hlen hload)
    exact ⟨fun hlow hhigh habove => hexec.trans (congrArg _ (loadFault_trims hlow hhigh habove)),
      fun hno => hexec.trans (congrArg _ (loadFault_traps hno))⟩
  · intro x hx k c tv hs hd hvl hnb hstr htr hlen haway hload
    exact (plainLoad_fault hs hd hvl hstr hx hnb htr).trans (loadSome_last haway hlen hload)
  · intro x hx e rest h
    exact ⟨vectorLoad_waits hx h, vectorLoad_completes hx h, fun k c tv ha hl hno => vectorLoad_traps hx h ha hl hno⟩
  · intro x hx e rest h
    have hends := vectorStore_ends hx
    obtain ⟨hwait, hdone, htrap⟩ := hends.outcomes h
    exact ⟨hwait, hdone, hends.completes h, htrap⟩
  · intro x hx hs hd hvl hstr hq
    refine ⟨fun hnb htr => ?_, fun hnb hc htr hw => vectorStore_issues hs hd hvl hstr hq hx htr hnb hc hw⟩
    have hnear := vectorStore_near hs hd hvl hstr hq hx htr hnb
    refine ⟨fun a ha => performStore_outside o s s1 (outsideAll_take 64 ha), fun haway hfail hlen => ?_, fun e more haway hfail hdrop hrise => ?_,
      fun haway k st tv hfail => (hnear haway).trans (settle_traps hfail), fun haway => ?_⟩
    · rw [hnear haway, settle_completes hfail, List.drop_eq_nil_of_le hlen]
      rfl
    · rw [hnear haway, settle_completes hfail, hdrop, goOn_rising hrise]
    · obtain ⟨t, ht, hparked, hmem⟩ := storeElems_away (o := o) haway
      exact ⟨t, (vectorStore_done hs hd hvl hstr hq hx htr hnb).trans ht, hparked, hmem⟩
  · intro h
    obtain ⟨t, hexec, hmem, l, hcpu⟩ := vpref_prefetches h
    refine ⟨t.retire id, hexec, hmem, ?_⟩
    simp [hcpu]

end Sys2Proof.Proofs.VectorMemory

/-! The obligations of spec/19_matrix.md: the matrix instructions on tiles (R276 to R287), VDOTV (R288 to R294) and the top-k instructions (R295 to
R301). -/

namespace Sys2Proof.Proofs.Matrix

open Sys2Proof Sys2Proof.Machine Sys2Proof.Safety Sys2Proof.Claims Sys2Proof.Laws
open Sys2Proof.Proofs.Numbers (mem_activeList_iff putAll_keeps)
open Sys2Proof.Proofs.Vector (elementwise_of_vectorOp vectorOp_completes)
open Sys2Proof.Proofs.VectorMemory (afterPosts_passes ltVal_iff)

/-! Checks at the head of the queue (R278). -/

section Head

variable {i : Instr} {tile typed : Option Nat} {types : List Nat} {s : State}

theorem matrixHead_pass (h : TileReady i tile typed s.cpu) (ht : ∀ t ∈ types, typeWidth t ≤ s.cpu.ew) (k : Out) :
    matrixHead i tile types typed s k = k := by
  have hwide : types.any (fun t => decide (s.cpu.ew < typeWidth t)) = false := by
    simpa using ht
  have hheld : ∀ n, tile = some n → (!s.cpu.held.getLsbD n) = false := fun n hn => by rw [h.held n hn, Bool.not_true]
  have hshape : ∀ ty, typed = some ty → (s.cpu.ttype == 15 || s.cpu.ttype != ty || decide (tileColumns s.cpu.ttype < s.cpu.tn)) = false := by
    intro ty hsome
    obtain ⟨rfl, hnone, hfits⟩ := h.shape ty hsome
    simp [hnone, hfits]
  simp only [matrixHead, h.registers, hwide, h.enabled, h.sources, Bool.false_eq_true, Bool.false_or, if_false]
  cases tile <;> cases typed <;> simp [hheld, hshape]

/-- R284: the checks of TRD and TWR. -/
theorem lineHead_pass {o : Ops} {n : Nat} {read : Bool} (h : TileReady i (some n) none s.cpu) (ht : typeWidth o.T ≤ s.cpu.ew) (hshape : s.cpu.ttype ≠ 15)
    (hfits : s.cpu.tn ≤ tileColumns s.cpu.ttype) (hpair : tilePairs read s.cpu.ttype o.T = true) (k : Out) :
    lineHead i o n read s k = unlessVl0 s k := by
  rw [lineHead, matrixHead_pass h (by simpa using ht), if_neg (by simp [hshape, hfits, hpair])]

end Head

/-! Bytes of tiles (R281). -/

/-- What a tile byte reads after bytes have been put at an offset. -/
theorem tileByte_fillOwn (u : Strand) (off a : Nat) (bytes : List Byte) :
    tileByte (fillOwn u .tile off bytes) a = if off ≤ a ∧ a < off + bytes.length then bytes.getD (a - off) 0 else tileByte u a := by
  suffices h : ∀ (l : List Byte) (k : Nat) (v : Strand), tileByte ((l.zipIdx k).foldl (fun u x => putOwnByte u .tile (off + x.2) x.1) v) a
      = if off + k ≤ a ∧ a < off + k + l.length then l.getD (a - (off + k)) 0 else tileByte v a from h bytes 0 u
  intro l
  induction l with
  | nil => intro k v; simp [show ¬ (off + k ≤ a ∧ a < off + k) by omega]
  | cons b rest ih =>
    intro k v
    have hput : tileByte (putOwnByte v .tile (off + k) b) a = if a = off + k then b else tileByte v a := cellGet_cellSet 0 v.tiles (off + k) a b
    rw [List.zipIdx_cons, List.foldl_cons, ih, hput, List.length_cons]
    by_cases ha : a = off + k
    · simp [ha, show ¬ (off + (k + 1) ≤ off + k) by omega]
    · by_cases hin : off + k ≤ a ∧ a < off + k + (rest.length + 1)
      · rw [if_pos hin, if_pos (by omega), show a - (off + k) = a - (off + (k + 1)) + 1 by omega, List.getD_cons_succ]
      · rw [if_neg hin, if_neg (by omega), if_neg ha]

/-- Bytes put into a tile change the tiles alone. -/
theorem fillOwn_tile_eq (off : Nat) (bytes : List Byte) (u : Strand) : ∃ tiles, fillOwn u .tile off bytes = { u with tiles := tiles } := by
  suffices h : ∀ (l : List (Byte × Nat)) (v : Strand), ∃ tiles, l.foldl (fun u x => putOwnByte u .tile (off + x.2) x.1) v = { v with tiles := tiles } from h _ u
  intro l
  induction l with
  | nil => exact fun v => ⟨_, rfl⟩
  | cons x rest ih =>
    intro v
    obtain ⟨tiles, h⟩ := ih (putOwnByte v .tile (off + x.2) x.1)
    exact ⟨tiles, h⟩

theorem tileRead_congr {u v : Strand} {off n : Nat} (h : ∀ j, j < n → tileByte v (off + j) = tileByte u (off + j)) : tileRead v off n = tileRead u off n := by
  unfold tileRead
  exact congrArg leNat (List.map_congr_left fun j hj => h j (List.mem_range.mp hj))

/-- What an accumulator reads depends on the tiles alone. -/
theorem accGet_of_tiles {u v : Strand} (h : v.tiles = u.tiles) (tile t r c : Nat) : accGet v tile t r c = accGet u tile t r c :=
  tileRead_congr fun _ _ => by rw [tileByte, h, tileByte]

/-- A range of tile bytes that holds some bytes reads as their value. -/
theorem tileRead_of_bytes {v : Strand} {off : Nat} {bytes : List Byte} (h : ∀ j, j < bytes.length → tileByte v (off + j) = bytes.getD j 0) :
    tileRead v off bytes.length = leNat bytes := by
  unfold tileRead
  congr 1
  refine List.ext_getElem (by simp) fun j _ hj => ?_
  simp [h j hj, hj]

/-! Accumulators (R276, R281). -/

/-- An accumulator written changes the tile's bytes and marks of poison, nothing else of the strand. -/
theorem accPut_eq (u : Strand) (tile t r c x : Nat) :
    ∃ p h, accPut u tile t r c x = { fillOwn u .tile (accAt tile t r c) (leBytes (accBytes t) x) with poison := p, healed := h } := by
  unfold accPut
  dsimp only
  split
  · unfold healHalf
    dsimp only
    split
    · exact ⟨_, _, rfl⟩
    · split <;> exact ⟨_, _, rfl⟩
  · exact ⟨_, _, rfl⟩

theorem accPut_frame (u : Strand) (tile t r c x : Nat) : ∃ tiles p h, accPut u tile t r c x = { u with tiles := tiles, poison := p, healed := h } := by
  obtain ⟨p, h, heq⟩ := accPut_eq u tile t r c x
  obtain ⟨tiles, hfill⟩ := fillOwn_tile_eq (accAt tile t r c) (leBytes (accBytes t) x) u
  exact ⟨tiles, p, h, by rw [heq, hfill]⟩

@[simp] theorem accPut_g (u : Strand) (tile t r c x : Nat) : (accPut u tile t r c x).g = u.g := by
  obtain ⟨_, _, _, heq⟩ := accPut_frame u tile t r c x
  rw [heq]

@[simp] theorem accPut_v (u : Strand) (tile t r c x : Nat) : (accPut u tile t r c x).v = u.v := by
  obtain ⟨_, _, _, heq⟩ := accPut_frame u tile t r c x
  rw [heq]

theorem tileByte_accPut (u : Strand) (tile t r c x a : Nat) :
    tileByte (accPut u tile t r c x) a =
      if accAt tile t r c ≤ a ∧ a < accAt tile t r c + accBytes t then (leBytes (accBytes t) x).getD (a - accAt tile t r c) 0 else tileByte u a := by
  obtain ⟨p, h, heq⟩ := accPut_eq u tile t r c x
  have hfill := tileByte_fillOwn u (accAt tile t r c) a (leBytes (accBytes t) x)
  rw [leBytes_length] at hfill
  rw [heq]
  exact hfill

/-- R276: the columns of a row fill its 1024 bytes. -/
theorem accBytes_tileColumns (t : Nat) :
    (accBytes t = 4 ∧ tileColumns t = 256) ∨ (accBytes t = 8 ∧ tileColumns t = 128) ∨ (accBytes t = 16 ∧ tileColumns t = 64) := by
  unfold accBytes tileColumns
  split
  · exact .inr (.inl ⟨rfl, rfl⟩)
  · split
    · exact .inr (.inr ⟨rfl, rfl⟩)
    · exact .inl ⟨rfl, rfl⟩

section Cells

variable {tile t r c r' c' : Nat} (hc : c < tileColumns t)
include hc

/-- The accumulators of a tile lie side by side. -/
theorem accAt_apart (hc' : c' < tileColumns t) {j : Nat} (hj : j < accBytes t) :
    accAt tile t r c ≤ accAt tile t r' c' + j ∧ accAt tile t r' c' + j < accAt tile t r c + accBytes t ↔ r' = r ∧ c' = c := by
  unfold accAt
  obtain ⟨hb, hn⟩ | ⟨hb, hn⟩ | ⟨hb, hn⟩ := accBytes_tileColumns t <;> simp only [hb, hn] at * <;> omega

/-- What an accumulator reads after one has been written. -/
theorem accGet_accPut (hc' : c' < tileColumns t) (u : Strand) (x : Nat) :
    accGet (accPut u tile t r c x) tile t r' c' = if r' = r ∧ c' = c then x % 2 ^ (8 * accBytes t) else accGet u tile t r' c' := by
  split
  · next h =>
    obtain ⟨rfl, rfl⟩ := h
    have hread := tileRead_of_bytes (v := accPut u tile t r' c' x) (off := accAt tile t r' c') (bytes := leBytes (accBytes t) x) (fun j hj => by
      rw [leBytes_length] at hj
      rw [tileByte_accPut, if_pos (by omega), Nat.add_sub_cancel_left])
    rw [leBytes_length, leNat_leBytes] at hread
    rw [accGet, hread, Nat.pow_mul]
  · next h =>
    refine tileRead_congr fun j hj => ?_
    rw [tileByte_accPut, if_neg (mt (accAt_apart hc hc' hj).mp h)]

/-- An accumulator lies within its tile. -/
theorem tileByte_accPut_other (hr : r < 64) (u : Strand) (x : Nat) {a : Nat} (ha : a / 65536 ≠ tile) :
    tileByte (accPut u tile t r c x) a = tileByte u a := by
  rw [tileByte_accPut, if_neg]
  unfold accAt
  obtain ⟨hb, hn⟩ | ⟨hb, hn⟩ | ⟨hb, hn⟩ := accBytes_tileColumns t <;> simp only [hb, hn] at * <;> omega

end Cells

/-! TSHAPE and TZERO (R279, R280). -/

theorem tshape_completes {s : State} {o : Ops} (h : TileReady (.tshape o) none none s.cpu) :
    exec (.tshape o) s = .next (s.retireKeep (fun t =>
      ({ t with ttype := o.T, tm := max 1 (min (s.srcG o.A).toNat 64), tn := max 1 (min (s.srcB o.b).toNat (tileColumns o.T)),
                tk := max 1 (min (s.srcG o.C).toNat 16777215), trow := 0 } : Strand).writeG o.D
        (BitVec.ofNat 64 (max 1 (min (s.srcG o.A).toNat 64) + max 1 (min (s.srcB o.b).toNat (tileColumns o.T)) * 2 ^ 16
          + max 1 (min (s.srcG o.C).toNat 16777215) * 2 ^ 32)))) := by
  change execTshape o s = _
  exact matrixHead_pass h (List.forall_mem_nil _) _

/-- A table of which the entries at some numbers are kept. -/
theorem cellGet_filter {α : Type} (d : α) (p : Nat → Bool) (c : Cells α) (n : Nat) : cellGet d (c.filter (fun x => p x.1)) n = if p n then cellGet d c n else d := by
  induction c with
  | nil => simp [cellGet]
  | cons x rest ih =>
    obtain ⟨k, v⟩ := x
    by_cases hk : k = n
    · subst hk
      by_cases hp : p k = true <;> simp [hp, cellGet, ih]
    · by_cases hp : p k = true <;> simp [hp, cellGet, ih, hk]

theorem tzero_completes {s : State} {o : Ops} (h : TileReady (.tzero o) (some o.D) none s.cpu) : ∃ t, exec (.tzero o) s = .next t
    ∧ (∀ a, a / 65536 = o.D → tileByte t.cpu a = 0) ∧ (∀ a, a / 65536 ≠ o.D → tileByte t.cpu a = tileByte s.cpu a)
    ∧ t.mem = s.mem ∧ t.cpu.g = s.cpu.g ∧ t.cpu.v = s.cpu.v ∧ t.cpu.trow = s.cpu.trow := by
  have hread := cellGet_filter (0 : Byte) (fun a => decide (a / 65536 ≠ o.D)) s.cpu.tiles
  have hexec : execTzero o s = _ := matrixHead_pass h (List.forall_mem_nil _) _
  exact ⟨_, hexec, fun a ha => (hread a).trans (if_neg (by simp [ha])), fun a ha => (hread a).trans (if_pos (by simp [ha])), rfl, rfl, rfl, rfl⟩

/-! TMAC (R285, R286). -/

/-- R286: the accumulator of one cell and what it leaves beside it. -/
def accumulate (tile t rm : Nat) (a b : List Nat) (u : Strand) (x : Nat × Nat) : Strand :=
  let r := accStep t rm (accGet u tile t x.1 x.2) (a.getD x.1 0) (b.getD x.2 0)
  let v := (accPut u tile t x.1 x.2 r.1).orFlags r.2.1
  { v with sat := v.sat || r.2.2 }

theorem tmacApply_eq (tile t rm : Nat) (a b : List Nat) (u : Strand) :
    tmacApply tile t rm a b u = (shapeCells a.length b.length).foldl (accumulate tile t rm a b) u := rfl

theorem mem_shapeCells {m n r c : Nat} : (r, c) ∈ shapeCells m n ↔ r < m ∧ c < n := by
  unfold shapeCells
  simp

theorem nodup_shapeCells (m n : Nat) : (shapeCells m n).Nodup :=
  List.nodup_range.product List.nodup_range

section Accumulate

variable {tile t rm : Nat} {a b : List Nat}

theorem accumulate_frame (u : Strand) (x : Nat × Nat) : ∃ tiles p h f sat,
    accumulate tile t rm a b u x = { u with tiles := tiles, poison := p, healed := h, fpflags := f, sat := sat } := by
  obtain ⟨tiles, p, h, heq⟩ := accPut_frame u tile t x.1 x.2 (accStep t rm (accGet u tile t x.1 x.2) (a.getD x.1 0) (b.getD x.2 0)).1
  unfold accumulate
  simp only [heq]
  exact ⟨tiles, p, h, _, _, rfl⟩

/-- R286: an accumulation changes the tiles and marks of poison, FPFLAGS and the saturation mark. -/
theorem foldl_accumulate_frame (l : List (Nat × Nat)) : ∀ u : Strand, ∃ tiles p h f sat,
    l.foldl (accumulate tile t rm a b) u = { u with tiles := tiles, poison := p, healed := h, fpflags := f, sat := sat } := by
  induction l with
  | nil => exact fun u => ⟨_, _, _, _, _, rfl⟩
  | cons x rest ih =>
    intro u
    obtain ⟨_, _, _, _, _, hx⟩ := accumulate_frame (tile := tile) (t := t) (rm := rm) (a := a) (b := b) u x
    obtain ⟨tiles, p, h, f, sat, hrest⟩ := ih (accumulate tile t rm a b u x)
    exact ⟨tiles, p, h, f, sat, by rw [List.foldl_cons, hrest, hx]⟩

theorem accGet_accumulate {r c : Nat} (hc : c < tileColumns t) {x : Nat × Nat} (hx : x.2 < tileColumns t) (u : Strand) :
    accGet (accumulate tile t rm a b u x) tile t r c =
      if (r, c) = x then (accStep t rm (accGet u tile t r c) (a.getD r 0) (b.getD c 0)).1 % 2 ^ (8 * accBytes t) else accGet u tile t r c := by
  have hput := accGet_accPut (tile := tile) (r := x.1) (r' := r) hx hc u (accStep t rm (accGet u tile t x.1 x.2) (a.getD x.1 0) (b.getD x.2 0)).1
  refine hput.trans ?_
  by_cases h : (r, c) = x
  · subst h
    simp
  · rw [if_neg h, if_neg (fun hrc => h (Prod.ext hrc.1 hrc.2))]

/-- R286: each cell of the list takes its product once, and reads its accumulator as it was before. -/
theorem accGet_foldl_accumulate {r c : Nat} (hc : c < tileColumns t) {l : List (Nat × Nat)} (hl : ∀ x ∈ l, x.2 < tileColumns t) (hnodup : l.Nodup) :
    ∀ u, accGet (l.foldl (accumulate tile t rm a b) u) tile t r c =
      if (r, c) ∈ l then (accStep t rm (accGet u tile t r c) (a.getD r 0) (b.getD c 0)).1 % 2 ^ (8 * accBytes t) else accGet u tile t r c := by
  induction l with
  | nil => intro u; simp
  | cons x rest ih =>
    intro u
    obtain ⟨hx, hrest⟩ := List.forall_mem_cons.mp hl
    obtain ⟨hnot, hnodup⟩ := List.nodup_cons.mp hnodup
    rw [List.foldl_cons, ih hrest hnodup, accGet_accumulate hc hx]
    by_cases h : (r, c) = x
    · subst h
      simp [hnot]
    · simp [h]

theorem tileByte_foldl_accumulate {l : List (Nat × Nat)} (hl : ∀ x ∈ l, x.1 < 64 ∧ x.2 < tileColumns t) {k : Nat} (hk : k / 65536 ≠ tile) :
    ∀ u, tileByte (l.foldl (accumulate tile t rm a b) u) k = tileByte u k := by
  induction l with
  | nil => exact fun u => rfl
  | cons x rest ih =>
    intro u
    obtain ⟨⟨hr, hc⟩, hrest⟩ := List.forall_mem_cons.mp hl
    exact (ih hrest _).trans (tileByte_accPut_other hc hr u _ hk)

end Accumulate

/-- R286: one step of a TMAC adds to each accumulator of its operands' cells, and leaves the others. -/
theorem tmacApply_accumulates (u : Strand) (tile t rm : Nat) {a b : List Nat} (ha : a.length ≤ 64) (hb : b.length ≤ tileColumns t) :
    let v := tmacApply tile t rm a b u
    (∀ r c, r < a.length → c < b.length →
        accGet v tile t r c = (accStep t rm (accGet u tile t r c) (a.getD r 0) (b.getD c 0)).1 % 2 ^ (8 * accBytes t))
      ∧ (∀ r c, r < 64 → c < tileColumns t → ¬ (r < a.length ∧ c < b.length) → accGet v tile t r c = accGet u tile t r c)
      ∧ (∀ x, x / 65536 ≠ tile → tileByte v x = tileByte u x) ∧ v.g = u.g ∧ v.v = u.v ∧ v.tm = u.tm ∧ v.trow = u.trow := by
  have hcells : ∀ x ∈ shapeCells a.length b.length, x.1 < 64 ∧ x.2 < tileColumns t := fun x hx =>
    ⟨(mem_shapeCells.mp hx).1.trans_le ha, (mem_shapeCells.mp hx).2.trans_le hb⟩
  have hget : ∀ r c, c < tileColumns t → accGet (tmacApply tile t rm a b u) tile t r c = _ := fun r c hc =>
    accGet_foldl_accumulate hc (fun x hx => (hcells x hx).2) (nodup_shapeCells _ _) u
  obtain ⟨tiles, p, h, f, sat, hframe⟩ := foldl_accumulate_frame (tile := tile) (t := t) (rm := rm) (a := a) (b := b) (shapeCells a.length b.length) u
  refine ⟨fun r c hr hc => ?_, fun r c _ hc hout => ?_, fun x hx => tileByte_foldl_accumulate hcells hx u, ?_⟩
  · rw [hget r c (hc.trans_le hb), if_pos (mem_shapeCells.mpr ⟨hr, hc⟩)]
  · rw [hget r c hc, if_neg (mt mem_shapeCells.mp hout)]
  · rw [tmacApply_eq, hframe]
    exact ⟨rfl, rfl, rfl, rfl⟩

/-- R286, R64: steps that all accumulate end the instruction or its turn. -/
theorem tmacSteps_of_accumulates {o : Ops} {x y : Lines} {n k : Nat} {s t : State} (h : Accumulates o x y n k s t) :
    tmacSteps o (o.D % 4) x y n k s =
      if t.cpu.tk ≤ k + n then .next ((atRow t 0).retireKeep id) else .next (betweenSteps (atRow t (k + n)) accessPass) := by
  induction h with
  | done k s => rfl
  | step n k s s1 t got hread habn _ ih =>
    rw [tmacSteps, hread]
    dsimp only
    rw [habn]
    dsimp only
    rw [ih, Nat.add_assoc, Nat.add_comm 1 n]

theorem tmac_none_left {s : State} {o : Ops} (h : TileReady (.tmac o) (some (o.D % 4)) (some o.T) s.cpu) (hk : s.cpu.tk ≤ s.cpu.trow) :
    exec (.tmac o) s = .next ((atRow s 0).retireKeep id) := by
  change execTmac o s = _
  exact (matrixHead_pass h (List.forall_mem_nil _) _).trans (if_pos hk)

theorem tmac_runs {s : State} {o : Ops} (h : TileReady (.tmac o) (some (o.D % 4)) (some o.T) s.cpu) (hk : s.cpu.trow < s.cpu.tk)
    (hoa : (tmacLines o s).1.outside s.cpu.trow (s.cpu.tk - 1) = false) (hob : (tmacLines o s).2.outside s.cpu.trow (s.cpu.tk - 1) = false)
    (hma : (tmacLines o s).1.misalignedAt (tmacLines o s).1.size s.cpu.trow (s.cpu.tk - 1) = none)
    (hmb : (tmacLines o s).2.misalignedAt (tmacLines o s).2.size s.cpu.trow (s.cpu.tk - 1) = none)
    (hp : tilePoisoned s.cpu (o.D % 4) s.cpu.tm (s.cpu.tn * accBytes o.T) = none) :
    exec (.tmac o) s = tmacSteps o (o.D % 4) (tmacLines o s).1 (tmacLines o s).2 (min 16 (s.cpu.tk - s.cpu.trow)) s.cpu.trow s := by
  change execTmac o s = _
  refine (matrixHead_pass h (List.forall_mem_nil _) _).trans ?_
  rw [if_neg (not_le.mpr hk)]
  simp only [hoa, hob, hma, hmb, hp, matrixSteps, Bool.false_eq_true, if_false]

/-! TLDACC and TSTACC (R282, R283). -/

section Moves

variable {i : Instr} {s : State} {o : Ops} {n : Nat} {k : Lines → Out} (h : TileReady i (some o.D) (some o.T) s.cpu)
include h

theorem tileMove_none_left (hr : s.cpu.tm ≤ s.cpu.trow) : tileMove i o s n k = .next ((atRow s 0).retireKeep id) := by
  rw [tileMove, matrixHead_pass h (List.forall_mem_nil _), if_pos hr]

theorem tileMove_runs (hr : s.cpu.trow < s.cpu.tm) (ho : (tileLines o s n).outside s.cpu.trow (s.cpu.tm - 1) = false)
    (hm : (tileLines o s n).misalignedAt (min n 8) s.cpu.trow (s.cpu.tm - 1) = none) : tileMove i o s n k = k (tileLines o s n) := by
  rw [tileMove, matrixHead_pass h (List.forall_mem_nil _), if_neg (not_le.mpr hr)]
  simp only [ho, hm, Bool.false_eq_true, if_false]

end Moves

theorem loadRows_of_rowsLoad {o : Ops} {x : Lines} {n r : Nat} {s t : State} (h : RowsLoad o x n r s t) :
    loadRows o x n r s = .next ((atRow t 0).retireKeep id) := by
  induction h with
  | done r s => rfl
  | row n r s s1 t got hread _ ih =>
    rw [loadRows, hread]
    exact ih

/-- The converted accumulators of a row that holds no ABN. -/
theorem stored_values {f : Nat → Option (Nat × Flags)} {cols : List Nat} {vals : List (Nat × Flags)} (h : cols.map f = vals.map some) :
    cols.find? (fun c => (f c).isNone) = none ∧ cols.map (fun c => (f c).getD (0, flagNone)) = vals := by
  have hsome : ∀ c ∈ cols, ∃ v, some v = f c := fun c hc => by
    have hmem : f c ∈ vals.map some := h ▸ List.mem_map_of_mem hc
    obtain ⟨v, -, hv⟩ := List.mem_map.mp hmem
    exact ⟨v, hv⟩
  constructor
  · refine List.find?_eq_none.mpr fun c hc => ?_
    obtain ⟨v, hv⟩ := hsome c hc
    simp [← hv]
  · calc cols.map (fun c => (f c).getD (0, flagNone)) = (cols.map f).map (fun v => v.getD (0, flagNone)) := by rw [List.map_map]; rfl
      _ = vals := by rw [h, List.map_map]; exact List.map_id _

theorem storeRows_of_rowsStore {o : Ops} {x : Lines} {n r : Nat} {s t : State} (h : RowsStore o x n r s t) :
    storeRows o x n r s = .next ((atRow t 0).retireKeep id) := by
  induction h with
  | done r s => rfl
  | row n r s s1 s2 t ps vals hplaces hpending hpoison hvals hwrite _ ih =>
    obtain ⟨hnone, hmap⟩ := stored_values hvals
    rw [storeRows]
    simp only [hplaces, hpending, hpoison, hnone, hmap, hwrite, Bool.false_eq_true, if_false]
    exact ih

/-! TRD and TWR (R284). -/

section LineHead

variable {i : Instr} {s : State} {o : Ops} {n : Nat} {read : Bool}

theorem headReady_of_tileReady (h : TileReady i (some n) none s.cpu) (ht : typeWidth o.T ≤ s.cpu.ew) : HeadReady i [o.T] s.cpu :=
  ⟨h.registers, by simp [ht], h.sources⟩

variable (h : TileReady i (some n) none s.cpu) (ht : typeWidth o.T ≤ s.cpu.ew) (hshape : s.cpu.ttype ≠ 15) (hfits : s.cpu.tn ≤ tileColumns s.cpu.ttype)
  (hpair : tilePairs read s.cpu.ttype o.T = true)
include h ht hshape hfits hpair

/-- R284: a line of a tile goes through the elements of a vector instruction. -/
theorem lineHead_vectorOp (f : Nat → Elem) (w : Strand → Nat → Nat → Strand) :
    lineHead i o n read s (runElems s (activeList s.cpu o false) f w id) = vectorOp i o [o.T] false s f w := by
  rw [lineHead_pass h ht hshape hfits hpair, vectorOp, atHead_pass _ _ _ _ (headReady_of_tileReady h ht)]

end LineHead

/-- The value that TRD gives element `k`. -/
def readLine (o : Ops) (s : State) (k : Nat) : Elem :=
  match lineCell o s.cpu.ttype (s.srcB o.b).toNat k with
  | some c => trdValue s.cpu.ttype o.T s.srcRm (accGet s.cpu o.A s.cpu.ttype c.1 c.2)
  | none => { val := 0 }

theorem execTrd_eq {s : State} {o : Ops} (hpoison : linePoison s.cpu o o.A (s.srcB o.b).toNat = none) :
    execTrd o s = lineHead (.trd o) o o.A true s (runElems s (activeList s.cpu o false) (readLine o s) (putV o) id) := by
  unfold execTrd
  simp only [hpoison]
  refine congrArg (fun f => lineHead (.trd o) o o.A true s (runElems s (activeList s.cpu o false) f (putV o) id)) (funext fun i => ?_)
  unfold readLine
  cases lineCell o s.cpu.ttype (s.srcB o.b).toNat i <;> rfl

theorem trd_elementwise {s : State} {o : Ops} (h : TileReady (.trd o) (some o.A) none s.cpu) (ht : typeWidth o.T ≤ s.cpu.ew) (hshape : s.cpu.ttype ≠ 15)
    (hfits : s.cpu.tn ≤ tileColumns s.cpu.ttype) (hvl : s.cpu.vl ≤ 65536) (hpair : tilePairs true s.cpu.ttype o.T = true)
    (hpoison : linePoison s.cpu o o.A (s.srcB o.b).toNat = none) (habn : ∀ k, Active s o false k → (readLine o s k).abn = none) :
    Elementwise (.trd o) s o false (fun k => (readLine o s k).val) (fun k => (readLine o s k).flags) := by
  refine elementwise_of_vectorOp (f := readLine o s) hvl (headReady_of_tileReady h ht) ?_ (fun k hk => ?_)
  · rw [← lineHead_vectorOp h ht hshape hfits hpair]
    exact execTrd_eq hpoison
  · rw [← habn k hk]

/-- R284: what TWR writes for an element: the accumulator of its cell, where the line has one. -/
def writeCell (o : Ops) (tt line : Nat) (t : Strand) (k x : Nat) : Strand :=
  match lineCell o tt line k with
  | some c => accPut t o.D tt c.1 c.2 x
  | none => t

/-- R284: a line is a row of the tile or a column, and its elements beyond the tile have no cell. -/
theorem lineCell_eq_some {o : Ops} {tt line k : Nat} {c : Nat × Nat} :
    lineCell o tt line k = some c ↔ c = (if o.C = 0 then (line, k) else (k, line)) ∧ c.1 < 64 ∧ c.2 < tileColumns tt := by
  unfold lineCell
  split <;> simp only [Option.ite_none_right_eq_some, Option.some.injEq, eq_comm (b := c)] <;>
    exact ⟨fun ⟨hin, hc⟩ => ⟨hc, hc ▸ hin⟩, fun ⟨hc, hin⟩ => ⟨by rwa [hc] at hin, hc⟩⟩

/-- Two elements of a line stand at two cells. -/
theorem lineCell_inj {o : Ops} {tt line j k : Nat} {c : Nat × Nat} (hj : lineCell o tt line j = some c) (hk : lineCell o tt line k = some c) : j = k := by
  have h := (lineCell_eq_some.mp hj).1.symm.trans (lineCell_eq_some.mp hk).1
  split at h <;> simpa using h

section WriteCell

variable {o : Ops} {tt line : Nat}

/-- Writing accumulators of a line keeps what every write of an accumulator keeps. -/
theorem putAll_writeCell_keeps {β : Type} {fld : Strand → β} (hf : ∀ t r c x, r < 64 → c < tileColumns tt → fld (accPut t o.D tt r c x) = fld t)
    (f : Nat → Elem) (t : Strand) (l : List Nat) : fld (putAll (writeCell o tt line) f t l) = fld t := by
  refine putAll_keeps f (fun t k _ x => ?_) t
  unfold writeCell
  split
  · next hcell =>
    obtain ⟨-, hrow, hcol⟩ := lineCell_eq_some.mp hcell
    exact hf _ _ _ _ hrow hcol
  · rfl

theorem accGet_writeCell {k j : Nat} {c : Nat × Nat} (hk : lineCell o tt line k = some c) (t : Strand) (x : Nat) :
    accGet (writeCell o tt line t j x) o.D tt c.1 c.2 = if k = j then x % 2 ^ (8 * accBytes tt) else accGet t o.D tt c.1 c.2 := by
  unfold writeCell
  cases hj : lineCell o tt line j with
  | none => rw [if_neg (fun hkj => by rw [hkj, hj] at hk; cases hk)]
  | some d =>
    have hiff : c.1 = d.1 ∧ c.2 = d.2 ↔ k = j := by
      rw [← Prod.ext_iff]
      exact ⟨fun hcd => lineCell_inj hk (hcd ▸ hj), fun hkj => by subst hkj; exact Option.some.inj (hk.symm.trans hj)⟩
    obtain ⟨-, -, hd⟩ := lineCell_eq_some.mp hj
    obtain ⟨-, -, hc⟩ := lineCell_eq_some.mp hk
    dsimp only
    rw [accGet_accPut hd hc]
    simp only [hiff]

theorem accGet_putAll_writeCell {f : Nat → Elem} {k : Nat} {c : Nat × Nat} (hk : lineCell o tt line k = some c) (l : List Nat) :
    ∀ t, accGet (putAll (writeCell o tt line) f t l) o.D tt c.1 c.2 = if k ∈ l then (f k).val % 2 ^ (8 * accBytes tt) else accGet t o.D tt c.1 c.2 := by
  induction l with
  | nil => intro t; simp [putAll]
  | cons j rest ih =>
    intro t
    refine (ih _).trans ?_
    rw [accGet_writeCell hk]
    by_cases hkj : k = j
    · simp [hkj]
    · simp [hkj]

end WriteCell

/-- The pattern that TWR stores for element `k`. -/
def writeLine (o : Ops) (s : State) (k : Nat) : Elem := { val := twrValue s.cpu.ttype o.T (elemOf s.cpu o.T o.A k) }

theorem execTwr_eq (s : State) (o : Ops) :
    execTwr o s = lineHead (.twr o) o o.D false s
      (runElems s (activeList s.cpu o false) (writeLine o s) (writeCell o s.cpu.ttype (s.srcB o.b).toNat) id) := by
  unfold execTwr
  refine congrArg (fun w => lineHead (.twr o) o o.D false s (runElems s (activeList s.cpu o false) (writeLine o s) w id))
    (funext fun t => funext fun i => funext fun v => ?_)
  unfold writeCell
  cases lineCell o s.cpu.ttype (s.srcB o.b).toNat i <;> rfl

theorem twr_completes {s : State} {o : Ops} (h : TileReady (.twr o) (some o.D) none s.cpu) (ht : typeWidth o.T ≤ s.cpu.ew) (hshape : s.cpu.ttype ≠ 15)
    (hfits : s.cpu.tn ≤ tileColumns s.cpu.ttype) (hpair : tilePairs false s.cpu.ttype o.T = true) :
    ∃ t, exec (.twr o) s = .next t ∧ t.mem = s.mem ∧ t.cpu.g = s.cpu.g ∧ t.cpu.v = s.cpu.v ∧ t.cpu.vstart = 0
      ∧ (∀ k c, Active s o false k → lineCell o s.cpu.ttype (s.srcB o.b).toNat k = some c →
          accGet t.cpu o.D s.cpu.ttype c.1 c.2 =
            twrValue s.cpu.ttype o.T (s.cpu.readV o.A k % 2 ^ typeWidth o.T) % 2 ^ (8 * accBytes s.cpu.ttype))
      ∧ ∀ a, a / 65536 ≠ o.D → tileByte t.cpu a = tileByte s.cpu a := by
  have hexec : exec (.twr o) s = vectorOp (.twr o) o [o.T] false s (writeLine o s) (writeCell o s.cpu.ttype (s.srcB o.b).toNat) := by
    rw [← lineHead_vectorOp h ht hshape hfits hpair]
    exact execTwr_eq s o
  refine ⟨_, hexec.trans (vectorOp_completes _ (headReady_of_tileReady h ht) (fun _ _ => rfl)), rfl, ?_, ?_, rfl, fun k c hk hc => ?_, fun a ha => ?_⟩
  · simpa using putAll_writeCell_keeps (fld := Strand.g) (fun _ _ _ _ _ _ => accPut_g ..) (writeLine o s) s.cpu _
  · simpa using putAll_writeCell_keeps (fld := Strand.v) (fun _ _ _ _ _ _ => accPut_v ..) (writeLine o s) s.cpu _
  · refine (accGet_of_tiles (u := putAll (writeCell o s.cpu.ttype (s.srcB o.b).toNat) (writeLine o s) s.cpu (activeList s.cpu o false)) (by simp) _ _ _ _).trans ?_
    rw [accGet_putAll_writeCell hc, if_pos (mem_activeList_iff.mpr hk)]
    rfl
  · exact putAll_writeCell_keeps (fld := fun t => tileByte t a) (fun t r c x hr hc => tileByte_accPut_other hc hr t x ha) (writeLine o s) s.cpu _

/-- Settles O50: each instruction passes its checks and runs its steps, rows or elements. -/
theorem matrixCompletes : Obligations.MatrixCompletes := by
  refine ⟨fun s s2 o => ⟨tshape_completes, tzero_completes, fun h => ⟨tmac_none_left h, ?_⟩, fun h => ⟨fun hr => ?_, ?_⟩,
    fun h => ⟨fun hr => ?_, ?_⟩, ?_⟩, fun u tile t rm a b _ _ ha hb => tmacApply_accumulates u tile t rm ha hb⟩
  · intro hk hoa hob hma hmb hp n hacc
    have hexec := (tmac_runs h hk hoa hob hma hmb hp).trans (tmacSteps_of_accumulates hacc)
    exact ⟨fun hend => hexec.trans (if_pos hend), fun hmore => hexec.trans (if_neg (not_le.mpr hmore))⟩
  · change execTldacc o s = _
    exact tileMove_none_left h hr
  · intro hr ho hm hrows
    change execTldacc o s = _
    exact (tileMove_runs h hr ho hm).trans (loadRows_of_rowsLoad hrows)
  · change execTstacc o s = _
    exact tileMove_none_left h hr
  · intro hr ho hm
    have hexec : execTstacc o s = _ := tileMove_runs h hr ho hm
    exact ⟨fun hq => hexec.trans (if_pos hq), fun hq hrows => hexec.trans ((afterPosts_passes hq).trans (storeRows_of_rowsStore hrows))⟩
  · intro _ ht hshape hfits hvl line
    exact ⟨fun h hpair hpoison => trd_elementwise h ht hshape hfits hvl hpair hpoison,
      fun h hpair _ _ => twr_completes h ht hshape hfits hpair⟩

/-- R278: the checks of an instruction on binary32 elements. -/
theorem matrixHead_binary32 {i : Instr} {s : State} (h : TileReady i none none s.cpu) (hew : 32 ≤ s.cpu.ew) (k : Out) :
    matrixHead i none [10] none s k = k :=
  matrixHead_pass h (by rw [List.forall_mem_singleton]; exact hew) k

/-! Rows of a VDOTV (R289 to R292). -/

/-- R290: the bound of a directory entry. -/
theorem entryBound_eq (bq : List (Option Int)) (ent : Nat) : entryBound ent (bq.getD (entryId ent) none) = entryBnd bq ent := by
  have hbk : entryBk ent = if ent / 2 ^ 16 % 128 < 64 then ((ent / 2 ^ 16 % 128 : Nat) : Int) else (ent / 2 ^ 16 % 128 : Nat) - 128 := by
    simp [entryBk, signedOf, low, bitsOf]
  have ht (x : Int) : (l8T (x - 4 * (x / 4)).toNat : Int) = ([256, 304, 362, 431] : List Int).getD (x % 4).toNat 0 := by
    have hmod : x - 4 * (x / 4) = x % 4 := by omega
    have hcases : x % 4 = 0 ∨ x % 4 = 1 ∨ x % 4 = 2 ∨ x % 4 = 3 := by omega
    rw [hmod]
    rcases hcases with h | h | h | h <;> rw [h] <;> rfl
  unfold entryBound entryBnd
  rw [← hbk, show entryId ent = ent % 2 ^ 16 from rfl]
  cases bq.getD (ent % 2 ^ 16) none with
  | none => rfl
  | some m =>
    dsimp only
    split
    · rfl
    · rw [← ht, l8Parts]
      push_cast
      rfl

/-- R292: a sample that the cell answers. -/
theorem sampleTau_of_sampled {s s1 : State} {cell : Word} {tau tau1 : Nat} (h : Sampled s cell tau tau1 s1) : sampleTau s cell tau = .ok tau1 s1 := by
  obtain ⟨x, hread, hnan, hnumber⟩ := h
  have hmax : sampleMax tau (leNat x.bytes % 2 ^ 32) = tau1 := by
    unfold sampleMax
    split
    · next h => exact (hnan h).symm
    · next h => exact (hnumber (by simpa using h)).symm
  rw [sampleTau, hread]
  exact congrArg (Acc.ok · s1) hmax

/-- R291: the predicate's verdict at a checkpoint. -/
theorem verdict_eq {p tau : Nat} {sum b : Int} {v : Option Nat} (h : Verdict p sum b tau v) : verdict p sum b tau = v := by
  obtain ⟨h1, h2, hother⟩ := h
  unfold verdict
  split
  · next hp => exact (h1 hp).symm
  · next hp1 =>
    split
    · next hp => exact (h2 hp).symm
    · next hp2 => exact (hother hp1 hp2).symm

/-- R291, R292: the checkpoint before a directory entry: the threshold after it, and the verdict if there is one. -/
def checkpoint (p : Nat) (cell : Word) (s : State) (sum b : Int) (live : Bool) (tau : Nat) : Acc (Nat × Option Nat) :=
  if !live then .ok (tau, none) s
  else if p = 2 then (sampleTau s cell tau).andThen (fun t s1 => .ok (t, verdict p sum b t) s1)
  else .ok (tau, verdict p sum b tau) s

section Entries

variable {p : Nat} {q : Query} {cell data : Word} {s s1 s2 : State} {e ent : Nat} {rest : List Nat} {sum b : Int} {live : Bool} {vfs : BitVec 5}
  {tau tau1 : Nat}

theorem checkpoint_of_sampled {v : Option Nat} (hsample : live = true ∧ p = 2 → Sampled s cell tau tau1 s1) (hsame : ¬ (live = true ∧ p = 2) → tau1 = tau ∧ s1 = s)
    (hlive : live = true → Verdict p sum b tau1 v) (hdead : live = false → v = none) : checkpoint p cell s sum b live tau = .ok (tau1, v) s1 := by
  unfold checkpoint
  cases live with
  | false =>
    obtain ⟨rfl, rfl⟩ := hsame (by simp)
    rw [hdead rfl]
    rfl
  | true =>
    rw [← verdict_eq (hlive rfl)]
    by_cases hp : p = 2
    · rw [if_neg (by decide), if_pos hp, sampleTau_of_sampled (hsample ⟨rfl, hp⟩)]
      rfl
    · obtain ⟨rfl, rfl⟩ := hsame (fun h => hp h.2)
      rw [if_neg (by decide), if_neg hp]

theorem rowEntries_verdict {v : Nat} (h : checkpoint p cell s sum b live tau = .ok (tau1, some v) s1) :
    rowEntries p q cell data s e (ent :: rest) sum b live vfs tau = .val v flagNone vfs tau1 s1 := by
  unfold checkpoint at h
  unfold rowEntries
  simp only [h]

variable (h : checkpoint p cell s sum b live tau = .ok (tau1, none) s1)
include h

theorem rowEntries_skip (hb : entryBnd q.bq ent = 0) :
    rowEntries p q cell data s e (ent :: rest) sum b live vfs tau = rowEntries p q cell data s1 (e + 1) rest sum b live vfs tau1 := by
  unfold checkpoint at h
  rw [rowEntries]
  simp only [h, entryBound_eq, hb, if_true]

theorem rowEntries_invalid {y : Got} (hb : entryBnd q.bq ent ≠ 0)
    (hread : readMem s1 (s1.who .matrix) (data + BitVec.ofNat 64 (64 * e)) 64 0 .read = .ok y s2) (hinv : y.inv = true) :
    rowEntries p q cell data s e (ent :: rest) sum b live vfs tau = .val nan32 flagNone (vfs ||| vfsInv) tau1 s2 := by
  unfold checkpoint at h
  rw [rowEntries]
  simp only [h, entryBound_eq, hb, hread, hinv, if_true, if_false]

theorem rowEntries_chunk {y : Got} {broken : Bool} (hb : entryBnd q.bq ent ≠ 0)
    (hread : readMem s1 (s1.who .matrix) (data + BitVec.ofNat 64 (64 * e)) 64 0 .read = .ok y s2) (hinv : y.inv = false)
    (hbroken : broken = true ↔ ∃ c ∈ y.bytes, l8Zero c.toNat = false ∧ entryBk ent < l8Log c.toNat) :
    rowEntries p q cell data s e (ent :: rest) sum b live vfs tau =
      rowEntries p q cell data s2 (e + 1) rest
        (sum + ((y.bytes.zip ((q.bytes.drop (64 * (ent % 2 ^ 16))).take 64)).map (fun z => eaProd z.1.toNat z.2)).sum)
        (b - entryBnd q.bq ent) (live && !broken) (if broken then vfs ||| 8 else vfs) tau1 := by
  have hany : (y.bytes.map (·.toNat)).any (fun c => !l8Zero c && decide (entryBk ent < l8Log c)) = broken := by
    rw [Bool.eq_iff_iff, hbroken]
    simp
  have hsum (l : List Nat) : chunkSum (y.bytes.map (·.toNat)) l = ((y.bytes.zip l).map (fun z => eaProd z.1.toNat z.2)).sum := by
    rw [chunkSum, List.zip_map_left, List.map_map, ← List.sum_eq_foldl]
    rfl
  unfold checkpoint at h
  rw [rowEntries]
  simp only [h, entryBound_eq, hb, hread, hinv, if_false, Bool.false_eq_true, hany, hsum]
  rfl

end Entries

/-- R291: a row from a directory entry on. -/
theorem rowEntries_of_rowRuns {p : Nat} {q : Query} {cell data : Word} {e : Nat} {ents : List Nat} {sum b : Int} {live : Bool} {vfs vfs1 : BitVec 5}
    {tau tau1 x : Nat} {fl : Flags} {s t : State} (h : RowRuns p q cell data e ents sum b live vfs tau s x fl vfs1 tau1 t) :
    rowEntries p q cell data s e ents sum b live vfs tau = .val x fl vfs1 tau1 t := by
  induction h with
  | finish e sum b live vfs tau s => rfl
  | verdict e ent rest sum b vfs tau tau1 v s s1 hsample hsame hverdict =>
    exact rowEntries_verdict (checkpoint_of_sampled (fun h => hsample h.2) (fun h => hsame (fun hp => h ⟨rfl, hp⟩)) (fun _ => hverdict) (fun h => by cases h))
  | skip e ent rest sum b live vfs vfs' tau tau1 tau2 x fl s s1 t hsample hsame hgo hb _ ih =>
    exact (rowEntries_skip (checkpoint_of_sampled hsample hsame hgo (fun _ => rfl)) hb).trans ih
  | invalid e ent rest sum b live vfs tau tau1 s s1 s2 y hsample hsame hgo hb hread hinv =>
    exact rowEntries_invalid (checkpoint_of_sampled hsample hsame hgo (fun _ => rfl)) hb hread hinv
  | chunk e ent rest sum b live broken vfs vfs' tau tau1 tau2 x fl s s1 s2 t y hsample hsame hgo hb hread hinv hbroken _ ih =>
    exact (rowEntries_chunk (checkpoint_of_sampled hsample hsame hgo (fun _ => rfl)) hb hread hinv hbroken).trans ih

/-- R289: a directory in which some id does not appear. -/
theorem dirBad_iff (n : Nat) (ents : List Nat) : dirBad n ents = true ↔ ∃ id, id < n ∧ ∀ y ∈ ents, y % 2 ^ 16 ≠ id := by
  simp [dirBad, entryId, low]

theorem rowEval_of_rowGives {n p : Nat} {q : Query} {cell rec : Word} {tau tau1 x : Nat} {s t : State} {fl : Flags} {vfs : BitVec 5}
    (h : RowGives n p q cell rec tau s x fl vfs tau1 t) : rowEval n p q cell rec tau s = .val x fl vfs tau1 t := by
  cases h with
  | malformed s1 _ d hlink hread hbad =>
    have hmal : (d.inv || dirBad n ((List.range n).map (fun e => leNat ((d.bytes.drop (4 * e)).take 4)))) = true := by
      rw [Bool.or_eq_true, dirBad_iff]
      simpa using hbad
    unfold rowEval
    simp only [hlink, hread, hmal, if_true]
    rfl
  | judged s1 s2 _ d ents _ _ _ _ hlink hread hinv hents hall hruns =>
    have hgood : dirBad n ents = false := by
      rw [Bool.eq_false_iff, Ne, dirBad_iff]
      rintro ⟨id, hid, hno⟩
      obtain ⟨y, hy, hyid⟩ := hall id hid
      exact hno y hy hyid
    have htotal : (ents.map (fun e => entryBound e (q.bq.getD (entryId e) none))).foldl (· + ·) 0 = (ents.map (entryBnd q.bq)).sum := by
      rw [← List.sum_eq_foldl]
      exact congrArg List.sum (List.map_congr_left fun e _ => entryBound_eq q.bq e)
    have hp : (p != 0) = decide (p ≠ 0) := by rw [Bool.eq_iff_iff]; simp
    unfold rowEval
    simp only [hlink, hread, hinv, ← hents, hgood, htotal, hp, Bool.or_self, Bool.false_eq_true, if_false]
    exact rowEntries_of_rowRuns hruns

/-! VDOTV (R288, R290, R292, R64). -/

/-- R291, R64: rows that are all judged below the end of the turn; then follow the rows of later turns. -/
theorem vdotvRows_of_rowsJudged {o : Ops} {q : Query} {cell : Word} {base stop : Nat} {stride : Int} {rows : List Nat} {tau tau1 : Nat} {s t : State}
    (h : RowsJudged o q cell base stride rows tau tau1 s t) (hstop : ∀ i ∈ rows, i < stop) (later : List Nat) :
    vdotvRows o q cell base stride stop s tau (rows ++ later) = vdotvRows o q cell base stride stop t tau1 later := by
  induction h with
  | done tau s => rfl
  | row k rest tau tau1 tau2 x fl vfs s s1 t hlow hhigh hgives _ ih =>
    obtain ⟨hk, hrest⟩ := List.forall_mem_cons.mp hstop
    have hin : ¬ ((base : Int) + k * stride < 0 ∨ ((2 ^ 64 : Nat) : Int) ≤ (base : Int) + k * stride) := by
      push_cast
      omega
    rw [List.cons_append, vdotvRows]
    dsimp only
    rw [if_neg (not_le.mpr hk), if_neg hin, rowEval_of_rowGives hgives]
    exact ih hrest

/-- R290: the query that VDOTV keeps of the bytes it has read. -/
def queryOf (o : Ops) (x : Got) : Query :=
  { bytes := x.bytes.map (·.toNat), bq := (List.range (vdotvChunks o)).map (fun j => chunkMax (((x.bytes.map (·.toNat)).drop (64 * j)).take 64)) }

section Vdotv

variable {s s0 s1 s2 : State} {o : Ops} (h : TileReady (.vdotv o) none none s.cpu) (hew : 32 ≤ s.cpu.ew)
include h hew

theorem vdotv_vl0 (hvl : s.cpu.vl = 0) : exec (.vdotv o) s = .next (s.retire id) := by
  change execVdotv o s = _
  exact (matrixHead_binary32 h hew _).trans (unlessVl0_none _ _ hvl)

/-- R290, R292: with its cell in place and its query read, VDOTV evaluates its rows. -/
theorem vdotv_rows {x : Got} {y : Query} (hvl : s.cpu.vl ≠ 0) (hcell : cellCheck o s = .ok () s0)
    (hquery : (headQuery s0 = some y ∧ s1 = s0) ∨ (headQuery s0 = none ∧ y = queryOf o x
      ∧ readMem s0 (s0.who .matrix) (s0.srcG o.B) (64 * vdotvChunks o) 0 .read = .ok x s1 ∧ x.inv = false)) :
    exec (.vdotv o) s = vdotvRows o y (s1.srcG o.C) (s1.srcG o.A).toNat (s1.srcG (o.B + 1)).toInt (s1.cpu.vstart + 64) s1 (headTau s1)
      (activeList s.cpu { o with b := .reg 0 0 } false) := by
  change execVdotv o s = _
  refine (matrixHead_binary32 h hew _).trans ?_
  rw [unlessVl0_pass _ _ hvl, hcell]
  obtain ⟨hkept, rfl⟩ | ⟨hnone, rfl, hread, hinv⟩ := hquery
  · simp only [queuedAccOut, hkept]
    rfl
  · simp only [queuedAccOut, hnone, hread, hinv, Bool.false_eq_true, if_false]
    rfl

end Vdotv

/-- R290, R292: a VDOTV between two turns keeps its query and threshold at the head of the queue. -/
theorem betweenSteps_keepRow {s : State} (hq : s.cpu.queue ≠ []) (y : Query) (tau : Nat) (a : EnginePass) :
    headQuery (betweenSteps (keepRow s y tau) a) = some y ∧ headTau (betweenSteps (keepRow s y tau) a) = tau := by
  obtain ⟨e, rest, he⟩ := List.exists_cons_of_ne_nil hq
  simp [headQuery, headTau, betweenSteps, keepRow, onHead, State.onCpu, he]

theorem headTau_none {s : State} (h : ∀ e, s.cpu.queue.head? = some e → e.tau = none) : headTau s = 0xFF800000 := by
  have hnone : s.cpu.queue.head?.bind (fun e => e.tau) = none := Option.bind_eq_none_iff.mpr h
  rw [headTau, hnone]
  rfl

theorem headTau_some {s : State} {e : QEntry} {t : Nat} (he : s.cpu.queue.head? = some e) (ht : e.tau = some t) : headTau s = t := by
  rw [headTau, he, Option.bind_some, ht]
  rfl

/-! The order of top-k entries (R296). -/

/-- Where a score stands among all scores. -/
noncomputable def scoreOf (a : FVal) : EReal :=
  match a with
  | .inf true => ⊥
  | .inf false => ⊤
  | .fin neg m e => ((exactOf (.fin neg m e) : ℝ) : EReal)
  | .nan _ => 0

theorem ltVal_iff_scoreOf {a b : FVal} (ha : a.isNan = false) (hb : b.isNan = false) : ltVal a b = true ↔ scoreOf a < scoreOf b := by
  cases a with
  | nan => cases ha
  | inf na =>
    cases b with
    | nan => cases hb
    | inf nb => cases na <;> cases nb <;> simp [ltVal, scoreOf]
    | fin => cases na <;> simp [ltVal, scoreOf, EReal.bot_lt_coe]
  | fin na ma ea =>
    cases b with
    | nan => cases hb
    | inf nb => cases nb <;> simp [ltVal, scoreOf, EReal.coe_lt_top]
    | fin nb mb eb =>
      rw [ltVal_iff ⟨rfl, rfl⟩ ⟨rfl, rfl⟩, scoreOf, scoreOf, EReal.coe_lt_coe_iff, Rat.cast_lt]

/-- A member of an object: a pattern that is no NaN, with an index. -/
def Scored (x : Nat × Nat) : Prop := (fdecode fmt32 x.1).isNan = false

/-- R296: the place of an entry: by score descending, then by index. -/
noncomputable def placeIn (x : Nat × Nat) : Lex (EReal × Nat) := toLex (-scoreOf (fdecode fmt32 x.1), x.2)

theorem ranksBefore_eq_true (x y : Nat × Nat) : ranksBefore x y = true ↔ ltVal (fdecode fmt32 y.1) (fdecode fmt32 x.1) = true
    ∨ (¬ ltVal (fdecode fmt32 x.1) (fdecode fmt32 y.1) = true ∧ x.2 < y.2) := by
  simp [ranksBefore]

theorem duplicates_eq_true (x y : Nat × Nat) : duplicates x y = true ↔ x.2 = y.2 ∧ ¬ ltVal (fdecode fmt32 x.1) (fdecode fmt32 y.1) = true
    ∧ ¬ ltVal (fdecode fmt32 y.1) (fdecode fmt32 x.1) = true := by
  simp [duplicates, and_assoc]

section Order

variable {x y : Nat × Nat} (hx : Scored x) (hy : Scored y)
include hx hy

theorem ranksBefore_iff : ranksBefore x y = true ↔ placeIn x < placeIn y := by
  rw [ranksBefore_eq_true, ltVal_iff_scoreOf hx hy, ltVal_iff_scoreOf hy hx, placeIn, placeIn, Prod.Lex.toLex_lt_toLex', EReal.neg_le_neg_iff, neg_inj,
    not_lt]
  constructor
  · rintro (h | ⟨hle, hi⟩)
    · exact ⟨h.le, fun heq => absurd heq h.ne'⟩
    · exact ⟨hle, fun _ => hi⟩
  · rintro ⟨hle, hi⟩
    obtain h | h := hle.lt_or_eq
    · exact .inl h
    · exact .inr ⟨hle, hi h.symm⟩

theorem duplicates_iff : duplicates x y = true ↔ placeIn x = placeIn y := by
  rw [duplicates_eq_true, ltVal_iff_scoreOf hx hy, ltVal_iff_scoreOf hy hx, placeIn, placeIn, toLex_inj, Prod.mk.injEq, neg_inj, not_lt, not_lt]
  exact ⟨fun ⟨hi, hyx, hxy⟩ => ⟨hxy.antisymm hyx, hi⟩, fun ⟨hxy, hi⟩ => ⟨hi, hxy.ge, hxy.le⟩⟩

end Order

/-! Members in order (R296). -/

/-- Members, and whether each is a candidate. -/
abbrev Marked := (Nat × Nat) × Bool

theorem insertMember_perm (x : Marked) (l : List Marked) : (insertMember x l).Perm (x :: l) := by
  induction l with
  | nil => exact .refl _
  | cons y rest ih =>
    unfold insertMember
    split
    · exact .refl _
    · exact (ih.cons y).trans (.swap x y rest)

/-- One more member, if it is no NaN and duplicates none. -/
def addMember (acc : List Marked) (x : Marked) : List Marked :=
  if (fdecode fmt32 x.1.1).isNan || acc.any (fun y => duplicates y.1 x.1) then acc else insertMember x acc

theorem members_eq (l : List Marked) : members l = l.foldl addMember [] := rfl

/-- Members in R296's order, none of them a NaN. -/
structure Ordered (l : List Marked) : Prop where
  scored : ∀ x ∈ l, Scored x.1
  sorted : l.Pairwise (fun x y => ranksBefore x.1 y.1 = true)

/-- A member is passed over, as a NaN or a duplicate, or takes a place. -/
theorem addMember_cases (acc : List Marked) (x : Marked) :
    (addMember acc x = acc ∧ ((fdecode fmt32 x.1.1).isNan = true ∨ ∃ y ∈ acc, duplicates y.1 x.1 = true))
      ∨ (addMember acc x = insertMember x acc ∧ Scored x.1 ∧ ∀ y ∈ acc, duplicates y.1 x.1 = false) := by
  unfold addMember
  split
  · next h => exact .inl ⟨rfl, by simpa using h⟩
  · next h => exact .inr ⟨rfl, by simpa only [Scored, Bool.or_eq_true, List.any_eq_true, not_or, not_exists, not_and, Bool.not_eq_true] using h⟩

theorem sorted_insertMember {x : Marked} (hx : Scored x.1) {l : List Marked} (h : Ordered l) (hnew : ∀ y ∈ l, duplicates y.1 x.1 = false) :
    (insertMember x l).Pairwise (fun x y => ranksBefore x.1 y.1 = true) := by
  obtain ⟨hscored, hsorted⟩ := h
  induction l with
  | nil => exact List.pairwise_singleton _ _
  | cons y rest ih =>
    obtain ⟨hy, hrest⟩ := List.forall_mem_cons.mp hscored
    obtain ⟨hyx, hnew⟩ := List.forall_mem_cons.mp hnew
    obtain ⟨hfirst, hsorted⟩ := List.pairwise_cons.mp hsorted
    unfold insertMember
    split
    · next hbefore =>
      refine List.pairwise_cons.mpr ⟨List.forall_mem_cons.mpr ⟨hbefore, fun z hz => ?_⟩, List.pairwise_cons.mpr ⟨hfirst, hsorted⟩⟩
      have hyz := (ranksBefore_iff hy (hrest z hz)).mp (hfirst z hz)
      exact (ranksBefore_iff hx (hrest z hz)).mpr (((ranksBefore_iff hx hy).mp hbefore).trans hyz)
    · next hbefore =>
      refine List.pairwise_cons.mpr ⟨fun z hz => ?_, ih hnew hrest hsorted⟩
      obtain rfl | hz := List.mem_cons.mp ((insertMember_perm x rest).mem_iff.mp hz)
      · rw [ranksBefore_iff hx hy, not_lt] at hbefore
        have hne : placeIn y.1 ≠ placeIn z.1 := fun heq => by simp [(duplicates_iff hy hx).mpr heq] at hyx
        exact (ranksBefore_iff hy hx).mpr (hbefore.lt_of_ne hne)
      · exact hfirst z hz

theorem ordered_addMember {acc : List Marked} (h : Ordered acc) (x : Marked) : Ordered (addMember acc x) := by
  obtain ⟨heq, -⟩ | ⟨heq, hx, hnew⟩ := addMember_cases acc x <;> rw [heq]
  · exact h
  · exact ⟨fun y hy => (List.mem_cons.mp ((insertMember_perm x acc).mem_iff.mp hy)).elim (fun hyx => hyx ▸ hx) (h.scored y), sorted_insertMember hx h hnew⟩

theorem subset_addMember (acc : List Marked) (x : Marked) : acc ⊆ addMember acc x := by
  obtain ⟨heq, -⟩ | ⟨heq, -⟩ := addMember_cases acc x <;> rw [heq]
  · exact List.Subset.refl _
  · exact fun y hy => (insertMember_perm x acc).mem_iff.mpr (List.mem_cons_of_mem x hy)

/-- A new member is the one added, and duplicates none before it. -/
theorem mem_addMember {acc : List Marked} {x y : Marked} (h : y ∈ addMember acc x) : y ∈ acc ∨ (y = x ∧ ∀ z ∈ acc, duplicates z.1 x.1 = false) := by
  obtain ⟨heq, -⟩ | ⟨heq, -, hnew⟩ := addMember_cases acc x <;> rw [heq] at h
  · exact .inl h
  · exact (List.mem_cons.mp ((insertMember_perm x acc).mem_iff.mp h)).elim (fun hyx => .inr ⟨hyx, hnew⟩) .inl

/-- What is added is a NaN, or stands among the members, itself or as a duplicate. -/
theorem covered_addMember (acc : List Marked) (x : Marked) : (fdecode fmt32 x.1.1).isNan = true ∨ ∃ y ∈ addMember acc x, duplicates y.1 x.1 = true := by
  obtain ⟨heq, hnan | hdup⟩ | ⟨heq, hx, -⟩ := addMember_cases acc x <;> rw [heq]
  · exact .inl hnan
  · exact .inr hdup
  · exact .inr ⟨x, (insertMember_perm x acc).mem_iff.mpr List.mem_cons_self, (duplicates_iff hx hx).mpr rfl⟩

theorem ordered_foldl_addMember (l : List Marked) : ∀ acc, Ordered acc → Ordered (l.foldl addMember acc) := by
  induction l with
  | nil => exact fun acc h => h
  | cons x rest ih => exact fun acc h => ih _ (ordered_addMember h x)

theorem subset_foldl_addMember (l : List Marked) : ∀ acc, acc ⊆ l.foldl addMember acc := by
  induction l with
  | nil => exact fun acc => List.Subset.refl _
  | cons x rest ih => exact fun acc => List.Subset.trans (subset_addMember acc x) (ih _)

theorem mem_foldl_addMember {y : Marked} (l : List Marked) :
    ∀ acc, y ∈ l.foldl addMember acc → y ∈ acc ∨ (y ∈ l ∧ ∀ z ∈ acc, duplicates z.1 y.1 = false) := by
  induction l with
  | nil => exact fun acc h => .inl h
  | cons x rest ih =>
    intro acc h
    obtain hy | ⟨hy, hnew⟩ := ih _ h
    · exact (mem_addMember hy).imp_right fun ⟨hyx, hnew⟩ => ⟨hyx ▸ List.mem_cons_self, hyx ▸ hnew⟩
    · exact .inr ⟨List.mem_cons_of_mem x hy, fun z hz => hnew z (subset_addMember acc x hz)⟩

theorem covered_foldl_addMember (l : List Marked) :
    ∀ acc, ∀ x ∈ l, (fdecode fmt32 x.1.1).isNan = true ∨ ∃ y ∈ l.foldl addMember acc, duplicates y.1 x.1 = true := by
  induction l with
  | nil => simp
  | cons x rest ih =>
    intro acc
    refine List.forall_mem_cons.mpr ⟨?_, ih _⟩
    exact (covered_addMember acc x).imp_right fun ⟨y, hy, hdup⟩ => ⟨y, subset_foldl_addMember rest _ hy, hdup⟩

theorem ordered_members (l : List Marked) : Ordered (members l) := ordered_foldl_addMember l [] ⟨by simp, .nil⟩

theorem members_subset (l : List Marked) : members l ⊆ l := fun y hy => by
  obtain h | ⟨h, -⟩ := mem_foldl_addMember l [] hy
  · cases h
  · exact h

theorem covered_members (l : List Marked) : ∀ x ∈ l, (fdecode fmt32 x.1.1).isNan = true ∨ ∃ y ∈ members l, duplicates y.1 x.1 = true :=
  covered_foldl_addMember l []

/-! The action of a TOPKI (R296, R299). -/

/-- The entries of an object after a set of candidates, each marked where it is a candidate. -/
def kept (y : TopK) (l : List (Nat × Nat)) : List Marked := (members (y.entries.map (·, false) ++ l.map (·, true))).take y.k

theorem topkInsert_entries (y : TopK) (l : List (Nat × Nat)) (m : Nat) : (topkInsert y l m).entries = (kept y l).map (·.1) := rfl

section Kept

variable {y : TopK} {l : List (Nat × Nat)}

theorem ordered_kept (y : TopK) (l : List (Nat × Nat)) : Ordered (kept y l) := by
  obtain ⟨hscored, hsorted⟩ := ordered_members (y.entries.map (·, false) ++ l.map (·, true))
  exact ⟨fun x hx => hscored x (List.mem_of_mem_take hx), hsorted.sublist (List.take_sublist _ _)⟩

theorem mem_of_mem_kept {x : Marked} (h : x ∈ kept y l) : x.1 ∈ y.entries ∨ x.1 ∈ l := by
  have hmem := members_subset _ (List.mem_of_mem_take h)
  rw [List.mem_append, List.mem_map, List.mem_map] at hmem
  exact hmem.imp (fun ⟨_, hd, hx⟩ => hx ▸ hd) (fun ⟨_, hd, hx⟩ => hx ▸ hd)

/-- R299: an entry was a candidate where the object held none like it. -/
theorem marked_of_mem_kept {x : Marked} (h : x ∈ kept y l) :
    x.2 = !y.entries.any (fun d => !(fdecode fmt32 d.1).isNan && duplicates d x.1) := by
  have hx : Scored x.1 := (ordered_kept y l).scored x h
  have hmem := List.mem_of_mem_take h
  rw [members_eq, List.foldl_append, ← members_eq] at hmem
  obtain hold | ⟨hcand, hnew⟩ := mem_foldl_addMember _ _ hmem
  · obtain ⟨d, hd, rfl⟩ := List.mem_map.mp (members_subset _ hold)
    have hany : y.entries.any (fun e => !(fdecode fmt32 e.1).isNan && duplicates e d) = true :=
      List.any_eq_true.mpr ⟨d, hd, by simp only [show (fdecode fmt32 d.1).isNan = false from hx, (duplicates_iff hx hx).mpr rfl, Bool.not_false, Bool.and_self]⟩
    rw [hany]
    rfl
  · obtain ⟨d, hd, rfl⟩ := List.mem_map.mp hcand
    have hany : y.entries.any (fun e => !(fdecode fmt32 e.1).isNan && duplicates e d) = false := by
      refine List.any_eq_false.mpr fun e he hdup => ?_
      obtain ⟨hnan, hdup⟩ : Scored e ∧ duplicates e d = true := by simpa [Scored] using hdup
      obtain hbad | ⟨z, hz, hze⟩ := covered_members (y.entries.map (·, false)) (e, false) (List.mem_map_of_mem he)
      · exact Bool.false_ne_true (hnan.symm.trans hbad)
      · have hzs : Scored z.1 := (ordered_members _).scored z hz
        have hzd := (duplicates_iff hzs hx).mpr (((duplicates_iff hzs hnan).mp hze).trans ((duplicates_iff hnan hx).mp hdup))
        exact Bool.false_ne_true ((hnew z hz).symm.trans hzd)
    rw [hany]
    rfl

/-- R296: a member is a NaN, is held, itself or as a duplicate, or stands behind all k that are. -/
theorem covered_kept {d : Nat × Nat} (h : d ∈ y.entries ++ l) : (fdecode fmt32 d.1).isNan = true ∨ (∃ x ∈ kept y l, duplicates x.1 d = true)
    ∨ ((kept y l).length = y.k ∧ ∀ x ∈ kept y l, ranksBefore x.1 d = true) := by
  have hmarked : ∃ b, (d, b) ∈ y.entries.map (·, false) ++ l.map (·, true) := by
    obtain hd | hd := List.mem_append.mp h
    · exact ⟨false, List.mem_append_left _ (List.mem_map_of_mem hd)⟩
    · exact ⟨true, List.mem_append_right _ (List.mem_map_of_mem hd)⟩
  obtain ⟨b, hb⟩ := hmarked
  cases hd : (fdecode fmt32 d.1).isNan with
  | true => exact .inl rfl
  | false =>
    right
    obtain ⟨z, hz, hzd⟩ := (covered_members _ _ hb).resolve_left (Bool.eq_false_iff.mp hd)
    have hord := ordered_members (y.entries.map (·, false) ++ l.map (·, true))
    unfold kept
    generalize members (y.entries.map (·, false) ++ l.map (·, true)) = all at hz hord
    have hzs := hord.scored z hz
    rw [← List.take_append_drop y.k all, List.mem_append] at hz
    obtain hz | hz := hz
    · exact .inl ⟨z, hz, hzd⟩
    · have hmore : y.k < all.length := by simpa using List.length_pos_of_mem hz
      have hsorted := hord.sorted
      rw [← List.take_append_drop y.k all, List.pairwise_append] at hsorted
      obtain ⟨-, -, hbehind⟩ := hsorted
      refine .inr ⟨by simp [hmore.le], fun x hx => ?_⟩
      have hxs := hord.scored x (List.mem_of_mem_take hx)
      rw [ranksBefore_iff hxs hd, ← (duplicates_iff hzs hd).mp hzd]
      exact (ranksBefore_iff hxs hzs).mp (hbehind x hx z hz)

end Kept

/-- R299: the candidates held are the entries that none of the object's duplicates. -/
theorem countKept_eq (y : TopK) (l : List (Nat × Nat)) : ((kept y l).filter (·.2)).length =
    (((kept y l).map (·.1)).filter (fun e => !y.entries.any (fun d => !(fdecode fmt32 d.1).isNan && duplicates d e))).length := by
  rw [List.filter_map, List.length_map]
  exact congrArg List.length (List.filter_congr fun x hx => marked_of_mem_kept hx)

/-- R296: when τ rises, and to what. -/
theorem topkInsert_cell (y : TopK) (l : List (Nat × Nat)) (m : Nat) :
    let z := topkInsert y l m
    let kth := (z.entries.getLast?.map (·.1)).getD 0
    z.cell = if z.entries.length = y.k ∧ (fdecode fmt32 (y.cell % 2 ^ 32)).isNan = false ∧ ltVal (fdecode fmt32 (y.cell % 2 ^ 32)) (fdecode fmt32 kth) = true
      then kth + (y.cell / 2 ^ 32 + 1) % 2 ^ 32 * 2 ^ 32 else y.cell := by
  have hlast : ((kept y l).map (·.1)).getLast?.map (·.1) = (kept y l).getLast?.map (fun x => x.1.1) := by
    rw [List.getLast?_map, Option.map_map]
    rfl
  dsimp only
  rw [topkInsert_entries, hlast, List.length_map]
  simp only [topkInsert, low, Bool.and_eq_true, decide_eq_true_eq, Bool.not_eq_true', and_assoc]
  rfl

theorem topkInsert_holds (y : TopK) (l : List (Nat × Nat)) (m : Nat) :
    let z := topkInsert y l m
    let kth := (z.entries.getLast?.map (·.1)).getD 0
    z.entries.length ≤ y.k ∧ z.k = y.k ∧ (∀ e ∈ z.entries, e ∈ y.entries ∨ e ∈ l) ∧ (∀ e ∈ z.entries, (fdecode fmt32 e.1).isNan = false)
      ∧ z.entries.Pairwise (fun d e => ranksBefore d e = true)
      ∧ (∀ d ∈ y.entries ++ l, (fdecode fmt32 d.1).isNan = true ∨ (∃ e ∈ z.entries, duplicates e d = true)
          ∨ (z.entries.length = y.k ∧ ∀ e ∈ z.entries, ranksBefore e d = true))
      ∧ z.cell = (if z.entries.length = y.k ∧ (fdecode fmt32 (y.cell % 2 ^ 32)).isNan = false ∧ ltVal (fdecode fmt32 (y.cell % 2 ^ 32)) (fdecode fmt32 kth) = true
          then kth + (y.cell / 2 ^ 32 + 1) % 2 ^ 32 * 2 ^ 32 else y.cell)
      ∧ z.rejected = min (2 ^ 32 - 1) (y.rejected + m - (z.entries.filter (fun e => !y.entries.any (fun d => !(fdecode fmt32 d.1).isNan && duplicates d e))).length) := by
  obtain ⟨hscored, hsorted⟩ := ordered_kept y l
  refine ⟨?_, rfl, ?_, ?_, ?_, ?_, topkInsert_cell y l m, ?_⟩ <;> rw [topkInsert_entries]
  · rw [List.length_map]
    exact List.length_take_le _ _
  · exact List.forall_mem_map.mpr fun x hx => mem_of_mem_kept hx
  · exact List.forall_mem_map.mpr hscored
  · exact List.pairwise_map.mpr hsorted
  · refine fun d hd => (covered_kept hd).imp_right (Or.imp (fun ⟨x, hx, hdup⟩ => ⟨x.1, List.mem_map_of_mem hx, hdup⟩) fun ⟨hlen, hbehind⟩ => ?_)
    exact ⟨(List.length_map _).trans hlen, List.forall_mem_map.mpr hbehind⟩
  · rw [← countKept_eq]
    rfl

/-- R297, R157: what the engine writes of an object. -/
theorem topkWrite_of_header {u s1 : State} {w : Who} {p : Place} {y : TopK}
    (h : writePlace u w .engine p (leBytes 4 y.k ++ leBytes 4 y.entries.length ++ leBytes 8 y.cell ++ leBytes 4 1 ++ leBytes 4 y.rejected) false = (s1, .ok)) :
    topkWrite u w p y = if y.entries = [] then (s1, .ok)
      else writePlace s1 w .engine (p.add 64) (y.entries.flatMap (fun e => leBytes 4 e.1 ++ leBytes 4 e.2)) false := by
  have hempty : (y.entries.flatMap (fun e => leBytes 4 e.1 ++ leBytes 4 e.2)).isEmpty = true ↔ y.entries = [] := by
    cases y.entries <;> simp [leBytes]
  simp only [topkWrite, topkBytes, h, ← List.flatMap_def, hempty]

/-! TOPKINIT, TOPKI and TOPKR (R298 to R300). -/

section Objects

variable {s s1 s2 : State} {o : Ops} {p : Place}

theorem topk_waits (hq : (o.releases && earlierPosts s) = true) : exec (.topkinit o) s = .next s.park ∧ exec (.topki o) s = .next s.park :=
  ⟨if_pos hq, if_pos hq⟩

theorem topkinit_completes (hq : (o.releases && earlierPosts s) = false) (h : TileReady (.topkinit o) none none s.cpu)
    (hplace : topkPlace s (s.srcG o.A) .write = .ok p s1) (hlow : 1 ≤ (s.srcB o.b).toNat) (hhigh : (s.srcB o.b).toNat ≤ 1024)
    (hfits : topkFits p (s.srcB o.b).toNat = true)
    (hwrite : writePlace s1 (s1.who .vector) .engine p
      (leBytes 4 (s.srcB o.b).toNat ++ leBytes 4 0 ++ leBytes 8 0xFF800000 ++ leBytes 4 1 ++ leBytes 44 0) false = (s2, .ok)) :
    exec (.topkinit o) s = .next (s2.retireKeep id) := by
  change execTopkinit o s = _
  have hok : ¬ ((s.srcB o.b).toNat < 1 ∨ 1024 < (s.srcB o.b).toNat ∨ (!topkFits p (s.srcB o.b).toNat) = true) := by
    simp only [hfits, Bool.not_true, Bool.false_eq_true, or_false]
    omega
  rw [execTopkinit, afterPosts_passes hq, matrixHead_pass h (List.forall_mem_nil _)]
  simp only [hplace, negInf32, hwrite]
  exact if_neg hok

/-- R299: the candidates of a TOPKI: the active elements' scores and indices, without ABNs. -/
def candidates (o : Ops) (s : State) : List (Nat × Nat) :=
  ((activeMem s.cpu o o.mn).filter (fun i => !isAbn (elemOf s.cpu 10 o.D i))).map (fun i => (elemOf s.cpu 10 o.D i, low 32 (s.cpu.readV o.B i)))

/-- R299: where every ABN among the scores is ABN.LO, none of them traps. -/
theorem find?_abn (habn : ∀ i ∈ activeMem s.cpu o o.mn, isAbn (elemOf s.cpu 10 o.D i) = true → elemOf s.cpu 10 o.D i = 0xFFA00001) :
    (activeMem s.cpu o o.mn).find? (fun i => isAbn (elemOf s.cpu 10 o.D i) && elemOf s.cpu 10 o.D i != 0xFFA00001) = none :=
  List.find?_eq_none.mpr fun i hi => by simpa using habn i hi

section Insert

variable (hq : (o.releases && earlierPosts s) = false) (h : TileReady (.topki o) none none s.cpu) (hew : 32 ≤ s.cpu.ew)
include hq h hew

theorem topki_vl0 (hvl : s.cpu.vl = 0) : exec (.topki o) s = .next (s.retire id) := by
  change execTopki o s = _
  rw [execTopki, afterPosts_passes hq, matrixHead_binary32 h hew, unlessVl0_none _ _ hvl]

variable (hvl : s.cpu.vl ≠ 0) (habn : ∀ i ∈ activeMem s.cpu o o.mn, isAbn (elemOf s.cpu 10 o.D i) = true → elemOf s.cpu 10 o.D i = 0xFFA00001)
  (hplace : topkPlace s (s.srcG o.A) .atomic = .ok p s1)
include hvl habn hplace

theorem topki_acts (hnb : o.nb = false)
    (hact : topkAct s1 (s1.who .vector) p (candidates o s) (activeMem s.cpu o o.mn).length = some (s2, .ok)) : exec (.topki o) s = .next (s2.retire id) := by
  unfold candidates at hact
  change execTopki o s = _
  rw [execTopki, afterPosts_passes hq, matrixHead_binary32 h hew, unlessVl0_pass _ _ hvl]
  simp only [find?_abn habn, hnb, hplace, hact, Bool.false_and, Bool.false_eq_true, if_false]

theorem topki_issues (hnb : o.nb = true) (hcc : ccFull s o.ccNo = false) :
    exec (.topki o) s =
      .next ((issueNb s1 o.ccNo false none [(p, .topk (candidates o s) (activeMem s.cpu o o.mn).length)]).retire id) := by
  change execTopki o s = _
  rw [execTopki, afterPosts_passes hq, matrixHead_binary32 h hew, unlessVl0_pass _ _ hvl]
  simp only [find?_abn habn, hnb, hcc, hplace, Bool.and_false, Bool.false_eq_true, if_false, if_true]
  rfl

end Insert

/-- R300: element `i` of vD and vC takes an entry, or minus infinity and all ones beyond them. -/
def putEntry (o : Ops) (entries : List (Nat × Nat)) (u : Strand) (i : Nat) : Strand :=
  (u.writeV o.D i (entries.getD i (0xFF800000, 0xFFFFFFFF)).1).writeV o.C i (entries.getD i (0xFF800000, 0xFFFFFFFF)).2

theorem readV_putEntry (hne : o.D ≠ o.C) (entries : List (Nat × Nat)) (u : Strand) {i j : Nat} (hi : i < 65536) (hj : j < 65536) :
    (putEntry o entries u i).readV o.D j = (if j = i then low u.ew (entries.getD j (0xFF800000, 0xFFFFFFFF)).1 else u.readV o.D j)
      ∧ (putEntry o entries u i).readV o.C j = (if j = i then low u.ew (entries.getD j (0xFF800000, 0xFFFFFFFF)).2 else u.readV o.C j) := by
  simp only [putEntry, readV_writeV _ _ _ _ _ _ hi hj, writeV_ew]
  by_cases h : j = i
  · subst h
    simp [hne]
  · simp [h]

theorem readV_foldl_putEntry (hne : o.D ≠ o.C) (entries : List (Nat × Nat)) {l : List Nat} (hl : ∀ i ∈ l, i < 65536) {j : Nat} (hj : j < 65536) :
    ∀ u : Strand, (l.foldl (putEntry o entries) u).readV o.D j = (if j ∈ l then low u.ew (entries.getD j (0xFF800000, 0xFFFFFFFF)).1 else u.readV o.D j)
      ∧ (l.foldl (putEntry o entries) u).readV o.C j = (if j ∈ l then low u.ew (entries.getD j (0xFF800000, 0xFFFFFFFF)).2 else u.readV o.C j) := by
  induction l with
  | nil => intro u; simp
  | cons i rest ih =>
    intro u
    obtain ⟨hi, hrest⟩ := List.forall_mem_cons.mp hl
    obtain ⟨hd, hc⟩ := readV_putEntry hne entries u hi hj
    obtain ⟨ihd, ihc⟩ := ih hrest (putEntry o entries u i)
    rw [List.foldl_cons, ihd, ihc, hd, hc, show (putEntry o entries u i).ew = u.ew from rfl]
    by_cases h : j = i <;> simp [h]

section Read

variable (h : TileReady (.topkr o) none none s.cpu) (hew : 32 ≤ s.cpu.ew)
include h hew

theorem topkr_vl0 (hvl : s.cpu.vl = 0) : exec (.topkr o) s = .next (s.retire id) := by
  change execTopkr o s = _
  rw [execTopkr, matrixHead_binary32 h hew, unlessVl0_none _ _ hvl]

theorem topkr_completes {k : TopK} (hvl : s.cpu.vl ≠ 0) (hmax : s.cpu.vl ≤ 65536) (hne : o.D ≠ o.C) (hplace : topkPlace s (s.srcG o.A) .read = .ok p s1)
    (hread : topkRead s1 (s1.who .vector) p = .ok k s2) :
    ∃ t, exec (.topkr o) s = .next t ∧ t.mem = s2.mem ∧ t.cpu.vstart = 0
      ∧ ∀ i ∈ activeMem s.cpu o false, t.cpu.readV o.D i = (k.entries.getD i (0xFF800000, 0xFFFFFFFF)).1 % 2 ^ s2.cpu.ew
          ∧ t.cpu.readV o.C i = (k.entries.getD i (0xFF800000, 0xFFFFFFFF)).2 % 2 ^ s2.cpu.ew := by
  have hexec : exec (.topkr o) s = .next (s2.retire (fun t => (activeMem s.cpu o false).foldl (putEntry o k.entries) t)) := by
    change execTopkr o s = _
    rw [execTopkr, matrixHead_binary32 h hew, unlessVl0_pass _ _ hvl]
    simp only [hplace, hread]
    rfl
  have hlt : ∀ i ∈ activeMem s.cpu o false, i < 65536 := fun i hi => (List.mem_range.mp (List.mem_filter.mp hi).1).trans_le hmax
  refine ⟨_, hexec, rfl, rfl, fun i hi => ?_⟩
  obtain ⟨hd, hc⟩ := readV_foldl_putEntry hne k.entries hlt (hlt i hi) s2.cpu
  exact ⟨hd.trans (if_pos hi), hc.trans (if_pos hi)⟩

end Read

theorem topkAct_of_topkRead {u : State} {w : Who} {y : TopK} (h : topkRead u w p = .ok y s1) (l : List (Nat × Nat)) (m : Nat) :
    topkAct u w p l m = some (topkWrite s1 w p (topkInsert y l m)) := by
  rw [topkAct, h]

end Objects

/-- Settles O51: VDOTV follows its rows, an object is read, changed and written back, and its members stand in one linear order. -/
theorem verdictsAndTopK : Obligations.VerdictsAndTopK := by
  intro s s0 s1 s2 o x p k tau act n bytes q va b acts score rel cands
  refine ⟨fun h hew => ⟨vdotv_vl0 h hew, ?_⟩, fun hq y a => betweenSteps_keepRow hq y tau a, headTau_none, fun _ _ => headTau_some, topk_waits,
    fun hq h hplace hlow hhigh hfits hwrite => topkinit_completes hq h hplace hlow hhigh hfits hwrite,
    fun hq h hew => ⟨topki_vl0 hq h hew, fun hvl habn hplace => ⟨topki_acts hq h hew hvl habn hplace, topki_issues hq h hew hvl habn hplace⟩⟩,
    fun h hew => ⟨topkr_vl0 h hew, topkr_completes h hew⟩, topkInsert_holds, fun a b _ _ => ⟨ranksBefore_eq_true a b, duplicates_eq_true a b⟩,
    fun u w y h m => topkAct_of_topkRead h cands m, fun u w y => ⟨fun hnil hwrite => ?_, fun hne hwrite => ?_⟩⟩
  · intro y now later hvl hcell hquery hact hnow hrows
    have hexec := (vdotv_rows h hew hvl hcell hquery).trans (hact ▸ vdotvRows_of_rowsJudged hrows hnow later)
    refine ⟨fun hlast => ?_, fun i more hlater hi => ?_⟩
    · rw [hexec, hlast]
      rfl
    · rw [hexec, hlater, vdotvRows, if_pos hi]
  · exact (topkWrite_of_header hwrite).trans (if_pos hnil)
  · exact (topkWrite_of_header hwrite).trans (if_neg hne)

end Sys2Proof.Proofs.Matrix

/-! The obligations of spec/21_streams.md: sorted streams and hash tables (R305 to R311), the copy engine, circular and named buffers (R312 to R315),
transfers, registrations and windows (R316 to R320, R325, R326), collectives (R321 to R324). -/

namespace Sys2Proof.Proofs.Streams

open Sys2Proof Sys2Proof.Machine Sys2Proof.Safety Sys2Proof.Claims Sys2Proof.Laws
open Sys2Proof.Proofs.VectorMemory (not_misaligned afterPosts_passes awaited_starts awaited_waits awaited_answered answered issueNb_same Noticed noticed_noteStrand)
open Sys2Proof.Proofs.Scope (memRead_memWrite leNat_lt homeWrite_plain_mem)
open Sys2Proof.Proofs.Execution (die_setDie cellGet_map)

/-! Sorted streams (R305 to R307). -/

section Pass

variable {o : Ops} {merge : Bool} {bytes : List Byte} {d : Stream} {first : Nat} {p0 p : Pass} {s1 s2 s3 : State}

theorem streamStep_more (hloop : streamLoop o merge d s1.cpu.vl (p0.apos + p0.bpos + 64) 65 s1 p0 = (s2, p, .more)) :
    streamStep o merge s1 bytes d first p0 = .next (betweenSteps (s2.onCpu (putPass o merge p)) (engineOf bytes first p)) := by
  simp only [streamStep, stepElems, Nat.reduceAdd, hloop]

/-- R306: where the loop ends because VL or a list is used up, the descriptor is written and the pass ends. -/
theorem streamStep_stops {e : PassEnd} (he : e = .full ∨ e = .exhausted)
    (hloop : streamLoop o merge d s1.cpu.vl (p0.apos + p0.bpos + 64) 65 s1 p0 = (s2, p, e))
    (hwrite : writeMem s2 (s2.who .vector) .engine (s1.srcG o.A) (streamBytes (passStream d first p e)) false = .ok () s3) :
    streamStep o merge s1 bytes d first p0 = .next (endPass o merge s3 p e) := by
  rcases he with rfl | rfl <;> simp only [streamStep, stepElems, Nat.reduceAdd, hloop, hwrite]

/-- R306, log entry 36: VL is trimmed to the keys given. -/
theorem endPass_stops {e : PassEnd} (he : e = .full ∨ e = .exhausted) (s : State) :
    endPass o merge s p e = s.retire (fun t => { putPass o merge p t with vl := min t.vl p.n }) := by
  have hmin (t : Strand) : (if p.n ≤ t.vl then p.n else t.vl) = min t.vl p.n := by rw [min_comm, min_def]
  rcases he with rfl | rfl <;> simp only [endPass, hmin, id]

theorem passStep_streamStep (o : Ops) (merge : Bool) (bytes : List Byte) (d : Stream) (first : Nat) (p0 : Pass) (s1 : State) :
    PassStep o merge bytes d first p0 s1 (streamStep o merge s1 bytes d first p0) := by
  intro s2 s3 p e hloop
  refine ⟨fun hmore => streamStep_more (hmore ▸ hloop), fun he hwrite => ?_⟩
  have hdesc : passStream d first p e =
      { d with apos := p.apos, bpos := p.bpos, state := d.state ||| (if e = .exhausted then 1 else 0), emitted := d.emitted + (p.n - first) } := by
    rcases he with rfl | rfl <;> rfl
  rw [streamStep_stops he hloop (hdesc ▸ hwrite), endPass_stops he]

end Pass

/-- SINTER and SMERGE, with the instruction and the kind of pass. -/
theorem exec_stream {o : Ops} {i : Instr} {merge : Bool} (hi : (i = .sinter o ∧ merge = false) ∨ (i = .smerge o ∧ merge = true)) (s : State) :
    exec i s = streamOp i o s merge := by
  rcases hi with ⟨rfl, rfl⟩ | ⟨rfl, rfl⟩ <;> rfl

section Stream

variable {s s0 s1 : State} {o : Ops} {i : Instr} {merge : Bool} (hi : (i = .sinter o ∧ merge = false) ∨ (i = .smerge o ∧ merge = true))
  (hal : (s.srcG o.A).toNat % 64 = 0) (hvl : s.cpu.vl ≠ 0) (hd : HeadReady i [o.T] s.cpu)
include hi hal hvl hd

theorem stream_begins {ps : List (Place × Nat)} {x : Got} {d : Stream} (hpass : headPass s = none)
    (hps : placesOf s (s.who .vector) (s.srcG o.A) 64 .write = .ok ps s0) (hread : readMem s0 (s.who .vector) (s.srcG o.A) 64 0 .read = .ok x s1)
    (hdesc : streamOf (byteSize o.T) x.bytes = some d) :
    exec i s = streamStep o merge s1 x.bytes d s1.cpu.vstart { n := s1.cpu.vstart, apos := d.apos, bpos := d.bpos } := by
  have hdesc' : streamOf (accessBytes o.T) x.bytes = some d := hdesc
  rw [exec_stream hi, streamOp, atHead_pass _ _ _ _ hd, unlessVl0_pass _ _ hvl]
  simp only [not_misaligned hal, Bool.false_eq_true, if_false, hpass, hps, hread, queuedAccOut, hdesc']

theorem stream_goes_on {y : EnginePass} {d : Stream} (hpass : headPass s = some y) (hdesc : streamOf (byteSize o.T) y.desc = some d) :
    exec i s = streamStep o merge s y.desc d y.from_ (passOf y) := by
  have hdesc' : streamOf (accessBytes o.T) y.desc = some d := hdesc
  rw [exec_stream hi, streamOp, atHead_pass _ _ _ _ hd, unlessVl0_pass _ _ hvl]
  simp only [not_misaligned hal, Bool.false_eq_true, if_false, hpass, hdesc']

end Stream

/-- R22, R235: with VL = 0 the operations of the hash and stream engine have no effect. -/
theorem hashStream_vl0 {s : State} {o : Ops} (hvl : s.cpu.vl = 0) :
    ∀ i ∈ [(.sinter o : Instr), .smerge o, .hacc o, .hdrain o], HeadReady i [o.T] s.cpu → exec i s = .next (s.retire id) := by
  intro i hi hd
  have hexec : ∃ k, exec i s = atHead i [o.T] s (unlessVl0 s k) := by
    simp only [List.mem_cons, List.not_mem_nil, or_false] at hi
    rcases hi with rfl | rfl | rfl | rfl <;> exact ⟨_, rfl⟩
  obtain ⟨k, hexec⟩ := hexec
  rw [hexec, atHead_pass _ _ _ _ hd, unlessVl0_none _ _ hvl]

/-- R306: a choice of SINTER by the order of the two keys. -/
theorem interStep_spec (t : Nat) (q : Pass) (a b : Nat) :
    (interStep t q a b).out.length + q.n = (interStep t q a b).n + q.out.length
      ∧ (intOf t a = intOf t b → (interStep t q a b).out = q.out ++ [(q.n, a, false)] ∧ (interStep t q a b).apos = q.apos + 1 ∧ (interStep t q a b).bpos = q.bpos + 1)
      ∧ (intOf t a < intOf t b → (interStep t q a b).out = q.out ∧ (interStep t q a b).apos = q.apos + 1 ∧ (interStep t q a b).bpos = q.bpos)
      ∧ (intOf t b < intOf t a → (interStep t q a b).out = q.out ∧ (interStep t q a b).apos = q.apos ∧ (interStep t q a b).bpos = q.bpos + 1) := by
  rcases lt_trichotomy (intOf t a) (intOf t b) with h | h | h
  · have hstep : interStep t q a b = q.pastA a := if_pos h
    rw [hstep]
    exact ⟨Nat.add_comm .., fun he => absurd he h.ne, fun _ => ⟨rfl, rfl, rfl⟩, fun hlt => absurd hlt h.asymm⟩
  · have hstep : interStep t q a b = ((q.give a false).pastA a).pastB b := by simp [interStep, h]
    rw [hstep]
    refine ⟨?_, fun _ => ⟨rfl, rfl, rfl⟩, fun hlt => absurd h hlt.ne, fun hlt => absurd h hlt.ne'⟩
    simp only [Pass.pastA, Pass.pastB, Pass.give, List.length_append, List.length_singleton]
    omega
  · have hstep : interStep t q a b = q.pastB b := by simp [interStep, h, h.asymm]
    rw [hstep]
    exact ⟨Nat.add_comm .., fun he => absurd he h.ne', fun hlt => absurd hlt h.asymm, fun _ => ⟨rfl, rfl, rfl⟩⟩

/-! Hash tables (R308 to R311). -/

section Init

variable {s s1 s2 s3 s4 : State} {o : Ops} {hp sp : List (Place × Nat)} {slots limit : Nat} (hslots : slots = (s.srcB o.b).toNat)
  (hlimit : limit = if (s.srcG o.C).toNat = 0 then slots else min (s.srcG o.C).toNat slots)
  (hal : (s.srcG o.A).toNat % 64 = 0) (hok : hashSlotsOk slots = true)
include hslots hal hok

theorem hinit_waits (hq : (o.releases && earlierPosts s) = true) : exec (.hinit o) s = .next s.park := by
  change execHinit o s = _
  simp only [execHinit, ← hslots, not_misaligned hal, hok, afterPosts, hq]
  simp

variable (hq : (o.releases && earlierPosts s) = false) (hhp : rangeOf s (s.who .vector) (s.srcG o.A) 64 .write = .ok hp s1)
  (hsp : rangeOf s1 (s.who .vector) (s.srcG o.A + 64) (16 * slots) .write = .ok sp s2)
include hlimit hq hhp hsp

theorem hinit_issues (hnb : o.nb = true) (hcc : ccFull s o.ccNo = false) :
    exec (.hinit o) s = .next ((issueNb s2 o.ccNo false none (headerPieces hp (hinitHeader slots limit o.T) ++ slotPieces sp)).retire id) := by
  change execHinit o s = _
  simp only [execHinit, ← hslots, ← hlimit, not_misaligned hal, hok, hcc, hnb, afterPosts_passes hq, hhp, hsp, queuedAccOut]
  simp

/-- R309: the blocking form writes the header in its first step; a later one goes on where the one before it stopped. -/
theorem hinit_step {e : Nat} (hnb : o.nb = false)
    (hhead : (headPass s2 = none ∧ e = 0 ∧ writePlaces (s.who .vector) .engine false s2 hp (hinitHeader slots limit o.T) = (s3, .ok))
      ∨ (∃ y, headPass s2 = some y ∧ e = y.n ∧ s3 = s2)) : exec (.hinit o) s = hinitSlots s3 (s.who .vector) (s.srcG o.A) slots e sp := by
  change execHinit o s = _
  simp only [execHinit, ← hslots, ← hlimit, not_misaligned hal, hok, hnb, afterPosts_passes hq, hhp, hsp, queuedAccOut]
  rcases hhead with ⟨hnone, rfl, hwrite⟩ | ⟨y, hsome, rfl, rfl⟩
  · simp [hnone, hwrite]
  · simp [hsome]

end Init

theorem hinitSlots_written {s s1 : State} {w : Who} {va : Word} {slots e : Nat} {sp : List (Place × Nat)}
    (hwrite : writePlaces w .engine false s (slicePlaces sp (16 * e) (16 * min 64 (slots - e))) ((List.replicate (min 64 (slots - e)) emptySlot).flatten) = (s1, .ok)) :
    hinitSlots s w va slots e sp = if slots ≤ e + min 64 (slots - e) then .next (s1.retire id) else .next (betweenSteps s1 { n := e + min 64 (slots - e) }) := by
  simp only [hinitSlots, stepElems, hwrite]
  rfl

/-- R308: an operation on a table whose header is legal and of its type goes on with it. -/
theorem withTable_of_tableRead {o : Ops} {s s1 : State} {bytes : List Byte} {h : HashHeader} (hal : (s.srcG o.A).toNat % 64 = 0)
    (ht : TableRead o s bytes h s1) (k : HashHeader → List Byte → State → Out) : withTable o s k = k h bytes s1 := by
  obtain ⟨hread, hheader, htype⟩ := ht
  rcases hread with ⟨hnone, x, hx, rfl⟩ | ⟨y, hsome, rfl, rfl⟩
  · simp only [withTable, not_misaligned hal, Bool.false_eq_true, if_false, hnone, hx, queuedAccOut, hheader, if_pos htype]
  · simp only [withTable, not_misaligned hal, Bool.false_eq_true, if_false, hsome, hheader, if_pos htype]

section Acc

variable {o : Ops} {table : Word} {h : HashHeader} {u : Strand} {bytes : List Byte} {stop : Nat} {l : List Nat} {s t : State}

/-- R310: keys of this step that have been placed are done with. -/
theorem haccElems_of_keysPlaced (hp : KeysPlaced o table h u l s t) (hl : ∀ k ∈ l, k < stop) (rest : List Nat) :
    haccElems o table h u bytes stop s (l ++ rest) = haccElems o table h u bytes stop t rest := by
  induction hp with
  | done s => rfl
  | key k more s s1 t habn hplace _ ih =>
    obtain ⟨hk, hmore⟩ := List.forall_mem_cons.mp hl
    rw [List.cons_append, haccElems]
    simp only [Nat.not_le.mpr hk, if_false, habn, hplace, ih hmore]

theorem haccElems_later {k : Nat} (hk : stop ≤ k) (rest : List Nat) :
    haccElems o table h u bytes stop s (k :: rest) = .next (betweenSteps (atElement s k) { desc := bytes }) := if_pos hk

end Acc

theorem mem_takeWhile_lt {n k : Nat} {l : List Nat} (h : k ∈ l.takeWhile (fun k => decide (k < n))) : k < n := by
  simpa using List.mem_takeWhile_imp h

theorem le_of_dropWhile_lt {n k : Nat} {l rest : List Nat} (h : l.dropWhile (fun k => decide (k < n)) = k :: rest) : n ≤ k := by
  have := List.head?_dropWhile_not (fun k => decide (k < n)) l
  simpa [h] using this

section Hacc

variable {o : Ops} {s s1 s2 s4 : State} {bytes : List Byte} {h : HashHeader} {hp : List (Place × Nat)} (hd : HeadReady (.hacc o) [o.T] s.cpu)
  (hvl : s.cpu.vl ≠ 0) (hal : (s.srcG o.A).toNat % 64 = 0) (ht : TableRead o s bytes h s1)
  (hready : (headPass s1 = none ∧ rangeOf s1 (s1.who .vector) (s1.srcG o.A) (64 + 16 * h.slots) .atomic = .ok hp s4) ∨ (headPass s1 ≠ none ∧ s4 = s1))
include hd hvl hal ht hready

theorem hacc_elems : exec (.hacc o) s = haccElems o (s.srcG o.A) h s.cpu bytes (s.cpu.vstart + 64) s4
    ((activeMem s.cpu o false).filter (fun k => s.cpu.readV o.D k != 2 ^ 64 - 1)) := by
  have htable : tableReady o h s1 = .ok () s4 := by
    rcases hready with ⟨hnone, hrange⟩ | ⟨hsome, rfl⟩
    · simp only [tableReady, hnone, hrange, Acc.andThen]
    · obtain ⟨y, hy⟩ := Option.ne_none_iff_exists'.mp hsome
      simp only [tableReady, hy]
  change execHacc o s = _
  rw [execHacc, atHead_pass _ _ _ _ hd, unlessVl0_pass _ _ hvl, withTable_of_tableRead hal ht, htable]
  rfl

/-- R310, R64: the keys of this step are placed; HACC then stands at the next one. -/
theorem hacc_placed {l rest : List Nat} (hkeys : (activeMem s.cpu o false).filter (fun k => s.cpu.readV o.D k != 2 ^ 64 - 1) = l ++ rest)
    (hnow : ∀ k ∈ l, k < s.cpu.vstart + 64) (hp : KeysPlaced o (s.srcG o.A) h s.cpu l s4 s2) :
    exec (.hacc o) s = haccElems o (s.srcG o.A) h s.cpu bytes (s.cpu.vstart + 64) s2 rest := by
  rw [hacc_elems hd hvl hal ht hready, hkeys, haccElems_of_keysPlaced hp hnow]

end Hacc

section Drain

variable {o : Ops} {s s1 s2 s3 : State} {bytes : List Byte} {h : HashHeader} (hd : HeadReady (.hdrain o) [o.T] s.cpu) (hvl : s.cpu.vl ≠ 0)
  (hal : (s.srcG o.A).toNat % 64 = 0) (ht : TableRead o s bytes h s1) {x : EnginePass}
  (hx : x = (headPass s1).getD { desc := bytes, from_ := s1.cpu.vstart, n := s1.cpu.vstart, apos := h.drain }) {e n : Nat} {out : List (Nat × Nat × Nat)}
include hd hvl hal ht hx

/-- The slots that a step of HDRAIN has read, in vD and vC. -/
def putDrained (o : Ops) (out : List (Nat × Nat × Nat)) (t : Strand) : Strand :=
  out.foldl (fun (u : Strand) y => (u.writeV o.D y.1 y.2.1).writeV o.C y.1 (extendV u.ew o.T y.2.2)) t

theorem hdrain_more (hloop : drainLoop o (s.srcG o.A) h.slots s1.cpu.vl 64 s1 x.apos x.n [] = (s2, e, n, out, .more)) :
    exec (.hdrain o) s = .next (betweenSteps (s2.onCpu (putDrained o out)) { x with n := n, apos := e }) := by
  change execHdrain o s = _
  rw [execHdrain, atHead_pass _ _ _ _ hd, unlessVl0_pass _ _ hvl, withTable_of_tableRead hal ht]
  simp only [← hx, stepElems, hloop]
  rfl

theorem hdrain_stops {why : PassEnd} (hwhy : why = .full ∨ why = .exhausted)
    (hloop : drainLoop o (s.srcG o.A) h.slots s1.cpu.vl 64 s1 x.apos x.n [] = (s2, e, n, out, why))
    (hwrite : writeMem s2 (s2.who .vector) .engine (s.srcG o.A + 16) (leBytes 8 e) false = .ok () s3) :
    exec (.hdrain o) s = .next (s3.retire (fun t => { putDrained o out t with vl := min t.vl n })) := by
  have hmin (t : Strand) : (if n ≤ t.vl then n else t.vl) = min t.vl n := by rw [min_comm, min_def]
  change execHdrain o s = _
  rw [execHdrain, atHead_pass _ _ _ _ hd, unlessVl0_pass _ _ hvl, withTable_of_tableRead hal ht]
  rcases hwhy with rfl | rfl <;> (simp only [← hx, stepElems, hloop, hwrite, hmin]; rfl)

end Drain

/-- Settles O52: the engine's loop ends a step of a pass in one of three ways, and each table operation goes on from the header that it has read. -/
theorem streamsAndTablesComplete : Obligations.StreamsAndTablesComplete := by
  intro s s0 s1 s2 s3 s4 o x d h ps hp sp bytes va w size slots c limit
  refine ⟨fun hal hvl i merge hi hd => ⟨fun hpass hps hread hdesc => ?_, fun y hpass hdesc => ?_⟩, hashStream_vl0,
    fun hal hok hhp hsp hq => ⟨hinit_issues rfl rfl hal hok hq hhp hsp, fun e hnb hhead hwrite => ?_⟩, hinit_waits rfl,
    fun hd hvl hal ht hready hplaced => ?_, fun e n out why hd hvl hal ht hloop => ⟨?_, fun hwhy => hdrain_stops hd hvl hal ht rfl hwhy hloop⟩,
    interStep_spec⟩
  · rw [stream_begins hi hal hvl hd hpass hps hread hdesc]
    exact passStep_streamStep _ _ _ _ _ _ _
  · rw [stream_goes_on hi hal hvl hd hpass hdesc]
    exact passStep_streamStep _ _ _ _ _ _ _
  · have hexec := (hinit_step rfl rfl hal hok hq hhp hsp hnb hhead).trans (hinitSlots_written hwrite)
    exact ⟨fun hlast => hexec.trans (if_pos hlast), fun hmore => hexec.trans (if_neg (Nat.not_le.mpr hmore))⟩
  · have hexec := hacc_placed hd hvl hal ht hready List.takeWhile_append_dropWhile.symm (fun _ => mem_takeWhile_lt) hplaced
    refine ⟨fun hlast => ?_, fun k rest hmore => ?_⟩
    · rw [hexec, hlast, haccElems]
    · rw [hexec, hmore, haccElems_later (le_of_dropWhile_lt hmore)]
  · rintro rfl
    exact hdrain_more hd hvl hal ht rfl hloop

/-! Words of memory (R3). -/

theorem memWord_lt (m : Memory) (a : Nat) : memWord m a < 2 ^ 64 := by
  have h := leNat_lt (memRead m a 8)
  rwa [memRead_length] at h

theorem memWord_memWrite_same (m : Memory) (a x : Nat) : memWord (memWrite m a (leBytes 8 x)) a = x % 2 ^ 64 := by
  have hread := memRead_memWrite (leBytes 8 x) m a
  rw [leBytes_length] at hread
  rw [memWord, hread, leNat_leBytes]
  rfl

theorem memWord_memWrite_apart (m : Memory) {a b : Nat} {bytes : List Byte} (h : b + 8 ≤ a ∨ a + bytes.length ≤ b) :
    memWord (memWrite m a bytes) b = memWord m b := by
  unfold memWord
  rw [memRead_congr _ m 8 b (fun x hlow hhigh => ?_)]
  rw [memGet_memWrite, if_neg (by omega)]

/-! COPY (R312, R64). -/

section Copy

variable {s s1 s2 s3 : State} {o : Ops} {src dst : List (Place × Nat)} {n : Nat} (hn : n = (s.srcB o.b).toNat)
include hn

theorem copy_illegal (h : 2 ^ 24 < n) : exec (.copy o) s = .next (queuedTrap s 0x02 s.headWord) := if_pos (hn ▸ h)

theorem copy_none (h : n = 0) : exec (.copy o) s = .next (s.retire id) := by
  change execCopy o s = _
  simp [execCopy, ← hn, h]

variable (hpos : 0 < n) (hmax : n ≤ 2 ^ 24)
include hpos hmax

theorem copy_waits (hq : (o.releases && earlierPosts s) = true) : exec (.copy o) s = .next s.park := by
  change execCopy o s = _
  simp only [execCopy, ← hn, if_neg (Nat.not_lt.mpr hmax), if_neg hpos.ne', afterPosts, hq, if_true, ite_self]

variable (hq : (o.releases && earlierPosts s) = false) (hsrc : rangeOf s (s.who .vector) (s.srcG o.A) n .read = .ok src s1)
  (hdst : rangeOf s1 (s.who .vector) (s.srcG o.D) n .write = .ok dst s2)
include hq hsrc hdst

theorem copy_issues (hnb : o.nb = true) (hcc : ccFull s o.ccNo = false) :
    exec (.copy o) s = .next ((issueNb s2 o.ccNo true none (copyPieces src dst s2.cpu.vstart n)).retire id) := by
  change execCopy o s = _
  simp only [execCopy, ← hn, if_neg (Nat.not_lt.mpr hmax), if_neg hpos.ne', hnb, hcc, Bool.and_false, Bool.false_eq_true, if_false,
    afterPosts_passes hq, hsrc, hdst, queuedAccOut, if_true]

theorem copy_turn (hnb : o.nb = false) : exec (.copy o) s = copyTurn (s.who .vector) src dst (s.srcG o.A) (s.srcG o.D) n s2 := by
  change execCopy o s = _
  simp only [execCopy, ← hn, if_neg (Nat.not_lt.mpr hmax), if_neg hpos.ne', hnb, Bool.false_and, Bool.false_eq_true, if_false,
    afterPosts_passes hq, hsrc, hdst, queuedAccOut]

end Copy

section CopyTurn

variable {w : Who} {src dst : List (Place × Nat)} {sva dva : Word} {n : Nat} {s s1 : State}

/-- A copy that was stopped after its last step has nothing left. -/
theorem copyTurn_none_left (h : n ≤ 256 * s.cpu.vstart) : copyTurn w src dst sva dva n s = .next (s.retire id) := if_pos h

theorem copyTurn_copies {lo : Nat} (hlo : lo = 256 * s.cpu.vstart) (h : lo < n)
    (hcopy : copyStep s w (slicePlaces src lo (min 256 (n - lo))) (slicePlaces dst lo (min 256 (n - lo)))
      (sva + BitVec.ofNat 64 lo) (dva + BitVec.ofNat 64 lo) = .ok () s1) :
    copyTurn w src dst sva dva n s = .next (if n ≤ lo + 256 then s1.retire id else betweenSteps (atElement s1 (s.cpu.vstart + 1)) {}) := by
  subst hlo
  unfold copyTurn
  simp only [if_neg (Nat.not_le.mpr h), vaAdd, hcopy]
  split <;> rfl

end CopyTurn

/-! Circular buffers (R140, R141, R313, R314). -/

section Cbcopy

variable {s s1 s2 s3 s4 s5 : State} {o : Ops} {p : Place} {d : CircBuf} (hread : readCb s (s.who .vector) (s.srcG o.D) = .ok (p, d) s1)
  (htr : cbTranslate s1 (s.who .vector) (s.srcG o.A) (s.srcG o.D) d = .ok () s2)
include hread htr

theorem cbcopy_issues (hnb : o.nb = true) (hcc : ccFull s o.ccNo = false) :
    exec (.cbcopy o) s = .next ((issueNb s2 o.ccNo false none [(p, .cbcopy (s.srcG o.A) (s.srcG o.D))]).retireKeep id) := by
  change execCbcopy o s = _
  simp only [execCbcopy, hnb, hcc, Bool.and_false, Bool.false_eq_true, if_false, hread, htr, queuedAccOut, if_true]

variable (hnb : o.nb = false)
include hnb

theorem cbcopy_goes_on {a : Word} {slot num : Nat} (hclaim : headClaim s2 = some (a, slot, num)) :
    exec (.cbcopy o) s = cbFinish s2 (s.who .vector) (s.srcG o.A) (s.srcG o.D) p d slot num := by
  change execCbcopy o s = _
  simp only [execCbcopy, hnb, Bool.false_and, Bool.false_eq_true, if_false, hread, htr, queuedAccOut, hclaim]

variable {q : Place} {b : CircBuf} (hclaim : headClaim s2 = none)
include hclaim

theorem cbcopy_claims {k : CbClaim} (hcb : claimCb s2 (s.who .vector) (s.srcG o.D) = .ok (q, b, some k) s3) :
    exec (.cbcopy o) s = cbFinish s3 (s.who .vector) (s.srcG o.A) (s.srcG o.D) q k.buf k.slot k.num := by
  change execCbcopy o s = _
  simp only [execCbcopy, hnb, Bool.false_and, Bool.false_eq_true, if_false, hread, htr, queuedAccOut, hclaim, hcb]

theorem cbcopy_waits (hcb : claimCb s2 (s.who .vector) (s.srcG o.D) = .ok (q, b, none) s3) :
    exec (.cbcopy o) s = .next (parkOn s3 [(q.ha + 16) / 8]) := by
  change execCbcopy o s = _
  simp only [execCbcopy, hnb, Bool.false_and, Bool.false_eq_true, if_false, hread, htr, queuedAccOut, hclaim, hcb]

end Cbcopy

section CbFinish

variable {s s1 s2 : State} {w : Who} {src desc : Word} {p : Place} {d : CircBuf} {slot num lo : Nat} (hlo : ((headPass s).map (·.n)).getD 0 = lo)
  (hmove : cbMove s w src d slot lo = .ok () s1)
include hlo hmove

theorem cbFinish_more (h : lo + 256 < d.size) :
    cbFinish s w src desc p d slot num = .next (betweenSteps (onHead s1 (fun x => { x with claim := some (desc, slot, num) })) { n := lo + 256 }) := by
  simp only [cbFinish, hlo, hmove, if_pos h]

/-- R313: after its last step the slot is filled. -/
theorem cbFinish_fills (h : d.size ≤ lo + 256) (hfill : fillCb s1 w p num = (s2, .ok)) :
    cbFinish s w src desc p d slot num = .next (s2.retireKeep id) := by
  simp only [cbFinish, hlo, hmove, if_neg (Nat.not_lt.mpr h), hfill]

end CbFinish

theorem cbfree_waits {s : State} {o : Ops} (h : earlierPosts s = true) : exec (.cbfree o) s = .next s.park := if_pos h

section Slots

variable {s s1 s2 : State} {o : Ops} {p : Place} {d : CircBuf} (hread : readCb s (s.who .vector) (s.srcG o.A) = .ok (p, d) s1)
include hread

theorem cbwaitf_takes (hfilled : 0 < d.filled) (hput : putCb s1 (s.who .vector) p { d with filled := d.filled - 1, read := (d.read + 1) % d.count } = (s2, .ok)) :
    exec (.cbwaitf o) s = .next (s2.retireKeep (fun t => t.writeG o.D (BitVec.ofNat 64 (d.base + d.read * d.size)))) := by
  change execCbwaitf o s = _
  simp only [execCbwaitf, hread, queuedAccOut, if_neg hfilled.ne', hput]
  rfl

theorem cbwaitf_waits (hfilled : d.filled = 0) : exec (.cbwaitf o) s = .next (parkOn s1 [(p.ha + 24) / 8]) := by
  change execCbwaitf o s = _
  simp only [execCbwaitf, hread, queuedAccOut, if_pos hfilled]

variable (hq : earlierPosts s = false) {n : Nat} (hn : n = (s.srcB o.b).toNat)
include hq hn

theorem cbfree_returns (hlow : 1 ≤ n) (hhigh : n ≤ d.count) (hroom : d.free + n ≤ d.count) (hput : putCb s1 (s.who .vector) p { d with free := d.free + n } = (s2, .ok)) :
    exec (.cbfree o) s = .next (s2.retireKeep id) := by
  have hlegal : ¬ (n < 1 ∨ d.count < n ∨ d.count < d.free + n) := by omega
  change execCbfree o s = _
  simp only [execCbfree, afterPosts, hq, hread, queuedAccOut, ← hn, if_neg hlegal, hput, Bool.and_false, Bool.false_eq_true, if_false]

theorem cbfree_traps (h : n < 1 ∨ d.count < n ∨ d.count < d.free + n) : exec (.cbfree o) s = .next (queuedTrap s1 0x10 (s.srcG o.A)) := by
  change execCbfree o s = _
  simp only [execCbfree, afterPosts, hq, hread, queuedAccOut, ← hn, if_pos h, Bool.and_false, Bool.false_eq_true, if_false]
  rfl

end Slots

/-! Named buffers (R138, R139, R173, R315). -/

theorem shadow_answers {s : State} {o : Ops} {e : NamedBuf} (h : nbFind s s.cpu.pkg s.cpu.vi
      (fun b => decide (b.pub ≤ (s.srcG o.A).toNat) && decide ((s.srcG o.A).toNat < b.pub + 65536 * b.pages)) = some e) :
    exec (.shadow o) s = .next (s.retireKeep (fun t => t.writeG o.D (BitVec.ofNat 64 (e.alias_ + ((s.srcG o.A).toNat - e.pub))))) := by
  change execShadow o s = _
  simp only [execShadow, h]

section Publish

variable {s s1 : State} {o : Ops} {e : NamedBuf} (h : nbFind s s.cpu.pkg s.cpu.vi (fun b => b.pub == (s.srcG o.A).toNat) = some e)
include h

theorem publish_issues (hnb : o.nb = true) (hcc : ccFull s o.ccNo = false) (hpages : publishPages s s.cpu.pkg s.cpu.vi e = .ok () s1) :
    exec (.publish o) s = .next ((issueNb s1 o.ccNo false none [(homePlace s1 (s.srcG o.A), .publish e.index)]).retireKeep id) := by
  change execPublish o s = _
  simp only [execPublish, hnb, hcc, Bool.and_false, Bool.false_eq_true, if_false, h, if_true, hpages, queuedAcc]

theorem publish_now (hnb : o.nb = false) :
    exec (.publish o) s = queuedAcc (publishNow s s.cpu.pkg s.cpu.vi e (earlierWrites s s.cpu s.next)) (fun _ s1 => s1.retireKeep id) := by
  change execPublish o s = _
  simp only [execPublish, hnb, Bool.false_and, Bool.false_eq_true, if_false, h]

end Publish

/-- R112: an entry keeps all but bits 47:16, which are the other entry's. -/
theorem withFrame_fields {a b : Nat} (ha : a < 2 ^ 64) :
    withFrame a b < 2 ^ 64 ∧ withFrame a b / 2 ^ 16 % 2 ^ 32 = b / 2 ^ 16 % 2 ^ 32 ∧ withFrame a b % 2 ^ 16 = a % 2 ^ 16 := by
  unfold withFrame low
  omega

/-- R139: two entries that are apart exchange their frames. -/
theorem swapFrames_words (s : State) {x y : Nat} (h : x + 8 ≤ y ∨ y + 8 ≤ x) :
    memWord (swapFrames s x y).mem x = withFrame (memWord s.mem x) (memWord s.mem y)
      ∧ memWord (swapFrames s x y).mem y = withFrame (memWord s.mem y) (memWord s.mem x) := by
  constructor
  · rw [swapFrames, memWord_memWrite_apart _ (by rw [leBytes_length]; exact h), memWord_memWrite_same,
      Nat.mod_eq_of_lt (withFrame_fields (memWord_lt ..)).1]
  · rw [swapFrames, memWord_memWrite_same, Nat.mod_eq_of_lt (withFrame_fields (memWord_lt ..)).1]

/-- Settles O53: COPY and CBCOPY go on by one step in a turn, the counts of a circular buffer change as Claim, Fill and Free say, and a swap exchanges frames. -/
theorem enginesComplete : Obligations.EnginesComplete := by
  intro s s1 s2 s3 s4 s5 o src dst p d e w n dva sva
  refine ⟨copy_illegal rfl, copy_none rfl, copy_waits rfl, fun hpos hmax hq hsrc hdst => ?_, fun hread htr => ?_, cbfree_waits, fun hread => ?_,
    shadow_answers, fun h => ?_, fun x y _ h => ?_⟩
  · refine ⟨copy_issues rfl hpos hmax hq hsrc hdst, fun hnb => ?_⟩
    have hexec := copy_turn rfl hpos hmax hq hsrc hdst hnb
    exact ⟨fun h => hexec.trans (copyTurn_none_left h), fun h hcopy => hexec.trans (copyTurn_copies rfl h hcopy)⟩
  · refine ⟨cbcopy_issues hread htr, fun hnb hclaim _ q b k hcb hpass hmove => ?_, fun hnb hclaim q b => cbcopy_waits hread htr hnb hclaim,
      fun hnb a slot num lo hclaim hlo hmove => ?_⟩
    · have hexec := cbcopy_claims hread htr hnb hclaim hcb
      have hlo : ((headPass s3).map (·.n)).getD 0 = 0 := by rw [hpass]; rfl
      have hzero : 0 + 256 = 256 := rfl
      exact ⟨fun h => hexec.trans (cbFinish_more hlo hmove (hzero.symm ▸ h)), fun h hfill => hexec.trans (cbFinish_fills hlo hmove (hzero.symm ▸ h) hfill)⟩
    · have hexec := cbcopy_goes_on hread htr hnb hclaim
      exact ⟨fun h => hexec.trans (cbFinish_more hlo hmove h), fun h hfill => hexec.trans (cbFinish_fills hlo hmove h hfill)⟩
  · exact ⟨cbwaitf_takes hread, cbwaitf_waits hread, fun hq => cbfree_returns hread hq rfl, fun hq => cbfree_traps hread hq rfl⟩
  · refine ⟨publish_issues h, fun hnb hnow => ?_, fun hnb hnow => ?_⟩ <;> rw [publish_now h hnb, hnow] <;> rfl
  · obtain ⟨hx, hy⟩ := swapFrames_words s h
    obtain ⟨-, hxframe, hxlow⟩ := withFrame_fields (b := memWord s.mem y) (memWord_lt s.mem x)
    obtain ⟨-, hyframe, hylow⟩ := withFrame_fields (b := memWord s.mem x) (memWord_lt s.mem y)
    rw [← hx] at hxframe hxlow
    rw [← hy] at hyframe hylow
    exact ⟨hxframe, hyframe, hxlow, hylow⟩

/-! Bulk transfers (R317, R318). -/

/-- A counter that is named and aligned passes its check. -/
theorem filter_misaligned {c : Option Word} (h : ∀ a, c = some a → a.toNat % 8 = 0) : c.filter (fun a => misaligned a 8) = none := by
  cases c with
  | none => rfl
  | some a => simp [not_misaligned (h a rfl)]

theorem bulkPlaces_eq (s : State) (va : Word) (ps : List (Place × Nat)) : bulkPlaces s va ps = if ps = [] then [(emptyPlace s va, 0)] else ps := by
  cases ps <;> rfl

theorem readMarked_same (w : Who) (l : List (Place × Nat)) (s : State) : MemSame s (readMarked w s l).2 := by
  induction l generalizing s with
  | nil => exact .refl s
  | cons x rest ih =>
    obtain ⟨p, n⟩ := x
    exact MemSame.trans (readPlace_same ..) (ih _)

theorem rsendNb_frame (s : State) (o : Ops) (b : Bulk) (flag : Bool) (src dst : List (Place × Nat)) (c : Option Place) :
    ∃ t : State, rsendNb s o b flag src dst c = .next (t.retireKeep id) ∧ t.mem = s.mem := by
  have hread := (readMarked_same (s.who .vector) src s).1
  unfold rsendNb
  dsimp only
  refine ⟨_, rfl, (issueNb_same ..).1.trans (Eq.trans ?_ hread)⟩
  split <;> rfl

section Rsend

variable {s s1 s2 s3 s4 : State} {o : Ops} (hs : Starts s)
include hs

theorem rsend_waits (hq : (o.releases && earlierPosts s) = true) : exec (.rsend o) s = .next s.park := by
  change execRsend o s = _
  simp only [execRsend, awaited_starts hs, afterPosts, hq, if_true]

variable {src dst : List (Place × Nat)} {cp : Option Place} {x : Got} (hq : (o.releases && earlierPosts s) = false)
  (hn : (bulkOf o s).n ≤ (if o.orderedFlag then 256 else 2 ^ 24))
  (hdie : oneDie s s.cpu (bulkOf o s).dst.toNat (bulkOf o s).n ((bulkOf o s).counter.map (·.toNat)) = true)
  (hc : ∀ c, (bulkOf o s).counter = some c → c.toNat % 8 = 0) (hsrc : rangeOf s (s.who .vector) (bulkOf o s).src (bulkOf o s).n .read = .ok src s1)
  (hdst : rangeOf s1 (s.who .vector) (bulkOf o s).dst (bulkOf o s).n .write = .ok dst s2)
  (hcp : counterPlace s2 (s.who .vector) (bulkOf o s).counter = .ok cp s3)
include hq hn hdie hc hsrc hdst hcp

theorem rsend_translated (hcc : (o.nb && ccFull s o.ccNo) = false) : exec (.rsend o) s =
    if o.nb then rsendNb s3 o (bulkOf o s) o.orderedFlag src dst cp else rsendBlocking s3 (bulkOf o s) o.orderedFlag src dst cp := by
  have hlegal : ¬ ((if o.orderedFlag then 256 else 2 ^ 24) < (bulkOf o s).n
      ∨ (!oneDie s s.cpu (bulkOf o s).dst.toNat (bulkOf o s).n ((bulkOf o s).counter.map (·.toNat))) = true) := by
    rw [hdie]
    simpa using hn
  change execRsend o s = _
  simp only [execRsend, awaited_starts hs, afterPosts_passes hq, if_neg hlegal, filter_misaligned hc, hcc, Bool.false_eq_true, if_false,
    hsrc, hdst, hcp, queuedAccOut]

theorem rsend_sends (hnb : o.nb = false) (hread : readPlaces (s3.who .vector) 0 (bulkOf o s).src s3 src = .ok x s4) :
    exec (.rsend o) s = .next (awaitPieces (countSent s4 o.orderedFlag (destDie s3 (bulkPlaces s3 (bulkOf o s).dst dst)) (bulkOf o s).n) false
      (cp.map (·, (bulkOf o s).n)) (numbered (bulkPieces o.orderedFlag (flagNeed s4 (destDie s3 (bulkPlaces s3 (bulkOf o s).dst dst)))
        (bulkPlaces s3 (bulkOf o s).dst dst) (x.bytes.map (·, false))))) := by
  rw [rsend_translated hs hq hn hdie hc hsrc hdst hcp (by simp [hnb]), hnb]
  simp only [Bool.false_eq_true, if_false, rsendBlocking, hread, queuedAcc]

theorem rsend_issues (hnb : o.nb = true) (hcc : ccFull s o.ccNo = false) : ∃ t : State, exec (.rsend o) s = .next (t.retireKeep id) ∧ t.mem = s3.mem := by
  rw [rsend_translated hs hq hn hdie hc hsrc hdst hcp (by simp [hcc]), if_pos hnb]
  exact rsendNb_frame ..

end Rsend

section Rfetch

variable {s s1 s2 s3 : State} {o : Ops} {src dst : List (Place × Nat)} {cp : Option Place} (hs : Starts s) (hn : (bulkOf o s).n ≤ 2 ^ 24)
  (hown : onOwnDie s (bulkOf o s).dst.toNat (bulkOf o s).n = true)
  (hc : ∀ c, (bulkOf o s).counter = some c → onOwnDie s c.toNat 8 = true ∧ c.toNat % 8 = 0)
  (hsrc : rangeOf s (s.who .vector) (bulkOf o s).src (bulkOf o s).n .read = .ok src s1)
  (hdst : rangeOf s1 (s.who .vector) (bulkOf o s).dst (bulkOf o s).n .write = .ok dst s2)
  (hcp : counterPlace s2 (s.who .vector) (bulkOf o s).counter = .ok cp s3)
include hs hn hown hc hsrc hdst hcp

theorem rfetch_translated (hcc : (o.nb && ccFull s o.ccNo) = false) : exec (.rfetch o) s =
    if o.nb then .next ((issueNb s3 o.ccNo false (cp.map (·, (bulkOf o s).n)) (rfetchPieces src dst)).retireKeep id)
    else .next (awaitPieces s3 false (cp.map (·, (bulkOf o s).n)) (numbered (rfetchPieces src dst))) := by
  change execRfetch o s = _
  unfold execRfetch
  dsimp only
  rw [awaited_starts hs]
  refine (if_neg ?_).trans ?_
  · rw [hown]
    split
    · simpa using hn
    · next c h => simpa [(hc c h).1] using hn
  rw [filter_misaligned (fun c h => (hc c h).2)]
  simp only [hcc, Bool.false_eq_true, if_false, hsrc, hdst, hcp, queuedAccOut]

end Rfetch

/-- R362, R368: RSEND and RFETCH end as their packets have. -/
theorem bulk_awaited {s : State} {o : Ops} {i : Instr} (hi : i ∈ [(.rsend o : Instr), .rfetch o]) : ∃ start, exec i s = awaited s start bulkDone := by
  simp only [List.mem_cons, List.not_mem_nil, or_false] at hi
  rcases hi with rfl | rfl
  · change ∃ start, execRsend o s = _
    unfold execRsend
    exact ⟨_, rfl⟩
  · change ∃ start, execRfetch o s = _
    unfold execRfetch
    exact ⟨_, rfl⟩

section BulkEnds

variable {s : State} {o : Ops} {i : Instr} (hi : i ∈ [(.rsend o : Instr), .rfetch o]) {e : QEntry} {rest : List QEntry} (h : Waits s e rest)
include hi h

theorem bulk_waits (hp : ∃ p ∈ s.pieces, p.op = e.op) : exec i s = .next s.park := by
  obtain ⟨start, hexec⟩ := bulk_awaited (s := s) hi
  rw [hexec, awaited_waits h hp]

theorem bulk_completes (ha : Answered s e) (hf : e.fails = []) : exec i s = .next (s.retireKeep id) := by
  obtain ⟨start, hexec⟩ := bulk_awaited (s := s) hi
  rw [hexec, awaited_answered h ha, hf]
  exact congrArg Host.Outcome.next (VectorMemory.retireKeep_answered h id (fun _ _ => rfl))

theorem bulk_traps {k c : Nat} {tv : Word} (ha : Answered s e) (hl : lowestFail e.fails = some (k, c, tv)) :
    ∃ u, exec i s = .next (queuedTrap u c tv) ∧ u.mem = s.mem := by
  obtain ⟨start, hexec⟩ := bulk_awaited (s := s) hi
  refine ⟨answered s e rest, ?_, rfl⟩
  rw [hexec, awaited_answered h ha]
  simp only [bulkDone, hl]

end BulkEnds

/-! XSEND (R319). -/

theorem xsend_rests {s : State} {o : Ops} (h : xsendResting s = true) : exec (.xsend o) s = .next s.park := if_pos (by simp [h])

section Xsend

variable {s s1 s2 s3 s4 s5 : State} {o : Ops} {l : List (Nat × Word)} {y : Replica} (hr : xsendResting s = false)
  (hl : expertReplicas s (s.who .vector) (s.srcG o.C) (s.srcG o.B).toNat = .ok l s1)
include hr hl

theorem xsend_issues (hnb : o.nb = true) (hcc : ccFull s o.ccNo = false) (hready : xsendReady (s.who .vector) (s.srcG o.A) s1 l = .ok () s2) :
    exec (.xsend o) s = .next ((issueNb s2 o.ccNo false none [({ kind := .pg, ha := 0, va := s.srcG o.A },
      .xsend (s.srcG o.A) (BitVec.ofNat 64 (s.srcG o.B).toNat) (s.srcG o.C))]).retireKeep id) := by
  change execXsend o s = _
  simp only [execXsend, hnb, hcc, hr, Bool.and_false, Bool.or_false, Bool.false_eq_true, if_false, hl, queuedAccOut, if_true, hready, queuedAcc]

variable (hnb : o.nb = false)
include hnb

/-- An XSEND that goes on waits for its packets. -/
theorem xsend_awaited : ∃ start, exec (.xsend o) s = awaited s1 start (fun fails s2 => xsendDone o s2 l fails) := by
  change ∃ start, execXsend o s = _
  simp only [execXsend, hnb, hr, Bool.false_and, Bool.or_false, Bool.false_eq_true, if_false, hl, queuedAccOut]
  exact ⟨_, rfl⟩

theorem xsend_waits {e : QEntry} {rest : List QEntry} (h : Waits s1 e rest) (hp : ∃ p ∈ s1.pieces, p.op = e.op) : exec (.xsend o) s = .next s1.park := by
  obtain ⟨start, hexec⟩ := xsend_awaited hr hl hnb
  rw [hexec, awaited_waits h hp]

/-- R319: once the packets have ended, the claimed slot is filled. -/
theorem xsend_fills {e : QEntry} {rest : List QEntry} (h : Waits s1 e rest) (ha : Answered s1 e) (hf : e.fails = []) {k : Word × Nat × Nat}
    (hk : e.claim = some k) (hclaimed : claimedReplica (answered s1 e rest) ((answered s1 e rest).who .vector) l k = .ok y s2)
    (hfill : finishXsend s2 (s2.who .vector) y = (s3, .ok)) :
    exec (.xsend o) s = .next (s3.retireKeep (fun t => t.writeG o.D (BitVec.ofNat 64 y.r))) := by
  obtain ⟨start, hexec⟩ := xsend_awaited hr hl hnb
  have hhead : headClaim (answered s1 e rest) = some k := hk
  rw [hexec, awaited_answered h ha, hf]
  simp only [xsendDone, lowestFail, hhead, hclaimed, queuedAccOut, hfill]

variable (hs : Starts s1) (hclaim : headClaim s1 = none)
include hs hclaim

/-- R319: where every replica refuses, the entry notes when. -/
theorem xsend_refused (hcl : claimReplica (s.who .vector) (s.srcG o.A) s1 (rankReplicas s1 (s.who .vector) l) = .ok none s2) :
    exec (.xsend o) s = .next (onHead s2 (fun e => { e with refused := some s2.time })).park := by
  change execXsend o s = _
  simp only [execXsend, hnb, hr, Bool.false_and, Bool.or_false, Bool.false_eq_true, if_false, hl, queuedAccOut, awaited_starts hs, hclaim, hcl]

theorem xsend_claims (hcl : claimReplica (s.who .vector) (s.srcG o.A) s1 (rankReplicas s1 (s.who .vector) l) = .ok (some y) s2) :
    exec (.xsend o) s = xsendClaimed s2 (s.srcG o.A) y := by
  change execXsend o s = _
  simp only [execXsend, hnb, hr, Bool.false_and, Bool.or_false, Bool.false_eq_true, if_false, hl, queuedAccOut, awaited_starts hs, hclaim, hcl]

end Xsend

theorem xsendClaimed_sends {s s1 s2 s3 : State} {src : Word} {y : Replica} {sps dps : List (Place × Nat)} {x : Got}
    (hsrc : rangeOf (keepClaim s y) (s.who .vector) src y.claim.buf.size .read = .ok sps s1)
    (hdst : rangeOf s1 (s.who .vector) (slotAddr y.claim.buf y.claim.slot) y.claim.buf.size .write = .ok dps s2)
    (hread : readPlaces (s.who .vector) 0 src s2 sps = .ok x s3) :
    xsendClaimed s src y = .next (awaitPieces s3 false none
      (numbered ((soundParts (packetParts dps) (x.bytes.map (·, false))).map (fun z => (z.1, .data z.2.2 false))))) := by
  simp only [xsendClaimed, hsrc, hdst, hread, Acc.andThen, queuedAcc]

/-! CSEND (R320). -/

/-- The value of an element of a CSEND. -/
def csendValue (o : Ops) (s : State) (i : Nat) : Nat := s.cpu.readV o.A i % 2 ^ typeWidth o.T

/-- The elements that a CSEND may send. -/
def csendActive (o : Ops) (s : State) : List Nat := activeList s.cpu { o with b := .reg 0 0 } false

/-- R320: the most elements that a block sends. -/
def csendLimit (o : Ops) (s : State) : Nat := min (s.srcB o.b).toNat (if byteSize o.T = 4 then 62 else 31)

/-- Where an element is added. -/
def csendAddr (o : Ops) (s : State) (i : Nat) : Word := s.srcG o.D + BitVec.ofNat 64 (byteSize o.T * i)

/-- The elements chosen, without those that have been added already. -/
def csendTodo (o : Ops) (s : State) : List Nat :=
  (((List.range ((s.cpu.vl + 63) / 64)).map (fun j => csendBlock o.T (csendLimit o s) j ((csendActive o s).map (fun i => (i, csendValue o s i))))).flatten.map
    (·.1)).filter (fun i => !(doneAlready s).contains i)

/-- The pieces of a CSEND's elements. -/
def csendPieces (o : Ops) (s : State) (els : List VElem) : List (Nat × Place × PieceOp) :=
  (csendPackets o.T (els.flatMap (fun e => (e.places.take 1).map (fun z => (e.i, z.1, csendValue o s e.i)))) []).filterMap (csendPiece o.T)

section Csend

variable {s s1 : State} {o : Ops} (hd : HeadReady (.csend o) [o.T] s.cpu)
include hd

theorem csend_vl0 (hvl : s.cpu.vl = 0) : exec (.csend o) s = .next (s.retire id) := by
  change execCsend o s = _
  rw [execCsend, atHead_pass _ _ _ _ hd, unlessVl0_none _ _ hvl]

variable (hvl : s.cpu.vl ≠ 0) (habn : ∀ i ∈ csendActive o s, elemAbn s.cpu o.T o.A i = none) (hal : ∀ i ∈ csendTodo o s, (csendAddr o s i).toNat % byteSize o.T = 0)
include hvl habn hal

/-- R320: a CSEND with no ABN and no misaligned element translates the elements that it has to add, and sends them. -/
theorem csend_awaited : exec (.csend o) s = if o.nb && ccFull s o.ccNo then .next s.park else awaited s (fun s0 =>
    match vTranslate (s.who .vector) .atomic (byteSize o.T) .engine (csendAddr o s) s0 (csendTodo o s) with
    | .wait s1 => .next s1.park
    | .fault _ _ c t s1 => .next (queuedTrap s1 c t)
    | .done els s1 =>
      if o.nb then .next ((issueNb s1 o.ccNo false none ((csendPieces o s els).map (·.2))).retire id)
      else if (csendPieces o s els).isEmpty then .next (s1.retire id)
      else .next (awaitPieces s1 false none (csendPieces o s els))) csendDone := by
  change execCsend o s = _
  rw [execCsend, atHead_pass _ _ _ _ hd, unlessVl0_pass _ _ hvl]
  dsimp only
  split
  · next i hi => exact absurd (List.find?_some hi) (by simp [habn i (List.mem_of_find?_eq_some hi)])
  · split
    · rfl
    · split
      · next i hi => exact absurd (List.find?_some hi) (Bool.eq_false_iff.mp (not_misaligned (hal i (List.mem_of_find?_eq_some hi))))
      · rfl

theorem csend_starts (hs : Starts s) (hcc : (o.nb && ccFull s o.ccNo) = false) {els : List VElem}
    (htr : vTranslate (s.who .vector) .atomic (byteSize o.T) .engine (csendAddr o s) s (csendTodo o s) = .done els s1) :
    exec (.csend o) s = if o.nb then .next ((issueNb s1 o.ccNo false none ((csendPieces o s els).map (·.2))).retire id)
      else if csendPieces o s els = [] then .next (s1.retire id) else .next (awaitPieces s1 false none (csendPieces o s els)) := by
  rw [csend_awaited hd hvl habn hal, hcc, awaited_starts hs]
  simp only [Bool.false_eq_true, if_false, htr, List.isEmpty_iff]

variable (hnb : o.nb = false) {e : QEntry} {rest : List QEntry} (h : Waits s e rest)
include hnb h

theorem csend_waits (hp : ∃ p ∈ s.pieces, p.op = e.op) : exec (.csend o) s = .next s.park := by
  rw [csend_awaited hd hvl habn hal, hnb, awaited_waits h hp]
  rfl

theorem csend_answered (ha : Answered s e) : exec (.csend o) s = csendDone e.fails (answered s e rest) := by
  rw [csend_awaited hd hvl habn hal, hnb, awaited_answered h ha]
  rfl

end Csend

section CsendEnds

variable {s : State} {e : QEntry} {rest : List QEntry}

theorem csendDone_completes (h : Waits s e rest) (hf : e.fails = []) : csendDone e.fails (answered s e rest) = .next (s.retire id) := by
  rw [hf]
  exact congrArg Host.Outcome.next (VectorMemory.retire_answered h)

/-- R304: a CSEND that traps keeps the elements that have been added. -/
theorem csendDone_traps {k c : Nat} {tv : Word} (hl : lowestFail e.fails = some (k, c, tv)) :
    ∃ u, csendDone e.fails (answered s e rest) = .next (queuedTrap u c tv) ∧ u.mem = s.mem
      ∧ u.cpu.queue.head?.map (·.bitmap) = some (e.bitmap ++ e.got.map (·.1)) := by
  rw [csendDone, hl]
  exact ⟨_, rfl, rfl, rfl⟩

end CsendEnds

section Blocks

variable {t m j : Nat}

theorem mem_csendInsert {x y : Nat × Nat} {l : List (Nat × Nat)} : y ∈ csendInsert t x l ↔ y = x ∨ y ∈ l := by
  induction l with
  | nil => simp [csendInsert]
  | cons z rest ih =>
    rw [csendInsert]
    split
    · simp
    · simp only [List.mem_cons, ih]
      tauto

theorem mem_foldl_csendInsert {y : Nat × Nat} (l acc : List (Nat × Nat)) (h : y ∈ l.foldl (fun acc x => csendInsert t x acc) acc) : y ∈ acc ∨ y ∈ l := by
  induction l generalizing acc with
  | nil => exact .inl h
  | cons x rest ih =>
    have h' := ih _ h
    rw [mem_csendInsert] at h'
    simp only [List.mem_cons]
    tauto

theorem mem_csendBlock {y : Nat × Nat} {l : List (Nat × Nat)} (h : y ∈ csendBlock t m j l) : y ∈ l ∧ y.1 / 64 = j := by
  rcases mem_foldl_csendInsert _ _ (List.mem_of_mem_take h) with h | h
  · simp at h
  · obtain ⟨hl, hj⟩ := List.mem_filter.mp h
    simp only [Bool.and_eq_true, beq_iff_eq] at hj
    exact ⟨hl, hj.1⟩

theorem csendBlock_length (l : List (Nat × Nat)) : (csendBlock t m j l).length ≤ m := List.length_take_le ..

end Blocks

/-- R320: two elements may leave in one packet: they lie in one block and on one page. -/
def Together (y z : Nat × Place × Nat) : Prop := y.1 / 64 = z.1 / 64 ∧ y.2.1.va.toNat / 65536 = z.2.1.va.toNat / 65536

theorem Together.symm {y z : Nat × Place × Nat} (h : Together y z) : Together z y := ⟨h.1.symm, h.2.symm⟩

theorem Together.trans {x y z : Nat × Place × Nat} (h : Together x y) (k : Together y z) : Together x z := ⟨h.1.trans k.1, h.2.trans k.2⟩

/-- A packet takes an element by its first. -/
def takes (x : Nat × Place × Nat) (g : List (Nat × Place × Nat)) : Bool :=
  match g with
  | [] => false
  | y :: _ => y.1 / 64 == x.1 / 64 && y.2.1.va.toNat / 65536 == x.2.1.va.toNat / 65536

/-- The packets with one more element. -/
def addElem (x : Nat × Place × Nat) (acc : List (List (Nat × Place × Nat))) : List (List (Nat × Place × Nat)) :=
  match acc.find? (takes x) with
  | some _ => acc.map (fun g => if takes x g then g ++ [x] else g)
  | none => acc ++ [[x]]

theorem csendPackets_cons (t : Nat) (x : Nat × Place × Nat) (rest : List (Nat × Place × Nat)) (acc : List (List (Nat × Place × Nat))) :
    csendPackets t (x :: rest) acc = csendPackets t rest (addElem x acc) := rfl

theorem takes_iff {x y : Nat × Place × Nat} {g : List (Nat × Place × Nat)} : takes x (y :: g) = true ↔ Together y x := by
  simp [takes, Together]

theorem mem_addElem {x y : Nat × Place × Nat} {acc : List (List (Nat × Place × Nat))} : y ∈ (addElem x acc).flatten ↔ y ∈ acc.flatten ∨ y = x := by
  unfold addElem
  split
  · next g hg =>
    have hmem := List.mem_of_find?_eq_some hg
    have htakes := List.find?_some hg
    simp only [List.mem_flatten, List.mem_map, exists_exists_and_eq_and]
    constructor
    · rintro ⟨f, hf, hy⟩
      split at hy
      · rcases List.mem_append.mp hy with hy | hy
        · exact .inl ⟨f, hf, hy⟩
        · exact .inr (List.mem_singleton.mp hy)
      · exact .inl ⟨f, hf, hy⟩
    · rintro (⟨f, hf, hy⟩ | rfl)
      · refine ⟨f, hf, ?_⟩
        split
        · exact List.mem_append_left _ hy
        · exact hy
      · exact ⟨g, hmem, by simp [htakes]⟩
  · simp

/-- Every packet holds elements of one block and one page. -/
def Grouped (acc : List (List (Nat × Place × Nat))) : Prop := ∀ g ∈ acc, ∀ y ∈ g, ∀ z ∈ g, Together y z

theorem grouped_addElem {x : Nat × Place × Nat} {acc : List (List (Nat × Place × Nat))} (h : Grouped acc) : Grouped (addElem x acc) := by
  unfold addElem
  split
  · intro f hf
    obtain ⟨g, hg, rfl⟩ := List.mem_map.mp hf
    split
    · next htakes =>
      have hx : ∀ y ∈ g, Together y x := by
        cases g with
        | nil => simp
        | cons w more => exact fun y hy => (h _ hg y hy w (List.mem_cons_self ..)).trans (takes_iff.mp htakes)
      intro y hy z hz
      rcases List.mem_append.mp hy with hy | hy <;> rcases List.mem_append.mp hz with hz | hz
      · exact h g hg y hy z hz
      · exact List.mem_singleton.mp hz ▸ hx y hy
      · exact List.mem_singleton.mp hy ▸ (hx z hz).symm
      · rw [List.mem_singleton.mp hy, List.mem_singleton.mp hz]
        exact ⟨rfl, rfl⟩
    · exact h g hg
  · intro f hf
    rcases List.mem_append.mp hf with hf | hf
    · exact h f hf
    · rw [List.mem_singleton.mp hf]
      intro y hy z hz
      rw [List.mem_singleton.mp hy, List.mem_singleton.mp hz]
      exact ⟨rfl, rfl⟩

/-- R320: the packets hold the elements, each packet those of one block and one page. -/
theorem csendPackets_spec (t : Nat) (l : List (Nat × Place × Nat)) (acc : List (List (Nat × Place × Nat))) (h : Grouped acc) :
    (∀ y, y ∈ (csendPackets t l acc).flatten ↔ y ∈ acc.flatten ∨ y ∈ l) ∧ Grouped (csendPackets t l acc) := by
  induction l generalizing acc with
  | nil => exact ⟨fun y => by simp [csendPackets], h⟩
  | cons x rest ih =>
    obtain ⟨hmem, hgrouped⟩ := ih (addElem x acc) (grouped_addElem h)
    rw [csendPackets_cons]
    refine ⟨fun y => ?_, hgrouped⟩
    rw [hmem, mem_addElem, List.mem_cons]
    tauto

/-! Registrations (R326). -/

section Grant

variable {s s1 : State} {o : Ops} {dst : List (Place × Nat)} (hrange : grantRange (s.srcG o.A).toNat (s.srcG o.B).toNat = true)
  (hplaces : grantPlaces (if (s.srcG o.A).toNat / 2 ^ 62 % 4 == 2 then s.who .vector else { s.who .vector with level := .s }) s
    (if (s.srcG o.A).toNat / 2 ^ 62 % 4 == 2 then [(s.srcG o.A, (s.srcG o.B).toNat)] else partsOf (s.srcG o.A) (s.srcG o.B).toNat) = .ok dst s1)
include hrange hplaces

theorem grant_full (hnone : freeRegistration s1 (destDie s1 dst) = none) :
    exec (.grant o) s = .next (s1.retireKeep (fun t => t.writeG o.D (BitVec.allOnes 64))) := by
  change grantPlaces (if bitsOf (s.srcG o.A).toNat 63 62 == 2 then _ else _) s (if bitsOf (s.srcG o.A).toNat 63 62 == 2 then _ else _) = _ at hplaces
  change execGrant o s = _
  simp only [execGrant, hrange, Bool.not_true, Bool.false_eq_true, if_false, hplaces, queuedAccOut, hnone]
  rfl

/-- The die whose table takes a registration of the current strand's VI, in entry `e`. -/
def withRegistration (s : State) (die e : Nat) (base : Word) (n : Nat) : State :=
  s.setDie die { s.die die with regs := cellPut (s.die die).regs e { vi := s.cpu.vi, base := base, bytes := n, revoking := false } }

theorem grant_registers {e : Nat} (hfree : freeRegistration s1 (destDie s1 dst) = some e) : exec (.grant o) s =
    .next ((withRegistration s1 (destDie s1 dst) e (s.srcG o.A) (s.srcG o.B).toNat).retireKeep (fun t => t.writeG o.D
      (BitVec.ofNat 64 (((vaDie (s.srcG o.A).toNat).getD (0, 0)).1 * 65536 + ((vaDie (s.srcG o.A).toNat).getD (0, 0)).2 * 4096 + e)))) := by
  change grantPlaces (if bitsOf (s.srcG o.A).toNat 63 62 == 2 then _ else _) s (if bitsOf (s.srcG o.A).toNat 63 62 == 2 then _ else _) = _ at hplaces
  change execGrant o s = _
  simp only [execGrant, hrange, Bool.not_true, Bool.false_eq_true, if_false, hplaces, queuedAccOut, hfree]
  rfl

end Grant

theorem regs_withRegistration (s : State) (die e : Nat) (base : Word) (n : Nat) (d : Registration) :
    cellGet d ((withRegistration s die e base n).die die).regs e = { vi := s.cpu.vi, base := base, bytes := n, revoking := false } := by
  rw [withRegistration, die_setDie, cellGet_cellPut_same]

theorem lookup_cellDrop {α : Type} (c : Cells α) (n : Nat) : (cellDrop c n).lookup n = none := by
  rw [List.lookup_eq_none_iff]
  intro x hx
  have hne : x.1 ≠ n := by simpa using (List.mem_filter.mp hx).2
  simpa using hne.symm

section Revoke

variable {s : State} {o : Ops} {h : Nat × Nat} (hh : handleOf s s.cpu.pkg s.cpu.vi (s.srcG o.A).toNat = some h)
include hh

theorem revoke_frees (hnb : o.nb = false) (hbusy : entryBusy s h = false) : exec (.revoke o) s = .next ((freeEntry s h).retireKeep id) := by
  change execRevoke o s = _
  simp only [execRevoke, hnb, hh, hbusy, Bool.false_and, Bool.false_eq_true, if_false]

theorem revoke_waits (hnb : o.nb = false) (hbusy : entryBusy s h = true) : exec (.revoke o) s = .next (markRevoking s h).park := by
  change execRevoke o s = _
  simp only [execRevoke, hnb, hh, hbusy, Bool.false_and, Bool.false_eq_true, if_false, if_true]

theorem revoke_issues (hnb : o.nb = true) (hcc : ccFull s o.ccNo = false) :
    exec (.revoke o) s = .next ((issueNb (markRevoking s h) o.ccNo false none [({ kind := .pg, ha := 0, va := s.srcG o.A }, .revoke (s.srcG o.A))]).retireKeep id) := by
  change execRevoke o s = _
  simp only [execRevoke, hnb, hcc, hh, Bool.and_false, Bool.false_eq_true, if_false, if_true]

end Revoke

theorem freeEntry_free (s : State) (h : Nat × Nat) : ((freeEntry s h).die h.1).regs.lookup h.2 = none := by
  rw [freeEntry, die_setDie, lookup_cellDrop]

/-! Words written into a table's entry (R136, R325). -/

theorem memWrite_append (bs cs : List Byte) (m : Memory) (a : Nat) : memWrite m a (bs ++ cs) = memWrite (memWrite m a bs) (a + bs.length) cs := by
  induction bs generalizing m a with
  | nil => rfl
  | cons b bs ih =>
    rw [List.cons_append, memWrite, ih, memWrite, List.length_cons]
    congr 1
    omega

theorem memWord_memWrite_words (words : List Nat) (m : Memory) (a : Nat) {i x : Nat} (h : words[i]? = some x) :
    memWord (memWrite m a ((words.map (leBytes 8)).flatten)) (a + 8 * i) = x % 2 ^ 64 := by
  induction words generalizing m a i with
  | nil => simp at h
  | cons w rest ih =>
    rw [List.map_cons, List.flatten_cons, memWrite_append, leBytes_length]
    cases i with
    | zero =>
      cases h
      change memWord (memWrite _ (a + 8) _) a = _
      rw [memWord_memWrite_apart _ (.inl (Nat.le_refl _)), memWord_memWrite_same]
    | succ j =>
      rw [show a + 8 * (j + 1) = a + 8 + 8 * j by omega]
      exact ih _ _ h

theorem memWord_putPhys (s : State) (ha : Nat) (words : List Nat) {i x : Nat} (h : words[i]? = some x) :
    memWord (putPhys s ha words).mem (ha + 8 * i) = x % 2 ^ 64 := memWord_memWrite_words words s.mem ha h

/-- R3: a byte outside the words written reads as before. -/
theorem memGet_putPhys_outside (s : State) {ha a : Nat} {words : List Nat} (h : a < ha ∨ ha + 8 * words.length ≤ a) :
    memGet (putPhys s ha words).mem a = memGet s.mem a := by
  have hlen : ((words.map (leBytes 8)).flatten).length = 8 * words.length := by
    rw [List.length_flatten, List.map_map, show List.length ∘ leBytes 8 = fun _ => 8 from funext (leBytes_length 8)]
    simp [Nat.mul_comm]
  exact (memGet_memWrite ..).trans (if_neg (by omega))

theorem noticed_putPhys (s : State) (ha : Nat) (words : List Nat) : Noticed s.cpu (putPhys s ha words).cpu := noticed_noteStrand ..

theorem queue_of_noticed {t u : Strand} (h : Noticed t u) : u.queue = t.queue := by
  obtain ⟨_, _, _, _, rfl⟩ := h
  rfl

theorem pkg_of_noticed {t u : Strand} (h : Noticed t u) : u.pkg = t.pkg := by
  obtain ⟨_, _, _, _, rfl⟩ := h
  rfl

theorem refuseWrites_keeps (s : State) (key : Nat) (pages : List (Nat × Nat)) : (refuseWrites s key pages).mem = s.mem := by
  unfold refuseWrites
  induction pages generalizing s with
  | nil => rfl
  | cons x rest ih => exact ih _

/-! Windows (R136, R137, R325). -/

section Wopen

variable {s : State} {o : Ops} {index target length entry : Nat} (hindex : index = (s.srcB o.b).toNat) (htarget : target = (s.srcG o.A).toNat)
  (hlength : length = (s.srcG o.C).toNat) (hentry : entry = winEntryAt s s.cpu.pkg s.cpu.vi index) (hin : windowBeyond s s.cpu.vi index = false)
include hindex htarget hlength hentry hin

theorem wopen_opens (hok : windowRangeOk target length = true) (hclosed : memWord s.mem (entry + 16) % 4 = 0) :
    exec (.wopen o) s = .next ((putPhys (refuseWrites s (windowKey s.cpu.vi index) (windowPages s s.cpu.pkg s.cpu.vi target length)) entry
      [target, length, 1]).retireKeep id) := by
  have hlow : bitsOf (memWord s.mem (entry + 16)) 1 0 = 0 := by simpa [bitsOf] using hclosed
  change execWopen o s = _
  simp only [execWopen, ← hindex, ← htarget, ← hlength, ← hentry, hin, hok, hlow, Bool.not_true, Bool.false_eq_true, or_self, if_false, ne_eq, not_true]

end Wopen

theorem wopen_writes {s : State} {o : Ops} (hin : windowBeyond s s.cpu.vi (s.srcB o.b).toNat = false)
    (hok : windowRangeOk (s.srcG o.A).toNat (s.srcG o.C).toNat = true) {entry : Nat} (hentry : entry = winEntryAt s s.cpu.pkg s.cpu.vi (s.srcB o.b).toNat)
    (hclosed : memWord s.mem (entry + 16) % 4 = 0) :
    ∃ t, exec (.wopen o) s = .next t ∧ memWord t.mem entry = (s.srcG o.A).toNat ∧ memWord t.mem (entry + 8) = (s.srcG o.C).toNat
      ∧ memWord t.mem (entry + 16) = 1 ∧ ∀ a, a < entry ∨ entry + 24 ≤ a → memGet t.mem a = memGet s.mem a := by
  refine ⟨_, wopen_opens rfl rfl rfl hentry hin hok hclosed, ?_⟩
  rw [retireKeep_mem]
  have hmem := refuseWrites_keeps s (windowKey s.cpu.vi (s.srcB o.b).toNat) (windowPages s s.cpu.pkg s.cpu.vi (s.srcG o.A).toNat (s.srcG o.C).toNat)
  generalize refuseWrites s (windowKey s.cpu.vi (s.srcB o.b).toNat) _ = u at hmem ⊢
  have hword {i x : Nat} (h : [(s.srcG o.A).toNat, (s.srcG o.C).toNat, 1][i]? = some x) := memWord_putPhys u entry _ h
  refine ⟨(hword (i := 0) rfl).trans (Nat.mod_eq_of_lt (s.srcG o.A).isLt), (hword (i := 1) rfl).trans (Nat.mod_eq_of_lt (s.srcG o.C).isLt),
    hword (i := 2) rfl, fun a ha => ?_⟩
  exact (memGet_putPhys_outside u ha).trans (congrArg (memGet · a) hmem)

/-- R325: every package of the node map is one of those that a shoot-down goes to. -/
theorem mem_nodePackages {s : State} {vi n p : Nat} (hn : n < low 23 (s.vi vi).nodecnt.toNat) (hp : nodeOf s s.cpu.pkg vi n = some p) :
    p ∈ nodePackages s vi := by
  rw [nodePackages, List.mem_eraseDups, List.mem_filterMap]
  exact ⟨n, List.mem_range.mpr hn, hp⟩

theorem nodeOf_congr {s t : State} (hmem : t.mem = s.mem) (hvis : t.vis = s.vis) (hpkgs : t.pkgs = s.pkgs) (pkg vi n : Nat) :
    nodeOf t pkg vi n = nodeOf s pkg vi n := by
  rw [nodeOf, nodeOf, State.vi, State.vi, State.pkg, State.pkg, hmem, hvis, hpkgs]

theorem nodePackages_congr {s t : State} (hmem : t.mem = s.mem) (hvis : t.vis = s.vis) (hpkgs : t.pkgs = s.pkgs) (hpkg : t.cpu.pkg = s.cpu.pkg) (vi : Nat) :
    nodePackages t vi = nodePackages s vi := by
  rw [nodePackages, nodePackages, funext (nodeOf_congr hmem hvis hpkgs t.cpu.pkg vi), hpkg, State.vi, State.vi, hvis]

theorem mem_shootdowns {s : State} {vi index op : Nat} {nodes : List Nat} {k : Packet} (h : k ∈ shootdowns s vi index op nodes) :
    k.kind = .shootdown ∧ k.x = index ∧ k.y = op ∧ k.vi = vi ∧ k.dstPkg ∈ nodes := by
  obtain ⟨p, hp, rfl⟩ := List.mem_map.mp h
  exact ⟨rfl, rfl, rfl, rfl, hp⟩

theorem shootdowns_reach (s : State) (vi index op : Nat) {nodes : List Nat} {p : Nat} (h : p ∈ nodes) :
    ∃ k ∈ shootdowns s vi index op nodes, k.kind = .shootdown ∧ k.y = op ∧ k.dstPkg = p :=
  ⟨_, List.mem_map.mpr ⟨p, h, rfl⟩, rfl, rfl, rfl⟩

/-- R325: the entry of a window as a WREVOKE leaves it, revoking. -/
def revokingEntry (s : State) (entry : Nat) : State := putPhys s.fresh.2 (entry + 16) [3]

/-- R325: the head sends a shoot-down to every package of the node map, and waits for their answers. -/
def shootsDown (s : State) (vi index op : Nat) : State :=
  (onHead { s with wire := s.wire ++ shootdowns s vi index op (nodePackages s vi) }
    (fun e => { e with begun := true, op := op, acks := nodePackages s vi })).park

section Wrevoke

variable {s : State} {o : Ops} {index entry : Nat} (hindex : index = (s.srcB o.b).toNat) (hentry : entry = winEntryAt s s.cpu.pkg s.cpu.vi index)
include hindex hentry

theorem wrevoke_begins (hin : windowBeyond s s.cpu.vi index = false) (hopen : memWord s.mem (entry + 16) % 2 = 1) (hb : headBegun s = none) :
    exec (.wrevoke o) s = .next (shootsDown (revokingEntry s entry) s.cpu.vi index s.next) := by
  have hlow : bitsOf (memWord s.mem (entry + 16)) 0 0 = 1 := by simpa [bitsOf] using hopen
  change execWrevoke o s = _
  simp only [execWrevoke, ← hindex, ← hentry, hb, hin, hlow, Bool.false_eq_true, false_or, one_ne_zero, if_false]
  rfl

theorem wrevoke_closes {op : Nat} (hb : headBegun s = some op) (ha : headAcks s = []) :
    exec (.wrevoke o) s = .next ((acceptWrites (putPhys s (entry + 16) [0, memWord s.mem (entry + 24) + 1]) (windowKey s.cpu.vi index)).retireKeep id) := by
  change execWrevoke o s = _
  simp only [execWrevoke, ← hindex, ← hentry, hb, ha, List.isEmpty_nil, Bool.not_true, Bool.false_eq_true, if_false]

omit hentry in
theorem wrevoke_resends {op : Nat} (hb : headBegun s = some op) (ha : headAcks s ≠ []) :
    exec (.wrevoke o) s = .next (resendShootdowns s s.cpu.vi index op).park := by
  have hempty : (headAcks s).isEmpty = false := by simpa using ha
  change execWrevoke o s = _
  simp only [execWrevoke, ← hindex, hb, hempty, Bool.not_false, if_true]

end Wrevoke

theorem nodeOf_shootsDown (s : State) (vi index op pkg v n : Nat) : nodeOf (shootsDown s vi index op) pkg v n = nodeOf s pkg v n :=
  nodeOf_congr (s := s) (t := shootsDown s vi index op) rfl rfl rfl pkg v n

theorem shootsDown_head {s : State} (hq : s.cpu.queue ≠ []) (vi index op : Nat) :
    headBegun (shootsDown s vi index op) = some op ∧ headAcks (shootsDown s vi index op) = nodePackages (shootsDown s vi index op) vi := by
  obtain ⟨e, rest, hq⟩ := List.exists_cons_of_ne_nil hq
  rw [nodePackages_congr (s := s) (t := shootsDown s vi index op) rfl rfl rfl rfl]
  simp [headBegun, headAcks, shootsDown, onHead, State.onCpu, State.park, hq]

theorem wrevoke_sends {s : State} {o : Ops} {entry : Nat} (hentry : entry = winEntryAt s s.cpu.pkg s.cpu.vi (s.srcB o.b).toNat)
    (hin : windowBeyond s s.cpu.vi (s.srcB o.b).toNat = false) (hopen : memWord s.mem (entry + 16) % 2 = 1) (hb : headBegun s = none) (hq : s.cpu.queue ≠ []) :
    ∃ t op, exec (.wrevoke o) s = .next t ∧ t.cpu.parked = true ∧ memWord t.mem (entry + 16) = 3 ∧ headBegun t = some op
      ∧ headAcks t = nodePackages t s.cpu.vi
      ∧ ∃ l, t.wire = s.wire ++ l ∧ (∀ k ∈ l, k.kind = .shootdown ∧ k.x = (s.srcB o.b).toNat ∧ k.y = op ∧ k.vi = s.cpu.vi)
        ∧ ∀ n < low 23 (s.vi s.cpu.vi).nodecnt.toNat, ∀ p, nodeOf t s.cpu.pkg s.cpu.vi n = some p → ∃ k ∈ l, k.dstPkg = p := by
  have hqueue : (revokingEntry s entry).cpu.queue = s.cpu.queue := queue_of_noticed (noticed_putPhys s.fresh.2 ..)
  have hpkg : (revokingEntry s entry).cpu.pkg = s.cpu.pkg := pkg_of_noticed (noticed_putPhys s.fresh.2 ..)
  have hword : memWord (revokingEntry s entry).mem (entry + 16) = 3 :=
    memWord_putPhys s.fresh.2 (entry + 16) [3] (i := 0) rfl
  obtain ⟨hbegun, hacks⟩ := shootsDown_head (hqueue.symm ▸ hq) s.cpu.vi (s.srcB o.b).toNat s.next
  refine ⟨_, s.next, wrevoke_begins rfl hentry hin hopen hb, rfl, hword, hbegun, hacks,
    shootdowns (revokingEntry s entry) s.cpu.vi (s.srcB o.b).toNat s.next (nodePackages (revokingEntry s entry) s.cpu.vi), rfl, fun k hk => ?_, fun n hn p hp => ?_⟩
  · obtain ⟨hkind, hx, hy, hvi, -⟩ := mem_shootdowns hk
    exact ⟨hkind, hx, hy, hvi⟩
  · rw [nodeOf_shootsDown, ← hpkg] at hp
    have hmem : p ∈ nodePackages (revokingEntry s entry) s.cpu.vi := mem_nodePackages hn hp
    obtain ⟨k, hk, -, -, hdst⟩ := shootdowns_reach (revokingEntry s entry) s.cpu.vi (s.srcB o.b).toNat s.next hmem
    exact ⟨k, hk, hdst⟩

/-- R325: once the homes accept writes again, no page refuses them for the window. -/
theorem acceptWrites_accepts (s : State) (key k : Nat) : ∀ f ∈ ((acceptWrites s key).chan k).refuse, f.2 ≠ key := by
  intro f hf
  rw [State.chan, acceptWrites, cellGet_map (f := fun x : ChanSt => { x with refuse := x.refuse.filter (fun y => y.2 ≠ key) }) rfl] at hf
  simpa using (List.mem_filter.mp hf).2

theorem wrevoke_ends {s : State} {o : Ops} {entry op : Nat} (hentry : entry = winEntryAt s s.cpu.pkg s.cpu.vi (s.srcB o.b).toNat)
    (hb : headBegun s = some op) (ha : headAcks s = []) (hgen : memWord s.mem (entry + 24) + 1 < 2 ^ 64) :
    ∃ t, exec (.wrevoke o) s = .next t ∧ memWord t.mem (entry + 16) = 0 ∧ memWord t.mem (entry + 24) = memWord s.mem (entry + 24) + 1
      ∧ t.cpu.queue = s.cpu.queue.drop 1 ∧ ∀ k f y, f ∈ (t.chan k).refuse → f = (y, windowKey s.cpu.vi (s.srcB o.b).toNat) → False := by
  have hqueue := queue_of_noticed (noticed_putPhys s (entry + 16) [0, memWord s.mem (entry + 24) + 1])
  have hword {i x : Nat} (h : [0, memWord s.mem (entry + 24) + 1][i]? = some x) := memWord_putPhys s (entry + 16) _ h
  refine ⟨_, wrevoke_closes rfl hentry hb ha, hword (i := 0) rfl, (hword (i := 1) rfl).trans (Nat.mod_eq_of_lt hgen), congrArg (List.drop 1) hqueue,
    fun k f y hf he => acceptWrites_accepts _ _ k f hf (he ▸ rfl)⟩

/-- R325: the packages that have not acknowledged, and to which no shoot-down is on its way. -/
def lostAcks (s : State) (op : Nat) : List Nat := (headAcks s).filter (fun p => !s.wire.any (fun (k : Packet) => k.kind = .shootdown && k.y = op && k.dstPkg = p))

theorem wrevoke_waits {s : State} {o : Ops} {op : Nat} (hb : headBegun s = some op) (ha : headAcks s ≠ []) :
    ∃ t, exec (.wrevoke o) s = .next t ∧ t.cpu.parked = true ∧ t.mem = s.mem ∧ headAcks t = headAcks s
      ∧ ∃ l, t.wire = s.wire ++ l ∧ (∀ p ∈ headAcks s, ∃ k ∈ t.wire, k.kind = .shootdown ∧ k.y = op ∧ k.dstPkg = p)
        ∧ ∀ k ∈ l, k.kind = .shootdown ∧ k.x = (s.srcB o.b).toNat ∧ k.y = op ∧ k.dstPkg ∈ headAcks s := by
  refine ⟨_, wrevoke_resends rfl hb ha, rfl, rfl, rfl, shootdowns s s.cpu.vi (s.srcB o.b).toNat op (lostAcks s op), rfl,
    fun p hp => ?_, fun k hk => ?_⟩
  · by_cases hsent : s.wire.any (fun k => k.kind = .shootdown && k.y = op && k.dstPkg = p) = true
    · obtain ⟨k, hk, hshot⟩ := List.any_eq_true.mp hsent
      simp only [Bool.and_eq_true, decide_eq_true_eq] at hshot
      obtain ⟨⟨hkind, hy⟩, hdst⟩ := hshot
      exact ⟨k, List.mem_append_left _ hk, hkind, hy, hdst⟩
    · have hlost : p ∈ lostAcks s op := List.mem_filter.mpr ⟨hp, by rw [Bool.eq_false_of_not_eq_true hsent, Bool.not_false]⟩
      obtain ⟨k, hk, hshot⟩ := shootdowns_reach s s.cpu.vi (s.srcB o.b).toNat op hlost
      exact ⟨k, List.mem_append_right _ hk, hshot⟩
  · obtain ⟨hkind, hx, hy, -, hdst⟩ := mem_shootdowns hk
    exact ⟨hkind, hx, hy, (List.mem_filter.mp hdst).1⟩

/-- Settles O54: a transfer that starts translates, then sends its pieces; one that has been answered ends as they have; a window's entry changes as R325 says. -/
theorem fabricComplete : Obligations.FabricComplete := by
  intro s s1 s2 s3 s4 s5 o src dst cp x w b flag
  refine ⟨rsend_waits, fun hs hq hn hdie hc hsrc hdst hcp => ⟨fun hnb hread => ?_, rsend_issues hs hq hn hdie hc hsrc hdst hcp⟩,
    fun hs hn hown hc hsrc hdst hcp => ⟨fun hnb hcc => ?_, fun hnb => ?_⟩,
    fun i hi e rest h => ⟨bulk_waits hi h, bulk_completes hi h, fun k c tv => bulk_traps hi h⟩, xsend_rests, fun l y hr hl => ?_, fun hd => ?_,
    fun hrange hplaces => ⟨grant_full hrange hplaces, fun e hfree => ?_⟩,
    fun h hh => ⟨fun hnb hbusy => ⟨_, revoke_frees hh hnb hbusy, freeEntry_free s h, rfl, rfl⟩, revoke_waits hh, revoke_issues hh⟩,
    fun hin hok hclosed => wopen_writes hin hok rfl hclosed, fun hin hopen hb hq => wrevoke_sends rfl hin hopen hb hq, fun op hb ha hgen => wrevoke_ends rfl hb ha hgen,
    fun op hb ha => wrevoke_waits hb ha⟩
  · rw [rsend_sends hs hq hn hdie hc hsrc hdst hcp hnb hread, bulkPlaces_eq]
    rfl
  · rw [rfetch_translated hs hn hown hc hsrc hdst hcp (by simp [hcc]), if_pos hnb]
  · rw [rfetch_translated hs hn hown hc hsrc hdst hcp (by simp [hnb]), if_neg (by simp [hnb])]
  · refine ⟨xsend_issues hr hl, fun hnb hs hclaim hcl => xsend_refused hr hl hnb hs hclaim hcl, fun hnb hs hclaim hcl sps dps hsrc hdst hread => ?_,
      fun e rest hnb h => ⟨xsend_waits hr hl hnb h, fun k ha hf hk hclaimed hfill => xsend_fills hr hl hnb h ha hf hk hclaimed hfill⟩⟩
    rw [xsend_claims hr hl hnb hs hclaim hcl, xsendClaimed_sends hsrc hdst hread]
  · refine ⟨csend_vl0 hd, fun els hvl habn hal hs htr => ?_, fun e rest hvl habn hal hnb h => ⟨csend_waits hd hvl habn hal hnb h, fun ha hf => ?_,
      fun k c tv ha hl => ?_⟩, fun j i hi => ?_, fun j => csendBlock_length _, fun l => ?_⟩
    · have hexec := csend_starts hd hvl habn hal hs (els := els) (s1 := s1)
      refine ⟨fun hnb hcc => ?_, fun hnb hnone => ?_, fun hnb hsome => ?_⟩
      · exact (hexec (by simp [hcc]) htr).trans (if_pos hnb)
      · exact (hexec (by simp [hnb]) htr).trans ((if_neg (by simp [hnb])).trans (if_pos hnone))
      · exact (hexec (by simp [hnb]) htr).trans ((if_neg (by simp [hnb])).trans (if_neg hsome))
    · exact (csend_answered hd hvl habn hal hnb h ha).trans (csendDone_completes h hf)
    · rw [csend_answered hd hvl habn hal hnb h ha]
      exact csendDone_traps hl
    · obtain ⟨y, hy, rfl⟩ := List.mem_map.mp hi
      obtain ⟨hmem, hj⟩ := mem_csendBlock hy
      obtain ⟨k, hk, rfl⟩ := List.mem_map.mp hmem
      exact ⟨hk, hj⟩
    · obtain ⟨hmem, hgrouped⟩ := csendPackets_spec o.T l [] (fun _ h => absurd h (List.not_mem_nil))
      exact ⟨fun y => by simpa using hmem y, hgrouped⟩
  · refine ⟨_, grant_registers hrange hplaces hfree, rfl, writeG_v .., regs_withRegistration .., fun hD => readG_writeG_same _ _ _ hD⟩

/-! A saved member of a collective (R324, R360). -/

theorem wordsBytes_length (l : List Nat) : (wordsBytes l).length = 8 * l.length := by
  induction l with
  | nil => rfl
  | cons x rest ih =>
    rw [wordsBytes, List.flatMap_cons, List.length_append, leBytes_length, List.length_cons]
    change 8 + (wordsBytes rest).length = _
    omega

theorem padTo_length (n : Nat) (l : List Byte) : (padTo n l).length = n := by
  simp only [padTo, zeros, List.length_append, List.length_take, List.length_replicate]
  omega

theorem getD_padTo_past {n k : Nat} {l : List Byte} (h : l.length ≤ k) : (padTo n l).getD k 0 = 0 := by
  rw [padTo, List.getD_append_right _ _ _ _ (by simp; omega), zeros]
  simp

/-- R343: without a run, the words of the runs are 0. -/
theorem getD_imageBody_no_runs (t : Strand) {k : Nat} (hlow : 928 ≤ k) (hhigh : k < 1536) : (imageBody t []).getD k 0 = 0 := by
  have hregs : (wordsBytes ((List.range 64).map (fun n => (t.readG n).toNat))).length = 512 := by simp [wordsBytes_length]
  have hblock : (wordsBytes (blockWords t [])).length = 416 := by simp [wordsBytes_length, blockWords]
  simp only [imageBody, List.append_assoc]
  rw [List.getD_append_right _ _ _ _ (by omega), hregs, List.getD_append _ _ _ _ (by rw [padTo_length]; omega)]
  exact getD_padTo_past (by omega)

theorem imageBody_length (t : Strand) (runs : List CollRun) : 1536 ≤ (imageBody t runs).length := by
  simp only [imageBody, List.length_append, wordsBytes_length, padTo_length, List.length_map, List.length_range]
  omega

theorem imageBody_ne_nil (t : Strand) (runs : List CollRun) : imageBody t runs ≠ [] :=
  List.ne_nil_of_length_pos (Nat.lt_of_lt_of_le (by decide) (imageBody_length t runs))

/-- R323: a run whose graph is not defined, and of which no piece is on its way, has ended. -/
theorem liveRuns_none {s : State} (hgraphs : ∀ k, (s.die k).graphs = []) (hpieces : s.pieces = []) (t : Strand) : liveRuns s t = [] := by
  refine List.filter_eq_nil_iff.mpr (fun r _ => ?_)
  have hended : runEnded s t r = true := by simp [runEnded, runGraph, hgraphs, hpieces]
  simp [hended]

/-- R168: the change of a saved strand is written into its image. -/
theorem onImage_mem {s : State} {x : Saved} (f : Strand → Strand) (hkept : (x.lost || x.stopped || imageNumber s x.at_ != x.number) = false)
    (hpoison : s.poison = []) (hplain : (s.chan (haChanKey (x.at_ + 0x40))).regs = []) (hw : frameRefused s (x.at_ + 0x40) = false) :
    ∃ t, (onImage s x f).mem = memWrite s.mem (x.at_ + 0x40) (imageBody t (liveRuns s t)) := by
  have hsound (t : State) (h : t.poison = []) (ha n : Nat) : homePoisoned t ha n = false := by simp [homePoisoned, h]
  rw [onImage, if_neg (by simp [hkept])]
  dsimp only
  rw [if_neg (by simp [hsound s hpoison])]
  exact ⟨_, homeWrite_plain_mem _ _ _ _ _ _ (imageBody_ne_nil _ _) ⟨.inr hplain, hsound _ hpoison ..⟩ hw⟩

/-- R324: a run of a slot as its expiry leaves it. -/
def abortRun (r : CollRun) : CollRun := { r with status := 4, step := 256 }

/-- A strand with one run changed. -/
def withRun (id : Nat) (f : CollRun → CollRun) (t : Strand) : Strand := { t with runs := t.runs.map (fun r => if r.id = id then f r else r) }

/-- R360: a mark on a run of a task that is on no strand goes into its image. -/
theorem markRuns_saved {s : State} {tid id : Nat} (f : CollRun → CollRun) (h : s.strands.any (fun t => t.tid = tid) = false) :
    markRuns s [(tid, id)] f = onSaved s tid (withRun id f) := by
  simp only [markRuns, List.foldl_cons, List.foldl_nil, h]
  rfl

theorem onSaved_one {s : State} {x : Saved} {tid : Nat} (f : Strand → Strand) (h : s.saved.filter (fun x => x.strand.tid = tid) = [x]) :
    onSaved s tid f = onImage s x f := by rw [onSaved, h, List.foldl_cons, List.foldl_nil]

/-- The slots of a die that have expired. -/
def expiredSlots (s : State) (die : Nat) : List CombineSlot := (s.die die).combine.filter (fun x => x.expired s.time)

/-- A die without them. -/
def withoutExpired (s : State) (die : Nat) : State :=
  s.setDie die { s.die die with combine := (s.die die).combine.filter (fun x => !x.expired s.time),
                                aborted := (s.die die).aborted ++ (expiredSlots s die).map (·.key) }

theorem combineSlotExpiry_mem (s : State) : ∃ u, exec .combineSlotExpiry s = .next u
    ∧ u.mem = (markRuns (withoutExpired s s.arg.key) ((expiredSlots s s.arg.key).flatMap (·.runs)) abortRun).mem := ⟨_, rfl, rfl⟩

/-- A slot with a contribution of run 0 of task 1, which a pre-emption has left partly filled since time 0. -/
def partSlot : CombineSlot :=
  { key := 0, vi := 0, missing := 1, ty := 2, op := 0, values := [0], bytes := 4, dest := { kind := .pg, ha := 0x10000, va := 0x10000 }, counter := none,
    saturated := false, bad := [], since := some 0, runs := [(1, 0)] }

/-- Task 1, saved as number 1 at address 0. -/
def savedMember : Saved := { strand := { tid := 1 }, at_ := 0, slot := some 0, lost := false, region := none, number := 1 }

/-- A machine 10 ms later. The image of task 1 carries the number of its save, and holds run 0: the mark of a run is bit 32 of the third of its words. -/
def expiring : State :=
  { mem := [(0x20, 1), (0x3F4, 1)], time := 10000000, dies := [(0, { combine := [partSlot] })], saved := [savedMember] }

theorem expiredSlots_expiring : expiredSlots expiring 0 = [partSlot] := by decide

/-- R324: the run that waits on the slot ends; its strand is saved, so that its image changes. -/
theorem combineSlotExpiry_expiring : ∃ u, exec .combineSlotExpiry expiring = .next u
    ∧ u.mem = (onImage (withoutExpired expiring 0) savedMember (withRun 0 abortRun)).mem := by
  obtain ⟨u, hexec, hmem⟩ := combineSlotExpiry_mem expiring
  refine ⟨u, hexec, hmem.trans (congrArg State.mem ?_)⟩
  rw [show expiring.arg.key = 0 from rfl, expiredSlots_expiring, show [partSlot].flatMap (·.runs) = [(1, 0)] from rfl, markRuns_saved _ (by decide),
    onSaved_one (x := savedMember) _ (by decide)]

theorem withoutExpired_graphs (k : Nat) : ((withoutExpired expiring 0).die k).graphs = [] := by
  by_cases h : k = 0
  · rw [h]
    rfl
  · rw [State.die, withoutExpired, setDie_dies, cellGet_cellPut_other _ _ _ _ _ h]
    simp [expiring, cellGet, Ne.symm h]

/-- Refutes O55: the statement has COMBINE_SLOT_EXPIRY change no byte of memory. A run that waits on a discarded slot may belong to a task that is saved (it is
a pre-emption that left the slot partly filled), and its status then changes in the task's image, which is in memory (R168, R360). The run of the image ends
here, so that the image no longer holds it. -/
theorem not_collectivesComplete : ¬ Obligations.CollectivesComplete := by
  intro h
  obtain ⟨-, -, -, -, -, -, -, u, hu, -, hmem, -⟩ := h expiring expiring expiring expiring expiring ⟨0, 0, 0, 0, 0, .imm 0⟩ { bytes := [] } { bytes := [] }
    { ty := 0, op := 0, steps := [] } 0 0 0 [] [] none []
  obtain ⟨v, hv, hvmem⟩ := combineSlotExpiry_expiring
  obtain rfl : u = v := Host.Outcome.next.inj (hu.symm.trans hv)
  obtain ⟨t, hwritten⟩ := onImage_mem (s := withoutExpired expiring 0) (x := savedMember) (withRun 0 abortRun) (by decide) rfl rfl rfl
  rw [liveRuns_none withoutExpired_graphs rfl] at hwritten
  have hbefore : memGet u.mem 0x3F4 = 1 := by
    rw [hmem]
    rfl
  have hafter : memGet u.mem 0x3F4 = 0 := by
    have hlen := imageBody_length t []
    rw [hvmem, hwritten, memGet_memWrite, if_pos ⟨by decide, by omega⟩, getD_imageBody_no_runs t (by decide) (by decide)]
  rw [hbefore] at hafter
  exact absurd hafter (by decide)

end Sys2Proof.Proofs.Streams
